-- ==== Sys2Proof/Word.lean ====
section
/-!
DEFINITION. Sys2Proof/Word.lean: the word types of the device and the initiators' numbers. Registers are 32 bits
wide and little-endian (R6); memory is addressed by bytes.
-/
namespace Sys2Proof

/-- A control register (R6). -/
abbrev Word := BitVec 32

/-- One byte of memory. -/
abbrev Byte := BitVec 8

/-- An initiator of control-space accesses: S0 to S7 are 0 to 7, the host is 8 (R9, R15). The number is also the
instance `s` of every per-initiator register group (R153, R207). -/
abbrev Who := Fin 9

/-- The host as an initiator. -/
abbrev Who.host : Who := 8

/-- A context ID, 0 to 1,023 (R167). -/
abbrev Ctx := Nat

/-- A table with a default: the entries that differ from it, by rising key. -/
abbrev Sparse (α : Type) := List (Nat × α)

end Sys2Proof
end

