-- ==== Sys2Proof/Syntax.lean ====
section
/-!
DEFINITION. Sys2Proof/Syntax.lean: the commands the device takes, one constructor for each row of
spec/opcode_table.json. A command is what an agent or a physical event does to the device in one indivisible step
(spec/95_what_each_step_holds.md). Its operands are what the initiator names or the outside world delivers;
everything else the step needs is in the state.
-/
namespace Sys2Proof

/-- The block IDs of Tables 1.1 and 1.2; no other is used (R13). -/
def Block.named (b : Nat) : Bool :=
  b ≤ 0x14 || (0x20 ≤ b && b ≤ 0x3B) || (0x40 ≤ b && b ≤ 0x67) || (0x80 ≤ b && b ≤ 0xE6) || b = 0xFE || b = 0xFF

/-- A request for Idle: who writes it, and the steward cores that do not wait for an interrupt when it takes effect (Table
18.4). -/
structure IdleRequest where
  who : Who
  busy : BitVec 8
  deriving DecidableEq, Repr

/-- A Lock operation that the Lock unit accepts in one cycle together with another (R199, Table 8.3). -/
inductive LockOp where
  | add (who : Who) (lock : Nat) (value : Word)
  | set (who : Who) (lock : Nat) (value : Word)
  deriving DecidableEq, Repr

/-- An entry of the Lock unit's wait table, by what waits (R200). -/
inductive WaitId where
  | kernel (c : Ctx)
  | barge (slot : Nat)
  /-- The `k`-th armed wait of an initiator, oldest first. -/
  | armed (who : Who) (k : Nat)
  deriving DecidableEq, Repr

/-- A completion ring: a context's own, or the host's (R30, R364). -/
inductive Ring where
  | ctx (c : Ctx)
  | host
  deriving DecidableEq, Repr

/-- What waits on a resolvable translation fault (R99, R217). -/
inductive Parked where
  | engine (e : Fin 8)
  | tile (slot tile : Nat)
  deriving DecidableEq, Repr

/-- What a split retry runs again (R237). -/
inductive SplitTarget where
  | barge (slot : Nat)
  | kernel (c : Ctx)
  deriving DecidableEq, Repr

/-- Which condition of Table 21.7 an engine meets (R463). -/
inductive EngineCause where
  | bundleStoreEcc
  | controlParity
  | noIssue
  | sparesExhausted
  deriving DecidableEq, Repr

/-- How a slice deviates in one vote (R263). -/
inductive MemberFault where
  /-- The member's bytes or digest differ from a healthy member's; two members with one tag agree with each other. -/
  | differs (tag : Nat)
  | silent
  | ringCrc
  | sramUncorrectable
  deriving DecidableEq, Repr

/-- Where a reflex input comes from (Table 10.3, R254). -/
inductive ReflexSource where
  | can (port : Fin 8) (ident : Nat) (xtd : Bool)
  | eth (mac : Fin 8) (etherType : Nat)
  | spi (port : Fin 4)
  | tc (input : Fin 16)
  deriving DecidableEq, Repr

/-- Who reaches slice SRAM through the Towpath (R251). -/
inductive SliceWriter where
  | steward
  | kernel
  | barge (tiles : Nat)
  deriving DecidableEq, Repr

/-- The result of the hardware mode a MAC negotiated (Table 14.1). -/
inductive EthLink where
  | usx10g | usx5g | usx2g5 | usx1g | sgmii1000 | sgmii100
  deriving DecidableEq, Repr

/-- What one module reports to the master every millisecond (R397, R425). -/
structure ModuleReport where
  id      : Fin 4
  power   : Nat
  demand  : Nat
  urgency : Nat
  deriving DecidableEq, Repr

/-- A PTP event message as the MAC stamps it (R343). -/
structure PtpMessage where
  msg : Nat
  seq : Nat
  deriving DecidableEq, Repr

/-- The self-test and training results a start meets (R380, R385): what the silicon does, not what software asks. -/
structure StartOutcome where
  /-- REG_READY and OSC_READY came in time within three attempts (Table 16.7). -/
  railsUp    : Bool
  /-- SDIO and the boot NOR interface pass their self-test. -/
  linkOk     : Bool
  norAnswers : Bool
  norTimeout : Bool
  /-- Rows found faulty, by the physical address of a line in each. -/
  faultyRows : List Nat
  engFail    : BitVec 8
  sliceFail  : BitVec 8
  nandFail   : BitVec 4
  stwFail    : BitVec 8
  pscFail    : BitVec 96
  towFail    : BitVec 24
  /-- SEC, SYS, PWR and the other always-needed units pass. -/
  coreOk     : Bool
  /-- The identity key reconstructs (R446). -/
  pufOk      : Bool
  /-- Straps CASC_ID[1:0] and MASTER_SEL_N low, sampled at REG_READY (R487). -/
  strapId    : Fin 4
  strapMsel  : Bool
  /-- µs from the start to C = 1. -/
  micros     : Nat
  deriving DecidableEq, Repr

/-- The commands (spec/opcode_table.json, in the table's order). -/
inductive Instr where
  | registerWrite (who : Who) (addr size : Nat) (value hw : Word)
  | readClear (who : Who) (addr size : Nat) (hw : Word)
  | readLo (who : Who) (addr size : Nat)
  | flitGroupReceive (stop source : Fin 40) (crcOk : Bool)
  | heldCompletionWrite (ring : Ring)
  | engineStepChange (e : Fin 8)
  | bundleIssue (e : Fin 8)
  | yieldBarrierComplete (c : Ctx)
  | kernelComplete (c : Ctx)
  | towpathLineArrival (c : Ctx) (k : Nat)
  | parkResume (p : Parked)
  | kvAcquire (who : Who) (pool frame : Nat)
  | kvShare (who : Who) (pool frame : Nat)
  | kvRelease (who : Who) (pool frame : Nat)
  | kvQuery (who : Who) (pool frame : Nat)
  | ctxCreate (who : Who) (c : Ctx)
  | ctxDestroy (who : Who) (c : Ctx)
  | ctxKill (who : Who) (c : Ctx)
  | ctxReopen (who : Who) (c : Ctx)
  | ctxHeel (who : Who) (c : Ctx)
  | doorbell (who : Who) (c : Ctx) (index : Nat)
  | colCons (who : Who) (c : Ctx) (index : Nat)
  | colSel (who : Who) (value : Word)
  | kernelDispatch
  | heelRelease (c : Ctx)
  | stallCutoff (e : Fin 8)
  | kennelDrain (e : Fin 8)
  | stallThreshold (c : Ctx)
  | jobRestart (c : Ctx)
  | engineFault (e : Fin 8) (cause : EngineCause)
  | energyRescale (measuredUj : Nat)
  | lockAdd (who : Who) (lock : Nat) (value : Word) (also : List LockOp)
  | lockSet (who : Who) (lock : Nat) (value : Word) (also : List LockOp)
  | lockArm (who : Who) (lock : Nat) (target : Word) (ring tmo : Nat) (tag : Word)
  | lockCancel (who : Who) (lock : Nat) (tag : Word)
  | lockAlloc (who : Who) (lock : Nat) (arg : Word)
  | lockFree (who : Who) (lock : Nat)
  | waitTimeout (w : WaitId)
  | xlatInv (who : Who) (firstPage : Word) (value : Word)
  | invalidationComplete (who : Who)
  | pinSet (who : Who) (range : Word)
  | pinClear (who : Who) (range : Word)
  | migrate (c : Ctx) (page tile : Nat)
  | bargeSubmit (who : Who) (c : Ctx) (va : Nat)
  | bargeIssue (channel : Fin 64)
  | bargeTileLand (slot tile : Nat)
  | bargeComplete (slot : Nat)
  | bargeTimeout (slot : Nat)
  | splitRetry (t : SplitTarget)
  | psramBurstCrcFail (channel : Fin 96) (pa : Nat) (lastCrc : BitVec 16)
  | channelRetrainEnd (channel : Fin 96) (ok : Bool)
  | readDisturbRefresh (nand : Fin 4) (block : Nat)
  | ftlReady
  | leashBind (who : Who) (leash : Fin 16)
  | leashUnbind (who : Who) (leash : Fin 16)
  | leashCommit (who : Who) (leash : Fin 16)
  | leashResume (who : Who) (leash : Fin 16)
  | triadReinit (who : Who) (leash : Fin 16)
  | leashStop (who : Who) (leash : Fin 16)
  | slotTick (deviations : List (Nat × MemberFault))
  | spareDomainReady (t : Fin 2)
  | selfTestComplete (t : Fin 2) (pass : Bool)
  | firstCopyComplete (t : Fin 2)
  | rebuildJoin (t : Fin 2)
  | reflexInputArrival (src : ReflexSource) (payload : List Byte)
  | sliceSramWrite (w : SliceWriter) (pa : Nat) (data : List Byte)
  | sliceRailLow (x : Fin 8)
  | csiLongPacket (r : Fin 12) (vc dt : Nat) (payload : List Byte) (crcOk hdrOk : Bool)
  /-- `frame`: its data field; none where the header's ECC cannot correct it (R275). -/
  | csiShortPacket (r : Fin 12) (vc dt : Nat) (frame : Option Nat)
  | ethFrame (m : Fin 8) (bytes : List Byte) (fcsOk : Bool) (link : EthLink)
  | spiTransactionStart (n : Fin 4)
  | spiTransactionEnd (n : Fin 4) (received : List Byte)
  | uartByte (n : Fin 4) (byte : Byte) (framingOk : Bool)
  | uartIdleClose (n : Fin 4)
  | pauseRepeat (m : Fin 8)
  | agedCheck
  | rtmoExpiry (e : Fin 8) (cell ch : Nat)
  | weirAdvance (who : Who) (q : Fin 64) (n : Nat)
  | weirMark (who : Who) (q : Fin 64)
  | weirRewind (who : Who) (q : Fin 64)
  | weirRelease (who : Who) (q : Fin 64)
  | queueEnable (who : Who) (q : Fin 64) (cfg : Word)
  | gridSubmit (who : Who) (c : Ctx) (va : Nat)
  | gridRequestStart
  | gridRequestComplete (disagree : Bool)
  | gridLoad (who : Who) (table va : Nat)
  | gridCommit (who : Who) (table countM1 : Nat)
  | alignDeltaWrite (who : Who) (q : Fin 64) (value : Word)
  | planSubmit (who : Who) (c : Ctx) (va : Nat)
  | planDeadline
  | voxelUpdate (who : Who) (c : Ctx) (va : Nat)
  | openEpoch (who : Who)
  | openDeferred
  | epochLayers (who : Who) (va : Nat)
  | epochDirty (who : Who) (va : Nat)
  | epochPublish (who : Who)
  | epochAbandon (who : Who)
  | watchCheck (l : Fin 16)
  | timeCounterWrap
  | eraAck (who : Who) (k : Nat)
  | timeOfs (who : Who) (theta : Word)
  | holdover
  | stepGo (who : Who)
  | timedOutputEdge (n : Fin 16)
  | toArm (who : Who) (n : Fin 16) (cfg : Word)
  | captureEdge (n : Fin 16) (level : Bool)
  | tcPop (who : Who) (n : Fin 16)
  | ptpPop (who : Who) (m : Fin 8)
  | oscillatorFail
  | cmd5
  | cmd11
  | cmd19
  | cmd52Win (write : Bool) (value : Byte)
  | cmd53 (write fixed : Bool) (addr len : Nat) (data : List Byte)
  | telemetryRead (len : Nat)
  | stagingTransfer (write : Bool) (len : Nat) (data : List Byte)
  | functionEnable (ioe : Byte)
  | sdioAbort (f : Fin 8) (kept : List Byte)
  | sdioRes
  | mbSubmit (who : Who) (slot : Fin 16)
  | mbNop (slot : Fin 16)
  | mbInfo (slot : Fin 16)
  | loadProg (slot : Fin 16)
  | unloadProg (slot : Fin 16)
  | attest (slot : Fin 16)
  | norWrite (slot : Fin 16) (verifyOk : Bool)
  | telCfg (slot : Fin 16)
  | mailboxTimeout (slot : Fin 16)
  | mbCons (who : Who) (index : Nat)
  | telemetryTick (type : Fin 4)
  | startUp (o : StartOutcome)
  | sysRestart (who : Who) (key : BitVec 16) (o : StartOutcome)
  | towlineFlitReceive (l : Fin 3) (crcOk : Bool) (lanesFailed : BitVec 8)
  | formationEnd
  | timeMessageSend
  | timeMessageReceive (sent : Nat) (link : Fin 3)
  | delayMeasure (l : Fin 3) (ns : Nat)
  | powerReport (reports : List ModuleReport)
  | shareTimeout
  | heartbeat (l : Fin 3)
  | heartbeatLoss
  | watchdogExpiry
  | cascPeerDeassert (i : Fin 4)
  | cascLeave (who : Who) (m : Fin 4)
  | cascJoin (who : Who) (m : Fin 4)
  | cascHandover (who : Who)
  | towCtxMaskWrite (who : Who) (value : Word)
  | powerRequestRun (who : Who)
  | powerRequestIdle (req : IdleRequest)
  | powerRequestSleep (who : Who)
  | powerRequestDeepSleep (who : Who)
  | powerRequestOff (who : Who) (key : BitVec 16)
  | autoIdle
  | entryAbort (block : Nat)
  | wakeEvent (source : Fin 9) (slowTicks : Nat)
  | slowClockAlarm (slowTicks : Nat)
  | domainGate (d : Fin 96)
  | regulatorSample (deciwatts millivolts milliamps : Nat)
  | budgetWrite (who : Who) (value : Word)
  | droopDetect (e : Fin 8)
  | stretchEnd (e : Fin 8) (stretched : Nat)
  | thermalSample (centi : List Int)
  | capRise (e : Fin 8)
  | trip115
  | runOnEnd
  | trip120
  | rowSpare (pa : Nat)
  | psramTileRetire (tile newTile : Nat)
  | votedCopyFault (block : Nat)
  | stewardWatchdogMiss (n : Fin 8)
  | nandControllerTimeout (n : Fin 4)
  | faultTail (who : Who) (index : Byte)
  | faultInjectSingle (who : Who) (bit : Nat)
  | faultInjectDouble (who : Who) (bit : Nat)
  | vinRise (wakeHigh : Bool) (o : StartOutcome)
  | vinBrownout
  | reflexRingLinkFailure (ring : Fin 2)
  | regulatorPhaseFailure
  | stewardMemoryAccess (n : Fin 8) (c : Ctx) (va : Nat) (store : Option (List Byte)) (len : Nat) (l2TagError : Bool)
  | canFrameReceive (port : Fin 8) (ident : Nat) (xtd : Bool) (payload : List Byte) (crcOk : Bool)
  | canTransmit (port : Fin 8)
  | eventMessageSent (m : Fin 8) (p : PtpMessage) (link : EthLink)
  | towlineTraining (l : Fin 3) (peer : Fin 4) (lanes : BitVec 8)
  | cccrWrite (addr : Nat) (value : Byte)
  deriving DecidableEq, Repr

end Sys2Proof
end

