-- ==== Sys2Proof/Config.lean ====
section
/-!
DEFINITION. Sys2Proof/Config.lean: the values the spec leaves open. Each is a constant without a body: no proof can
see it, so what is proved holds whatever it is (log entry 1 and the entries named at each).
-/
namespace Sys2Proof.Config

/-- A fresh value the spec does not state, by the number of free values drawn before it. -/
opaque freeWord : Nat → Word

/-- The result of a vector-unit function (Table 2.6), or of a compare into a register, on its operands, under a
rounding mode with random bits; within no bound of its own (R71; log entry 5). -/
opaque vectorFn (vop mode r : Nat) (a b : Word) : Word

/-- A conversion between formats for which Table 2.5 has no row (R60). -/
opaque otherConversion (fin fout x : Nat) : Nat

/-- The element bits stored for a NaN, or for an infinity in a block marked NaN (R54). -/
opaque nanElement (fmt i : Nat) : Nat

/-- Random bits of the barge reformatter, which has no cell's LFSR (R65, R229). -/
opaque reformatBits (draw i : Nat) : Nat

/-- A byte that a barge with both CONV and REGROUP writes, whose order of the two the spec does not state. -/
opaque mixedByte (draw i : Nat) : Byte

/-- The order in which a lane sum pairs its lanes (RSUM, R68). -/
opaque sumOrder (lanes : List Word) : List Nat

/-- Which FP32 value within the error bound one row of a transform gives, where its partial sums round (R299; log entry 30). -/
opaque gridDot (t0 t1 t2 t3 x y z : Word) : Word

/-- Which FP32 value within the error bound a SUM of SCATTER gives, where its order matters (R68, R299). -/
opaque gridSum (values : List Word) : Word

/-- How far a projected coordinate lies from its exact value, in 2^−20 pixels, and a coordinate beyond 16,384 pixels
(R301). -/
opaque gridError (table request : List Byte) (k j i axis : Nat) : Int

/-- The leash code that Rhoson loads into tiles 0 to 3 of a triad's members (R250). -/
opaque leashCode (which triad : Nat) : List Byte

/-- The bytes of output `o` that a leash's code computes from its entry, its state, its snapshot and its sample (R247,
R252). -/
opaque leashOutput (entry : Nat) (code state inputs sample : List Byte) (o : Nat) : List Byte

/-- The state a leash's code leaves (R250, tile 5). -/
opaque leashState (entry : Nat) (code state inputs sample : List Byte) : List Byte

/-- Output bytes and state of a member that deviates in a vote, alike for members of one tag (R263). -/
opaque faultyOutput (tag draw o : Nat) : List Byte
opaque faultyState (tag draw : Nat) : List Byte

/-- How tile 6 holds a snapshot and tile 7 a member's outputs, which Table 10.1 does not lay out. -/
opaque snapshotTile (inputs sample : List Byte) : List Byte
opaque stagingTile (payloads : List (List Byte)) : List Byte

/-- List address, item count and result address of an UPDATE, whose descriptor the spec does not lay out (R320). -/
opaque updateDescriptor : List Byte → Nat × Nat × Nat

/-- What stands for an FP32 word that is not a number or not finite, where a coordinate is asked for: a multiple of
2^−256 (log entry 51). -/
opaque oddValue : Word → Int

/-- NH, RES and NP of a primitive table's header, and of a record (di, dj, dh), whether it is reverse, its length, and its
intermediate poses with their arc lengths: the spec names them and lays out neither (R325). -/
opaque primHeader : List Byte → Nat × Word × Nat
opaque primRecord : List Byte → (Int × Int × Int) × Bool × Word × List (Word × Word × Word × Word)

/-- Which of the values that a rule leaves to the planner it takes, by request and place (R322, R325, R328, R329). -/
opaque planPick (request : List Byte) (place : List Nat) : Word

/-- Whether the voxel unit finds clear a way from pose to pose that R323 neither clears nor blocks. -/
opaque pathClear (request : List Byte) (epoch : Nat) (leg : List Int) : Bool

/-- What a search leaves in its state table and in its spill region, whose entries the spec does not lay out (R324, R325). -/
opaque planScratch (draw : Nat) : List Byte

/-- The power change one clock step makes on an engine, in mW, as its activity coefficients predict (R426). -/
opaque stepPower (engine step : Nat) : Nat

/-- The coefficient of one kind of activity over a calibration interval, in 2^−32 µJ (R193): MAC by format at 0 to 15, Basin
lines at 16, vector results at 17, bytes of the Basin, PSRAM and flash tiers at 18 to 20. -/
opaque energyWeight (kind interval : Nat) : Nat

/-- Where the home that a page of a KV frame has in the PSRAM tier lies: a tile number there (R147). -/
opaque kvHome (ctx page : Nat) : Nat

/-- The 57-byte private key seed that the PUF array and helper data give (R446). -/
opaque pufSeed (helper : List Byte) : List Byte

/-- Helper data drawn at an enrolment (R448). -/
opaque freshHelper (draw : Nat) : List Byte

/-- The mask-ROM digest of the vendor root key (R440). -/
opaque romRoot : List Byte

/-- The trained seed words of a PSRAM channel (R378, Table 16.9). -/
opaque trainedSeed (channel word : Nat) : Word

/-- The NAND block a flash tile's first page lies in, which the FTL's map decides (R241, R463). -/
opaque nandBlock (tile : Nat) : Nat

/-- FTL figures the spec gives no rule for: spare pool in %, mean and highest erase count, bad blocks (Table 9.8). -/
opaque ftlFigures (draw : Nat) : Nat × Nat × Nat × Nat

/-- Codeword bit position of a physical SRAM fault found by a unit's own test, where the spec fixes none. -/
opaque defaultPlacement (region : Nat) : Nat

/-- A byte the spec leaves undefined, by the free values drawn before it and its place. -/
opaque freeByte (draw i : Nat) : Byte

/-- What a memory holds that has lost its contents. -/
opaque lostBytes (draw : Nat) : List Byte

/-- The telemetry periods in ms that a TEL_CFG payload asks for, for types 1 to 3, whose layout the spec does not give. -/
opaque telPeriods : List Byte → List Nat

/-- What the device writes into the save area at an entry (R415 step 5), and at an entry to Deep sleep. -/
opaque saveImage (draw : Nat) : List Byte

/-- Steward cores that do not wait for an interrupt when a register write asks for Idle: their software is none of the
spec's (Table 18.4). -/
opaque stewardsBusy (draw : Nat) : BitVec 8

/-- Where Rhoson places the mirror range, the kennels and the staging region in the PSRAM tier: first tiles, by the
section's sizes and the backed tiles (R383). -/
opaque placeMirror (sizes : List Nat) : Nat
opaque placeKennels (sizes : List Nat) : Nat
opaque placeStaging (sizes : List Nat) : Nat

end Sys2Proof.Config
end

