-- ==== Sys2Proof/Machine/State.lean ====
section
/-!
DEFINITION. Sys2Proof/Machine/State.lean: what the device holds. Control registers stand in one register file, keyed
by control-space offset; a register that is not listed reads its reset value, and a register whose value another
field gives is computed from it when read (Machine/Regs.lean). Tables with a default list only what differs from it.
-/
namespace Sys2Proof.Machine

/-- Why the device cannot go on. Every command of the table has an effect, so no meaning answers with it; it is the
name kept for a device that holds in reset for good (Table 16.7, `Boot.dead`), whose step is still `next`. Safe. -/
inductive Fault where
  /-- Raised by nothing: the device's end states are states. Safe. -/
  | halted
  deriving DecidableEq, Repr

/-- Why a command has no meaning here. -/
inductive Refusal where
  /-- A command without a meaning yet, by its mnemonic; raised by Dispatch alone. Safe. -/
  | notModelled (mnemonic : String)
  deriving DecidableEq, Repr

/-- One 64-byte line, byte 0 in bits [7:0]. -/
abbrev Line := BitVec 512

/-- Outcome and data of an initiator's last control-space access (R6, R17). -/
structure BusResult where
  code : Nat
  data : Word
  deriving DecidableEq, Repr

/-- A completion record before the ring gives it SEQ and PHASE (Table 1.9). -/
structure CRec where
  code : Nat
  block : Nat
  context : Nat
  kind : Nat
  retried : Bool
  tag : Word
  time : Word
  job : Nat
  detail : Nat
  engines : Nat
  modules : Nat
  parks : Nat
  heels : Nat
  aux : Nat
  deriving DecidableEq, Repr

/-- The counts of one completion ring (R36, R37, R499): write index, consumer index, completions held. -/
structure RingSt where
  wr : Nat := 0
  cons : Nat := 0
  held : List CRec := []
  deriving DecidableEq, Repr

/-- A mesh link's condition (R24): a link has both directions, and is keyed by its stops, the lower first. Failed
retransmissions in a row of the flit group towards the higher stop, and towards the lower one. -/
structure LinkSt where
  retired : Bool := false
  failures : Nat := 0
  back : Nat := 0
  deriving DecidableEq, Repr

/-- An address-generator stream (R108): configuration and position. Linear: n0–n3. Window: CL, KX, KY, OX and OY.
Box: corner, channel line, u, v and box. -/
structure Stream where
  cfg : BitVec 256 := 0
  n0 : Nat := 0
  n1 : Nat := 0
  n2 : Nat := 0
  n3 : Nat := 0
  n4 : Nat := 0
  deriving DecidableEq, Repr

/-- A virtual-address register (Table 4.4). -/
structure VaReg where
  va : Nat := 0
  ag : Nat := 0
  bound : Bool := false
  deriving DecidableEq, Repr

/-- A place of a receive channel: a line, or one kept for the line of a request still under way, by the request's
number in its kernel (R88, R284). -/
inductive Place where
  | line (l : Line)
  | owed (id : Nat)
  deriving DecidableEq, Repr

/-- One cell (Table 2.1, R97); its Basin is in `mem`. -/
structure Cell where
  /-- V0–V15: lane `j` of register `r` at `r * 32 + j`. -/
  v : Sparse Word := []
  p : BitVec 32 := 0
  /-- Lane `j` of accumulator entry `i` at `i * 16 + j`. -/
  acc : Sparse Word := []
  /-- Lanes of accumulator entries that have saturated and are not overwritten since (R56). -/
  accSat : Sparse Bool := []
  latch : BitVec 1024 := 0
  sLatch : BitVec 1024 := 0
  wAct : Sparse Line := []
  wShadow : Sparse Line := []
  sAct : Line := 0
  sShadow : Line := 0
  streams : Sparse Stream := []
  vas : Sparse VaReg := []
  sendBuf : Line := 0
  /-- Receive channels, the head first. -/
  chans : Sparse (List Place) := []
  lfsr : Word := 0
  deriving DecidableEq, Repr

/-- A result on its way to its target (Table 3.9). -/
inductive Target where
  | vreg (r : Nat) (lanes : List Word)
  | vhalf (r : Nat) (high : Bool) (line : Line)
  | pred (p : BitVec 32)
  | acc (entry : Nat) (lanes : List Word) (stuck : List Bool)
  | latchHalf (high : Bool) (line : Line)
  | wline (i : Nat) (line : Line)
  | wscale (line : Line)
  | ascale (line : Line)
  | send (line : Line)
  | basin (addr : Nat) (bytes : List Byte)
  deriving DecidableEq, Repr

/-- A result that lands in a cell at an engine cycle (R91). -/
structure Landing where
  due : Nat
  cell : Nat
  target : Target
  deriving DecidableEq, Repr

/-- What an issue writes when its result lands, as the interlocks see it (R92). -/
inductive Res where
  | v (r : Nat)
  | pred
  | acc (entry : Nat)
  | shadow
  deriving DecidableEq, Repr

/-- What one half of a bundle store holds (R103). -/
structure Loaded where
  prog : Nat
  span : Nat
  logical : Nat
  deriving DecidableEq, Repr

/-- Where an engine stands (Table 3.11). -/
inductive EngMode where
  | idle | issuing | held | stalled | parked | heeling | retired
  deriving DecidableEq, Repr

/-- A fabric engine: what R97 saves for a logical engine, and its own bookkeeping. -/
structure Engine where
  mode : EngMode := .idle
  ctx : Option Nat := none
  logical : Nat := 0
  span : Nat := 0
  half : Bool := false
  storeA : Option Loaded := none
  storeB : Option Loaded := none
  pc : Nat := 0
  /-- Issues of the bundle already made. -/
  rep : Nat := 0
  lc : List Nat := [0, 0, 0, 0]
  ap : Nat := 0
  vp : Nat := 0
  masks : List (BitVec 256) := []
  /-- Stream configurations and LFSR base a cell starts with (R108, R67): cells not listed are as at kernel start. -/
  streams0 : List (BitVec 256) := []
  seed : Word := 0
  cells : Sparse Cell := []
  /-- Fabric cycles since the kernel's first issue. -/
  cyc : Nat := 0
  landings : List Landing := []
  /-- Writes pending, by the cycle they land in (R92), and the cycle from which the vector unit is free. -/
  board : List (Nat × Res) := []
  vbusy : Nat := 0
  /-- ADDs of scope 0 this engine has issued (R80). -/
  adds : Nat := 0
  /-- Issue cycles since the last join (R96). -/
  sinceJoin : Nat := 0
  /-- At a yield bundle's barrier; the barrier of this bundle is behind it (R95). -/
  atYield : Bool := false
  passed : Bool := false
  /-- Made the last issue of its END bundle. -/
  ended : Bool := false
  /-- Faulting virtual address of a park (R99). -/
  parkVa : Option Nat := none
  /-- Elapsed time at which the engine began to wait or park, and the ns it has done so before that since its last issue, for
  STALL_US (R184). -/
  waitFrom : Option Nat := none
  waited : Nat := 0
  /-- Elapsed time from which the engine is granted and neither issues nor stalls: before its restore is done, after its
  END, or beyond the span of the variant (R192). -/
  heldFrom : Option Nat := none
  /-- Stall cycles since a heel request (R180). -/
  stallReq : Nat := 0
  deriving DecidableEq, Repr

/-- A line on the Towpath towards a receive channel (R22, R88): from stop `src` on virtual channel `vc` to stop `stop`, sent,
or the answer to the request `place`. -/
structure Flight where
  src : Nat
  stop : Nat
  vc : Nat
  /-- Logical engine and its cells at that stop. -/
  dst : Nat
  dstCells : List Nat
  chan : Nat
  line : Line
  place : Option Nat
  /-- The tier address that the line was read at, if it was (R240). -/
  from' : Option Nat := none
  deriving DecidableEq, Repr

/-- A WEIRR that waits for a commit (R284). -/
structure WeirWait where
  id : Nat
  queue : Nat
  logical : Nat
  cell : Nat
  chan : Nat
  deadline : Option Nat
  deriving DecidableEq, Repr

/-- How a kernel stands (Table 7.15). -/
inductive KPhase where
  | running | heeled | restoring
  /-- A failed split attempt that waits for its retry, and one whose retry is ready for dispatch (R189, R237). -/
  | failed | again
  deriving DecidableEq, Repr

/-- One pinned KV frame of a kernel (R138). -/
structure KvPin where
  pool : Nat
  frame : Nat
  writable : Bool
  deriving DecidableEq, Repr

/-- A view as the kernel's snapshot has it (R137–R139). -/
structure ViewSnap where
  va : Nat
  tpf : Nat
  blocks : Nat
  kvVa : Nat
  area : Nat
  deriving DecidableEq, Repr

/-- The kernel of a context (R170). -/
structure Kernel where
  prog : Nat
  index : Nat
  span : Nat
  engines : List Nat
  /-- Engines granted beyond the variant's span (R78, R177). -/
  spare : List Nat := []
  /-- Every physical engine the kernel has run on. -/
  used : BitVec 8 := 0
  phase : KPhase := .running
  /-- Engine states saved at a heel, by logical number (R97), and whether each is drained. -/
  saved : List Engine := []
  drained : List Bool := []
  /-- 0 yield, 1 park, 2 stall, 3 WAIT (Table 7.7). -/
  heelKind : Nat := 0
  heelAt : Option Nat := none
  /-- A WAIT issued and not acted on: its outcome, 0xFF while pending (R80, Table 7.7). -/
  wait : Option Nat := none
  waitOn : Nat := 0
  okAtDeadline : Bool := false
  parks : Nat := 0
  heels : Nat := 0
  cycles : Nat := 0
  /-- Requests of lines made so far. -/
  requests : Nat := 0
  pins : List KvPin := []
  views : List ViewSnap := []
  flights : List Flight := []
  weirWaits : List WeirWait := []
  /-- Tiles this attempt has opened (R235). -/
  opened : List Nat := []
  retried : Bool := false
  deriving DecidableEq, Repr

/-- A job record as the Collie read it (Table 7.3). -/
structure Job where
  tag : Word
  job : Nat
  nkern : Nat
  restartable : Bool
  krec : Bool
  deadline : Nat
  klist : Nat
  /-- Job records read before this one; of an optimiser's job, its request. -/
  seq : Nat := 0
  /-- A one-kernel job PLAN inserted (R328 stage 5): its program. -/
  optimiser : Option Nat := none
  /-- A job both members of a pair run: its number (R190). -/
  pair : Option Nat := none
  /-- GRID_EXCL as it stood when the job was released (R478). -/
  excl : BitVec 64 := 0
  deriving DecidableEq, Repr

/-- The fields of a context descriptor (Table 7.1). -/
structure Desc where
  cls : Nat := 0
  paired : Bool := false
  partner : Nat := 0
  primary : Bool := false
  kspan : Nat := 1
  ringK : Nat := 6
  subqK : Nat := 4
  weight : Nat := 0
  stallUs : Nat := 0
  ptRoot : Nat := 0
  kennel : Nat := 0
  ringVa : Nat := 0
  subqVa : Nat := 0
  viewVa : Nat := 0
  seed : Word := 0
  deriving DecidableEq, Repr

/-- Table 7.15. -/
inductive CtxState where
  | free | ready | running | heeled | restoring | torn | restarting
  deriving DecidableEq, Repr

/-- A context (R167–R192). -/
structure Context where
  st : CtxState := .free
  desc : Desc := {}
  /-- Tiles resolved at CREATE (R169): completion ring, submission ring, view table. -/
  ringTiles : List Nat := []
  subqTiles : List Nat := []
  viewTiles : List Nat := []
  ring : RingSt := {}
  prod : Nat := 0
  rd : Nat := 0
  /-- Jobs read and not ended, the current one first. -/
  jobs : List Job := []
  nextKern : Nat := 0
  /-- The current job attempt has dispatched a kernel (R205). -/
  started : Bool := false
  restarts : Nat := 0
  kern : Option Kernel := none
  /-- Of the current job: engine-cycles, kernels run, engines, parks and heels, and whether a split was retried. -/
  jobCycles : Nat := 0
  jobRan : Nat := 0
  jobEngines : BitVec 8 := 0
  jobParks : Nat := 0
  jobHeels : Nat := 0
  jobRetried : Bool := false
  jobOkDl : Bool := false
  /-- Code, block, address and fault index a failed BARGE_GO barge leaves for the job's next kernel (R231). -/
  bargeFault : Option (Nat × Nat × Nat × Nat) := none
  faultIndex : Nat := 0
  /-- Class-1 pair: of each job this member has failed and the other has not ended, its number in the pair and the record of
  the failure (R191). -/
  pairFails : List (Nat × CRec) := []
  /-- Virtual pages of KV frames that a heel moved to their homes (R147). -/
  swapped : List Nat := []
  accts : Sparse Nat := []
  /-- Activity since the last rescale (R193): MACs by format at 0–15, Basin lines at 16, vector results at 17, bytes of the
  Basin, PSRAM and flash tiers at 18–20. -/
  activity : Sparse Nat := []
  deriving DecidableEq, Repr

/-- A Lock (Table 8.1). -/
structure Lock where
  level : Word := 0
  alloc : Bool := false
  owner : Nat := 0
  jobzero : Bool := false
  poisoned : Bool := false
  jobadd : Word := 0
  deriving DecidableEq, Repr

/-- Who a wait belongs to (R200). -/
inductive Waiter where
  | kernel (c : Nat)
  | barge (slot : Nat)
  | armed (who : Who)
  deriving DecidableEq, Repr

/-- An entry of the wait table (R200–R202). `deadline` is elapsed time. -/
structure LWait where
  waiter : Waiter
  lock : Nat
  target : Word
  deadline : Option Nat
  tag : Word := 0
  ring : Nat := 0
  deriving DecidableEq, Repr

/-- A barge descriptor (Table 9.5). -/
structure BDesc where
  src : Nat := 0
  skind : Nat := 0
  dst : Nat := 0
  dkind : Nat := 0
  tiles : Nat := 1
  fmtIn : Nat := 0
  fmtOut : Nat := 0
  rnd : Nat := 0
  sat : Bool := false
  conv : Bool := false
  regroup : Nat := 0
  dir : Bool := false
  krec : Bool := false
  regW : Nat := 0
  regH : Nat := 0
  regCe : Nat := 0
  tag : Word := 0
  waitLock : Nat := 0
  waitEn : Bool := false
  addLock : Nat := 0
  addEn : Bool := false
  waitT : Word := 0
  addV : Word := 0
  tmo : Nat := 0
  reservedSet : Bool := false
  deriving DecidableEq, Repr

/-- The kernel that issued a barge by BARGE_GO: its job's number and place in the submission ring, and its engines. -/
structure GoBy where
  job : Nat
  seq : Nat
  /-- The job attempt (R205). -/
  attempt : Nat
  engines : List Nat
  deriving DecidableEq, Repr

/-- A barge queued or in flight (R227–R237). -/
structure Barge where
  ctx : Nat
  desc : BDesc
  /-- Submitted through BARGE_s by this initiator; or issued by BARGE_GO: who issued it (R33, R231). -/
  who : Option Who := none
  go : Option GoBy := none
  /-- The issuing kernel has completed. -/
  orphan : Bool := false
  /-- The views of the issuing kernel (R139). -/
  views : List ViewSnap := []
  /-- In the wait table; and how a wait that failed ended. -/
  waiting : Bool := false
  waitCode : Option Nat := none
  deadline : Option Nat := none
  landed : List Nat := []
  parked : List Nat := []
  opened : List Nat := []
  /-- The retry has begun; the first attempt failed and its retry has not. -/
  retry : Bool := false
  failed : Bool := false
  okAtDeadline : Bool := false
  parks : Nat := 0
  deriving DecidableEq, Repr

/-- A TLB entry (R213): stop, context and virtual page; the leaf as filled and whether it has been used for a write. -/
structure TlbEntry where
  stop : Nat
  ctx : Nat
  page : Nat
  leaf : BitVec 64
  /-- Physical address of the leaf entry. -/
  entry : Nat := 0
  dirtied : Bool := false
  deriving DecidableEq, Repr

/-- A load or store of a steward core: what it stores, or none for a load of `len` bytes (R210). -/
structure StewardAccess where
  core : Nat
  ctx : Nat
  va : Nat
  store : Option (List Byte)
  len : Nat
  deriving DecidableEq, Repr

/-- Translation state (R213, R214, R219, R220, R234). -/
structure Xlat where
  tlb : List TlbEntry := []
  /-- Walk cache: context and VA[47:29] to the physical address of the level-2 table. -/
  walk : List (Nat × Nat × Nat) := []
  /-- Invalidations in progress: initiator, context (none: every), first page and count (none: all). -/
  invs : List (Who × Option Nat × Option (Nat × Nat)) := []
  /-- Physical tiles whose pin-map bit is set. -/
  pins : Sparse Bool := []
  tags : Sparse (BitVec 16) := []
  flashTags : Sparse (BitVec 16) := []
  /-- Pages posted to Rhoson for a pull: context and page. -/
  pulls : List (Nat × Nat) := []
  /-- PSRAM tiles out of service (R467), by physical address. -/
  retired : List Nat := []
  /-- Barge descriptors submitted whose read has parked (R216, R244): initiator, context, address. -/
  subs : List (Who × Nat × Nat) := []
  /-- Accesses of steward cores that have parked, oldest first (R216). -/
  waiting : List StewardAccess := []
  /-- The context for which each steward core last accessed memory (R141; log entry 213). -/
  acting : Sparse (Option Nat) := []
  deriving DecidableEq, Repr

/-- A PSRAM channel's history (R240, R463). -/
structure PsChan where
  retraining : Bool := false
  lost : Bool := false
  retrains : List Nat := []
  uncorr : List Nat := []
  tilesRetired : Nat := 0
  lastFault : Nat := 0xFFFFFFFF
  crcRetry : Nat := 0
  corr : Nat := 0
  deriving DecidableEq, Repr

/-- The flash translation layer (R241, R242, R463). -/
structure Ftl where
  timeouts : List (Nat × Nat) := []
  uncorr : List (Nat × Nat × Nat) := []
  /-- A NAND channel was retired in service; the tiles written since then (R462). -/
  degraded : Bool := false
  fresh : Sparse Bool := []
  /-- Spare pool exhausted (R242). -/
  spareGone : Bool := false
  /-- Spare pool in %, mean and highest erase count, and blocks retired (Table 9.8). -/
  figures : Nat × Nat × Nat × Nat := (100, 0, 0, 0)
  deriving DecidableEq, Repr

/-- An input a leash holds (R254, R257). -/
structure HeldInput where
  bytes : List Byte
  arrival : Nat
  deriving DecidableEq, Repr

/-- A leash (R252, Table 10.7, LEASH_STAT). Modes: 0 unbound, 1 main, 2 stop, 3 SAFE. -/
structure Leash where
  mode : Nat := 0
  latch : Bool := false
  pending : Bool := false
  cause : Nat := 0
  staleIn : BitVec 16 := 0
  /-- The live trajectory tile is the upper one of the leash's two; there has been a live tile. -/
  liveHigh : Bool := false
  everLive : Bool := false
  /-- Slot of the last accepted commit, and its elapsed time in ns. -/
  lastCommit : Nat := 0
  commitNs : Nat := 0
  /-- Elapsed time in ns at which the present cause came up. -/
  causeNs : Nat := 0
  inputs : Sparse HeldInput := []
  /-- Output slot of the last seal, with its snapshot of the inputs and its sample selection. -/
  sealed : Option (Nat × List Byte × List Byte) := none
  /-- Output slot of the last vote that agreed, with the payload of each output. -/
  voted : Option (Nat × List (List Byte)) := none
  out : Nat := 0
  ovr : Nat := 0
  deriving DecidableEq, Repr

/-- Rebuild steps of R265. -/
inductive Rebuild where
  | wake | selfTest | copy | quiet
  deriving DecidableEq, Repr

/-- A triad (R263–R266). -/
structure Triad where
  state : Nat := 0
  rebuild : Option (Rebuild × Nat) := none
  gap : Nat := 0
  /-- Elapsed time in ns of the fault that started the rebuild. -/
  rebuildFrom : Nat := 0
  /-- No vote has passed since the last join. -/
  fresh : Bool := false
  deriving DecidableEq, Repr

/-- A reflex frame in a CAN controller's reflex transmit buffer, by the output it is of (R255, R258). -/
structure CanFrame where
  output : Nat
  ident : Nat
  xtd : Bool
  fdf : Bool
  brs : Bool
  data : List Byte
  deriving DecidableEq, Repr

/-- The reflex lane beside its registers and SRAM. -/
structure Reflex where
  slot : Nat := 0
  slotTime : Nat := 0
  triads : Sparse Triad := []
  leashes : Sparse Leash := []
  /-- Elapsed time of the next slot boundary, in ns from the start of elapsed time. -/
  nextBoundary : Nat := 1000
  /-- Which leash code Rhoson has: it loads the same one until the next start (R250, R477; log entry 110). -/
  code : Nat := 0
  /-- Slices that withhold their result in their next vote (R429). -/
  low : List Nat := []
  /-- Reflex transmit buffer of each CAN controller, oldest first; software mailboxes received. -/
  canTx : Sparse (List CanFrame) := []
  canBox : Sparse (List (Nat × Bool × List Byte)) := []
  canErr : Sparse Nat := []
  /-- Reflex frames queued ahead in each MAC, and SPI outputs. -/
  ethTx : Sparse (List (List Byte)) := []
  spiTx : Sparse (List Byte) := []
  deriving DecidableEq, Repr

/-- A committed packet not wholly released (R273, R280). -/
structure Packet where
  start : Nat
  lines : Nat
  stamp : Nat
  deriving DecidableEq, Repr

/-- A Weir queue beside its registers (R271–R275, R281). -/
structure Queue where
  seq : Nat := 0
  lost : Nat := 0
  packets : List Packet := []
  deriving DecidableEq, Repr

/-- A UART packet being received (R278). -/
structure UartRx where
  bytes : List Byte
  stamp : Nat
  /-- Elapsed time in ns of the last byte. -/
  last : Nat
  /-- The line count of its header line, and whether the queue holds its lines: an abandoned packet has none (R274, R275). -/
  start : Nat := 0
  held : Bool := false
  deriving DecidableEq, Repr

/-- Ports beside their registers. -/
structure Ports where
  queues : Sparse Queue := []
  /-- Latest FS frame number by receiver * 16 + VC. -/
  csiFrame : Sparse Nat := []
  csiShort : Nat := 0
  spiBusy : Sparse Bool := []
  /-- Of each SPI port, the bytes its last transaction clocked out, and the elapsed ns at which its next periodic one starts
  (R278). -/
  spiOut : Sparse (List Byte) := []
  spiNext : Sparse Nat := []
  uart : Sparse UartRx := []
  /-- Elapsed time in ns until which each MAC honours a PAUSE it received (R277). -/
  paused : Sparse Nat := []
  /-- Quanta, and elapsed time in ns, of the last PAUSE frame each MAC sent (R281). -/
  pauseOut : Sparse Nat := []
  pauseNs : Sparse Nat := []
  /-- FC_OUT and TO pads driven since the start (R485). -/
  fcDriven : Bool := false
  toDriven : Sparse Bool := []
  deriving DecidableEq, Repr

/-- A Gridder request (R294, R298). -/
structure GridReq where
  who : Who
  ctx : Nat
  desc : List Byte
  /-- Once started: the table copy and its GEN. -/
  table : List Byte := []
  gen : Nat := 0
  started : Bool := false
  retried : Bool := false
  /-- Elements processed and dropped so far; once all are, the code to report. -/
  done : Nat := 0
  dropped : Nat := 0
  code : Nat := 0
  deriving DecidableEq, Repr

/-- A transform table (R296, R297). -/
structure GridTable where
  active : List Byte := []
  shadow : List Byte := []
  gen : Nat := 0
  valid : Bool := false
  deriving DecidableEq, Repr

/-- The Gridder and the alignment check (R294–R310). -/
structure Grid where
  queue : List GridReq := []
  running : Option GridReq := none
  /-- Submissions and LOADs whose read has parked (R216): initiator, context or table, and address. -/
  subs : List (Who × Nat × Nat) := []
  loads : List (Who × Nat × Nat) := []
  tables : Sparse GridTable := []
  /-- Good frames in a row of each excluded stream (R307). -/
  good : Sparse Nat := []
  deriving DecidableEq, Repr

/-- A retained epoch (R311–R315). -/
structure Epoch where
  num : Nat
  root : Word := 2
  layers : List Byte := []
  /-- Boxes of the dirty list: x, y, z minimum and maximum, in units of 2^−149 / 5 m. -/
  dirty : List (List Int) := []
  superseded : List Nat := []
  created : List Nat := []
  holds : Nat := 0
  deriving DecidableEq, Repr

/-- A plan request (R327–R331). -/
structure PlanReq where
  who : Who
  ctx : Nat
  /-- Requests accepted before this one. -/
  id : Nat := 0
  desc : List Byte
  watch : Option Nat := none
  snap : Nat
  held : Nat
  /-- Main samples and stop samples as 16 words each, and the planner's account of them (R328, R329). -/
  samples : List (List Word) := []
  stops : List (List Word) := []
  /-- The START sample, once read. -/
  start : List Word := []
  verified : Option Nat := none
  epoch : Nat := 0
  stopClear : Bool := false
  stopStep : Nat := 0
  goal : Bool := false
  exhausted : Bool := false
  pruned : Bool := false
  fallback : Bool := false
  usedOptimiser : Bool := false
  rounds : Nat := 0
  firstHit : Nat := 0xFFFFFFFF
  expansions : Nat := 0
  discards : Nat := 0
  visits : Nat := 0
  /-- The optimiser's job is under way; it has ended, with success or not. -/
  optimising : Bool := false
  optimised : Option Bool := none
  /-- What the optimiser's job took: engines, parks, heels. -/
  engines : Nat := 0
  parks : Nat := 0
  heels : Nat := 0
  publishAt : Nat := 0
  /-- Its stages have not run; the code it ends with, while its result waits to be written; an access of it parks. -/
  fresh : Bool := true
  ending : Option Nat := none
  waiting : Bool := false
  deriving DecidableEq, Repr

/-- A watch entry (R333). -/
structure Watch where
  latchedVa : Option Nat := none
  publishAt : Nat := 0
  firstHit : Nat := 0x3FF
  stopHit : Bool := false
  repairing : Bool := false
  checks : Nat := 0
  /-- The epoch held for the check. -/
  held : Option Nat := none
  /-- Dirty boxes of the publishes since the last check. -/
  boxes : List (List Int) := []
  deriving DecidableEq, Repr

/-- The planner beside its registers (R311–R336). -/
structure Plan where
  epochs : List Epoch := [{ num := 0 }]
  openEpoch : Option Epoch := none
  openWaiting : Option Who := none
  nextNode : Nat := 1
  freeNodes : List Nat := []
  requests : List PlanReq := []
  submitted : Nat := 0
  watches : Sparse Watch := []
  /-- Submissions whose descriptor parks: initiator, context and address. -/
  subs : List (Who × Nat × Nat) := []
  /-- UPDATEs that wait: initiator, context, address, and the epoch they hold (R312, R313). -/
  updates : List (Who × Nat × Nat × Nat) := []
  /-- Epoch commands that wait: initiator, OP and argument address. -/
  cmds : List (Who × Nat × Nat) := []
  /-- Accesses of the work in hand that park: context, address, bytes, and whether a write; and its first failure. Both are
  empty between steps. -/
  parked : List (Nat × Nat × Nat × Bool) := []
  trouble : Option (Nat × Nat × Nat × Nat × Nat) := none
  deriving DecidableEq, Repr

/-- A timed output (R347–R350). -/
structure Timed where
  /-- Next leading edge: its number k and scheduled full time; none when none is to come. -/
  next : Option (Nat × Nat) := none
  /-- Elapsed time of the trailing edge of the pulse in progress. -/
  trail : Option Nat := none
  asserted : Bool := false
  lastLead : Nat := 0
  /-- Mode 3: levels to take, by full time. -/
  reflex : List (Nat × Bool) := []
  deriving DecidableEq, Repr

/-- The clock unit beside its registers (R337–R353). Elapsed time is counted in 2^−32 ns. -/
structure Clock where
  acc : BitVec 64 := 0
  elapsed : Nat := 0
  era : Nat := 0
  pend : Nat := 0
  /-- Servo (R342): integrator, good samples in a row, the first-write flag of R341, elapsed time of the previous accepted
  write of source 2, and of the last sample. -/
  integ : Rat := 0
  good : Nat := 0
  first : Bool := true
  /-- Elapsed time of the last step (R353). -/
  stepAt : Option Nat := none
  lastSample : Option Nat := none
  lastOfsTime : Nat := 0
  timed : Sparse Timed := []
  /-- Capture FIFOs: (full time, level), oldest first. -/
  tc : Sparse (List (Nat × Bool)) := []
  /-- Elapsed time of the last accepted edge of each capture input. -/
  tcLast : Sparse Nat := []
  ptp : Sparse (List (Nat × Bool × Nat × Nat)) := []
  backupOsc : Bool := false
  deriving DecidableEq, Repr

/-- A mailbox command in progress (R360–R363). -/
structure MbCmd where
  slot : Nat
  deadline : Option Nat
  /-- Rhoson has started it. -/
  begun : Bool := false
  deriving DecidableEq, Repr

/-- The host link beside its registers (R355–R368). -/
structure Sdio where
  ready : Bool := true
  ioe : Byte := 0
  ior : Byte := 0
  ien : Byte := 0
  busWidth : Nat := 0
  speed : Nat := 0
  driverA : Bool := false
  sai : Bool := false
  tuned : Bool := false
  s18a : Bool := false
  /-- Response to the last command: R4 of CMD5, data of a read. -/
  reply : List Byte := []
  /-- Function 1 memory: completion ring, command slots, reply buffers, by function 1 address. -/
  ram : List Host.Cell := []
  ring : RingSt := {}
  cmds : List MbCmd := []
  /-- Slots of the held host records, oldest first. -/
  heldSlots : List Nat := []
  /-- A CMD53 write of which words are still to come: function, fixed address or not, next address, latched WIN. -/
  transfer : Option (Nat × Bool × Nat × Nat) := none
  /-- Telemetry FIFO, oldest first, with the count of records generated and dropped since the last. -/
  fifo : List (List Byte) := []
  telSeq : Nat := 0
  telDropped : Nat := 0
  periods : List Nat := [100, 10, 100]
  /-- Elapsed time in ns at which the next heartbeat, power and thermal records are due. -/
  telNext : List Nat := [100000000, 10000000, 100000000]
  deriving DecidableEq, Repr

/-- A certificate accepted at start (R442, R443). -/
structure Cert where
  keyId : Nat
  usage : Nat
  kind : Nat
  pubkey : List Byte
  deriving DecidableEq, Repr

/-- What a start leaves (chapters 16 and 20). -/
structure Boot where
  recovery : Bool := false
  /-- Holds in reset (Table 16.7), for good. -/
  dead : Bool := false
  off : Bool := false
  rhosonVersion : Nat := 0
  imageVersion : Nat := 0
  certs : List Cert := []
  /-- Boot entries of the quote: type, key, version, digest (R450). -/
  entries : List (Nat × Nat × Nat × List Byte) := []
  idPublic : List Byte := []
  helper : List Byte := []
  enrolled : Bool := false
  events : Nat := 0
  quotes : Nat := 0
  /-- A start is due: a wake edge in Off, or a restart asked for, that START carries out. -/
  startDue : Bool := false
  seeds : Sparse (List Word) := []
  stewardCode : List Byte := []
  pullHeadroom : Nat := 512
  kennelTiles : Nat := 49728
  deriving DecidableEq, Repr

/-- A variant of a program (R75, R76): control words and, per bundle, engine words in logical order. -/
structure Variant where
  span : Nat
  bundles : List (BitVec 128 × List (BitVec 512))
  deriving DecidableEq, Repr

/-- The tables of a program that serve one span (R503). -/
structure Tables where
  span : Nat
  masks : List (BitVec 256) := []
  consts : List (BitVec 128) := []
  barges : List (List Byte) := []
  lockUses : List Nat := []
  deriving DecidableEq, Repr

/-- A loaded program (R105–R107, R450). -/
structure Program where
  /-- Unloaded: no kernel starts it again; one that runs goes on from the bundle stores. -/
  gone : Bool := false
  name : List Byte := []
  tool : Nat := 0
  keyId : Nat := 0
  digest : List Byte := []
  variants : List Variant := []
  tables : List Tables := []
  binds : List Nat := []
  deriving DecidableEq, Repr

/-- A towline (R391, R392, R402). -/
structure Towline where
  lanes : BitVec 8 := 0
  peer : Nat := 0
  up : Bool := false
  /-- Failures in a row of the flit being resent. -/
  failures : Nat := 0
  /-- Elapsed time in ns of the last heartbeat. -/
  lastBeat : Nat := 0
  deriving DecidableEq, Repr

/-- The cascade (R393–R404). Roles: 0 alone, 1 master, 2 standby, 3 member. -/
structure Casc where
  id : Nat := 0
  msel : Bool := false
  role : Nat := 0
  master : Option Nat := none
  standby : Option Nat := none
  live : BitVec 4 := 0
  expect : BitVec 4 := 0
  enabled : Bool := false
  formed : Bool := false
  formMs : Nat := 500
  /-- Elapsed time in ns of CMD5 C = 1. -/
  startNs : Nat := 0
  links : Sparse Towline := []
  /-- CASC_ALIVE is asserted. -/
  alive : Bool := true
  /-- The last share: elapsed time in ns, and the modules then live. -/
  lastShare : Nat := 0
  liveAtShare : Nat := 1
  reports : List ModuleReport := []
  shares : List (Nat × Nat) := []
  masks : Sparse (BitVec 4) := []
  /-- Modules that left a context's MASK by LEAVE. -/
  left : Sparse (BitVec 4) := []
  pages : Sparse Nat := []
  /-- Job records kept for cascade contexts until the job completes (R398). -/
  copies : Sparse (List Job) := []
  leaving : Option (Fin 4) := none
  joining : Option (Fin 4) := none
  /-- Attempts begun, by context (R400). -/
  attempts : Sparse Nat := []
  timeMessages : Nat := 0
  deriving DecidableEq, Repr

/-- Power states (Table 18.1). -/
inductive PState where
  | run | idle | sleep | deep | off
  deriving DecidableEq, Repr

/-- The power manager beside its registers (chapter 18, R484–R492). -/
structure Power where
  state : PState := .run
  /-- The state an accepted entry leads to, while it is in progress; a wake event has come since it was accepted. -/
  entering : Option PState := none
  wake : Bool := false
  /-- Elapsed time in ns by which barges in flight must have completed (R416). -/
  entryLimit : Nat := 0
  /-- Full device time, and elapsed time in ns, at the entry. -/
  entryTime : Nat := 0
  entryNs : Nat := 0
  /-- PWR_DOM_0 to _2 as they read before the entry. -/
  doms : List Word := []
  /-- Elapsed time in ns at which the slow-clock alarm fires (R417). -/
  alarm : Option Nat := none
  vinGood : Bool := true
  /-- VOUT_1V8 and VOUT_3V3 are present (R483). -/
  rails : Bool := true
  /-- THERMTRIP_N is low. -/
  thermtrip : Bool := false
  /-- The run-on after a 115 °C trip ends at this elapsed time in ns. -/
  runOn : Option Nat := none
  phasesLost : Nat := 0
  deriving DecidableEq, Repr

/-- Governor, droop and thermal state (chapter 19). -/
structure Thermal where
  sensors : Sparse Int := []
  hyst : Nat := 8
  stretching : Sparse Bool := []
  /-- Stretched cycles of each engine: when each episode ended, in ns, and its cycles. -/
  stretched : Sparse (List (Nat × Nat)) := []
  /-- Engines whose clock a heel holds at step 8 or above (R180). -/
  heelRaise : BitVec 8 := 0
  interval : Nat := 0
  measuredUj : Nat := 0
  deriving DecidableEq, Repr

/-- The fault logger and in-service repair beside the registers (chapter 21). -/
structure FaultLog where
  records : Sparse (List Word) := []
  seq : Nat := 0
  tail : Nat := 0
  unread : Nat := 0
  /-- Corrected errors: elapsed times by row address (SRAM) and by tile (PSRAM). -/
  rows : Sparse (List Nat) := []
  tiles : Sparse (List Nat) := []
  spares : Sparse Nat := []
  /-- Armed injection: word address, and codeword bits to invert at the next write. -/
  inject : Option (Nat × BitVec 72) := none
  /-- Last voted-copy faults by block: elapsed time. -/
  voted : Sparse Nat := []
  deriving DecidableEq, Repr

/-- The device. -/
structure State where
  /-- Commands that wait, first in, first out. -/
  pending : List Instr := []
  regs : Sparse Word := []
  latches : Sparse Word := []
  bus : Sparse BusResult := []
  mem : List Host.Cell := []
  flips : Sparse (BitVec 72) := []
  nor : List Host.Cell := []
  links : Sparse LinkSt := []
  fabricEnded : Bool := false
  engines : Sparse Engine := []
  /-- Kennels still to drain from each engine: context and logical number, in order (R181). -/
  drains : Sparse (List (Nat × Nat)) := []
  /-- Engines whose kernels the Collie heels for a ready kernel: that kernel's context (R178). -/
  claims : Sparse Nat := []
  progs : Sparse Program := []
  nextHandle : Nat := 1
  ctxs : Sparse Context := []
  residual : Sparse Nat := []
  /-- What COL_SEL latched: COL_CTX_STATE and the accounts. -/
  selState : Word := 0
  selAccts : Sparse Nat := []
  locks : Sparse Lock := []
  waits : List LWait := []
  xlat : Xlat := {}
  chanQueues : Sparse (List Barge) := []
  flying : Sparse Barge := []
  /-- The barge channel served last (R230). -/
  served : Nat := 0
  psram : Sparse PsChan := []
  ftl : Ftl := {}
  reflex : Reflex := {}
  ports : Ports := {}
  grid : Grid := {}
  plan : Plan := {}
  clock : Clock := {}
  sdio : Sdio := {}
  boot : Boot := {}
  casc : Casc := {}
  power : Power := {}
  therm : Thermal := {}
  faults : FaultLog := {}
  /-- Free values drawn so far: the model's own field (log entry 1). -/
  freeCount : Nat := 0
  deriving DecidableEq, Repr

/-- Context 1,023, the class-7 migration context Rhoson creates at start (R167, Table 7.5's default weight). -/
def Context.migration : Context := { st := .ready, desc := { cls := 7, weight := 16 } }

/-- The device after start-up completes, before any image section is applied (R10). -/
def State.reset : State := { ctxs := [(1023, Context.migration)] }

end Sys2Proof.Machine
end

