-- ==== Sys2Proof/Machine/Tables.lean ====
section
/-!
DEFINITION. Sys2Proof/Machine/Tables.lean: tables with a default, the canonical list of memory bytes, and fields of
words. Everything that stores or finds something does it with these operations.
-/
namespace Sys2Proof

/-- The entry at `k`, if one is listed. -/
def Sparse.find {α : Type} : Sparse α → Nat → Option α
  | [], _ => none
  | (j, a) :: t, k => if j = k then some a else Sparse.find t k

/-- The entry at `k`, or the table's default. -/
def Sparse.at {α : Type} (t : Sparse α) (k : Nat) (d : α) : α := (t.find k).getD d

/-- The table with `a` at `k`. -/
def Sparse.put {α : Type} : Sparse α → Nat → α → Sparse α
  | [], k, a => [(k, a)]
  | (j, b) :: t, k, a =>
    if j < k then (j, b) :: Sparse.put t k a
    else if j = k then (k, a) :: t
    else (k, a) :: (j, b) :: t

/-- The table with the default at `k`. -/
def Sparse.drop {α : Type} (t : Sparse α) (k : Nat) : Sparse α := t.filter fun e => e.1 ≠ k

/-- The keys rise strictly: the one form a table has. -/
def Sparse.rising {α : Type} : Sparse α → Bool
  | [] => true
  | [_] => true
  | (j, _) :: (k, b) :: t => j < k && Sparse.rising ((k, b) :: t)

/-- Bits [hi:lo] of a word as a number. -/
def field {w : Nat} (x : BitVec w) (hi lo : Nat) : Nat := x.toNat / 2 ^ lo % 2 ^ (hi + 1 - lo)

/-- Bit `i` of a word. -/
def flag {w : Nat} (x : BitVec w) (i : Nat) : Bool := x.getLsbD i

/-- `x` with bits [hi:lo] replaced by those of `v`. -/
def setField {w : Nat} (x : BitVec w) (hi lo v : Nat) : BitVec w :=
  let mask : BitVec w := BitVec.ofNat w ((2 ^ (hi + 1 - lo) - 1) * 2 ^ lo)
  (x &&& ~~~mask) ||| (BitVec.ofNat w (v * 2 ^ lo) &&& mask)

/-- A number built of fields: (value, low bit). -/
def pack (fs : List (Nat × Nat)) : Nat := fs.foldl (fun a f => a + f.1 * 2 ^ f.2) 0

def b2n (b : Bool) : Nat := if b then 1 else 0

/-- A number as `n` bytes, least significant first (R6). -/
def bytesOf : Nat → Nat → List Byte
  | 0, _ => []
  | n + 1, x => BitVec.ofNat 8 x :: bytesOf n (x / 256)

/-- Little-endian bytes as a number (R6). -/
def natOf : List Byte → Nat
  | [] => 0
  | b :: t => b.toNat + 256 * natOf t

/-- Bytes `off` to `off + n − 1` as a number; missing bytes are zero. -/
def natAt (bs : List Byte) (off n : Nat) : Nat := natOf ((bs.drop off).take n)

/-- The two's-complement reading of the low `w` bits. -/
def signed (w x : Nat) : Int := (BitVec.ofNat w x).toInt

/-- A list padded with zeros, or cut, to `n` bytes. -/
def fit (n : Nat) (bs : List Byte) : List Byte := bs.take n ++ List.replicate (n - bs.length) 0

/-- The first index below `n` at which `p` holds. -/
def firstBelow (n : Nat) (p : Nat → Bool) : Option Nat := (List.range n).find? p

def Word.ofNat (n : Nat) : Word := BitVec.ofNat 32 n

/-- A counter one higher that holds at its top value. -/
def satInc (top n : Nat) : Nat := min top (n + 1)

end Sys2Proof

namespace Sys2Proof.Machine

/-- The byte at `a`; a byte that is not listed reads `d`. -/
def Memory.byteOr (d : Byte) : List Host.Cell → Nat → Byte
  | [], _ => d
  | (j, b) :: t, a => if j = a then b else Memory.byteOr d t a

/-- The byte of memory at `a`: memory is zero after a start (R502). -/
def Memory.byte (m : List Host.Cell) (a : Nat) : Byte := Memory.byteOr 0 m a

/-- The entries that `bytes` from `a` on need: those that differ from `d`. -/
def Memory.cells (d : Byte) : Nat → List Byte → List Host.Cell
  | _, [] => []
  | a, b :: t => if b = d then Memory.cells d (a + 1) t else (a, b) :: Memory.cells d (a + 1) t

/-- Memory with `bytes` stored from `a` on. -/
def Memory.store (d : Byte) (m : List Host.Cell) (a : Nat) (bytes : List Byte) : List Host.Cell :=
  m.filter (fun c => c.1 < a) ++ Memory.cells d a bytes ++ m.filter (fun c => a + bytes.length ≤ c.1)

/-- Memory with the `n` bytes from `b` on replaced by those from `a` on. -/
def Memory.copy (m : List Host.Cell) (a b n : Nat) : List Host.Cell :=
  m.filter (fun c => c.1 < b) ++
  (m.filter fun c => a ≤ c.1 && c.1 < a + n).map (fun c => (c.1 - a + b, c.2)) ++
  m.filter (fun c => b + n ≤ c.1)

/-- Memory with zeros in the `n` bytes from `a` on. -/
def Memory.clear (m : List Host.Cell) (a n : Nat) : List Host.Cell :=
  m.filter fun c => c.1 < a || a + n ≤ c.1

/-- The `n` bytes from `a` on, walking the entries at or above `a`. -/
def Memory.walk (d : Byte) : Nat → List Host.Cell → Nat → List Byte
  | 0, _, _ => []
  | n + 1, [], a => d :: Memory.walk d n [] (a + 1)
  | n + 1, (j, b) :: t, a =>
    if j = a then b :: Memory.walk d n t (a + 1) else d :: Memory.walk d n ((j, b) :: t) (a + 1)

/-- The `n` bytes from `a` on. -/
def Memory.load (d : Byte) (m : List Host.Cell) (a n : Nat) : List Byte :=
  Memory.walk d n (m.filter fun c => a ≤ c.1) a

/-- The canonical form: addresses strictly rising, and no entry equal to what an unlisted address reads as. -/
def Memory.wfOr (d : Byte) : List Host.Cell → Bool
  | [] => true
  | [c] => c.2 ≠ d
  | c :: e :: t => c.2 ≠ d && c.1 < e.1 && Memory.wfOr d (e :: t)

/-- The canonical form of memory. -/
def Memory.wf (m : List Host.Cell) : Bool := Memory.wfOr 0 m

end Sys2Proof.Machine
end

