-- ==== Sys2Proof/Machine/Numeric.lean ====
section
/-!
DEFINITION. Sys2Proof/Machine/Numeric.lean: the number formats (R47 to R54), rounding (R64, R65), conversions (R60 to
R63), FP32, BF16 and FP16 arithmetic and the dot unit's exact sums (R56 to R58). Values are exact: a finite value is
a magnitude times a power of two.
-/
namespace Sys2Proof.Machine

/-- A value: not a number, an infinity, or ±m × 2^e. -/
inductive Num where
  | nan
  | inf (neg : Bool)
  | fin (neg : Bool) (m : Nat) (e : Int)
  deriving DecidableEq, Repr

/-- A floating format: exponent and mantissa bits, bias, and its special codes (0 IEEE 754, 1 the one NaN of E4M3,
2 none). -/
structure Fp where
  ebits : Nat
  mbits : Nat
  bias : Nat
  special : Nat
  deriving DecidableEq, Repr

/-- Format codes (Table 2.2). -/
abbrev Fmt.int4 : Nat := 0
abbrev Fmt.int8 : Nat := 1
abbrev Fmt.e4m3 : Nat := 2
abbrev Fmt.e5m2 : Nat := 3
abbrev Fmt.bf16 : Nat := 4
abbrev Fmt.fp16 : Nat := 5
abbrev Fmt.fp32 : Nat := 6
abbrev Fmt.int32 : Nat := 7
abbrev Fmt.mxint8 : Nat := 13

/-- The floating layout of a format or of its elements. -/
def Fp.of : Nat → Option Fp
  | 2 | 11 => some ⟨4, 3, 7, 1⟩
  | 3 | 12 => some ⟨5, 2, 15, 0⟩
  | 4 => some ⟨8, 7, 127, 0⟩
  | 5 => some ⟨5, 10, 15, 0⟩
  | 6 => some ⟨8, 23, 127, 0⟩
  | 8 => some ⟨2, 1, 1, 2⟩
  | 9 => some ⟨3, 2, 3, 2⟩
  | 10 => some ⟨2, 3, 1, 2⟩
  | _ => none

abbrev Fp.single : Fp := ⟨8, 23, 127, 0⟩

/-- Bits of an element. -/
def Fmt.bits : Nat → Nat
  | 0 | 8 => 4
  | 9 | 10 => 6
  | 1 | 2 | 3 | 11 | 12 | 13 => 8
  | 4 | 5 => 16
  | _ => 32

def Fmt.isMx (f : Nat) : Bool := 8 ≤ f && f ≤ 13
def Fmt.isInt (f : Nat) : Bool := f = 0 || f = 1 || f = 7
def Fmt.reserved (f : Nat) : Bool := 13 < f

def Fp.width (f : Fp) : Nat := 1 + f.ebits + f.mbits

/-- The value of an encoding (R48). -/
def Fp.decode (f : Fp) (x : Nat) : Num :=
  let neg := x / 2 ^ (f.ebits + f.mbits) % 2 = 1
  let e := x / 2 ^ f.mbits % 2 ^ f.ebits
  let m := x % 2 ^ f.mbits
  let top := 2 ^ f.ebits - 1
  if f.special = 0 ∧ e = top then (if m = 0 then .inf neg else .nan)
  else if f.special = 1 ∧ e = top ∧ m = 2 ^ f.mbits - 1 then .nan
  else if e = 0 then .fin neg m (1 - (f.bias : Int) - f.mbits)
  else .fin neg (2 ^ f.mbits + m) ((e : Int) - f.bias - f.mbits)

/-- The value of an element of a format, before any block scale. -/
def Fmt.decode (fmt x : Nat) : Num :=
  match Fp.of fmt with
  | some f => f.decode x
  | none =>
    let w := Fmt.bits fmt
    let v := signed w x
    .fin (v < 0) v.natAbs (if fmt = Fmt.mxint8 then -6 else 0)

/-- The largest finite magnitude, as significand and exponent. -/
def Fp.largest (f : Fp) : Nat × Int :=
  match f.special with
  | 0 => (2 ^ (f.mbits + 1) - 1, (2 ^ f.ebits - 2 : Nat) - (f.bias : Int) - f.mbits)
  | 1 => (2 ^ (f.mbits + 1) - 2, (2 ^ f.ebits - 1 : Nat) - (f.bias : Int) - f.mbits)
  | _ => (2 ^ (f.mbits + 1) - 1, (2 ^ f.ebits - 1 : Nat) - (f.bias : Int) - f.mbits)

/-- Encodes ±keep × 2^q, which the format holds exactly. -/
def Fp.pack (f : Fp) (neg : Bool) (keep : Nat) (q : Int) : Nat :=
  let s := b2n neg * 2 ^ (f.ebits + f.mbits)
  if keep < 2 ^ f.mbits then s + keep
  else if keep = 2 ^ (f.mbits + 1) then s + (q + 1 + f.mbits + f.bias).toNat * 2 ^ f.mbits
  else s + (q + f.mbits + f.bias).toNat * 2 ^ f.mbits + (keep - 2 ^ f.mbits)

def Fp.maxBits (f : Fp) (neg : Bool) : Nat := f.pack neg f.largest.1 f.largest.2

/-- The canonical NaN (Table 2.3). -/
def Fp.canonicalNaN (f : Fp) : Nat :=
  if f.special = 1 then 2 ^ (f.ebits + f.mbits) - 1
  else (2 ^ f.ebits - 1) * 2 ^ f.mbits + 2 ^ (f.mbits - 1)

def Fp.infinity (f : Fp) (neg : Bool) : Nat := b2n neg * 2 ^ (f.ebits + f.mbits) + (2 ^ f.ebits - 1) * 2 ^ f.mbits

/-- Drops the low `d` bits of a magnitude: 0 to nearest even, 1 toward zero, 2 stochastic with 16 random bits `r`
(R64, R65). -/
def roundMag (mode mag d r : Nat) : Nat :=
  let keep := mag / 2 ^ d
  let f := mag % 2 ^ d
  match mode with
  | 0 => if d = 0 then keep
         else if 2 ^ d < 2 * f ∨ (2 * f = 2 ^ d ∧ keep % 2 = 1) then keep + 1 else keep
  | 1 => keep
  | _ =>
    let f16 := if 16 ≤ d then f / 2 ^ (d - 16) else f * 2 ^ (16 - d)
    if 65536 ≤ f16 + r % 65536 then keep + 1 else keep

/-- Rounds m × 2^e (m > 0) to the precision a format has there: significand and exponent of its last place. -/
def Fp.round (f : Fp) (mode r m : Nat) (e : Int) : Nat × Int :=
  let lead : Int := (Nat.log2 m : Int) + e
  let q := max lead (1 - (f.bias : Int)) - f.mbits
  if q ≤ e then (m * 2 ^ (e - q).toNat, q) else (roundMag mode m (q - e).toNat r, q)

/-- A rounded magnitude lies beyond the largest finite one. -/
def Fp.over (f : Fp) (keep : Nat) (q : Int) : Bool :=
  let (m, e) := f.largest
  let k := if keep = 2 ^ (f.mbits + 1) then 2 ^ f.mbits else keep
  let q' := if keep = 2 ^ (f.mbits + 1) then q + 1 else q
  e < q' || (q' = e && m < k)

/-- A conversion's result with what it adds to SAT_COUNT and NAN_COUNT. -/
structure Cv where
  bits : Nat
  sat : Nat := 0
  nan : Nat := 0
  deriving DecidableEq, Repr

/-- A value too large for a floating format (Table 2.5). -/
def Fp.overflow (f : Fp) (sat neg : Bool) : Cv :=
  if sat || f.special = 2 then { bits := f.maxBits neg, sat := 1 }
  else if f.special = 1 then { bits := f.canonicalNaN, nan := 1 }
  else { bits := f.infinity neg }

/-- A value in a floating format. -/
def Num.toFp (x : Num) (f : Fp) (mode r : Nat) (sat : Bool) : Cv :=
  match x with
  | .nan => { bits := f.canonicalNaN }
  | .inf neg => f.overflow sat neg
  | .fin neg m e =>
    if m = 0 then { bits := f.pack neg 0 0 }
    else
      let (k, q) := f.round mode r m e
      if f.over k q then f.overflow sat neg else { bits := f.pack neg k q }

/-- A value in a two's-complement format of `w` bits. -/
def Num.toInt' (x : Num) (w mode r : Nat) : Cv :=
  match x with
  | .nan => { bits := 0, nan := 1 }
  | .inf neg => { bits := if neg then 2 ^ (w - 1) else 2 ^ (w - 1) - 1, sat := 1 }
  | .fin neg m e =>
    let k := if 0 ≤ e then m * 2 ^ e.toNat else roundMag mode m (-e).toNat r
    if neg then (if 2 ^ (w - 1) < k then { bits := 2 ^ (w - 1), sat := 1 } else { bits := (2 ^ w - k) % 2 ^ w })
    else if 2 ^ (w - 1) ≤ k then { bits := 2 ^ (w - 1) - 1, sat := 1 } else { bits := k }

/-- Whether Table 2.5 has a row for a conversion between formats that are not MX. -/
def listedConversion (fin fout : Nat) : Bool :=
  (4 ≤ fin && fin ≤ 6 && fout ≤ 7) ||
  ((fin = 2 || fin = 3) && 4 ≤ fout && fout ≤ 6) ||
  (fin = 7 && (fout = 6 || fout ≤ 1)) || (fin ≤ 1 && (fout = 1 || fout = 7))

/-- A conversion of one element between formats that are not MX (R60 to R62). -/
def convert (fin fout mode r : Nat) (sat : Bool) (x : Nat) : Cv :=
  if fin = fout then { bits := x }
  else if !listedConversion fin fout then { bits := Config.otherConversion fin fout x % 2 ^ Fmt.bits fout }
  else
    let v := Fmt.decode fin x
    match Fp.of fout with
    | some f =>
      let wider := Fmt.bits fin < Fmt.bits fout
      v.toFp f mode r (sat && !wider)
    | none => v.toInt' (Fmt.bits fout) mode r

/-! ## MX blocks (R51 to R54) -/

def Num.isNaN : Num → Bool
  | .nan => true
  | _ => false

/-- `x` times 2^k. -/
def Num.scale (x : Num) (k : Int) : Num :=
  match x with
  | .fin n m e => .fin n m (e + k)
  | y => y

/-- An MX element under its block scale: a scale of 0xFF is NaN (R53). -/
def mxValue (fmt elem scale : Nat) : Num :=
  if scale = 0xFF then .nan else (Fmt.decode fmt elem).scale ((scale : Int) - 127)

/-- emax of R54. -/
def mxEmax : Nat → Int
  | 8 => 2
  | 9 => 4
  | 10 => 2
  | 11 => 8
  | 12 => 15
  | _ => 0

/-- floor(log2 |x|) of a finite value other than zero. -/
def Num.lead : Num → Option Int
  | .fin _ m e => if m = 0 then none else some (Nat.log2 m + e)
  | _ => none

/-- A block's elements, its scale and its counts. -/
structure MxBlock where
  elems : List Nat
  scale : Nat
  sat : Nat
  nan : Nat
  deriving DecidableEq, Repr

/-- Infinities as ±largest FP32, where SAT is set (Table 2.5). -/
def Num.clampInf (sat : Bool) : Num → Num
  | .inf n => if sat then .fin n Fp.single.largest.1 Fp.single.largest.2 else .inf n
  | x => x

/-- One element of a block of scale 2^x. -/
def mxElement (fmt mode r : Nat) (x : Int) (i : Nat) (v : Num) : Cv :=
  match v with
  | .fin _ _ _ =>
    let y := v.scale (-x)
    match Fp.of fmt with
    | some f => y.toFp f mode r true
    | none => (y.scale 6).toInt' 8 mode r
  | _ => { bits := Config.nanElement fmt i % 2 ^ Fmt.bits fmt }

/-- 32 values to one MX block (R54). An infinity that SAT holds at a finite value counts once (R60). -/
def toMx (fmt mode : Nat) (sat : Bool) (rs : List Nat) (vs : List Num) : MxBlock :=
  let ws := vs.map (Num.clampInf sat)
  let lead := (ws.filterMap Num.lead).foldl (fun a b => match a with | none => some b | some c => some (max c b)) none
  let x : Int := match lead with
    | none => -127
    | some l => max (-127) (min 127 (l - mxEmax fmt))
  let cs := (ws.zipIdx).map fun (v, i) => mxElement fmt mode (rs.getD i 0) x i v
  let isNan := vs.any Num.isNaN
  let isInf := ws.any fun v => match v with | .inf _ => true | _ => false
  { elems := cs.map (·.bits), scale := if isNan || isInf then 0xFF else (x + 127).toNat,
    sat := ((cs.zip vs).map fun p => if sat && (p.2 matches .inf _) then 1 else p.1.sat).sum, nan := b2n (isInf && !isNan) }

/-! ## Arithmetic (R57, R58, R71) -/

/-- The exact sum. A sum of opposite values is +0, of zeros of one sign that zero. -/
def Num.add : Num → Num → Num
  | .nan, _ | _, .nan => .nan
  | .inf a, .inf b => if a = b then .inf a else .nan
  | .inf a, _ | _, .inf a => .inf a
  | .fin a m e, .fin b n f =>
    let g := min e f
    let x : Int := (if a then -1 else 1) * (m * 2 ^ (e - g).toNat : Nat)
    let y : Int := (if b then -1 else 1) * (n * 2 ^ (f - g).toNat : Nat)
    let z := x + y
    if z = 0 then .fin (a && b) 0 g else .fin (z < 0) z.natAbs g

/-- The exact product. -/
def Num.mul : Num → Num → Num
  | .nan, _ | _, .nan => .nan
  | .inf a, .inf b => .inf (a != b)
  | .inf a, .fin b n _ => if n = 0 then .nan else .inf (a != b)
  | .fin a m _, .inf b => if m = 0 then .nan else .inf (a != b)
  | .fin a m e, .fin b n f => .fin (a != b) (m * n) (e + f)

def Num.negate : Num → Num
  | .nan => .nan
  | .inf a => .inf (!a)
  | .fin a m e => .fin (!a) m e

/-- −1, 0 or 1 as a finite or infinite value lies below, at or above another; none with a NaN. -/
def Num.cmp (x y : Num) : Option Int :=
  match x, y with
  | .nan, _ | _, .nan => none
  | .inf a, .inf b => some (if a = b then 0 else if a then -1 else 1)
  | .inf a, _ => some (if a then -1 else 1)
  | _, .inf b => some (if b then 1 else -1)
  | .fin a m e, .fin b n f =>
    let g := min e f
    let u : Int := (if a then -1 else 1) * (m * 2 ^ (e - g).toNat : Nat)
    let v : Int := (if b then -1 else 1) * (n * 2 ^ (f - g).toNat : Nat)
    some (if u < v then -1 else if u = v then 0 else 1)

/-- A result rounded to a format: beyond its range it is infinite, or the largest finite value toward zero. -/
def Num.rounded (x : Num) (f : Fp) (mode r : Nat) : Nat := (x.toFp f mode r (mode = 1 && !(x matches .inf _))).bits

/-- One FP32 sum, product or fused multiply-add under a mode. -/
def fp32 (w : Word) : Num := Fp.single.decode w.toNat
def Num.toWord (x : Num) (mode r : Nat := 0) : Word := Word.ofNat (x.rounded Fp.single mode r)

/-- The exact sum of values; of none, +0. -/
def Num.sum : List Num → Num
  | [] => .fin false 0 0
  | x :: t => t.foldl Num.add x

/-- One FP32 accumulator entry after a group of products: one rounding to nearest even (R57), and whether a NaN arose
from operands that were not NaN (R58). MACZ adds to no entry, so products of −0 stay −0 (R48). -/
def dotFp (acc : Option Word) (products : List Num) (operandNaN : Bool) : Word × Bool :=
  let old := (acc.map fp32).toList
  let t := Num.sum (old ++ products)
  (t.toWord, t.isNaN && !operandNaN && !old.any Num.isNaN)

/-- One INT32 accumulator entry after a group of products: a sum beyond a limit is held there, and stays there until the
entry is overwritten (R56). Answers whether the entry saturates, and whether it is saturated. -/
def dotInt (acc : Word) (stuck : Bool) (sum : Int) : Word × Bool × Bool :=
  let t := acc.toInt + sum
  if stuck then (acc, false, true)
  else if 2 ^ 31 - 1 < t then (BitVec.ofInt 32 (2 ^ 31 - 1), true, true)
  else if t < -2 ^ 31 then (BitVec.ofInt 32 (-2 ^ 31), true, true)
  else (BitVec.ofInt 32 t, false, false)

/-! ## Packing (R49) -/

/-- Element `i` of packed elements of `w` bits. -/
def unpackAt (w : Nat) (bs : List Byte) (i : Nat) : Nat :=
  let bit := i * w
  natAt bs (bit / 8) 5 / 2 ^ (bit % 8) % 2 ^ w

/-- Elements of `w` bits packed little-endian. -/
def packElems (w : Nat) (es : List Nat) : List Byte :=
  bytesOf ((es.length * w + 7) / 8) (es.foldr (fun e a => a * 2 ^ w + e % 2 ^ w) 0)

/-- Rotates a 32-bit word left. -/
def rotl32 (x : Word) (n : Nat) : Word := x.rotateLeft (n % 32)

/-- One step of a cell's LFSR (R66). -/
def lfsrStep (s : Word) : Word :=
  (s <<< 1) ||| Word.ofNat (b2n (flag s 31 ^^ flag s 21 ^^ flag s 1 ^^ flag s 0))

def lfsr32 (s : Word) : Word := (List.range 32).foldl (fun x _ => lfsrStep x) s

/-- The 16 random bits of lane `j` (R66). -/
def lfsrBits (s : Word) (j : Nat) : Nat := (rotl32 s j).toNat % 65536

end Sys2Proof.Machine
end

