-- ==== Sys2Proof/Machine/Functions.lean ====
section
/-!
DEFINITION. Sys2Proof/Machine/Functions.lean: the functions of Table 2.6. The spec bounds their errors and fixes no result
(R68, R71): each is computed here to far below a unit in the last place, and the result is a free choice among the FP32
values within the bound of it (log entry 5).
-/
namespace Sys2Proof.Machine

/-- A real number, as a multiple of 2^−256. -/
abbrev Fx := Int

abbrev Fx.one : Fx := 2 ^ 256

def Fx.mul (x y : Fx) : Fx := x * y / 2 ^ 256

def Fx.quot (x y : Fx) : Fx := x * 2 ^ 256 / y

def Fx.sqrt (x : Fx) : Fx := Nat.sqrt (x.toNat * 2 ^ 256)

/-- x × 2^k. -/
def Fx.shift (x : Fx) (k : Int) : Fx := if 0 ≤ k then x * 2 ^ k.toNat else x / 2 ^ (-k).toNat

/-- The value of a finite FP32 word; 0 for another. -/
def Fx.ofWord (w : Word) : Fx :=
  match fp32 w with
  | .fin n m e => (if n then -1 else 1) * (m * 2 ^ (e + 256).toNat : Nat)
  | _ => 0

/-! ## Series -/

/-- z + z³/3 + z⁵/5 + …, or with signs that alternate: `n` terms, from the one with divisor `d`. -/
def Fx.odd (alternate : Bool) (z2 : Fx) : Nat → Nat → Fx → Fx
  | 0, _, _ => 0
  | n + 1, d, p => p / d + Fx.odd alternate z2 n (d + 2) (if alternate then -(p.mul z2) else p.mul z2)

def Fx.ln2 : Fx := 2 * Fx.odd false (Fx.one / 9) 90 1 (Fx.one / 3)

def Fx.pi : Fx :=
  16 * Fx.odd true (Fx.one / 25) 60 1 (Fx.one / 5) - 4 * Fx.odd true (Fx.one / 57121) 20 1 (Fx.one / 239)

/-- 1 + r + r²/2 + …, from the term `p` with divisor `d`. -/
def Fx.expTerms (r : Fx) : Nat → Nat → Fx → Fx
  | 0, _, _ => 0
  | n + 1, d, p => p + Fx.expTerms r n (d + 1) (p.mul r / d)

/-- e^x, for |x| up to 200. -/
def Fx.exp (x : Fx) : Fx :=
  let k := x / Fx.ln2
  Fx.shift (Fx.expTerms (x - k * Fx.ln2) 60 1 Fx.one) k

/-- The natural logarithm of a positive value. -/
def Fx.log (x : Fx) : Fx :=
  let e : Int := (Nat.log2 x.toNat : Int) - 256
  let m := Fx.shift x (-e)
  let z := (m - Fx.one).quot (m + Fx.one)
  e * Fx.ln2 + 2 * Fx.odd false (z.mul z) 90 1 z

/-- The arctangent of t ≥ 0. -/
def Fx.atan (t : Fx) : Fx :=
  let half (u : Fx) : Fx := u.quot (Fx.one + Fx.sqrt (Fx.one + u.mul u))
  let small (u : Fx) : Fx :=
    let z := half (half u)
    4 * Fx.odd true (z.mul z) 60 1 z
  if t ≤ Fx.one then small t else Fx.pi / 2 - small (Fx.one.quot t)

/-- The angle of the point (x, y). -/
def Fx.atan2 (y x : Fx) : Fx :=
  let a : Fx := if x = 0 then (if y = 0 then 0 else Fx.pi / 2) else Fx.atan (Fx.quot (y.natAbs : Int) (x.natAbs : Int))
  let b := if x < 0 then Fx.pi - a else a
  if y < 0 then -b else b

/-- p − p r²/((d)(d+1)) + …: the terms of a sine or cosine. -/
def Fx.waveTerms (r2 : Fx) : Nat → Nat → Fx → Fx
  | 0, _, _ => 0
  | n + 1, d, p => p + Fx.waveTerms r2 n (d + 2) (-(p.mul r2 / (d * (d + 1))))

/-- The sine of x + q quarter turns. -/
def Fx.sine (x : Fx) (q : Int) : Fx :=
  let n := 2 * x / Fx.pi
  let r := x - n * Fx.pi / 2
  let r2 := r.mul r
  let k := (n + q) % 4
  let v := if k % 2 = 0 then Fx.waveTerms r2 45 2 r else Fx.waveTerms r2 45 1 Fx.one
  if 2 ≤ k then -v else v

/-- z − z³/3 + z⁵/10 − …: the terms of the error function, with z^(2n+1)/n! carried on. -/
def Fx.erfTerms (z2 : Fx) : Nat → Nat → Fx → Fx
  | 0, _, _ => 0
  | fuel + 1, n, p => p / (2 * n + 1) + Fx.erfTerms z2 fuel (n + 1) (-(p.mul z2 / (n + 1)))

/-- The error function. -/
def Fx.erf (z : Fx) : Fx :=
  if 10 * Fx.one < z then Fx.one else if z < -10 * Fx.one then -Fx.one
  else (2 * Fx.erfTerms (z.mul z) 450 0 z).quot (Fx.sqrt Fx.pi)

/-! ## Functions -/

/-- x held between −200 and 200. -/
def Fx.clamp (x : Fx) : Fx := max (-200 * Fx.one) (min (200 * Fx.one) x)

def Fx.sigmoid (x : Fx) : Fx := Fx.one.quot (Fx.one + Fx.exp (-x.clamp))

def Fx.tanh (x : Fx) : Fx :=
  let e := Fx.exp (2 * max (-90 * Fx.one) (min (90 * Fx.one) x))
  (e - Fx.one).quot (e + Fx.one)

/-- The value of a function of Table 2.6 (R71, R72); none beyond what FP32 could hold. -/
def exactFn (vop : Nat) (a b : Fx) : Option Fx :=
  match vop with
  | 0x10 => if a = 0 then none else some (Fx.one.quot a)
  | 0x11 => if a ≤ 0 then none else some (Fx.one.quot a.sqrt)
  | 0x12 => if a < 0 then none else some a.sqrt
  | 0x13 => if b = 0 then none else some (a.quot b)
  | 0x14 => if 150 * Fx.one < a.natAbs then none else some (Fx.exp (a.mul Fx.ln2))
  | 0x15 => if 150 * Fx.one < a.natAbs then none else some a.exp
  | 0x16 => if a ≤ 0 then none else some (a.log.quot Fx.ln2)
  | 0x17 => if a ≤ 0 then none else some a.log
  | 0x18 => some a.sigmoid
  | 0x19 => some a.tanh
  | 0x1A => some (a.mul a.sigmoid)
  | 0x1B => some (a.mul (Fx.one + Fx.erf (a.quot (Fx.sqrt (2 * Fx.one)))) / 2)
  | 0x1C => some (Fx.sine a 0)
  | 0x1D => some (Fx.sine a 1)
  | 0x1E => some (Fx.atan2 a b)
  | _ => none

/-- A value lies in the normal range of FP32. -/
def Fx.normal (v : Fx) : Bool := 2 ^ 130 ≤ v.natAbs && v.natAbs < 2 ^ 384

/-- One unit in the last place of FP32 at a normal value. -/
def Fx.ulp (v : Fx) : Fx := 2 ^ (Nat.log2 v.natAbs - 23)

/-- Units in the last place that Table 2.6 allows a function. -/
def fnUlps : Nat → Nat
  | 0x10 | 0x12 => 1
  | 0x15 | 0x17 => 3
  | 0x18 | 0x19 | 0x1C | 0x1D | 0x1E => 4
  | 0x1A => 5
  | 0x1B => 8
  | _ => 2

/-- The error Table 2.6 allows a function at argument `a` and value `v`, in its own words an absolute one where it gives
one; none where it gives none. Other modes than to nearest add half a unit (R71). -/
def fnBound (vop mode : Nat) (a v : Fx) : Option Fx :=
  let extra : Fx := if mode = 0 || !v.normal then 0 else v.ulp / 2
  let abs : Option Fx :=
    if (vop = 0x16 || vop = 0x17) && Fx.one / 2 ≤ a && a ≤ 2 * Fx.one then some (2 ^ 234)
    else if vop = 0x19 && a.natAbs < 2 ^ 252 then some (2 ^ 233)
    else if vop = 0x1B && v.natAbs < 2 ^ 248 then some (2 ^ 235)
    else if (vop = 0x1C || vop = 0x1D) && 1024 * Fx.one < a.natAbs then some (a.natAbs / 2 ^ 23)
    else if vop = 0x1C || vop = 0x1D then some (max (2 ^ 234) (if v.normal then 4 * v.ulp else 0))
    else none
  match abs with
  | some b => some (b + extra)
  | none => if v.normal then some (fnUlps vop * v.ulp + extra) else none

/-! ## FP32 values within a bound -/

/-- The place among the non-negative FP32 values of the last one not above `m` × 2^−256, and whether it is that. -/
def Fx.place (m : Nat) : Nat × Bool :=
  let x : Num := .fin false m (-256)
  let bits := (x.toFp Fp.single 1 0 true).bits
  (bits, (fp32 (Word.ofNat bits)).cmp x = some 0)

/-- The place of the last FP32 value at or below `v`; below zero the places are negative. -/
def Fx.below (v : Fx) : Int :=
  let (p, same) := Fx.place v.natAbs
  if 0 ≤ v then p else if same then -p else -(p + 1)

/-- The place of the first FP32 value at or above `v`. -/
def Fx.above (v : Fx) : Int := -(Fx.below (-v))

/-- The FP32 value at a place. -/
def placeWord (p : Int) : Word := Word.ofNat (if p < 0 then 2 ^ 31 + p.natAbs else p.toNat)

/-- An FP32 value from `lo` to `hi`, which one the free value says; the first above `lo` if there is none. -/
def anyWithin (lo hi : Fx) (free : Word) : Word :=
  let a := Fx.above lo
  let b := Fx.below hi
  placeWord (if a ≤ b then a + (free.toNat : Int) % (b - a + 1) else a)

/-- A word whose value is normal. -/
def normalWord (w : Word) : Bool := 1 ≤ field w 30 23 && field w 30 23 ≤ 254

/-- A function's result on operands for which R72 states none: within the bound of Table 2.6 for normal inputs and results,
and free elsewhere. -/
def boundedFn (vop mode : Nat) (two : Bool) (a b free : Word) : Word :=
  if normalWord a && (!two || normalWord b) then
    match exactFn vop (.ofWord a) (.ofWord b) with
    | some v => match fnBound vop mode (.ofWord a) v with
      | some e => anyWithin (v - e) (v + e) free
      | none => free
    | none => free
  else free

end Sys2Proof.Machine
end

