-- ==== Sys2Proof/Machine/Regs.lean ====
section
/-!
DEFINITION. Sys2Proof/Machine/Regs.lean: the control registers (R6 to R12), one name for each row of the manual's
register tables: where its instances lie, what they reset to, and which bits are RW, W1C and RC (R8). Every other
bit is RO, or WO and reads zero.
-/
namespace Sys2Proof.Machine

/-- The control registers, by block. -/
inductive Reg where
  -- SYS: Tables 1.3, 1.4, 16.9
  | sysId | sysGrant | bootStat | bootTime | bootUnits | bootPsc | bootTow | bootVerLo | bootVerHi
  | bootSeedsSel | bootSeeds | sysRestart
  -- PWR: Tables 18.7, 19.7
  | pwrState | pwrReq | pwrIdleAuto | pwrWakeEn | pwrWakeCause | pwrRetain | pwrSave | pwrGate | pwrExitUs
  | pwrDom | pwrRefused | pwrLogHead | pwrLog | pwrLogTime | pwrBudget | pwrShare | pwrMeas | pwrVin | pwrIin
  | pwrModmax | pwrGov
  -- THERM: Table 19.8
  | thermStat | thermHot | thermSel | thermRead | thermCool | thermFlow | thermCap | thermThrot
  -- COL: Tables 7.10 to 7.17
  | colDescLo | colDescHi | colCmd | colCmdStatus | colDoorbell | colCons | colSel | colCtxState | colAcctLo
  | colAcctHi | colHeelMax | colHeelCount | colEngLive | colDropped
  -- LOCK: Tables 8.5 to 8.9
  | lockCmd | lockArg | lockArg2 | lockTag | lockStatus | lockLast | lockSel | lockInfo | lockJobadd
  | lockLevel
  -- BARGE: Table 9.7
  | bargeDescLo | bargeDescHi | bargeSubmit | bargeStatus | bargeInflight | bargeRetries
  -- XLAT: Tables 9.6, 5.8 to 5.11
  | kvCmd | kvResult | kvCount | kvPtabLo | kvPtabHi | xlatInv | xlatInvVa | xlatInvStatus | xlatPinTile
  | xlatPinOp | xlatMirrorBase | xlatMirrorSize | xlatSplitLo | xlatSplitHi | xlatTagSel | xlatTag | xlatStat
  -- PSC: Table 9.8
  | pscLive | pscBacked | pscChSel | pscChStat
  -- FTL: Table 9.8
  | ftlStatus | ftlWear | ftlRefresh | ftlBadblk
  -- WEIR: Table 11.5
  | weirQBase | weirQSize | weirQCfg | weirQHigh | weirQLow | weirQFc | weirQStat | weirQDrop | weirQSrc
  | weirQWr | weirQCm | weirQRd | weirQMk | weirQRl | weirFcPol | weirFcState | weirBankEcc | weirCmd
  | weirStatus
  -- GRID: Table 12.3
  | gridDescLo | gridDescHi | gridSubmit | gridStatus | gridTabLo | gridTabHi | gridTabCmd | gridTabStatus
  | gridGen | gridAlignCfg | gridAlignPeriod | gridAlignLat | gridAlignDelta | gridExclLo | gridExclHi
  | gridStat
  -- PLAN: Table 13.8
  | planDescLo | planDescHi | planSubmit | planStatus | epochVaLo | epochVaHi | epochCmd | epochStatus
  | planCurLo | planCurHi | planOldLo | planOldHi | planRetained | planOwner | planOrigin | planNodeLo
  | planNodeHi | planNodeCount | planNodeFree | watchVaLo | watchVaHi | watchDescLo | watchDescHi | watchCfg
  | watchStat | planStat | planRepairMax | planQpeak
  -- TIME: Table 14.4
  | timeNowLo | timeNowHi | timeEraAck | timeStat | timeCfg | timeAdj | timeOfs | timeLastofs | timeStepLo
  | timeStepHi | timeStepGo | toCfg | toStartLo | toStartHi | toPeriod | toFrac | toWidth | toLast | tcCfg
  | tcHeadLo | tcHeadHi | tcStat | tcPop | macAdj | ptpLo | ptpHi | ptpInfo | ptpPop
  -- REFX: Table 10.10
  | refxTriad | refxSlice | refxSlotLo | refxSlotHi | refxSlotTime | refxCmd | refxStatus | refxLeashSel
  | refxLeashStat | refxLeashOut | refxLeashOvr | refxVote | refxRebuild
  -- SDIO: Table 15.8
  | sdioWin | sdioWinStatus | sdioMbSubmit | sdioMbCons | sdioMbStat | sdioIntStat | sdioIntEn | sdioTelLevel
  | sdioTelThresh | sdioTelLost | sdioStageBase | sdioStageSize | sdioStagePtr | sdioCrcerr
  -- TOW: Table 17.6
  | towRole | towStatus | towErr | towDelay | towCtxSel | towCtx | towCtxPageLo | towCtxPageHi | towCmd
  | towCmdStatus | towFailover
  -- SEC: Table 20.6
  | secStat | secIdLo | secIdHi | secRoot | secKeySel | secKeyLo | secKeyHi | secKeyInfo | secProgs
  | secSigfail | secQuotes
  -- ETH: Table 11.7
  | ethIng | ethRuleLo | ethRuleHi | ethRxerr | ethRxunm | ethPause
  -- CSI: Table 11.6
  | csiCfg | csiRoute | csiErr | csiFrames | csiUnrouted
  -- CAN: Table 11.8
  | spiIng | spiPeriod | spiSkip | spiTpl | uartIng | uartBaud | uartErr
  -- FAULT: Table 21.10
  | faultHead | faultSeq | faultTail | faultUnread | faultLost | faultThresh | faultSpare | faultRetUnits
  | faultRetPsc | faultRetTow | faultRetLink | faultInjLo | faultInjHi | faultInj | faultRec
  -- ENG: Tables 2.9 to 2.11, 3.11 to 3.14, 4.10, 19.8
  | engFclk | engSat | engNan | engPstat | engPc | engReloc | engYield | engPad | engDroop
  deriving DecidableEq, Repr

/-- A row of the register tables. Instance (i, j) lies at `base + i * si + j * sj` of control space. -/
structure Reg.Row where
  base : Nat
  ni : Nat := 1
  si : Nat := 0
  nj : Nat := 1
  sj : Nat := 0
  reset : Word := 0
  rw : Word := 0
  w1c : Word := 0
  rc : Word := 0
  deriving DecidableEq, Repr

/-- The register tables. WATCH_l_VA_HI, WATCH_l_DESC_HI and CTX_PAGE_HI, whose bit range the tables do not give, hold bits
[15:0], the upper bits of a 48-bit address (log entry 202). -/
def Reg.row : Reg → Reg.Row
  | .sysId => { base := 0x000000, reset := 0x86A12 }
  | .sysGrant => { base := 0x000010, rw := 0x1FFFFFFF }
  | .bootStat => { base := 0x000100 }
  | .bootTime => { base := 0x000104 }
  | .bootUnits => { base := 0x000108 }
  | .bootPsc => { base := 0x000110, ni := 3, si := 0x4 }
  | .bootTow => { base := 0x00011C }
  | .bootVerLo => { base := 0x000120 }
  | .bootVerHi => { base := 0x000124 }
  | .bootSeedsSel => { base := 0x000130, rw := 0x7F }
  | .bootSeeds => { base := 0x000134 }
  | .sysRestart => { base := 0x000140 }
  | .pwrState => { base := 0x010000, reset := 0xF00 }
  | .pwrReq => { base := 0x010004 }
  | .pwrIdleAuto => { base := 0x010008, reset := 0xC8, rw := 0x1FFFF }
  | .pwrWakeEn => { base := 0x010010, reset := 0x1FF, rw := 0x1FF }
  | .pwrWakeCause => { base := 0x010014, rc := 0x1FF }
  | .pwrRetain => { base := 0x010018, reset := 0xF, rw := 0xFFFFFFFF }
  | .pwrSave => { base := 0x01001C, rw := 0x7FFFF }
  | .pwrGate => { base := 0x010020, rw := 0xFFFF }
  | .pwrExitUs => { base := 0x010024 }
  | .pwrDom => { base := 0x010030, ni := 3, si := 0x4 }
  | .pwrRefused => { base := 0x010040, ni := 4, si := 0x4, rc := 0xFFFFFFFF }
  | .pwrLogHead => { base := 0x0100F0 }
  | .pwrLog => { base := 0x010100, ni := 16, si := 0x8 }
  | .pwrLogTime => { base := 0x010104, ni := 16, si := 0x8 }
  | .pwrBudget => { base := 0x010200, reset := 0x1C2, rw := 0xFFF }
  | .pwrShare => { base := 0x010204, reset := 0x1C2 }
  | .pwrMeas => { base := 0x010208 }
  | .pwrVin => { base := 0x01020C }
  | .pwrIin => { base := 0x010210 }
  | .pwrModmax => { base := 0x010214, reset := 0x1C2, rw := 0x1FF }
  | .pwrGov => { base := 0x010218, rc := 0xFFFFFFFF }
  | .thermStat => { base := 0x020000, w1c := 0x1C00 }
  | .thermHot => { base := 0x020004 }
  | .thermSel => { base := 0x020008, rw := 0x3F }
  | .thermRead => { base := 0x02000C }
  | .thermCool => { base := 0x020010 }
  | .thermFlow => { base := 0x020014 }
  | .thermCap => { base := 0x020018, ni := 2, si := 0x4 }
  | .thermThrot => { base := 0x020020, rc := 0xFFFFFFFF }
  | .colDescLo => { base := 0x030000, rw := 0xFFFFFFFF }
  | .colDescHi => { base := 0x030004, rw := 0xFFFF }
  | .colCmd => { base := 0x030010 }
  | .colCmdStatus => { base := 0x030014 }
  | .colDoorbell => { base := 0x030020 }
  | .colCons => { base := 0x030024 }
  | .colSel => { base := 0x030030, rw := 0x7FF }
  | .colCtxState => { base := 0x030034 }
  | .colAcctLo => { base := 0x030100, ni := 15, si := 0x8 }
  | .colAcctHi => { base := 0x030104, ni := 15, si := 0x8 }
  | .colHeelMax => { base := 0x030200, rc := 0xFFFF }
  | .colHeelCount => { base := 0x030204 }
  | .colEngLive => { base := 0x030208, reset := 0xFF }
  | .colDropped => { base := 0x03020C, rc := 0xFFFFFFFF }
  | .lockCmd => { base := 0x04010C, ni := 9, si := 0x20 }
  | .lockArg => { base := 0x040100, ni := 9, si := 0x20, rw := 0xFFFFFFFF }
  | .lockArg2 => { base := 0x040104, ni := 9, si := 0x20, rw := 0xFFFFFFFF }
  | .lockTag => { base := 0x040108, ni := 9, si := 0x20, rw := 0xFFFFFFFF }
  | .lockStatus => { base := 0x040110, ni := 9, si := 0x20 }
  | .lockLast => { base := 0x040114, ni := 9, si := 0x20 }
  | .lockSel => { base := 0x040040, rw := 0x1FFF }
  | .lockInfo => { base := 0x040044 }
  | .lockJobadd => { base := 0x040048 }
  | .lockLevel => { base := 0x048000, ni := 8192, si := 0x4 }
  | .bargeDescLo => { base := 0x050000, ni := 9, si := 0x10, rw := 0xFFFFFFFF }
  | .bargeDescHi => { base := 0x050004, ni := 9, si := 0x10, rw := 0xFFFF }
  | .bargeSubmit => { base := 0x050008, ni := 9, si := 0x10 }
  | .bargeStatus => { base := 0x05000C, ni := 9, si := 0x10 }
  | .bargeInflight => { base := 0x050200 }
  | .bargeRetries => { base := 0x050204, rc := 0xFFFFFFFF }
  | .kvCmd => { base := 0x060800, ni := 9, si := 0x10 }
  | .kvResult => { base := 0x060804, ni := 9, si := 0x10 }
  | .kvCount => { base := 0x060808, ni := 9, si := 0x10 }
  | .kvPtabLo => { base := 0x060900, rw := 0xFFFFFFFF }
  | .kvPtabHi => { base := 0x060904, rw := 0xFFFF }
  | .xlatInv => { base := 0x060000, ni := 9, si := 0x10 }
  | .xlatInvVa => { base := 0x060004, ni := 9, si := 0x10, rw := 0xFFFFFFFF }
  | .xlatInvStatus => { base := 0x060008, ni := 9, si := 0x10 }
  | .xlatPinTile => { base := 0x060100, rw := 0xFFFFFFFF }
  | .xlatPinOp => { base := 0x060104 }
  | .xlatMirrorBase => { base := 0x060110, rw := 0x7FFFF }
  | .xlatMirrorSize => { base := 0x060114, rw := 0xFFFF }
  | .xlatSplitLo => { base := 0x060120, rw := 0xFFFFFFFF }
  | .xlatSplitHi => { base := 0x060124, rw := 0xFFFF }
  | .xlatTagSel => { base := 0x060140, rw := 0x7FFFF }
  | .xlatTag => { base := 0x060144 }
  | .xlatStat => { base := 0x060150, rc := 0xFFFFFFFF }
  | .pscLive => { base := 0x070000, ni := 3, si := 0x4, reset := 0xFFFFFFFF }
  | .pscBacked => { base := 0x070010, reset := 0x60000 }
  | .pscChSel => { base := 0x070020, rw := 0x7F }
  | .pscChStat => { base := 0x070024, rc := 0xFFFFFFFF }
  | .ftlStatus => { base := 0x080000 }
  | .ftlWear => { base := 0x080004 }
  | .ftlRefresh => { base := 0x080008, rc := 0xFFFFFFFF }
  | .ftlBadblk => { base := 0x08000C }
  | .weirQBase => { base := 0x090000, ni := 64, si := 0x40, rw := 0x3FFFF }
  | .weirQSize => { base := 0x090004, ni := 64, si := 0x40, rw := 0x3FFFF }
  | .weirQCfg => { base := 0x090008, ni := 64, si := 0x40, rw := 0x1FFFFFFF }
  | .weirQHigh => { base := 0x09000C, ni := 64, si := 0x40, rw := 0x3FFFF }
  | .weirQLow => { base := 0x090010, ni := 64, si := 0x40, rw := 0x3FFFF }
  | .weirQFc => { base := 0x090014, ni := 64, si := 0x40, rw := 0xFFFF003F }
  | .weirQStat => { base := 0x09002C, ni := 64, si := 0x40 }
  | .weirQDrop => { base := 0x090030, ni := 64, si := 0x40, rc := 0xFFFFFFFF }
  | .weirQSrc => { base := 0x090034, ni := 64, si := 0x40, reset := 0xFF }
  | .weirQWr => { base := 0x090018, ni := 64, si := 0x40 }
  | .weirQCm => { base := 0x09001C, ni := 64, si := 0x40 }
  | .weirQRd => { base := 0x090020, ni := 64, si := 0x40 }
  | .weirQMk => { base := 0x090024, ni := 64, si := 0x40 }
  | .weirQRl => { base := 0x090028, ni := 64, si := 0x40 }
  | .weirFcPol => { base := 0x091000, rw := 0xFFFF }
  | .weirFcState => { base := 0x091004 }
  | .weirBankEcc => { base := 0x091010, ni := 8, si := 0x4, rc := 0xFFFFFFFF }
  | .weirCmd => { base := 0x091100, ni := 9, si := 0x10 }
  | .weirStatus => { base := 0x091104, ni := 9, si := 0x10 }
  | .gridDescLo => { base := 0x0A0000, ni := 9, si := 0x10, rw := 0xFFFFFFFF }
  | .gridDescHi => { base := 0x0A0004, ni := 9, si := 0x10, rw := 0xFFFF }
  | .gridSubmit => { base := 0x0A0008, ni := 9, si := 0x10 }
  | .gridStatus => { base := 0x0A000C, ni := 9, si := 0x10 }
  | .gridTabLo => { base := 0x0A0100, ni := 9, si := 0x10, rw := 0xFFFFFFFF }
  | .gridTabHi => { base := 0x0A0104, ni := 9, si := 0x10, rw := 0xFFFF }
  | .gridTabCmd => { base := 0x0A0108, ni := 9, si := 0x10 }
  | .gridTabStatus => { base := 0x0A010C, ni := 9, si := 0x10 }
  | .gridGen => { base := 0x0A0400, ni := 256, si := 0x4 }
  | .gridAlignCfg => { base := 0x0A0800, ni := 64, si := 0x10, reset := 0x100, rw := 0x3FF }
  | .gridAlignPeriod => { base := 0x0A0804, ni := 64, si := 0x10, rw := 0xFFFFFFFF }
  | .gridAlignLat => { base := 0x0A0808, ni := 64, si := 0x10, rw := 0xFFFFFFFF }
  | .gridAlignDelta => { base := 0x0A080C, ni := 64, si := 0x10, rw := 0xFFFFFFFF }
  | .gridExclLo => { base := 0x0A0C00 }
  | .gridExclHi => { base := 0x0A0C04 }
  | .gridStat => { base := 0x0A0C10, rc := 0xFFFFFFFF }
  | .planDescLo => { base := 0x0B0000, ni := 9, si := 0x10, rw := 0xFFFFFFFF }
  | .planDescHi => { base := 0x0B0004, ni := 9, si := 0x10, rw := 0xFFFF }
  | .planSubmit => { base := 0x0B0008, ni := 9, si := 0x10 }
  | .planStatus => { base := 0x0B000C, ni := 9, si := 0x10 }
  | .epochVaLo => { base := 0x0B0100, ni := 9, si := 0x10, rw := 0xFFFFFFFF }
  | .epochVaHi => { base := 0x0B0104, ni := 9, si := 0x10, rw := 0xFFFF }
  | .epochCmd => { base := 0x0B0108, ni := 9, si := 0x10 }
  | .epochStatus => { base := 0x0B010C, ni := 9, si := 0x10 }
  | .planCurLo => { base := 0x0B0200 }
  | .planCurHi => { base := 0x0B0204 }
  | .planOldLo => { base := 0x0B0208 }
  | .planOldHi => { base := 0x0B020C }
  | .planRetained => { base := 0x0B0210, reset := 0x1 }
  | .planOwner => { base := 0x0B0214, reset := 0x3FF, rw := 0x3FF }
  | .planOrigin => { base := 0x0B0220, ni := 3, si := 0x4, rw := 0xFFFFFFFF }
  | .planNodeLo => { base := 0x0B0230, rw := 0xFFFFFFFF }
  | .planNodeHi => { base := 0x0B0234, rw := 0xFFFF }
  | .planNodeCount => { base := 0x0B0238, rw := 0x3FFFFFFF }
  | .planNodeFree => { base := 0x0B023C }
  | .watchVaLo => { base := 0x0B0400, ni := 16, si := 0x20, rw := 0xFFFFFFFF }
  | .watchVaHi => { base := 0x0B0404, ni := 16, si := 0x20, rw := 0xFFFF }
  | .watchDescLo => { base := 0x0B0408, ni := 16, si := 0x20, rw := 0xFFFFFFFF }
  | .watchDescHi => { base := 0x0B040C, ni := 16, si := 0x20, rw := 0xFFFF }
  | .watchCfg => { base := 0x0B0410, ni := 16, si := 0x20, rw := 0x7FF }
  | .watchStat => { base := 0x0B0414, ni := 16, si := 0x20, reset := 0x3FF }
  | .planStat => { base := 0x0B0600, w1c := 0x1 }
  | .planRepairMax => { base := 0x0B0604, rc := 0xFFFF }
  | .planQpeak => { base := 0x0B0608, rc := 0x1FFFFFF }
  | .timeNowLo => { base := 0x0C0000 }
  | .timeNowHi => { base := 0x0C0004 }
  | .timeEraAck => { base := 0x0C0008 }
  | .timeStat => { base := 0x0C0010, w1c := 0x64 }
  | .timeCfg => { base := 0x0C0014, reset := 0x641480, rw := 0xFFFF3FFF }
  | .timeAdj => { base := 0x0C0018 }
  | .timeOfs => { base := 0x0C001C }
  | .timeLastofs => { base := 0x0C0020 }
  | .timeStepLo => { base := 0x0C0028, rw := 0xFFFFFFFF }
  | .timeStepHi => { base := 0x0C002C, rw := 0xFFFFFFFF }
  | .timeStepGo => { base := 0x0C0030 }
  | .toCfg => { base := 0x0C0100, ni := 16, si := 0x20, rw := 0xF, w1c := 0x10 }
  | .toStartLo => { base := 0x0C0104, ni := 16, si := 0x20, rw := 0xFFFFFFFF }
  | .toStartHi => { base := 0x0C0108, ni := 16, si := 0x20, rw := 0xFFFFFFFF }
  | .toPeriod => { base := 0x0C010C, ni := 16, si := 0x20, rw := 0xFFFFFFFF }
  | .toFrac => { base := 0x0C0110, ni := 16, si := 0x20, rw := 0xFFFF }
  | .toWidth => { base := 0x0C0114, ni := 16, si := 0x20, rw := 0xFFFFFFFF }
  | .toLast => { base := 0x0C0118, ni := 16, si := 0x20 }
  | .tcCfg => { base := 0x0C0400, ni := 16, si := 0x10, reset := 0x2, rw := 0x1FF }
  | .tcHeadLo => { base := 0x0C0404, ni := 16, si := 0x10 }
  | .tcHeadHi => { base := 0x0C0408, ni := 16, si := 0x10 }
  | .tcStat => { base := 0x0C040C, ni := 16, si := 0x10, rc := 0xFF00 }
  | .tcPop => { base := 0x0C0700, ni := 16, si := 0x4 }
  | .macAdj => { base := 0x0C0600, ni := 8, si := 0x4, rw := 0xFFFFFFFF }
  | .ptpLo => { base := 0x0C0800, ni := 8, si := 0x20 }
  | .ptpHi => { base := 0x0C0804, ni := 8, si := 0x20 }
  | .ptpInfo => { base := 0x0C0808, ni := 8, si := 0x20 }
  | .ptpPop => { base := 0x0C080C, ni := 8, si := 0x20 }
  | .refxTriad => { base := 0x0D0000, ni := 2, si := 0x4, rw := 0x1FF }
  | .refxSlice => { base := 0x0D0008, reset := 0x1515 }
  | .refxSlotLo => { base := 0x0D0010 }
  | .refxSlotHi => { base := 0x0D0014 }
  | .refxSlotTime => { base := 0x0D0018 }
  | .refxCmd => { base := 0x0D0100, ni := 9, si := 0x10 }
  | .refxStatus => { base := 0x0D0108, ni := 9, si := 0x10 }
  | .refxLeashSel => { base := 0x0D0200, rw := 0xF }
  | .refxLeashStat => { base := 0x0D0204 }
  | .refxLeashOut => { base := 0x0D0208 }
  | .refxLeashOvr => { base := 0x0D020C, rc := 0xFFFFFFFF }
  | .refxVote => { base := 0x0D0210, ni := 2, si := 0x4, rc := 0xFFFFFFFF }
  | .refxRebuild => { base := 0x0D0220, ni := 2, si := 0x4 }
  | .sdioWin => { base := 0x0E0000, rw := 0xFF }
  | .sdioWinStatus => { base := 0x0E0004, rc := 0xFFFF }
  | .sdioMbSubmit => { base := 0x0E0010 }
  | .sdioMbCons => { base := 0x0E0014, rw := 0x3F }
  | .sdioMbStat => { base := 0x0E0018, rc := 0xFF0000 }
  | .sdioIntStat => { base := 0x0E0020, w1c := 0x7 }
  | .sdioIntEn => { base := 0x0E0024, rw := 0x7 }
  | .sdioTelLevel => { base := 0x0E0030 }
  | .sdioTelThresh => { base := 0x0E0034, reset := 0x1, rw := 0x1FF }
  | .sdioTelLost => { base := 0x0E0038, rc := 0xFFFFFFFF }
  | .sdioStageBase => { base := 0x0E0040, rw := 0x7FFFF }
  | .sdioStageSize => { base := 0x0E0044, rw := 0x1FFF }
  | .sdioStagePtr => { base := 0x0E0048, rw := 0xFFFFFFF }
  | .sdioCrcerr => { base := 0x0E0050, rc := 0xFFFFFFFF }
  | .towRole => { base := 0x0F0000 }
  | .towStatus => { base := 0x0F0010, ni := 3, si := 0x4 }
  | .towErr => { base := 0x0F0020, ni := 3, si := 0x4, rc := 0xFFFFFFFF }
  | .towDelay => { base := 0x0F0030, ni := 3, si := 0x4 }
  | .towCtxSel => { base := 0x0F0040, rw := 0x3FF }
  | .towCtx => { base := 0x0F0044, rw := 0xF }
  | .towCtxPageLo => { base := 0x0F0048, rw := 0xFFFF0000 }
  | .towCtxPageHi => { base := 0x0F004C, rw := 0xFFFF }
  | .towCmd => { base := 0x0F0080 }
  | .towCmdStatus => { base := 0x0F0084 }
  | .towFailover => { base := 0x0F0090 }
  | .secStat => { base := 0x100000 }
  | .secIdLo => { base := 0x100008 }
  | .secIdHi => { base := 0x10000C }
  | .secRoot => { base := 0x100040, ni := 16, si := 0x4 }
  | .secKeySel => { base := 0x100100, rw := 0x3 }
  | .secKeyLo => { base := 0x100104 }
  | .secKeyHi => { base := 0x100108 }
  | .secKeyInfo => { base := 0x10010C }
  | .secProgs => { base := 0x100110 }
  | .secSigfail => { base := 0x100114, rc := 0xFFFFFFFF }
  | .secQuotes => { base := 0x100118 }
  | .ethIng => { base := 0x110000, ni := 8, si := 0x100, rw := 0x1FF }
  | .ethRuleLo => { base := 0x110010, ni := 8, si := 0x100, nj := 8, sj := 0x8, rw := 0x7FFFFFFF }
  | .ethRuleHi => { base := 0x110014, ni := 8, si := 0x100, nj := 8, sj := 0x8, rw := 0x7FFFFF }
  | .ethRxerr => { base := 0x110080, ni := 8, si := 0x100, rc := 0xFFFFFFFF }
  | .ethRxunm => { base := 0x110084, ni := 8, si := 0x100, rc := 0xFFFFFFFF }
  | .ethPause => { base := 0x110088, ni := 8, si := 0x100 }
  | .csiCfg => { base := 0x120000, ni := 12, si := 0x40, reset := 0x4, rw := 0x7 }
  | .csiRoute => { base := 0x120004, ni := 12, si := 0x40, nj := 4, sj := 0x4, rw := 0x3FFFF }
  | .csiErr => { base := 0x120014, ni := 12, si := 0x40, rc := 0xFFFFFFFF }
  | .csiFrames => { base := 0x120018, ni := 12, si := 0x40 }
  | .csiUnrouted => { base := 0x12001C, ni := 12, si := 0x40, rc := 0xFFFFFFFF }
  | .spiIng => { base := 0x134000, ni := 4, si := 0x40, reset := 0x400000, rw := 0xFFFFFFF }
  | .spiPeriod => { base := 0x134004, ni := 4, si := 0x40, reset := 0x3E8, rw := 0xFFFFFFFF }
  | .spiSkip => { base := 0x134008, ni := 4, si := 0x40, rc := 0xFFFFFFFF }
  | .spiTpl => { base := 0x134010, ni := 4, si := 0x40, nj := 4, sj := 0x4, rw := 0xFFFFFFFF }
  | .uartIng => { base := 0x135000, ni := 4, si := 0x40, reset := 0x3FF0028, rw := 0x7FFFFFF }
  | .uartBaud => { base := 0x135004, ni := 4, si := 0x40, reset := 0x1C200, rw := 0x3FFFFF }
  | .uartErr => { base := 0x135008, ni := 4, si := 0x40, rc := 0xFFFFFFFF }
  | .faultHead => { base := 0x140000 }
  | .faultSeq => { base := 0x140004 }
  | .faultTail => { base := 0x140008, rw := 0xFF }
  | .faultUnread => { base := 0x14000C }
  | .faultLost => { base := 0x140010, rc := 0xFFFFFFFF }
  | .faultThresh => { base := 0x140020, reset := 0x408, rw := 0xFFFF }
  | .faultSpare => { base := 0x140024 }
  | .faultRetUnits => { base := 0x140030 }
  | .faultRetPsc => { base := 0x140034, ni := 3, si := 0x4 }
  | .faultRetTow => { base := 0x140040 }
  | .faultRetLink => { base := 0x140044 }
  | .faultInjLo => { base := 0x140080, rw := 0xFFFFFFFF }
  | .faultInjHi => { base := 0x140084, rw := 0xFFFFFFFF }
  | .faultInj => { base := 0x140088 }
  | .faultRec => { base := 0x141000, ni := 256, si := 0x40, nj := 16, sj := 0x4 }
  | .engFclk => { base := 0x200100, ni := 8, si := 0x10000, reset := 0x1414 }
  | .engSat => { base := 0x200104, ni := 8, si := 0x10000, rc := 0xFFFFFFFF }
  | .engNan => { base := 0x200108, ni := 8, si := 0x10000, rc := 0xFFFFFFFF }
  | .engPstat => { base := 0x200000, ni := 8, si := 0x10000 }
  | .engPc => { base := 0x200004, ni := 8, si := 0x10000 }
  | .engReloc => { base := 0x200008, ni := 8, si := 0x10000 }
  | .engYield => { base := 0x20000C, ni := 8, si := 0x10000, rc := 0xFFFF }
  | .engPad => { base := 0x20010C, ni := 8, si := 0x10000, rc := 0xFFFFFFFF }
  | .engDroop => { base := 0x200110, ni := 8, si := 0x10000, rc := 0xFFFFFFFF }

/-- The SYS window. -/
def Reg.sysRegs : List Reg :=
  [.sysId, .sysGrant, .bootStat, .bootTime, .bootUnits, .bootPsc, .bootTow, .bootVerLo, .bootVerHi,
   .bootSeedsSel, .bootSeeds, .sysRestart]

/-- The PWR window. -/
def Reg.pwrRegs : List Reg :=
  [.pwrState, .pwrReq, .pwrIdleAuto, .pwrWakeEn, .pwrWakeCause, .pwrRetain, .pwrSave, .pwrGate, .pwrExitUs,
   .pwrDom, .pwrRefused, .pwrLogHead, .pwrLog, .pwrLogTime, .pwrBudget, .pwrShare, .pwrMeas, .pwrVin, .pwrIin,
   .pwrModmax, .pwrGov]

/-- The THERM window. -/
def Reg.thermRegs : List Reg :=
  [.thermStat, .thermHot, .thermSel, .thermRead, .thermCool, .thermFlow, .thermCap, .thermThrot]

/-- The COL window. -/
def Reg.colRegs : List Reg :=
  [.colDescLo, .colDescHi, .colCmd, .colCmdStatus, .colDoorbell, .colCons, .colSel, .colCtxState, .colAcctLo,
   .colAcctHi, .colHeelMax, .colHeelCount, .colEngLive, .colDropped]

/-- The LOCK window. -/
def Reg.lockRegs : List Reg :=
  [.lockCmd, .lockArg, .lockArg2, .lockTag, .lockStatus, .lockLast, .lockSel, .lockInfo, .lockJobadd,
   .lockLevel]

/-- The BARGE window. -/
def Reg.bargeRegs : List Reg :=
  [.bargeDescLo, .bargeDescHi, .bargeSubmit, .bargeStatus, .bargeInflight, .bargeRetries]

/-- The XLAT window. -/
def Reg.xlatRegs : List Reg :=
  [.kvCmd, .kvResult, .kvCount, .kvPtabLo, .kvPtabHi, .xlatInv, .xlatInvVa, .xlatInvStatus, .xlatPinTile,
   .xlatPinOp, .xlatMirrorBase, .xlatMirrorSize, .xlatSplitLo, .xlatSplitHi, .xlatTagSel, .xlatTag, .xlatStat]

/-- The PSC window. -/
def Reg.pscRegs : List Reg :=
  [.pscLive, .pscBacked, .pscChSel, .pscChStat]

/-- The FTL window. -/
def Reg.ftlRegs : List Reg :=
  [.ftlStatus, .ftlWear, .ftlRefresh, .ftlBadblk]

/-- The WEIR window. -/
def Reg.weirRegs : List Reg :=
  [.weirQBase, .weirQSize, .weirQCfg, .weirQHigh, .weirQLow, .weirQFc, .weirQStat, .weirQDrop, .weirQSrc,
   .weirQWr, .weirQCm, .weirQRd, .weirQMk, .weirQRl, .weirFcPol, .weirFcState, .weirBankEcc, .weirCmd,
   .weirStatus]

/-- The GRID window. -/
def Reg.gridRegs : List Reg :=
  [.gridDescLo, .gridDescHi, .gridSubmit, .gridStatus, .gridTabLo, .gridTabHi, .gridTabCmd, .gridTabStatus,
   .gridGen, .gridAlignCfg, .gridAlignPeriod, .gridAlignLat, .gridAlignDelta, .gridExclLo, .gridExclHi,
   .gridStat]

/-- The PLAN window. -/
def Reg.planRegs : List Reg :=
  [.planDescLo, .planDescHi, .planSubmit, .planStatus, .epochVaLo, .epochVaHi, .epochCmd, .epochStatus,
   .planCurLo, .planCurHi, .planOldLo, .planOldHi, .planRetained, .planOwner, .planOrigin, .planNodeLo,
   .planNodeHi, .planNodeCount, .planNodeFree, .watchVaLo, .watchVaHi, .watchDescLo, .watchDescHi, .watchCfg,
   .watchStat, .planStat, .planRepairMax, .planQpeak]

/-- The TIME window. -/
def Reg.timeRegs : List Reg :=
  [.timeNowLo, .timeNowHi, .timeEraAck, .timeStat, .timeCfg, .timeAdj, .timeOfs, .timeLastofs, .timeStepLo,
   .timeStepHi, .timeStepGo, .toCfg, .toStartLo, .toStartHi, .toPeriod, .toFrac, .toWidth, .toLast, .tcCfg,
   .tcHeadLo, .tcHeadHi, .tcStat, .tcPop, .macAdj, .ptpLo, .ptpHi, .ptpInfo, .ptpPop]

/-- The REFX window. -/
def Reg.refxRegs : List Reg :=
  [.refxTriad, .refxSlice, .refxSlotLo, .refxSlotHi, .refxSlotTime, .refxCmd, .refxStatus, .refxLeashSel,
   .refxLeashStat, .refxLeashOut, .refxLeashOvr, .refxVote, .refxRebuild]

/-- The SDIO window. -/
def Reg.sdioRegs : List Reg :=
  [.sdioWin, .sdioWinStatus, .sdioMbSubmit, .sdioMbCons, .sdioMbStat, .sdioIntStat, .sdioIntEn, .sdioTelLevel,
   .sdioTelThresh, .sdioTelLost, .sdioStageBase, .sdioStageSize, .sdioStagePtr, .sdioCrcerr]

/-- The TOW window. -/
def Reg.towRegs : List Reg :=
  [.towRole, .towStatus, .towErr, .towDelay, .towCtxSel, .towCtx, .towCtxPageLo, .towCtxPageHi, .towCmd,
   .towCmdStatus, .towFailover]

/-- The SEC window. -/
def Reg.secRegs : List Reg :=
  [.secStat, .secIdLo, .secIdHi, .secRoot, .secKeySel, .secKeyLo, .secKeyHi, .secKeyInfo, .secProgs,
   .secSigfail, .secQuotes]

/-- The ETH window. -/
def Reg.ethRegs : List Reg :=
  [.ethIng, .ethRuleLo, .ethRuleHi, .ethRxerr, .ethRxunm, .ethPause]

/-- The CSI window. -/
def Reg.csiRegs : List Reg :=
  [.csiCfg, .csiRoute, .csiErr, .csiFrames, .csiUnrouted]

/-- The CAN window. -/
def Reg.canRegs : List Reg :=
  [.spiIng, .spiPeriod, .spiSkip, .spiTpl, .uartIng, .uartBaud, .uartErr]

/-- The FAULT window. -/
def Reg.faultRegs : List Reg :=
  [.faultHead, .faultSeq, .faultTail, .faultUnread, .faultLost, .faultThresh, .faultSpare, .faultRetUnits,
   .faultRetPsc, .faultRetTow, .faultRetLink, .faultInjLo, .faultInjHi, .faultInj, .faultRec]

/-- The ENG window. -/
def Reg.engRegs : List Reg :=
  [.engFclk, .engSat, .engNan, .engPstat, .engPc, .engReloc, .engYield, .engPad, .engDroop]

/-- The registers of block window `n` of Table 1.1, or of an engine window (R11, R12). -/
def Reg.window (n : Nat) : List Reg :=
  if 0x20 ≤ n ∧ n < 0x28 then Reg.engRegs
  else match n with
    | 0x00 => Reg.sysRegs
    | 0x01 => Reg.pwrRegs
    | 0x02 => Reg.thermRegs
    | 0x03 => Reg.colRegs
    | 0x04 => Reg.lockRegs
    | 0x05 => Reg.bargeRegs
    | 0x06 => Reg.xlatRegs
    | 0x07 => Reg.pscRegs
    | 0x08 => Reg.ftlRegs
    | 0x09 => Reg.weirRegs
    | 0x0A => Reg.gridRegs
    | 0x0B => Reg.planRegs
    | 0x0C => Reg.timeRegs
    | 0x0D => Reg.refxRegs
    | 0x0E => Reg.sdioRegs
    | 0x0F => Reg.towRegs
    | 0x10 => Reg.secRegs
    | 0x11 => Reg.ethRegs
    | 0x12 => Reg.csiRegs
    | 0x13 => Reg.canRegs
    | 0x14 => Reg.faultRegs
    | _ => []

/-- The offset of instance (i, j). -/
def Reg.off (r : Reg) (i j : Nat) : Nat := r.row.base + i * r.row.si + j * r.row.sj

/-- The instance of a register that lies at `a`, if one does. -/
def Reg.instanceAt (r : Reg) (a : Nat) : Option (Nat × Nat) :=
  let w := r.row
  if a < w.base then none
  else
    let d := a - w.base
    let i := if w.si = 0 then 0 else min (w.ni - 1) (d / w.si)
    let e := d - i * w.si
    let j := if w.sj = 0 then 0 else e / w.sj
    if i < w.ni ∧ j < w.nj ∧ r.off i j = a then some (i, j) else none

/-- The register at control-space offset `a`, with its instance. -/
def Reg.lookup (a : Nat) : Option (Reg × Nat × Nat) :=
  (Reg.window (a / 0x10000)).findSome? fun r => (r.instanceAt a).map fun p => (r, p.1, p.2)

/-- The reset value of an instance (R10); four rows of the tables give it by instance. -/
def Reg.resetAt (r : Reg) (i : Nat) : Word :=
  match r with
  | .refxTriad => Word.ofNat (pack [(4 * i, 0), (4 * i + 1, 3), (4 * i + 2, 6)])
  | .pwrDom => if i = 1 then 0xFFFDDFFF else 0xFFFFFFFF
  | .thermCap => if i = 0 then Word.ofNat (pack [(20, 0), (20, 5), (20, 10), (20, 15), (20, 20), (20, 25)])
      else Word.ofNat (pack [(20, 0), (20, 5)])
  | _ => r.row.reset

/-- The stored value of a register. -/
def State.rg (s : State) (r : Reg) (i : Nat := 0) (j : Nat := 0) : Word :=
  s.regs.at (r.off i j) (r.resetAt i)

/-- Bits [hi:lo] of a stored register. -/
def State.rf (s : State) (r : Reg) (i hi lo : Nat) : Nat := field (s.rg r i) hi lo

end Sys2Proof.Machine
end

