-- ==== Sys2Proof/Machine/Act.lean ====
section
/-!
DEFINITION. Sys2Proof/Machine/Act.lean: what a command does, as a program over the device. An action looks at the
state and makes updates; `Upd` lists every update there is, so what all updates keep, every command keeps. Actions
are written in do notation: `Act` is Mathlib's continuation monad over `Run`.
-/
namespace Sys2Proof.Machine

/-- One update of the state. Elapsed time, the queue of commands and the count of free values drawn have no setter:
time passes (`pass`), a free value is drawn (`draw`), and the queue is not a command's to change. -/
inductive Upd where
  | reg (offset : Nat) (w : Word)
  | latch (key : Nat) (w : Word)
  | bus (who : Nat) (r : BusResult)
  | mem (pa : Nat) (bytes : List Byte)
  /-- `n` bytes copied from `src` to `dst`; `n` zeros from `pa` on. -/
  | copy (src dst n : Nat)
  | clear (pa n : Nat)
  | flip (word : Nat) (bits : BitVec 72)
  | nor (offset : Nat) (bytes : List Byte)
  | norErase
  | link (k : Nat) (l : LinkSt)
  | fabricEnd
  | engine (e : Nat) (x : Engine)
  | drains (e : Nat) (d : List (Nat × Nat))
  | claims (c : Sparse Nat)
  | prog (h : Nat) (p : Program)
  | dropProg (h : Nat)
  | nextHandle (h : Nat)
  | ctx (c : Nat) (x : Context)
  | residual (n v : Nat)
  | select (st : Word) (accts : Sparse Nat)
  | lock (n : Nat) (l : Lock)
  | waits (w : List LWait)
  | xlat (x : Xlat)
  | channel (n : Nat) (q : List Barge)
  | fly (slot : Nat) (b : Barge)
  | land (slot : Nat)
  | serve (n : Nat)
  | psram (n : Nat) (c : PsChan)
  | ftl (f : Ftl)
  | reflex (r : Reflex)
  | ports (p : Ports)
  | grid (g : Grid)
  | plan (p : Plan)
  /-- The clock unit but for elapsed time. -/
  | clock (c : Clock)
  /-- Elapsed time passes. -/
  | pass (n : Nat)
  /-- The host link but for its memory; its memory, by function 1 address. -/
  | sdio (x : Sdio)
  | ram (a : Nat) (bytes : List Byte)
  | boot (b : Boot)
  | casc (c : Casc)
  | power (p : Power)
  | therm (t : Thermal)
  | faults (f : FaultLog)
  | draw
  /-- Everything but the queue, elapsed time, the boot NOR, the flash tier and the free values drawn as after reset (R3,
  R242, R502). -/
  | fresh

/-- The state after an update. -/
def State.upd (s : State) : Upd → State
  | .reg o w => { s with regs := s.regs.put o w }
  | .latch k w => { s with latches := s.latches.put k w }
  | .bus w r => { s with bus := s.bus.put w r }
  | .mem a b => { s with mem := Memory.store 0 s.mem a b }
  | .copy a b n => { s with mem := Memory.copy s.mem a b n }
  | .clear a n => { s with mem := Memory.clear s.mem a n }
  | .flip w f => { s with flips := if f = 0 then s.flips.drop w else s.flips.put w f }
  | .nor o b => { s with nor := Memory.store 0xFF s.nor o b }
  | .norErase => { s with nor := [] }
  | .link k l => { s with links := s.links.put k l }
  | .fabricEnd => { s with fabricEnded := true }
  | .engine e x => { s with engines := s.engines.put e x }
  | .drains e d => { s with drains := s.drains.put e d }
  | .claims c => { s with claims := c }
  | .prog h p => { s with progs := s.progs.put h p }
  | .dropProg h => { s with progs := s.progs.drop h }
  | .nextHandle h => { s with nextHandle := h }
  | .ctx c x => { s with ctxs := s.ctxs.put c x }
  | .residual n v => { s with residual := s.residual.put n v }
  | .select w a => { s with selState := w, selAccts := a }
  | .lock n l => { s with locks := s.locks.put n l }
  | .waits w => { s with waits := w }
  | .xlat x => { s with xlat := x }
  | .channel n q => { s with chanQueues := s.chanQueues.put n q }
  | .fly n b => { s with flying := s.flying.put n b }
  | .land n => { s with flying := s.flying.drop n }
  | .serve n => { s with served := n }
  | .psram n c => { s with psram := s.psram.put n c }
  | .ftl f => { s with ftl := f }
  | .reflex r => { s with reflex := r }
  | .ports p => { s with ports := p }
  | .grid g => { s with grid := g }
  | .plan p => { s with plan := p }
  | .clock c => { s with clock := { c with elapsed := s.clock.elapsed } }
  | .pass n => { s with clock := { s.clock with elapsed := s.clock.elapsed + n } }
  | .sdio x => { s with sdio := { x with ram := s.sdio.ram } }
  | .ram a b => { s with sdio := { s.sdio with ram := Memory.store 0 s.sdio.ram a b } }
  | .boot b => { s with boot := b }
  | .casc c => { s with casc := c }
  | .power p => { s with power := p }
  | .therm t => { s with therm := t }
  | .faults f => { s with faults := f }
  | .draw => { s with freeCount := s.freeCount + 1 }
  | .fresh => { State.reset with
      pending := s.pending, nor := s.nor, freeCount := s.freeCount, clock := { elapsed := s.clock.elapsed }
      mem := Memory.clear s.mem 0 0x100_0000_0000, ftl := { spareGone := s.ftl.spareGone, figures := s.ftl.figures } }

/-- A run of updates, each chosen by looking at the state so far. -/
inductive Run where
  | stop
  | look (k : State → Run)
  | make (u : Upd) (k : Run)

/-- The state a run leaves. -/
def Run.run : Run → State → State
  | .stop, s => s
  | .look k, s => (k s).run s
  | .make u k, s => k.run (s.upd u)

/-- An action that answers an `α`. -/
abbrev Act := ContT Run Id

/-- The state as it now is. -/
def Act.get : Act State := fun k => Run.look k

/-- Makes one update. -/
def Act.make (u : Upd) : Act Unit := fun k => Run.make u (k ())

/-- The state after an action. -/
def Act.after (x : Act Unit) (s : State) : State := (Id.run (x fun _ => Run.stop)).run s

/-- A command's outcome: the device goes on. -/
def Act.outcome (x : Act Unit) (s : State) : Host.Outcome State Fault Refusal := .next (x.after s)

/-- What an action answers in a state. -/
def nothing : Act Unit := pure ()

/-- A free value (log entry 1). -/
def Act.draw : Act Nat := do
  let s ← Act.get
  Act.make .draw
  return s.freeCount

end Sys2Proof.Machine
end

