-- ==== Sys2Proof/Machine/Ecc.lean ====
section
/-!
DEFINITION. Sys2Proof/Machine/Ecc.lean: the (72,64) extended Hamming code of every SECDED memory (R501), and CRC-32.
-/
namespace Sys2Proof.Machine

/-- Whether a Hamming position holds a check bit. -/
def Ecc.isCheck (p : Nat) : Bool := p = 1 || p = 2 || p = 4 || p = 8 || p = 16 || p = 32 || p = 64

/-- h(i): the (i + 1)-th integer from 3 upwards that is no power of two. -/
def Ecc.position (i : Nat) : Nat := (((List.range 72).drop 3).filter fun p => !Ecc.isCheck p).getD i 0

/-- Hamming position of a codeword bit: data bits 0–63, check bits 64–70; the overall parity bit has none. -/
def Ecc.positionOf (bit : Nat) : Nat := if bit < 64 then Ecc.position bit else if bit < 71 then 2 ^ (bit - 64) else 0

/-- The check bits c0–c6 of a data word: bit k is the parity of the data bits whose position has bit k. -/
def Ecc.check (d : BitVec 64) : BitVec 7 :=
  (List.range 64).foldl (fun c i => if flag d i then c ^^^ BitVec.ofNat 7 (Ecc.position i) else c) 0

/-- Parity of the bits of a word. -/
def parity {w : Nat} (x : BitVec w) : Bool := (List.range w).foldl (fun p i => p != flag x i) false

/-- The codeword of a data word (R501). -/
def Ecc.encode (d : BitVec 64) : BitVec 72 :=
  let c : BitVec 71 := Ecc.check d ++ d
  BitVec.ofBool (parity c) ++ c

/-- The syndrome S of a codeword as read. -/
def Ecc.syndrome (w : BitVec 72) : BitVec 8 :=
  let stored : BitVec 7 := w.extractLsb' 64 7
  BitVec.ofBool (parity w) ++ (Ecc.check (w.extractLsb' 0 64) ^^^ stored)

/-- What a read of a codeword finds. -/
inductive Ecc.Found where
  | clean
  | corrected (bit : Nat)
  | uncorrectable
  deriving DecidableEq, Repr

/-- How the syndrome decodes. -/
def Ecc.decode (s : BitVec 8) : Ecc.Found :=
  let p := s.toNat % 128
  if s = 0 then .clean
  else if flag s 7 then
    if p = 0 then .corrected 71
    else match firstBelow 71 fun b => Ecc.positionOf b = p with
      | some b => .corrected b
      | none => .uncorrectable
  else .uncorrectable

/-- A read of data word `d` whose codeword has the bits of `f` inverted: the data delivered, what was found, and
the syndrome. -/
def Ecc.read (d : BitVec 64) (f : BitVec 72) : BitVec 64 × Ecc.Found × BitVec 8 :=
  let w := Ecc.encode d ^^^ f
  let s := Ecc.syndrome w
  let raw := w.extractLsb' 0 64
  match Ecc.decode s with
  | .corrected b => (if b < 64 then raw ^^^ (1 <<< b) else raw, .corrected b, s)
  | r => (raw, r, s)

/-- SYNDROME of a fault record for a SECDED memory (Table 21.4). -/
def Ecc.syndromeField (r : Ecc.Found) (s : BitVec 8) : Nat :=
  match r with
  | .corrected b => s.toNat + 256 * b
  | _ => s.toNat + 256 * 0xFF

/-- One bit of CRC-32 (reflected polynomial 0xEDB88320). -/
def crc32Step (c : Word) : Word := if flag c 0 then (c >>> 1) ^^^ 0xEDB88320 else c >>> 1

/-- CRC-32 as IEEE 802.3 has it. -/
def crc32 (bs : List Byte) : Word :=
  ~~~(bs.foldl (fun c b => (List.range 8).foldl (fun c _ => crc32Step c) (c ^^^ b.zeroExtend 32)) 0xFFFFFFFF)

end Sys2Proof.Machine
end

