-- ==== Sys2Proof/Machine/Ops.lean ====
section
/-!
DEFINITION. Sys2Proof/Machine/Ops.lean: the operations every block shares: codes and block IDs, registers, device
time, clock steps, the fault logger and its telemetry copy, physical memory with its check bits, and completion rings.
-/
namespace Sys2Proof.Machine

/-! Completion and status codes (Table 1.8). -/
abbrev Code.ok : Nat := 0x00
abbrev Code.okAtDeadline : Nat := 0x01
abbrev Code.timeout : Nat := 0x10
abbrev Code.cancelled : Nat := 0x11
abbrev Code.poisoned : Nat := 0x12
abbrev Code.faultXlat : Nat := 0x20
abbrev Code.faultEcc : Nat := 0x21
abbrev Code.faultUnit : Nat := 0x22
abbrev Code.faultLink : Nat := 0x23
abbrev Code.splitFailed : Nat := 0x30
abbrev Code.noPath : Nat := 0x40
abbrev Code.bestEffort : Nat := 0x41
abbrev Code.unaligned : Nat := 0x50

/-- Codes 0x00 and 0x01 mean success (R29). -/
def Code.good (c : Nat) : Bool := c = Code.ok || c = Code.okAtDeadline

/-- The codes whose records carry a faulting address and a fault index (R32). -/
def Code.isFault (c : Nat) : Bool := Code.faultXlat ≤ c && c ≤ Code.faultLink

/-- The codes of failing operations that get a fault record (R457). -/
def Code.recorded (c : Nat) : Bool := Code.poisoned ≤ c && c ≤ Code.unaligned

/-! Block IDs (Tables 1.1 and 1.2). -/
abbrev Block.sys : Nat := 0x00
abbrev Block.pwr : Nat := 0x01
abbrev Block.therm : Nat := 0x02
abbrev Block.col : Nat := 0x03
abbrev Block.lock : Nat := 0x04
abbrev Block.barge : Nat := 0x05
abbrev Block.xlat : Nat := 0x06
abbrev Block.psc : Nat := 0x07
abbrev Block.ftl : Nat := 0x08
abbrev Block.weir : Nat := 0x09
abbrev Block.grid : Nat := 0x0A
abbrev Block.plan : Nat := 0x0B
abbrev Block.time : Nat := 0x0C
abbrev Block.refx : Nat := 0x0D
abbrev Block.sdio : Nat := 0x0E
abbrev Block.tow : Nat := 0x0F
abbrev Block.sec : Nat := 0x10
abbrev Block.eth : Nat := 0x11
abbrev Block.csi : Nat := 0x12
abbrev Block.can : Nat := 0x13
abbrev Block.faultLog : Nat := 0x14
abbrev Block.eng (e : Nat) : Nat := 0x20 + e
abbrev Block.slice (x : Nat) : Nat := 0x28 + x
abbrev Block.steward (s : Nat) : Nat := 0x30 + s
abbrev Block.l3 : Nat := 0x38
abbrev Block.ring : Nat := 0x39
abbrev Block.regulators : Nat := 0x3A
abbrev Block.nor : Nat := 0x3B
abbrev Block.stop (n : Nat) : Nat := 0x40 + n
abbrev Block.channel (n : Nat) : Nat := 0x80 + n
abbrev Block.nand (n : Nat) : Nat := 0xE0 + n
abbrev Block.towline (l : Nat) : Nat := 0xE4 + l
abbrev Block.host : Nat := 0xFE
abbrev Block.none : Nat := 0xFF

/-- No fault record. -/
abbrev noLink : Nat := 0xFFFFFFFF

/-! ## Registers -/

/-- Stores a register's value. -/
def Act.reg (r : Reg) (i : Nat) (w : Word) : Act Unit := Act.make (.reg (r.off i 0) w)

/-- Stores instance (i, j) of a register. -/
def Act.regAt (r : Reg) (i j : Nat) (w : Word) : Act Unit := Act.make (.reg (r.off i j) w)

/-- Replaces bits [hi:lo] of a stored register. -/
def Act.regField (r : Reg) (i hi lo v : Nat) : Act Unit := do
  let s ← Act.get
  Act.reg r i (setField (s.rg r i) hi lo v)

/-- Raises a 32-bit counter register, modulo 2^32. -/
def Act.count (r : Reg) (i : Nat := 0) (n : Nat := 1) : Act Unit := do
  let s ← Act.get
  Act.reg r i (s.rg r i + Word.ofNat n)

/-- Raises the counter in bits [hi:lo], which holds at its top value. -/
def Act.countSat (r : Reg) (i hi lo : Nat) (n : Nat := 1) : Act Unit := do
  let s ← Act.get
  Act.regField r i hi lo (min (2 ^ (hi + 1 - lo) - 1) (s.rf r i hi lo + n))

/-- Bit `n` of a register of three words (R245, R411, R470). -/
def State.bitOf3 (s : State) (r : Reg) (n : Nat) : Bool := flag (s.rg r (n / 32)) (n % 32)

def Act.setBit3 (r : Reg) (n : Nat) (v : Bool) : Act Unit := Act.regField r (n / 32) (n % 32) (n % 32) (b2n v)

/-! ## Clock steps (R45, R427) -/

/-- The step an engine's clock has been asked for, and its thermal cap. -/
def State.target (s : State) (e : Nat) : Nat := s.rf .engFclk e 12 8

def State.cap (s : State) (e : Nat) : Nat := s.rf .thermCap (e / 6) (5 * (e % 6) + 4) (5 * (e % 6))

/-- A heel holds the engine at step 8 or above. -/
def State.raised (s : State) (e : Nat) : Bool := flag s.therm.heelRaise e

/-- Asks for a step: never above the cap, and never below 8 while a heel holds the engine (R427). -/
def setTarget (e n : Nat) : Act Unit := do
  let s ← Act.get
  let m := min n (s.cap e)
  let m := if s.raised e then max m 8 else m
  Act.regField .engFclk e 12 8 m
  Act.regField .engFclk e 16 16 (b2n (m ≠ s.rf .engFclk e 4 0))

/-- The ports and the reflex lane run in Run and Idle (Table 18.1), in a device that has started (R387). -/
def State.awake (s : State) : Bool :=
  (s.power.state = .run || s.power.state = .idle) && !s.boot.recovery && !s.boot.dead && !s.boot.off

/-- Run, in a device that has started and has not tripped: kernels issue (R407, R432). -/
def State.runs (s : State) : Bool := s.awake && s.power.state = .run && s.power.runOn.isNone

/-- Dispatch goes on: no entry is in progress (R415 step 1). -/
def State.dispatches (s : State) : Bool := s.runs && s.power.entering.isNone

/-- Barges and Gridder requests start: in Run and Idle, with no entry in progress. -/
def State.serves (s : State) : Bool := s.awake && s.power.runOn.isNone && s.power.entering.isNone

/-- The sensor ports and the Weir have power: not in the run-on after a trip (Table 19.3). -/
def State.portsOn (s : State) : Bool := s.awake && s.power.runOn.isNone

/-- HOME of a cascade context: the lowest live ID in its MASK (R398); none for any other context. -/
def State.home (s : State) (c : Nat) : Option Nat :=
  let m := s.casc.masks.at c 0
  if 2 ≤ ((List.range 4).filter (flag m)).length then (List.range 4).find? fun i => flag m i && flag s.casc.live i
  else none

/-! ## Device time (R337 to R340) -/

/-- One nanosecond of elapsed time, in its unit of 2^−32 ns. -/
abbrev nsUnit : Nat := 2 ^ 32

/-- Elapsed time in ns. -/
def State.ns (s : State) : Nat := s.clock.elapsed / nsUnit

/-- TIME_NOW_LO: bits [63:32] of the accumulator. -/
def State.nowLo (s : State) : Nat := s.clock.acc.toNat / nsUnit

/-- The upper word of full device time: ERA + PEND. -/
def State.nowHi (s : State) : Nat := (s.clock.era + s.clock.pend) % 2 ^ 32

/-- Full device time in ns (R338). -/
def State.fullTime (s : State) : Nat := s.nowHi * 2 ^ 32 + s.nowLo

/-- A 32-bit stamp extended to full device time: the latest time not after now with that lower word (R280). -/
def State.extend (s : State) (stamp : Nat) : Nat :=
  let age := (s.nowLo + 2 ^ 32 - stamp) % 2 ^ 32
  s.fullTime - age

/-! ## Telemetry (R365, R366) -/

/-- Raises TEL_LOST and the LOST field of the next record. -/
def telDrop : Act Unit := do
  let s ← Act.get
  Act.make (.sdio { s.sdio with telDropped := s.sdio.telDropped + 1 })
  Act.countSat .sdioTelLost 0 31 0

/-- The index of the oldest record that is no fault record. -/
def oldestPlain (fifo : List (List Byte)) : Option Nat :=
  fifo.findIdx? fun r => r.headD 0 ≠ 4

/-- Generates one telemetry record. A fault record that finds the FIFO full takes the place of the oldest other. -/
def telemetry (type : Nat) (payload : List Byte) : Act Unit := do
  let s ← Act.get
  let seq := (s.sdio.telSeq + 1) % 65536
  Act.make (.sdio { s.sdio with telSeq := seq })
  if s.sdio.fifo.length < 256 then
    let r := bytesOf 4 (type + 65536 * seq) ++ bytesOf 4 s.nowLo ++ bytesOf 4 s.sdio.telDropped ++ bytesOf 4 0
    Act.make (.sdio { s.sdio with telSeq := seq, telDropped := 0, fifo := s.sdio.fifo ++ [r ++ fit 112 payload] })
  else
    telDrop
    match (if type = 4 then oldestPlain s.sdio.fifo else none) with
    | some i =>
      let t ← Act.get
      let r := bytesOf 4 (type + 65536 * seq) ++ bytesOf 4 s.nowLo ++ bytesOf 4 t.sdio.telDropped ++ bytesOf 4 0
      Act.make (.sdio { t.sdio with telDropped := 0, fifo := t.sdio.fifo.eraseIdx i ++ [r ++ fit 112 payload] })
    | none => nothing

/-! ## The fault logger (R457 to R460) -/

/-- What a fault record says (Table 21.3). ATYPE: 0 physical, 1 virtual, 2 index, 3 none. -/
structure FaultRec where
  code : Nat
  block : Nat
  ctx : Option Nat := none
  kind : Nat := 0
  atype : Nat := 3
  addr : Nat := 0
  syn : Nat := 0
  link : Nat := noLink
  job : Nat := 0
  slot : Nat := 0x7FF
  tag : Word := 0
  deriving DecidableEq, Repr

/-- The sixteen words of a record. -/
def FaultRec.words (f : FaultRec) (time seq : Nat) : List Word :=
  let w (n : Nat) : Word := Word.ofNat n
  let head := pack [(f.code, 0), (f.block, 8), (f.ctx.getD 0, 16), (b2n f.ctx.isNone, 26), (f.kind, 27), (f.atype, 29)]
  [w time, w head, w f.addr, w (f.addr / 2 ^ 32), w f.syn, w (f.syn / 2 ^ 32), w seq, w f.link,
   w ((if f.ctx.isNone then 0 else f.job % 65536) + f.slot % 2048 * 65536), f.tag, 0, 0, 0, 0, 0, 0]

/-- Writes one record and answers its SEQ: FAULT_LOST rises when it overwrites the oldest of 256 unread records;
then SDIO_INT_STAT.FAULT sets and telemetry takes a copy (R459, R460). -/
def fault (f : FaultRec) : Act Nat := do
  let s ← Act.get
  let seq := (s.faults.seq + 1) % 2 ^ 32
  let idx := s.faults.seq % 256
  let ws := f.words s.nowLo seq
  let full := s.faults.unread = 256
  Act.make (.faults { s.faults with
    records := s.faults.records.put idx ws, seq := seq,
    tail := if full then (s.faults.tail + 1) % 256 else s.faults.tail,
    unread := if full then 256 else s.faults.unread + 1 })
  if full then Act.countSat .faultLost 0 31 0
  Act.regField .sdioIntStat 0 1 1 1
  telemetry 4 (ws.flatMap fun w => bytesOf 4 w.toNat)
  return seq

/-- The order of records detected in one cycle: block ID, then context with NOCTX last, then address (R459). -/
def FaultRec.before (a b : FaultRec) : Bool :=
  let ca := a.ctx.getD 1024
  let cb := b.ctx.getD 1024
  a.block < b.block || (a.block = b.block && (ca < cb || (ca = cb && a.addr ≤ b.addr)))

/-- Places a record among those of its cycle. -/
def FaultRec.insert (f : FaultRec) : List FaultRec → List FaultRec
  | [] => [f]
  | g :: t => if f.before g then f :: g :: t else g :: FaultRec.insert f t

/-- Writes the records detected in one cycle that do not name one another, in the order of R459. -/
def faults (fs : List FaultRec) : Act Unit := do
  for f in fs.foldr FaultRec.insert [] do
    let _ ← fault f

/-- A retirement record (R463, R500). -/
def retireRecord (code block : Nat) (link : Nat := noLink) (ctx : Option Nat := none) : Act Nat :=
  fault { code, block, kind := 1, link, ctx }

/-- A repair record (R458): type and spare of SYNDROME. -/
def repairRecord (block type spare atype addr : Nat) (link : Nat := noLink) (ctx : Option Nat := none) : Act Nat :=
  fault { code := Code.ok, block, kind := 2, atype, addr, syn := type + spare * 2 ^ 32, link, ctx }

/-! ## Time passes -/

/-- One wrap of the nanosecond counter: PEND rises, or at 3 the wrap is lost (R338, R339). In Sleep the power manager
folds it at once (R420). -/
def wrapCounter : Act Unit := do
  let s ← Act.get
  if s.power.state = .sleep then
    Act.make (.clock { s.clock with era := (s.clock.era + 1) % 2 ^ 32 })
  else if s.clock.pend < 3 then
    Act.make (.clock { s.clock with pend := s.clock.pend + 1 })
  else
    Act.regField .timeStat 0 2 2 1
    let _ ← fault { code := Code.faultUnit, block := Block.time }

/-- `n` units of 2^−32 ns of elapsed time pass. The clock unit is off in Deep sleep and Off (Table 18.2). -/
def passUnits (n : Nat) : Act Unit := do
  let s ← Act.get
  let t := s.clock.acc.toNat + n
  Act.make (.pass n)
  if s.power.state = .run || s.power.state = .idle || s.power.state = .sleep then
    Act.make (.clock { s.clock with acc := BitVec.ofNat 64 t })
    for _ in List.range (t / 2 ^ 64) do
      wrapCounter

/-- Elapsed time reaches `ns` if it has not yet: an event that falls due at a time happens at that time (log
entry 3). -/
def reach (ns : Nat) : Act Unit := do
  let s ← Act.get
  if s.clock.elapsed < ns * nsUnit then passUnits (ns * nsUnit - s.clock.elapsed)

/-- `n` ns pass. -/
def passNs (n : Nat) : Act Unit := passUnits (n * nsUnit)

/-- Full device time reaches `t` if it has not yet. -/
def reachFull (t : Nat) : Act Unit := do
  let s ← Act.get
  if s.fullTime < t && s.power.state ≠ .deep && s.power.state ≠ .off then
    passUnits ((t - s.fullTime) * nsUnit - s.clock.acc.toNat % nsUnit)

/-! ## Physical memory (R18, R454, R501) -/

/-- The regions of Table 1.5. -/
inductive Region where
  | basin | weir | slice | psram | flash | control
  deriving DecidableEq, Repr

/-- The region a physical address lies in. -/
def regionAt (pa : Nat) : Option Region :=
  if pa < 0x2000_0000 then some .basin
  else if 0x8000_0000 ≤ pa ∧ pa < 0x8100_0000 then some .weir
  else if 0xA000_0000 ≤ pa ∧ pa < 0xA100_0000 then some .slice
  else if 0x10_0000_0000 ≤ pa ∧ pa < 0x16_0000_0000 then some .psram
  else if 0x100_0000_0000 ≤ pa ∧ pa < 0x180_0000_0000 then some .flash
  else if 0x7F00_0000_0000 ≤ pa ∧ pa < 0x7F00_0100_0000 then some .control
  else none

abbrev psramBase : Nat := 0x10_0000_0000
abbrev flashBase : Nat := 0x100_0000_0000
abbrev weirBase : Nat := 0x8000_0000
abbrev sliceBase : Nat := 0xA000_0000
abbrev controlBase : Nat := 0x7F00_0000_0000

/-- Physical address of cell `c` of engine `e` (Table 1.5). -/
def cellBase (e c : Nat) : Nat := e * 0x400_0000 + c * 0x4_0000

/-- The first address of the 1 KiB row an address lies in (Table 21.8): the key of a corrected-error count. A row of a
Weir bank holds every eighth line. -/
def rowOf (pa : Nat) : Nat :=
  if regionAt pa = some .weir then weirBase + (pa - weirBase) / 8192 * 8192 + (pa - weirBase) / 64 % 8 * 64
  else pa / 1024 * 1024

/-- Live channels at the last start, in rising order: those live now and those retired in service (R238, R240). -/
def State.channels (s : State) : List Nat :=
  (List.range 96).filter fun n => s.bitOf3 .pscLive n || (s.psram.at n {}).lost

/-- PSRAM channel of PSRAM-relative tile `t` (R238). -/
def State.channelOf (s : State) (t : Nat) : Nat :=
  let l := s.channels
  l.getD (t % l.length) 0

/-- A corrected error at `pa` is counted toward sparing, and in the registers that count it (R454, R465, R467). -/
def countCorrected (pa : Nat) : Act Unit := do
  let s ← Act.get
  match regionAt pa with
  | some .psram =>
    let t := (pa - psramBase) / 65536
    let ch := s.channelOf t
    let c := s.psram.at ch {}
    Act.make (.faults { s.faults with tiles := s.faults.tiles.put t (s.faults.tiles.at t [] ++ [s.ns]) })
    Act.make (.psram ch { c with corr := min 65535 (c.corr + 1) })
  | r =>
    Act.make (.faults { s.faults with rows := s.faults.rows.put (rowOf pa) (s.faults.rows.at (rowOf pa) [] ++ [s.ns]) })
    if r = some .weir then Act.countSat .weirBankEcc ((pa - weirBase) / 64 % 8) 15 0

/-- What a read of physical memory found: the first uncorrectable word and its syndrome. -/
abbrev EccHit := Option (Nat × Nat)

/-- Reads `n` bytes at `pa` through the check of their words: single errors are corrected and counted; the first
uncorrectable word is reported. -/
def readPhys (pa n : Nat) : Act (List Byte × EccHit) := do
  let s ← Act.get
  let mut bytes := Memory.load 0 s.mem pa n
  let mut hit : EccHit := none
  for (w, f) in s.flips do
    if w < pa + n ∧ pa < w + 8 then
      let d : BitVec 64 := BitVec.ofNat 64 (natOf (Memory.load 0 s.mem w 8))
      let (v, found, syn) := Ecc.read d f
      let fixed := bytesOf 8 v.toNat
      bytes := (List.range n).map fun i =>
        if w ≤ pa + i ∧ pa + i < w + 8 then fixed.getD (pa + i - w) 0 else bytes.getD i 0
      match found with
      | .clean => nothing
      | .corrected _ => countCorrected w
      | .uncorrectable =>
        if regionAt w = some .weir then Act.countSat .weirBankEcc ((w - weirBase) / 64 % 8) 31 16
        if hit.isNone then hit := some (w, Ecc.syndromeField found syn)
  return (bytes, hit)

/-- The words written at `pa` take fresh check bits; one with an armed injection takes its inverted bits (R470). -/
def freshCheck (pa n : Nat) : Act Unit := do
  let s ← Act.get
  for (w, _) in s.flips do
    if w < pa + n ∧ pa < w + 8 then Act.make (.flip w 0)
  match s.faults.inject with
  | some (w, f) =>
    if w < pa + n ∧ pa < w + 8 then
      Act.make (.flip w f)
      Act.make (.faults { s.faults with inject := none })
  | none => nothing

/-- Stores `bytes` at `pa`. -/
def writePhys (pa : Nat) (bytes : List Byte) : Act Unit := do
  Act.make (.mem pa bytes)
  freshCheck pa bytes.length

/-- Fills `n` bytes at `pa` with zeros. -/
def zeroPhys (pa n : Nat) : Act Unit := do
  Act.make (.clear pa n)
  freshCheck pa n

/-- Copies `n` bytes with their check bits, unchanged (R455). Both addresses lie on words. -/
def copyPhys (src dst n : Nat) : Act Unit := do
  let s ← Act.get
  Act.make (.copy src dst n)
  freshCheck dst n
  for (w, f) in s.flips do
    if src ≤ w ∧ w < src + n then Act.make (.flip (w - src + dst) f)

/-- Memory as it is stored: for the device's own structures, whose words a model of single faults does not invert
(log entry 4). -/
def State.peek (s : State) (pa n : Nat) : List Byte := Memory.load 0 s.mem pa n

def State.peekNat (s : State) (pa n : Nat) : Nat := natOf (s.peek pa n)

/-! ## Contexts and completion rings (R30 to R37, R499) -/

def State.ctx (s : State) (c : Nat) : Context := s.ctxs.at c {}

def Act.modCtx (c : Nat) (f : Context → Context) : Act Unit := do
  let s ← Act.get
  Act.make (.ctx c (f (s.ctx c)))

/-- The 32 bytes of a record that a ring of 2^k records numbers `n` (counted from 0) (R31). -/
def CRec.bytes (r : CRec) (k n : Nat) : List Byte :=
  let phase := 1 - n / 2 ^ k % 2
  bytesOf 4 (pack [(r.code, 0), (r.block, 8), (r.context, 16), (r.kind, 26), (b2n r.retried, 29), (phase, 31)]) ++
  bytesOf 4 r.tag.toNat ++ bytesOf 4 r.time.toNat ++ bytesOf 4 (pack [((n + 1) % 65536, 0), (r.job % 65536, 16)]) ++
  bytesOf 8 r.detail ++
  bytesOf 4 (pack [(r.engines, 0), (r.modules, 8), (min 255 r.parks, 16), (min 255 r.heels, 24)]) ++ bytesOf 4 r.aux

/-- Physical address of record `i` of a context's ring; none for a context without ring memory (log entry 8). -/
def Context.recordPa (x : Context) (i : Nat) : Option Nat :=
  let a := x.desc.ringVa % 65536 + i * 32
  (x.ringTiles[a / 65536]?).map fun t => t + a % 65536

/-- A ring of 2^k records has no room. -/
def RingSt.isFull (r : RingSt) (k : Nat) : Bool := 2 ^ k ≤ r.wr - r.cons

/-- Writes a record at a context ring's write index as one Towpath write (R34). -/
def ringWrite (c : Nat) (r : CRec) : Act Unit := do
  let s ← Act.get
  let x := s.ctx c
  match x.recordPa (x.ring.wr % 2 ^ x.desc.ringK) with
  | some pa => writePhys pa (r.bytes x.desc.ringK x.ring.wr)
  | none => nothing
  Act.modCtx c fun x => { x with ring := { x.ring with wr := x.ring.wr + 1 } }

/-- A completion of a context: its record is written, or held behind a full ring and the records held before it
(R37). Of a cascade context, HOME alone writes the records of kernels and jobs (R399). -/
def complete (c : Nat) (r : CRec) : Act Unit := do
  let s ← Act.get
  let x := s.ctx c
  let away : Bool := match s.home c with
    | some h => h ≠ s.casc.id && r.kind ≤ 1
    | none => false
  if x.st = .free || away then nothing
  else if x.ring.isFull x.desc.ringK || !x.ring.held.isEmpty then
    Act.modCtx c fun x => { x with ring := { x.ring with held := x.ring.held ++ [r] } }
  else ringWrite c r

/-- A record of context `c` with the present time. -/
def State.record (s : State) (c code block kind : Nat) : CRec :=
  { code, block, context := c, kind, retried := false, tag := 0, time := Word.ofNat s.nowLo, job := 0, detail := 0,
    engines := 0, modules := 0, parks := 0, heels := 0, aux := 0 }

/-- The fault-ring index of a record's SEQ (R459). -/
def faultIndex (seq : Nat) : Nat := (seq + 2 ^ 32 - 1) % 256

end Sys2Proof.Machine
end

