-- ==== Sys2Proof/Machine/Bus.lean ====
section
/-!
DEFINITION. Sys2Proof/Machine/Bus.lean: who may reach which control register (R12, R15 to R17 and the rights each
window's rule gives), and how an access is reported.
-/
namespace Sys2Proof.Machine

/-- S0, S1 and the host have all of control space (R15). -/
def privileged (who : Who) : Bool := who = 0 || who = 1 || who = Who.host

/-- The window grant of S2–S7 (R16, R17): no grant bit covers the reserved ranges. -/
def State.granted (s : State) (window : Nat) : Bool :=
  if window ≤ 0x14 then flag (s.rg .sysGrant) window
  else if 0x20 ≤ window ∧ window < 0x28 then flag (s.rg .sysGrant) (window + 1 - 0x0C)
  else false

/-- Registers with one instance for each initiator (R153, R207, R243, R244, R269, R290, R310, R336). -/
def Reg.ofInitiator : Reg → Bool
  | .kvCmd | .kvResult | .kvCount | .xlatInv | .xlatInvVa | .xlatInvStatus => true
  | .lockCmd | .lockArg | .lockArg2 | .lockTag | .lockStatus | .lockLast => true
  | .bargeDescLo | .bargeDescHi | .bargeSubmit | .bargeStatus | .refxCmd | .refxStatus => true
  | .weirCmd | .weirStatus | .gridDescLo | .gridDescHi | .gridSubmit | .gridStatus => true
  | .gridTabLo | .gridTabHi | .gridTabCmd | .gridTabStatus => true
  | .planDescLo | .planDescHi | .planSubmit | .planStatus => true
  | .epochVaLo | .epochVaHi | .epochCmd | .epochStatus => true
  | _ => false

/-- The groups of PLAN that S2–S7 use (R336). -/
def Reg.planGroup : Reg → Bool
  | .planDescLo | .planDescHi | .planSubmit | .planStatus => true
  | .epochVaLo | .epochVaHi | .epochCmd | .epochStatus => true
  | _ => false

/-- What S2–S7 may write in a window they are granted. -/
def State.stewardWrites (s : State) (r : Reg) (i : Nat) : Bool :=
  match r with
  | .sysGrant | .sysRestart => false
  | .colDescLo | .colDescHi | .colCmd | .kvPtabLo | .kvPtabHi => false
  | .xlatPinTile | .xlatPinOp | .xlatMirrorBase | .xlatMirrorSize | .xlatSplitLo | .xlatSplitHi => false
  | .weirQBase | .weirQSize | .weirQCfg | .weirQHigh | .weirQLow | .weirQFc | .weirQStat | .weirQDrop => false
  | .weirQSrc | .weirQWr | .weirQCm | .weirQRd | .weirQMk | .weirQRl => false
  | .refxTriad | .refxLeashSel => false
  | .sdioStageBase | .sdioStageSize => false
  | .toCfg | .toStartLo | .toStartHi | .toPeriod | .toFrac | .toWidth | .toLast => flag (s.rg .toCfg i) 3
  | .tcCfg | .tcHeadLo | .tcHeadHi | .tcStat | .tcPop => flag (s.rg .tcCfg i) 8
  | r =>
    let w := r.row.base / 0x10000
    if w = 0x0A then r.ofInitiator && !(r = .gridTabLo || r = .gridTabHi || r = .gridTabCmd || r = .gridTabStatus)
    else if w = 0x0B then r.planGroup
    else !(w = 0x01 || w = 0x0C || w = 0x0F || w = 0x10 || w = 0x14)

/-- The registers by which S2–S7 submit Gridder requests, which is all they use the window for (R310). -/
def Reg.gridGroup : Reg → Bool
  | .gridDescLo | .gridDescHi | .gridSubmit | .gridStatus => true
  | _ => false

/-- Whether an initiator may make an access to a register it reaches. -/
def State.mayAccess (s : State) (who : Who) (write : Bool) (r : Reg) (i : Nat) : Bool :=
  if r.ofInitiator && i ≠ who.val then false
  else if who = Who.host then !(write && (r = .sdioStageBase || r = .sdioStageSize))
  else if privileged who then true
  else if write then s.stewardWrites r i
  else (r.row.base / 0x10000 ≠ 0x0B || r.planGroup) && (r.row.base / 0x10000 ≠ 0x0A || r.gridGroup)

/-- How a control-space access completes: the grant first (R17), then the alignment rule (R6), then the window's own
rights. An aligned access wider than 32 bits, of which R6 does not speak, completes as a narrower one does (log entry
202). -/
def State.accessCode (s : State) (who : Who) (write : Bool) (addr size : Nat) : Nat :=
  let off := addr - controlBase
  let inside := controlBase ≤ addr ∧ off < 2 ^ 24
  if !(privileged who) && !(inside && s.granted (off / 0x10000)) then Code.faultXlat
  else if !inside then Code.faultXlat
  else if size ≠ 4 ∨ addr % 4 ≠ 0 then Code.unaligned
  else match Reg.lookup off with
    | some (r, i, _) => if s.mayAccess who write r i then Code.ok else Code.faultXlat
    | none => Code.ok

/-- An access completes. -/
def Act.bus (who : Who) (code : Nat) (data : Word := 0) : Act Unit := Act.make (.bus who.val { code, data })

/-- Control space answers: not in Deep sleep, in Off, or in a device held in reset (Table 18.2, Table 16.7). -/
def State.reachable (s : State) : Bool :=
  s.power.state ≠ .deep && s.power.state ≠ .off && !s.boot.dead && !s.boot.off

/-- A command given by a write of `who` to instance `i` of a register: the access rules, then the command. -/
def command (who : Who) (r : Reg) (i : Nat) (body : Act Nat) : Act Unit := do
  let s ← Act.get
  if !s.reachable then return ()
  let code := s.accessCode who true (controlBase + r.off i 0) 4
  if code = Code.ok then
    let c ← body
    Act.bus who c
  else Act.bus who code

end Sys2Proof.Machine
end

