-- ==== Sys2Proof/Machine/Locks.lean ====
section
/-!
DEFINITION. Sys2Proof/Machine/Locks.lean: the Lock unit (chapter 8): levels, the wait table, the command group and
poisoning.
-/
namespace Sys2Proof

/-- Who performs a Lock operation. -/
def LockOp.who : LockOp → Who
  | .add w _ _ => w
  | .set w _ _ => w

/-- The Lock it names. -/
def LockOp.lock : LockOp → Nat
  | .add _ n _ => n % 8192
  | .set _ n _ => n % 8192

end Sys2Proof

namespace Sys2Proof.Machine

def State.lockAt (s : State) (n : Nat) : Lock := s.locks.at n {}

def Act.modLock (n : Nat) (f : Lock → Lock) : Act Unit := do
  let s ← Act.get
  Act.make (.lock n (f (s.lockAt n)))

/-- A wait with target T is satisfied when (LEVEL − T) modulo 2^32 is less than 2^31 (R196). -/
def reached (level target : Word) : Bool := (level - target).toNat < 2 ^ 31

/-- The deadline of a timeout of `us` µs from now; 0 is none (R201). -/
def State.deadline (s : State) (us : Nat) : Option Nat := if us = 0 then none else some (s.ns + us * 1000)

/-- Now is the cycle of the timeout: the 2 ns tick of the clock unit that holds the deadline (R38, R201). -/
def State.atDeadline (s : State) : Option Nat → Bool
  | some d => d / 2 = s.ns / 2
  | none => false

/-- The cycle of the timeout is past. -/
def State.late (s : State) : Option Nat → Bool
  | some d => d / 2 < s.ns / 2
  | none => false

/-- The code of an arrival: OK_AT_DEADLINE in the cycle of the timeout, TIMEOUT after it (R38, Table 1.8). -/
def State.arrival (s : State) (deadline : Option Nat) : Nat :=
  if s.late deadline then Code.timeout else if s.atDeadline deadline then Code.okAtDeadline else Code.ok

/-- An armed wait ends: LOCK_s_LAST, and its record unless the ring's context is FREE or is the one whose teardown
ends it (R202). A timeout's record bears the time of the timeout, be it written later. -/
def endArmed (who : Who) (w : LWait) (code : Nat) (torn : Option Nat) : Act Unit := do
  let s ← Act.get
  Act.reg .lockLast who.val (Word.ofNat (pack [(code, 0), (w.lock, 8)]))
  if Code.recorded code then
    let _ ← fault { code, block := Block.lock, ctx := some w.ring, atype := 2, addr := w.lock, tag := w.tag }
  if (s.ctx w.ring).st ≠ .free ∧ torn ≠ some w.ring then
    let past := match w.deadline with
      | some d => if code = Code.timeout then s.ns - d else 0
      | none => 0
    complete w.ring { s.record w.ring code Block.lock 3 with
      tag := w.tag, time := Word.ofNat (s.nowLo + 2 ^ 32 - past % 2 ^ 32), detail := (s.lockAt w.lock).level.toNat, aux := w.lock }

/-- The outcome of a heeled kernel's WAIT is copied to the header of each of its kennels that has drained (R202, Table
7.7). -/
def copyOutcome (c code : Nat) : Act Unit := do
  let s ← Act.get
  match (s.ctx c).kern with
  | some k =>
    if k.phase = .heeled then
      for (d, j) in k.drained.zipIdx do
        if d then writePhys ((s.ctx c).desc.kennel + j * 0x61_0000 + 0x28) (bytesOf 4 code)
  | none => nothing

/-- A wait ends and leaves the table. A kernel's or barge's outcome is kept where its block acts on it. -/
def endWait (w : LWait) (code : Nat) (torn : Option Nat := none) : Act Unit := do
  let s ← Act.get
  Act.make (.waits (s.waits.erase w))
  match w.waiter with
  | .armed who => endArmed who w code torn
  | .kernel c =>
    Act.modCtx c fun x => { x with kern := x.kern.map fun k =>
      { k with wait := some code, okAtDeadline := k.okAtDeadline || code = Code.okAtDeadline } }
    copyOutcome c code
  | .barge slot =>
    match s.flying.find slot with
    | some b => Act.make (.fly slot { b with
      waiting := false, waitCode := if Code.good code then none else some code
      okAtDeadline := b.okAtDeadline || code = Code.okAtDeadline })
    | none => nothing

/-- Every wait on Lock `n` is judged against its level at the end of the cycle (R199). -/
def settle (n : Nat) : Act Unit := do
  let s ← Act.get
  for w in s.waits.filter (·.lock = n) do
    if reached (s.lockAt n).level w.target then endWait w (s.arrival w.deadline)

/-- ADD: LEVEL rises modulo 2^32; a recorded ADD also counts in JOBADD (R198, R205). -/
def lockRaise (n : Nat) (v : Word) (recorded : Bool) : Act Unit :=
  Act.modLock n fun l => { l with level := l.level + v, jobadd := if recorded then l.jobadd + v else l.jobadd }

/-- An ADD that changes a Lock in a cycle of its own. -/
def lockAdd (n : Nat) (v : Word) (recorded : Bool := false) : Act Unit := do
  lockRaise n v recorded
  settle n

/-- A SET in a cycle of its own. -/
def lockSet (n : Nat) (v : Word) : Act Unit := do
  Act.modLock n fun l => { l with level := v }
  settle n

/-- The ADD or SET of a Weir queue or a leash: not performed on a Lock that is not allocated (R198). -/
def portAdd (n : Nat) (v : Word) : Act Unit := do
  let s ← Act.get
  if (s.lockAt n).alloc then lockAdd n v

def portSet (n : Nat) (v : Word) : Act Unit := do
  let s ← Act.get
  if (s.lockAt n).alloc then lockSet n v

/-- A wait is issued: it completes at once with POISONED or OK, or it enters the table (R201, R204). Answers the
outcome where it completes at once. -/
def issueWait (w : LWait) : Act (Option Nat) := do
  let s ← Act.get
  let l := s.lockAt w.lock
  if l.poisoned then return some Code.poisoned
  else if reached l.level w.target then return some Code.ok
  else
    Act.make (.waits (s.waits ++ [w]))
    return none

/-- The Locks a context owns. -/
def State.owned (s : State) (c : Nat) : List Nat :=
  (s.locks.filter fun e => e.2.alloc && e.2.owner = c).map (·.1)

/-- Teardown poisons the context's Locks and their waiters complete with POISONED; an arrival or a timeout of the same
cycle is judged first (R203, R204). -/
def poisonLocks (c : Nat) : Act Unit := do
  let s ← Act.get
  for n in s.owned c do
    Act.modLock n fun l => { l with poisoned := true }
    for w in s.waits.filter (·.lock = n) do
      endWait w Code.poisoned (some c)

/-- At a restart: LEVEL − JOBADD where JOBZERO is 0, then JOBADD and the poison are cleared (R206). -/
def rollbackLocks (c : Nat) : Act Unit := do
  let s ← Act.get
  for n in s.owned c do
    Act.modLock n fun l => { l with
      level := if l.jobzero then l.level else l.level - l.jobadd, jobadd := 0, poisoned := false }
    settle n

/-- At the first dispatch of a job attempt: JOBADD is cleared, and LEVEL where JOBZERO is set (R205). -/
def startLocks (c : Nat) : Act Unit := do
  let s ← Act.get
  for n in s.owned c do
    Act.modLock n fun l => { l with jobadd := 0, level := if l.jobzero then 0 else l.level }
    settle n

/-- REOPEN clears the poison of a context's Locks (R206). -/
def clearPoison (c : Nat) : Act Unit := do
  let s ← Act.get
  for n in s.owned c do
    Act.modLock n fun l => { l with poisoned := false }

/-! ## The command group (R207) -/

/-- The armed waits of an initiator. -/
def State.armedBy (s : State) (who : Nat) : List LWait :=
  s.waits.filter fun w => match w.waiter with
    | .armed x => x.val = who
    | _ => false

/-- The code of the initiator's last command. -/
def lockStatus (who : Who) (code : Nat) : Act Unit := Act.regField .lockStatus who.val 7 0 code

/-- Whether an initiator's access to its command register is accepted. -/
def State.lockAccess (s : State) (who : Who) : Bool :=
  s.accessCode who true (controlBase + Reg.off .lockCmd who.val 0) 4 = Code.ok

/-- An ADD or SET changes the level of its Lock, if it is accepted: a Lock that is not allocated refuses it. -/
def lockOp (o : LockOp) : Act Unit := do
  let s ← Act.get
  if s.lockAccess o.who then
    Act.bus o.who Code.ok
    let a := (s.lockAt o.lock).alloc
    lockStatus o.who (if a then Code.ok else Code.faultXlat)
    match o with
    | .add w _ v =>
      Act.reg .lockArg w.val v
      if a then lockRaise o.lock v false
    | .set w _ v =>
      Act.reg .lockArg w.val v
      if a then Act.modLock o.lock fun l => { l with level := v }
  else Act.bus o.who Code.faultXlat

/-- A SET comes before another in order of initiator instance (Table 8.3). -/
def insertSet (o : LockOp) : List LockOp → List LockOp
  | [] => [o]
  | p :: t => if o.who ≤ p.who then o :: p :: t else p :: insertSet o t

/-- The operations of one cycle: SETs by initiator, then the ADDs summed; then every wait on a changed Lock (R199,
R203). -/
def lockCycle (ops : List LockOp) : Act Unit := do
  let sets := ops.filter fun o => match o with | .set _ _ _ => true | .add _ _ _ => false
  let adds := ops.filter fun o => match o with | .set _ _ _ => false | .add _ _ _ => true
  for o in sets.foldr insertSet [] do lockOp o
  for o in adds do lockOp o
  for n in (ops.map LockOp.lock).dedup do settle n

/-- Operations that meet: up to 4 in each cycle (R199). -/
def lockOps (ops : List LockOp) : Act Unit := do
  for i in List.range ((ops.length + 3) / 4) do
    lockCycle ((ops.drop (4 * i)).take 4)

/-- ARM: an armed wait, or FAULT_XLAT on a Lock not allocated or beyond the initiator's 256 entries (R200, R202). -/
def armLock (who : Who) (lock : Nat) (target : Word) (ring tmo : Nat) (tag : Word) : Act Nat := do
  let n := lock % 8192
  Act.reg .lockArg who.val target
  Act.reg .lockArg2 who.val (Word.ofNat (pack [(ring % 1024, 0), (tmo % 2 ^ 22, 10)]))
  Act.reg .lockTag who.val tag
  let s ← Act.get
  if !(s.lockAt n).alloc || 256 ≤ (s.armedBy who.val).length then
    lockStatus who Code.faultXlat
  else
    lockStatus who Code.ok
    let w : LWait := { waiter := .armed who, lock := n, target, deadline := s.deadline (tmo % 2 ^ 22), tag,
                       ring := ring % 1024 }
    match ← issueWait w with
    | some code => endWait w code
    | none => nothing
  return Code.ok

def execLockArm (who : Who) (lock : Nat) (target : Word) (ring tmo : Nat) (tag : Word) (s : State) :
    Host.Outcome State Fault Refusal :=
  Act.outcome (command who .lockCmd who.val (armLock who lock target ring tmo tag)) s

/-- CANCEL: the initiator's armed waits on the Lock with that tag end with CANCELLED (R198). -/
def cancelLock (who : Who) (lock : Nat) (tag : Word) : Act Nat := do
  let n := lock % 8192
  Act.reg .lockTag who.val tag
  let s ← Act.get
  if !(s.lockAt n).alloc then lockStatus who Code.faultXlat
  else
    lockStatus who Code.ok
    for w in (s.armedBy who.val).filter fun w => w.lock = n && w.tag = tag do
      endWait w Code.cancelled
  return Code.ok

def execLockCancel (who : Who) (lock : Nat) (tag : Word) (s : State) : Host.Outcome State Fault Refusal :=
  Act.outcome (command who .lockCmd who.val (cancelLock who lock tag)) s

/-- ALLOC: a free Lock gets its owner and level 0; Rhoson and the host only (R206, R207). -/
def allocLock (who : Who) (lock : Nat) (arg : Word) : Act Nat := do
  let n := lock % 8192
  Act.reg .lockArg who.val arg
  let s ← Act.get
  if !(privileged who) then
    lockStatus who Code.faultXlat
    return Code.faultXlat
  else if (s.lockAt n).alloc || field arg 31 11 ≠ 0 then
    lockStatus who Code.faultXlat
    return Code.ok
  else
    lockStatus who Code.ok
    Act.make (.lock n { level := 0, alloc := true, owner := field arg 9 0, jobzero := flag arg 10,
                        poisoned := false, jobadd := 0 })
    return Code.ok

def execLockAlloc (who : Who) (lock : Nat) (arg : Word) (s : State) : Host.Outcome State Fault Refusal :=
  Act.outcome (command who .lockCmd who.val (allocLock who lock arg)) s

/-- FREE: a Lock without waiters becomes all zero (R206, Table 8.5). -/
def freeLock (who : Who) (lock : Nat) : Act Nat := do
  let n := lock % 8192
  let s ← Act.get
  if !(privileged who) then
    lockStatus who Code.faultXlat
    return Code.faultXlat
  else if !(s.lockAt n).alloc || s.waits.any (·.lock = n) then
    lockStatus who Code.faultXlat
    return Code.ok
  else
    lockStatus who Code.ok
    Act.make (.lock n {})
    return Code.ok

def execLockFree (who : Who) (lock : Nat) (s : State) : Host.Outcome State Fault Refusal :=
  Act.outcome (command who .lockCmd who.val (freeLock who lock)) s

/-- A write of LOCK_s_CMD (Table 8.5). -/
def lockCommand (who : Who) (value : Word) : Act Nat := do
  let s ← Act.get
  let n := field value 28 16
  let i := who.val
  let arg := s.rg .lockArg i
  match field value 2 0 with
  | 0 => return Code.ok
  | 1 =>
    lockOps [.add who n arg]
    return Code.ok
  | 2 =>
    lockOps [.set who n arg]
    return Code.ok
  | 3 => armLock who n arg (s.rf .lockArg2 i 9 0) (s.rf .lockArg2 i 31 10) (s.rg .lockTag i)
  | 4 => cancelLock who n (s.rg .lockTag i)
  | 5 => allocLock who n arg
  | 6 => freeLock who n
  | _ =>
    lockStatus who Code.faultXlat
    return Code.ok

/-- What LOCK_INFO, LOCK_JOBADD, LOCK_LEVEL_n and the ARMED field read (Tables 8.7, 8.9). -/
def State.lockReads (s : State) (r : Reg) (i : Nat) : Option Word :=
  let n := s.rf .lockSel 0 12 0
  let l := s.lockAt n
  match r with
  | .lockInfo => some (Word.ofNat (pack [(l.owner, 0), (b2n l.alloc, 10), (b2n l.jobzero, 11), (b2n l.poisoned, 12),
      ((s.waits.filter (·.lock = n)).length, 13)]))
  | .lockJobadd => some l.jobadd
  | .lockLevel => some (s.lockAt i).level
  | .lockStatus => some (setField (s.rg .lockStatus i) 24 16 (s.armedBy i).length)
  | _ => none

end Sys2Proof.Machine
end

