-- ==== Sys2Proof/Machine/Slices.lean ====
section
/-!
DEFINITION. Sys2Proof/Machine/Slices.lean: the reflex triads, their members and leashes, and writes to slice SRAM
(R246, R250 to R252).
-/
namespace Sys2Proof.Machine

def State.triad (s : State) (t : Nat) : Triad := s.reflex.triads.at t {}

def Act.modTriad (t : Nat) (f : Triad → Triad) : Act Unit := do
  let s ← Act.get
  Act.make (.reflex { s.reflex with triads := s.reflex.triads.put t (f (s.triad t)) })

def State.leash (s : State) (n : Nat) : Leash := s.reflex.leashes.at n {}

def Act.modLeash (n : Nat) (f : Leash → Leash) : Act Unit := do
  let s ← Act.get
  Act.make (.reflex { s.reflex with leashes := s.reflex.leashes.put n (f (s.leash n)) })

/-- The slice named in position `p` of REFX_TRIAD_t. -/
def State.position (s : State) (t p : Nat) : Nat := s.rf .refxTriad t (3 * p + 2) (3 * p)

/-- A slice's role: 0 spare, 1 member, 2 retired, 3 rebuilding (Table 10.10). -/
def State.role (s : State) (x : Nat) : Nat := s.rf .refxSlice 0 (2 * x + 1) (2 * x)

/-- The triad's present members, by position: the slices it names whose role is member. -/
def State.members (s : State) (t : Nat) : List Nat := ([0, 1, 2].map (s.position t)).filter fun x => s.role x = 1

def setRole (x role : Nat) : Act Unit := Act.regField .refxSlice 0 (2 * x + 1) (2 * x) role

/-- The triad that names a slice, the vacated position included. -/
def State.triadOf (s : State) (x : Nat) : Option Nat :=
  [0, 1].find? fun t => [0, 1, 2].any fun p => s.position t p = x

def slicePa (x off : Nat) : Nat := sliceBase + x * 0x20_0000 + off

/-- The member whose copy REFX reads: the lowest-numbered one, or of a triad without members the lowest-numbered slice it
names. -/
def State.firstMember (s : State) (t : Nat) : Nat :=
  let ms := s.members t
  (if ms.isEmpty then [0, 1, 2].map (s.position t) else ms).foldl min 7

/-- The leashes of triad `t` that are bound. -/
def State.bound (s : State) (t : Nat) : List Nat :=
  (List.range 8).map (fun l => t * 8 + l) |>.filter fun n => (s.leash n).mode ≠ 0

/-- Offset of leash `n`'s area in tile 4, of its state, and of its trajectory tiles (Table 10.1). -/
def leashArea (n : Nat) : Nat := 0x4_0000 + n % 8 * 0x2000
def leashStateArea (n : Nat) : Nat := 0x5_0000 + n % 8 * 0x2000
def trajTile (n : Nat) (high : Bool) : Nat := 0x8_0000 + (2 * (n % 8) + b2n high) * 0x1_0000

/-- Bytes of the slice SRAM of triad `t`. -/
def State.sliceBytes (s : State) (t off n : Nat) : List Byte := s.peek (slicePa (s.firstMember t) off) n

/-- A leash's descriptor (Table 10.2). -/
def State.leashDesc (s : State) (n : Nat) : List Byte := s.sliceBytes (n / 8) (leashArea n) 64

/-- The spare that receives the triad's writes while it is rebuilt (R265 step 3). -/
def State.copying (s : State) (t : Nat) : List Nat :=
  match (s.triad t).rebuild with
  | some (.copy, x) | some (.quiet, x) => [x]
  | _ => []

/-- Whether R251 accepts a write of `n` bytes at offset `off` of triad `t`. -/
def State.sliceAccepts (s : State) (t off n : Nat) : Bool :=
  if 0x4_0000 ≤ off && off + n ≤ 0x5_0000 then
    (List.range 8).all fun l =>
      let a := leashArea l
      off + n ≤ a || a + 0x2000 ≤ off || (s.leash (t * 8 + l)).mode = 0
  else
    (List.range 8).any fun l =>
      let x := s.leash (t * 8 + l)
      let a := trajTile l (!x.liveHigh)
      x.mode ≠ 0 && !x.pending && a ≤ off && off + n ≤ a + 0x1_0000

/-- A Towpath write to slice SRAM: every member of the triad takes it at one offset (R251). -/
def sliceWrite (pa : Nat) (bytes : List Byte) : Act Nat := do
  let s ← Act.get
  let x := (pa - sliceBase) / 0x20_0000
  let off := (pa - sliceBase) % 0x20_0000
  match s.triadOf x with
  | none => return Code.faultXlat
  | some t =>
    if !(s.sliceAccepts t off bytes.length) then return Code.faultXlat
    else
      for m in s.members t ++ s.copying t do writePhys (slicePa m off) bytes
      return Code.ok

/-- A leash enters a mode under a cause of Table 10.7. A latch holds its cause, but a SAFE cause replaces a stop
cause, and causes 6 and 9 replace any other. -/
def leaveMain (n mode cause : Nat) (latch : Bool) : Act Unit := do
  let s ← Act.get
  let l := s.leash n
  if l.mode ≠ 0 && (!l.latch || (l.mode = 2 && mode = 3) || cause = 6 || cause = 9) then
    Act.modLeash n fun l => { l with mode, cause, latch := l.latch || latch, causeNs := s.ns }

/-- KILL of a class-0 context latches its leashes under cause 8 (R267). -/
def killLeashes (c : Nat) : Act Unit := do
  let s ← Act.get
  for n in List.range 16 do
    if (s.leash n).mode ≠ 0 && natAt (s.leashDesc n) 12 4 % 1024 = c then leaveMain n 2 8 true

end Sys2Proof.Machine
end

