-- ==== Sys2Proof/Machine/Tiers.lean ====
section
/-!
DEFINITION. Sys2Proof/Machine/Tiers.lean: the memory tiers (R208, R209, R238 to R242): tile numbers, tags, pins, the
mirror range, lost tiles, and reads and writes of tier memory.
-/
namespace Sys2Proof.Machine

/-- The physical tile number of a Basin or PSRAM address (R209). -/
def tileNumber (pa : Nat) : Option Nat :=
  match regionAt pa with
  | some .basin => some (pa / 65536)
  | some .psram => some (8192 + (pa - psramBase) / 65536)
  | _ => none

/-- The address of a physical tile number. -/
def tileBase (n : Nat) : Nat := if n < 8192 then n * 65536 else psramBase + (n - 8192) * 65536

/-- The flash tile number of a flash-tier window address (R235). -/
def flashTile (pa : Nat) : Nat := (pa - flashBase) / 65536

/-- States of a generation tag (R234). -/
abbrev Tag.live : Nat := 0
abbrev Tag.opened : Nat := 1
abbrev Tag.dead : Nat := 2

/-- STATE and SLOT of the tag of the tile at `pa`. -/
def State.tagAt (s : State) (pa : Nat) : Nat × Nat :=
  let t := match tileNumber pa with
    | some n => s.xlat.tags.at n 0
    | none => if regionAt pa = some .flash then s.xlat.flashTags.at (flashTile pa) 0 else 0
  (field t 15 14, field t 10 0)

/-- Sets the tag of the tile at `pa`. -/
def setTag (pa state slot : Nat) : Act Unit := do
  let s ← Act.get
  let v : BitVec 16 := BitVec.ofNat 16 (pack [(slot, 0), (state, 14)])
  match tileNumber pa with
  | some n => Act.make (.xlat { s.xlat with tags := s.xlat.tags.put n v })
  | none =>
    if regionAt pa = some .flash then
      Act.make (.xlat { s.xlat with flashTags := s.xlat.flashTags.put (flashTile pa) v })

/-- The pin-map bit of the tile at `pa` (R220). -/
def State.pinned (s : State) (pa : Nat) : Bool :=
  match tileNumber pa with
  | some n => s.xlat.pins.at n false
  | none => false

/-- Every tile of a physical region is pinned. -/
def State.regionPinned (s : State) (pa n : Nat) : Bool :=
  n = 0 || (List.range ((pa + n - 1) / 65536 + 1 - pa / 65536)).all fun i => s.pinned ((pa / 65536 + i) * 65536)

/-- Tiles of the mirror range (R239). -/
def State.mirrorSize (s : State) : Nat := min 32768 (s.rf .xlatMirrorSize 0 15 0)

/-- PSRAM-relative tiles that are backed (R238). -/
def State.backedTiles (s : State) : Nat := s.channels.length * 4096 - s.mirrorSize

/-- Whether the PSRAM tile at `pa` is backed. -/
def State.backed (s : State) (pa : Nat) : Bool := (pa - psramBase) / 65536 < s.backedTiles

/-- Whether the PSRAM tile at `pa` has a copy (R239). -/
def State.mirrored (s : State) (pa : Nat) : Bool :=
  let t := (pa - psramBase) / 65536
  let b := s.rf .xlatMirrorBase 0 18 0
  b ≤ t ∧ t < b + s.mirrorSize

/-- A tile of a channel retired in service (R240). -/
def State.lostTile (s : State) (pa : Nat) : Bool :=
  regionAt pa = some .psram && (s.psram.at (s.channelOf ((pa - psramBase) / 65536)) {}).lost

/-- Channel of a mirrored tile's copy (R239). -/
def State.copyChannel (s : State) (pa : Nat) : Nat :=
  let l := s.channels
  l.getD (((pa - psramBase) / 65536 % l.length + l.length / 2) % l.length) 0

/-- The tile has a copy, on a channel in service. -/
def State.copyLives (s : State) (pa : Nat) : Bool :=
  regionAt pa = some .psram && s.mirrored pa && !(s.psram.at (s.copyChannel pa) {}).lost

/-- A lost tile with no copy that still answers. -/
def State.gone (s : State) (pa : Nat) : Bool := s.lostTile pa && !s.copyLives pa

/-- The channel of a PSRAM address is retraining: the access waits (R240). -/
def State.retraining (s : State) (pa : Nat) : Bool :=
  regionAt pa = some .psram && (s.psram.at (s.channelOf ((pa - psramBase) / 65536)) {}).retraining

/-- The FTL's answer is an uncorrectable error: a tile with a page on a retired NAND channel (R462). -/
def State.flashLost (s : State) (pa : Nat) : Bool :=
  regionAt pa = some .flash && s.ftl.degraded && !(s.ftl.fresh.at (flashTile pa) false)

/-- A PSRAM channel is retired in service: its tiles become lost (R240, R463). -/
def retireChannel (ch code : Nat) (link : Nat := noLink) : Act Unit := do
  let s ← Act.get
  let p := s.psram.at ch {}
  if !p.lost && s.bitOf3 .pscLive ch then
    Act.make (.psram ch { p with lost := true, retraining := false })
    Act.setBit3 .pscLive ch false
    Act.setBit3 .faultRetPsc ch true
    let _ ← retireRecord code (Block.channel ch) link

/-- Events of the last `window` ns. -/
def recent (now window : Nat) (ts : List Nat) : List Nat := ts.filter fun t => now < t + window

/-- Reads tier memory: the bytes, or the physical address and syndrome of an uncorrectable error; and whether a mirrored
tile whose primary fails was served from its copy, which counts as corrected (R239). -/
def readCopy (pa n : Nat) : Act (List Byte × EccHit × Bool) := do
  let s ← Act.get
  if s.gone pa || s.flashLost pa then return (List.replicate n 0, some (pa, 0), false)
  else
    let (bytes, hit) ← readPhys pa n
    if s.copyLives pa && (hit.isSome || s.lostTile pa) then
      countCorrected pa
      return (s.peek pa n, none, true)
    else return (bytes, hit, false)

/-- Reads tier memory, from a copy where that serves it. -/
def readTier (pa n : Nat) : Act (List Byte × EccHit) := do
  let (bytes, hit, _) ← readCopy pa n
  return (bytes, hit)

/-- The FTL programs and erases blocks (R241): its figures move on, the spare pool never up and wear never down, and the pool
may run out, which FTL_STATUS shows from READY onwards (R242; log entry 20). -/
def wearFlash : Act Unit := do
  let n ← Act.draw
  let m ← Act.draw
  let (spare, mean, top, bad) := Config.ftlFigures n
  let s ← Act.get
  let (a, b, c, d) := s.ftl.figures
  let f := { s.ftl with figures := (min a (spare % 101), max b (mean % 65536), max c (top % 65536), max d bad)
                        spareGone := s.ftl.spareGone || flag (Config.freeWord m) 0 }
  Act.make (.ftl f)
  if flag (s.rg .ftlStatus) 0 then
    Act.reg .ftlStatus 0 (Word.ofNat (pack [(1, 0), (b2n f.spareGone, 1), (f.figures.1, 8)]))
    Act.reg .ftlWear 0 (Word.ofNat (pack [(f.figures.2.1, 0), (f.figures.2.2.1, 16)]))
    Act.reg .ftlBadblk 0 (Word.ofNat f.figures.2.2.2)

/-- Writes memory that a translated access reaches. Answers FAULT_UNIT for a flash tile when the spare pool is
exhausted (R242); slice SRAM answers by R251. -/
def writeTier (pa : Nat) (bytes : List Byte) : Act Nat := do
  let s ← Act.get
  if regionAt pa = some .slice then return ← sliceWrite pa bytes
  if regionAt pa = some .flash then
    if s.ftl.spareGone then return Code.faultUnit
    if bytes.length = 65536 then
      Act.make (.ftl { s.ftl with fresh := s.ftl.fresh.put (flashTile pa) true })
    wearFlash
  writePhys pa bytes
  return Code.ok

/-- NAND channel of a flash tile's first page (R241). -/
def nandOf (pa : Nat) : Nat := flashTile pa % 4

/-- A NAND channel is retired (R462, R463): no flash tile is whole until it is written again. -/
def retireNand (n code link : Nat) : Act Unit := do
  let s ← Act.get
  if !flag (s.rg .faultRetUnits) (16 + n) then
    Act.regField .faultRetUnits 0 (16 + n) (16 + n) 1
    Act.make (.ftl { s.ftl with degraded := true, fresh := [] })
    let _ ← retireRecord code (Block.nand n) link

/-- An uncorrectable error counts against its PSRAM channel, whose second within 1 s retires it, or its NAND channel,
retired by such reads in three blocks within 1 h (Table 21.7). `link` is the SEQ of the error's record. -/
def countUncorrectable (pa link : Nat) : Act Unit := do
  let s ← Act.get
  match regionAt pa with
  | some .psram =>
    let ch := s.channelOf ((pa - psramBase) / 65536)
    let p := s.psram.at ch {}
    let ts := recent s.ns 1000000000 p.uncorr ++ [s.ns]
    Act.make (.psram ch { p with uncorr := ts, lastFault := link })
    if 2 ≤ ts.length then retireChannel ch Code.faultEcc link
  | some .flash =>
    let n := nandOf pa
    let us := (s.ftl.uncorr.filter fun u => s.ns < u.2.2 + 3600000000000) ++ [(n, Config.nandBlock (flashTile pa), s.ns)]
    Act.make (.ftl { s.ftl with uncorr := us })
    if 3 ≤ ((us.filter (·.1 = n)).map (·.2.1)).dedup.length then retireNand n Code.faultEcc link
  | _ => nothing

/-- Block that an uncorrectable error at `pa` is laid to: a PSRAM channel, a NAND channel, the Weir, a slice or an
engine's Basin. -/
def State.eccBlock (s : State) (pa : Nat) : Nat :=
  match regionAt pa with
  | some .psram => Block.channel (s.channelOf ((pa - psramBase) / 65536))
  | some .flash => Block.nand (nandOf pa)
  | some .weir => Block.weir
  | some .slice => Block.slice ((pa - sliceBase) / 0x20_0000)
  | some .basin => Block.eng (pa / 0x400_0000)
  | _ => Block.none

end Sys2Proof.Machine
end

