-- ==== Sys2Proof/Machine/Towpath.lean ====
section
/-!
DEFINITION. Sys2Proof/Machine/Towpath.lean: the mesh of 40 stops (R19 to R25): where each block attaches, the two routes
between a pair of stops, and the virtual channel its data takes.
-/
namespace Sys2Proof.Machine

/-! ## Stops (Table 1.6) -/

/-- The stop of PSRAM channel `ch`: PSC_p serves channels 12p to 12p + 11. -/
def Stop.psc (ch : Nat) : Nat := ch / 12
/-- The stop of cell `c` of engine `e`: W serves columns 0–7, E columns 8–15. -/
def Stop.cell (e c : Nat) : Nat := (if e < 4 then 8 else 24) + 2 * (e % 4) + c % 16 / 8
/-- The stop of a steward core. -/
def Stop.steward (s : Nat) : Nat := if s < 4 then 16 else 23
abbrev Stop.l3 : Nat := 17
abbrev Stop.collie : Nat := 18
abbrev Stop.barge : Nat := 19
abbrev Stop.weir : Nat := 20
abbrev Stop.grid : Nat := 21
abbrev Stop.plan : Nat := 22
/-- The stop of towline `l`. -/
def Stop.towline (l : Nat) : Nat := 32 + l
abbrev Stop.ftl : Nat := 35
abbrev Stop.csi : Nat := 36
/-- ETH, CAN, TIME. -/
abbrev Stop.ports : Nat := 37
/-- SYS, PWR, THERM, SDIO, SEC, FAULT. -/
abbrev Stop.system : Nat := 38
abbrev Stop.reflex : Nat := 39

/-- The block IDs of the units that attach at a stop (Table 1.6): PSC_p with its channels, the engines at two stops each, the
stewards in two groups. -/
def Stop.blocks (n : Nat) : List Nat :=
  if n < 8 then Block.psc :: (List.range 12).map fun i => Block.channel (12 * n + i)
  else if n < 16 then [Block.eng ((n - 8) / 2)]
  else if 24 ≤ n ∧ n < 32 then [Block.eng (4 + (n - 24) / 2)]
  else match n with
    | 16 => (List.range 4).map Block.steward
    | 17 => [Block.l3]
    | 18 => [Block.col, Block.lock]
    | 19 => [Block.barge, Block.xlat]
    | 20 => [Block.weir]
    | 21 => [Block.grid]
    | 22 => [Block.plan]
    | 23 => (List.range 4).map fun i => Block.steward (4 + i)
    | 32 | 33 | 34 => [Block.tow, Block.towline (n - 32)]
    | 35 => Block.ftl :: (List.range 4).map Block.nand
    | 36 => [Block.csi]
    | 37 => [Block.eth, Block.can, Block.time]
    | 38 => [Block.sys, Block.pwr, Block.therm, Block.sdio, Block.sec, Block.faultLog]
    | 39 => [Block.refx]
    | _ => []

/-- The stops a unit attaches at. -/
def Stop.ofBlock (b : Nat) : List Nat := (List.range 40).filter fun n => (Stop.blocks n).contains b

/-- The stop that memory at `pa` is reached through. -/
def State.stopOf (s : State) (pa : Nat) : Nat :=
  match regionAt pa with
  | some .basin => Stop.cell (pa / 0x400_0000) (pa / 0x4_0000 % 256)
  | some .psram => Stop.psc (s.channelOf ((pa - psramBase) / 65536))
  | some .flash => Stop.ftl
  | some .weir => Stop.weir
  | some .slice => Stop.reflex
  | _ => Stop.system

/-! ## Links and routes (R20, R21, R24) -/

/-- Two stops are neighbours in the grid of 5 rows and 8 columns. -/
def neighbours (a b : Nat) : Bool :=
  (a / 8 = b / 8 && (a + 1 = b || b + 1 = a)) || (a % 8 = b % 8 && (a + 8 = b || b + 8 = a))

/-- The link between two neighbours, in either direction. -/
def linkKey (a b : Nat) : Nat := min a b * 40 + max a b

/-- The links that the stops from `a` to `b` in steps of `d` cross, from the lower stop up. -/
def straight (a b d : Nat) : List Nat :=
  (List.range ((max a b - min a b) / d)).map fun i => linkKey (min a b + i * d) (min a b + (i + 1) * d)

/-- Links of the VC1 route: along the row, then along the column (R21). -/
def route1 (a b : Nat) : List Nat :=
  let m := a / 8 * 8 + b % 8
  straight a m 1 ++ straight m b 8

/-- Links of the VC2 route: along the column, then along the row. -/
def route2 (a b : Nat) : List Nat :=
  let m := b / 8 * 8 + a % 8
  straight a m 8 ++ straight m b 1

/-- Whether retiring `link` leaves a pair of stops without a route, with `before` already retired (R25). Stops in one row
or column have one route on both channels: the first retirement on it leaves their traffic on it (log entry 201). -/
def cutsRoute (link : Nat) (before : List Nat) : Bool :=
  (List.range 40).any fun a => (List.range 40).any fun b =>
    let r1 := route1 a b
    let r2 := route2 a b
    (r1.contains link && r2.any before.contains) || (r2.contains link && r1.any before.contains)

/-- The links that are retired. -/
def State.retiredLinks (s : State) : List Nat := (s.links.filter fun x => x.2.retired).map (·.1)

/-- The virtual channel of data from stop `a` to stop `b`: VC1, or VC2 for a pair whose VC1 route crosses a retired link
(R24). -/
def State.channelBetween (s : State) (a b : Nat) : Nat := if (route1 a b).any s.retiredLinks.contains then 2 else 1

end Sys2Proof.Machine
end

