-- ==== Sys2Proof/Machine/Xlat.lean ====
section
/-!
DEFINITION. Sys2Proof/Machine/Xlat.lean: translation (R210 to R216), generation tags (R234, R235), invalidation, the
pin map, and virtual reads and writes. KV views are translated through the kernel's snapshot (R139).
-/
namespace Sys2Proof.Machine

/-- The outcome of an access (Table 9.3). A failure carries its code, and the address its record names: physical for
an error read on the way, else the virtual address. -/
inductive Xl where
  | ok (pa : Nat)
  /-- A read of an empty or evicted block of a view: zeros (R139). -/
  | zeros
  | park
  | fail (code block atype addr syn : Nat)
  deriving DecidableEq, Repr

/-- Who accesses: context, initiator stop, attempt slot if it holds one (R233), and whether its writes open LIVE
tiles, as those of a split attempt do (R234). -/
structure Via where
  ctx : Nat
  stop : Nat
  slot : Option Nat := none
  split : Bool := false
  /-- Views of the kernel that accesses. -/
  views : List ViewSnap := []
  deriving DecidableEq, Repr

/-- FAULT_XLAT at a virtual address. -/
def Xl.xlat (va : Nat) : Xl := .fail Code.faultXlat Block.xlat 1 va 0

/-! ## Walks -/

/-- Reads a page-table entry: none outside Basin and the backed PSRAM tier (R212). -/
def readEntry (pa : Nat) : Act (Option Nat × EccHit) := do
  let s ← Act.get
  let inTier := regionAt pa = some .basin || (regionAt pa = some .psram && s.backed pa)
  if !inTier then return (none, none)
  else
    let (bs, hit) ← readTier pa 8
    return (some (natOf bs), hit)

/-- TILE_PA of an entry, as an address. -/
def tilePa (e : Nat) : Nat := e / 65536 % 2 ^ 32 * 65536

/-- A table entry's other bits must be zero; VALID must be set (R211, R212). -/
def tableEntryOk (e : Nat) : Bool := e % 2 = 1 && e - e % 65536 = tilePa e && e % 65536 = 1

/-- A leaf's reserved bits must be zero, and VALID set (Table 9.2). -/
def leafOk (e : Nat) : Bool := e % 2 = 1 && e / 2 ^ 48 = 0 && e / 256 % 256 = 0

/-- What a walk finds: a leaf with the address of its entry, or a failure. -/
inductive Walk where
  | leaf (e pa : Nat)
  | fail (x : Xl)
  deriving DecidableEq, Repr

/-- A step of the walk: the next table's address. -/
def walkTable (va pa : Nat) : Act (Nat ⊕ Xl) := do
  match ← readEntry pa with
  | (_, some (a, syn)) =>
    let s ← Act.get
    return .inr (.fail Code.faultEcc (s.eccBlock a) 0 pa syn)
  | (some e, none) => return if tableEntryOk e then .inl (tilePa e) else .inr (.xlat va)
  | (none, none) => return .inr (.xlat va)

/-- The level-2 table for `va`: from the walk cache, else through root and level 1 (R210, R213). -/
def level2Table (c va : Nat) : Act (Nat ⊕ Xl) := do
  let s ← Act.get
  match s.xlat.walk.find? fun w => w.1 = c && w.2.1 = va / 2 ^ 29 with
  | some w => return .inl w.2.2
  | none =>
    match ← walkTable va ((s.ctx c).desc.ptRoot + va / 2 ^ 42 % 64 * 8) with
    | .inr x => return .inr x
    | .inl l1 =>
      match ← walkTable va (l1 + va / 2 ^ 29 % 8192 * 8) with
      | .inr x => return .inr x
      | .inl l2 =>
        let t ← Act.get
        Act.make (.xlat { t.xlat with walk := (t.xlat.walk ++ [(c, va / 2 ^ 29, l2)]).drop (t.xlat.walk.length - 4095) })
        return .inl l2

/-- A full walk to the leaf of `va` in context `c`. -/
def walkLeaf (c va : Nat) : Act Walk := do
  match ← level2Table c va with
  | .inr x => return .fail x
  | .inl l2 =>
    let pa := l2 + va / 2 ^ 16 % 8192 * 8
    match ← readEntry pa with
    | (_, some (a, syn)) =>
      let s ← Act.get
      return .fail (.fail Code.faultEcc (s.eccBlock a) 0 pa syn)
    | (none, none) => return .fail (.xlat va)
    | (some e, none) =>
      let s ← Act.get
      let w : BitVec 64 := BitVec.ofNat 64 e
      let pinned := flag w 2
      if !leafOk e || (pinned && flag w 5) || (pinned && !s.pinned (tilePa e)) then return .fail (.xlat va)
      else return .leaf e pa

/-- Stores a leaf with ACCESSED or DIRTY set, in one 8-byte write (R213). -/
def setLeafBit (pa bit : Nat) : Act Unit := do
  let s ← Act.get
  let e : BitVec 64 := BitVec.ofNat 64 (s.peekNat pa 8)
  if !flag e bit then writePhys pa (bytesOf 8 (e ||| (1 <<< bit)).toNat)

/-- Puts an entry into a stop's TLB, the oldest of 1,024 giving way. -/
def tlbPut (l : List TlbEntry) (e : TlbEntry) : List TlbEntry :=
  let others := l.filter fun x => !(x.stop = e.stop && x.ctx = e.ctx && x.page = e.page)
  let mine := others.filter (·.stop = e.stop)
  let kept := if 1024 ≤ mine.length then
    match mine with
    | old :: _ => others.filter (· ≠ old)
    | [] => others
    else others
  kept ++ [e]

/-- The leaf for `va`, from the stop's TLB or by a walk that fills it (R213). -/
def leafFor (v : Via) (va : Nat) : Act Walk := do
  let s ← Act.get
  match s.xlat.tlb.find? fun e => e.stop = v.stop && e.ctx = v.ctx && e.page = va / 65536 with
  | some e => return .leaf e.leaf.toNat e.entry
  | none =>
    match ← walkLeaf v.ctx va with
    | .fail x => return .fail x
    | .leaf e pa =>
      setLeafBit pa 6
      let t ← Act.get
      let x : TlbEntry := { stop := v.stop, ctx := v.ctx, page := va / 65536, leaf := BitVec.ofNat 64 e, entry := pa }
      Act.make (.xlat { t.xlat with tlb := tlbPut t.xlat.tlb x })
      return .leaf e pa

/-- The first write after a TLB fill sets DIRTY. -/
def markDirty (v : Via) (va pa : Nat) : Act Unit := do
  let s ← Act.get
  match s.xlat.tlb.find? fun e => e.stop = v.stop && e.ctx = v.ctx && e.page = va / 65536 with
  | some e =>
    if !e.dirtied then
      setLeafBit pa 7
      let t ← Act.get
      Act.make (.xlat { t.xlat with tlb := t.xlat.tlb.map fun x => if x = e then { x with dirtied := true } else x })
  | none => nothing

/-! ## Tags -/

/-- Enters an opened tile in the tile list of kernel attempt 512 + c, or among a barge's tiles. Answers whether there
was room: a kernel has 4,096 entries (R235). -/
def noteOpened (slot pa : Nat) : Act Bool := do
  let s ← Act.get
  if slot < 512 then
    match s.flying.find slot with
    | some b => Act.make (.fly slot { b with opened := b.opened ++ [pa] })
    | none => nothing
    return true
  else
    let c := slot - 512
    match (s.ctx c).kern with
    | some k =>
      if 4096 ≤ k.opened.length then return false
      else
        let base := (s.rg .xlatSplitLo).toNat + (s.rg .xlatSplitHi).toNat * 2 ^ 32
        let v := match tileNumber pa with
          | some n => 2 ^ 31 + n
          | none => 2 ^ 31 + 2 ^ 30 + flashTile pa
        writePhys (base + c * 0x4000 + k.opened.length * 4) (bytesOf 4 v)
        Act.modCtx c fun x => { x with kern := some { k with opened := k.opened ++ [pa] } }
        return true
    | none => return true

/-- The tag of the tile at `pa` meets a write of `v`: whether the write goes on (R234). -/
inductive TagOut where
  | go | park | fail (code : Nat)
  deriving DecidableEq, Repr

/-- A tile's tag against an access (Table 9.3), without its effects. -/
def State.tagOutcome (s : State) (v : Via) (pa : Nat) (write : Bool) : TagOut :=
  let (st, sl) := s.tagAt pa
  if st = Tag.opened ∧ v.slot ≠ some sl then (if write then .fail Code.faultXlat else .park)
  else if st = Tag.dead ∧ (!write || v.slot.isNone) then .fail Code.splitFailed
  else .go

/-- The effect of a write that goes on: a DEAD tile, or for a split attempt a LIVE one, opens under the attempt's
slot (R234). Slice SRAM has no tags. Answers false when the attempt's tile list is full. -/
def openForWrite (v : Via) (pa : Nat) (listed : Bool) : Act Bool := do
  let s ← Act.get
  match v.slot with
  | none => return true
  | some sl =>
    let (st, _) := s.tagAt pa
    let tagged : Bool := (tileNumber pa).isSome || regionAt pa = some .flash
    if tagged && (st = Tag.dead || (st = Tag.live && v.split)) then
      let room ← if listed then noteOpened sl (pa / 65536 * 65536) else pure true
      if room then setTag pa Tag.opened sl
      return room
    else return true

/-! ## Accesses -/

/-- A view address (R139): another virtual address, zeros, or a fault. -/
def State.viewAddress (s : State) (w : ViewSnap) (a : Nat) (write : Bool) : Nat ⊕ Xl :=
  let o := a - w.va
  let b := o / (w.tpf * 65536)
  let t := o / 65536 % w.tpf
  let e : BitVec 64 := BitVec.ofNat 64 (s.peekNat (w.area + b * 8) 8)
  if !flag e 20 || flag e 23 then (if write then .inr (.xlat a) else .inr .zeros)
  else if write && !flag e 21 then .inr (.xlat a)
  else .inl (w.kvVa + (field e 19 0 * w.tpf + t) * 65536 + o % 65536)

/-- The view that holds an address. -/
def Via.viewOf (v : Via) (a : Nat) : Option ViewSnap :=
  v.views.find? fun w => w.va ≤ a && a < w.va + w.blocks * w.tpf * 65536

/-- A parked access is counted (Table 9.6). -/
def countPark : Act Unit := Act.countSat .xlatStat 0 15 0

/-- Where a translated access stands against its leaf, its tier and its tag (Table 9.3). Outcomes that name a code
come before those that park (R216); an access to a pinned page never parks (R221; log entry 204). -/
def State.leafOutcome (s : State) (v : Via) (va leaf : Nat) (write : Bool) : Xl :=
  let l : BitVec 64 := BitVec.ofNat 64 leaf
  let pa := tilePa leaf + va % 65536
  let r := regionAt pa
  if r.isNone || r = some .control || (r = some .psram && !s.backed pa) then .xlat va
  else if write && !flag l 1 then .xlat va
  else if write && r = some .weir then .xlat va
  else if s.gone pa then .fail Code.faultEcc (s.eccBlock pa) 0 pa 0
  else match s.tagOutcome v pa write with
    | .fail code => .fail code Block.xlat 1 va 0
    | t =>
      if flag l 2 then .ok pa
      else if write && flag l 4 then .park
      else if flag l 5 && r = some .flash then .park
      else if r = some .flash && !flag (s.rg .ftlStatus) 0 then .park
      else if t = .park then .park
      else .ok pa

/-- A page of a pull is posted to Rhoson (R219). -/
def postPull (c va leaf : Nat) : Act Unit := do
  let s ← Act.get
  let l : BitVec 64 := BitVec.ofNat 64 leaf
  if flag l 5 && regionAt (tilePa leaf) = some .flash && !s.xlat.pulls.contains (c, va / 65536) then
    Act.make (.xlat { s.xlat with pulls := s.xlat.pulls ++ [(c, va / 65536)] })

/-- Translates one access within a tile and makes its effects on ACCESSED, DIRTY, tags and tile lists. `quiet` is set
where an access that parked is tried again. -/
def translateFlat (v : Via) (va : Nat) (write : Bool) : Act Xl := do
  if 2 ^ 48 ≤ va then return .xlat va
  match ← leafFor v va with
  | .fail x => return x
  | .leaf e pa =>
    let s ← Act.get
    match s.leafOutcome v va e write with
    | .park =>
      postPull v.ctx va e
      countPark
      return .park
    | .fail code b t a syn =>
      if code = Code.splitFailed && !write then Act.countSat .xlatStat 0 23 16
      return .fail code b t a syn
    | .ok p =>
      if write then
        if !(← openForWrite v p true) then return .xlat va
        markDirty v va pa
      return .ok p
    | .zeros => return .zeros

/-- Translates one access, through the kernel's views where it lies in one. -/
def translate (v : Via) (va : Nat) (write : Bool) : Act Xl := do
  match v.viewOf va with
  | none => translateFlat v va write
  | some w =>
    let s ← Act.get
    match s.viewAddress w va write with
    | .inr x => return x
    | .inl a => translateFlat v a write

/-- What a virtual read gives. -/
inductive Got where
  | bytes (b : List Byte)
  | park
  | fail (code block atype addr syn : Nat)
  deriving DecidableEq, Repr

/-- The virtual address that an access reaches once the kernel's views are taken out (R139); none for one that reads zeros
or fails there. -/
def State.flatVa (s : State) (v : Via) (va : Nat) (write : Bool) : Option Nat :=
  match v.viewOf va with
  | none => some va
  | some w => match s.viewAddress w va write with
    | .inl a => some a
    | .inr _ => none

/-- The physical address an access reaches, without its effects on TLB, tags and counts; none where the walk fails. -/
def reachesPa (v : Via) (va : Nat) (write : Bool) : Act (Option Nat) := do
  let s ← Act.get
  match s.flatVa v va write with
  | none => return none
  | some a =>
    if 2 ^ 48 ≤ a then return none
    else match ← walkLeaf v.ctx a with
      | .fail _ => return none
      | .leaf e _ => return some (tilePa e + a % 65536)

/-- Whether an access parks as things stand, without its effects. -/
def wouldPark (v : Via) (va : Nat) (write : Bool) : Act Bool := do
  let s ← Act.get
  match s.flatVa v va write with
  | none => return false
  | some a =>
    if 2 ^ 48 ≤ a then return false
    else match ← walkLeaf v.ctx a with
      | .fail _ => return false
      | .leaf e _ =>
        let t ← Act.get
        return decide (t.leafOutcome v a e write = .park)

/-- Whether one of the accesses of a range would park, or wait for a PSRAM channel that is retraining (R216, R240). -/
def rangeWaits (v : Via) (va n : Nat) (write : Bool) : Act Bool := do
  let s ← Act.get
  let mut out := false
  for i in List.range ((va % 65536 + n + 65535) / 65536) do
    let a := max va ((va / 65536 + i) * 65536)
    if !out then
      out := (← wouldPark v a write) || (← reachesPa v a write).any s.retraining
  return out

/-- Reads `n` bytes at `va` that lie in one tile. -/
def readVaPage (v : Via) (va n : Nat) : Act Got := do
  match ← translate v va false with
  | .park => return .park
  | .zeros => return .bytes (List.replicate n 0)
  | .fail c b t a syn => return .fail c b t a syn
  | .ok pa =>
    let (bs, hit) ← readTier pa n
    match hit with
    | some (a, syn) =>
      let s ← Act.get
      return .fail Code.faultEcc (s.eccBlock a) 0 a syn
    | none => return .bytes bs

/-- Reads `n` bytes at `va`, tile by tile; `fuel` bounds the tiles. -/
def readVaFuel (v : Via) : Nat → Nat → Nat → Act Got
  | 0, _, _ => pure (.bytes [])
  | fuel + 1, va, n => do
    let m := min n (65536 - va % 65536)
    match ← readVaPage v va m with
    | .bytes b =>
      if m = n then return .bytes b
      else
        match ← readVaFuel v fuel (va + m) (n - m) with
        | .bytes b' => return .bytes (b ++ b')
        | g => return g
    | g => return g

/-- Reads `n` bytes at `va`. -/
def readVa (v : Via) (va n : Nat) : Act Got := readVaFuel v (n / 65536 + 2) va n

/-- Writes bytes at `va` that lie in one tile: OK, none where the write parks, or a failure. -/
def writeVaPage (v : Via) (va : Nat) (bytes : List Byte) : Act Got := do
  match ← translate v va true with
  | .park => return .park
  | .zeros => return .fail Code.faultXlat Block.xlat 1 va 0
  | .fail c b t a syn => return .fail c b t a syn
  | .ok pa =>
    let code ← writeTier pa bytes
    return if code = Code.ok then .bytes [] else .fail code Block.ftl 0 pa 0

/-- Writes bytes at `va`, tile by tile. -/
def writeVaFuel (v : Via) : Nat → Nat → List Byte → Act Got
  | 0, _, _ => pure (.bytes [])
  | fuel + 1, va, bs => do
    let m := min bs.length (65536 - va % 65536)
    match ← writeVaPage v va (bs.take m) with
    | .bytes _ => if m = bs.length then return .bytes [] else writeVaFuel v fuel (va + m) (bs.drop m)
    | g => return g

def writeVa (v : Via) (va : Nat) (bs : List Byte) : Act Got := writeVaFuel v (bs.length / 65536 + 2) va bs

/-! Accesses of the blocks that run a request as one step: a park is over when the access is made (log entry 13). -/

/-- Translates an access, past any park. -/
def translateNow (v : Via) (va : Nat) (write : Bool) : Act Xl := do
  match ← translate v va write with
  | .park =>
    match ← leafFor v va with
    | .leaf e _ => return .ok (tilePa e + va % 65536)
    | .fail x => return x
  | x => return x

/-- Reads `n` bytes at `va`, past any park: the bytes, or code, block, address type, address and syndrome. -/
def readNow (v : Via) : Nat → Nat → Nat → Act (List Byte ⊕ Nat × Nat × Nat × Nat × Nat)
  | 0, _, _ => pure (.inl [])
  | fuel + 1, va, n => do
    let m := min n (65536 - va % 65536)
    match ← translateNow v va false with
    | .fail c b t a syn => return .inr (c, b, t, a, syn)
    | .ok pa =>
      match ← readTier pa m with
      | (_, some (a, syn)) =>
        let s ← Act.get
        return .inr (Code.faultEcc, s.eccBlock a, 0, a, syn)
      | (bs, none) =>
        if m = n then return .inl bs
        else
          match ← readNow v fuel (va + m) (n - m) with
          | .inl rest => return .inl (bs ++ rest)
          | x => return x
    | _ => return .inr (Code.faultXlat, Block.xlat, 1, va, 0)

/-- Reads `n` bytes at `va`, past any park. -/
def readVaNow (v : Via) (va n : Nat) : Act (List Byte ⊕ Nat × Nat × Nat × Nat × Nat) := readNow v (n / 65536 + 2) va n

/-- Writes bytes at `va`, past any park; answers a failure if there is one. -/
def writeNow (v : Via) : Nat → Nat → List Byte → Act (Option (Nat × Nat × Nat × Nat × Nat))
  | 0, _, _ => pure none
  | fuel + 1, va, bs => do
    let m := min bs.length (65536 - va % 65536)
    match ← translateNow v va true with
    | .fail c b t a syn => return some (c, b, t, a, syn)
    | .ok pa =>
      let code ← writeTier pa (bs.take m)
      if code ≠ Code.ok then return some (code, Block.ftl, 0, pa, 0)
      else if m = bs.length then return none
      else writeNow v fuel (va + m) (bs.drop m)
    | _ => return some (Code.faultXlat, Block.xlat, 1, va, 0)

def writeVaNow (v : Via) (va : Nat) (bs : List Byte) : Act (Option (Nat × Nat × Nat × Nat × Nat)) :=
  writeNow v (bs.length / 65536 + 2) va bs

/-- The tile of a pinned page at `va`: how CREATE and a snapshot resolve one (R169, R220, R221). -/
def pinnedTile (c va : Nat) : Act (Option Nat) := do
  match ← walkLeaf c va with
  | .fail _ => return none
  | .leaf e _ =>
    let s ← Act.get
    let l : BitVec 64 := BitVec.ofNat 64 e
    return if flag l 2 && s.pinned (tilePa e) then some (tilePa e) else none

/-- The pinned tiles that hold `n` bytes from `va` on; none if one is not pinned. -/
def pinnedTiles (c va n : Nat) : Act (Option (List Nat)) := do
  let first := va / 65536
  let mut out : Option (List Nat) := some []
  for i in List.range ((va + n - 1) / 65536 + 1 - first) do
    match out, ← pinnedTile c ((first + i) * 65536) with
    | some l, some t => out := some (l ++ [t])
    | _, _ => out := none
  return out

/-! ## Attempts close (R235, R236) -/

/-- Every tile that is OPEN under the slot, of those listed and of every Basin tile of the attempt (R215). -/
def State.openTiles (s : State) (slot : Nat) (listed : List Nat) : List Nat :=
  let own := (s.xlat.tags.filter fun e => field e.2 15 14 = Tag.opened && field e.2 10 0 = slot).map fun e => tileBase e.1
  own ++ listed.filter fun pa => regionAt pa = some .flash && s.tagAt pa = (Tag.opened, slot)

/-- A closing attempt sets its tiles LIVE or DEAD. -/
def closeTiles (slot : Nat) (listed : List Nat) (success : Bool) : Act Unit := do
  let s ← Act.get
  for pa in s.openTiles slot listed do
    setTag pa (if success then Tag.live else Tag.dead) 0

/-- A kernel attempt closes: its tiles, then VALID clears in its tile list. -/
def closeKernelTiles (c : Nat) (success : Bool) : Act Unit := do
  let s ← Act.get
  match (s.ctx c).kern with
  | none => nothing
  | some k =>
    closeTiles (512 + c) k.opened success
    let base := (s.rg .xlatSplitLo).toNat + (s.rg .xlatSplitHi).toNat * 2 ^ 32 + c * 0x4000
    for i in List.range k.opened.length do
      let e := (← Act.get).peekNat (base + i * 4) 4
      writePhys (base + i * 4) (bytesOf 4 (e % 2 ^ 31))
    Act.modCtx c fun x => { x with kern := x.kern.map fun k => { k with opened := [] } }

/-! ## Invalidation (R214) -/

/-- Whether an invalidation names a cached entry. -/
def invNames (ctx : Option Nat) (pages : Option (Nat × Nat)) (c page : Nat) : Bool :=
  (match ctx with | none => true | some x => x = c) &&
  (match pages with | none => true | some (f, n) => f ≤ page && page < f + n)

/-- Every TLB and the walk cache drop the named entries. -/
def dropEntries (ctx : Option Nat) (pages : Option (Nat × Nat)) : Act Unit := do
  let s ← Act.get
  Act.make (.xlat { s.xlat with
    tlb := s.xlat.tlb.filter fun e => !invNames ctx pages e.ctx e.page
    walk := s.xlat.walk.filter fun w => !((match ctx with | none => true | some x => x = w.1) &&
      (match pages with | none => true | some (f, n) => f / 8192 ≤ w.2.1 && w.2.1 ≤ (f + n - 1) / 8192)) })

/-- A write of XLAT_s_INV starts an invalidation (Table 9.6); BUSY reads 1 until it completes. -/
def startInv (who : Who) (value : Word) : Act Nat := do
  let s ← Act.get
  let ctx := if flag value 11 then none else some (field value 9 0)
  let pages := if flag value 10 || flag value 11 then none
    else some ((s.rg .xlatInvVa who.val).toNat, field value 31 16 + 1)
  Act.make (.xlat { s.xlat with invs := s.xlat.invs ++ [(who, ctx, pages)] })
  return Code.ok

/-- INV (R214). -/
def execXlatInv (who : Who) (firstPage : Word) (value : Word) (s : State) : Host.Outcome State Fault Refusal :=
  Act.outcome (command who .xlatInv who.val (do
    Act.reg .xlatInvVa who.val firstPage
    startInv who value)) s

/-- INVALIDATION_COMPLETE: the initiator's invalidations in progress complete, and BUSY clears (R214). -/
def execInvalidationComplete (who : Who) (s : State) : Host.Outcome State Fault Refusal :=
  Act.outcome (do
    let t ← Act.get
    for i in t.xlat.invs.filter (·.1 = who) do dropEntries i.2.1 i.2.2
    let u ← Act.get
    Act.make (.xlat { u.xlat with invs := u.xlat.invs.filter (·.1 ≠ who) })) s

/-! ## The pin map (R220, R222) -/

/-- Whether a physical region covers the tile. -/
def covers (pa n tile : Nat) : Bool := n ≠ 0 && pa / 65536 * 65536 ≤ tile && tile < pa + n

/-- The context has page tables: CREATE took its descriptor, whose root may be 0, or it names a root. -/
def Context.mapped (x : Context) : Bool := !x.ringTiles.isEmpty || x.desc.ptRoot ≠ 0

/-- A tile named in a live context's descriptor: kennel, completion and submission rings, view table, page-table root
(R222). Rhoson's context 1,023 is not made by CREATE and names none until it is (log entry 12). -/
def State.descriptorNames (s : State) (tile : Nat) : Bool :=
  s.ctxs.any fun e => e.2.st ≠ .free && e.2.mapped && (
    covers e.2.desc.kennel ((97 * e.2.desc.kspan + 1) * 65536) tile ||
    (e.2.ringTiles ++ e.2.subqTiles ++ e.2.viewTiles).contains tile || covers e.2.desc.ptRoot 512 tile)

/-- Sets or clears the pin bits of the range in XLAT_PIN_TILE. A clear of a tile in use is discarded and counted. -/
def pinRange (op : Nat) : Act Unit := do
  let s ← Act.get
  let first := s.rf .xlatPinTile 0 18 0
  for i in List.range (s.rf .xlatPinTile 0 31 19 + 1) do
    let n := first + i
    let t ← Act.get
    if n < 401408 then
      if op = 1 then Act.make (.xlat { t.xlat with pins := t.xlat.pins.put n true })
      else if t.descriptorNames (tileBase n) then Act.countSat .xlatStat 0 31 24
      else Act.make (.xlat { t.xlat with pins := t.xlat.pins.put n false })

/-- PIN_SET (R220). -/
def execPinSet (who : Who) (range : Word) (s : State) : Host.Outcome State Fault Refusal :=
  Act.outcome (command who .xlatPinOp 0 (do
    Act.reg .xlatPinTile 0 range
    pinRange 1
    return Code.ok)) s

/-- PIN_CLEAR (R222). -/
def execPinClear (who : Who) (range : Word) (s : State) : Host.Outcome State Fault Refusal :=
  Act.outcome (command who .xlatPinOp 0 (do
    Act.reg .xlatPinTile 0 range
    pinRange 2
    return Code.ok)) s

/-- A write of XLAT_PIN_OP. -/
def pinCommand (value : Word) : Act Nat := do
  let op := field value 1 0
  if op = 1 || op = 2 then pinRange op
  return Code.ok

/-- What XLAT_TAG and INV_STATUS read (Table 9.6). -/
def State.xlatReads (s : State) (r : Reg) (i : Nat) : Option Word :=
  match r with
  | .xlatTag =>
    let n := s.rf .xlatTagSel 0 18 0
    let t := s.xlat.tags.at n 0
    some (Word.ofNat (pack [(field t 10 0, 0), (field t 15 14, 14), (b2n (s.xlat.pins.at n false), 16)]))
  | .xlatInvStatus => some (Word.ofNat (b2n (s.xlat.invs.any fun e => e.1.val = i)))
  | _ => none

/-! ## Released pages (R223) -/

/-- The entries of a table that are not zero: index and value. -/
def State.tableEntries (s : State) (base count : Nat) : List (Nat × Nat) :=
  let idx := (s.mem.filter fun c => base ≤ c.1 && c.1 < base + count * 8).map fun c => (c.1 - base) / 8
  idx.dedup.map fun i => (i, s.peekNat (base + i * 8) 8)

/-- The leaf entries of a context: virtual page, entry address and entry. -/
def State.leaves (s : State) (root : Nat) : List (Nat × Nat × Nat) :=
  (s.tableEntries root 64).flatMap fun r =>
    if !tableEntryOk r.2 then []
    else (s.tableEntries (tilePa r.2) 8192).flatMap fun l =>
      if !tableEntryOk l.2 then []
      else (s.tableEntries (tilePa l.2) 8192).map fun e =>
        ((r.1 * 8192 + l.1) * 8192 + e.1, tilePa l.2 + e.1 * 8, e.2)

/-- Physical tiles that a page of some context maps. -/
def State.mappedTiles (s : State) : List Nat :=
  ((s.ctxs.filter fun x => x.2.st ≠ .free && x.2.mapped).flatMap fun x =>
    (s.leaves x.2.desc.ptRoot).filterMap fun l => if leafOk l.2.2 then some (tilePa l.2.2) else none).dedup

/-- A free tile of the PSRAM tier: backed, in service, not pinned and mapped by no page. Which one Rhoson takes is its
own affair. -/
def freePsramTile (s : State) (draw : Nat) : Option Nat :=
  let n := s.backedTiles
  let mapped := s.mappedTiles
  let at' (i : Nat) : Nat := psramBase + (i + (Config.freeWord draw).toNat) % n * 65536
  ((List.range n).find? fun i => !s.pinned (at' i) && !s.lostTile (at' i) && !s.xlat.retired.contains (at' i) &&
    !mapped.contains (at' i)).map at'

/-- Teardown releases a context's pages: TLB entries go and VALID clears in each leaf of a released tile, which leaves
the tile free; pinned, read-only and retained pages stay (R223). -/
def releasePages (c : Nat) : Act Unit := do
  let s ← Act.get
  dropEntries (some c) none
  for (_, pa, e) in s.leaves (s.ctx c).desc.ptRoot do
    let l : BitVec 64 := BitVec.ofNat 64 e
    if leafOk e && flag l 1 && !flag l 2 && !flag l 3 then
      writePhys pa (bytesOf 8 (e - 1))

end Sys2Proof.Machine
end

