-- ==== Sys2Proof/Machine/BargeOps.lean ====
section
/-!
DEFINITION. Sys2Proof/Machine/BargeOps.lean: barge descriptors (R227 to R229), their tiles, and how an attempt closes
or is cancelled (R233 to R236).
-/
namespace Sys2Proof.Machine

/-- A barge descriptor (Table 9.5). -/
def BDesc.ofBytes (b : List Byte) : BDesc :=
  let w (o : Nat) : Word := Word.ofNat (natAt b o 4)
  let c := w 0x10
  { src := natAt b 0 6, skind := natAt b 6 1 % 4, dst := natAt b 8 6, dkind := natAt b 14 1 % 4,
    tiles := field c 15 0 + 1, fmtIn := field c 19 16, fmtOut := field c 23 20, rnd := field c 25 24,
    sat := flag c 26, conv := flag c 27, regroup := field c 29 28, dir := flag c 30, krec := flag c 31,
    regW := natAt b 0x14 2, regH := natAt b 0x16 2, regCe := natAt b 0x18 1 % 128, tag := w 0x1C,
    waitLock := field (w 0x20) 12 0, waitEn := flag (w 0x20) 15, addLock := field (w 0x20) 28 16,
    addEn := flag (w 0x20) 31, waitT := w 0x24, addV := w 0x28, tmo := (w 0x2C).toNat,
    reservedSet := natAt b 6 2 / 4 ≠ 0 || natAt b 14 2 / 4 ≠ 0 || natAt b 0x18 4 / 128 ≠ 0 ||
      field (w 0x20) 14 13 ≠ 0 || field (w 0x20) 30 29 ≠ 0 || natAt b 0x30 16 ≠ 0 }

/-- The regroup factor. -/
def BDesc.factor (d : BDesc) : Nat := 2 ^ d.regroup

/-- Elements of a conversion: TILES counts the tiles of the source's element plane (R229). -/
def BDesc.elements (d : BDesc) : Nat := d.tiles * 65536 * 8 / Fmt.bits d.fmtIn

/-- Bytes of the element plane of `n` elements, and of their scale plane. -/
def planeBytes (fmt n : Nat) : Nat × Nat := (n * Fmt.bits fmt / 8, if Fmt.isMx fmt then n / 32 else 0)

/-- Bytes of one pixel of the regrouped map: PPITCH lines (R124). -/
def BDesc.regroupPitch (d : BDesc) : Nat := (d.factor * d.factor * d.regCe + 63) / 64 * 64

/-- Bytes of the map of packed pixels, and of the regrouped map. The inverse takes the second to the first under the same
fields (log entry 205). -/
def BDesc.packedBytes (d : BDesc) : Nat := d.regW * d.regH * d.regCe
def BDesc.groupedBytes (d : BDesc) : Nat := d.regW / d.factor * (d.regH / d.factor) * d.regroupPitch

/-- Bytes a regroup writes, and bytes of its source (R124, R229). -/
def BDesc.regroupOut (d : BDesc) : Nat := if d.dir then d.packedBytes else d.groupedBytes
def BDesc.regroupIn (d : BDesc) : Nat := if d.dir then d.groupedBytes else d.packedBytes

/-- Where in the packed map the byte at `o` of the regrouped map belongs: none for the bytes after a pixel's last
channel. -/
def BDesc.packedOf (d : BDesc) (o : Nat) : Option Nat :=
  let b := d.factor
  let p := o / d.regroupPitch
  let q := o % d.regroupPitch
  let t := q / d.regCe
  let x := b * (p % (d.regW / b)) + t % b
  let y := b * (p / (d.regW / b)) + t / b
  if b * b * d.regCe ≤ q then none else some ((y * d.regW + x) * d.regCe + q % d.regCe)

/-- Where in the regrouped map the byte at `o` of the packed map is. -/
def BDesc.groupedOf (d : BDesc) (o : Nat) : Nat :=
  let b := d.factor
  let p := o / d.regCe
  let x := p % d.regW
  let y := p / d.regW
  (y / b * (d.regW / b) + x / b) * d.regroupPitch + (y % b * b + x % b) * d.regCe + o % d.regCe

/-- The byte of the source that a regroup writes at `o`; none for a byte it leaves zero. -/
def BDesc.regroupFrom (d : BDesc) (o : Nat) : Option Nat :=
  if d.regroupOut ≤ o then none else if d.dir then some (d.groupedOf o) else d.packedOf o

/-- Destination tiles. A conversion's count governs a barge that also regroups. -/
def BDesc.dstTiles (d : BDesc) : Nat :=
  if d.conv then
    let p := planeBytes d.fmtOut d.elements
    (p.1 + p.2) / 65536
  else if d.regroup ≠ 0 then (d.regroupOut + 65535) / 65536
  else d.tiles

/-- Source tiles, a scale plane included. -/
def BDesc.srcTiles (d : BDesc) : Nat :=
  if d.conv && Fmt.isMx d.fmtIn then d.tiles + d.elements / 32 / 65536 else d.tiles

/-- A split request: two or more tiles, of the source or of the destination (R233). -/
def BDesc.split (d : BDesc) : Bool := 2 ≤ d.tiles || 2 ≤ d.dstTiles

/-- The elements that destination tile `i` of a conversion holds, in whole blocks, and whether the tile lies in the element
plane. -/
def BDesc.elementsOf (d : BDesc) (i : Nat) : Nat × Nat × Bool :=
  let w := Fmt.bits d.fmtOut
  let plane := (planeBytes d.fmtOut d.elements).1 / 65536
  if i < plane then (i * 524288 / w / 32 * 32, min d.elements (((i + 1) * 524288 + 32 * w - 1) / w / 32 * 32), true)
  else ((i - plane) * 65536 * 32, min d.elements ((i - plane + 1) * 65536 * 32), false)

/-- The spans of the source that destination tile `i` is made of: address and bytes. -/
def BDesc.sourceSpans (d : BDesc) (i : Nat) : List (Nat × Nat) :=
  if d.skind = 1 then []
  else if d.conv then
    let (lo, hi, _) := d.elementsOf i
    let w := Fmt.bits d.fmtIn
    (d.src + lo * w / 8, (hi - lo) * w / 8) ::
      (if Fmt.isMx d.fmtIn then [(d.src + d.tiles * 65536 + lo / 32, (hi - lo) / 32)] else [])
  else if d.regroup ≠ 0 then [(d.src, d.regroupIn)]
  else [(d.src + i * 65536, 65536)]

/-- The pages of those spans. -/
def BDesc.sourcePages (d : BDesc) (i : Nat) : List Nat :=
  (d.sourceSpans i).flatMap fun x =>
    if x.2 = 0 then [] else (List.range ((x.1 + x.2 - 1) / 65536 + 1 - x.1 / 65536)).map fun j => x.1 / 65536 + j

/-- The cells a DKIND 1 barge writes (R42). -/
def selectCells (dsel n : Nat) : List Nat :=
  match dsel with
  | 0 => [n % 256]
  | 1 => (List.range 16).map fun i => n % 16 * 16 + i
  | 2 => (List.range 16).map fun i => i * 16 + n % 16
  | _ => List.range 256

/-- Virtual address of destination tile `i` of a barge to a page: a DKIND 3 barge names its module in DST[1:0]. -/
def BDesc.dstVa (d : BDesc) (i : Nat) : Nat := d.dst / 65536 * 65536 + i * 65536

/-- The tile goes to another module (R401). -/
def State.remote (s : State) (d : BDesc) : Bool := d.dkind = 3 && d.dst % 4 ≠ s.casc.id

/-- The towline to module `m`, by the wiring of R391. -/
def State.towlineTo (s : State) (m : Nat) : Nat := (s.casc.id ^^^ m) - 1

/-- The towline to `m` is in use. -/
def State.direct (s : State) (m : Nat) : Bool := m ≠ s.casc.id && (s.casc.links.at (s.towlineTo m) {}).up

/-- Traffic to `m` is relayed: by a live module to which a towline is in use (R392). -/
def State.relayed (s : State) (m : Nat) : Bool :=
  m ≠ s.casc.id && !s.direct m && flag s.casc.live m && (List.range 4).any fun r => r ≠ m && s.direct r && flag s.casc.live r

/-- Basin tiles that tile `i` of a DKIND 1 barge goes to. -/
def Barge.basinTiles (b : Barge) (i : Nat) : List Nat :=
  let w : BitVec 16 := BitVec.ofNat 16 b.desc.dst
  match b.go with
  | none => []
  | some g =>
    match g.engines[field w 2 0]? with
    | none => []
    | some e => (selectCells (field w 4 3) (field w 12 5)).map fun c => cellBase e c + (field w 14 13 + i) * 65536

/-- How a barge's accesses translate: through the views of the kernel that issued it, until that completes (R139). -/
def Barge.via (b : Barge) (slot : Nat) : Via :=
  { ctx := b.ctx, stop := Stop.barge, slot := some slot, split := b.desc.split, views := if b.orphan then [] else b.views }

/-- Physical addresses of destination tile `i`; none where its page does not translate. -/
def bargeDst (slot : Nat) (b : Barge) (i : Nat) : Act (Option (List Nat)) := do
  let s ← Act.get
  if s.remote b.desc then return some []
  else if b.desc.dkind = 1 then return some (b.basinTiles i)
  else return (← reachesPa (b.via slot) (b.desc.dstVa i) true).map fun pa => [pa]

/-- Physical addresses of the pages that destination tile `i` is made of. -/
def bargeSrc (slot : Nat) (b : Barge) (i : Nat) : Act (List Nat) := do
  let mut out : List Nat := []
  for p in b.desc.sourcePages i do
    match ← reachesPa (b.via slot) (p * 65536) false with
    | some pa => out := out ++ [pa]
    | none => nothing
  return out

/-- A barge attempt closes: its destination range, or of a barge of one tile the tile it opened, is LIVE or DEAD
(R235, R236). -/
def closeBarge (slot : Nat) (b : Barge) (success : Bool) : Act Unit := do
  let s ← Act.get
  for pa in s.openTiles slot b.opened do setTag pa (if success then Tag.live else Tag.dead) 0
  if b.desc.split && !success then
    for i in List.range b.desc.dstTiles do
      match ← bargeDst slot b i with
      | some l =>
        for pa in l do
          let t ← Act.get
          if (t.tagAt pa).1 = Tag.live then setTag pa Tag.dead 0
      | none => nothing

/-- The waits of a barge leave the table. -/
def dropBargeWait (slot : Nat) : Act Unit := do
  let s ← Act.get
  Act.make (.waits (s.waits.filter fun w => w.waiter ≠ .barge slot))

/-- A context's barges are cancelled: those in flight close DEAD, no record is written (Table 9.4, R187). -/
def cancelBarges (c : Nat) : Act Unit := do
  let s ← Act.get
  for (slot, b) in s.flying.filter fun e => e.2.ctx = c do
    closeBarge slot b false
    dropBargeWait slot
    Act.make (.land slot)
  for (n, q) in s.chanQueues do
    if q.any (·.ctx = c) then Act.make (.channel n (q.filter (·.ctx ≠ c)))

end Sys2Proof.Machine
end

