-- ==== Sys2Proof/Machine/Kv.lean ====
section
/-!
DEFINITION. Sys2Proof/Machine/Kv.lean: KV pools and frames, snapshots and pins (R134 to R144), and the KV commands.
-/
namespace Sys2Proof.Machine

/-- A pool descriptor (Table 5.2), with the physical address it was read at. -/
structure Pool where
  pa : Nat
  kvVa : Nat
  ftVa : Nat
  ctx : Nat
  freeVa : Nat
  frames : Nat
  tpf : Nat
  head : Nat
  deriving DecidableEq, Repr

/-- Physical address of `n` bytes at `va` in pinned pages of context `c`; they lie in one tile. -/
def pinnedPa (c va : Nat) : Act (Option Nat) := do
  match ← pinnedTile c va with
  | some t => return some (t + va % 65536)
  | none => return none

/-- Physical address of pool slot `i`'s descriptor. XLAT_KV_PTAB is taken through the page tables of context 1,023,
and as a physical address in a pinned tile while that context has none (log entry 12). -/
def poolPa (i : Nat) : Act (Option Nat) := do
  let s ← Act.get
  let va := (s.rg .kvPtabLo).toNat + (s.rg .kvPtabHi).toNat * 2 ^ 32 + i * 32
  if (s.ctx 1023).mapped then pinnedPa 1023 va else return if s.pinned va then some va else none

/-- An enabled pool. -/
def poolAt (i : Nat) : Act (Option Pool) := do
  match ← poolPa i with
  | none => return none
  | some pa =>
    let s ← Act.get
    let b := s.peek pa 32
    if natAt b 7 1 / 128 = 0 then return none
    else return some {
      pa, kvVa := natAt b 0 6, ftVa := natAt b 8 6, ctx := natAt b 14 2 % 1024, freeVa := natAt b 16 6,
      frames := natAt b 24 4 % 2 ^ 20, tpf := natAt b 24 4 / 2 ^ 20 + 1, head := natAt b 28 4 }

/-- Physical address of a frame's record. -/
def framePa (p : Pool) (f : Nat) : Act (Option Nat) := pinnedPa p.ctx (p.ftVa + f * 8)

/-- A frame record (Table 5.3). -/
structure Frame where
  refs : Nat
  pins : Nat
  gen : Nat
  st : Nat
  wpins : Nat
  deriving DecidableEq, Repr

def Frame.ofNat (n : Nat) : Frame :=
  { refs := n % 2 ^ 16, pins := n / 2 ^ 16 % 2 ^ 16, gen := n / 2 ^ 32 % 2 ^ 16, st := n / 2 ^ 48 % 4, wpins := n / 2 ^ 50 % 2 ^ 14 }

def Frame.toNat (f : Frame) : Nat :=
  pack [(f.refs % 2 ^ 16, 0), (f.pins % 2 ^ 16, 16), (f.gen % 2 ^ 16, 32), (f.st, 48), (f.wpins % 2 ^ 14, 50)]

/-- Writes a frame's record, and releases the frame if it is held with no reference and no pin: it becomes free, GEN
rises, and it enters the free ring (R135, R142). -/
def putFrame (p : Pool) (pa n : Nat) (f : Frame) : Act Unit := do
  if f.st = 1 ∧ f.refs = 0 ∧ f.pins = 0 then
    writePhys pa (bytesOf 8 { f with st := 0, gen := (f.gen + 1) % 65536 }.toNat)
    let s ← Act.get
    let head := s.peekNat (p.pa + 28) 4
    match ← pinnedPa p.ctx (p.freeVa + head % p.frames * 4) with
    | some ra => writePhys ra (bytesOf 4 n)
    | none => nothing
    writePhys (p.pa + 28) (bytesOf 4 ((head + 1) % 2 ^ 32))
  else writePhys pa (bytesOf 8 f.toNat)

/-- What a command requires, and what it leaves (Table 5.6). -/
def Frame.command (op : Nat) (f : Frame) : Option Frame :=
  match op with
  | 1 => if f.st = 0 ∧ f.refs = 0 ∧ f.pins = 0 then some { f with st := 1, refs := 1 } else none
  | 2 => if f.st = 1 ∧ 1 ≤ f.refs ∧ f.refs < 65535 ∧ f.wpins = 0 then some { f with refs := f.refs + 1 } else none
  | 3 => if f.st = 1 ∧ 1 ≤ f.refs then some { f with refs := f.refs - 1 } else none
  | 4 => some f
  | _ => none

/-- The code and counts of a KV command. -/
def kvResult (who : Who) (code frame refs pins : Nat) : Act Unit := do
  Act.reg .kvResult who.val (Word.ofNat (pack [(code, 0), (frame % 2 ^ 20, 12)]))
  Act.reg .kvCount who.val (Word.ofNat (pack [(refs, 0), (pins, 16)]))

/-- An initiator acts for context `c`, or for no one context (log entry 213). -/
def State.actsFor (s : State) (who : Who) (c : Nat) : Bool :=
  match s.xlat.acting.at who.val none with
  | some d => d = c
  | none => true

/-- A KV command (R141): one that fails changes nothing. One on a pool that another context owns fails. -/
def kvCommand (who : Who) (op pool frame : Nat) : Act Nat := do
  match ← poolAt (pool % 16) with
  | none => kvResult who Code.faultXlat frame 0 0
  | some p =>
    if p.frames ≤ frame || !(← Act.get).actsFor who p.ctx then kvResult who Code.faultXlat frame 0 0
    else
      match ← framePa p frame with
      | none => kvResult who Code.faultXlat frame 0 0
      | some pa =>
        let s ← Act.get
        let f := Frame.ofNat (s.peekNat pa 8)
        match f.command op with
        | none => kvResult who Code.faultXlat frame f.refs f.pins
        | some g =>
          if op ≠ 4 then putFrame p pa frame g
          kvResult who Code.ok frame g.refs g.pins
  return Code.ok

/-- ACQUIRE (R141). -/
def execKvAcquire (who : Who) (pool frame : Nat) (s : State) : Host.Outcome State Fault Refusal :=
  Act.outcome (command who .kvCmd who.val (kvCommand who 1 pool frame)) s

/-- SHARE (R141). -/
def execKvShare (who : Who) (pool frame : Nat) (s : State) : Host.Outcome State Fault Refusal :=
  Act.outcome (command who .kvCmd who.val (kvCommand who 2 pool frame)) s

/-- RELEASE (R141, R142). -/
def execKvRelease (who : Who) (pool frame : Nat) (s : State) : Host.Outcome State Fault Refusal :=
  Act.outcome (command who .kvCmd who.val (kvCommand who 3 pool frame)) s

/-- QUERY (R141). -/
def execKvQuery (who : Who) (pool frame : Nat) (s : State) : Host.Outcome State Fault Refusal :=
  Act.outcome (command who .kvCmd who.val (kvCommand who 4 pool frame)) s

/-- A write of XLAT_KV_s_CMD (Table 5.8). -/
def kvWrite (who : Who) (value : Word) : Act Nat := do
  let op := field value 3 0
  if op = 0 then return Code.ok else kvCommand who op (field value 7 4) (field value 31 12)

/-! ## Snapshots (R137, R138) -/

/-- A pin a snapshot takes, and the entry it keeps. -/
structure SnapEntry where
  entry : Nat
  pin : Option KvPin
  framePa : Nat
  deriving DecidableEq, Repr

/-- One KVPT entry as a snapshot copies it: none where its GEN differs from the frame's; WRITE only where it pins a frame
whose REFS is 1 (log entry 206). -/
def snapEntry (pool : Nat) (p : Pool) (e : Nat) : Act (Option SnapEntry) := do
  let w : BitVec 64 := BitVec.ofNat 64 e
  let f := field w 19 0
  if !flag w 20 || flag w 23 then return some { entry := (setField w 21 21 0).toNat, pin := none, framePa := 0 }
  else if p.frames ≤ f then return none
  else
    match ← framePa p f with
    | none => return none
    | some pa =>
      let s ← Act.get
      let r := Frame.ofNat (s.peekNat pa 8)
      if r.gen % 256 ≠ field w 55 48 then return none
      else
        let wr := flag w 21 && r.refs = 1
        let e' := (setField w 21 21 (b2n wr)).toNat
        return some { entry := e', pin := some { pool, frame := f, writable := wr }, framePa := pa }

/-- One named view of a kernel: its window and the entries of its snapshot (R137, R138); none where it must fail. -/
def snapView (c area idx : Nat) : Act (Option (ViewSnap × List SnapEntry)) := do
  let s ← Act.get
  let x := s.ctx c
  let off := x.desc.viewVa % 65536 + idx * 32
  match x.viewTiles[off / 65536]? with
  | none => return none
  | some t =>
    let v := s.peek (t + off % 65536) 32
    let cfg : Word := Word.ofNat (natAt v 16 4)
    let blocks := field cfg 15 6 + 1
    let pool := field cfg 3 0
    if !flag cfg 16 || 131072 < blocks * (128 * 2 ^ field cfg 5 4) then return none
    else
      match ← poolAt pool with
      | none => return none
      | some p =>
        let kvpt := natAt v 8 6
        let score ← pinnedTiles c (natAt v 24 6) (blocks * 4)
        match decide (p.ctx = c), ← pinnedTiles c kvpt (blocks * 8), score with
        | true, some tiles, some _ =>
          let mut out : Option (List SnapEntry) := some []
          for b in List.range blocks do
            let a := kvpt % 65536 + b * 8
            let t ← Act.get
            let e := t.peekNat (tiles.getD (a / 65536) 0 + a % 65536) 8
            match out, ← snapEntry pool p e with
            | some l, some y => out := some (l ++ [y])
            | _, _ => out := none
          return out.map fun l => ({ va := natAt v 0 6, tpf := p.tpf, blocks, kvVa := p.kvVa, area }, l)
        | _, _, _ => return none

/-- Pins a frame: PINS rises, and WPINS with a writable entry. -/
def pinFrame (y : SnapEntry) : Act Unit := do
  match y.pin with
  | none => nothing
  | some k =>
    let s ← Act.get
    let f := Frame.ofNat (s.peekNat y.framePa 8)
    writePhys y.framePa (bytesOf 8 { f with pins := f.pins + 1, wpins := f.wpins + b2n k.writable }.toNat)

/-- The snapshot of a kernel's views as one step: windows and pins, or none where the kernel must end with
FAULT_XLAT. -/
def snapshot (c : Nat) (idxs : List Nat) : Act (Option (List ViewSnap × List KvPin)) := do
  let s ← Act.get
  let d := (s.ctx c).desc
  let base := d.kennel + d.kspan * 0x61_0000
  let mut got : Option (List (ViewSnap × List SnapEntry)) := some []
  for (idx, v) in idxs.zipIdx do
    match got, ← snapView c (base + v * 0x2000) idx with
    | some l, some y => got := some (l ++ [y])
    | _, _ => got := none
  match got with
  | none => return none
  | some l =>
    for (w, es) in l do
      writePhys w.area (es.flatMap fun y => bytesOf 8 y.entry)
      for y in es do pinFrame y
    return some (l.map (·.1), l.flatMap fun p => p.2.filterMap (·.pin))

/-- Drops a kernel's pins (R140): each frame is checked once for release (R142). -/
def dropPins (pins : List KvPin) : Act Unit := do
  for k in pins do
    match ← poolAt k.pool with
    | none => nothing
    | some p =>
      match ← framePa p k.frame with
      | none => nothing
      | some pa =>
        let s ← Act.get
        let f := Frame.ofNat (s.peekNat pa 8)
        putFrame p pa k.frame { f with pins := f.pins - 1, wpins := f.wpins - b2n k.writable }

end Sys2Proof.Machine
end

