-- ==== Sys2Proof/Machine/Epochs.lean ====
section
/-!
DEFINITION. Sys2Proof/Machine/Epochs.lean: the planner's world (R311 to R320): epochs and their holds, dirty boxes,
the node pool and the voxel tree, and the epoch commands but for PUBLISH (Machine/Plan.lean).
-/
namespace Sys2Proof.Machine

def Act.modPlan (f : Plan → Plan) : Act Unit := do
  let s ← Act.get
  Act.make (.plan (f s.plan))

/-- PLAN_OWNER. -/
def State.planOwner (s : State) : Nat := s.rf .planOwner 0 9 0

/-- The current epoch: the newest published one. -/
def State.current (s : State) : Epoch := s.plan.epochs.getLastD { num := 0 }

/-- A retained or open epoch by its number. -/
def State.epoch (s : State) (n : Nat) : Option Epoch := s.plan.epochs.find? (·.num = n)

/-! ## Accesses (R326) -/

/-- How PLAN reads and writes for a context. -/
def planVia (c : Nat) : Via := { ctx := c, stop := Stop.plan }

/-- Reads `n` bytes for PLAN; zeros stand for what does not come. -/
def planRead (c va n : Nat) : Act (List Byte) := do
  let s ← Act.get
  if s.plan.trouble.isSome then return List.replicate n 0
  else if ← rangeWaits (planVia c) va n false then
    Act.modPlan fun p => { p with parked := p.parked ++ [(c, va, n, false)] }
    return List.replicate n 0
  else
    match ← readVaNow (planVia c) va n with
    | .inl b => return b
    | .inr x =>
      Act.modPlan fun p => { p with trouble := some x }
      return List.replicate n 0

/-- Writes bytes for PLAN. -/
def planWrite (c va : Nat) (bs : List Byte) : Act Unit := do
  let s ← Act.get
  if s.plan.trouble.isNone then
    if ← rangeWaits (planVia c) va bs.length true then
      Act.modPlan fun p => { p with parked := p.parked ++ [(c, va, bs.length, true)] }
    else
      match ← writeVaNow (planVia c) va bs with
      | some x => Act.modPlan fun p => { p with trouble := some x }
      | none => nothing

/-- The failure of the work in hand, if it has one. -/
def takeTrouble : Act (Option (Nat × Nat × Nat × Nat × Nat)) := do
  let s ← Act.get
  Act.modPlan fun p => { p with trouble := none }
  return s.plan.trouble

/-- Work of PLAN is done unless one of its accesses parks; then its pages are asked for, and `wait` is done instead. -/
def unlessParked (work wait : Act Unit) : Act Unit := do
  let s ← Act.get
  let parked := (work.after s).plan.parked
  if parked.isEmpty then work
  else
    for (c, va, n, w) in parked do
      for i in List.range ((va % 65536 + n + 65535) / 65536) do
        let _ ← translate (planVia c) (max va ((va / 65536 + i) * 65536)) w
    wait

/-- Work that waited is done once none of its accesses parks. -/
def ifResident (work : Act Unit) : Act Unit := do
  let s ← Act.get
  if (work.after s).plan.parked.isEmpty then work

/-! ## Exact coordinates -/

/-- The value of a finite FP32 word in units of 2^−149; infinities lie beyond every finite value. -/
def fpUnits (w : Word) : Int :=
  let e := field w 30 23
  let m := field w 22 0
  let a : Nat := if e = 0 then m else (2 ^ 23 + m) * 2 ^ (e - 1)
  if flag w 31 then -(a : Int) else a

def fpNaN (w : Word) : Bool := field w 30 23 = 255 && field w 22 0 ≠ 0

/-- A coordinate in units of 2^−149 / 5 m. -/
def coord (w : Word) : Int := 5 * fpUnits w

/-- Index at level 16 of a coordinate in the root cube along axis `a`; none outside (R318). -/
def State.voxelIndex (s : State) (a : Nat) (w : Word) : Option Nat :=
  let d := (coord w - coord (s.rg .planOrigin a)).fdiv (2 ^ 147)
  if 0 ≤ d ∧ d < 65536 then some d.toNat else none

/-! ## Dirty boxes (R315) -/

abbrev Box : Type := List Int

def Box.lo (b : Box) (a : Nat) : Int := b.getD a 0
def Box.hi (b : Box) (a : Nat) : Int := b.getD (a + 3) 0

/-- `b` lies inside `c`. -/
def Box.inside (b c : Box) : Bool := [0, 1, 2].all fun a => Box.lo c a ≤ Box.lo b a && Box.hi b a ≤ Box.hi c a

def Box.union (b c : Box) : Box :=
  [min (Box.lo b 0) (Box.lo c 0), min (Box.lo b 1) (Box.lo c 1), min (Box.lo b 2) (Box.lo c 2),
   max (Box.hi b 0) (Box.hi c 0), max (Box.hi b 1) (Box.hi c 1), max (Box.hi b 2) (Box.hi c 2)]

def Box.volume (b : Box) : Int := (Box.hi b 0 - Box.lo b 0) * (Box.hi b 1 - Box.lo b 1) * (Box.hi b 2 - Box.lo b 2)

/-- The pairs of indices below `n`, lowest first. -/
def indexPairs (n : Nat) : List (Nat × Nat) :=
  (List.range n).flatMap fun i => ((List.range n).filter (i < ·)).map fun j => (i, j)

/-- The pair of a list of boxes whose union is least, the lowest indices first among equals. -/
def leastPair (bs : List Box) : Option (Nat × Nat) :=
  (indexPairs bs.length).foldl (fun best p =>
    let v (q : Nat × Nat) := Box.volume (Box.union (bs.getD q.1 []) (bs.getD q.2 []))
    match best with
    | none => some p
    | some q => if v p < v q then some p else some q) none

/-- The dirty list with a box added. -/
def addBox (bs : List Box) (b : Box) : List Box :=
  if bs.any (Box.inside b) then bs
  else if bs.length < 64 then bs ++ [b]
  else
    match leastPair bs with
    | some (i, j) => (bs.set i (Box.union (bs.getD i []) (bs.getD j []))).eraseIdx j ++ [b]
    | none => bs

def dirtyOpen (b : Box) : Act Unit :=
  Act.modPlan fun p => { p with openEpoch := p.openEpoch.map fun e => { e with dirty := addBox e.dirty b } }

/-! ## Holds and releases (R313) -/

/-- Opens epoch c + 1 (Table 13.1). -/
def openNow : Act Unit := do
  let s ← Act.get
  let c := s.current
  Act.modPlan fun p => { p with openEpoch := some { num := c.num + 1, root := c.root, layers := c.layers } }

/-- Releases the oldest epochs while they are neither current nor held; the nodes the next epoch superseded return to
the free ring. -/
def releaseList : Nat → List Epoch → List Nat → List Epoch × List Nat
  | 0, es, f => (es, f)
  | n + 1, e :: d :: t, f => if e.holds = 0 then releaseList n (d :: t) (f ++ d.superseded) else (e :: d :: t, f)
  | _ + 1, es, f => (es, f)

/-- Epochs are released, and an OPEN that waits takes effect (R313, R335). -/
def releaseEpochs : Act Unit := do
  let s ← Act.get
  let (es, f) := releaseList s.plan.epochs.length s.plan.epochs s.plan.freeNodes
  Act.modPlan fun p => { p with epochs := es, freeNodes := f }
  match s.plan.openWaiting with
  | some who =>
    if es.length < 64 && s.plan.openEpoch.isNone then
      Act.modPlan fun p => { p with openWaiting := none }
      openNow
      Act.regField .epochStatus who.val 7 0 Code.ok
  | none => nothing

/-- Takes or drops holds on epoch `n`. -/
def hold (n : Nat) : Act Unit :=
  Act.modPlan fun p => { p with epochs := p.epochs.map fun e => if e.num = n then { e with holds := e.holds + 1 } else e }

def dropHold (n : Nat) : Act Unit := do
  Act.modPlan fun p => { p with epochs := p.epochs.map fun e => if e.num = n then { e with holds := e.holds - 1 } else e }
  releaseEpochs

/-- Teardown of a context cancels its plan requests and drops their holds: nothing of them is written (R332). -/
def cancelPlans (c : Nat) : Act Unit := do
  let s ← Act.get
  for r in s.plan.requests.filter (·.ctx = c) do
    match r.watch with
    | some l => Act.modPlan fun p => { p with watches := p.watches.put l { p.watches.at l {} with repairing := false } }
    | none => nothing
    Act.modPlan fun p => { p with requests := p.requests.filter (· ≠ r) }
    dropHold r.held
  for u in s.plan.updates.filter (·.2.1 = c) do dropHold u.2.2.2
  Act.modPlan fun p => { p with subs := p.subs.filter (·.2.1 ≠ c), updates := p.updates.filter (·.2.1 ≠ c) }

/-! ## Epoch commands (R312, Table 13.1) -/

/-- The code of an epoch command. -/
def epochStatus (who : Who) (code : Nat) : Act Unit := Act.regField .epochStatus who.val 7 0 code

def State.epochArg (s : State) (who : Who) : Nat :=
  (s.rg .epochVaLo who.val).toNat + s.rf .epochVaHi who.val 15 0 * 2 ^ 32

/-- OPEN; with 64 epochs retained it waits, BUSY set (R313). -/
def openCommand (who : Who) : Act Nat := do
  let s ← Act.get
  if s.plan.openEpoch.isSome || s.plan.openWaiting.isSome then epochStatus who Code.faultXlat
  else if 64 ≤ s.plan.epochs.length then Act.modPlan fun p => { p with openWaiting := some who }
  else
    openNow
    epochStatus who Code.ok
  return Code.ok

/-- LAYERS copies the 256-byte layer table at `va`. -/
def layersNow (who : Who) (va : Nat) : Act Unit := do
  let s ← Act.get
  if s.plan.openEpoch.isNone then epochStatus who Code.faultXlat
  else
    let b ← planRead s.planOwner va 256
    match ← takeTrouble with
    | some _ => epochStatus who Code.faultXlat
    | none =>
      Act.modPlan fun p => { p with openEpoch := p.openEpoch.map fun e => { e with layers := b } }
      epochStatus who Code.ok

/-- A bound of a DIRTY box; one that is not a number is a free value. -/
def dirtyBound (w : Word) : Act Int := do
  if fpNaN w then
    let n ← Act.draw
    return 5 * 2 ^ 149 * (Config.freeWord n).toInt
  else return coord w

/-- DIRTY adds the box of 24 bytes at `va`. -/
def dirtyNow (who : Who) (va : Nat) : Act Unit := do
  let s ← Act.get
  if s.plan.openEpoch.isNone then epochStatus who Code.faultXlat
  else
    let b ← planRead s.planOwner va 24
    match ← takeTrouble with
    | some _ => epochStatus who Code.faultXlat
    | none =>
      let mut box : Box := []
      for i in List.range 6 do
        let v ← dirtyBound (Word.ofNat (natAt b (4 * i) 4))
        box := box ++ [v]
      dirtyOpen box
      epochStatus who Code.ok

/-- LAYERS or DIRTY with its argument; one whose argument parks waits. -/
def argCommand (who : Who) (op : Nat) : Act Nat := do
  let s ← Act.get
  let va := s.epochArg who
  unlessParked (if op = 2 then layersNow who va else dirtyNow who va)
    (Act.modPlan fun p => { p with cmds := p.cmds ++ [(who, op, va)] })
  return Code.ok

def layersCommand (who : Who) : Act Nat := argCommand who 2
def dirtyCommand (who : Who) : Act Nat := argCommand who 3

/-- ABANDON discards the open epoch; the nodes it created return to the free ring. -/
def abandonCommand (who : Who) : Act Nat := do
  let s ← Act.get
  match s.plan.openEpoch with
  | none => epochStatus who Code.faultXlat
  | some e =>
    Act.modPlan fun p => { p with openEpoch := none, freeNodes := p.freeNodes ++ e.created }
    epochStatus who Code.ok
  return Code.ok

/-- OPEN (R312). -/
def execOpenEpoch (who : Who) (s : State) : Host.Outcome State Fault Refusal :=
  Act.outcome (command who .epochCmd who.val (openCommand who)) s

/-- OPEN_DEFERRED: what is no longer held is released, and the waiting OPEN takes effect (R313). -/
def execOpenDeferred (s : State) : Host.Outcome State Fault Refusal := Act.outcome releaseEpochs s

/-- LAYERS (R312). -/
def execEpochLayers (who : Who) (va : Nat) (s : State) : Host.Outcome State Fault Refusal :=
  Act.outcome (command who .epochCmd who.val (do
    Act.reg .epochVaLo who.val (Word.ofNat va)
    Act.reg .epochVaHi who.val (Word.ofNat (va / 2 ^ 32 % 2 ^ 16))
    layersCommand who)) s

/-- DIRTY (R312, R315). -/
def execEpochDirty (who : Who) (va : Nat) (s : State) : Host.Outcome State Fault Refusal :=
  Act.outcome (command who .epochCmd who.val (do
    Act.reg .epochVaLo who.val (Word.ofNat va)
    Act.reg .epochVaHi who.val (Word.ofNat (va / 2 ^ 32 % 2 ^ 16))
    dirtyCommand who)) s

/-- ABANDON (R312). -/
def execEpochAbandon (who : Who) (s : State) : Host.Outcome State Fault Refusal :=
  Act.outcome (command who .epochCmd who.val (abandonCommand who)) s

/-! ## The voxel tree (R318 to R320) -/

/-- Nodes on the free ring (Table 13.8). -/
def State.nodeFree (s : State) : Nat := s.rf .planNodeCount 0 29 0 - s.plan.nextNode + s.plan.freeNodes.length

/-- Takes a node from the free ring: those never used come first, in rising order. -/
def takeNode : Act Nat := do
  let s ← Act.get
  let n := if s.plan.nextNode < s.rf .planNodeCount 0 29 0 then s.plan.nextNode else s.plan.freeNodes.headD 0
  Act.modPlan fun p => { p with
    nextNode := if p.nextNode = n then n + 1 else p.nextNode
    freeNodes := if p.nextNode = n then p.freeNodes else p.freeNodes.tail
    openEpoch := p.openEpoch.map fun e => { e with created := e.created ++ [n] } }
  return n

/-- Physical address of a node, in pinned memory of the owner. -/
def nodePa (n : Nat) : Act (Option Nat) := do
  let s ← Act.get
  pinnedPa s.planOwner ((s.rg .planNodeLo).toNat + s.rf .planNodeHi 0 15 0 * 2 ^ 32 + n * 64)

/-- A node's child entries and its NEPOCH. -/
def nodeAt (n : Nat) : Act (List Word × Nat) := do
  match ← nodePa n with
  | none => return (List.replicate 8 0, 0)
  | some pa =>
    let s ← Act.get
    let b := s.peek pa 64
    return ((List.range 8).map fun i => Word.ofNat (natAt b (4 * i) 4), natAt b 32 8)

def putNode (n : Nat) (es : List Word) (epoch : Nat) : Act Unit := do
  match ← nodePa n with
  | none => nothing
  | some pa => writePhys pa (es.flatMap (fun e => bytesOf 4 e.toNat) ++ bytesOf 8 epoch ++ bytesOf 24 0)

/-- An entry that names node `n`. -/
def splitEntry (n : Nat) : Word := Word.ofNat (3 + 4 * n)

/-- A node leaves the open epoch: to the free ring if that epoch created it, else among the superseded. -/
def leaveNode (n : Nat) : Act Unit := do
  let s ← Act.get
  match s.plan.openEpoch with
  | none => nothing
  | some e =>
    if e.created.contains n then
      Act.modPlan fun p => { p with
        freeNodes := p.freeNodes ++ [n], openEpoch := some { e with created := e.created.erase n } }
    else Act.modPlan fun p => { p with openEpoch := some { e with superseded := e.superseded ++ [n] } }

/-- The subtree of an entry leaves the open epoch; `fuel` bounds its depth. -/
def dropTree : Nat → Word → Act Unit
  | 0, _ => nothing
  | fuel + 1, e => do
    if field e 1 0 = 3 then
      let (es, _) ← nodeAt (field e 31 2)
      for x in es do dropTree fuel x
      leaveNode (field e 31 2)

/-- The octant at level `k` of a voxel index (R319). -/
def octant (k x y z : Nat) : Nat := x / 2 ^ (16 - k) % 2 + 2 * (y / 2 ^ (16 - k) % 2) + 4 * (z / 2 ^ (16 - k) % 2)

/-- Nodes an item needs on its path; none if the cube already has the state. `d` levels are still to go down. -/
def itemNeed : Nat → Nat → Word → Nat → Nat → Nat → Nat → Act (Option Nat)
  | 0, _, e, st, _, _, _ => pure (if e = Word.ofNat st then none else some 0)
  | d + 1, k, e, st, x, y, z => do
    if field e 1 0 ≠ 3 then return if e = Word.ofNat st then none else some (d + 1)
    else
      let (es, ep) ← nodeAt (field e 31 2)
      let s ← Act.get
      let own := some ep = s.plan.openEpoch.map (·.num)
      match ← itemNeed d (k + 1) (es.getD (octant (k + 1) x y z) 0) st x y z with
      | none => return none
      | some n => return some (if own then n else n + 1)

/-- The cube at level `l` that holds a voxel, as a dirty box. -/
def State.cube (s : State) (l x y z : Nat) : Box :=
  let w : Int := 2 ^ (147 + (16 - l))
  let lo (a v : Nat) : Int := coord (s.rg .planOrigin a) + (v / 2 ^ (16 - l) : Nat) * w
  [lo 0 x, lo 1 y, lo 2 z, lo 0 x + w, lo 1 y + w, lo 2 z + w]

/-- Sets the cube and answers the entry's new value (R320, R314). The cube of every entry whose state changes is made dirty
(R315). -/
def setCube : Nat → Nat → Word → Nat → Nat → Nat → Nat → Act Word
  | 0, k, e, st, x, y, z => do
    let s ← Act.get
    dirtyOpen (s.cube k x y z)
    dropTree 16 e
    return Word.ofNat st
  | d + 1, k, e, st, x, y, z => do
    let s ← Act.get
    let open' := (s.plan.openEpoch.map (·.num)).getD 0
    let split := field e 1 0 = 3
    if !split then dirtyOpen (s.cube k x y z)
    let (es, ep) ← if split then nodeAt (field e 31 2) else pure (List.replicate 8 e, 0)
    let own := split && ep = open'
    let n ← if own then pure (field e 31 2) else takeNode
    if split && !own then leaveNode (field e 31 2)
    let o := octant (k + 1) x y z
    let c ← setCube d (k + 1) (es.getD o 0) st x y z
    let fs := es.set o c
    if field c 1 0 ≠ 3 && fs.all (· = c) then
      leaveNode n
      if split then dirtyOpen (s.cube k x y z)
      return c
    else
      putNode n fs open'
      return splitEntry n

/-- One item of an UPDATE: applied, skipped, or short of a node. -/
inductive ItemOut where
  | applied | skipped | full
  deriving DecidableEq, Repr

def applyItem (b : List Byte) : Act ItemOut := do
  let s ← Act.get
  let w (i : Nat) : Word := Word.ofNat (natAt b (4 * i) 4)
  let l := field (w 3) 7 4
  let level := if l = 0 then 16 else l
  match fpNaN (w 0) || fpNaN (w 1) || fpNaN (w 2), s.voxelIndex 0 (w 0), s.voxelIndex 1 (w 1), s.voxelIndex 2 (w 2) with
  | false, some x, some y, some z =>
    if field (w 3) 1 0 = 3 then return .skipped
    let root := (s.plan.openEpoch.map (·.root)).getD 2
    let st := field (w 3) 1 0
    match ← itemNeed level 0 root st x y z with
    | none => return .applied
    | some need =>
      if s.nodeFree < need then return .full
      else
        let r ← setCube level 0 root st x y z
        Act.modPlan fun p => { p with openEpoch := p.openEpoch.map fun e => { e with root := r } }
        return .applied
  | _, _, _, _ => return .skipped

/-- UPDATE: applies the items in order and writes the result word (R320). -/
def updateNow (who : Who) (c va : Nat) : Act Unit := do
  let s ← Act.get
  let done (code : Nat) : Act Unit := Act.regField .planStatus who.val 7 0 code
  if c ≠ s.planOwner || s.plan.openEpoch.isNone || (s.ctx c).st = .free then done Code.faultXlat
  else
    let d ← planRead c va 256
    let (list, count, result) := Config.updateDescriptor d
    if count = 0 || 65536 < count then
      match ← takeTrouble with
      | some _ => done Code.faultXlat
      | none => done Code.unaligned
    else
      let items ← planRead c list (count * 16)
      match ← takeTrouble with
      | some _ => done Code.faultXlat
      | none =>
        let mut applied := 0
        let mut skipped := 0
        let mut stop := false
        for i in List.range count do
          if !stop then
            match ← applyItem ((items.drop (16 * i)).take 16) with
            | .applied => applied := applied + 1
            | .skipped => skipped := skipped + 1
            | .full =>
              stop := true
              Act.regField .planStat 0 0 0 1
        planWrite c result (bytesOf 16 (pack [(Code.ok, 0), (applied, 16), (skipped, 64)]))
        let _ ← takeTrouble
        let t ← Act.get
        Act.regField .planStatus who.val 31 16 (t.rf .planStatus who.val 31 16 + 1)
        done Code.ok

/-- UPDATE; one of whose accesses parks waits, holding the current epoch (R312, R313). -/
def update (who : Who) (c va : Nat) : Act Nat := do
  let s ← Act.get
  unlessParked (updateNow who c va) (do
    hold s.current.num
    Act.modPlan fun p => { p with updates := p.updates ++ [(who, c, va, s.current.num)] })
  return Code.ok

/-- Epoch commands and UPDATEs that waited are carried out once their accesses park no more. -/
def settleEpochs : Act Unit := do
  let s ← Act.get
  for (who, op, va) in s.plan.cmds do
    ifResident do
      Act.modPlan fun p => { p with cmds := p.cmds.erase (who, op, va) }
      if op = 2 then layersNow who va else dirtyNow who va
  for (who, c, va, n) in s.plan.updates do
    ifResident do
      Act.modPlan fun p => { p with updates := p.updates.erase (who, c, va, n) }
      dropHold n
      updateNow who c va

/-- UPDATE (R320): PLAN_s_SUBMIT with KIND 1. -/
def execVoxelUpdate (who : Who) (c : Ctx) (va : Nat) (s : State) : Host.Outcome State Fault Refusal :=
  Act.outcome (command who .planSubmit who.val (do
    Act.reg .planDescLo who.val (Word.ofNat va)
    Act.reg .planDescHi who.val (Word.ofNat (va / 2 ^ 32 % 2 ^ 16))
    update who (c % 1024) va)) s

end Sys2Proof.Machine
end

