-- ==== Sys2Proof/Machine/Weir.lean ====
section
/-!
DEFINITION. Sys2Proof/Machine/Weir.lean: the Weir queues (R270 to R272, R281, R285 to R287, R290): counts, flow
control, marks, releases, and what contexts and stewards do to them. Commits are in Machine/Ports.lean.
-/
namespace Sys2Proof.Machine

/-! ## A queue's settings and counts -/

def State.qOn (s : State) (q : Nat) : Bool := flag (s.rg .weirQCfg q) 0

/-- The owning context, where OWNED is set. -/
def State.qOwner (s : State) (q : Nat) : Option Nat :=
  if flag (s.rg .weirQCfg q) 11 then some (s.rf .weirQCfg q 10 1) else none

def State.qBase (s : State) (q : Nat) : Nat := s.rf .weirQBase q 17 0
def State.qSize (s : State) (q : Nat) : Nat := s.rf .weirQSize q 17 0 + 1

/-- WR − RL (R272). -/
def State.qOcc (s : State) (q : Nat) : Nat := (s.rg .weirQWr q - s.rg .weirQRl q).toNat

/-- Physical address of line count `n`. -/
def State.qLine (s : State) (q n : Nat) : Nat := weirBase + (s.qBase q + n % s.qSize q) * 64

def State.queue (s : State) (q : Nat) : Queue := s.ports.queues.at q {}

def Act.modQueue (q : Nat) (f : Queue → Queue) : Act Unit := do
  let s ← Act.get
  Act.make (.ports { s.ports with queues := s.ports.queues.put q (f (s.queue q)) })

/-- What feeds a queue, each by its source code and number: CSI-2 routes, Ethernet rules or, as rule 8, a default, SPI ports
and UARTs (R271, R273). -/
def State.sources (s : State) (q : Nat) : List (Nat × Nat) :=
  ((List.range 12).flatMap fun r => ((List.range 4).filter fun k =>
    flag (s.rg .csiRoute r k) 0 && field (s.rg .csiRoute r k) 17 12 = q).map fun k => (r, k)) ++
  ((List.range 8).flatMap fun m =>
    ((List.range 8).filter fun k => flag (s.rg .ethRuleLo m k) 30 && field (s.rg .ethRuleHi m k) 22 17 = q).map (0x10 + m, ·) ++
    if flag (s.rg .ethIng m) 0 && !flag (s.rg .ethIng m) 1 && s.rf .ethIng m 7 2 = q then [(0x10 + m, 8)] else []) ++
  ((List.range 4).filter fun n => flag (s.rg .spiIng n) 0 && s.rf .spiIng n 19 14 = q).map (fun n => (0x20 + n, 0)) ++
  ((List.range 4).filter fun n => flag (s.rg .uartIng n) 0 && s.rf .uartIng n 15 10 = q).map fun n => (0x28 + n, 0)

/-- The source that feeds a queue. -/
def State.qSource (s : State) (q : Nat) : Option Nat := (s.sources q).head?.map (·.1)

/-! ## Flow control (R281) -/

/-- FC.ACT, where PAUSE applies only to a queue fed by a MAC. -/
def State.qAct (s : State) (q : Nat) : Nat :=
  let a := s.rf .weirQFc q 5 4
  match s.qSource q with
  | some x => if 0x10 ≤ x ∧ x < 0x18 then a else a % 2
  | none => a % 2

/-- A PAUSE frame is sent by the queue's MAC. -/
def sendPause (q quanta : Nat) : Act Unit := do
  let s ← Act.get
  match s.qSource q with
  | some x =>
    if 2 ≤ s.qAct q then
      Act.count .ethPause (x - 0x10)
      Act.make (.ports { s.ports with
        pauseOut := s.ports.pauseOut.put (x - 0x10) quanta, pauseNs := s.ports.pauseNs.put (x - 0x10) s.ns })
  | none => nothing

/-- The test at the end of a Weir cycle in which the queue's occupancy is `occ`. -/
def watermark (q occ : Nat) : Act Unit := do
  let s ← Act.get
  if s.qOn q then
    if s.rf .weirQHigh q 17 0 < occ then
      if !flag (s.rg .weirQStat q) 19 then
        Act.regField .weirQStat q 19 19 1
        sendPause q 0xFFFF
    else if occ ≤ s.rf .weirQLow q 17 0 then
      if flag (s.rg .weirQStat q) 19 then
        Act.regField .weirQStat q 19 19 0
        sendPause q 0

def watermarkNow (q : Nat) : Act Unit := do
  let s ← Act.get
  watermark q (s.qOcc q)

/-- FC_STATE: the pins asserted by a queue whose state is set (R281). -/
def State.fcAsserted (s : State) : Nat :=
  (List.range 16).foldl (fun a p =>
    if (List.range 64).any fun q => flag (s.rg .weirQStat q) 19 && s.qAct q % 2 = 1 && s.rf .weirQFc q 3 0 = p
    then a + 2 ^ p else a) 0

/-! ## Pointers (R285 to R287) -/

/-- Packets that lie wholly below RL are no longer committed packets to age. -/
def dropReleased (q : Nat) : Act Unit := do
  let s ← Act.get
  let rl := (s.rg .weirQRl q).toNat
  Act.modQueue q fun x => { x with
    packets := x.packets.filter fun p => (rl + 2 ^ 32 - p.start) % 2 ^ 32 < p.lines ∨ 2 ^ 31 ≤ (rl + 2 ^ 32 - p.start) % 2 ^ 32 }

/-- MK = RD. -/
def weirMark (q : Nat) : Act Unit := do
  let s ← Act.get
  Act.reg .weirQMk q (s.rg .weirQRd q)

/-- RD = MK. -/
def weirRewind (q : Nat) : Act Unit := do
  let s ← Act.get
  Act.reg .weirQRd q (s.rg .weirQMk q)

/-- RL = RD and MK = RD. -/
def weirRelease (q : Nat) : Act Unit := do
  let s ← Act.get
  Act.reg .weirQRl q (s.rg .weirQRd q)
  Act.reg .weirQMk q (s.rg .weirQRd q)
  dropReleased q
  watermarkNow q

/-- RD = min(RD + N, CM). -/
def weirAdvance (q n : Nat) : Act Unit := do
  let s ← Act.get
  let left := (s.rg .weirQCm q - s.rg .weirQRd q).toNat
  Act.reg .weirQRd q (s.rg .weirQRd q + Word.ofNat (min n left))

/-- RL, MK and RD become CM: an unowned queue at a commit, and the flush at DESTROY (R286). -/
def weirFlush (q : Nat) : Act Unit := do
  let s ← Act.get
  Act.reg .weirQRl q (s.rg .weirQCm q)
  Act.reg .weirQMk q (s.rg .weirQCm q)
  Act.reg .weirQRd q (s.rg .weirQCm q)
  dropReleased q
  watermarkNow q

/-- The queues a context owns. -/
def State.queuesOf (s : State) (c : Nat) : List Nat := (List.range 64).filter fun q => s.qOwner q = some c

/-- RD = MK on every queue of the context, at its teardown, restart or rerun (R286). -/
def rewindQueues (c : Nat) : Act Unit := do
  let s ← Act.get
  for q in s.queuesOf c do weirRewind q

/-- DESTROY of the owner: the queue is flushed and OWNED clears (R286). -/
def disownQueues (c : Nat) : Act Unit := do
  let s ← Act.get
  for q in s.queuesOf c do
    weirFlush q
    Act.regField .weirQCfg q 11 11 0

/-! ## WEIR_s_CMD (R287, R290) -/

/-- A pointer command: 1 ADVANCE, 2 MARK, 3 REWIND, 4 RELEASE. -/
def weirCommand (who : Who) (op q n : Nat) : Act Nat := do
  let s ← Act.get
  if op = 0 || 4 < op then return Code.ok
  if !privileged who && !flag (s.rg .weirQCfg q) 12 then
    Act.regField .weirStatus who.val 7 0 Code.faultXlat
    return Code.ok
  Act.regField .weirStatus who.val 7 0 Code.ok
  match op with
  | 1 => weirAdvance q n
  | 2 => weirMark q
  | 3 => weirRewind q
  | _ => weirRelease q
  return Code.ok

/-- ADVANCE (R287). -/
def execWeirAdvance (who : Who) (q : Fin 64) (n : Nat) (s : State) : Host.Outcome State Fault Refusal :=
  Act.outcome (command who .weirCmd who.val (weirCommand who 1 q.val (n % 65536))) s

/-- MARK (R287). -/
def execWeirMark (who : Who) (q : Fin 64) (s : State) : Host.Outcome State Fault Refusal :=
  Act.outcome (command who .weirCmd who.val (weirCommand who 2 q.val 0)) s

/-- REWIND (R287). -/
def execWeirRewind (who : Who) (q : Fin 64) (s : State) : Host.Outcome State Fault Refusal :=
  Act.outcome (command who .weirCmd who.val (weirCommand who 3 q.val 0)) s

/-- RELEASE (R287). -/
def execWeirRelease (who : Who) (q : Fin 64) (s : State) : Host.Outcome State Fault Refusal :=
  Act.outcome (command who .weirCmd who.val (weirCommand who 4 q.val 0)) s

/-! ## The queue group -/

/-- Whether the region of queue `q` passes the last line or overlaps that of another enabled queue. -/
def State.qClash (s : State) (q : Nat) : Bool :=
  let b := s.qBase q
  let e := b + s.qSize q
  262144 < e || (List.range 64).any fun x =>
    x ≠ q && s.qOn x && s.qBase x < e && b < s.qBase x + s.qSize x

/-- A write of WEIR_Q_q_CFG: OWNER and OWNED hold while EN is 1; setting EN zeroes the counts and SEQ, and is refused
for a region that clashes (R271). -/
def writeQueueCfg (q : Nat) (value : Word) : Act Nat := do
  let s ← Act.get
  let old := s.rg .weirQCfg q
  let new := value &&& 0x1FFFFFFF
  if flag old 0 then
    Act.reg .weirQCfg q (setField new 11 1 (field old 11 1))
    return Code.ok
  else if flag new 0 && (s.qClash q || s.qSize q < 2) then
    Act.reg .weirQCfg q (setField new 0 0 0)
    return Code.faultXlat
  else
    Act.reg .weirQCfg q new
    if flag new 0 then
      for r in [Reg.weirQWr, .weirQCm, .weirQRd, .weirQMk, .weirQRl] do Act.reg r q 0
      Act.reg .weirQStat q 0
      Act.modQueue q fun _ => {}
      let t ← Act.get
      let u := t.ports.uart.map fun x => (x.1, { x.2 with held := x.2.held && t.rf .uartIng x.1 15 10 ≠ q })
      Act.make (.ports { t.ports with uart := u })
    return Code.ok

/-- QUEUE_ENABLE: a write of CFG with EN set (R271). -/
def execQueueEnable (who : Who) (q : Fin 64) (cfg : Word) (s : State) : Host.Outcome State Fault Refusal :=
  Act.outcome (command who .weirQCfg q.val (writeQueueCfg q.val (cfg ||| 1))) s

/-- A write of BASE or SIZE: discarded while EN is 1 (R271). -/
def writeQueueRegion (r : Reg) (q : Nat) (value : Word) : Act Nat := do
  let s ← Act.get
  if !s.qOn q then Act.reg r q (value &&& 0x3FFFF)
  return Code.ok

/-- AGED_CHECK: once a millisecond, whether the oldest committed packet was stamped 2^31 ns or more ago (R280). -/
def execAgedCheck (s : State) : Host.Outcome State Fault Refusal :=
  Act.outcome (do
    for q in List.range 64 do
      let t ← Act.get
      if t.qOn q then
        let aged : Bool := match (t.queue q).packets with
          | p :: _ => decide (p.stamp + 2 ^ 31 ≤ t.fullTime)
          | [] => false
        Act.regField .weirQStat q 20 20 (b2n aged)) s

/-- PAUSE_REPEAT: 1 ms on, a MAC repeats the PAUSE of a queue whose state stays set (R281). -/
def execPauseRepeat (m : Fin 8) (s : State) : Host.Outcome State Fault Refusal :=
  Act.outcome (do
    let t ← Act.get
    let qs := (List.range 64).filter fun q => t.qSource q = some (0x10 + m.val) && flag (t.rg .weirQStat q) 19 &&
      2 ≤ t.qAct q
    if !qs.isEmpty then
      reach (t.ports.pauseNs.at m.val 0 + 10 ^ 6)
      for q in qs do sendPause q 0xFFFF) s

/-- What STAT, SRC and FC_STATE read. -/
def State.weirReads (s : State) (r : Reg) (i : Nat) : Option Word :=
  match r with
  | .weirQStat => some (setField (s.rg .weirQStat i) 18 0 (s.qOcc i))
  | .weirQSrc => some (Word.ofNat ((s.qSource i).getD 0xFF))
  | .weirFcState => some (Word.ofNat s.fcAsserted)
  | _ => none

end Sys2Proof.Machine
end

