-- ==== Sys2Proof/Machine/Collie.lean ====
section
/-!
DEFINITION. Sys2Proof/Machine/Collie.lean: how kernels and jobs end (R173, R186 to R191): kernel and job records,
paired jobs, teardown, and what an engine is left with.
-/
namespace Sys2Proof.Machine

/-! ## Engines and kernels -/

def State.engine (s : State) (e : Nat) : Engine := s.engines.at e {}

def Act.modEngine (e : Nat) (f : Engine → Engine) : Act Unit := do
  let s ← Act.get
  Act.make (.engine e (f (s.engine e)))

def Act.modKernel (c : Nat) (f : Kernel → Kernel) : Act Unit :=
  Act.modCtx c fun x => { x with kern := x.kern.map f }

/-- The loaded program of a handle. -/
def State.program (s : State) (h : Nat) : Option Program := (s.progs.find h).filter fun p => !p.gone

/-- A set of engines as a mask. -/
def engineMask (es : List Nat) : BitVec 8 := es.foldl (fun m e => m ||| BitVec.ofNat 8 (2 ^ e)) 0

/-- COL_ENG_LIVE. -/
def State.live (s : State) : List Nat := (List.range 8).filter fun e => flag (s.rg .colEngLive) e

/-- A kernel of context `c` is a split request: of two or more engines, or split across modules (R233). -/
def State.splits (s : State) (c : Nat) (k : Kernel) : Bool := 2 ≤ k.span || (s.home c).isSome

/-- How a kernel's accesses translate (R233, R234). -/
def State.viaKernel (s : State) (k : Kernel) (c stop : Nat) : Via :=
  { ctx := c, stop, slot := some (512 + c), split := s.splits c k, views := k.views }

/-- The modules that run a cascade context; zero for a module alone (Table 1.11). -/
def State.modules (s : State) (c : Nat) : Nat := (s.casc.masks.at c 0).toNat

/-- An engine is released: its cell state reads zero, its bundle store stays (R181, R103), and the governor has its
clock again, under its cap (R180, R427). -/
def freeEngine (e : Nat) : Act Unit := do
  let s ← Act.get
  let x := s.engine e
  Act.make (.engine e { half := x.half, storeA := x.storeA, storeB := x.storeB,
                        mode := if x.mode = .retired then .retired else .idle })
  if s.raised e then
    Act.make (.therm { s.therm with heelRaise := s.therm.heelRaise &&& ~~~(engineMask [e]) })
    setTarget e (s.target e)

/-- Activity of kind `n` by a context, for its energy (R193). -/
def active (c n v : Nat) : Act Unit :=
  Act.modCtx c fun x => { x with activity := x.activity.put n (x.activity.at n 0 + v) }

/-- Adds to account `n` of a context, modulo 2^64. Bytes of a tier are activity too. -/
def account (c n v : Nat) : Act Unit := do
  Act.modCtx c fun x => { x with accts := x.accts.put n ((x.accts.at n 0 + v) % 2 ^ 64) }
  if 9 ≤ n ∧ n ≤ 11 then active c (n + 9) v

/-- Engine-cycles pass on an engine of a context (R192). -/
def engineCycles (c e n : Nat) : Act Unit := do
  account c e n
  Act.modKernel c fun k => { k with cycles := k.cycles + n }

/-- Cycles of an engine's clock since elapsed time `t`. -/
def State.cyclesSince (s : State) (e t : Nat) : Nat := (s.ns - t) * (400 + 50 * s.rf .engFclk e 4 0) / 1000

/-- An engine's WAIT or park ends: the cycles since it began, at the engine's clock, are stalled engine-cycles. -/
def endStall (c e : Nat) : Act Unit := do
  let s ← Act.get
  let x := s.engine e
  match x.waitFrom with
  | none => nothing
  | some t =>
    let n := s.cyclesSince e t
    Act.make (.engine e { x with waitFrom := none, waited := x.waited + (s.ns - t) })
    engineCycles c e n
    account c 8 n

/-- The cycles in which an engine was granted and neither issued nor stalled are engine-cycles too. -/
def endHold (c e : Nat) : Act Unit := do
  let s ← Act.get
  let x := s.engine e
  match x.heldFrom with
  | none => nothing
  | some t =>
    Act.make (.engine e { x with heldFrom := none })
    engineCycles c e (s.cyclesSince e t)

/-- The engines granted to a kernel. -/
def Kernel.granted (k : Kernel) : List Nat := k.engines ++ k.spare

/-- What a kernel's engines have spent is charged up to now. -/
def chargeStalls (c : Nat) : Act Unit := do
  let s ← Act.get
  for e in ((s.ctx c).kern.map (·.granted)).getD [] do
    if (s.engine e).ctx = some c then
      endStall c e
      endHold c e

/-- A context's waits leave the wait table; waits armed into its ring stay (R202). -/
def dropKernelWaits (c : Nat) : Act Unit := do
  let s ← Act.get
  Act.make (.waits (s.waits.filter fun w => w.waiter ≠ .kernel c))

/-- A context's kennels no longer drain. -/
def dropDrains (c : Nat) : Act Unit := do
  let s ← Act.get
  for (e, d) in s.drains do
    if d.any (·.1 = c) then Act.make (.drains e (d.filter (·.1 ≠ c)))

/-- A context's barges are those of a kernel that has completed (R231). -/
def orphanBarges (c : Nat) : Act Unit := do
  let s ← Act.get
  for (slot, b) in s.flying do
    if b.ctx = c && b.go.isSome then Act.make (.fly slot { b with orphan := true })
  for (n, q) in s.chanQueues do
    if q.any (·.ctx = c) then
      Act.make (.channel n (q.map fun b => if b.ctx = c && b.go.isSome then { b with orphan := true } else b))

/-- The kernel of a context stops: its engines are released, and its state is discarded, lines that drain included (R186
step 1). -/
def stopKernel (c : Nat) : Act Unit := do
  let s ← Act.get
  match (s.ctx c).kern with
  | none => nothing
  | some k =>
    chargeStalls c
    for e in k.granted do
      if (s.engine e).ctx = some c then freeEngine e
    dropDrains c
    dropKernelWaits c
    Act.modCtx c fun x => { x with
      kern := none
      jobCycles := x.jobCycles + ((x.kern.map (·.cycles)).getD 0)
      jobRan := x.jobRan + 1
      jobEngines := x.jobEngines ||| k.used
      jobParks := x.jobParks + k.parks
      jobHeels := x.jobHeels + k.heels
      jobRetried := x.jobRetried || k.retried }

/-! ## Failures and records -/

/-- How an operation fails: code, block at fault, and what its fault record says of the address (Table 21.3). -/
structure Failure where
  code : Nat
  block : Nat
  atype : Nat := 3
  addr : Nat := 0
  syn : Nat := 0
  link : Nat := noLink
  deriving DecidableEq, Repr

/-- The fault record of a failure of context `c`, if its code has one: answers the ring index it takes. An
uncorrectable error counts against the unit it lies in. -/
def failureRecord (f : Failure) (c slot : Nat) (job : Nat) (tag : Word) : Act Nat := do
  if Code.recorded f.code then
    let seq ← fault { code := f.code, block := f.block, ctx := some c, atype := f.atype, addr := f.addr,
                      syn := f.syn, link := f.link, job, slot, tag }
    if f.code = Code.faultEcc && f.atype = 0 then countUncorrectable f.addr seq
    return faultIndex seq
  else return 0

/-- DETAIL and AUX: the fault row for codes 0x20 to 0x23 (R32). -/
def CRec.detailed (r : CRec) (code addr idx detail aux : Nat) : CRec :=
  if Code.isFault code then { r with detail := addr, aux := idx } else { r with detail, aux }

/-- A kernel's record, where its job asks for one (KREC). -/
def kernelRecord (c : Nat) (k : Kernel) (code block addr idx : Nat) : Act Unit := do
  let s ← Act.get
  match (s.ctx c).jobs.head? with
  | none => nothing
  | some j =>
    if j.krec then
      complete c (CRec.detailed { s.record c code block 0 with
        tag := j.tag, job := j.job, retried := k.retried && Code.good code,
        engines := k.used.toNat, modules := s.modules c, parks := k.parks, heels := k.heels }
        code addr idx k.cycles k.index)

/-! ## Jobs (R173, R190, R191) -/

/-- The current job leaves its context. -/
def leaveJob (c : Nat) : Act Unit :=
  Act.modCtx c fun x => { x with
    jobs := x.jobs.tail, nextKern := 0, started := false, restarts := 0, jobCycles := 0, jobRan := 0,
    jobEngines := 0, jobParks := 0, jobHeels := 0, jobRetried := false, jobOkDl := false, bargeFault := none }

/-- The context has a job in progress. -/
def Context.inJob (x : Context) : Bool := x.started || x.kern.isSome

/-- The other member's job is stopped as by KILL, and its context stays READY (R191). A job it has not begun only leaves its
queue. -/
def stopMember (c n : Nat) : Act Unit := do
  let s ← Act.get
  let x := s.ctx c
  if (x.jobs.head?.bind (·.pair)) = some n then
    if x.inJob then
      let pins := (x.kern.map (·.pins)).getD []
      closeKernelTiles c false
      stopKernel c
      cancelBarges c
      dropPins pins
      rewindQueues c
      Act.modCtx c fun x => { x with st := if x.st = .torn || x.st = .free then x.st else .ready }
    leaveJob c
  else Act.modCtx c fun x => { x with jobs := x.jobs.filter (·.pair ≠ some n) }

/-- Member `c` of a pair runs job `n`, or will: it has begun it, or may begin it, which the member that is not PRIMARY may only
with 2 engines live (R190, R191). -/
def State.runsPair (s : State) (c n : Nat) : Bool :=
  let x := s.ctx c
  x.jobs.any (·.pair = some n) && x.st ≠ .free && x.st ≠ .torn &&
  (x.desc.primary || 2 ≤ s.live.length || (x.inJob && (x.jobs.head?.bind (·.pair)) = some n))

/-- A member of a pair ends its job `n` with record `r` (R191): the first success is the pair's record; if both fail,
the primary's. It goes to the primary's ring, and the job leaves a member that does not run it. -/
def pairEnd (c n : Nat) (r : CRec) : Act Unit := do
  let s ← Act.get
  let o := (s.ctx c).desc.partner
  let primary := if (s.ctx c).desc.primary then c else o
  let goes := s.runsPair o n
  let other := (s.ctx o).pairFails.find? (·.1 = n)
  if !Code.good r.code && goes then Act.modCtx c fun x => { x with pairFails := x.pairFails ++ [(n, r)] }
  else
    stopMember o n
    Act.modCtx o fun x => { x with pairFails := x.pairFails.filter (·.1 ≠ n) }
    match other with
    | some (_, q) => complete primary (if Code.good r.code || primary = c then r else q)
    | none => complete primary r

/-- TAG of a plan request (Table 13.4). -/
def PlanReq.tag (r : PlanReq) : Word := Word.ofNat (natAt r.desc 8 4)

/-- An optimiser job of PLAN ends: its request goes on (R328 stage 5). -/
def optimiserEnded (c id : Nat) (done : CRec) : Act Unit :=
  Act.modPlan fun p => { p with requests := p.requests.map fun r =>
    if r.ctx = c && r.optimising && r.id = id then
      { r with optimising := false, optimised := some (Code.good done.code), engines := done.engines, parks := done.parks,
               heels := done.heels }
    else r }

/-- The master's LEAVE has taken its module from every MASK: the command is done (R404). -/
def checkLeave : Act Unit := do
  let s ← Act.get
  match s.casc.leaving with
  | none => nothing
  | some m =>
    if s.casc.masks.all fun x => !flag x.2 m.val then
      Act.make (.casc { s.casc with leaving := none })
      Act.reg .towCmdStatus 0 0

/-- A module leaves the MASK of context `c`. -/
def leaveMask (c m : Nat) : Act Unit := do
  let s ← Act.get
  let k := s.casc
  let bit : BitVec 4 := BitVec.ofNat 4 (2 ^ m)
  if flag (k.masks.at c 0) m then
    Act.make (.casc { k with masks := k.masks.put c (k.masks.at c 0 &&& ~~~bit), left := k.left.put c (k.left.at c 0 ||| bit) })

/-- A job boundary of a context: the job's copy goes, and a module that leaves goes (R398, R404). -/
def cascBoundary (c : Nat) : Act Unit := do
  let s ← Act.get
  if s.modules c ≠ 0 then
    Act.make (.casc { s.casc with copies := s.casc.copies.put c (s.casc.copies.at c []).tail })
    match s.casc.leaving with
    | some m => leaveMask c m.val
    | none => nothing
    checkLeave

/-- The current job of a context ends: it leaves, and writes its record unless PLAN inserted it (R173, R328). -/
def endJob (c code block addr idx : Nat) : Act Unit := do
  let s ← Act.get
  let x := s.ctx c
  match x.jobs with
  | [] => nothing
  | j :: _ =>
    let r := CRec.detailed { s.record c code block 1 with
      tag := j.tag, job := j.job, retried := x.jobRetried && Code.good code, engines := x.jobEngines.toNat,
      modules := s.modules c, parks := x.jobParks, heels := x.jobHeels } code addr idx x.jobCycles x.jobRan
    leaveJob c
    cascBoundary c
    if j.optimiser.isSome then optimiserEnded c j.seq r
    else
      match j.pair with
      | some n => pairEnd c n r
      | none => complete c r

/-! ## Teardown (R186, R187) -/

/-- A context's Gridder requests are cancelled; no result word is written (R295). -/
def cancelGrids (c : Nat) : Act Unit := do
  let s ← Act.get
  Act.make (.grid { s.grid with
    queue := s.grid.queue.filter (·.ctx ≠ c)
    subs := s.grid.subs.filter (·.2.1 ≠ c)
    running := s.grid.running.filter (·.ctx ≠ c) })

/-- The steps of a teardown: the kernel, the barges, the Locks, the KV pins, the pages; and with them what the other
blocks hold for the context. -/
def teardownSteps (c : Nat) : Act Unit := do
  let s ← Act.get
  let pins := ((s.ctx c).kern.map (·.pins)).getD []
  closeKernelTiles c false
  stopKernel c
  cancelBarges c
  poisonLocks c
  dropPins pins
  rewindQueues c
  cancelGrids c
  cancelPlans c
  releasePages c
  Act.modCtx c fun x => { x with swapped := [] }

/-- The current job may run again (R188). -/
def Context.mayRestart (x : Context) : Bool :=
  x.inJob && x.restarts < 2 && (x.jobs.head?.map (·.restartable)).getD false

/-- Queued jobs complete with CANCELLED when their context becomes TORN (R187). A pair's jobs go on in the other member, and
the torn one keeps those it may join in later (R191). -/
def cancelQueued (c : Nat) : Act Unit := do
  let s ← Act.get
  let keeps (j : Job) : Bool := j.pair.any fun n => s.runsPair (s.ctx c).desc.partner n
  let kept := (s.ctx c).jobs.filter keeps
  Act.modCtx c fun x => { x with jobs := x.jobs.filter (!keeps ·) }
  for _ in (s.ctx c).jobs.filter (!keeps ·) do endJob c Code.cancelled Block.col 0 0
  Act.modCtx c fun x => { x with jobs := kept }

/-- A torn member of a pair comes back: it joins in the jobs that the other has not begun (R191). -/
def rejoin (c : Nat) : Act Unit := do
  let s ← Act.get
  let o := s.ctx (s.ctx c).desc.partner
  let begun := if o.inJob then (o.jobs.head?.bind (·.pair)) else none
  Act.modCtx c fun x => { x with jobs := x.jobs.filter fun j => j.pair.isNone || j.pair ≠ begun }

/-- Teardown of a context after a fault: its job restarts, or ends with the fault's code and the context is TORN. A
member of a pair ends its own run of the job (R191). -/
def teardown (c : Nat) (code block addr idx : Nat) : Act Unit := do
  let s ← Act.get
  let x := s.ctx c
  if x.st ≠ .free ∧ x.st ≠ .torn then
    let again := x.mayRestart
    let paired := (x.jobs.head?.bind (·.pair)).isSome
    let inJob := x.inJob
    teardownSteps c
    if again then
      if paired then endJob c code block addr idx
      Act.modCtx c fun x => { x with st := .restarting }
    else
      Act.modCtx c fun x => { x with st := .torn }
      if inJob then endJob c code block addr idx
      cancelQueued c

/-- KILL: teardown with CANCELLED and no restart (Table 7.2). The job in progress is cancelled with the rest. -/
def killContext (c : Nat) : Act Unit := do
  let s ← Act.get
  teardownSteps c
  Act.modCtx c fun x => { x with st := .torn }
  if (s.ctx c).inJob then endJob c Code.cancelled Block.col 0 0
  cancelQueued c

/-- The codes that tear a context down (R186). -/
def Code.tears (code : Nat) : Bool := code = Code.faultXlat || code = Code.faultEcc || code = Code.unaligned

/-! ## Kernels end -/

/-- A failure of a part ends an attempt of a split request and lets it run once more (Table 9.4, R237). -/
def Code.retries (code : Nat) : Bool := code = Code.faultEcc || code = Code.faultUnit || code = Code.faultLink

/-- A split kernel's attempt has failed: its engines are free, and the kernel waits for its retry with its pins and views
(R189, R237). -/
def awaitRetry (c : Nat) : Act Unit := do
  let s ← Act.get
  for e in ((s.ctx c).kern.map (·.granted)).getD [] do freeEngine e
  dropDrains c
  dropKernelWaits c
  Act.modCtx c fun x => { x with
    st := .ready
    kern := x.kern.map fun k => { k with
      phase := .failed, engines := [], spare := [], saved := [], drained := [], heelAt := none, wait := none, flights := [],
      weirWaits := [], opened := [] } }

/-- A kernel loses a part to failure `part`. One that is no split request ends without teardown; a split one is recorded with
SPLIT_FAILED and run once more, and ends so after its retry (R39, R237). Where an engine or a module is `gone`, the job
that ends so restarts if it may (R189, R399). -/
def losePart (c : Nat) (gone : Bool) (part : Failure) : Act Unit := do
  chargeStalls c
  let s ← Act.get
  let x := s.ctx c
  match x.kern with
  | none => nothing
  | some k =>
    let j := x.jobs.head?
    let split := s.splits c k
    let f : Failure := if split then
        { part with code := Code.splitFailed, syn := pack [(part.code, 0), (part.block, 8)] }
      else part
    closeKernelTiles c false
    let idx ← failureRecord f c (512 + c) ((j.map (·.job)).getD 0) ((j.map (·.tag)).getD 0)
    if split && !k.retried then awaitRetry c
    else
      let again := gone && x.mayRestart
      if !again then kernelRecord c k f.code f.block f.addr idx
      stopKernel c
      orphanBarges c
      dropPins k.pins
      Act.modCtx c fun x => { x with st := if again then .restarting else .ready }
      if !again then endJob c f.code f.block f.addr idx

/-- A kernel ends in failure: its tiles close DEAD, its fault record, the teardown or the end of its job, and its records
(R173, R186, R235). -/
def endKernel (c : Nat) (f : Failure) : Act Unit := do
  chargeStalls c
  let s ← Act.get
  match (s.ctx c).kern with
  | none => nothing
  | some k =>
    let j := (s.ctx c).jobs.head?
    let again := Code.tears f.code && (s.ctx c).mayRestart
    closeKernelTiles c false
    let idx ← failureRecord f c (512 + c) ((j.map (·.job)).getD 0) ((j.map (·.tag)).getD 0)
    if !again then kernelRecord c k f.code f.block f.addr idx
    if Code.tears f.code then teardown c f.code f.block f.addr idx
    else
      stopKernel c
      orphanBarges c
      dropPins k.pins
      Act.modCtx c fun x => { x with st := .ready }
      endJob c f.code f.block f.addr idx

/-- A kernel's attempt fails: the part's failure is recorded and a split kernel retried (Table 9.4, R237); any other kernel
ends with the failure's code. -/
def failKernel (c : Nat) (f : Failure) : Act Unit := do
  let s ← Act.get
  match (s.ctx c).kern with
  | none => nothing
  | some k =>
    if s.splits c k && Code.retries f.code then
      let j := (s.ctx c).jobs.head?
      let _ ← failureRecord f c (512 + c) ((j.map (·.job)).getD 0) ((j.map (·.tag)).getD 0)
      let t ← Act.get
      losePart c false { f with link := t.faults.seq }
    else endKernel c f

/-- A kernel completes without failure: its tiles close LIVE, its record and, after the last, its job's (R81, R173). -/
def kernelOk (c : Nat) : Act Unit := do
  let s ← Act.get
  match (s.ctx c).kern, (s.ctx c).jobs.head? with
  | some k, some j =>
    let code := if k.okAtDeadline then Code.okAtDeadline else Code.ok
    closeKernelTiles c true
    kernelRecord c k code Block.col 0 0
    stopKernel c
    orphanBarges c
    dropPins k.pins
    Act.modCtx c fun x => { x with
      st := .ready, nextKern := x.nextKern + 1, jobOkDl := x.jobOkDl || k.okAtDeadline }
    let t ← Act.get
    if j.nkern ≤ (t.ctx c).nextKern then
      endJob c (if (t.ctx c).jobOkDl then Code.okAtDeadline else Code.ok) Block.col 0 0
  | _, _ => nothing

/-! ## The end of fabric work (R25, R464) -/

/-- All engines stop, and every context that runs a kernel is torn down with FAULT_LINK. The module leaves the MASK of
every cascade context (R476). -/
def endFabric (block link : Nat) : Act Unit := do
  let s ← Act.get
  if !s.fabricEnded then
    Act.make .fabricEnd
    for (c, x) in s.ctxs do
      chargeStalls c
      match ((← Act.get).ctx c).kern with
      | none => nothing
      | some k =>
        let j := x.jobs.head?
        closeKernelTiles c false
        let idx ← failureRecord { code := Code.faultLink, block, link } c (512 + c) ((j.map (·.job)).getD 0)
          ((j.map (·.tag)).getD 0)
        if !x.mayRestart then kernelRecord c k Code.faultLink block 0 idx
        teardown c Code.faultLink block 0 idx
    for e in List.range 8 do freeEngine e
    for (c, _) in s.casc.masks do
      if 2 ≤ ((List.range 4).filter (flag (s.casc.masks.at c 0))).length then leaveMask c s.casc.id

/-- Fewer units are left than Table 16.6 requires (R464). -/
def State.tooFew (s : State) : Bool :=
  s.live.isEmpty || ((List.range 96).filter (s.bitOf3 .pscLive)).length < 8 ||
  s.rf .faultRetUnits 0 21 20 = 3

/-- After a retirement: fabric work ends if too few units are left. -/
def checkUnits : Act Unit := do
  let s ← Act.get
  if s.tooFew then endFabric Block.sys noLink

end Sys2Proof.Machine
end

