-- ==== Sys2Proof/Machine/Barges.lean ====
section
/-!
DEFINITION. Sys2Proof/Machine/Barges.lean: what barges do (R217, R218, R228 to R237): the checks at issue, the
movement of one tile, the reformatter, success and failure. The commands are in Machine/BargeRows.lean.
-/
namespace Sys2Proof.Machine

/-! ## Accounts (R192) -/

/-- Account of bytes moved by the tier of an address: Basin, PSRAM, flash. -/
def tierAccount (pa : Nat) : Option Nat :=
  match regionAt pa with
  | some .basin => some 9
  | some .psram => some 10
  | some .flash => some 11
  | _ => none

/-- `n` bytes moved into or out of the tier of `pa` for a context. -/
def accountBytes (c pa n : Nat) : Act Unit := do
  match tierAccount pa with
  | some a => account c a n
  | none => nothing

/-! ## Endings (R218, R231, R237) -/

/-- DETAIL of a barge's record: the virtual address of the first destination tile (Table 1.10). The low bits of a DST of
another module name that module (Table 9.5). A Basin barge has no such address, and its DST is given (log entry 203). -/
def BDesc.firstTile (d : BDesc) : Nat := if d.dkind = 3 then d.dst / 65536 * 65536 else d.dst

/-- The record of a barge that ends, where KREC asks for one. Tiles moved are the descriptor's TILES after a success, the
destination tiles landed after a failure (log entry 203). -/
def bargeRecord (b : Barge) (code block addr idx : Nat) : Act Unit := do
  let s ← Act.get
  let d := b.desc
  if d.krec then
    complete b.ctx (CRec.detailed { s.record b.ctx code block 2 with
      tag := d.tag, job := (b.go.map (·.job)).getD 0, retried := b.retry && Code.good code
      engines := match b.go with
        | some g => if d.dkind = 1 then (engineMask ((g.engines[d.dst % 8]?).toList)).toNat else 0
        | none => 0
      modules := s.modules b.ctx, parks := b.parks }
      code addr idx d.firstTile (if Code.good code then d.tiles else b.landed.length))

/-- What a barge that has failed does to its kernel, its job or its context (R186, R231). -/
def bargeAftermath (b : Barge) (code block addr idx link : Nat) : Act Unit := do
  let s ← Act.get
  let x := s.ctx b.ctx
  match b.go, x.kern, x.jobs.head? with
  | some g, some _, some j =>
    if !b.orphan && j.seq = g.seq then endKernel b.ctx { code, block := Block.barge, atype := 1, addr, link }
    else if Code.tears code then teardown b.ctx code block addr idx
    else if j.seq = g.seq then Act.modCtx b.ctx fun x => { x with bargeFault := some (code, Block.barge, addr, idx) }
  | some g, none, some j =>
    if Code.tears code then teardown b.ctx code block addr idx
    else if j.seq = g.seq && x.started then
      Act.modCtx b.ctx fun x => { x with bargeFault := some (code, Block.barge, addr, idx) }
  | _, _, _ => if Code.tears code then teardown b.ctx code block addr idx

/-- A barge ends without success: its records, and what follows from them. -/
def endBarge (slot : Nat) (b : Barge) (f : Failure) : Act Unit := do
  let idx ← failureRecord f b.ctx slot ((b.go.map (·.job)).getD 0) b.desc.tag
  let s ← Act.get
  bargeRecord b f.code f.block f.addr idx
  dropBargeWait slot
  Act.make (.land slot)
  bargeAftermath b f.code f.block f.addr idx (if Code.recorded f.code then s.faults.seq else noLink)

/-- A part of an attempt fails (Table 9.4): its tiles close DEAD; a split is retried once after FAULT_ECC, FAULT_UNIT
or FAULT_LINK, and fails for good with SPLIT_FAILED. -/
def failBarge (slot : Nat) (f : Failure) : Act Unit := do
  let s ← Act.get
  match s.flying.find slot with
  | none => nothing
  | some b =>
    if !b.waiting && b.waitCode.isNone then closeBarge slot b false
    if b.desc.split && (f.code = Code.faultEcc || f.code = Code.faultUnit || f.code = Code.faultLink) then
      let job := (b.go.map (·.job)).getD 0
      let _ ← failureRecord f b.ctx slot job b.desc.tag
      let t ← Act.get
      let g : Failure := { code := Code.splitFailed, block := Block.barge, atype := 1, addr := b.desc.dst,
                           syn := f.code + 256 * f.block, link := t.faults.seq }
      if b.retry then endBarge slot b g
      else
        let _ ← failureRecord g b.ctx slot job b.desc.tag
        Act.make (.fly slot { b with failed := true, landed := [], parked := [], opened := [] })
    else endBarge slot b f

/-- Every destination tile has landed. -/
def Barge.whole (b : Barge) : Bool :=
  !b.waiting && b.waitCode.isNone && !b.failed && b.desc.dstTiles ≤ b.landed.length

/-- The Lock of a barge is one its context owns (R198). -/
def State.ownsLock (s : State) (c n : Nat) : Bool := (s.lockAt n).alloc && (s.lockAt n).owner = c

/-- The barge was issued by a kernel of the current job attempt (R205). -/
def State.ofAttempt (s : State) (b : Barge) : Bool :=
  let x := s.ctx b.ctx
  match b.go, x.jobs.head? with
  | some g, some j => j.seq = g.seq && g.attempt = x.restarts && x.started
  | _, _ => false

/-- A barge succeeds: its attempt closes LIVE, the ADD, the record (R231). -/
def bargeOk (slot : Nat) (b : Barge) : Act Unit := do
  closeBarge slot b true
  let s ← Act.get
  let d := b.desc
  if d.addEn && !(s.remote d) then lockAdd d.addLock d.addV (s.ofAttempt b)
  bargeRecord b (if b.okAtDeadline then Code.okAtDeadline else Code.ok) Block.barge 0 0
  Act.make (.land slot)

/-- A barge whose tiles have landed completes: one whose Lock its context owns no more fails with FAULT_XLAT (R198). -/
def finishBarge (slot : Nat) (b : Barge) : Act Unit := do
  let s ← Act.get
  let d := b.desc
  if d.addEn && !(s.remote d) && !s.ownsLock b.ctx d.addLock then
    failBarge slot { code := Code.faultXlat, block := Block.lock, atype := 2, addr := d.addLock }
  else bargeOk slot b

/-- TMO of a barge in flight expires (Table 9.4). -/
def timeOutBarge (slot : Nat) (b : Barge) : Act Unit := do
  if b.whole then finishBarge slot b
  else failBarge slot { code := Code.timeout, block := Block.barge, atype := 1, addr := b.desc.dst }

/-- The barges whose TMO expired while time passed end. -/
def expireBarges : Act Unit := do
  let s ← Act.get
  for (slot, b) in s.flying.filter fun e => s.late e.2.deadline do
    if b.waitCode.isNone then timeOutBarge slot b

/-! ## Issue (R228, R230, R232) -/

/-- The ranges of a page barge overlap: source and destination lie in this module's range. -/
def BDesc.overlaps (d : BDesc) (here : Bool) : Bool :=
  (d.dkind = 0 || (d.dkind = 3 && here)) && d.skind = 0 &&
  d.src < d.firstTile + d.dstTiles * 65536 && d.firstTile < d.src + d.srcTiles * 65536

/-- A reserved value, a misaligned address, a length that is not whole tiles, or a Basin barge past quarter 3. -/
def BDesc.malformed (d : BDesc) : Bool :=
  let p := planeBytes d.fmtOut d.elements
  let q := planeBytes d.fmtIn d.elements
  let b := d.factor
  d.reservedSet || 2 ≤ d.skind || d.rnd = 3 || Fmt.reserved d.fmtIn || Fmt.reserved d.fmtOut ||
  (d.skind = 0 && d.src % 65536 ≠ 0) || (d.dkind = 0 && d.dst % 65536 ≠ 0) || (d.dkind = 1 && 2 ^ 15 ≤ d.dst) ||
  (d.dkind = 2 && 16 ≤ d.dst) || (d.dkind = 3 && d.dst % 65536 / 4 ≠ 0) ||
  (d.conv && (d.tiles * 524288 % (32 * Fmt.bits d.fmtIn) ≠ 0 && (Fmt.isMx d.fmtIn || Fmt.isMx d.fmtOut) ||
    p.1 % 65536 ≠ 0 || p.2 % 65536 ≠ 0 || q.2 % 65536 ≠ 0 || d.tiles * 524288 % Fmt.bits d.fmtIn ≠ 0)) ||
  (d.regroup ≠ 0 && (d.regCe = 0 || 64 < d.regCe || d.regW = 0 || d.regH = 0 ||
    d.regW % b ≠ 0 || d.regH % b ≠ 0)) ||
  (d.dkind = 1 && 4 < d.dst / 2 ^ 13 % 4 + d.dstTiles)

/-- The checks at issue: the code of a refusal. -/
def State.bargeCheck (s : State) (b : Barge) : Option Nat :=
  let d := b.desc
  if d.malformed then some Code.unaligned
  else if d.overlaps !(s.remote d) || (d.dkind = 1 && (b.basinTiles 0).isEmpty) || d.dkind = 2 then some Code.faultXlat
  else if d.dkind = 3 && ((s.home b.ctx).isNone || !flag (s.casc.masks.at b.ctx 0) (d.dst % 4)) then some Code.faultXlat
  else if (d.waitEn && !s.ownsLock b.ctx d.waitLock) || (d.addEn && !s.remote d && !s.ownsLock b.ctx d.addLock) then
    some Code.faultXlat
  else none

/-- A barge takes its slot and its wait-table entry, and is checked; nothing moves when a check fails (R228, R232). -/
def issueBarge (slot : Nat) (b : Barge) : Act Unit := do
  let s ← Act.get
  let b := { b with deadline := s.deadline b.desc.tmo }
  Act.make (.fly slot b)
  match s.bargeCheck b with
  | some code => endBarge slot b { code, block := Block.barge, atype := 1, addr := b.desc.dst }
  | none =>
    if s.remote b.desc && !s.direct (b.desc.dst % 4) && !s.relayed (b.desc.dst % 4) then
      endBarge slot b { code := Code.faultLink, block := Block.towline (s.towlineTo (b.desc.dst % 4)) }
    else if b.desc.waitEn then
      Act.make (.fly slot { b with waiting := true })
      match ← issueWait { waiter := .barge slot, lock := b.desc.waitLock, target := b.desc.waitT, deadline := b.deadline } with
      | none => nothing
      | some code =>
        Act.make (.fly slot b)
        if !Code.good code then endBarge slot b { code, block := Block.lock, atype := 2, addr := b.desc.waitLock }

/-- The channel of a context's barges. -/
def channelFor (c : Nat) : Nat := if c = 1023 then 62 else c % 62

/-! ## Submission (R244) -/

/-- A submission is of a context that exists, and of a descriptor on a line. -/
def State.acceptable (s : State) (c va : Nat) : Bool := (s.ctx c).st ≠ .free && va % 64 = 0

/-- The descriptor of a submission is read and queued, or its failure is the status; false where the read parks. -/
def acceptBarge (who : Who) (c va : Nat) : Act Bool := do
  match ← readVa { ctx := c, stop := Stop.barge } va 64 with
  | .park => return false
  | .fail code _ _ _ _ =>
    Act.regField .bargeStatus who.val 7 0 code
    return true
  | .bytes b =>
    let s ← Act.get
    let n := channelFor c
    Act.make (.channel n (s.chanQueues.at n [] ++ [{ ctx := c, desc := BDesc.ofBytes b, who := some who }]))
    Act.regField .bargeStatus who.val 7 0 Code.ok
    return true

/-- Submissions whose descriptor's read had parked are taken where it parks no more (R216). -/
def settleSubmits : Act Unit := do
  let s ← Act.get
  for (who, c, va) in s.xlat.subs do
    if !(← wouldPark { ctx := c, stop := Stop.barge } va false) then
      let t ← Act.get
      Act.make (.xlat { t.xlat with subs := t.xlat.subs.erase (who, c, va) })
      if (t.ctx c).st = .free then Act.regField .bargeStatus who.val 7 0 Code.faultXlat
      else let _ ← acceptBarge who c va

/-! ## The reformatter (R229) -/

/-- Elements `first` to `first + count − 1` of the source as values; a source that is not MX has no scales. -/
def sourceValues (fmt first count : Nat) (elems scales : List Byte) : List (Nat × Num) :=
  let w := Fmt.bits fmt
  (List.range count).map fun i =>
    let x := unpackAt w elems (first % 8 + i)
    (x, if Fmt.isMx fmt then mxValue fmt x (natAt scales (i / 32) 1) else Fmt.decode fmt x)

/-- A run of converted elements: bits, the scale of each block of 32, and the counts by element or block. -/
structure Converted where
  bits : List Nat
  scales : List Nat
  sats : List Nat
  nans : List Nat
  deriving DecidableEq, Repr

/-- Converts a run that begins on a block. An MX element beyond the range of FP32 is held at its largest value with SAT, which
counts, and is an infinity without (R60; log entry 207). -/
def convertRun (d : BDesc) (draw first : Nat) (vs : List (Nat × Num)) (scales : List Byte) : Converted :=
  let r (i : Nat) := Config.reformatBits draw (first + i)
  if d.fmtIn = d.fmtOut then { bits := vs.map (·.1), scales := scales.map (·.toNat), sats := [], nans := [] }
  else if Fmt.isMx d.fmtOut && 4 ≤ d.fmtIn && d.fmtIn ≤ 6 then
    let bs := (List.range (vs.length / 32)).map fun k =>
      toMx d.fmtOut d.rnd d.sat ((List.range 32).map fun i => r (32 * k + i)) (((vs.drop (32 * k)).take 32).map (·.2))
    { bits := bs.flatMap (·.elems), scales := bs.map (·.scale), sats := bs.flatMap fun b => b.sat :: List.replicate 31 0,
      nans := bs.flatMap fun b => b.nan :: List.replicate 31 0 }
  else
    let cs : List Cv := vs.zipIdx.map fun (v, i) =>
      if Fmt.isMx d.fmtIn && d.fmtOut = Fmt.fp32 then v.2.toFp Fp.single d.rnd (r i) d.sat
      else if Fmt.isMx d.fmtIn || Fmt.isMx d.fmtOut then { bits := Config.otherConversion d.fmtIn d.fmtOut v.1 % 2 ^ Fmt.bits d.fmtOut }
      else convert d.fmtIn d.fmtOut d.rnd (r i) d.sat v.1
    { bits := cs.map (·.bits), scales := (List.range (cs.length / 32)).map fun k => Config.otherConversion d.fmtIn d.fmtOut k % 256,
      sats := cs.map (·.sat), nans := cs.map (·.nan) }

/-- Bytes of destination tile `i` of a regroup, from the source map (R124). -/
def regroupTile (d : BDesc) (src : List Byte) (i : Nat) : List Byte :=
  let a : Array Byte := src.toArray
  (List.range 65536).map fun k =>
    match d.regroupFrom (i * 65536 + k) with
    | some o => a.getD o 0
    | none => 0

/-- SAT and NaN counts of barge conversions: of an engine that the barge's context holds, else of ENG_0 (R60; log entry 60). -/
def countConversion (b : Barge) (sat nan : Nat) : Act Unit := do
  let s ← Act.get
  let e := (((s.ctx b.ctx).kern.bind fun k => k.engines.head?)).getD 0
  if sat ≠ 0 then Act.countSat .engSat e 31 0 sat
  if nan ≠ 0 then Act.countSat .engNan e 31 0 nan

/-- Reads `n` bytes of a barge's source at `va`: zeros for a zero fill. -/
def bargeRead (v : Via) (d : BDesc) (va n : Nat) : Act Got :=
  if d.skind = 1 then pure (.bytes (List.replicate n 0)) else readVa v va n

/-- Bytes of destination tile `i` of a barge that passes the reformatter. -/
def reformatTile (v : Via) (b : Barge) (i : Nat) : Act Got := do
  let d := b.desc
  if d.conv && d.regroup ≠ 0 then
    let n ← Act.draw
    return .bytes ((List.range 65536).map (Config.mixedByte n))
  else if d.regroup ≠ 0 then
    match ← bargeRead v d d.src d.regroupIn with
    | .bytes src => return .bytes (regroupTile d src i)
    | g => return g
  else
    let wi := Fmt.bits d.fmtIn
    let wo := Fmt.bits d.fmtOut
    let (lo, hi, inPlane) := d.elementsOf i
    let elems ← bargeRead v d (d.src + lo * wi / 8) ((hi - lo) * wi / 8)
    let scales ← if Fmt.isMx d.fmtIn then bargeRead v d (d.src + d.tiles * 65536 + lo / 32) ((hi - lo) / 32) else pure (.bytes [])
    match elems, scales with
    | .bytes es, .bytes ss =>
      let draw ← Act.draw
      let c := convertRun d draw lo (sourceValues d.fmtIn 0 (hi - lo) es ss) ss
      if inPlane then
        let mine := (List.range (hi - lo)).filter fun k => i * 524288 ≤ (lo + k) * wo && (lo + k) * wo < (i + 1) * 524288
        countConversion b (mine.map fun k => c.sats.getD k 0).sum (mine.map fun k => c.nans.getD k 0).sum
        let bits := natOf (packElems wo c.bits)
        return .bytes (bytesOf 65536 (bits / 2 ^ (i * 524288 - lo * wo)))
      else return .bytes (c.scales.map (BitVec.ofNat 8 ·))
    | .bytes _, g => return g
    | g, _ => return g

/-- Bytes of source page `p` that destination tile `i` takes: of a regroup, those that its map takes there. -/
def BDesc.takes (d : BDesc) (i p : Nat) : Nat :=
  if !d.conv && d.regroup ≠ 0 then
    ((List.range 65536).filter fun k => (d.regroupFrom (i * 65536 + k)).map (fun o => (d.src + o) / 65536) = some p).length
  else ((d.sourceSpans i).map fun x => min (x.1 + x.2) ((p + 1) * 65536) - max x.1 (p * 65536)).sum

/-- The bytes that a reformatted tile takes count to the tiers they come from (R192). -/
def accountSource (slot : Nat) (b : Barge) (i : Nat) : Act Unit := do
  for p in (b.desc.sourcePages i).dedup do
    match ← reachesPa (b.via slot) (p * 65536) false with
    | some pa => accountBytes b.ctx pa (b.desc.takes i p)
    | none => nothing

/-! ## One tile (R217) -/

/-- Where tile `i` is to be written: physical addresses, a park, or a failure. Every destination is judged and opened
before any byte moves. -/
def bargeTarget (v : Via) (b : Barge) (i : Nat) : Act (List Nat ⊕ Xl) := do
  let s ← Act.get
  if s.remote b.desc then return .inl []
  else if b.desc.dkind = 1 then
    let ts := b.basinTiles i
    match ts.findSome? fun pa => match s.tagOutcome v pa true with | .fail code => some code | _ => none with
    | some code => return .inr (.fail code Block.xlat 0 (ts.headD 0) 0)
    | none =>
      for pa in ts do let _ ← openForWrite v pa true
      return .inl ts
  else
    match ← translate v (b.desc.dstVa i) true with
    | .ok pa => return .inl [pa]
    | .zeros => return .inr (.xlat (b.desc.dstVa i))
    | x => return .inr x

/-- The source of plain tile `i`: its physical address where it has one of its own. -/
def bargeSource (v : Via) (b : Barge) (i : Nat) : Act Xl :=
  if b.desc.skind = 1 then pure .zeros else translate v (b.desc.src + i * 65536) false

def parkTile (slot i : Nat) : Act Unit := do
  let s ← Act.get
  match s.flying.find slot with
  | some b =>
    if !b.parked.contains i then
      Act.make (.fly slot { b with parked := b.parked ++ [i], parks := satInc 255 b.parks })
  | none => nothing

/-- Tile `i` has landed: the last one in the cycle of TMO ends the barge with OK_AT_DEADLINE (Table 9.4). -/
def landed (slot i : Nat) : Act Unit := do
  let s ← Act.get
  match s.flying.find slot with
  | some b =>
    let b := { b with parked := b.parked.erase i, landed := b.landed ++ [i] }
    Act.make (.fly slot { b with okAtDeadline := b.okAtDeadline || (b.whole && s.atDeadline b.deadline) })
  | none => nothing

def Xl.failure : Xl → Failure
  | .fail code block atype addr syn => { code, block, atype, addr, syn }
  | _ => { code := Code.faultXlat, block := Block.xlat }

/-- Writes the bytes of a tile to each of its places. -/
def bargeWrite (slot : Nat) (b : Barge) (i : Nat) (pas : List Nat) (bytes : List Byte) : Act Unit := do
  let mut code := Code.ok
  for pa in pas do
    accountBytes b.ctx pa 65536
    if code = Code.ok then code ← writeTier pa bytes
  let s ← Act.get
  if s.remote b.desc then account b.ctx 12 65536
  if code = Code.ok then landed slot i
  else
    let pa := pas.headD 0
    failBarge slot { code, block := if regionAt pa = some .flash then Block.ftl else Block.xlat, addr := pa, atype := 0 }

/-- Between PSRAM and Basin a tile moves with its check bits unchanged (R455). -/
def inTier (pa : Nat) : Bool := regionAt pa = some .basin || regionAt pa = some .psram

/-- A plain tile moves; one served from its copy takes fresh check bits (R239). -/
def plainTile (slot : Nat) (b : Barge) (i : Nat) (pas : List Nat) (src : Xl) : Act Unit := do
  match src with
  | .ok pa =>
    let (bytes, hit, copied) ← readCopy pa 65536
    match hit with
    | some (a, syn) =>
      let s ← Act.get
      failBarge slot { code := Code.faultEcc, block := s.eccBlock a, atype := 0, addr := a, syn }
    | none =>
      accountBytes b.ctx pa 65536
      let s ← Act.get
      if inTier pa && pas.all inTier && !copied then
        for d in pas do
          accountBytes b.ctx d 65536
          copyPhys pa d 65536
        if s.remote b.desc then account b.ctx 12 65536
        landed slot i
      else bargeWrite slot b i pas bytes
  | _ => bargeWrite slot b i pas (List.replicate 65536 0)

/-- A barge of two or more tiles has a destination tile in slice SRAM, which accepts none (R251). -/
def slicesMany (slot : Nat) (b : Barge) (i : Nat) : Act Bool := do
  if 2 ≤ b.desc.dstTiles then return ((← bargeDst slot b i).getD []).any fun pa => regionAt pa = some .slice
  else return false

/-- One tile of a barge is translated, source and destination, and moves whole, parks or fails. -/
def landTile (slot i : Nat) : Act Unit := do
  let s ← Act.get
  match s.flying.find slot with
  | none => nothing
  | some b =>
    let v := b.via slot
    if b.waiting || b.waitCode.isSome || b.failed || b.desc.dstTiles ≤ i || b.landed.contains i then nothing
    else if (← bargeSrc slot b i).any s.retraining then nothing
    else if ← slicesMany slot b i then failBarge slot (Xl.xlat (b.desc.dstVa i)).failure
    else if b.desc.conv || b.desc.regroup ≠ 0 then
      match ← reformatTile v b i with
      | .park => parkTile slot i
      | .fail code block atype addr syn => failBarge slot { code, block, atype, addr, syn }
      | .bytes bytes =>
        match ← bargeTarget v b i with
        | .inr .park => parkTile slot i
        | .inr x => failBarge slot x.failure
        | .inl pas =>
          if !(pas.any s.retraining) then
            accountSource slot b i
            bargeWrite slot b i pas bytes
    else
      match ← bargeSource v b i with
      | .park => parkTile slot i
      | .fail code block atype addr syn => failBarge slot { code, block, atype, addr, syn }
      | src =>
        match ← bargeTarget v b i with
        | .inr .park => parkTile slot i
        | .inr x => failBarge slot x.failure
        | .inl pas =>
          if !(pas.any s.retraining) then plainTile slot b i pas src

/-- Barges whose wait ended in failure end with its code, nothing moved (R232). -/
def settleBarges : Act Unit := do
  let s ← Act.get
  for (slot, b) in s.flying do
    match b.waitCode with
    | some code =>
      let t ← Act.get
      if (t.flying.find slot).isSome then
        endBarge slot b { code, block := Block.lock, atype := 2, addr := b.desc.waitLock }
    | none => nothing

end Sys2Proof.Machine
end

