-- ==== Sys2Proof/Machine/Contexts.lean ====
section
/-!
DEFINITION. Sys2Proof/Machine/Contexts.lean: the context commands (R167 to R171), jobs and doorbells (R172 to R174),
COL_SEL and the accounts (R192, R193), restarts (R188).
-/
namespace Sys2Proof.Machine

/-! ## Descriptors (Table 7.1) -/

def Desc.ofBytes (b : List Byte) : Desc :=
  let w : Word := Word.ofNat (natAt b 0 4)
  { cls := field w 3 1, paired := flag w 4, partner := field w 14 5, primary := flag w 15, kspan := field w 19 16,
    ringK := field w 24 20, subqK := field w 28 25, weight := natAt b 4 2, stallUs := natAt b 6 2,
    ptRoot := natAt b 8 6, kennel := natAt b 0x10 6, ringVa := natAt b 0x18 6, subqVa := natAt b 0x20 6,
    viewVa := natAt b 0x28 6, seed := Word.ofNat (natAt b 0x30 4) }

/-- VALID is set, every field is in range and no reserved bit of bytes 0x00–0x3F is set. -/
def descInRange (b : List Byte) (d : Desc) : Bool :=
  natAt b 0 1 % 2 = 1 && natAt b 0 4 / 2 ^ 29 = 0 && natAt b 0x0E 2 = 0 && natAt b 0x16 2 = 0 && natAt b 0x1E 2 = 0 &&
  natAt b 0x26 2 = 0 && natAt b 0x2E 2 = 0 && natAt b 0x34 12 = 0 &&
  1 ≤ d.kspan && d.kspan ≤ 8 && 6 ≤ d.ringK && d.ringK ≤ 16 && d.weight ≠ 0 && (!d.paired || d.cls = 1) &&
  (if d.cls = 0 then d.subqK = 0 else 4 ≤ d.subqK && d.subqK ≤ 12)

def Desc.aligned (d : Desc) : Bool :=
  d.ptRoot % 512 = 0 && d.kennel % 65536 = 0 && d.ringVa % 64 = 0 && d.subqVa % 64 = 0

/-- The descriptor table's address. -/
def State.descBase (s : State) : Nat := (s.rg .colDescLo).toNat + s.rf .colDescHi 0 15 0 * 2 ^ 32

/-- Reads descriptor `c`: the bytes, or the code of the refusal. -/
def readDesc (c : Nat) : Act (List Byte ⊕ Nat) := do
  let s ← Act.get
  let r := regionAt s.descBase
  if r ≠ some .basin ∧ r ≠ some .psram then return .inr Code.faultXlat
  else
    match ← readTier (s.descBase + c * 128) 128 with
    | (_, some _) => return .inr Code.faultEcc
    | (b, none) => return .inl b

/-- The pair is pairMutual: both name each other, both class 1, exactly one PRIMARY (R190). -/
def pairMutual (c : Nat) (d : Desc) : Act Bool := do
  if !d.paired then return true
  else if d.partner = c then return false
  else
    let s ← Act.get
    let p := s.ctx d.partner
    let q ← if p.st ≠ .free then pure (some p.desc)
      else match ← readDesc d.partner with
        | .inl b => pure (some (Desc.ofBytes b))
        | .inr _ => pure none
    return match q with
      | some e => e.paired && e.partner = c && e.cls = 1 && e.primary != d.primary
      | none => false

/-- The tiles of R169 that CREATE resolves through the new page-table root: completion ring, submission ring, view
table. -/
def resolveTiles (c : Nat) (d : Desc) : Act (Option (List Nat × List Nat × List Nat)) := do
  match ← pinnedTiles c d.ringVa (32 * 2 ^ d.ringK) with
  | none => return none
  | some r =>
    let q ← if d.cls = 0 then pure (some []) else pinnedTiles c d.subqVa (64 * 2 ^ d.subqK)
    let v ← if d.viewVa = 0 then pure (some []) else pinnedTiles c d.viewVa 2048
    return match q, v with
      | some q, some v => some (r, q, v)
      | _, _ => none

/-- CREATE (R169, R171): the refusals in the manual's order, then the context is READY with zero accounts. -/
def createContext (c : Nat) : Act Nat := do
  match ← readDesc c with
  | .inr code => return code
  | .inl b =>
    let d := Desc.ofBytes b
    if !descInRange b d then return Code.faultXlat
    else if !d.aligned then return Code.unaligned
    else
      let s ← Act.get
      if regionAt d.kennel ≠ some .psram || !s.regionPinned d.kennel ((97 * d.kspan + 1) * 65536) then
        return Code.faultXlat
      else
        Act.modCtx c fun _ => { desc := d }
        let tiles ← resolveTiles c d
        let pair ← pairMutual c d
        match tiles, pair with
        | some (r, q, v), true =>
          Act.modCtx c fun _ => { st := .ready, desc := d, ringTiles := r, subqTiles := q, viewTiles := v }
          return Code.ok
        | _, _ =>
          dropEntries (some c) none
          Act.modCtx c fun _ => s.ctx c
          return Code.faultXlat

/-- DESTROY (R171, R286): the Collie's hold ends and the context is FREE; its accounts stay until CREATE zeroes them (R192).
A member of a pair leaves the pair's jobs to the other: one that the other has failed ends with its record. -/
def destroyContext (c : Nat) : Act Unit := do
  let s ← Act.get
  cancelBarges c
  cancelGrids c
  cancelPlans c
  disownQueues c
  let o := (s.ctx c).desc.partner
  for j in (s.ctx c).jobs do
    match (s.ctx o).pairFails.find? fun p => j.pair = some p.1 with
    | some (n, r) =>
      Act.modCtx o fun x => { x with pairFails := x.pairFails.filter (·.1 ≠ n) }
      if (s.ctx o).desc.primary then complete o r
    | none => nothing
  dropEntries (some c) none
  Act.modCtx c fun x => { accts := x.accts, activity := x.activity }

/-- Asks for a heel: engines below step 8, or asked to go there, are raised to it, one step at a time (R180). -/
def requestHeel (c : Nat) : Act Unit := do
  let s ← Act.get
  match (s.ctx c).kern with
  | some k =>
    if k.heelAt.isNone then
      Act.modKernel c fun k => { k with heelAt := some s.ns }
      for e in k.engines do
        if s.rf .engFclk e 4 0 < 8 || s.target e < 8 then
          let t ← Act.get
          Act.make (.therm { t.therm with heelRaise := t.therm.heelRaise ||| engineMask [e] })
          setTarget e (s.target e)
  | none => nothing

/-- A command of Table 7.2. -/
def contextCommand (op c : Nat) : Act Nat := do
  let s ← Act.get
  let st := (s.ctx c).st
  match op with
  | 1 => if st = .free then createContext c else return Code.faultXlat
  | 2 =>
    if st = .ready ∨ st = .torn then
      destroyContext c
      return Code.ok
    else return Code.faultXlat
  | 3 =>
    if st = .free then return Code.faultXlat
    else
      if (s.ctx c).desc.cls = 0 then killLeashes c
      killContext c
      return Code.ok
  | 4 =>
    if st = .torn then
      clearPoison c
      rejoin c
      Act.modCtx c fun x => { x with st := .ready }
      return Code.ok
    else return Code.faultXlat
  | 5 =>
    if st = .running then
      requestHeel c
      return Code.ok
    else return Code.faultXlat
  | _ => return Code.faultXlat

/-- A write of COL_CMD. OP 0 does nothing. -/
def colCommand (op c : Nat) : Act Nat := do
  if op ≠ 0 then
    let code ← contextCommand op c
    Act.reg .colCmdStatus 0 (Word.ofNat (pack [(code, 0), (c, 16)]))
  return Code.ok

/-- CREATE (R171). -/
def execCtxCreate (who : Who) (c : Ctx) (s : State) : Host.Outcome State Fault Refusal :=
  Act.outcome (command who .colCmd 0 (colCommand 1 (c % 1024))) s

/-- DESTROY (R171). -/
def execCtxDestroy (who : Who) (c : Ctx) (s : State) : Host.Outcome State Fault Refusal :=
  Act.outcome (command who .colCmd 0 (colCommand 2 (c % 1024))) s

/-- REOPEN (R171, R206). -/
def execCtxReopen (who : Who) (c : Ctx) (s : State) : Host.Outcome State Fault Refusal :=
  Act.outcome (command who .colCmd 0 (colCommand 4 (c % 1024))) s

/-- HEEL (R171, R180). -/
def execCtxHeel (who : Who) (c : Ctx) (s : State) : Host.Outcome State Fault Refusal :=
  Act.outcome (command who .colCmd 0 (colCommand 5 (c % 1024))) s

/-! ## Jobs (R172, R174, R190) -/

def Job.ofBytes (b : List Byte) (seq : Nat) : Job :=
  let w : Word := Word.ofNat (natAt b 4 4)
  { tag := Word.ofNat (natAt b 0 4), job := field w 15 0, nkern := max 1 (field w 23 16), restartable := flag w 24,
    krec := flag w 25, deadline := natAt b 8 8, klist := natAt b 0x10 6, seq }

/-- The context's jobs are its pair's: the other member queues them too, and runs those it may when their turn comes (R190,
R191). -/
def State.pairs (s : State) (c : Nat) : Bool :=
  let x := s.ctx c
  let p := s.ctx x.desc.partner
  x.desc.paired && p.desc.paired && p.desc.partner = c && p.st ≠ .free

/-- The Collie reads one job record, in ring order, and queues its job with the streams then excluded, in both members of a
pair alike (R478): answers whether it could. -/
def readJob (c : Nat) : Act Bool := do
  let s ← Act.get
  let x := s.ctx c
  let off := x.desc.subqVa % 65536 + x.rd % 2 ^ x.desc.subqK * 64
  match x.subqTiles[off / 65536]? with
  | none => return false
  | some t =>
    match ← readTier (t + off % 65536) 64 with
    | (_, some _) => return false
    | (b, none) =>
      let pair := if s.pairs c then some x.rd else none
      let j := { Job.ofBytes b x.rd with pair, excl := s.rg .gridExclHi ++ s.rg .gridExclLo }
      Act.modCtx c fun x => { x with rd := (x.rd + 1) % 65536, jobs := x.jobs ++ [j] }
      if pair.isSome then Act.modCtx x.desc.partner fun p => { p with jobs := p.jobs ++ [j] }
      if s.modules c ≠ 0 then
        let u ← Act.get
        Act.make (.casc { u.casc with copies := u.casc.copies.put c (u.casc.copies.at c [] ++ [j]) })
      return true

/-- Reads the records the doorbells cover, at most `n`. -/
def readJobs (c : Nat) : Nat → Act Unit
  | 0 => nothing
  | n + 1 => do
    let s ← Act.get
    if (s.ctx c).rd ≠ (s.ctx c).prod then
      if ← readJob c then readJobs c n

/-- A doorbell is discarded and counted, or moves PROD (R174). A cascade context takes doorbells at HOME alone (R398). -/
def ringDoorbell (c index : Nat) : Act Nat := do
  let s ← Act.get
  let x := s.ctx c
  let i := index % 65536
  let away : Bool := (s.home c).any fun h => h ≠ s.casc.id
  if x.st = .free || x.desc.cls = 0 || (x.desc.paired && !x.desc.primary) || away ||
     2 ^ 15 ≤ (i + 65536 - x.prod) % 65536 || 2 ^ x.desc.subqK < (i + 65536 - x.rd) % 65536 then
    Act.countSat .colDropped 0 31 0
  else
    Act.modCtx c fun x => { x with prod := i }
    readJobs c 4096
  return Code.ok

/-- DOORBELL (R172, R174). -/
def execDoorbell (who : Who) (c : Ctx) (index : Nat) (s : State) : Host.Outcome State Fault Refusal :=
  Act.outcome (command who .colDoorbell 0 (ringDoorbell (c % 1024) index)) s

/-- A write of COL_CONS: a consumer index that passes the write index is discarded and counted. Both differences are
modulo 65,536, that of a full ring of 65,536 records too (R174). -/
def consumeRing (c index : Nat) : Act Nat := do
  let s ← Act.get
  let r := (s.ctx c).ring
  let d := (index % 65536 + 65536 - r.cons % 65536) % 65536
  if (r.wr - r.cons) % 65536 < d then Act.countSat .colDropped 0 31 0
  else Act.modCtx c fun x => { x with ring := { x.ring with cons := x.ring.cons + d } }
  return Code.ok

/-- COL_CONS (R36, R174). -/
def execColCons (who : Who) (c : Ctx) (index : Nat) (s : State) : Host.Outcome State Fault Refusal :=
  Act.outcome (command who .colCons 0 (consumeRing (c % 1024) index)) s

/-! ## COL_SEL (Tables 7.14 to 7.16) -/

def CtxState.code : CtxState → Nat
  | .free => 0
  | .ready => 1
  | .running => 2
  | .heeled => 3
  | .restoring => 4
  | .torn => 5
  | .restarting => 6

/-- COL_CTX_STATE of a context. -/
def Context.stateWord (x : Context) : Word :=
  let full := x.st ≠ .free && (x.ring.isFull x.desc.ringK || !x.ring.held.isEmpty)
  let engines := (x.kern.map fun k => (engineMask k.granted).toNat).getD 0
  Word.ofNat (pack [(x.st.code, 0), (b2n full, 3), (x.restarts, 4), (engines, 6), (x.ring.cons % 65536, 16)])

/-- A write of COL_SEL latches the state and every account. -/
def selectContext (value : Word) : Act Nat := do
  let s ← Act.get
  let n := field value 10 0
  Act.reg .colSel 0 (value &&& 0x7FF)
  if n < 1024 then Act.make (.select (s.ctx n).stateWord (s.ctx n).accts)
  else Act.make (.select 0 (if n = 1024 then s.residual else []))
  return Code.ok

/-- COL_SEL (R194). -/
def execColSel (who : Who) (value : Word) (s : State) : Host.Outcome State Fault Refusal :=
  Act.outcome (command who .colSel 0 (selectContext value)) s

/-- What the latched registers read. -/
def State.colReads (s : State) (r : Reg) (i : Nat) : Option Word :=
  match r with
  | .colCtxState => some s.selState
  | .colAcctLo => some (Word.ofNat (s.selAccts.at i 0))
  | .colAcctHi => some (Word.ofNat (s.selAccts.at i 0 / 2 ^ 32))
  | _ => none

/-! ## Accounts (R192, R193) -/

/-- The energy in µJ that a context's activity explains, by the interval's coefficients (R193). -/
def Context.energy (x : Context) (interval : Nat) : Nat :=
  (x.activity.map fun a => a.2 * Config.energyWeight a.1 interval).sum / 2 ^ 32

/-- ENERGY_RESCALE: over a calibration interval each context is charged the energy its activity explains, and the
residual account the rest, so that together they are what was measured (R193). -/
def execEnergyRescale (measuredUj : Nat) (s : State) : Host.Outcome State Fault Refusal :=
  Act.outcome (do
    let t ← Act.get
    let mut left := measuredUj
    for (c, x) in t.ctxs do
      if !x.activity.isEmpty then
        let e := min left (x.energy t.therm.interval)
        account c 13 e
        Act.modCtx c fun x => { x with activity := [] }
        left := left - e
    let u ← Act.get
    Act.make (.residual 13 ((u.residual.at 13 0 + left) % 2 ^ 64))
    Act.make (.therm { u.therm with interval := u.therm.interval + 1, measuredUj })) s

/-! ## Restarts (R188, R206, R286) -/

/-- JOB_RESTART: the job runs again from its first kernel. -/
def execJobRestart (c : Ctx) (s : State) : Host.Outcome State Fault Refusal :=
  Act.outcome (do
    let t ← Act.get
    if (t.ctx c).st = .restarting then
      rollbackLocks c
      rewindQueues c
      Act.modCtx c fun x => { x with
        st := .ready, nextKern := 0, restarts := if x.started then x.restarts + 1 else x.restarts, started := false,
        bargeFault := none, jobOkDl := false }) s

end Sys2Proof.Machine
end

