-- ==== Sys2Proof/Machine/Geometry.lean ====
section
/-!
DEFINITION. Sys2Proof/Machine/Geometry.lean: where a machine's primitives lie, and what of the world they meet (R317,
R321 to R323). A check answers clear or hit where R323 forces the answer, and leaves it open between (log entry 51).
-/
namespace Sys2Proof.Machine

/-! ## Points, frames and shapes -/

structure V3 where
  x : Fx
  y : Fx
  z : Fx
  deriving DecidableEq, Repr

def V3.add (a b : V3) : V3 := ⟨a.x + b.x, a.y + b.y, a.z + b.z⟩
def V3.sub (a b : V3) : V3 := ⟨a.x - b.x, a.y - b.y, a.z - b.z⟩
def V3.scale (k : Fx) (a : V3) : V3 := ⟨Fx.mul k a.x, Fx.mul k a.y, Fx.mul k a.z⟩
def V3.dot (a b : V3) : Fx := Fx.mul a.x b.x + Fx.mul a.y b.y + Fx.mul a.z b.z
def V3.length (a : V3) : Fx := Fx.sqrt (V3.dot a a)

/-- A point and three unit axes. -/
structure Placing where
  o : V3
  a : V3
  b : V3
  c : V3
  deriving DecidableEq, Repr

/-- The point at coordinates `v` of a frame. -/
def Placing.point (f : Placing) (v : V3) : V3 :=
  V3.add f.o (V3.add (V3.scale v.x f.a) (V3.add (V3.scale v.y f.b) (V3.scale v.z f.c)))

/-- A direction of a frame. -/
def Placing.turn (f : Placing) (v : V3) : V3 := V3.sub (f.point v) f.o

/-- A frame given in another. -/
def Placing.within (f g : Placing) : Placing := ⟨f.point g.o, f.turn g.a, f.turn g.b, f.turn g.c⟩

def Placing.at (o : V3) : Placing := ⟨o, ⟨Fx.one, 0, 0⟩, ⟨0, Fx.one, 0⟩, ⟨0, 0, Fx.one⟩⟩

/-- A turn by angle `t` about an axis: 0 yaw, 1 pitch, 2 roll. -/
def Placing.turned (axis : Nat) (t : Fx) : Placing :=
  let s := Fx.sine t 0
  let c := Fx.sine t 1
  match axis with
  | 0 => { Placing.at ⟨0, 0, 0⟩ with a := ⟨c, s, 0⟩, b := ⟨-s, c, 0⟩ }
  | 1 => { Placing.at ⟨0, 0, 0⟩ with a := ⟨c, 0, -s⟩, c := ⟨s, 0, c⟩ }
  | _ => { Placing.at ⟨0, 0, 0⟩ with b := ⟨0, c, s⟩, c := ⟨0, -s, c⟩ }

/-- A convex shape: a box of half-extents along a frame's axes, or the points within `r` of a segment. -/
inductive Shape where
  | box (f : Placing) (h : V3)
  | capsule (p q : V3) (r : Fx)
  deriving DecidableEq, Repr

/-- An axis-aligned box. -/
structure Cube where
  lo : V3
  hi : V3
  deriving DecidableEq, Repr

def Fx.clip (lo hi x : Fx) : Fx := max lo (min hi x)

/-- The point of a cube nearest to another. -/
def Cube.nearest (c : Cube) (p : V3) : V3 :=
  ⟨Fx.clip c.lo.x c.hi.x p.x, Fx.clip c.lo.y c.hi.y p.y, Fx.clip c.lo.z c.hi.z p.z⟩

/-- The point of a shape's core, its box or its segment, nearest to another. -/
def Shape.nearest (s : Shape) (p : V3) : V3 :=
  match s with
  | .box f h =>
    let d := V3.sub p f.o
    f.point ⟨Fx.clip (-h.x) h.x (V3.dot d f.a), Fx.clip (-h.y) h.y (V3.dot d f.b), Fx.clip (-h.z) h.z (V3.dot d f.c)⟩
  | .capsule a b _ =>
    let u := V3.sub b a
    let n := V3.dot u u
    if n = 0 then a else V3.add a (V3.scale (Fx.clip 0 Fx.one (Fx.quot (V3.dot (V3.sub p a) u) n)) u)

/-- How far a shape reaches beyond its core. -/
def Shape.radius : Shape → Fx
  | .box _ _ => 0
  | .capsule _ _ r => r

def Shape.centre : Shape → V3
  | .box f _ => f.o
  | .capsule a b _ => V3.scale (Fx.one / 2) (V3.add a b)

/-- The least value of a direction over a shape. -/
def Shape.least (s : Shape) (n : V3) : Fx :=
  match s with
  | .box f h => V3.dot n f.o - (Fx.mul h.x (V3.dot n f.a).natAbs + Fx.mul h.y (V3.dot n f.b).natAbs +
      Fx.mul h.z (V3.dot n f.c).natAbs)
  | .capsule a b r => min (V3.dot n a) (V3.dot n b) - r

/-- The smallest axis-aligned box around a shape. -/
def Shape.around (s : Shape) : Cube :=
  let e (v : V3) : Fx := s.least v
  { lo := ⟨e ⟨Fx.one, 0, 0⟩, e ⟨0, Fx.one, 0⟩, e ⟨0, 0, Fx.one⟩⟩
    hi := ⟨-e ⟨-Fx.one, 0, 0⟩, -e ⟨0, -Fx.one, 0⟩, -e ⟨0, 0, -Fx.one⟩⟩ }

/-- Two axis-aligned boxes come within `d` of each other along every axis. -/
def Cube.meets (c b : Cube) (d : Fx) : Bool :=
  c.lo.x - d ≤ b.hi.x && b.lo.x ≤ c.hi.x + d && c.lo.y - d ≤ b.hi.y && b.lo.y ≤ c.hi.y + d &&
  c.lo.z - d ≤ b.hi.z && b.lo.z ≤ c.hi.z + d

/-- What is sure of a check. -/
inductive Verdict where
  | clear | unsure | hit
  deriving DecidableEq, Repr

def Verdict.or : Verdict → Verdict → Verdict
  | .hit, _ | _, .hit => .hit
  | .unsure, _ | _, .unsure => .unsure
  | .clear, .clear => .clear

/-- Nearest points of a shape's core and a cube, each in turn the nearest to the other. -/
def Shape.approach (s : Shape) (c : Cube) : Nat → V3 → V3 × V3
  | 0, p => (p, s.nearest p)
  | n + 1, p => s.approach c n (c.nearest (s.nearest p))

/-- A shape and a cube: they meet, or a plane keeps them more than `gap` apart, or neither is found. -/
def Shape.against (s : Shape) (c : Cube) (gap : Fx) : Verdict :=
  let (p, q) := s.approach c 12 (c.nearest s.centre)
  let d := V3.length (V3.sub q p)
  if d ≤ s.radius + 2 ^ 196 then .hit
  else
    let u := V3.scale (Fx.quot Fx.one d) (V3.sub q p)
    let top := max (Fx.mul u.x c.lo.x) (Fx.mul u.x c.hi.x) + max (Fx.mul u.y c.lo.y) (Fx.mul u.y c.hi.y) +
      max (Fx.mul u.z c.lo.z) (Fx.mul u.z c.hi.z)
    if gap < s.least u - top then .clear else .unsure

/-! ## Poses (R321, R322) -/

/-- Where the machine is: x, y, yaw, and joints 1 to 7. -/
structure Pose where
  x : Fx
  y : Fx
  yaw : Fx
  joints : List Fx
  deriving DecidableEq, Repr

/-- The value of an FP32 word; one that is not finite has none, and a free one stands for it. -/
def fxOf (w : Word) : Fx := if field w 30 23 = 255 then Config.oddValue w else Fx.ofWord w

/-- The pose of a trajectory sample of 16 words. -/
def Pose.of (l : List Word) : Pose :=
  let ch (i : Nat) : Fx := fxOf (l.getD i 0)
  { x := ch 0, y := ch 1, yaw := ch 2, joints := (List.range 7).map fun k => ch (5 + k) }

/-- An angle between −π and π. -/
def Fx.wrap (t : Fx) : Fx := t - (2 * t + 2 * Fx.pi) / (4 * Fx.pi) * (2 * Fx.pi)

/-- The pose at `k`/`n` of the way from one to another. -/
def Pose.between (a b : Pose) (k n : Int) : Pose :=
  let mid (u v : Fx) : Fx := u + (v - u) * k / n
  { x := mid a.x b.x, y := mid a.y b.y, yaw := a.yaw + Fx.wrap (b.yaw - a.yaw) * k / n
    joints := (a.joints.zip b.joints).map fun j => mid j.1 j.2 }

/-- A swept-volume model: primitive and link records (Table 13.3). -/
structure Model where
  prims : List (List Byte)
  links : List (List Byte)
  deriving DecidableEq, Repr

/-- The FP32 value at a byte of a record. -/
def fxAt (b : List Byte) (o : Nat) : Fx := fxOf (Word.ofNat (natAt b o 4))
def v3At (b : List Byte) (o : Nat) : V3 := ⟨fxAt b o, fxAt b (o + 4), fxAt b (o + 8)⟩

def recordCtl (b : List Byte) : Word := Word.ofNat (natAt b 0 4)

/-- Link frames in number order, from the body's on: the parent's, the mount, and the joint's motion along its axis. -/
def Model.frames (m : Model) (p : Pose) : List Placing :=
  m.links.zipIdx.foldl (fun fs (l, i) =>
    let c := recordCtl l
    let q := p.joints.getD i 0
    let motion := if field c 4 3 = 3 then Placing.at ⟨q, 0, 0⟩ else Placing.turned (field c 4 3) q
    let mount := (Placing.at (v3At l 4)).within (Placing.turned 0 (fxAt l 0x10))
    let parent := fs.getD (field c 2 0) (Placing.at ⟨0, 0, 0⟩)
    fs ++ [(parent.within mount).within motion])
    [(Placing.at ⟨p.x, p.y, 0⟩).within (Placing.turned 0 p.yaw)]

/-- The link a primitive belongs to. -/
def primLink (b : List Byte) : Nat := field (recordCtl b) 3 1

/-- A primitive in the map frame. -/
def primShape (fs : List Placing) (b : List Byte) : Shape :=
  let f := fs.getD (primLink b) (Placing.at ⟨0, 0, 0⟩)
  if flag (recordCtl b) 0 then .capsule (f.point (v3At b 4)) (f.point (v3At b 0x10)) (fxAt b 0x1C)
  else .box ((f.within (Placing.at (v3At b 4))).within (Placing.turned 0 (fxAt b 0x1C))) (v3At b 0x10)

/-- A shape's projection on the ground, as a shape about height 0. -/
def Shape.flat : Shape → Shape
  | .box f h => .box { f with o := { f.o with z := 0 } } { h with z := Fx.one }
  | .capsule p q r => .capsule { p with z := 0 } { q with z := 0 } r

/-- A length that no point of the machine lies beyond from the body's origin, at two poses and between them. -/
def Model.span (m : Model) (a b : Pose) : Fx :=
  let slide := ((a.joints ++ b.joints).map fun q : Fx => (q.natAbs : Int)).sum
  let one (l : List Byte) (os : List Nat) : Fx := (os.map fun o => ((fxAt l o).natAbs : Int)).sum
  slide + (m.links.map fun l => one l [4, 8, 12]).sum + (m.prims.map fun l => one l [4, 8, 12, 0x10, 0x14, 0x18, 0x1C]).foldl max 0

/-- Steps from pose to pose in which no point of the machine moves more than 0.025 m. -/
def Model.steps (m : Model) (a b : Pose) : Nat :=
  let turn := ((Fx.wrap (b.yaw - a.yaw)).natAbs : Int) + ((a.joints.zip b.joints).map fun j : Fx × Fx => ((j.2 - j.1).natAbs : Int)).sum
  let move := ((b.x - a.x).natAbs : Int) + ((b.y - a.y).natAbs : Int) + Fx.mul turn (m.span a b + Fx.one)
  (move * 40 / Fx.one).toNat + 1

/-- The poses of a leg, its end included. -/
def Model.stops (m : Model) (a b : Pose) : List Pose :=
  let n := m.steps a b
  (List.range (n + 1)).map fun k => a.between b k n

/-! ## The voxel tree (R318, R323) -/

/-- A uniform state that blocks a path. -/
def blocks (unk : Bool) (st : Nat) : Bool := st = 1 || (unk && st = 2)

/-- Metres as multiples of 2^−256, of a coordinate in units of 2^−149 / 5 m, and back as a box's bound. -/
def unitsFx (u : Int) : Fx := u * 2 ^ 107 / 5
def fxUnits (x : Fx) : Int := x * 5 / 2 ^ 107

def Box.cube (b : Box) : Cube :=
  { lo := ⟨unitsFx (Box.lo b 0), unitsFx (Box.lo b 1), unitsFx (Box.lo b 2)⟩
    hi := ⟨unitsFx (Box.hi b 0), unitsFx (Box.hi b 1), unitsFx (Box.hi b 2)⟩ }

/-- A shape against the blocking cubes of the tree: `d` levels remain below level `k`; the cube's index at level 16 is
(x, y, z). -/
def treeVerdict (unk : Bool) (s : Shape) (c : Cube) : Nat → Nat → Word → Nat → Nat → Nat → Act Verdict
  | d, k, e, x, y, z => do
    let t ← Act.get
    let cube := (t.cube k x y z).cube
    if !(cube.meets c (2 ^ 252)) then return .clear
    else if field e 1 0 ≠ 3 then return if blocks unk (field e 1 0) then s.against cube (2 ^ 252) else .clear
    else
      match d with
      | 0 => return .clear
      | d + 1 =>
        let (es, _) ← nodeAt (field e 31 2)
        let h := 2 ^ (15 - k)
        let mut out := Verdict.clear
        for i in List.range 8 do
          if out ≠ .hit then
            let v ← treeVerdict unk s c d (k + 1) (es.getD i 0) (x + i % 2 * h) (y + i / 2 % 2 * h) (z + i / 4 % 2 * h)
            out := out.or v
        return out

/-- Some blocking cube of the tree meets `c`. -/
def treeMeets (unk : Bool) (c : Cube) : Nat → Nat → Word → Nat → Nat → Nat → Act Bool
  | d, k, e, x, y, z => do
    let t ← Act.get
    if !((t.cube k x y z).cube.meets c 0) then return false
    else if field e 1 0 ≠ 3 then return blocks unk (field e 1 0)
    else
      match d with
      | 0 => return false
      | d + 1 =>
        let (es, _) ← nodeAt (field e 31 2)
        let h := 2 ^ (15 - k)
        let mut hit := false
        for i in List.range 8 do
          if !hit then
            hit ← treeMeets unk c d (k + 1) (es.getD i 0) (x + i % 2 * h) (y + i / 2 % 2 * h) (z + i / 4 % 2 * h)
        return hit

/-! ## Cost layers (R316, R317) -/

/-- The layers of a table that are present: number and base. -/
def layersOf (layers : List Byte) : List (Nat × Nat) :=
  (List.range 16).filterMap fun l =>
    if natAt layers 0x10 2 / 2 ^ l % 2 = 1 then some (l, natAt layers (0x40 + 8 * l) 6) else none

/-- Layers that can block, of a table and a request's LETHAL values: their bases and blocking costs. -/
def blockingLayers (lethal layers : List Byte) : List (Nat × Nat) :=
  (layersOf layers).filterMap fun (l, va) =>
    let n := natAt lethal l 1
    if n ≠ 0 then some (va, n) else none

/-- Cell index of a coordinate along an axis whose grid starts at the value at `o`. -/
def cellIndex (layers : List Byte) (o : Nat) (v : Fx) : Int := (v - fxAt layers o).fdiv (fxAt layers 4)

/-- Columns and rows from `lo` to `hi`, and whether they leave the grid. -/
def cellRange (layers : List Byte) (c : Cube) : (Int × Int) × (Int × Int) × Bool :=
  let i0 := cellIndex layers 8 c.lo.x
  let i1 := cellIndex layers 8 c.hi.x
  let j0 := cellIndex layers 0x0C c.lo.y
  let j1 := cellIndex layers 0x0C c.hi.y
  ((i0, i1), (j0, j1), i0 < 0 || j0 < 0 || (natAt layers 0 2 : Int) ≤ i1 || (natAt layers 2 2 : Int) ≤ j1)

/-- The cost of the cell at column `i` of row `j` of a layer; 255 off the grid. -/
def cellCost (c : Nat) (layers : List Byte) (va : Nat) (i j : Int) : Act Nat := do
  if i < 0 || j < 0 || (natAt layers 0 2 : Int) ≤ i || (natAt layers 2 2 : Int) ≤ j then return 255
  else
    let b ← planRead c (va + j.toNat * natAt layers 0 2 + i.toNat) 1
    return (b.getD 0 0).toNat

/-- A ground projection against the lethal cells it may meet. -/
def cellsVerdict (c : Nat) (lethal layers : List Byte) (s : Shape) : Act Verdict := do
  let ls := blockingLayers lethal layers
  let edge := fxAt layers 4
  if ls.isEmpty then return .clear
  else if edge ≤ 0 then return .unsure
  else
    let box := s.around
    let ((i0, i1), (j0, j1), off) := cellRange layers box
    if off then return .hit
    else
      let mut out := Verdict.clear
      for (va, n) in ls do
        for dj in List.range (j1 - j0 + 3).toNat do
          for di in List.range (i1 - i0 + 3).toNat do
            if out ≠ .hit then
              let i := i0 - 1 + di
              let j := j0 - 1 + dj
              let cost ← if 0 ≤ i && 0 ≤ j && i < natAt layers 0 2 && j < natAt layers 2 2 then cellCost c layers va i j else pure 0
              if n ≤ cost then
                let x := fxAt layers 8 + i * edge
                let y := fxAt layers 0x0C + j * edge
                out := out.or (s.against { lo := ⟨x, y, -Fx.one⟩, hi := ⟨x + edge, y + edge, Fx.one⟩ } (2 ^ 250))
      return out

/-! ## Checks of a path (R323) -/

/-- What a check needs: the context, UNKOCC, the LETHAL values, and the epoch. -/
structure Check where
  ctx : Nat
  unk : Bool
  lethal : List Byte
  epoch : Epoch
  deriving DecidableEq, Repr

/-- What is sure of one pose. -/
def poseVerdict (k : Check) (m : Model) (p : Pose) : Act Verdict := do
  let fs := m.frames p
  let mut out := Verdict.clear
  for b in m.prims do
    if out ≠ .hit then
      let s := primShape fs b
      let v ← treeVerdict k.unk s s.around 16 0 k.epoch.root 0 0 0
      out := out.or v
      if primLink b = 0 && out ≠ .hit then
        let w ← cellsVerdict k.ctx k.lethal k.epoch.layers s.flat
        out := out.or w
  return out

/-- A box that holds everything the machine sweeps from pose `a` to pose `b`. -/
def Model.swept (m : Model) (a b : Pose) (extra : Fx) : Cube :=
  let r := m.span a b + extra
  { lo := ⟨min a.x b.x - r, min a.y b.y - r, -r⟩, hi := ⟨max a.x b.x + r, max a.y b.y + r, r⟩ }

/-- What is sure of the way from pose to pose: nothing near it blocks, or its poses are checked one by one. -/
def legVerdict (k : Check) (m : Model) (a b : Pose) : Act Verdict := do
  let near ← treeMeets k.unk (m.swept a b (Fx.one / 8)) 16 0 k.epoch.root 0 0 0
  if !near && (blockingLayers k.lethal k.epoch.layers).isEmpty then return .clear
  else
    let mut out := Verdict.clear
    for p in m.stops a b do
      if out ≠ .hit then
        let v ← poseVerdict k m p
        out := out.or v
    return out

/-- Whether what the machine sweeps may meet a dirty box. -/
def Model.dirty (m : Model) (a b : Pose) (boxes : List Box) : Bool :=
  let c := m.swept a b (Fx.one / 8)
  boxes.any fun x => (Box.cube x).meets c 0

end Sys2Proof.Machine
end

