-- ==== Sys2Proof/Machine/Plan.lean ====
section
/-!
DEFINITION. Sys2Proof/Machine/Plan.lean: plan requests (R321 to R335): acceptance, the queue unit and the lattice
search, clearance checks, stop branches, results, PUBLISH and the watches. A request runs as far as it can in the step
that starts it (log entry 50).
-/
namespace Sys2Proof.Machine

/-! ## Descriptors (Table 13.4) -/

def dword (b : List Byte) (o : Nat) : Word := Word.ofNat (natAt b o 4)
def daddr (b : List Byte) (o : Nat) : Nat := natAt b o 6

def PlanReq.mode (r : PlanReq) : Nat := field (dword r.desc 0) 1 0
def PlanReq.deadline (r : PlanReq) : Nat := natAt r.desc 0x10 8
def PlanReq.dt (r : PlanReq) : Nat := natAt r.desc 0x20 2
def PlanReq.nguess (r : PlanReq) : Nat := field (dword r.desc 0) 5 3 + 1
def PlanReq.first (r : PlanReq) : Nat := natAt r.desc 0x98 2
def PlanReq.ahead (r : PlanReq) : Nat := natAt r.desc 0x9A 2
def PlanReq.prog (r : PlanReq) : Nat := natAt r.desc 4 2

/-- A finite FP32 word above zero, at least zero, or at least one. -/
def fpAbove (w : Word) : Bool := field w 30 23 ≠ 255 && 0 < fpUnits w
def fpNonneg (w : Word) : Bool := field w 30 23 ≠ 255 && 0 ≤ fpUnits w
def fpOne (w : Word) : Bool := field w 30 23 ≠ 255 && 2 ^ 149 ≤ fpUnits w

/-- Values in range, reserved bits zero, and addresses aligned (R327). -/
def planAligned (b : List Byte) : Bool :=
  let w0 := dword b 0
  let dt := natAt b 0x20 2
  let sd := dword b 0x44
  let sm := dword b 0x48
  field w0 1 0 ≠ 3 && field w0 15 12 ≤ 8 && field w0 19 16 ≤ 8 && field w0 31 20 = 0 && natAt b 6 2 = 0 &&
  1 ≤ natAt b 0x0C 4 && natAt b 0x0C 4 < 2 ^ 28 && 1 ≤ dt && natAt b 0x22 2 = 0 && fpOne (dword b 0x24) &&
  fpAbove (dword b 0x34) && fpAbove (dword b 0x38) && fpAbove (dword b 0x3C) && fpAbove (dword b 0x40) &&
  fpAbove sd && fpAbove sm && fpUnits sd ≤ fpUnits sm && fpOne (dword b 0x4C) &&
  ([0x50, 0x58, 0x60, 0x68, 0x70, 0x78, 0x80, 0x88, 0x90].all fun o => natAt b (o + 6) 2 = 0) &&
  daddr b 0x58 % 64 = 0 && daddr b 0x60 % 64 = 0 && daddr b 0x68 % 65536 = 0 && daddr b 0x70 % 65536 = 0 &&
  daddr b 0x78 % 65536 = 0 && daddr b 0x80 % 64 = 0 && daddr b 0x88 % 65536 = 0 &&
  (field w0 1 0 ≠ 2 || (1 ≤ natAt b 0x9A 2 && natAt b 0x9A 2 ≤ 767)) && natAt b 0x9C 4 = 0 &&
  ((List.range 16).all fun l => fpNonneg (dword b (0xA0 + 4 * l))) && natAt b 0xF0 16 = 0 &&
  fpUnits (dword b 0x3C) * 1000000 ≤ 252 * fpUnits sm * dt

/-- The state and spill regions and the node pool lie in pinned memory (R326): answers the address of one that does
not. -/
def planPinned (c : Nat) (b : List Byte) : Act (Option Nat) := do
  let s ← Act.get
  let w0 := dword b 0
  let st ← pinnedTiles c (daddr b 0x68) (2 ^ (field w0 19 16 + 16) * 16)
  let sp ← pinnedTiles c (daddr b 0x70) (2 ^ (field w0 15 12 + 16) * 8)
  let base := (s.rg .planNodeLo).toNat + s.rf .planNodeHi 0 15 0 * 2 ^ 32
  let n := s.rf .planNodeCount 0 29 0
  let pool ← if n = 0 then pure (some []) else pinnedTiles s.planOwner base (n * 64)
  return if st.isNone then some (daddr b 0x68) else if sp.isNone then some (daddr b 0x70)
    else if pool.isNone then some base else none

/-! ## Clearance (R321 to R323) -/

/-- A trajectory sample: sixteen FP32 channels (R322). -/
abbrev Sample := List Word

def sampleOf (b : List Byte) (o : Nat) : Sample := (List.range 16).map fun i => dword b (o + 4 * i)
def Sample.bytes (x : Sample) : List Byte := fit 64 (List.flatMap (fun w => bytesOf 4 w.toNat) x)
def Sample.ch (x : Sample) (i : Nat) : Word := List.getD x i 0

/-- What the checks of a request need. -/
def PlanReq.check (r : PlanReq) (e : Epoch) : Check :=
  { ctx := r.ctx, unk := flag (dword r.desc 0) 2, lethal := (r.desc.drop 0xE0).take 16, epoch := e }

/-- What the voxel unit finds of the way from pose to pose. -/
def wayClear (r : PlanReq) (m : Model) (e : Epoch) (a b : Pose) : Act Bool := do
  match ← legVerdict (r.check e) m a b with
  | .clear => return true
  | .hit => return false
  | .unsure => return Config.pathClear r.desc e.num ([a.x, a.y, a.yaw, b.x, b.y, b.yaw] ++ a.joints ++ b.joints)

/-- What the voxel unit finds of the way from sample to sample. -/
def sampleClear (r : PlanReq) (m : Model) (e : Epoch) (x y : Sample) : Act Bool := wayClear r m e (.of x) (.of y)

/-- The FP32 values next to a real one, one of which a result of the planner is: which is free (log entry 51). -/
def nearWord (v : Fx) (free : Word) : Word :=
  let u := if v.natAbs < 2 ^ 130 then 2 ^ 107 else Fx.ulp v
  if 0 ≤ v then anyWithin (max 0 (v - u)) (v + u) free else anyWithin (v - u) (min 0 (v + u)) free

/-! ## The queue unit (R324) -/

/-- A place of the search lattice: column, row and heading bin. -/
structure Spot where
  i : Int
  j : Int
  h : Nat
  deriving DecidableEq, Repr

/-- An entry: its key, its place in the order of pushes, its state by number, and the cost at which it was reached. -/
structure QEntry where
  key : Word
  order : Nat
  state : Nat
  g : Word
  deriving DecidableEq, Repr

def QEntry.before (a b : QEntry) : Bool := a.key.toNat < b.key.toNat || (a.key = b.key && a.order < b.order)

/-- The entry a POP returns: the least key, pushed first. -/
def leastEntry (q : List QEntry) : Option QEntry :=
  q.foldl (fun b e => match b with | none => some e | some x => some (if e.before x then e else x)) none

/-- The entry that goes when the queue is full: the highest key, pushed last. -/
def greatestEntry (q : List QEntry) : Option QEntry :=
  q.foldl (fun b e => match b with | none => some e | some x => some (if x.before e then e else x)) none

/-- A state of the table: its place, its cost, its predecessor, and the primitive that leads here. -/
structure Reached where
  place : Spot
  g : Word
  pred : Nat
  prim : Nat
  deriving DecidableEq, Repr

/-- A search under way. States are numbered in the order they were first reached. -/
structure Search where
  queue : List QEntry := []
  table : List Reached := []
  goals : List Nat := []
  expansions : Nat := 0
  discards : Nat := 0
  pruned : Bool := false
  peak : Nat := 0
  pushes : Nat := 0
  /-- Expansions since the first goal. -/
  after : Nat := 0
  ended : Bool := false
  deriving DecidableEq, Repr

/-- PUSH, with the queue's capacity. -/
def Search.push (x : Search) (cap : Nat) (key g : Word) (state : Nat) : Search :=
  let e : QEntry := { key, order := x.pushes, state, g }
  let q := x.queue ++ [e]
  if cap < q.length then
    match greatestEntry q with
    | some w => { x with queue := q.filter (· ≠ w), pushes := x.pushes + 1, discards := x.discards + 1, pruned := true }
    | none => x
  else { x with queue := q, pushes := x.pushes + 1, peak := max x.peak q.length }

/-- A successor enters the state table and the queue, unless its state was reached at no greater cost or the table is
full. -/
def Search.reach (x : Search) (cap states : Nat) (y : Reached) (key : Word) : Search :=
  match x.table.findIdx? (·.place = y.place) with
  | some n =>
    if ((x.table[n]?).map fun o => decide (o.g.toNat ≤ y.g.toNat)).getD true then x
    else { x with table := x.table.set n y }.push cap key y.g n
  | none =>
    if states ≤ x.table.length then { x with pruned := true }
    else { x with table := x.table ++ [y] }.push cap key y.g x.table.length

/-! ## The search (R317, R325) -/

/-- A record of the primitive table. -/
structure Motion where
  di : Int
  dj : Int
  dh : Int
  reverse : Bool
  length : Fx
  /-- Intermediate poses relative to the start, each with its arc length. -/
  mids : List (Fx × Fx × Fx × Fx)
  deriving DecidableEq, Repr

def Motion.of (b : List Byte) : Motion :=
  let (d, reverse, len, ps) := Config.primRecord b
  { di := d.1, dj := d.2.1, dh := d.2.2, reverse, length := fxOf len
    mids := (ps.take 32).map fun p => (fxOf p.1, fxOf p.2.1, fxOf p.2.2.1, fxOf p.2.2.2) }

/-- What a search works on: the request, its model, its epoch, the pose it starts from and the one it goes to, and the
primitive table's header. -/
structure Ground where
  req : PlanReq
  model : Model
  epoch : Epoch
  start : Pose
  goal : Pose
  nh : Nat
  res : Fx
  np : Nat
  deriving DecidableEq, Repr

/-- The heading of a bin, and the bin nearest to a heading. -/
def Ground.heading (w : Ground) (h : Nat) : Fx := 2 * Fx.pi * h / w.nh
def Ground.bin (w : Ground) (yaw : Fx) : Nat := ((2 * yaw * w.nh + 2 * Fx.pi) / (4 * Fx.pi) % w.nh).toNat

/-- The pose of a place of the lattice, whose origin is the start. -/
def Ground.pose (w : Ground) (n : Nat) (p : Spot) : Pose :=
  { w.start with x := w.start.x + p.i * w.res, y := w.start.y + p.j * w.res, yaw := if n = 0 then w.start.yaw else w.heading p.h }

/-- The poses of an edge behind its start: the intermediate ones and its end. -/
def edgePoses (a : Pose) (m : Motion) (b : Pose) : List Pose :=
  m.mids.map (fun (x, y, t, _) => { a with x := a.x + x, y := a.y + y, yaw := a.yaw + t }) ++ [b]

/-- The factor by which layer costs weigh on a stretch that ends at a pose: 1 + Σ W_l c_l / 255 (R317). -/
def Ground.weight (w : Ground) (p : Pose) : Act Fx := do
  let ls := w.epoch.layers
  let mut out := Fx.one
  for (l, va) in layersOf ls do
    let k := fxAt w.req.desc (0xA0 + 4 * l)
    if k ≠ 0 then
      let c ← if fxAt ls 4 ≤ 0 then pure 255
        else cellCost w.req.ctx ls va (cellIndex ls 8 p.x) (cellIndex ls 0x0C p.y)
      out := out + k * c / 255
  return out

/-- The cost of an edge (R317). -/
def Ground.cost (w : Ground) (a : Pose) (m : Motion) : Act Fx := do
  let mut out : Fx := 0
  for (x, y, _, s) in m.mids do
    let k ← w.weight { a with x := a.x + x, y := a.y + y }
    out := out + Fx.mul s k
  return if m.reverse then Fx.mul out (fxAt w.req.desc 0x4C) else out

/-- The straight-line distance of a pose to the goal. -/
def Ground.away (w : Ground) (p : Pose) : Fx := V3.length ⟨w.goal.x - p.x, w.goal.y - p.y, 0⟩

/-- A pose lies within POS_TOL and YAW_TOL of the goal. -/
def Ground.atGoal (w : Ground) (p : Pose) : Bool :=
  w.away p ≤ fxAt w.req.desc 0x34 && ((Fx.wrap (w.goal.yaw - p.yaw)).natAbs : Int) ≤ fxAt w.req.desc 0x38

/-- Capacities of the queue and of the state table. -/
def PlanReq.cap (r : PlanReq) : Nat := 65536 + 2 ^ (field (dword r.desc 0) 15 12 + 16)
def PlanReq.states (r : PlanReq) : Nat := 2 ^ (field (dword r.desc 0) 19 16 + 16)

/-- The poses of a way are clear one after the other. -/
def Ground.clear (w : Ground) : Pose → List Pose → Act Bool
  | _, [] => pure true
  | a, b :: t => do
    if ← wayClear w.req w.model w.epoch a b then w.clear b t else return false

/-- The records of a heading bin. -/
def Ground.motions (w : Ground) (h : Nat) : Act (List Motion) := do
  let b ← planRead w.req.ctx (daddr w.req.desc 0x60 + 64 + h * w.np * 576) (w.np * 576)
  return (List.range w.np).map fun p => Motion.of ((b.drop (576 * p)).take 576)

/-- One expansion of state `n`: each successor whose edge is clear is pushed. -/
def Ground.expand (w : Ground) (x : Search) (n : Nat) (o : Reached) : Act Search := do
  let a := w.pose n o.place
  let mut out := x
  for (m, p) in (← w.motions o.place.h).zipIdx do
    let place : Spot := { i := o.place.i + m.di, j := o.place.j + m.dj, h := ((o.place.h + m.dh) % w.nh).toNat }
    let b := w.pose 1 place
    if ← w.clear a (edgePoses a m b) then
      let pick (k : Nat) : Word := Config.planPick w.req.desc [k, x.expansions, p]
      let g := nearWord (fxOf o.g + (← w.cost a m)) (pick 0)
      let key := nearWord (fxOf g + Fx.mul (fxAt w.req.desc 0x24) (w.away b)) (pick 1)
      out := out.reach w.req.cap w.req.states { place, g, pred := n, prim := p } key
  return { out with expansions := x.expansions + 1, after := if x.goals.isEmpty then 0 else x.after + 1 }

/-- One POP and what follows it. -/
def Ground.pop (w : Ground) (x : Search) : Act Search := do
  match leastEntry x.queue with
  | none => return { x with ended := true }
  | some e =>
    let x := { x with queue := x.queue.filter (· ≠ e) }
    match x.table[e.state]? with
    | none => return x
    | some o =>
      if o.g ≠ e.g then return x
      else if w.atGoal (w.pose e.state o.place) then
        let goals := x.goals ++ [e.state]
        return { x with goals, ended := w.req.nguess ≤ goals.length }
      else if !x.goals.isEmpty && 4096 ≤ x.after then return { x with ended := true }
      else w.expand x e.state o

/-- Runs the search for as many pops as `fuel`. -/
def Ground.run (w : Ground) : Nat → Search → Act Search
  | 0, x => pure x
  | n + 1, x => do
    if x.ended || natAt w.req.desc 0x0C 4 ≤ x.expansions then return x
    else w.run n (← w.pop x)

/-- The numbers of the states on the way to `n`, from the start. -/
def Search.path (x : Search) : Nat → Nat → List Nat
  | 0, n => [n]
  | fuel + 1, n =>
    if n = 0 then [0]
    else match x.table[n]? with
      | some o => x.path fuel o.pred ++ [n]
      | none => [n]

/-- The search (R325), and what it leaves in its regions (R324). -/
def Ground.search (w : Ground) : Act Search := do
  let maxExp := natAt w.req.desc 0x0C 4
  let start : Search := {
    table := [{ place := { i := 0, j := 0, h := w.bin w.start.yaw }, g := 0, pred := 0, prim := 0 }]
    queue := [{ key := 0, order := 0, state := 0, g := 0 }], pushes := 1, peak := 1 }
  let x ← w.run (maxExp + 64 * maxExp + 1) start
  let d ← Act.draw
  planWrite w.req.ctx (daddr w.req.desc 0x68) ((Config.planScratch d).take (w.req.states * 16))
  if 65536 < x.peak then
    let d ← Act.draw
    planWrite w.req.ctx (daddr w.req.desc 0x70) ((Config.planScratch d).take ((w.req.cap - 65536) * 8))
  return x

/-! ## Guesses (R322, R328 stage 4) -/

/-- A stretch of a path: its poses, and whether the machine goes in reverse. -/
structure Stretch where
  reverse : Bool
  poses : List Pose
  deriving DecidableEq, Repr

/-- The stretches of a path of states, split where the direction changes. -/
def Ground.stretches (w : Ground) (x : Search) : List Nat → Act (List Stretch)
  | a :: b :: t => do
    let rest ← w.stretches x (b :: t)
    match x.table[a]?, x.table[b]? with
    | some o, some q =>
      let m := (← w.motions o.place.h).getD q.prim { di := 0, dj := 0, dh := 0, reverse := false, length := 0, mids := [] }
      let p := w.pose a o.place
      let ps := p :: edgePoses p m (w.pose b q.place)
      match rest with
      | s :: u => return if s.reverse = m.reverse then { s with poses := ps ++ s.poses.drop 1 } :: u
          else { reverse := m.reverse, poses := ps } :: s :: u
      | [] => return [{ reverse := m.reverse, poses := ps }]
    | _, _ => return rest
  | _ => pure []

/-- The distance from pose to pose on the ground. -/
def Pose.apart (a b : Pose) : Fx := V3.length ⟨b.x - a.x, b.y - a.y, 0⟩

/-- The length of a way. -/
def wayLength : List Pose → Fx
  | a :: b :: t => Pose.apart a b + wayLength (b :: t)
  | _ => 0

/-- The pose at a distance along a way, and the curvature of the way there; its end beyond it. -/
def alongWay (d : Fx) : List Pose → Pose × Fx
  | a :: b :: t =>
    let l := Pose.apart a b
    if d < l then (a.between b d l, Fx.quot (Fx.wrap (b.yaw - a.yaw)) l)
    else if t.isEmpty then (b, if l = 0 then 0 else Fx.quot (Fx.wrap (b.yaw - a.yaw)) l)
    else alongWay (d - l) (b :: t)
  | [a] => (a, 0)
  | [] => ({ x := 0, y := 0, yaw := 0, joints := [] }, 0)

/-- Speeds and distances, a sample spacing `dt` apart, over a stretch of length `l` from speed `u` at distance `s`: any within
VMAX and AMAX that come to rest at its end. -/
def speeds (free : Nat → Word) (vmax amax dt l : Fx) : Nat → Fx → Fx → List (Fx × Fx)
  | 0, _, _ => []
  | n + 1, u, s =>
    let r := l - s
    let half := Fx.mul u dt / 2
    if r ≤ 0 then []
    else if u ≤ Fx.mul amax dt && r ≤ half then [(0, l)]
    else
      let lo := max 0 (u - Fx.mul amax dt)
      let brake := Fx.mul amax (Fx.sqrt (Fx.mul dt dt / 4 + 2 * Fx.quot (max 0 (r - half)) amax) - dt / 2)
      let hi := max lo (min (min vmax (u + Fx.mul amax dt)) brake)
      let v := lo + (hi - lo) * (free n).toNat / 2 ^ 32
      let s' := s + Fx.mul (u + v) dt / 2
      (v, s') :: speeds free vmax amax dt l n v s'

/-- A sample's sixteen channels from its pose, speed and curvature (R322). -/
def sampleAt (pick : Nat → Word) (p : Pose) (speed curve : Fx) : Sample :=
  ([p.x, p.y, p.yaw, speed, curve] ++ p.joints.take 7).zipIdx.map (fun (v, i) => nearWord v (pick i)) ++
    List.replicate (11 - (p.joints.take 7).length) 0

/-- The samples of a path of states from speed `u` on: at most 768, at rest at the end of each stretch. -/
def Ground.guess (w : Ground) (x : Search) (goal : Nat) (u : Fx) : Act (List Sample) := do
  let d := w.req.desc
  let dt := Fx.one * w.req.dt / 1000000
  let pick (k : List Nat) : Word := Config.planPick d (goal :: k)
  let first := sampleAt (fun i => pick [2, 0, 0, i]) w.start u 0
  let mut out : List Sample := [first]
  let mut v : Fx := u.natAbs
  for (s, k) in (← w.stretches x (x.path x.table.length goal)).zipIdx do
    for ((u, at'), n) in (speeds (fun n => pick [3, k, n]) (fxAt d 0x3C) (fxAt d 0x40) dt (wayLength s.poses) 768 v 0).zipIdx do
      let (p, c) := alongWay at' s.poses
      out := out ++ [sampleAt (fun i => pick [2, k + 1, n, i]) p (if s.reverse then -u else u) c]
    v := 0
  return out.take 768

/-! ## Provisional results (R329) -/

/-- The numerator of deceleration step `k`, in quarter units of 2^−149 m/s². -/
def PlanReq.decel (r : PlanReq) (k : Nat) : Int :=
  4 * fpUnits (dword r.desc 0x44) + k * (fpUnits (dword r.desc 0x48) - fpUnits (dword r.desc 0x44))

/-- NS of a stop from speed `v`. -/
def PlanReq.stopCount (r : PlanReq) (v : Word) (k : Nat) : Nat :=
  let den := r.decel k * r.dt
  max 1 (-(-(4000000 * (fpUnits v).natAbs : Int)).fdiv den).toNat

/-- Deceleration step `k` in m/s². -/
def PlanReq.decelFx (r : PlanReq) (k : Nat) : Fx := r.decel k * 2 ^ 105

/-- Sample `j` of the stop branch from sample `x`: from the main sample whose path goes on as `way`, or, without one, from
START, where no main path says how a machine in motion goes on (log entry 54). -/
def PlanReq.stopSample (r : PlanReq) (way : Option (List Pose)) (x : Sample) (k j : Nat) : Sample :=
  let a := r.decelFx k
  let v : Fx := (fxOf (x.ch 3)).natAbs
  let t := Fx.one * r.dt * (j + b2n way.isSome) / 1000000
  let stopped := v ≤ Fx.mul a t
  let far := if stopped then Fx.quot (Fx.mul v v) (2 * a) else Fx.mul v t - Fx.mul (Fx.mul a t) t / 2
  let speed := if stopped then 0 else if flag (x.ch 3) 31 then Fx.mul a t - v else v - Fx.mul a t
  let pick (i : Nat) : Word := Config.planPick r.desc [4, k, j, i]
  let held : List Word := (List.range 7).map fun i => x.ch (5 + i)
  let place : List Word :=
    if far = 0 then [x.ch 0, x.ch 1, x.ch 2, 0, x.ch 4]
    else match way with
      | some ps =>
        let (p, c) := alongWay far ps
        [nearWord p.x (pick 0), nearWord p.y (pick 1), nearWord p.yaw (pick 2), 0, nearWord c (pick 4)]
      | none => [pick 0, pick 1, pick 2, 0, pick 4]
  place.set 3 (if speed = 0 then 0 else nearWord speed (pick 3)) ++ held ++ [0, 0, 0, 0]

/-- The samples of a stop branch. -/
def PlanReq.stopBranch (r : PlanReq) (way : Option (List Pose)) (x : Sample) (k : Nat) : List Sample :=
  (List.range (min 252 (r.stopCount (x.ch 3) k))).map (r.stopSample way x k)

/-- The poses from one of a list to the next, the first from `x`. -/
def legs (x : Sample) (l : List Sample) : List (Sample × Sample) := (x :: l).zip l

/-- The ways of a list of legs are all clear. -/
def legsClear (r : PlanReq) (m : Model) (e : Epoch) : List (Sample × Sample) → Act Bool
  | [] => pure true
  | (u, v) :: t => do
    if ← sampleClear r m e u v then legsClear r m e t else return false

/-- Tries the five decelerations from an anchor; answers step and branch. -/
def stopFrom (r : PlanReq) (m : Model) (e : Epoch) (way : Option (List Pose)) (x : Sample) :
    Act (Option (Nat × List Sample)) := do
  let mut out : Option (Nat × List Sample) := none
  for k in List.range 5 do
    if out.isNone && r.stopCount (x.ch 3) k ≤ 252 then
      let b := r.stopBranch way x k
      if ← legsClear r m e (legs x b) then out := some (k, b)
  return out

/-- The way of a main path from sample `n` on. -/
def wayFrom (l : List Sample) (n : Nat) : Option (List Pose) := some ((l.drop n).map Pose.of)

/-- The largest index below `n` with a clear stop branch. -/
def lastStop (r : PlanReq) (m : Model) (e : Epoch) (l : List Sample) : Nat → Act (Option (Nat × Nat × List Sample))
  | 0 => pure none
  | n + 1 => do
    match ← stopFrom r m e (wayFrom l n) (l.getD n []) with
    | some (k, b) => return some (n, k, b)
    | none => lastStop r m e l n

/-- The first blocked main sample of a trajectory. With `known`, samples below the old first hit whose sweep meets no
new box are clear, and the old first hit stays blocked. -/
def firstBlocked (r : PlanReq) (m : Model) (e : Epoch) (l : List Sample) (known : Option (Nat × List Box)) :
    Act (Option Nat) := do
  let mut hit : Option Nat := none
  for ((u, v), i) in (legs (l.getD 0 []) l).zipIdx do
    if hit.isNone then
      let clear ← match known with
        | none => sampleClear r m e u v
        | some (h, boxes) =>
          if m.dirty (.of u) (.of v) boxes then sampleClear r m e u v
          else if i < h then pure true
          else if i = h then pure false
          else sampleClear r m e u v
      if !clear then hit := some i
  return hit

/-- No leg of a stop branch from `x` meets a new box. -/
def Model.stopsClean (m : Model) (x : Sample) (b : List Sample) (boxes : List Box) : Bool :=
  !(legs x b).any fun p => m.dirty (.of p.1) (.of p.2) boxes

/-- Verifies a trajectory against the held epoch: it becomes the provisional result if it has a verified index. -/
def verifyPlan (r : PlanReq) (m : Model) (l : List Sample) (known : Option (Nat × List Box)) : Act PlanReq := do
  let s ← Act.get
  let e := (s.epoch r.held).getD s.current
  let hit ← firstBlocked r m e l known
  let visits ← Act.draw
  let r := { r with visits := r.visits + (Config.freeWord visits).toNat }
  let n := hit.getD l.length
  let first := hit.getD 0xFFFFFFFF
  let keep := match known, r.verified with
    | some (_, boxes), some v => v < n && v + 1 = n && r.stopClear && m.stopsClean (l.getD v []) r.stops boxes
    | _, _ => false
  if keep then return { r with epoch := e.num, firstHit := first }
  else
    match ← lastStop r m e l n with
    | some (v, k, b) =>
      return { r with samples := l, verified := some v, stops := b, stopStep := k, stopClear := true, epoch := e.num, firstHit := first }
    | none => return { r with firstHit := if r.samples.isEmpty || known.isSome then first else r.firstHit }

/-! ## Results (R330, R331) -/

/-- The trajectory tile (Table 10.6). -/
def planTile (r : PlanReq) (code : Nat) : List Byte :=
  let n := r.samples.length
  let start := natAt r.desc 0x18 8
  let v := match r.verified with | some v => v | none => 0xFFFFFFFF
  let sstart := if n = 0 then start else start + (v + 1) * r.dt
  let body := fit 49152 (r.samples.flatMap Sample.bytes) ++ fit (65536 - 0xC100) (r.stops.flatMap Sample.bytes)
  bytesOf 4 0x314A5254 ++ bytesOf 4 (n + r.stops.length * 1024) ++ bytesOf 8 start ++ bytesOf 4 r.dt ++ bytesOf 4 v ++
  bytesOf 8 sstart ++ bytesOf 4 r.dt ++ bytesOf 1 (if Code.good code then Code.ok else code) ++ bytesOf 3 0 ++
  bytesOf 8 r.epoch ++ bytesOf 4 (crc32 body).toNat ++ bytesOf 204 0 ++ body

/-- STOPDEC. -/
def PlanReq.stopDec (r : PlanReq) : Word :=
  if r.stopStep = 0 then dword r.desc 0x44 else if r.stopStep = 4 then dword r.desc 0x48
  else (Num.fin false (r.decel r.stopStep).natAbs (-151)).toWord

/-- The result record (Table 13.6). -/
def planRecord (r : PlanReq) (code : Nat) : List Byte :=
  bytesOf 4 (pack [(code, 0), (b2n r.usedOptimiser, 8), (b2n r.pruned, 9), (b2n r.stopClear, 10), (b2n r.fallback, 11),
    (min 15 r.rounds, 12)]) ++
  bytesOf 4 r.tag.toNat ++ bytesOf 8 r.epoch ++ bytesOf 8 r.snap ++
  bytesOf 4 (r.verified.getD 0xFFFFFFFF) ++ bytesOf 4 r.samples.length ++ bytesOf 4 r.expansions ++ bytesOf 4 r.discards ++
  bytesOf 8 r.visits ++ bytesOf 4 r.firstHit ++ bytesOf 4 r.stopDec.toNat ++ bytesOf 8 0

/-- A request leaves PLAN: its completion record, its holds, its count and its watch. -/
def leavePlan (r : PlanReq) (f : Failure) (detail aux : Nat) : Act Unit := do
  let idx ← failureRecord f r.ctx 0x7FF 0 r.tag
  let s ← Act.get
  complete r.ctx (CRec.detailed { s.record r.ctx f.code Block.plan 4 with
    tag := r.tag, engines := r.engines, modules := if r.engines = 0 then 0 else s.modules r.ctx, parks := r.parks, heels := r.heels }
    f.code f.addr idx detail aux)
  Act.modPlan fun p => { p with requests := p.requests.filter (·.id ≠ r.id) }
  dropHold r.held
  match r.watch with
  | none => Act.regField .planStatus r.who.val 31 16 (s.rf .planStatus r.who.val 31 16 + 1)
  | some l =>
    Act.modPlan fun p => { p with watches := p.watches.put l { p.watches.at l {} with repairing := false } }
    let us := min 65535 ((s.ns - r.publishAt) / 1000)
    Act.regField .planRepairMax 0 15 0 (max us (s.rf .planRepairMax 0 15 0))

/-- A request fails in its course: its record and the teardown of its context. -/
def failPlan (r : PlanReq) (f : Failure) : Act Unit := do
  leavePlan r f 0 0
  teardown r.ctx f.code f.block f.addr 0

/-- The failure that an access of PLAN ran into. -/
def troubleFailure (x : Nat × Nat × Nat × Nat × Nat) : Failure :=
  { code := x.1, block := x.2.1, atype := x.2.2.1, addr := x.2.2.2.1, syn := x.2.2.2.2 }

/-- Keeps a request among those under way. -/
def keepPlan (r : PlanReq) : Act Unit :=
  Act.modPlan fun p =>
    if p.requests.any (·.id = r.id) then { p with requests := p.requests.map fun x => if x.id = r.id then r else x }
    else { p with requests := p.requests ++ [r] }

/-- Writes the tile, the result record and the completion record (R331). -/
def writeResult (r : PlanReq) (code : Nat) : Act Unit := do
  planWrite r.ctx (daddr r.desc 0x78) (planTile r code)
  planWrite r.ctx (daddr r.desc 0x80) (planRecord r code)
  match ← takeTrouble with
  | some x => failPlan r (troubleFailure x)
  | none =>
    leavePlan r { code, block := Block.plan } r.epoch
      (if code = Code.bestEffort then r.verified.getD 0xFFFFFFFF else r.samples.length)

/-- The request ends with its provisional result; while the result parks it waits with it. -/
def finishPlan (r : PlanReq) (code : Nat) : Act Unit :=
  unlessParked (writeResult r code) (keepPlan { r with ending := some code, waiting := true })

/-! ## Stages (R328) -/

/-- The model of a request. -/
def planModel (r : PlanReq) : Act Model := do
  let b ← planRead r.ctx (daddr r.desc 0x58) (2048 + 224)
  let n := field (dword r.desc 0) 11 6 + 1
  return { prims := (List.range n).map fun i => (b.drop (32 * i)).take 32
           links := (List.range 7).map fun i => (b.drop (2048 + 32 * i)).take 32 }

/-- The boxes of every epoch newer than `n`. -/
def State.newBoxes (s : State) (n : Nat) : List Box := (s.plan.epochs.filter (n < ·.num)).flatMap (·.dirty)

/-- A re-check round, while a newer epoch than the held one is current: every sample and every stop branch that meets a new
box is checked again. -/
def planRound (r : PlanReq) (m : Model) : Act PlanReq := do
  let s ← Act.get
  if r.held = s.current.num then return r
  else
    let boxes := s.newBoxes r.held
    hold s.current.num
    dropHold r.held
    let r := { r with held := s.current.num, rounds := min 15 (r.rounds + 1) }
    if !r.samples.isEmpty then verifyPlan r m r.samples (some (min r.firstHit r.samples.length, boxes))
    else if r.stopClear && m.stopsClean r.start r.stops boxes then return { r with epoch := s.current.num }
    else
      match ← stopFrom r m s.current none r.start with
      | some (k, b) => return { r with stops := b, stopStep := k, stopClear := true, epoch := s.current.num }
      | none => return { r with stops := r.stopBranch none r.start 4, stopStep := 4, stopClear := false, epoch := s.current.num }

/-- The request fails where an access of it has; else it goes on. -/
def unlessTrouble (r : PlanReq) (go : Act Unit) : Act Unit := do
  match ← takeTrouble with
  | some x => failPlan r (troubleFailure x)
  | none => go

/-- After a verification or a round: the result is written once every sample is clear, else the request waits for its
DEADLINE. -/
def judgePlan (r : PlanReq) : Act Unit :=
  unlessTrouble r (do
    let s ← Act.get
    let now := s.fullTime
    let all := r.goal && !r.samples.isEmpty && r.verified = some (r.samples.length - 1) && r.epoch = s.current.num
    if now ≤ r.deadline && all then finishPlan r (if now = r.deadline then Code.okAtDeadline else Code.ok)
    else if r.deadline ≤ now then finishPlan r Code.bestEffort
    else if r.mode = 2 && !r.goal then finishPlan r Code.bestEffort
    else keepPlan r)

/-- Verification and the rounds that follow. -/
def verifyStage (r : PlanReq) (m : Model) (l : List Sample) : Act Unit := do
  let r ← verifyPlan { r with samples := if r.verified.isNone && r.mode ≠ 0 then [] else r.samples } m l none
  let r ← planRound r m
  judgePlan r

/-- The trajectory tile at `va`: its main samples. -/
def readSamples (c va : Nat) : Act (List Sample) := do
  let b ← planRead c va 0x10000
  return (List.range (min 768 (natAt b 4 4 % 1024))).map fun i => sampleOf b (0x100 + 64 * i)

/-- The search's paths as guesses, each written to its scratch tile. -/
def writeGuesses (r : PlanReq) (gs : List (List Sample)) : Act Unit := do
  for (g, i) in gs.zipIdx do planWrite r.ctx (daddr r.desc 0x88 + i * 65536) (g.flatMap Sample.bytes)

/-- The optimiser's job (R328 stage 5). -/
def insertOptimiser (r : PlanReq) : Act Unit :=
  Act.modCtx r.ctx fun x => { x with jobs := x.jobs ++
    [{ tag := r.tag, job := 0xFFFF, nkern := 1, restartable := true, krec := false, deadline := r.deadline, klist := 0,
       seq := r.id, optimiser := some r.prog }] }

/-- What the search of a request works on, from one sample to a pose. -/
def planGround (r : PlanReq) (m : Model) (e : Epoch) (start : Sample) (goal : Pose) : Act Ground := do
  let h ← planRead r.ctx (daddr r.desc 0x60) 64
  let (nh, res, np) := Config.primHeader h
  return { req := r, model := m, epoch := e, start := .of start, goal, nh := max 1 (min 256 nh), res := fxOf res, np := min 64 np }

/-- Search, guesses and what follows: from sample `start` to pose `goal`. `kept` and `rest` are a REPAIR's prefix and suffix. -/
def searchStage (r : PlanReq) (m : Model) (start : Sample) (goal : Pose) (kept rest : List Sample) : Act Unit := do
  let s ← Act.get
  let w ← planGround r m ((s.epoch r.snap).getD s.current) start goal
  let x ← w.search
  Act.regField .planQpeak 0 24 0 (max x.peak (s.rf .planQpeak 0 24 0))
  let mut gs : List (List Sample) := []
  for g in x.goals do
    let l ← w.guess x g (fxOf (start.ch 3))
    gs := gs ++ [(kept ++ (if kept.isEmpty then l else l.drop 1) ++ rest).take 768]
  writeGuesses r gs
  let r := { r with
    goal := !gs.isEmpty, exhausted := gs.isEmpty, pruned := x.pruned, expansions := x.expansions, discards := x.discards }
  unlessTrouble r (do
    if !r.goal then
      if r.mode = 2 then verifyStage r m kept
      else if s.fullTime < r.deadline then finishPlan r Code.noPath
      else judgePlan r
    else
      let r ← verifyPlan r m (gs.headD []) none
      if r.prog ≠ 0xFFFF then
        unlessTrouble r (do
          keepPlan { r with optimising := true }
          insertOptimiser r)
      else
        let r ← planRound r m
        judgePlan r)

/-- Stages 2 to 8 of a request that holds its snapshot. -/
def planStages (r : PlanReq) : Act Unit := do
  let s ← Act.get
  let r := { r with fresh := false, waiting := false }
  keepPlan r
  let e := (s.epoch r.held).getD s.current
  let m ← planModel r
  let b ← planRead r.ctx (daddr r.desc 0x50) 64
  let start := sampleOf b 0
  let stop ← stopFrom r m e none start
  let r := { r with
    start, stops := (stop.map (·.2)).getD (r.stopBranch none start 4), stopStep := (stop.map (·.1)).getD 4
    stopClear := stop.isSome }
  let clear ← sampleClear r m e start start
  unlessTrouble r (do
    if !clear then finishPlan { r with firstHit := 0 } (if s.fullTime < r.deadline then Code.noPath else Code.bestEffort)
    else if r.mode = 0 then
      let at' (o : Nat) : Fx := fxAt r.desc o
      searchStage r m start { Pose.of start with x := at' 0x28, y := at' 0x2C, yaw := at' 0x30 } [] []
    else
      let l ← readSamples r.ctx (daddr r.desc 0x90)
      if r.mode = 1 then unlessTrouble r (verifyStage { r with goal := true } m l)
      else
        let anchor := if r.first = 0 then start else l.getD (r.first - 1) start
        searchStage r m anchor (Pose.of (l.getD (min (r.first + r.ahead) (l.length - 1)) start)) (l.take r.first)
          (l.drop (r.first + r.ahead)))

/-- The stages run; a request one of whose accesses parks waits for its pages. -/
def runStages (r : PlanReq) : Act Unit :=
  unlessParked (planStages r) (keepPlan { r with waiting := true, parks := r.parks + b2n !r.waiting })

/-- A request that has been accepted takes its hold (R328 stage 1) and runs. -/
def runPlan (r : PlanReq) : Act Unit := do
  let s ← Act.get
  hold s.current.num
  keepPlan r
  runStages r

/-- A request whose optimiser has ended goes on: with its trajectory, or with the best guess and FALLBACK. -/
def afterOptimiser (r : PlanReq) (ok : Bool) : Act Unit := do
  let t ← Act.get
  let r := { r with optimised := none, waiting := false }
  let m ← planModel r
  let v ← if ok && t.fullTime < r.deadline then do
      let l ← readSamples r.ctx (daddr r.desc 0x88 + r.nguess * 65536)
      verifyPlan { r with usedOptimiser := true } m l none
    else pure { r with fallback := true }
  let v ← planRound v m
  judgePlan v

/-- A request that has been verified makes its round where a newer epoch is current. -/
def roundAgain (r : PlanReq) : Act Unit := do
  let m ← planModel r
  let v ← planRound { r with waiting := false } m
  judgePlan v

/-- What a request under way does next, if it has anything to do. -/
def planNext (r : PlanReq) : Option (Act Unit) :=
  if r.waiting then
    some (match r.ending with
      | some code => writeResult r code
      | none => if r.fresh then planStages r else match r.optimised with
        | some ok => afterOptimiser r ok
        | none => roundAgain r)
  else r.optimised.map (afterOptimiser r)

/-- The order in which PLAN serves requests: those of watches, then the lowest class, then the earliest DEADLINE (R332). -/
def State.plansFirst (s : State) (a b : PlanReq) : Bool :=
  let rank (r : PlanReq) : Nat := if r.watch.isSome then 0 else 1 + (s.ctx r.ctx).desc.cls
  rank a < rank b || (rank a = rank b && a.deadline ≤ b.deadline)

/-- Places a request among those in PLAN's order. -/
def State.placePlan (s : State) (r : PlanReq) : List PlanReq → List PlanReq
  | [] => [r]
  | x :: t => if s.plansFirst r x then r :: x :: t else x :: s.placePlan r t

/-- The requests under way, in PLAN's order. -/
def State.planOrder (s : State) : List PlanReq := s.plan.requests.foldr s.placePlan []

/-- Requests whose optimiser has ended go on, and those that waited for a page where it has come. -/
def settlePlans : Act Unit := do
  let s ← Act.get
  for r in s.planOrder do
    match planNext r with
    | none => nothing
    | some go =>
      if r.waiting then ifResident go
      else unlessParked go (keepPlan { r with waiting := true, parks := r.parks + 1 })

/-! ## Acceptance (R326, R327) -/

/-- Accepts or refuses a request: answers the code of STATUS. -/
def acceptPlan (who : Who) (c : Nat) (desc : List Byte) (va : Nat) (watch : Option Nat) (publishAt : Nat) : Act Nat := do
  let s ← Act.get
  Act.modPlan fun p => { p with submitted := p.submitted + 1 }
  let r : PlanReq := { who, ctx := c, id := s.plan.submitted, desc, watch, snap := s.current.num, held := s.current.num, publishAt, epoch := s.current.num }
  let refuse (f : Failure) : Act Nat := do
    hold r.held
    failPlan r f
    return f.code
  if !planAligned desc then refuse { code := Code.unaligned, block := Block.plan }
  else if r.prog ≠ 0xFFFF && (s.program r.prog).isNone then
    refuse { code := Code.faultXlat, block := Block.plan, atype := 1, addr := va + 4 }
  else
    match ← planPinned c desc with
    | some a => refuse { code := Code.faultXlat, block := Block.xlat, atype := 1, addr := a }
    | none =>
      runPlan r
      return Code.ok

/-- A request that no descriptor gives is refused: its record, which has no tag, and the teardown of its context (R327). -/
def refusePlan (who : Who) (c : Nat) (f : Failure) : Act Nat := do
  let s ← Act.get
  Act.modPlan fun p => { p with submitted := p.submitted + 1 }
  hold s.current.num
  failPlan { who, ctx := c, id := s.plan.submitted, desc := [], snap := s.current.num, held := s.current.num } f
  return f.code

/-- Takes a submission: its descriptor is read and accepted or refused. -/
def takePlan (who : Who) (c va : Nat) : Act Unit := do
  let s ← Act.get
  let x := s.ctx c
  let code ← if x.st = .free || x.desc.cls = 0 then pure Code.faultXlat
    else if va % 256 ≠ 0 then refusePlan who c { code := Code.unaligned, block := Block.plan }
    else do
      let d ← planRead c va 256
      match ← takeTrouble with
      | some y => refusePlan who c (troubleFailure y)
      | none => acceptPlan who c d va none 0
  Act.regField .planStatus who.val 7 0 code

/-- A submission's descriptor does not park. -/
def descResident (c va : Nat) : Act Bool := do return !(← rangeWaits (planVia c) va 256 false)

/-- A write of PLAN_s_SUBMIT with KIND 0. A submission whose descriptor parks waits to be queued. -/
def submitPlan (who : Who) (c va : Nat) : Act Nat := do
  let s ← Act.get
  if (s.ctx c).st = .free || (s.ctx c).desc.cls = 0 || va % 256 ≠ 0 then takePlan who c va
  else if ← descResident c va then takePlan who c va
  else
    let _ ← translate (planVia c) va false
    Act.modPlan fun p => { p with subs := p.subs ++ [(who, c, va)] }
  return Code.ok

/-- Submissions that waited are taken where their descriptor parks no more. -/
def settleSubs : Act Unit := do
  let s ← Act.get
  for (who, c, va) in s.plan.subs do
    if ← descResident c va then
      Act.modPlan fun p => { p with subs := p.subs.erase (who, c, va) }
      takePlan who c va

/-- The request whose DEADLINE comes first. -/
def State.nextDeadline (s : State) : Option PlanReq :=
  s.plan.requests.foldl (fun b r => match b with | none => some r | some x => some (if r.deadline < x.deadline then r else x)) none

/-- PLAN_DEADLINE: the deadline passes, and the request completes with its provisional result (R330). -/
def planDeadline : Act Unit := do
  let t ← Act.get
  match t.nextDeadline with
  | none => nothing
  | some r =>
    reachFull r.deadline
    if r.ending.isNone then
      finishPlan { r with fallback := r.fallback || r.optimising || r.optimised.isSome } Code.bestEffort

/-! ## PUBLISH and the watches (R312, R328, R333) -/

/-- Each enabled watch latches its address and holds the epoch it is to check (R313, R333). -/
def latchWatches : Act Unit := do
  let s ← Act.get
  for l in List.range 16 do
    if flag (s.rg .watchCfg l) 0 then
      let old := (s.plan.watches.at l {}).held
      hold s.current.num
      Act.modPlan fun p =>
        let w := p.watches.at l {}
        { p with watches := p.watches.put l { w with
            latchedVa := some ((s.rg .watchVaLo l).toNat + s.rf .watchVaHi l 15 0 * 2 ^ 32), publishAt := s.ns
            held := some s.current.num, boxes := w.boxes ++ s.current.dirty } }
      match old with
      | some n => dropHold n
      | none => nothing

/-- Requests under way that have been verified make a round. -/
def publishRounds : Act Unit := do
  let s ← Act.get
  for r in s.planOrder do
    if !r.optimising && !r.waiting then
      unlessParked (roundAgain r) (keepPlan { r with waiting := true, parks := r.parks + 1 })

/-- PUBLISH: the open epoch becomes current, unless an UPDATE of it waits (Table 13.1). -/
def publishCommand (who : Who) : Act Nat := do
  let s ← Act.get
  match s.plan.openEpoch with
  | none => epochStatus who Code.faultXlat
  | some e =>
    if !s.plan.updates.isEmpty then epochStatus who Code.faultXlat
    else
      Act.modPlan fun p => { p with epochs := p.epochs ++ [e], openEpoch := none }
      epochStatus who Code.ok
      latchWatches
      publishRounds
      releaseEpochs
  return Code.ok

/-- What a watch check finds: the first blocked main sample and whether the stop branch is blocked. -/
def checkTile (r : PlanReq) (m : Model) (e : Epoch) (boxes : List Box) (b : List Byte) : Act (Option Nat × Bool) := do
  let s ← Act.get
  let n := natAt b 4 4 % 1024
  let v := min (natAt b 0x14 4) (n - 1)
  let dt := max 1 (natAt b 0x10 4)
  let i0 := (s.reflex.slot - natAt b 8 8 + dt - 1) / dt
  let mains := (List.range n).map fun i => sampleOf b (0x100 + 64 * i)
  let stops := (List.range (natAt b 4 4 / 1024 % 256)).map fun j => sampleOf b (0xC100 + 64 * j)
  let mut hit : Option Nat := none
  for ((x, y), i) in (legs (mains.getD 0 []) mains).zipIdx do
    if hit.isNone && i0 ≤ i && i ≤ v && m.dirty (.of x) (.of y) boxes then
      if !(← sampleClear r m e x y) then hit := some i
  let mut stop := false
  for (x, y) in legs (if n = 0 then stops.getD 0 [] else mains.getD v []) stops do
    if !stop && m.dirty (.of x) (.of y) boxes then stop := !(← sampleClear r m e x y)
  return (hit, stop)

def Act.modWatch (l : Nat) (f : Watch → Watch) : Act Unit :=
  Act.modPlan fun p => { p with watches := p.watches.put l (f (p.watches.at l {})) }

/-- The check of a watch whose tile copy is at `va`; a blocked trajectory is repaired, unless a repair is under way. -/
def checkWatch (l va : Nat) : Act Unit := do
  let t ← Act.get
  let w := t.plan.watches.at l {}
  let c := t.rf .watchCfg l 10 1
  let dva := (t.rg .watchDescLo l).toNat + t.rf .watchDescHi l 15 0 * 2 ^ 32
  Act.modWatch l fun w => { w with latchedVa := none, boxes := [], held := none, checks := (w.checks + 1) % 65536 }
  let e := ((w.held.bind t.epoch).getD t.current)
  let b ← planRead c va 65536
  let d ← planRead c dva 256
  let r : PlanReq := { who := 0, ctx := c, desc := d, snap := e.num, held := e.num }
  let m ← planModel r
  let (hit, stop) ← checkTile r m e w.boxes b
  match w.held with
  | some n => dropHold n
  | none => nothing
  match ← takeTrouble with
  | some _ => nothing
  | none =>
    Act.modWatch l fun w => { w with firstHit := min 0x3FF (hit.getD 0x3FF), stopHit := stop }
    if (hit.isSome || stop) && !w.repairing && (t.ctx c).st ≠ .free then
      Act.modWatch l fun w => { w with repairing := true }
      let first := hit.getD (natAt b 0x14 4)
      let u ← Act.get
      let dl := u.fullTime - (u.ns - w.publishAt) + 4800000
      let d' := d.take 0x10 ++ bytesOf 8 dl ++ (d.drop 0x18).take 0x78 ++ bytesOf 6 va ++ (d.drop 0x96).take 2 ++
        bytesOf 2 first ++ d.drop 0x9A
      let _ ← acceptPlan 0 c d' dva (some l) w.publishAt

/-- WATCH_CHECK: within 1 ms of a publish a watch's live trajectory is checked against the new boxes (R333). -/
def watchCheck (l : Nat) : Act Unit := do
  let t ← Act.get
  match (t.plan.watches.at l {}).latchedVa with
  | none => nothing
  | some va => unlessParked (checkWatch l va) nothing

/-- What the read-only registers of PLAN show (Table 13.8). -/
def State.planReads (s : State) (r : Reg) (i : Nat) : Option Word :=
  let cur := s.current.num
  let old := (s.plan.epochs.headD { num := 0 }).num
  match r with
  | .planCurLo => some (Word.ofNat cur)
  | .planCurHi => some (Word.ofNat (cur / 2 ^ 32))
  | .planOldLo => some (Word.ofNat old)
  | .planOldHi => some (Word.ofNat (old / 2 ^ 32))
  | .planRetained => some (Word.ofNat (pack [(s.plan.epochs.length, 0), (b2n s.plan.openEpoch.isSome, 7)]))
  | .planStatus =>
    let busy := s.plan.subs.any (·.1.val = i) || s.plan.updates.any (·.1.val = i)
    some (setField (s.rg .planStatus i) 8 8 (b2n busy))
  | .epochStatus =>
    let busy := s.plan.openWaiting.any (·.val = i) || s.plan.cmds.any (·.1.val = i)
    some (setField (s.rg .epochStatus i) 8 8 (b2n busy))
  | .planNodeFree => some (Word.ofNat s.nodeFree)
  | .watchStat =>
    let w := s.plan.watches.at i {}
    some (Word.ofNat (pack [(w.firstHit, 0), (b2n w.stopHit, 10), (b2n w.repairing, 11), (w.checks, 16)]))
  | _ => none

end Sys2Proof.Machine
end

