-- ==== Sys2Proof/Machine/Grid.lean ====
section
/-!
DEFINITION. Sys2Proof/Machine/Grid.lean: the Gridder (R294 to R302): requests, transform tables and projection; and
the alignment entries (R305, R307).
-/
namespace Sys2Proof.Machine

def Act.modGrid (f : Grid → Grid) : Act Unit := do
  let s ← Act.get
  Act.make (.grid (f s.grid))

def gridVia (c : Nat) : Via := { ctx := c, stop := Stop.grid }

/-! ## Descriptors (Table 12.1) -/

def GridReq.w (r : GridReq) : Nat := field (dword r.desc 4) 11 0 + 1
def GridReq.h (r : GridReq) : Nat := field (dword r.desc 4) 23 12 + 1
def GridReq.zb (r : GridReq) : Nat := field (dword r.desc 4) 27 24 + 1
def GridReq.gather (r : GridReq) : Bool := field (dword r.desc 0) 1 0 = 1
def GridReq.tableNo (r : GridReq) : Nat := field (dword r.desc 0) 9 2
def GridReq.fmt (r : GridReq) : Nat := field (dword r.desc 0) 18 15
def GridReq.lines (r : GridReq) : Nat := field (dword r.desc 0) 24 19 + 1
def GridReq.stride (r : GridReq) : Nat := field (dword r.desc 0) 30 25 + 1

/-- No reserved value and no misaligned address (R295). -/
def gridAligned (b : List Byte) : Bool :=
  let w0 := dword b 0
  let w1 := dword b 4
  let w := field w1 11 0 + 1
  let h := field w1 23 12 + 1
  let op := field w0 1 0
  let count := natAt b 0x20 4
  op ≤ 1 && !flag w0 31 && field w1 31 28 = 0 && w % 16 = 0 && h % 16 = 0 &&
  (if op = 0 then field w0 12 10 ≤ 3 && field w0 14 13 ≤ 1 && 1 ≤ count && count ≤ 4194304
   else 1 ≤ field w0 18 15 && field w0 18 15 ≤ 5 && count = 0) &&
  natAt b 0x0E 2 = 0 && natAt b 0x16 2 = 0 && natAt b 0x1E 2 = 0 && daddr b 8 % 64 = 0 && daddr b 0x10 % 65536 = 0 &&
  daddr b 0x18 % 8 = 0 && fpAbove (dword b 0x24) && fpAbove (dword b 0x34) && natAt b 0x3C 68 = 0

/-- A request ends with a code that tears its context down. -/
def failGrid (c : Nat) (tag : Word) (f : Failure) : Act Unit := do
  let idx ← failureRecord f c 0x7FF 0 tag
  teardown c f.code f.block f.addr idx

/-- The descriptor of a submission is read and queued, or refused; false where its read parks. -/
def acceptGrid (who : Who) (c va : Nat) : Act Bool := do
  let refuse (tag : Word) (f : Failure) : Act Unit := do
    failGrid c tag f
    Act.regField .gridStatus who.val 7 0 f.code
  if va % 128 ≠ 0 then
    refuse 0 { code := Code.unaligned, block := Block.grid }
    return true
  else
    match ← readVa (gridVia c) va 128 with
    | .park => return false
    | .fail code block atype addr syn =>
      refuse 0 { code, block, atype, addr, syn }
      return true
    | .bytes d =>
      if !gridAligned d then refuse (dword d 0x38) { code := Code.unaligned, block := Block.grid }
      else
        Act.modGrid fun g => { g with queue := g.queue ++ [{ who, ctx := c, desc := d }] }
        Act.regField .gridStatus who.val 7 0 Code.ok
      return true

/-- GRID_s_SUBMIT. A descriptor whose read parks waits to be queued. -/
def submitGrid (who : Who) (c va : Nat) : Act Nat := do
  let s ← Act.get
  if (s.ctx c).st = .free then Act.regField .gridStatus who.val 7 0 Code.faultXlat
  else if !(← acceptGrid who c va) then Act.modGrid fun g => { g with subs := g.subs ++ [(who, c, va)] }
  return Code.ok

/-- Submissions whose descriptor's read had parked are taken where it parks no more (R216). -/
def settleGrids : Act Unit := do
  let s ← Act.get
  for (who, c, va) in s.grid.subs do
    if !(← wouldPark (gridVia c) va false) then
      Act.modGrid fun g => { g with subs := g.subs.erase (who, c, va) }
      if ((← Act.get).ctx c).st = .free then Act.regField .gridStatus who.val 7 0 Code.faultXlat
      else let _ ← acceptGrid who c va

/-! ## Starts and yields (R294, R298) -/

/-- The request at place `i` of the queue is one of the 16 that its initiator may have queued. -/
def State.gridQueued (s : State) (i : Nat) : Bool :=
  match s.grid.queue[i]? with
  | some r => ((s.grid.queue.take i).filter (·.who = r.who)).length < 16
  | none => false

/-- Index of the request to serve next: the lowest class, then the order of the queue. -/
def State.nextGrid (s : State) : Option Nat :=
  let k (i : Nat) : Nat := match s.grid.queue[i]? with
    | some r => (s.ctx r.ctx).desc.cls
    | none => 8
  ((List.range s.grid.queue.length).filter s.gridQueued).foldl (fun b i => match b with
    | none => some i
    | some j => some (if k i < k j then i else j)) none

/-- Elements of a request (R294). -/
def GridReq.total (r : GridReq) : Nat := if r.gather then r.w * r.h * r.zb else natAt r.desc 0x20 4

/-- The next boundary of 16,384 elements. -/
def GridReq.boundary (r : GridReq) : Nat := (r.done / 16384 + 1) * 16384

/-- A request takes the Gridder; one that starts copies its table. A GATHER needs a committed table of an image
model. -/
def startGrid (i : Nat) : Act Unit := do
  let s ← Act.get
  match s.grid.queue[i]? with
  | none => nothing
  | some r =>
    Act.modGrid fun g => { g with queue := g.queue.eraseIdx i }
    if r.started then Act.modGrid fun g => { g with running := some r }
    else
      let t := s.grid.tables.at r.tableNo {}
      if r.gather && (!t.valid || natAt t.active 0x74 4 = 3) then
        failGrid r.ctx (dword r.desc 0x38) { code := Code.faultXlat, block := Block.grid, atype := 2, addr := r.tableNo }
      else Act.modGrid fun g => { g with running := some { r with table := t.active, gen := t.gen, started := true } }

/-! ## SCATTER (R299) -/

/-- The value of a finite FP32 word. -/
def fpRat (w : Word) : Rat := (fpUnits w : Rat) / 2 ^ 149

def fpFinite (w : Word) : Bool := field w 30 23 ≠ 255

/-- The value is one that FP32 holds. -/
def Num.isSingle (x : Num) : Bool := Num.cmp (fp32 x.toWord) x = some 0

/-- Every sum of some of the values is one that FP32 holds, so that no order of summing rounds. -/
def sumsExact : List Num → Num → Bool
  | [], a => a.isSingle
  | x :: t, a => sumsExact t a && sumsExact t (a.add x)

/-- A finite value as a multiple of 2^−256, rounded down. -/
def Num.toFx : Num → Fx
  | .fin n m e => Fx.shift (if n then -m else m) (e + 256)
  | _ => 0

/-- An FP32 sum of terms in some order, with at most `k` roundings on the way of a term: within the bound of R69; an
infinity or NaN among the terms gives what IEEE 754 does. Where a partial sum may overflow, the result is free. -/
def sumWithin (k : Nat) (terms : List Num) (free : Word) : Word :=
  let finite := terms.all fun x => x matches .fin _ _ _
  let size := (terms.map fun x => (x.toFx.natAbs : Int)).sum
  if !finite then (Num.sum terms).toWord
  else if 2 ^ 383 ≤ size then free
  else
    let v := (terms.map Num.toFx).sum
    let b := size * k / (2 ^ 24 - k) + k * 2 ^ 106
    anyWithin (v - b) (v + b) free

/-- One row of the transform applied to a point, in FP32: exact where no order rounds. -/
def gridRow (t : List Word) (x y z : Word) : Word :=
  let ps := [(fp32 (t.getD 0 0)).mul (fp32 x), (fp32 (t.getD 1 0)).mul (fp32 y), (fp32 (t.getD 2 0)).mul (fp32 z),
             fp32 (t.getD 3 0)]
  if sumsExact ps (.fin false 0 0) then (Num.sum ps).toWord
  else sumWithin 7 ps (Config.gridDot (t.getD 0 0) (t.getD 1 0) (t.getD 2 0) (t.getD 3 0) x y z)

/-- floor((v − origin) / edge) for FP32 words. -/
def binOf (v origin edge : Word) : Option Nat :=
  if !fpFinite v || !fpFinite origin then none
  else
    let i := (fpUnits v - fpUnits origin).fdiv (fpUnits edge)
    if 0 ≤ i then some i.toNat else none

/-- Where a point falls, and its value: none where it is dropped. -/
def scatterPoint (r : GridReq) (p : List Byte) : Option (Nat × Word) :=
  let v (i : Nat) := dword p (4 * i)
  let row (i : Nat) := (List.range 4).map fun j => dword r.table (16 * i + 4 * j)
  if fpNaN (v 0) || fpNaN (v 1) || fpNaN (v 2) || fpNaN (v 3) then none
  else
    let x := gridRow (row 0) (v 0) (v 1) (v 2)
    let y := gridRow (row 1) (v 0) (v 1) (v 2)
    let z := gridRow (row 2) (v 0) (v 1) (v 2)
    match binOf x (dword r.desc 0x28) (dword r.desc 0x24), binOf y (dword r.desc 0x2C) (dword r.desc 0x24),
          binOf z (dword r.desc 0x30) (dword r.desc 0x34) with
    | some i, some j, some k =>
      if i < r.w ∧ j < r.h ∧ k < r.zb then
        some ((k * r.h + j) * r.w + i, if field (dword r.desc 0) 14 13 = 0 then v 3 else z)
      else none
    | _, _, _ => none

/-- The reduction's identity (R299). -/
def reduceZero (op : Nat) : Word := if op = 0 then 0xFF800000 else if op = 1 then 0x7F800000 else 0

/-- The values of one element reduced, with what the element holds. -/
def reduceElem (op : Nat) (old : Word) (vs : List Word) : Word :=
  match op with
  | 0 => vs.foldl (fun a v => if Num.cmp (fp32 a) (fp32 v) = some (-1) then v else a) old
  | 1 => vs.foldl (fun a v => if Num.cmp (fp32 a) (fp32 v) = some 1 then v else a) old
  | 2 =>
    let ws := old :: vs
    let low := (ws.map fun v => (fpUnits v).natAbs).foldl Nat.gcd 0
    let sum := (ws.map fun v => (fpUnits v).natAbs).sum
    if vs.isEmpty then old
    else if ws.all fpFinite && sum < 2 ^ (padicValNat 2 low + 24) then
      let t := (ws.map fpUnits).sum
      (Num.fin (t < 0) t.natAbs (-149)).toWord
    else sumWithin ws.length (ws.map fp32) (Config.gridSum ws)
  | _ => old + Word.ofNat vs.length

/-- The planes after points fall on what they hold, and how many points are dropped. -/
def scatter (r : GridReq) (planes points : List Byte) : List Byte × Nat :=
  let op := field (dword r.desc 0) 12 10
  let hits := (List.range (points.length / 16)).map fun i => scatterPoint r ((points.drop (16 * i)).take 16)
  let got : Sparse (List Word) := hits.foldl (fun m h => match h with
    | some (k, v) => m.put k (m.at k [] ++ [v])
    | none => m) []
  ((List.range (r.w * r.h * r.zb)).flatMap fun k => bytesOf 4 (reduceElem op (dword planes (4 * k)) (got.at k [])).toNat,
   (hits.filter (·.isNone)).length)

/-- The planes with the identity in every element. -/
def GridReq.blank (r : GridReq) : List Byte :=
  (List.replicate (r.w * r.h * r.zb) (bytesOf 4 (reduceZero (field (dword r.desc 0) 12 10)).toNat)).flatten

/-! ## GATHER (R300) -/

/-- The centre of a cell in the sensor frame, by Rᵀ and −Rᵀt (R297). -/
def gatherCentre (r : GridReq) (k j i : Nat) : List Rat :=
  let q : List Rat := [fpRat (dword r.desc 0x28) + (i + 1 / 2) * fpRat (dword r.desc 0x24),
                       fpRat (dword r.desc 0x2C) + (j + 1 / 2) * fpRat (dword r.desc 0x24),
                       fpRat (dword r.desc 0x30) + (k + 1 / 2) * fpRat (dword r.desc 0x34)]
  let t (a b : Nat) : Rat := fpRat (dword r.table (16 * a + 4 * b))
  (List.range 3).map fun a => ((List.range 3).map fun b => t b a * (q.getD b 0 - t b 3)).sum

/-- The exact image coordinates of models 0 and 1; none behind ZNEAR. -/
def projectExact (r : GridReq) (c : List Rat) : Option (Rat × Rat) :=
  let z := c.getD 2 0
  let f (o : Nat) : Rat := fpRat (dword r.table o)
  if z ≤ f 0x7C then none
  else
    let a := c.getD 0 0 / z
    let b := c.getD 1 0 / z
    let r2 := a * a + b * b
    let d (i : Nat) : Rat := f (0x54 + 4 * i)
    let (a2, b2) : Rat × Rat :=
      if natAt r.table 0x74 4 = 0 then (a, b)
      else
        let rad := (1 + d 0 * r2 + d 1 * r2 ^ 2 + d 4 * r2 ^ 3) / (1 + d 5 * r2 + d 6 * r2 ^ 2 + d 7 * r2 ^ 3)
        (a * rad + 2 * d 2 * a * b + d 3 * (r2 + 2 * a * a), b * rad + d 2 * (r2 + 2 * b * b) + 2 * d 3 * a * b)
    some (f 0x40 * a2 + f 0x50 * b2 + f 0x48, f 0x44 * b2 + f 0x4C)

/-- A rational to 2^−256. -/
def ratFx (x : Rat) : Fx := x.num * 2 ^ 256 / x.den

/-- The image coordinates of model 2, to far below a pixel; none beyond THMAX. -/
def projectFisheye (r : GridReq) (c : List Rat) : Option (Rat × Rat) :=
  let f (o : Nat) : Fx := Fx.ofWord (dword r.table o)
  let x := ratFx (c.getD 0 0)
  let y := ratFx (c.getD 1 0)
  let rad := Fx.sqrt (x.mul x + y.mul y)
  let th := Fx.atan2 rad (ratFx (c.getD 2 0))
  if f 0x7C < th then none
  else
    let t2 := th.mul th
    let d (i : Nat) : Fx := f (0x54 + 4 * i)
    let thd := th.mul (Fx.one + t2.mul (d 0 + t2.mul (d 1 + t2.mul (d 2 + t2.mul (d 3)))))
    let a2 := if rad = 0 then 0 else (x.mul thd).quot rad
    let b2 := if rad = 0 then 0 else (y.mul thd).quot rad
    let u := (f 0x40).mul a2 + (f 0x50).mul b2 + f 0x48
    let v := (f 0x44).mul b2 + f 0x4C
    some ((u : Rat) / 2 ^ 256, (v : Rat) / 2 ^ 256)

/-- A projected coordinate: within 0.01 pixel of the exact one below 16,384 pixels, and anything beyond (R301). -/
def nearPixel (r : GridReq) (k j i axis : Nat) (u : Rat) : Rat :=
  let e := Config.gridError r.table r.desc k j i axis
  if u.num.natAbs < 16384 * u.den then ((u * 2 ^ 20).floor + (max (-10000) (min 10000 e)) : Int) / 2 ^ 20
  else (e : Rat) / 2 ^ 20

/-- Where a cell samples the image. -/
def project (r : GridReq) (k j i : Nat) : Option (Rat × Rat) :=
  let c := gatherCentre r k j i
  (if natAt r.table 0x74 4 = 2 then projectFisheye r c else projectExact r c).map fun p =>
    (nearPixel r k j i 0 p.1, nearPixel r k j i 1 p.2)

/-- A rational as an exact value with a sticky bit, for one rounding. -/
def ratNum (x : Rat) : Num :=
  let n := x.num.natAbs * 2 ^ 200
  .fin (x < 0) (2 * (n / x.den) + b2n (n % x.den ≠ 0)) (-201)

/-- One bilinear element: four corners with their weights. -/
def bilinear (fmt : Nat) (cs : List (Num × Rat)) : Nat :=
  let special := (cs.filter fun c => c.2 ≠ 0).map (·.1)
  let v : Num :=
    if special.any fun x => match x with | .fin _ _ _ => false | _ => true then special.foldl Num.add (.fin false 0 0)
    else ratNum ((cs.map fun c => c.2 * (match c.1 with
      | .fin n m e => (if n then -1 else 1) * (m : Rat) * (2 : Rat) ^ e
      | _ => 0)).sum)
  match Fp.of fmt with
  | some f => (v.toFp f 0 0 (fmt = Fmt.e4m3 || fmt = Fmt.e5m2)).bits
  | none => (v.toInt' (Fmt.bits fmt) 0 0).bits

/-- The corners of a sample: column, row and weight of each pixel. -/
def cornersOf (stride : Nat) (u v : Rat) : List (Int × Int × Rat) :=
  let fu := (u + 1 / 2) / stride - 1 / 2
  let fv := (v + 1 / 2) / stride - 1 / 2
  let a := fu - fu.floor
  let b := fv - fv.floor
  [(fu.floor, fv.floor, (1 - a) * (1 - b)), (fu.floor + 1, fv.floor, a * (1 - b)),
   (fu.floor, fv.floor + 1, (1 - a) * b), (fu.floor + 1, fv.floor + 1, a * b)]

/-- What an access of `n` bytes at `va` moves counts in its context's accounts (R192). -/
def accountVa (c va n : Nat) : Act Unit := do
  for i in List.range ((va % 65536 + n + 65535) / 65536) do
    match ← walkLeaf c (va / 65536 * 65536 + i * 65536) with
    | .leaf e _ =>
      let lo := max va (va / 65536 * 65536 + i * 65536)
      let hi := min (va + n) (va / 65536 * 65536 + (i + 1) * 65536)
      accountBytes c (tilePa e) (hi - lo)
    | .fail _ => nothing

/-- A read or write of a request: bytes, a wait, or a failure. -/
def gridRead (c va n : Nat) : Act Got := do
  if ← rangeWaits (gridVia c) va n false then return .park
  else
    let g ← readVa (gridVia c) va n
    if g matches .bytes _ then accountVa c va n
    return g

def gridWrite (c va : Nat) (bytes : List Byte) : Act Got := do
  if ← rangeWaits (gridVia c) va bytes.length true then return .park
  else
    let g ← writeVa (gridVia c) va bytes
    if g matches .bytes _ then accountVa c va bytes.length
    return g

/-- Pixels in a row and rows of the feature map (R300). -/
def GridReq.mapSize (r : GridReq) : Nat × Nat :=
  ((natAt r.table 0x78 2 + r.stride - 1) / r.stride, (natAt r.table 0x7A 2 + r.stride - 1) / r.stride)

/-- One cell's lines: zeros, and true, where it is dropped. -/
def gatherCell (r : GridReq) (k j i : Nat) : Act (Got × Bool) := do
  let bytes := r.lines * 64
  let zeros : Got := .bytes (List.replicate bytes 0)
  let (pw, ph) := r.mapSize
  match project r k j i with
  | none => return (zeros, true)
  | some (u, v) =>
    let cs := cornersOf r.stride u v
    let inside (c : Int × Int × Rat) : Bool := 0 ≤ c.1 && c.1 < pw && 0 ≤ c.2.1 && c.2.1 < ph
    if !(cs.any inside) then return (zeros, true)
    else
      let mut got : List (List Byte × Rat) := []
      let mut bad : Option Got := none
      for c in cs do
        if inside c && bad.isNone then
          match ← gridRead r.ctx (daddr r.desc 8 + (c.2.1.toNat * pw + c.1.toNat) * bytes) bytes with
          | .bytes b => got := got ++ [(b, c.2.2)]
          | g => bad := some g
      match bad with
      | some g => return (g, false)
      | none =>
        let w := Fmt.bits r.fmt
        return (.bytes (packElems w ((List.range (bytes * 8 / w)).map fun e =>
          bilinear r.fmt (got.map fun g => (Fmt.decode r.fmt (unpackAt w g.1 e), g.2)))), false)

/-! ## Progress (R294) -/

/-- How far a request comes: to an element, or to one whose access waits or fails. -/
structure GridRun where
  req : GridReq
  stop : Option Got := none
  deriving DecidableEq, Repr

/-- The GATHER elements up to `upto`, one by one. -/
def gatherTo (r : GridReq) (upto : Nat) : Act GridRun := do
  let mut run : GridRun := { req := r }
  for n in List.range (upto - r.done) do
    if run.stop.isNone then
      let e := r.done + n
      let (g, drop) ← gatherCell r (e / (r.w * r.h)) (e / r.w % r.h) (e % r.w)
      match g with
      | .bytes b =>
        match ← gridWrite r.ctx (daddr r.desc 0x10 + e * b.length) b with
        | .bytes _ => run := { run with req := { run.req with done := e + 1, dropped := run.req.dropped + b2n drop } }
        | x => run := { run with stop := some x }
      | x => run := { run with stop := some x }
  return run

/-- The SCATTER points up to `upto`, on planes that begin with the identity. -/
def scatterTo (r : GridReq) (upto : Nat) : Act GridRun := do
  let dst := daddr r.desc 0x10
  let size := 4 * r.w * r.h * r.zb
  if ← rangeWaits (gridVia r.ctx) dst size true then return { req := r, stop := some .park }
  else
    match ← gridRead r.ctx (daddr r.desc 8 + r.done * 16) ((upto - r.done) * 16),
          ← (if r.done = 0 then pure (.bytes r.blank) else readVa (gridVia r.ctx) dst size) with
    | .bytes points, .bytes planes =>
      let (out, dropped) := scatter r planes points
      match ← gridWrite r.ctx dst out with
      | .bytes _ => return { req := { r with done := upto, dropped := r.dropped + dropped } }
      | x => return { req := r, stop := some x }
    | .bytes _, x | x, _ => return { req := r, stop := some x }

/-- Runs a request up to an element. -/
def gridTo (r : GridReq) (upto : Nat) : Act GridRun :=
  if upto ≤ r.done then pure { req := r } else if r.gather then gatherTo r upto else scatterTo r upto

/-! ## Completion (R295) -/

/-- A code of the result word, or a teardown (R186, R295). -/
def endGrid (r : GridReq) (f : Failure) : Act Unit := do
  if Code.tears f.code then
    Act.modGrid fun g => { g with running := none }
    failGrid r.ctx (dword r.desc 0x38) f
  else
    let _ ← failureRecord f r.ctx 0x7FF 0 (dword r.desc 0x38)
    Act.modGrid fun g => { g with running := some { r with done := r.total, code := f.code } }

/-- The failure of an access of the Gridder's. -/
def Got.failure : Got → Failure
  | .fail code block atype addr syn => { code, block, atype, addr, syn }
  | _ => { code := Code.faultXlat, block := Block.xlat }

/-- The result word: code, GEN and elements dropped. -/
def GridReq.result (r : GridReq) : List Byte := bytesOf 8 (pack [(r.code, 0), (r.gen, 16), (r.dropped, 32)])

/-- A request that has processed its elements writes its result word, after every output byte, and DONE advances. -/
def reportGrid (r : GridReq) : Act Unit := do
  match ← gridWrite r.ctx (daddr r.desc 0x18) r.result with
  | .park => Act.modGrid fun g => { g with running := some r }
  | .bytes _ =>
    Act.modGrid fun g => { g with running := none }
    let u ← Act.get
    Act.regField .gridStatus r.who.val 31 16 (u.rf .gridStatus r.who.val 31 16 + 1)
  | g =>
    Act.modGrid fun g => { g with running := none }
    if Code.tears g.failure.code then failGrid r.ctx (dword r.desc 0x38) g.failure
    else let _ ← failureRecord g.failure r.ctx 0x7FF 0 (dword r.desc 0x38)

/-- A request stands where a run left it: waiting for an access, failed, or at its place. -/
def GridRun.settle (g : GridRun) : Act Unit := do
  match g.stop with
  | none | some .park => Act.modGrid fun x => { x with running := some g.req }
  | some x => endGrid g.req x.failure

/-- GRID_REQUEST_START: the Gridder takes the next request; or the running one comes to its next boundary of 16,384 elements,
and yields there to one of a lower class. -/
def gridRequestStart : Act Unit := do
  let t ← Act.get
  match (if t.serves then t.nextGrid else none), t.grid.running with
  | some i, none => startGrid i
  | some i, some r =>
    let q := (t.grid.queue[i]?).getD r
    if (t.ctx q.ctx).desc.cls < (t.ctx r.ctx).desc.cls && r.boundary < r.total then
      let g ← gridTo r r.boundary
      g.settle
      if g.stop.isNone then
        Act.modGrid fun x => { x with running := none }
        startGrid i
        Act.modGrid fun x => { x with queue := g.req :: x.queue }
  | none, _ => nothing

/-- GRID_REQUEST_COMPLETE. `disagree`: the two datapath copies differ; the failing copy is retired and the request
runs again on the other (R461). A request whose access waits does not complete. -/
def gridRequestComplete (disagree : Bool) : Act Unit := do
  let t ← Act.get
  match t.grid.running with
  | none => nothing
  | some r =>
    let tag := dword r.desc 0x38
    if disagree && !flag (t.rg .faultRetLink) 8 then
      let seq ← fault { code := Code.faultUnit, block := Block.grid, ctx := some r.ctx, tag }
      Act.regField .faultRetLink 0 8 8 1
      let _ ← retireRecord Code.faultUnit Block.grid seq
      Act.modGrid fun g => { g with running := some { r with retried := true, done := 0, dropped := 0 } }
    else
      let g ← gridTo r r.total
      g.settle
      match (← Act.get).grid.running with
      | some q => if q.total ≤ q.done then reportGrid q
      | none => nothing

/-- The running request reaches the tile of `pa`: the pages of its source, its output and its result word. -/
def gridTouches (r : GridReq) (pa : Nat) : Act Bool := do
  let (pw, ph) := r.mapSize
  let src := if r.gather then pw * ph * r.lines * 64 else r.total * 16
  let out := if r.gather then r.total * r.lines * 64 else 4 * r.w * r.h * r.zb
  let mut hit := false
  for (va, n) in [(daddr r.desc 8, src), (daddr r.desc 0x10, out), (daddr r.desc 0x18, 8)] do
    for i in List.range ((va % 65536 + n + 65535) / 65536) do
      if !hit then
        hit := (← reachesPa (gridVia r.ctx) ((va / 65536 + i) * 65536) false).any fun a => a / 65536 = pa / 65536
  return hit

/-- An access of the running request at `pa` fails (R240): answers whether it is one of its. -/
def failGridAt (pa : Nat) (f : Failure) : Act Bool := do
  let s ← Act.get
  match s.grid.running with
  | none => return false
  | some r =>
    if ← gridTouches r pa then
      endGrid r f
      return true
    else return false

/-! ## Transform tables (R296, R297) -/

/-- Reads 128 bytes for LOAD: through the page tables of context 1,023, or as a physical address while that context
has none (log entry 12). -/
def readTable (va : Nat) : Act Got := do
  let s ← Act.get
  if (s.ctx 1023).mapped then readVa (gridVia 1023) va 128
  else
    match regionAt va with
    | some .basin | some .psram | some .flash =>
      match ← readTier va 128 with
      | (_, some (a, syn)) => return .fail Code.faultEcc Block.grid 0 a syn
      | (b, none) => return .bytes b
    | _ => return .fail Code.faultXlat Block.grid 0 va 0

/-- The source of a LOAD is read into a shadow, or its failure is the status; false where the read parks. -/
def takeTable (who : Who) (t va : Nat) : Act Bool := do
  match ← readTable va with
  | .park => return false
  | .fail code _ _ _ _ => Act.regField .gridTabStatus who.val 7 0 code
  | .bytes b =>
    Act.modGrid fun g => { g with tables := g.tables.put t { g.tables.at t {} with shadow := b } }
    Act.regField .gridTabStatus who.val 7 0 Code.ok
  return true

/-- LOAD. One whose read parks is busy until it parks no more (R216). -/
def loadTable (who : Who) (t : Nat) : Act Nat := do
  let s ← Act.get
  let va := (s.rg .gridTabLo who.val).toNat + s.rf .gridTabHi who.val 15 0 * 2 ^ 32
  if !(← takeTable who t va) then Act.modGrid fun g => { g with loads := g.loads ++ [(who, t, va)] }
  return Code.ok

/-- LOADs that had parked are done where they park no more. -/
def settleLoads : Act Unit := do
  let s ← Act.get
  for (who, t, va) in s.grid.loads do
    if !(← wouldPark (gridVia 1023) va false) then
      Act.modGrid fun g => { g with loads := g.loads.erase (who, t, va) }
      let _ ← takeTable who t va

/-- What COMMIT checks of a shadow. -/
def tableOk (b : List Byte) : Bool :=
  let t (i j : Nat) := dword b (16 * i + 4 * j)
  let u (i j : Nat) : Int := fpUnits (t i j)
  let m := natAt b 0x74 4
  let lim := dword b 0x7C
  (List.range 29).all (fun i => fpFinite (dword b (4 * i))) &&
  u 3 0 = 0 && u 3 1 = 0 && u 3 2 = 0 && u 3 3 = 2 ^ 149 &&
  ((List.range 3).all fun i => (List.range 3).all fun j =>
    let d := ((List.range 3).map fun k => u k i * u k j).sum - (if i = j then 2 ^ 298 else 0)
    d.natAbs ≤ 2 ^ 282) &&
  fpAbove (dword b 0x40) && fpAbove (dword b 0x44) && m ≤ 3 &&
  1 ≤ natAt b 0x78 2 && natAt b 0x78 2 ≤ 16384 && 1 ≤ natAt b 0x7A 2 && natAt b 0x7A 2 ≤ 16384 &&
  (if m ≤ 1 then fpAbove lim else if m = 2 then fpNonneg lim && lim.toNat % 2 ^ 31 ≤ 0x40490FDB else lim = 0)

/-- COMMIT of the tables from `t` on. -/
def commitTables (who : Who) (t n : Nat) : Act Nat := do
  let s ← Act.get
  let ts := (List.range n).map (t + ·)
  if 256 < t + n || !(ts.all fun i => tableOk (s.grid.tables.at i {}).shadow) then
    Act.regField .gridTabStatus who.val 7 0 Code.faultXlat
  else
    for i in ts do
      Act.modGrid fun g =>
        let x := g.tables.at i {}
        { g with tables := g.tables.put i { x with active := x.shadow, gen := (x.gen + 1) % 65536, valid := true } }
    Act.regField .gridTabStatus who.val 7 0 Code.ok
  return Code.ok

/-- LOAD (R297). -/
def execGridLoad (who : Who) (table va : Nat) (s : State) : Host.Outcome State Fault Refusal :=
  Act.outcome (command who .gridTabCmd who.val (do
    Act.reg .gridTabLo who.val (Word.ofNat va)
    Act.reg .gridTabHi who.val (Word.ofNat (va / 2 ^ 32 % 2 ^ 16))
    loadTable who (table % 256))) s

/-- COMMIT (R297). -/
def execGridCommit (who : Who) (table countM1 : Nat) (s : State) : Host.Outcome State Fault Refusal :=
  Act.outcome (command who .gridTabCmd who.val (commitTables who (table % 256) (countM1 % 256 + 1))) s

/-- A write of GRID_TAB_s_CMD. -/
def tableCommand (who : Who) (value : Word) : Act Nat := do
  match field value 1 0 with
  | 1 => loadTable who (field value 9 2)
  | 2 => commitTables who (field value 9 2) (field value 17 10 + 1)
  | _ => return Code.ok

/-! ## Alignment (R305, R307) -/

/-- Bit q of GRID_EXCL. -/
def State.excluded (s : State) (q : Nat) : Bool :=
  if q < 32 then flag (s.rg .gridExclLo) q else flag (s.rg .gridExclHi) (q - 32)

def setExcluded (q : Nat) (v : Bool) : Act Unit :=
  if q < 32 then Act.regField .gridExclLo 0 q q (b2n v) else Act.regField .gridExclHi 0 (q - 32) (q - 32) (b2n v)

/-- The entry has been written, once for a frame: the stream is marked, or counts toward realignment. -/
def alignCheck (q : Nat) : Act Unit := do
  let s ← Act.get
  if flag (s.rg .gridAlignCfg q) 0 then
    let v := s.rg .gridAlignDelta q
    let d := (signed 31 (field v 30 0)).natAbs
    let p := (s.rg .gridAlignPeriod q).toNat
    let locked := flag v 31
    if !s.excluded q && (p < d || !locked) then
      setExcluded q true
      Act.countSat .gridStat 0 31 0
      Act.modGrid fun g => { g with good := g.good.put q 0 }
      let _ ← fault { code := Code.unaligned, block := Block.grid, ctx := s.qOwner q, atype := 2, addr := q }
    else if s.excluded q then
      let n := if locked && 2 * d ≤ p then s.grid.good.at q 0 + 1 else 0
      if max 1 (s.rf .gridAlignCfg q 9 6) ≤ n then
        setExcluded q false
        Act.modGrid fun g => { g with good := g.good.put q 0 }
      else Act.modGrid fun g => { g with good := g.good.put q n }

/-- A DELTA that holds at ±(2^30 − 1), and LOCKED, as the register's word. -/
def alignWord (d : Int) (locked : Bool) : Word :=
  let m : Int := 2 ^ 30 - 1
  let c := max (-m) (min m d)
  setField (BitVec.ofInt 32 c) 31 31 (b2n locked)

/-- A write of GRID_ALIGN_q_DELTA: taken in SOFT mode, discarded in TRIG mode. -/
def writeDelta (q : Nat) (value : Word) : Act Nat := do
  let s ← Act.get
  if !flag (s.rg .gridAlignCfg q) 1 then
    Act.reg .gridAlignDelta q (alignWord (signed 31 (field value 30 0)) (flag value 31))
    alignCheck q
  return Code.ok

/-- ALIGN_DELTA_WRITE (R305, R307). -/
def execAlignDeltaWrite (who : Who) (q : Fin 64) (value : Word) (s : State) : Host.Outcome State Fault Refusal :=
  Act.outcome (command who .gridAlignDelta q.val (writeDelta q.val value)) s

/-- TRIG mode: an FS packet with this stamp is committed to `q`, and fills the entry, checked or not (R305). -/
def alignFrame (q stamp : Nat) : Act Unit := do
  let s ← Act.get
  let cfg := s.rg .gridAlignCfg q
  if flag cfg 1 then
    let t : Int := (s.extend stamp : Int) - (s.rg .gridAlignLat q).toNat
    let e : Int := (s.clock.timed.at (field cfg 5 2) {}).lastLead
    let d := t - e
    Act.reg .gridAlignDelta q (alignWord d (0 ≤ d && d ≤ (s.rg .gridAlignPeriod q).toNat))
    alignCheck q

/-- What GEN and STATUS show (Table 12.3). -/
def State.gridReads (s : State) (r : Reg) (i : Nat) : Option Word :=
  match r with
  | .gridGen =>
    let t := s.grid.tables.at i {}
    some (Word.ofNat (pack [(t.gen, 0), (b2n t.valid, 16)]))
  | .gridStatus =>
    let full : Bool := 16 < (s.grid.queue.filter (·.who.val = i)).length
    some (setField (s.rg .gridStatus i) 8 8 (b2n (full || s.grid.subs.any fun x => x.1.val = i)))
  | .gridTabStatus => some (setField (s.rg .gridTabStatus i) 8 8 (b2n (s.grid.loads.any fun x => x.1.val = i)))
  | _ => none

end Sys2Proof.Machine
end

