-- ==== Sys2Proof/Machine/Settle.lean ====
section
/-!
DEFINITION. Sys2Proof/Machine/Settle.lean: what follows within a command from waits that failed in it (R81, R204, R232)
from optimisers that ended (R328) and from pages that came (R313, R326), and the commands that can set this off in any context.
-/
namespace Sys2Proof.Machine

/-- Kernels that run on engines and whose wait ended in failure end with its code (R81, R204). A heeled kernel acts on
it when it resumes (Table 3.10). -/
def settleKernels : Act Unit := do
  let s ← Act.get
  for (c, x) in s.ctxs do
    match x.kern with
    | some k =>
      match k.wait with
      | some w =>
        if k.phase = .running && w ≠ 0xFF && !Code.good w then
          failKernel c { code := w, block := Block.lock, atype := 2, addr := k.waitOn }
      | none => nothing
    | none => nothing

/-! ## Accesses of steward cores (R210, R216, R234) -/

/-- A failing access of a steward is recorded. -/
def stewardFault (c code block atype addr syn : Nat) : Act Unit := do
  let _ ← failureRecord { code, block, atype, addr, syn } c 0x7FF 0 0

/-- An access of a steward core; one that parks, or whose channel retrains, waits. -/
def stewardAccess (a : StewardAccess) : Act Unit := do
  let v : Via := { ctx := a.ctx, stop := Stop.steward a.core }
  if ← rangeWaits v a.va (match a.store with | some bs => bs.length | none => a.len) a.store.isSome then
    let _ ← translate v a.va a.store.isSome
    let t ← Act.get
    Act.make (.xlat { t.xlat with waiting := t.xlat.waiting ++ [a] })
  else
    match ← (match a.store with | some bs => writeVa v a.va bs | none => readVa v a.va a.len) with
    | .bytes _ => nothing
    | .park => nothing
    | .fail code block atype addr syn =>
      let addr := if atype = 0 && regionAt addr = some .weir then addr / 64 * 64 else addr
      stewardFault a.ctx code block atype addr syn
      if code = Code.faultEcc then
        let u ← Act.get
        countUncorrectable addr u.faults.seq

/-- Steward accesses that waited are made where they wait no more. A retired core makes none. -/
def settleStewards : Act Unit := do
  let s ← Act.get
  for a in s.xlat.waiting do
    let v : Via := { ctx := a.ctx, stop := Stop.steward a.core }
    if !(← rangeWaits v a.va (match a.store with | some bs => bs.length | none => a.len) a.store.isSome) then
      let t ← Act.get
      Act.make (.xlat { t.xlat with waiting := t.xlat.waiting.erase a })
      if !flag (t.rg .faultRetUnits) (20 + a.core) then stewardAccess a

/-! ## What follows -/

/-- A wait ends before another: by its timeout's time. -/
def insertWait (w : LWait) : List LWait → List LWait
  | [] => [w]
  | v :: t => if w.deadline.getD 0 ≤ v.deadline.getD 0 then w :: v :: t else v :: insertWait w t

/-- The waits whose timeout fired while time passed end, in the order of their timeouts (R201). -/
def expireWaits : Act Unit := do
  let s ← Act.get
  for w in (s.waits.filter fun w => s.late w.deadline).foldr insertWait [] do endWait w Code.timeout

/-- An action and all that follows from it in its step: an end of one can end a wait of another, thrice at most. Waits and
barges that have timed out have ended before it. -/
def settled (x : Act Unit) : Act Unit := do
  expireWaits
  expireBarges
  x
  settleStewards
  settleSubmits
  settleGrids
  settleLoads
  for _ in List.range 4 do
    settleBarges
    settleKernels
    settleEpochs
    settleSubs
    settlePlans

/-- LOCK_ADD (R198). -/
def execLockAdd (who : Who) (lock : Nat) (value : Word) (also : List LockOp) (s : State) :
    Host.Outcome State Fault Refusal :=
  Act.outcome (settled (lockOps (.add who lock value :: also))) s

/-- LOCK_SET (R198). -/
def execLockSet (who : Who) (lock : Nat) (value : Word) (also : List LockOp) (s : State) :
    Host.Outcome State Fault Refusal :=
  Act.outcome (settled (lockOps (.set who lock value :: also))) s

/-- KILL (R171, R186, R187). -/
def execCtxKill (who : Who) (c : Ctx) (s : State) : Host.Outcome State Fault Refusal :=
  Act.outcome (settled (command who .colCmd 0 (colCommand 3 (c % 1024)))) s

/-- GRID_SUBMIT (R294). -/
def execGridSubmit (who : Who) (c : Ctx) (va : Nat) (s : State) : Host.Outcome State Fault Refusal :=
  Act.outcome (settled (command who .gridSubmit who.val (do
    Act.reg .gridDescLo who.val (Word.ofNat va)
    Act.reg .gridDescHi who.val (Word.ofNat (va / 2 ^ 32 % 2 ^ 16))
    submitGrid who (c % 1024) va))) s

/-- GRID_REQUEST_START (R294). -/
def execGridRequestStart (s : State) : Host.Outcome State Fault Refusal := Act.outcome (settled gridRequestStart) s

/-- GRID_REQUEST_COMPLETE (R295). -/
def execGridRequestComplete (disagree : Bool) (s : State) : Host.Outcome State Fault Refusal :=
  Act.outcome (settled (gridRequestComplete disagree)) s

/-- PLAN_SUBMIT (R327). -/
def execPlanSubmit (who : Who) (c : Ctx) (va : Nat) (s : State) : Host.Outcome State Fault Refusal :=
  Act.outcome (settled (command who .planSubmit who.val (do
    Act.reg .planDescLo who.val (Word.ofNat va)
    Act.reg .planDescHi who.val (Word.ofNat (va / 2 ^ 32 % 2 ^ 16))
    submitPlan who (c % 1024) va))) s

/-- PLAN_DEADLINE (R330). -/
def execPlanDeadline (s : State) : Host.Outcome State Fault Refusal := Act.outcome (settled planDeadline) s

/-- PUBLISH (R312). -/
def execEpochPublish (who : Who) (s : State) : Host.Outcome State Fault Refusal :=
  Act.outcome (settled (command who .epochCmd who.val (publishCommand who))) s

/-- WATCH_CHECK (R333). -/
def execWatchCheck (l : Fin 16) (s : State) : Host.Outcome State Fault Refusal := Act.outcome (settled (watchCheck l.val)) s

end Sys2Proof.Machine
end

