-- ==== Sys2Proof/Machine/BargeRows.lean ====
section
/-!
DEFINITION. Sys2Proof/Machine/BargeRows.lean: the commands of barges (R217, R218, R230 to R237, R244), of Lock timeouts
(R201), of migration (R219, R224 to R226), of the PSRAM channels (R240) and of the flash tier (R241, R242).
-/
namespace Sys2Proof.Machine

/-! ## Barges -/

/-- A write of BARGE_s_SUBMIT (R244). A descriptor whose read parks, or for a channel whose queue holds 32, waits to be
queued: BUSY. -/
def submitBarge (who : Who) (c va : Nat) : Act Nat := do
  let s ← Act.get
  if !(s.acceptable c va) then
    Act.regField .bargeStatus who.val 7 0 (if (s.ctx c).st = .free then Code.faultXlat else Code.unaligned)
  else if !(← acceptBarge who c va) then
    let t ← Act.get
    Act.make (.xlat { t.xlat with subs := t.xlat.subs ++ [(who, c, va)] })
  return Code.ok

/-- BARGE_SUBMIT (R244). -/
def execBargeSubmit (who : Who) (c : Ctx) (va : Nat) (s : State) : Host.Outcome State Fault Refusal :=
  Act.outcome (command who .bargeSubmit who.val (do
    Act.reg .bargeDescLo who.val (Word.ofNat va)
    Act.reg .bargeDescHi who.val (Word.ofNat (va / 2 ^ 32 % 2 ^ 16))
    submitBarge who (c % 1024) va)) s

/-- The lowest free slot of a channel, which has eight. -/
def State.freeSlot (s : State) (n : Nat) : Option Nat :=
  ((List.range 8).map fun i => n * 8 + i).find? fun slot => (s.flying.find slot).isNone

/-- The barge that channel `n` issues next, and its slot: the first of its queue, but for contexts whose ring is full, which
start none (R37, R230). -/
def State.nextBarge (s : State) (n : Nat) : Option (Barge × Nat) :=
  let full (c : Nat) : Bool := (s.ctx c).ring.isFull (s.ctx c).desc.ringK || !(s.ctx c).ring.held.isEmpty
  match (s.chanQueues.at n []).find? (fun b => s.serves && !full b.ctx), s.freeSlot n with
  | some b, some slot => some (b, slot)
  | _, _ => none

/-- Where channel `n` stands in the order of service: the class of its barge's context, and round robin within a class from
the channel served last (R230). -/
def State.service (s : State) (n : Nat) (b : Barge) : Nat := (s.ctx b.ctx).desc.cls * 64 + (n + 63 - s.served % 64) % 64

/-- No other channel comes before channel `n`. -/
def State.servedFirst (s : State) (n : Nat) (b : Barge) : Bool :=
  s.chanQueues.all fun q => match s.nextBarge q.1 with
    | some (y, _) => q.1 = n || s.service n b < s.service q.1 y
    | none => true

/-- BARGE_ISSUE: the next barge of the channel is in flight, once the channel is the first in the order of service. -/
def execBargeIssue (channel : Fin 64) (s : State) : Host.Outcome State Fault Refusal :=
  Act.outcome (settled (do
    let t ← Act.get
    let n := channel.val
    match t.nextBarge n with
    | some (b, slot) =>
      if t.servedFirst n b then
        Act.make (.channel n ((t.chanQueues.at n []).erase b))
        Act.make (.serve n)
        issueBarge slot b
    | none => nothing)) s

/-- BARGE_TILE_LAND (R217). -/
def execBargeTileLand (slot tile : Nat) (s : State) : Host.Outcome State Fault Refusal :=
  Act.outcome (settled (landTile slot tile)) s

/-- BARGE_COMPLETE (R231). -/
def execBargeComplete (slot : Nat) (s : State) : Host.Outcome State Fault Refusal :=
  Act.outcome (settled (do
    let t ← Act.get
    match t.flying.find slot with
    | some b => if b.whole then finishBarge slot b
    | none => nothing)) s

/-- BARGE_TIMEOUT: TMO expires; a last tile that landed in that cycle comes first (Table 9.4). -/
def execBargeTimeout (slot : Nat) (s : State) : Host.Outcome State Fault Refusal :=
  Act.outcome (settled (do
    let t ← Act.get
    match t.flying.find slot with
    | none => nothing
    | some b =>
      match b.deadline with
      | none => nothing
      | some d =>
        reach d
        timeOutBarge slot b)) s

/-- SPLIT_RETRY: the one retry of a failed attempt begins (R237). -/
def execSplitRetry (t : SplitTarget) (s : State) : Host.Outcome State Fault Refusal :=
  Act.outcome (do
    let u ← Act.get
    match t with
    | .barge slot =>
      match u.flying.find slot with
      | some b =>
        if b.failed then
          Act.make (.fly slot { b with failed := false, retry := true })
          Act.countSat .bargeRetries 0 31 0
      | none => nothing
    | .kernel c =>
      match (u.ctx c).kern with
      | some k =>
        if k.phase = .failed then
          rewindQueues c
          Act.modKernel c fun k => { k with phase := .again, retried := true }
          Act.countSat .bargeRetries 0 31 0
      | none => nothing) s

/-! ## Timeouts of Lock waits (R201, R203) -/

/-- The entry a timeout names. -/
def State.waitOf (s : State) : WaitId → Option LWait
  | .kernel c => s.waits.find? fun w => w.waiter = .kernel c
  | .barge slot => s.waits.find? fun w => w.waiter = .barge slot
  | .armed who k => (s.armedBy who.val)[k]?

/-- WAIT_TIMEOUT: a wait with a timeout reaches it (R201). -/
def execWaitTimeout (w : WaitId) (s : State) : Host.Outcome State Fault Refusal :=
  Act.outcome (settled (do
    let t ← Act.get
    match t.waitOf w with
    | none => nothing
    | some e =>
      match e.deadline with
      | none => nothing
      | some d =>
        reach d
        endWait e Code.timeout)) s

/-! ## Migration (R219, R224 to R226) -/

/-- Every leaf, of any context, that maps the tile: the leaf's address and the entry (R226). -/
def State.mappings (s : State) (tile : Nat) : List (Nat × Nat) :=
  (s.ctxs.filter fun x => x.2.st ≠ .free && x.2.mapped).flatMap fun x =>
    (s.leaves x.2.desc.ptRoot).filterMap fun l => if leafOk l.2.2 && tilePa l.2.2 = tile then some (l.2.1, l.2.2) else none

/-- Whether a page may move to a tile: a tile of the Basin, PSRAM or flash tier that is backed, in service, not pinned and
mapped by no page. -/
def State.takesPage (s : State) (pa : Nat) : Bool :=
  (match regionAt pa with
    | some .basin => true
    | some .psram => s.backed pa && !s.lostTile pa
    | some .flash => true
    | _ => false) && !s.pinned pa && !s.xlat.retired.contains pa && (s.mappings pa).isEmpty

/-- The pages, views taken out, that tile `i` of a barge reads or writes (R139, R217). -/
def State.tilePages (s : State) (slot : Nat) (b : Barge) (i : Nat) : List Nat :=
  let page (va : Nat) (write : Bool) : Option Nat := (s.flatVa (b.via slot) va write).map (· / 65536)
  ((b.desc.sourcePages i).filterMap fun p => page (p * 65536) false) ++ (page (b.desc.dstVa i) true).toList

/-- The accesses parked on a page's pull end with a code (R219): of a kernel by its views, of a barge by the pages of the
parked tile. -/
def endParked (c page code block addr : Nat) : Act Unit := do
  let s ← Act.get
  match (s.ctx c).kern with
  | some k =>
    let v := s.viaKernel k c Stop.barge
    if s.engines.any fun e => e.2.ctx = some c && e.2.parkVa.any fun va =>
        ((s.flatVa v va false).orElse fun _ => s.flatVa v va true).map (· / 65536) = some page then
      failKernel c { code, block, atype := if code = Code.faultEcc then 0 else 1, addr }
  | none => nothing
  for (slot, b) in s.flying do
    if b.ctx = c && b.parked.any fun i => (s.tilePages slot b i).contains page then
      failBarge slot { code, block, atype := if code = Code.faultEcc then 0 else 1, addr }

/-- What the tags say to a barge of one tile that moves a page: both tiles must be free of other attempts, and the source
must hold a result (Table 9.3). -/
def State.moveOutcome (s : State) (src dst : Nat) : TagOut :=
  if (s.tagAt src).1 = Tag.opened then .park
  else if (s.tagAt src).1 = Tag.dead then .fail Code.splitFailed
  else if (s.tagAt dst).1 = Tag.opened then .fail Code.faultXlat
  else .go

/-- A barge that moves a page would wait: for a tile OPEN under an attempt, or for a channel that retrains (R240). -/
def State.moveWaits (s : State) (src dst : Nat) : Bool :=
  s.moveOutcome src dst = .park || s.retraining src || s.retraining dst

/-- Moves one tile for context 1,023 as a barge of one tile does: the failure that stops it, if one does. A DEAD
destination opens and closes LIVE (R234). -/
def moveTile (src dst : Nat) : Act (Option Failure) := do
  let s ← Act.get
  match s.moveOutcome src dst with
  | .fail code => return some { code, block := Block.xlat, atype := 0, addr := if code = Code.splitFailed then src else dst }
  | _ =>
    accountBytes 1023 src 65536
    let (bytes, hit, copied) ← readCopy src 65536
    match hit with
    | some (a, syn) =>
      let t ← Act.get
      return some { code := Code.faultEcc, block := t.eccBlock a, atype := 0, addr := a, syn }
    | none =>
      accountBytes 1023 dst 65536
      let code ← if inTier src && inTier dst && !copied then do
          copyPhys src dst 65536
          pure Code.ok
        else writeTier dst bytes
      if code ≠ Code.ok then return some { code, block := Block.ftl, atype := 0, addr := dst }
      else
        if (s.tagAt dst).1 = Tag.dead then setTag dst Tag.live 0
        return none

/-- A migration that fails is recorded under context 1,023 (R225). -/
def migrationRecord (f : Failure) : Act Unit := do
  let _ ← failureRecord f 1023 0x7FF 0 0

/-- A migration fails: recorded, and accesses parked on the pull end (R219). -/
def failMigration (c page : Nat) (f : Failure) : Act Unit := do
  migrationRecord f
  let s ← Act.get
  if s.xlat.pulls.contains (c, page) then
    Act.make (.xlat { s.xlat with pulls := s.xlat.pulls.erase (c, page) })
    endParked c page f.code f.block (if f.code = Code.faultEcc then f.addr else page * 65536)

/-- Every mapping of tile `old` moves to tile `new`, under MOVING and between its invalidations (R224, R226); a failure stops
the move and leaves the mappings as they were (R225). -/
def moveMapped (old new : Nat) : Act (Option Failure) := do
  let s ← Act.get
  let maps := s.mappings old
  for (pa, v) in maps do writePhys pa (bytesOf 8 (BitVec.ofNat 64 v ||| (16#64)).toNat)
  let hit ← moveTile old new
  let settleLeaf (pa v : Nat) : Act Unit := do
    let w := (BitVec.ofNat 64 v &&& ~~~(16#64)).toNat
    writePhys pa (bytesOf 8 (if hit.isNone then w - tilePa w + new else w))
  for (pa, v) in maps do settleLeaf pa v
  let t ← Act.get
  Act.make (.xlat { t.xlat with tlb := t.xlat.tlb.filter fun x => tilePa x.leaf.toNat ≠ old })
  return hit

/-- The page that a context maps moves to a new tile (R224). A new tile that takes no page is Rhoson without a free one
(R219). A tile OPEN under an attempt, or on a channel that retrains, holds the migration's barge: the page moves later. -/
def migratePage (c page new : Nat) : Act Unit := do
  match ← walkLeaf c (page * 65536) with
  | .fail _ => nothing
  | .leaf e _ =>
    let s ← Act.get
    let l : BitVec 64 := BitVec.ofNat 64 e
    let old := tilePa e
    if flag l 2 || s.pinned old || regionAt old = some .slice then nothing
    else if !s.takesPage new then
      failMigration c page { code := Code.faultXlat, block := Block.xlat, atype := 1, addr := page * 65536 }
    else if s.moveWaits old new then nothing
    else
      match ← moveMapped old new with
      | some f => failMigration c page f
      | none =>
        let u ← Act.get
        Act.make (.xlat { u.xlat with pulls := u.xlat.pulls.erase (c, page) })

/-- MIGRATE (R224). The new tile is PA[47:16]. -/
def execMigrate (c : Ctx) (page tile : Nat) (s : State) : Host.Outcome State Fault Refusal :=
  Act.outcome (settled (migratePage c page (tile * 65536))) s

/-! ## PSRAM channels (R240, R463) -/

/-- The channel begins to retrain; a third time within 10 s retires it (Table 21.7). -/
def startRetrain (ch link : Nat) : Act Unit := do
  let s ← Act.get
  let p := s.psram.at ch {}
  let ts := recent s.ns 10000000000 p.retrains ++ [s.ns]
  Act.make (.psram ch { p with retraining := true, retrains := ts, lastFault := link })
  if 3 ≤ ts.length then
    retireChannel ch Code.faultUnit link
    checkUnits

/-- What the burst at `pa` serves: a barge with a tile there still to land, else a kernel that a line from there is on its way
to. -/
def servedBy (pa : Nat) : Act (Option (Nat ⊕ Nat)) := do
  let t ← Act.get
  let mut out : Option (Nat ⊕ Nat) := none
  for (slot, b) in t.flying do
    if out.isNone && !b.failed && !b.waiting && b.waitCode.isNone then
      for i in List.range b.desc.dstTiles do
        if !b.landed.contains i then
          let at' := (← bargeSrc slot b i) ++ (← bargeDst slot b i).getD []
          if at'.any (· / 65536 = pa / 65536) then out := some (.inl slot)
  for (c, x) in t.ctxs do
    if out.isNone && (x.kern.any fun k => k.flights.any fun f => f.from'.any (· / 64 = pa / 64)) then out := some (.inr c)
  return out

/-- PSRAM_BURST_CRC_FAIL: the fifth transfer of a burst fails; the access it serves fails with FAULT_LINK, and the channel
retrains. -/
def execPsramBurstCrcFail (channel : Fin 96) (pa : Nat) (lastCrc : BitVec 16) (s : State) : Host.Outcome State Fault Refusal :=
  Act.outcome (settled (do
    let t ← Act.get
    let ch := channel.val
    let p := t.psram.at ch {}
    Act.make (.psram ch { p with crcRetry := min 65535 (p.crcRetry + 4) })
    let syn := 5 + 256 + 65536 * lastCrc.toNat
    let f : Failure := { code := Code.faultLink, block := Block.channel ch, atype := 0, addr := pa, syn }
    match ← servedBy pa with
    | some (.inl slot) => failBarge slot f
    | some (.inr c) => failKernel c f
    | none =>
      if !(← failGridAt pa f) then
        let _ ← fault { code := f.code, block := f.block, atype := 0, addr := pa, syn }
    let u ← Act.get
    startRetrain ch u.faults.seq)) s

/-- CHANNEL_RETRAIN_END: the channel returns to service, with a repair record, or is retired. -/
def execChannelRetrainEnd (channel : Fin 96) (ok : Bool) (s : State) : Host.Outcome State Fault Refusal :=
  Act.outcome (settled (do
    let t ← Act.get
    let ch := channel.val
    let p := t.psram.at ch {}
    if p.retraining then
      if ok then
        Act.make (.psram ch { p with retraining := false })
        let _ ← repairRecord (Block.channel ch) 2 0 2 ch p.lastFault
      else
        retireChannel ch Code.faultLink p.lastFault
        checkUnits)) s

/-! ## The flash tier (R241, R242) -/

/-- READ_DISTURB_REFRESH: the FTL writes the block's pages anew, which wears the flash (R241); where they then lie is its own
map's. A NAND channel that is retired has none (R462). -/
def execReadDisturbRefresh (nand : Fin 4) (_block : Nat) (s : State) : Host.Outcome State Fault Refusal :=
  Act.outcome (do
    let t ← Act.get
    if !flag (t.rg .faultRetUnits) (16 + nand.val) then
      Act.countSat .ftlRefresh 0 31 0
      wearFlash) s

/-- FTL_READY: READY sets, with the FTL's figures of its spare pool and wear; parked accesses may go on. A spare pool
that is exhausted sets RDONLY (R242). -/
def execFtlReady (s : State) : Host.Outcome State Fault Refusal :=
  Act.outcome (settled (do
    Act.regField .ftlStatus 0 0 0 1
    wearFlash)) s

/-- What BARGE_INFLIGHT, a full channel's BUSY and PSC_CH_STAT read. -/
def State.bargeReads (s : State) (r : Reg) (i : Nat) : Option Word :=
  match r with
  | .bargeInflight => some (Word.ofNat s.flying.length)
  | .bargeStatus =>
    let busy := s.xlat.subs.any (fun x => x.1.val = i) ||
      s.chanQueues.any fun q => (q.2.drop 32).any fun b => b.who.any fun w => decide (w.val = i)
    some (setField (s.rg .bargeStatus i) 8 8 (b2n busy))
  | .pscChStat =>
    let p := s.psram.at (s.rf .pscChSel 0 6 0) {}
    some (Word.ofNat (pack [(p.crcRetry, 0), (p.corr, 16)]))
  | _ => none

end Sys2Proof.Machine
end

