-- ==== Sys2Proof/Machine/Bundle.lean ====
section
/-!
DEFINITION. Sys2Proof/Machine/Bundle.lean: the control word (Table 3.1) and the engine word (Tables 3.2 to 3.8) as
fields, and what an issue reads and writes as the interlocks see it (R91, R92). The loader's checks and the engines
both read bundles through these.
-/
namespace Sys2Proof.Machine

/-- A control word. -/
abbrev CW := BitVec 128
/-- An engine word. -/
abbrev EW := BitVec 512

def CW.yield (w : CW) : Bool := flag w 0
def CW.fin (w : CW) : Bool := flag w 1
def CW.rep (w : CW) : Nat := field w 15 4
def CW.loop (w : CW) : Nat := field w 17 16
def CW.loopId (w : CW) : Nat := field w 19 18
def CW.target (w : CW) : Nat := field w 31 20
def CW.count (w : CW) : Nat := field w 51 32
def CW.lockSlot (w : CW) : Nat := field w 71 64
def CW.lockOp (w : CW) : Nat := field w 74 72
def CW.scope (w : CW) : Bool := flag w 75
def CW.lockVal (w : CW) : Nat := field w 91 76
def CW.tmo (w : CW) : Nat := field w 107 92
def CW.go (w : CW) : Bool := flag w 108
def CW.bargeIdx (w : CW) : Nat := field w 116 109

def EW.cmask (w : EW) : Nat := field w 3 0
def EW.pred (w : EW) : Bool := flag w 4
def EW.pneg (w : EW) : Bool := flag w 5
def EW.dop (w : EW) : Nat := field w 19 16
def EW.fmtW (w : EW) : Nat := field w 23 20
def EW.fmtA (w : EW) : Nat := field w 27 24
def EW.accIdx (w : EW) : Nat := field w 35 28
def EW.apinc (w : EW) : Nat := field w 39 36
def EW.aoff (w : EW) : Nat := field w 46 40
def EW.swap (w : EW) : Bool := flag w 47
def EW.ainc (w : EW) : Bool := flag w 48
def EW.soff (w : EW) : Nat := field w 55 49

def EW.vop (w : EW) : Nat := field w 86 80
def EW.vd (w : EW) : Nat := field w 90 87
def EW.va (w : EW) : Nat := field w 94 91
def EW.vb (w : EW) : Nat := field w 98 95
def EW.vc (w : EW) : Nat := field w 102 99
def EW.fmtIn (w : EW) : Nat := field w 106 103
def EW.fmtOut (w : EW) : Nat := field w 110 107
def EW.rnd (w : EW) : Nat := field w 112 111
def EW.sat (w : EW) : Bool := flag w 113
def EW.half (w : EW) : Bool := flag w 114
def EW.accsrc (w : EW) : Bool := flag w 115
def EW.accv (w : EW) : Nat := field w 123 116
def EW.vpinc (w : EW) : Nat := field w 126 124
def EW.pset (w : EW) : Bool := flag w 127
def EW.immb (w : EW) : Bool := flag w 128
def EW.imm (w : EW) : Nat := field w 144 129

/-- A Basin port slot. -/
abbrev Port := BitVec 64
/-- The slot of Basin port `p`. -/
def EW.port (w : EW) (p : Nat) : Port := BitVec.ofNat 64 (w.toNat / 2 ^ (176 + 64 * p))

def Port.bop (p : Port) : Nat := field p 2 0
def Port.ag (p : Port) : Nat := field p 5 3
def Port.post (p : Port) : Bool := flag p 6
def Port.tgt (p : Port) : Nat := field p 10 7
def Port.vreg (p : Port) : Nat := field p 14 11
def Port.vhalf (p : Port) : Bool := flag p 15
def Port.wbytes (p : Port) : Nat := 64 / 2 ^ field p 17 16
def Port.rch (p : Port) : Nat := field p 20 18

def EW.sop (w : EW) : Nat := field w 307 304
def EW.deng (w : EW) : Nat := field w 310 308
def EW.dsel (w : EW) : Nat := field w 312 311
def EW.dcell (w : EW) : Nat := field w 320 313
def EW.rbuf (w : EW) : Nat := field w 323 321
def EW.var (w : EW) : Nat := field w 326 324
def EW.vpost (w : EW) : Bool := flag w 327
def EW.vstride (w : EW) : Int := signed 16 (field w 343 328)
def EW.wq (w : EW) : Nat := field w 349 344
def EW.ssrc (w : EW) : Bool := flag w 350
def EW.svr (w : EW) : Nat := field w 354 351
def EW.shalf (w : EW) : Bool := flag w 355
def EW.rop (w : EW) : Nat := field w 385 384
def EW.rch (w : EW) : Nat := field w 388 386
def EW.rvreg (w : EW) : Nat := field w 392 389
def EW.rhalf (w : EW) : Bool := flag w 393
def EW.waitN (w : EW) : Nat := field w 397 394
def EW.aop (w : EW) : Nat := field w 418 416
def EW.agA (w : EW) : Nat := field w 421 419
def EW.agB (w : EW) : Nat := field w 424 422
def EW.ava (w : EW) : Nat := field w 427 425
def EW.const (w : EW) : Nat := field w 437 428

/-! ## The dot unit's pairs (Table 2.4) -/

/-- Group size of an operand pair; none where the table has no row. -/
def dotGroup (a b : Nat) : Option Nat :=
  let mx46 (f : Nat) : Bool := f = 8 || f = 9 || f = 10
  let eight (f : Nat) : Bool := f = 2 || f = 3 || f = 11 || f = 12 || f = 13
  let half (f : Nat) : Bool := f = 4 || f = 5
  if a = 0 && b = 0 then some 32
  else if a ≤ 1 && b ≤ 1 then some 16
  else if mx46 a && mx46 b then some 32
  else if (eight a || mx46 a) && (eight b || mx46 b) then some 16
  else if half a && half b then some 4
  else if a = 6 && b = 6 then some 1
  else none

/-- Group size of a MAC. -/
def EW.group (w : EW) : Nat := (dotGroup w.fmtW w.fmtA).getD 1

/-! ## Vector opcodes (Table 3.5) -/

def VOp.listed (v : Nat) : Bool :=
  v ≤ 0x0D || (0x10 ≤ v && v ≤ 0x1E) || (0x20 ≤ v && v ≤ 0x22) || (0x28 ≤ v && v ≤ 0x31) || v = 0x38 || v = 0x39

def VOp.isFunction (v : Nat) : Bool := 0x10 ≤ v && v ≤ 0x1E
def VOp.isInteger (v : Nat) : Bool := 0x28 ≤ v && v ≤ 0x31
def VOp.isCompare (v : Nat) : Bool := 0x0A ≤ v && v ≤ 0x0C

def VOp.latency (v : Nat) : Nat :=
  if VOp.isFunction v then 12 else if 0x20 ≤ v && v ≤ 0x22 then 6 else if v = 0x38 || v = 0x39 then 8 else 4

/-- Cycles the unit is busy: 32 divided by the rate of Table 2.6. -/
def VOp.busy (v : Nat) : Nat :=
  match v with
  | 0x12 | 0x15 | 0x17 | 0x18 | 0x19 | 0x1A => 2
  | 0x13 | 0x1B | 0x1C | 0x1D | 0x1E => 4
  | _ => 1

/-- Operands an opcode reads: VA, VB, VC. -/
def VOp.readsB (v : Nat) : Bool :=
  (1 ≤ v && v ≤ 6) || v = 0x09 || (0x0A ≤ v && v ≤ 0x0D) || v = 0x13 || v = 0x1E || VOp.isInteger v
def VOp.readsC (v : Nat) : Bool := v = 0x04

/-- The opcode rounds under RND. -/
def VOp.rounds (v : Nat) : Bool :=
  (1 ≤ v && v ≤ 4) || VOp.isFunction v || (0x20 ≤ v && v ≤ 0x22) || v = 0x38

/-- The vector registers a vector slot reads. -/
def EW.vectorReads (w : EW) : List Nat :=
  let v := w.vop
  if v = 0 then []
  else (if w.accsrc then [] else [w.va]) ++
    (if !w.immb && (VOp.readsB v || (v = 0x22 && Fmt.isMx w.fmtIn)) then [w.vb] else []) ++
    (if VOp.readsC v then [w.vc] else [])

/-! ## Interlocks (R91, R92) -/

/-- A Basin slot's target as an interlocked resource, with the latency of a READ. -/
def Port.board (p : Port) : List (Nat × Res) :=
  if p.bop ≠ 1 then []
  else match p.tgt with
    | 8 => [(3, .v p.vreg)]
    | 2 | 3 | 4 | 5 | 6 | 11 | 12 => [(3, .shadow)]
    | _ => []

/-- What an issue writes, with latencies. Entries are absolute under the pointer `ap`. -/
def EW.writes (w : EW) (ap : Nat) : List (Nat × Res) :=
  Port.board (w.port 0) ++ Port.board (w.port 1) ++
  (if w.dop = 1 || w.dop = 2 then [(12, .acc ((ap + w.accIdx) % 256))] else []) ++
  (if w.vop = 0 then []
    else if VOp.isCompare w.vop && w.pset then [(VOp.latency w.vop, .pred)]
    else [(VOp.latency w.vop, .v w.vd)]) ++
  (if w.rop = 1 then [(2, .v w.rvreg)] else [])

/-- What an issue must find landed: registers, P and accumulator entries it reads, and registers it writes (R92). The
accumulator file is read by the vector unit alone (R59); the send buffer and the latches are not interlocked. -/
def EW.needs (w : EW) (ap vp : Nat) : List Res :=
  (w.vectorReads.map .v) ++
  (if w.vop ≠ 0 && w.accsrc then [.acc ((vp + w.accv) % 256), .acc ((vp + w.accv + 1) % 256)] else []) ++
  (if w.pred || w.pneg || w.vop = 0x0D then [.pred] else []) ++
  ([w.port 0, w.port 1].flatMap fun (p : Port) => if p.bop = 2 && p.tgt = 8 then [.v p.vreg] else []) ++
  (if (w.sop = 1 || w.sop = 2) && w.ssrc then [.v w.svr] else []) ++
  (if w.swap then [.shadow] else []) ++
  ((w.writes ap).filterMap fun x => match x.2 with | .v r => some (.v r) | .pred => some .pred | _ => none)

/-- The cycle from which an issue is held no more, given what is pending, and the vector unit's next free cycle. -/
def EW.readyAt (w : EW) (board : List (Nat × Res)) (ap vp vbusy cyc : Nat) : Nat :=
  let needs := w.needs ap vp
  let t := (board.filter fun b => needs.contains b.2).foldl (fun m b => max m b.1) cyc
  if w.vop = 0 then t else max t vbusy

/-- AP after an issue. -/
def EW.nextAp (w : EW) (ap : Nat) : Nat := ((if w.dop = 3 then w.accIdx else ap) + w.apinc) % 256

/-- VP after an issue. -/
def EW.nextVp (w : EW) (vp : Nat) : Nat := (vp + w.vpinc) % 256

end Sys2Proof.Machine
end

