-- ==== Sys2Proof/Machine/Streams.lean ====
section
/-!
DEFINITION. Sys2Proof/Machine/Streams.lean: address-generator streams (R108 to R115, R128 to R130): linear, window and
box.
-/
namespace Sys2Proof.Machine

/-- A stream at the start of its configuration: LOAD and kernel start set every position to 0 (R108, R113). -/
def Stream.start (cfg : BitVec 256) : Stream := { cfg }

def Stream.kind (x : Stream) : Nat := field x.cfg 1 0
def Stream.base (x : Stream) : Nat := field x.cfg 21 4

/-- A position of a stream: an address, or a padded tap that counts or, in a null box, does not. -/
inductive Tap where
  | at (a : Int)
  | pad (counts : Bool)
  deriving DecidableEq, Repr

/-- CNT and STR of linear counter `i` (Table 4.1). -/
def Stream.linCount (x : Stream) (i : Nat) : Nat := field x.cfg (43 + 32 * i) (32 + 32 * i)
def Stream.linStep (x : Stream) (i : Nat) : Int := signed 20 (field x.cfg (63 + 32 * i) (44 + 32 * i))

/-- Column and row to an address, or a padded tap (R111, R112). -/
def Stream.mapTap (x : Stream) (ix iy : Int) (cl : Nat) (clamp : Bool) : Tap :=
  let iw : Int := field x.cfg 143 128
  let ih : Int := field x.cfg 159 144
  let inside : Bool := 0 ≤ ix && ix < iw && 0 ≤ iy && iy < ih
  if !inside && !clamp then .pad true
  else
    let cx := max 0 (min (iw - 1) ix)
    let cy := max 0 (min (ih - 1) iy)
    .at (x.base + (cy - field x.cfg 175 160) * (field x.cfg 207 188) * 64 + cx * (field x.cfg 187 176) * 64 + cl * 64)

/-- The current position of a linear or window stream. -/
def Stream.tap (x : Stream) : Tap :=
  if x.kind = 0 then
    .at (x.base + x.n0 * x.linStep 0 + x.n1 * x.linStep 1 + x.n2 * x.linStep 2 + x.n3 * x.linStep 3)
  else
    let ix := signed 16 (field x.cfg 79 64) + x.n3 * (field x.cfg 101 96 + 1) + x.n1 * (field x.cfg 115 108 + 1)
    let iy := signed 16 (field x.cfg 95 80) + x.n4 * (field x.cfg 107 102 + 1) + x.n2 * (field x.cfg 123 116 + 1)
    x.mapTap ix iy x.n0 (field x.cfg 3 2 = 1)

/-- The current position of a box stream under its box's record: BX, BY, SX, SY (R129, R130). -/
def Stream.boxTap (x : Stream) (rec : List Byte) : Tap :=
  let f (o : Nat) : Int := signed 32 (natAt rec o 4)
  if natAt rec 0 4 = 0x8000_0000 then .pad false
  else
    let xu := f 0 + x.n2 * f 8
    let yv := f 4 + x.n3 * f 12
    if flag x.cfg 2 then
      x.mapTap (xu.fdiv 65536 + x.n0 % 2) (yv.fdiv 65536 + x.n0 / 2) x.n1 false
    else x.mapTap ((xu + 0x8000).fdiv 65536) ((yv + 0x8000).fdiv 65536) x.n1 false

/-- Basin offset of a box stream's record. -/
def Stream.boxRecord (x : Stream) : Nat := field x.cfg 39 22 + x.n4 * 16

/-- Counters advance from the innermost on: a counter that passes its count returns to 0 and carries. -/
def carry : List (Nat × Nat) → List Nat × Bool
  | [] => ([], true)
  | (n, top) :: t =>
    if n < top then ((n + 1) :: t.map (·.1), false)
    else
      let (l, c) := carry t
      (0 :: l, c)

/-- One step (R109, R113, R128). -/
def Stream.step (x : Stream) : Stream :=
  let set (l : List Nat) : Stream :=
    { x with n0 := l.getD 0 0, n1 := l.getD 1 0, n2 := l.getD 2 0, n3 := l.getD 3 0, n4 := l.getD 4 x.n4 }
  match x.kind with
  | 0 =>
    set (carry [(x.n0, x.linCount 0), (x.n1, x.linCount 1), (x.n2, x.linCount 2), (x.n3, x.linCount 3)]).1
  | 1 =>
    let dims := [(x.n0, field x.cfg 43 32), (x.n1, field x.cfg 47 44), (x.n2, field x.cfg 51 48), (x.n3, field x.cfg 63 52)]
    let order := (List.range 4).map fun i => field x.cfg (23 + 2 * i) (22 + 2 * i)
    let (l, c) := carry (order.map fun d => dims.getD d (0, 0))
    let at' (d : Nat) : Nat := l.getD (order.findIdx (· = d)) 0
    { x with n0 := at' 0, n1 := at' 1, n2 := at' 2, n3 := at' 3, n4 := if c then x.n4 + 1 else x.n4 }
  | _ =>
    set (carry [(x.n0, if flag x.cfg 2 then 3 else 0), (x.n1, field x.cfg 51 40), (x.n2, field x.cfg 57 52),
      (x.n3, field x.cfg 63 58), (x.n4, field x.cfg 75 64)]).1

/-- `n` steps. -/
def Stream.steps (x : Stream) (n : Nat) : Stream := (List.range n).foldl (fun y _ => y.step) x

/-- A pad line (Table 4.3). -/
def Stream.padLine (x : Stream) : List Byte :=
  let v := field x.cfg 223 208
  let word := match field x.cfg 225 224 with
    | 0 => bytesOf 4 (v % 256 * 0x01010101)
    | 1 => bytesOf 4 (v * 0x10001)
    | _ => bytesOf 4 (v * 65536)
  (List.replicate 16 word).flatten

/-- A line of 64 bytes as a number, and back. -/
def lineOf (b : List Byte) : Line := BitVec.ofNat 512 (natOf b)
def lineBytes (l : Line) : List Byte := bytesOf 64 l.toNat

end Sys2Proof.Machine
end

