-- ==== Sys2Proof/Machine/Cells.lean ====
section
/-!
DEFINITION. Sys2Proof/Machine/Cells.lean: the arithmetic of one cell: its registers, the dot unit (R55 to R58, R83) and
the vector unit (R60, R71, R72, R84).
-/
namespace Sys2Proof.Machine

/-! ## Registers -/

/-- The 32 lanes of a vector register. -/
def Cell.lanes (x : Cell) (r : Nat) : List Word := (List.range 32).map fun j => x.v.at (r * 32 + j) 0

/-- The 16 lanes of an accumulator entry. -/
def Cell.entry (x : Cell) (i : Nat) : List Word := (List.range 16).map fun j => x.acc.at (i * 16 + j) 0

/-- Which lanes of an accumulator entry have saturated (R56). -/
def Cell.stuck (x : Cell) (i : Nat) : List Bool := (List.range 16).map fun j => x.accSat.at (i * 16 + j) false

/-- The lanes of an accumulator entry, and which have saturated. -/
structure Entry where
  lanes : List Word
  stuck : List Bool
  deriving DecidableEq, Repr

/-- A table with consecutive values from `k` on. -/
def Sparse.putAll {α : Type} (t : Sparse α) (k : Nat) (l : List α) : Sparse α :=
  (l.zipIdx).foldl (fun u p => Sparse.put u (k + p.2) p.1) t

/-- Half a vector register as a line. -/
def Cell.vline (x : Cell) (r : Nat) (high : Bool) : Line :=
  lineOf (((x.lanes r).drop (16 * b2n high)).take 16 |>.flatMap fun w => bytesOf 4 w.toNat)

/-- Lanes as the 128 bytes of a register, and back. -/
def laneBytes (l : List Word) : List Byte := l.flatMap fun w => bytesOf 4 w.toNat
def bytesLanes (b : List Byte) : List Word := (List.range 32).map fun j => Word.ofNat (natAt b (4 * j) 4)

/-! ## The dot unit -/

/-- Byte of the activation latch where the group of an issue begins. -/
def EW.groupAt (w : EW) (rep : Nat) : Nat :=
  (w.aoff + if w.ainc then rep * (w.group * Fmt.bits w.fmtA / 8) else 0) % 128

/-- The group passes byte 127 of the latch. -/
def EW.crosses (w : EW) (rep : Nat) : Bool := 128 < w.groupAt rep + w.group * Fmt.bits w.fmtA / 8

/-- The value of an operand: an MX element under its scale, any other under 2^0 (R55). -/
def operand (fmt x scale : Nat) : Num := if Fmt.isMx fmt then mxValue fmt x scale else Fmt.decode fmt x

/-- One group of products into the 16 lanes of an entry that holds `acc`, or into one that MACZ writes: the lanes, and
what SAT_COUNT and NAN_COUNT gain. `past` gives the bytes of a group that passes the latch's end. -/
def Cell.mac (x : Cell) (w : EW) (rep : Nat) (past : Nat → Byte) (acc : Option Entry) : Entry × Nat × Nat :=
  let g := w.group
  let at0 := w.groupAt rep
  let latch := bytesOf 128 x.latch.toNat
  let act := (List.range (g * Fmt.bits w.fmtA / 8)).map fun i =>
    if at0 + i < 128 then latch.getD (at0 + i) 0 else past i
  let tile := (List.range 6).flatMap fun i => lineBytes (x.wAct.at i 0)
  let actScale := natAt (bytesOf 128 x.sLatch.toNat) ((w.soff + if w.ainc then rep * g / 32 else 0) % 128) 1
  let as := (List.range g).map (unpackAt (Fmt.bits w.fmtA) act)
  let out := (List.range 16).map fun j =>
    let ws := (List.range g).map fun i => unpackAt (Fmt.bits w.fmtW) tile (j * g + i)
    let old := acc.map (·.lanes.getD j 0)
    if Fmt.isInt w.fmtA then
      let sum : Int := ((as.zip ws).map fun p => signed (Fmt.bits w.fmtA) p.1 * signed (Fmt.bits w.fmtW) p.2).sum
      let (v, sat, stuck) := dotInt (old.getD 0) ((acc.map (·.stuck.getD j false)).getD false) sum
      (v, stuck, b2n sat, 0)
    else
      let av := as.map fun a => operand w.fmtA a actScale
      let wv := ws.map fun b => operand w.fmtW b (natAt (lineBytes x.sAct) j 1)
      let (v, nan) := dotFp old ((av.zip wv).map fun p => p.1.mul p.2) ((av ++ wv).any Num.isNaN)
      (v, false, 0, b2n nan)
  ({ lanes := out.map (·.1), stuck := out.map (·.2.1) }, (out.map (·.2.2.1)).sum, (out.map (·.2.2.2)).sum)

/-! ## The vector unit -/

abbrev nan32 : Word := 0x7FC00000

/-- The lanes an opcode takes for VB: the register, or IMM broadcast. -/
def EW.immediate (w : EW) : List Word :=
  let v : Nat :=
    if VOp.isInteger w.vop then ((signed 16 w.imm) % 2 ^ 32).toNat
    else if w.half && 1 ≤ w.vop && w.vop ≤ 6 then
      (if w.fmtOut = Fmt.bf16 then w.imm else Config.otherConversion Fmt.bf16 w.fmtOut w.imm % 65536) * 0x10001
    else w.imm * 65536
  List.replicate 32 (Word.ofNat v)

/-- The operation of opcodes 0x01–0x06 on values: add, subtract, multiply, multiply-add, minimum, maximum. -/
def fpArith (vop : Nat) (a b c : Num) : Num :=
  match vop with
  | 1 => a.add b
  | 2 => a.add b.negate
  | 3 => a.mul b
  | 4 => (a.mul b).add c
  | 5 =>
    match a.cmp b with
    | none => .nan
    | some d => if d < 0 then a else if 0 < d then b else (match a with | .fin true _ _ => a | _ => b)
  | _ =>
    match a.cmp b with
    | none => .nan
    | some d => if 0 < d then a else if d < 0 then b else (match a with | .fin true _ _ => b | _ => a)

/-- One lane of an arithmetic opcode in a format: bits, and whether a NaN arose. -/
def arithLane (f : Fp) (vop mode r a b c : Nat) : Nat × Bool :=
  let x := f.decode a
  let y := f.decode b
  let z := f.decode c
  let v := fpArith vop x y z
  (v.rounded f mode r, v.isNaN && !x.isNaN && !y.isNaN && !(vop = 4 && z.isNaN))

/-- The value R72 states for a function, where it states one. -/
def specialValue (vop : Nat) (a : Word) : Option Word :=
  let inf : Word := 0x7F800000
  let ninf : Word := 0xFF800000
  match vop with
  | 0x10 => if a = 0 then some inf else if a = 0x80000000 then some ninf else none
  | 0x11 => if a = 0 then some inf else none
  | 0x12 => if a = 0x80000000 then some a else none
  | 0x15 => if a = inf then some inf else if a = ninf then some 0 else none
  | 0x17 => if a = 0 then some ninf else if flag a 31 && a ≠ 0x80000000 then some nan32 else none
  | 0x18 => if a = inf then some 0x3F800000 else if a = ninf then some 0 else none
  | 0x19 => if a = inf then some 0x3F800000 else if a = ninf then some 0xBF800000 else none
  | _ => none

/-- One lane of a function: a NaN input gives the canonical NaN (R72); other results keep the bounds of Table 2.6. -/
def functionLane (vop mode r : Nat) (a b : Word) : Word × Bool :=
  let two := vop = 0x13 || vop = 0x1E
  if (fp32 a).isNaN || (two && (fp32 b).isNaN) then (nan32, false)
  else
    let v := (specialValue vop a).getD (boundedFn vop mode two a b (Config.vectorFn vop mode r a b))
    if (fp32 v).isNaN then (nan32, true) else (v, false)

/-- One lane of an integer opcode. -/
def integerLane (vop : Nat) (a b : Word) : Word :=
  match vop with
  | 0x28 => a + b
  | 0x29 => a - b
  | 0x2A => a * b
  | 0x2B => if b.toNat < 32 then a <<< b.toNat else Config.vectorFn vop 0 0 a b
  | 0x2C => if b.toNat < 32 then a.sshiftRight b.toNat else Config.vectorFn vop 0 0 a b
  | 0x2D => a &&& b
  | 0x2E => a ||| b
  | 0x2F => a ^^^ b
  | 0x30 => if a.toInt ≤ b.toInt then a else b
  | _ => if a.toInt ≤ b.toInt then b else a

/-- A compare: less, less or equal, equal; false with a NaN. -/
def compareLane (vop : Nat) (a b : Word) : Bool :=
  match (fp32 a).cmp (fp32 b) with
  | none => false
  | some d => if vop = 0x0A then d < 0 else if vop = 0x0B then d ≤ 0 else d = 0

/-- A vector result: lanes from lane 0 on, or P; what the counters gain; how often the LFSR advances 32 steps. -/
structure VOut where
  lanes : List Word := []
  pred : Option (BitVec 32) := none
  sat : Nat := 0
  nan : Nat := 0
  rounds : Nat := 0
  deriving DecidableEq, Repr

/-- A conversion rounds. -/
def EW.converts (w : EW) : Bool :=
  if w.vop = 0x22 then Fmt.isMx w.fmtIn
  else !(w.vop = 0x20 && (w.fmtIn = w.fmtOut || w.fmtIn ≤ 1 || (4 ≤ w.fmtOut && w.fmtOut ≤ 6 && Fmt.bits w.fmtIn < Fmt.bits w.fmtOut)))

/-- CVT of one element. An integer source is shifted right by IMM[4:0] first; INT32 to a narrower integer rounds what the
shift drops (Table 2.5). -/
def cvtElement (w : EW) (r x : Nat) : Cv :=
  let k := w.imm % 32
  if Fmt.isInt w.fmtIn then
    let v := signed (Fmt.bits w.fmtIn) x
    if w.fmtIn = Fmt.int32 && w.fmtOut ≤ 1 then
      (Num.fin (v < 0) v.natAbs (-(k : Int))).toInt' (Fmt.bits w.fmtOut) w.rnd r
    else convert w.fmtIn w.fmtOut w.rnd r w.sat ((v.fdiv (2 ^ k)) % (2 ^ Fmt.bits w.fmtIn : Nat)).toNat
  else convert w.fmtIn w.fmtOut w.rnd r w.sat x

/-- One round of a lane sum: neighbours are added. -/
def sumRound (mode : Nat) (lfsr : Word) : Nat → List Word → List Word
  | j, a :: b :: t => ((fp32 a).add (fp32 b)).toWord mode (lfsrBits lfsr j) :: sumRound mode lfsr (j + 1) t
  | _, l => l

/-- RSUM: five rounds, each with the LFSR's next state (R84). -/
def laneSum (mode : Nat) : Nat → Word → List Word → List Word
  | 0, _, l => l
  | n + 1, lfsr, l => laneSum mode n (lfsr32 lfsr) (sumRound mode lfsr 0 l)

/-- The LFSR after `n` advances of 32 steps (R66). -/
def advance (s : Word) (n : Nat) : Word := (List.range n).foldl (fun x _ => lfsr32 x) s

/-- An order of the 32 lanes: the one listed, as far as it is one. -/
def laneOrder (order : List Nat) : List Nat := (List.range 32 ++ order.filter (· < 32)).dedup

/-- A NaN as the canonical one (R61). -/
def canonical (w : Word) : Word := if (fp32 w).isNaN then nan32 else w

/-- A vector opcode on operands VA, VB and VC, with P and the cell's LFSR. Where the spec leaves a point open: HALF with a
format other than BF16 and FP16 takes that format's layout, or BF16's if it has none (log entry 209); WIDEN of an MX element
beyond the range of FP32 gives an infinity that nothing counts (R60; log entry 207). -/
def vectorOp (w : EW) (a b c : List Word) (p : BitVec 32) (lfsr : Word) : VOut :=
  let v := w.vop
  let stoch := b2n (w.rnd = 2)
  let lane {α : Type} (f : Nat → Word → Word → Word → α) : List α :=
    (List.range 32).map fun j => f (lfsrBits lfsr j) (a.getD j 0) (b.getD j 0) (c.getD j 0)
  if 1 ≤ v && v ≤ 6 then
    let n := b2n (v ≤ 4) * stoch
    if w.half then
      let f := (Fp.of w.fmtOut).getD ⟨8, 7, 127, 0⟩
      let part (r : Nat) (x y z : Word) (k : Nat) := arithLane f v w.rnd r (field x (16 * k + 15) (16 * k)) (field y (16 * k + 15) (16 * k)) (field z (16 * k + 15) (16 * k))
      let out := lane fun r x y z => (part r x y z 0, part r x y z 1)
      { lanes := out.map fun q => Word.ofNat (q.1.1 + 65536 * q.2.1), nan := (out.map fun q => b2n q.1.2 + b2n q.2.2).sum,
        rounds := n }
    else
      let out := lane fun r x y z => arithLane Fp.single v w.rnd r x.toNat y.toNat z.toNat
      { lanes := out.map fun q => Word.ofNat q.1, nan := (out.map fun q => b2n q.2).sum, rounds := n }
  else if v = 0x07 || v = 0x08 || v = 0x09 then
    { lanes := lane fun _ x y _ =>
        if (fp32 x).isNaN || (v = 0x09 && (fp32 y).isNaN) then nan32
        else if v = 0x07 then x &&& 0x7FFFFFFF
        else if v = 0x08 then x ^^^ 0x80000000
        else (x &&& 0x7FFFFFFF) ||| (y &&& 0x80000000) }
  else if VOp.isCompare v then
    if w.pset then
      { pred := some ((lane fun _ x y _ => compareLane v x y).zipIdx.foldl (fun q d => if d.1 then q ||| BitVec.ofNat 32 (2 ^ d.2) else q) 0) }
    else { lanes := lane fun _ x y _ => Config.vectorFn v 0 0 x y }
  else if v = 0x0D then
    { lanes := (List.range 32).map fun j => canonical (if flag p j then a.getD j 0 else b.getD j 0) }
  else if VOp.isFunction v then
    let out := (List.range 32).map fun j =>
      functionLane v w.rnd (lfsrBits (advance lfsr (j * VOp.busy v / 32)) j) (a.getD j 0) (b.getD j 0)
    { lanes := out.map (·.1), nan := (out.map fun q => b2n q.2).sum, rounds := VOp.busy v * stoch }
  else if v = 0x20 then
    let es := (List.range 32).map fun j => cvtElement w (lfsrBits lfsr j) (unpackAt (Fmt.bits w.fmtIn) (laneBytes a) j)
    { lanes := bytesLanes (packElems (Fmt.bits w.fmtOut) (es.map (·.bits))), sat := (es.map (·.sat)).sum,
      nan := (es.map (·.nan)).sum, rounds := b2n w.converts * stoch }
  else if v = 0x21 then
    let es := (List.range 32).map (unpackAt (Fmt.bits w.fmtIn) (laneBytes a))
    if Fmt.isMx w.fmtOut && 4 ≤ w.fmtIn && w.fmtIn ≤ 6 then
      let m := toMx w.fmtOut w.rnd w.sat ((List.range 32).map (lfsrBits lfsr)) (es.map (Fmt.decode w.fmtIn))
      { lanes := bytesLanes (fit 127 (packElems (Fmt.bits w.fmtOut) m.elems) ++ [BitVec.ofNat 8 m.scale]), sat := m.sat,
        nan := m.nan, rounds := stoch }
    else { lanes := bytesLanes (packElems (Fmt.bits w.fmtOut) (es.map (Config.otherConversion w.fmtIn w.fmtOut))), rounds := stoch }
  else if v = 0x22 then
    let es := (List.range 32).map (unpackAt (Fmt.bits w.fmtIn) (laneBytes a))
    let scale := natAt (laneBytes b) 127 1
    let out : List Cv := (es.zipIdx).map fun (x, j) =>
      if Fmt.isInt w.fmtIn then convert w.fmtIn Fmt.int32 0 0 false x
      else if Fmt.isMx w.fmtIn then (mxValue w.fmtIn x scale).toFp Fp.single w.rnd (lfsrBits lfsr j) false
      else convert w.fmtIn Fmt.fp32 0 0 false x
    { lanes := out.map fun q => Word.ofNat q.bits, nan := (out.map (·.nan)).sum, rounds := b2n w.converts * stoch }
  else if VOp.isInteger v then { lanes := lane fun _ x y _ => integerLane v x y }
  else if v = 0x38 then
    let s := (laneSum w.rnd 5 lfsr ((laneOrder (Config.sumOrder a)).map fun j => a.getD j 0)).headD 0
    { lanes := [s], nan := b2n ((fp32 s).isNaN && !a.any fun x => (fp32 x).isNaN), rounds := 5 * stoch }
  else if v = 0x39 then
    { lanes := [((a.drop 1).foldl (fun m x => fpArith 6 m (fp32 x) .nan) (fp32 (a.headD 0))).toWord] }
  else {}

/-! ## Results land (R91) -/

/-- A cell after a result lands in it. A Basin write is no part of the cell. -/
def Cell.land (x : Cell) : Target → Cell
  | .vreg r lanes => { x with v := Sparse.putAll x.v (r * 32) lanes }
  | .vhalf r high line =>
    { x with v := Sparse.putAll x.v (r * 32 + 16 * b2n high) ((List.range 16).map fun j => Word.ofNat (natAt (lineBytes line) (4 * j) 4)) }
  | .pred p => { x with p }
  | .acc i lanes stuck => { x with acc := Sparse.putAll x.acc (i * 16) lanes, accSat := Sparse.putAll x.accSat (i * 16) stuck }
  | .latchHalf high line => { x with latch := setField x.latch (512 * b2n high + 511) (512 * b2n high) line.toNat }
  | .wline i line => { x with wShadow := x.wShadow.put i line }
  | .wscale line => { x with sShadow := line }
  | .ascale line => { x with sLatch := setField x.sLatch 511 0 line.toNat }
  | .send line => { x with sendBuf := line }
  | .basin _ _ => x

/-- SWAP: the shadow weight buffer and its scale line become the active ones (R83). -/
def Cell.swap (x : Cell) : Cell := { x with wAct := x.wShadow, wShadow := x.wAct, sAct := x.sShadow, sShadow := x.sAct }

end Sys2Proof.Machine
end

