-- ==== Sys2Proof/Machine/Issue.lean ====
section
/-!
DEFINITION. Sys2Proof/Machine/Issue.lean: an engine issues a bundle (R79 to R102): holds and stalls, the slots of every
cell in their order, and the control word.
-/
namespace Sys2Proof.Machine

/-! ## A kernel's program -/

/-- The tables that serve a span (R503). -/
def Program.tablesFor (p : Program) (span : Nat) : Tables := (p.tables.find? (·.span = span)).getD { span }

def State.kernProgram (s : State) (k : Kernel) : Program := (s.progs.find k.prog).getD {}

def State.kernTables (s : State) (k : Kernel) : Tables := (s.kernProgram k).tablesFor k.span

/-- Bundle `i` of a kernel's variant: the control word and the engine words. -/
def State.bundleAt (s : State) (k : Kernel) (i : Nat) : Option (CW × List EW) :=
  ((s.kernProgram k).variants.find? (·.span = k.span)).bind fun v => v.bundles[i]?

/-- The Lock a slot is bound to (R107). -/
def State.slotLock (s : State) (k : Kernel) (slot : Nat) : Nat := (s.kernProgram k).binds.getD slot 8192

/-! ## Cells of an engine -/

/-- A cell as a kernel starts it: its streams loaded and its LFSR seeded (R67, R108, R181). -/
def Engine.freshCell (x : Engine) (c : Nat) : Cell :=
  let l := x.seed ^^^ Word.ofNat (x.logical * 0x100 + c)
  { streams := (x.streams0.zipIdx).map fun p => (p.2, Stream.start p.1), lfsr := if l = 0 then 1 else l }

def Engine.cell (x : Engine) (c : Nat) : Cell := x.cells.at c (x.freshCell c)

def Engine.setCell (x : Engine) (c : Nat) (y : Cell) : Engine := { x with cells := x.cells.put c y }

def Cell.stream (x : Cell) (i : Nat) : Stream := x.streams.at i {}
def Cell.chan (x : Cell) (i : Nat) : List Place := x.chans.at i []

/-- The cells that perform the engine word (R83). PNEG asks for P = 0 whatever PRED says (log entry 208). -/
def Engine.active (x : Engine) (w : EW) : List Nat :=
  (List.range 256).filter fun c =>
    (w.cmask = 0 || flag ((x.masks)[w.cmask - 1]?.getD 0) c) &&
    (let p := flag (x.cell c).p 0
     if w.pneg then !p else !w.pred || p)

/-- The engine word asks nothing of any cell. -/
def EW.idle (w : EW) : Bool :=
  w.dop = 0 && !w.swap && w.vop = 0 && (w.port 0).bop = 0 && (w.port 1).bop = 0 && w.sop = 0 && w.rop = 0 && w.aop = 0

/-- The issue writes cell state, which waits while lines of an earlier kernel still drain (R181). -/
def EW.writesState (w : EW) : Bool :=
  w.dop = 1 || w.dop = 2 || w.swap || w.vop ≠ 0 || (w.port 0).bop = 1 || (w.port 1).bop = 1 ||
  ((w.port 0).bop ≠ 0 && (w.port 0).post) || ((w.port 1).bop ≠ 0 && (w.port 1).post) || w.aop ≠ 0 || w.rop = 1 ||
  w.sop = 3 || w.sop = 4 || (w.sop = 2 && w.vpost)

/-- Results due by the engine's cycle land: Basin writes in port order, the rest in their cells (R86, R91). -/
def land (e : Nat) : Act Unit := do
  let s ← Act.get
  let x := s.engine e
  let due := x.landings.filter fun l => l.due ≤ x.cyc
  if !due.isEmpty then
    let y := due.foldl (fun y l => match l.target with
      | .basin _ _ => y
      | t => y.setCell l.cell ((y.cell l.cell).land t)) x
    Act.make (.engine e { y with landings := x.landings.filter fun l => x.cyc < l.due, board := x.board.filter fun b => x.cyc < b.1 })
    for l in due do
      match l.target with
      | .basin pa bytes => writePhys pa bytes
      | _ => nothing

/-! ## Stalls (R88, R93) -/

/-- Lines in a receive channel and on the way to it, requests included. -/
def State.chanLoad (s : State) (k : Kernel) (logical cell chan : Nat) : Nat :=
  let x := s.engine (k.engines.getD logical 0)
  ((x.cell cell).chan chan).length +
  (k.flights.filter fun f => f.place.isNone && f.dst = logical && f.chan = chan && f.dstCells.contains cell).length

/-- The issue waits for the Towpath: a channel without a line to take, or without room for a line, or whose lines still
drain (R181). A POP of the bundle takes its line before a Basin write of the channel's head (R90). -/
def State.towpathStall (s : State) (k : Kernel) (x : Engine) (w : EW) (cells : List Nat) : Bool :=
  let popped (c ch : Nat) : List Place := ((x.cell c).chan ch).drop (b2n (w.rop = 1 && w.rch = ch))
  let takes (c : Nat) : Nat := b2n (w.rop = 1 && w.rch = w.rbuf && cells.contains c)
  let empty (c ch : Nat) : Bool := match ((x.cell c).chan ch).head? with | some (.line _) => false | _ => true
  let held (c ch : Nat) : Nat := (((x.cell c).chan ch).filter fun p => match p with | .line _ => true | .owed _ => false).length
  (w.rop = 1 && cells.any fun c => empty c w.rch) ||
  (w.rop = 2 && cells.any fun c => held c w.rch < w.waitN) ||
  ([w.port 0, w.port 1].any fun (p : Port) => p.bop = 2 && p.tgt = 10 && cells.any fun c =>
    match (popped c p.rch).head? with | some (.line _) => false | _ => true) ||
  (w.sop = 1 && !(s.drains.at (k.engines.getD w.deng 0) []).isEmpty) ||
  (w.sop = 1 && (selectCells w.dsel w.dcell).any fun d =>
    8 + (if w.deng = x.logical then takes d else 0) < s.chanLoad k w.deng d w.rbuf + cells.length) ||
  ((w.sop = 3 || w.sop = 4) && cells.any fun c => 8 + takes c < s.chanLoad k x.logical c w.rbuf + 1)

/-! ## Basin ports (R85, R112, R114, R215) -/

/-- The current position of a stream of a cell; a box stream reads its record in the cell's own Basin. -/
def tapOf (basin : Nat) (y : Stream) : Act (Tap × EccHit) := do
  if y.kind = 2 then
    let (rec, hit) ← readPhys (basin + y.boxRecord % 0x4_0000) 16
    return (y.boxTap rec, hit)
  else return (y.tap, none)

/-- What one port slot of one cell does. -/
inductive Access where
  | read (pa : Nat)
  | write (pa : Nat)
  | padded (line : List Byte) (counts : Bool)
  | discarded
  | stall
  | fail (f : Failure)
  deriving DecidableEq, Repr

/-- The access of a port slot in a cell, judged against the Basin and its tags. -/
def portAccess (v : Via) (e c : Nat) (y : Cell) (p : Port) : Act Access := do
  let basin := cellBase e c
  match ← tapOf basin (y.stream p.ag) with
  | (_, some (a, syn)) => return .fail { code := Code.faultEcc, block := Block.eng e, atype := 0, addr := a, syn }
  | (.pad counts, none) =>
    return if p.bop = 1 then .padded (y.stream p.ag).padLine counts else .discarded
  | (.at a, none) =>
    let s ← Act.get
    let wide := if p.bop = 1 then 64 else p.wbytes
    let pa := basin + (a % 2 ^ 18).toNat
    if a < 0 || 0x4_0000 ≤ a then
      return .fail { code := Code.faultXlat, block := Block.eng e, atype := 0, addr := ((basin + a) % 2 ^ 48).toNat }
    else if a % wide ≠ 0 then return .fail { code := Code.unaligned, block := Block.eng e, atype := 0, addr := pa }
    else
      match s.tagOutcome v pa (p.bop = 2) with
      | .park => return .stall
      | .fail code => return .fail { code, block := Block.eng e, atype := 0, addr := pa }
      | .go => return if p.bop = 1 then .read pa else .write pa

/-- A READ's target (Table 3.6). -/
def Port.target (p : Port) (line : Line) : Option Target :=
  match p.tgt with
  | 0 => some (.latchHalf false line)
  | 1 => some (.latchHalf true line)
  | 2 | 3 | 4 | 5 => some (.wline (p.tgt - 2) line)
  | 6 => some (.wscale line)
  | 7 => some (.ascale line)
  | 8 => some (.vhalf p.vreg p.vhalf line)
  | 9 => some (.send line)
  | 11 | 12 => some (.wline (p.tgt - 7) line)
  | _ => none

/-- The accesses of every performing cell, port 0 before port 1, or what stops the issue. -/
def portAccesses (v : Via) (e : Nat) (x : Engine) (w : EW) (cells : List Nat) : Act (List (Nat × Nat × Access) ⊕ Access) := do
  let mut out : List (Nat × Nat × Access) := []
  let mut stop : Option Access := none
  for c in cells do
    for i in [0, 1] do
      let p := w.port i
      if stop.isNone && (p.bop = 1 || p.bop = 2) then
        let a ← portAccess v e c (x.cell c) p
        match a with
        | .stall | .fail _ => stop := some a
        | _ => out := out ++ [(c, i, a)]
  return match stop with
    | some a => .inr a
    | none => .inl out

/-! ## Towpath sends (R87, R99, R115, R284, R285) -/

/-- Where TIERR or TIERW of a cell goes: a line of the virtual range, or a padded tap of the bound stream. -/
inductive TierAt where
  | va (a : Nat)
  | padded (line : Line) (counts : Bool)
  | fail (f : Failure)
  deriving DecidableEq, Repr

def tierAt (e c : Nat) (y : Cell) (w : EW) : Act TierAt := do
  let r := y.vas.at w.var {}
  if !r.bound then return .va r.va
  else
    let g := y.stream r.ag
    match ← tapOf (cellBase e c) g with
    | (_, some (a, syn)) => return .fail { code := Code.faultEcc, block := Block.eng e, atype := 0, addr := a, syn }
    | (.pad counts, none) => return .padded (lineOf g.padLine) counts
    | (.at a, none) =>
      let va := ((r.va + a) % 2 ^ 49).toNat
      return if va % 64 ≠ 0 then .fail { code := Code.unaligned, block := Block.eng e, atype := 1, addr := va } else .va va

/-- The line a cell sends. -/
def Cell.sendLine (y : Cell) (w : EW) : Line := if w.ssrc then y.vline w.svr w.shalf else y.sendBuf

/-- What one cell's TIERR or TIERW will do: its physical line, zeros, or a padded tap. -/
inductive Sent where
  | pa (a : Nat)
  | zeros
  | padded (line : Line) (counts : Bool)
  deriving DecidableEq, Repr

/-- The translations of every performing cell's TIERR or TIERW; a park with the faulting address, or a failure; neither
where a line lies on a PSRAM channel that is retraining, which the access waits for (R240). -/
def sendTranslations (k : Kernel) (c e : Nat) (x : Engine) (w : EW) (cells : List Nat) :
    Act (List (Nat × Sent) ⊕ (Option Nat × Option Failure)) := do
  let mut out : List (Nat × Sent) := []
  let mut parked : Option Nat := none
  let mut failed : Option Failure := none
  let mut waits := false
  for n in cells do
    if failed.isNone then
      match ← tierAt e n (x.cell n) w with
      | .fail f => failed := some f
      | .padded l counts => out := out ++ [(n, .padded l counts)]
      | .va a =>
        let s ← Act.get
        match ← translate (s.viaKernel k c (Stop.cell e n)) a (w.sop = 2) with
        | .ok pa =>
          if s.retraining pa then waits := true
          out := out ++ [(n, .pa pa)]
        | .zeros => out := out ++ [(n, .zeros)]
        | .park => if parked.isNone then parked := some a
        | .fail code block atype addr syn => failed := some { code, block, atype, addr, syn }
  return if failed.isSome then .inr (none, failed) else if parked.isSome then .inr (parked, none)
    else if waits then .inr (none, none) else .inl out

/-- A place in a cell's channel for the line of a request, which the kernel numbers. -/
def keepPlace (c e cell chan : Nat) : Act Nat := do
  let s ← Act.get
  let id := ((s.ctx c).kern.map (·.requests)).getD 0
  Act.modKernel c fun k => { k with requests := id + 1 }
  Act.modEngine e fun x =>
    let y := x.cell cell
    x.setCell cell { y with chans := y.chans.put chan (y.chan chan ++ [.owed id]) }
  return id

/-- A line from stop `src` to cells of engine `e`, which is logical engine `dst`, at one stop. -/
def State.flightTo (s : State) (src e dst : Nat) (cells : List Nat) (chan : Nat) (line : Line) (place : Option Nat := none)
    (from' : Option Nat := none) : Flight :=
  let stop := Stop.cell e (cells.headD 0)
  { src, stop, vc := s.channelBetween src stop, dst, dstCells := cells, chan, line, place, from' }

/-- The line that answers a WEIRR, on its way from the Weir. -/
def State.weirFlight (s : State) (k : Kernel) (logical cell chan id : Nat) : Flight :=
  s.flightTo Stop.weir (k.engines.getD logical 0) logical [cell] chan 0 (some id)

def addFlight (c : Nat) (f : Flight) : Act Unit := Act.modKernel c fun k => { k with flights := k.flights ++ [f] }

/-- A line goes straight into a channel, behind the places kept in it. -/
def placeLine (e cell chan : Nat) (l : Line) : Act Unit :=
  Act.modEngine e fun x =>
    let y := x.cell cell
    x.setCell cell { y with chans := y.chans.put chan (y.chan chan ++ [.line l]) }

def countPad (e : Nat) (counts : Bool) : Act Unit := if counts then Act.countSat .engPad e 31 0 else nothing

/-- The line at RD of queue `q` for a request, or an uncorrectable error. -/
def grantLine (c : Nat) (f : Flight) (q : Nat) : Act (Option Failure) := do
  let s ← Act.get
  let pa := s.qLine q (s.rg .weirQRd q).toNat
  Act.reg .weirQRd q (s.rg .weirQRd q + 1)
  match ← readPhys pa 64 with
  | (_, some (_, syn)) => return some { code := Code.faultEcc, block := Block.weir, atype := 0, addr := pa, syn }
  | (b, none) =>
    addFlight c { f with line := lineOf b }
    return none

/-- A queue is the context's. -/
def State.ownsQueue (s : State) (c q : Nat) : Bool := s.qOwner q = some c

/-- WEIRR of one cell: granted, or it waits in the Weir. -/
def weirRequest (c e cell : Nat) (k : Kernel) (x : Engine) (w : EW) : Act (Option Failure) := do
  let id ← keepPlace c e cell w.rbuf
  let s ← Act.get
  let q := w.wq
  if s.rg .weirQRd q ≠ s.rg .weirQCm q then
    grantLine c (s.weirFlight k x.logical cell w.rbuf id) q
  else
    Act.modKernel c fun k => { k with weirWaits := k.weirWaits ++ [{
      id, queue := q, logical := x.logical, cell, chan := w.rbuf, deadline := s.deadline (s.rf .weirQFc q 31 16) }] }
    return none

/-- The send slot of one cell. A CELLW to cells at both stops of its engine is a line to each. -/
def sendCell (c e cell : Nat) (k : Kernel) (x : Engine) (w : EW) (sent : Option Sent) : Act (Option Failure) := do
  let s ← Act.get
  let y := x.cell cell
  let here := Stop.cell e cell
  match w.sop, sent with
  | 1, _ =>
    let o := k.engines.getD w.deng 0
    for east in [false, true] do
      let cells := (selectCells w.dsel w.dcell).filter fun d => decide (8 ≤ d % 16) = east
      if !cells.isEmpty then addFlight c (s.flightTo here o w.deng cells w.rbuf (y.sendLine w))
    return none
  | 2, some (.pa pa) =>
    accountBytes c pa 64
    let code ← writeTier pa (lineBytes (y.sendLine w))
    return if code = Code.ok then none
      else some { code, block := if regionAt pa = some .flash then Block.ftl else Block.xlat, atype := 0, addr := pa }
  | 3, some (.pa pa) =>
    accountBytes c pa 64
    let (b, hit) ← readTier pa 64
    match hit with
    | some (a, syn) =>
      let s ← Act.get
      return some { code := Code.faultEcc, block := s.eccBlock a, atype := 0, addr := a, syn }
    | none =>
      let id ← keepPlace c e cell w.rbuf
      addFlight c (s.flightTo (s.stopOf pa) e x.logical [cell] w.rbuf (lineOf b) (some id) (some pa))
      return none
  | 3, some .zeros =>
    let id ← keepPlace c e cell w.rbuf
    addFlight c (s.flightTo Stop.barge e x.logical [cell] w.rbuf 0 (some id))
    return none
  | 3, some (.padded l counts) =>
    countPad e counts
    placeLine e cell w.rbuf l
    return none
  | 4, _ => weirRequest c e cell k x w
  | _, _ => return none

/-! ## The slots of a cell -/

/-- The newest value an accumulator entry holds or is about to hold. -/
def Engine.latestEntry (x : Engine) (cell entry : Nat) : Entry :=
  let mine := x.landings.filterMap fun l => match l.target with
    | .acc i lanes stuck => if l.cell = cell && i = entry then some { lanes, stuck : Entry } else none
    | _ => none
  mine.getLastD { lanes := (x.cell cell).entry entry, stuck := (x.cell cell).stuck entry }

/-- What a cell's registers, dot unit, vector unit and receive slot make of an issue. -/
structure CellOut where
  cell : Cell
  landings : List Landing := []
  sat : Nat := 0
  nan : Nat := 0
  deriving DecidableEq, Repr

/-- Cell control, dot unit, vector unit and POP of one cell (R90), on the state before the issue. -/
def Engine.cellIssue (x : Engine) (n : Nat) (w : EW) (past : Nat → Byte) : CellOut :=
  let y := if w.swap then (x.cell n).swap else x.cell n
  let lands (lat : Nat) (t : Target) : Landing := { due := x.cyc + lat, cell := n, target := t }
  let entry := (x.ap + w.accIdx) % 256
  let (dots, dsat, dnan) : List Landing × Nat × Nat :=
    if w.dop = 1 || w.dop = 2 then
      let (l, sat, nan) := y.mac w x.rep past (if w.dop = 1 then some (x.latestEntry n entry) else none)
      ([lands 12 (.acc entry l.lanes l.stuck)], sat, nan)
    else ([], 0, 0)
  let a := if w.accsrc then y.entry ((x.vp + w.accv) % 256) ++ y.entry ((x.vp + w.accv + 1) % 256) else y.lanes w.va
  let b := if w.immb then w.immediate else y.lanes w.vb
  let o : VOut := if w.vop = 0 then {} else vectorOp w a b (y.lanes w.vc) y.p y.lfsr
  let lat := VOp.latency w.vop
  let vecs : List Landing := if w.vop = 0 then [] else match o.pred with
    | some p => [lands lat (.pred p)]
    | none => [lands lat (.vreg w.vd o.lanes)]
  let (pops, chans) : List Landing × Sparse (List Place) :=
    if w.rop = 1 then match y.chan w.rch with
      | .line l :: t => ([lands 2 (.vhalf w.rvreg w.rhalf l)], y.chans.put w.rch t)
      | _ => ([], y.chans)
    else ([], y.chans)
  { cell := { y with lfsr := advance y.lfsr o.rounds, chans }, landings := dots ++ vecs ++ pops, sat := dsat + o.sat,
    nan := dnan + o.nan }

/-- A VA register loaded from a constant entry (Table 4.4). -/
def VaReg.ofConst (k : BitVec 128) : VaReg := { va := field k 47 0, ag := field k 50 48, bound := flag k 51 }

/-- A cell after the issue's pointer updates: streams stepped or loaded, VA registers loaded or advanced (R94, R113). -/
def Cell.update (y : Cell) (w : EW) (consts : List (BitVec 128)) : Cell :=
  let wants (i : Nat) : Nat :=
    ([w.port 0, w.port 1].filter fun (p : Port) => p.bop ≠ 0 && p.post && p.ag = i).length +
    b2n ((w.aop = 1 || w.aop = 2) && w.agA = i) + b2n (w.aop = 2 && w.agB = i)
  let streams := (List.range 8).foldl (fun (t : Sparse Stream) i =>
    if w.aop = 3 && w.agA = i then
      t.put i (Stream.start (consts.getD (w.const + 1) 0 ++ consts.getD w.const 0))
    else if wants i = 0 then t
    else t.put i ((t.at i {}).steps (wants i))) y.streams
  let r := y.vas.at w.var {}
  let vas := if (w.sop = 2 || w.sop = 3) && w.vpost && !r.bound then
      y.vas.put w.var { r with va := ((r.va + w.vstride * 64) % 2 ^ 48).toNat }
    else y.vas
  let vas := if w.aop = 4 then vas.put w.ava (VaReg.ofConst (consts.getD w.const 0)) else vas
  { y with streams, vas }

/-! ## The control word (R79, R80, R94) -/

/-- The ADD of a bundle. -/
def programAdd (c : Nat) (k : Kernel) (cw : CW) : Act (Option Failure) := do
  let s ← Act.get
  let n := s.slotLock k cw.lockSlot
  if s.ownsLock c n then
    lockAdd n (Word.ofNat cw.lockVal) true
    return none
  else return some { code := Code.faultXlat, block := Block.lock, atype := 2, addr := n }

/-- The barge a BARGE_GO issues: its Lock slots are those bound at load (R227). -/
def State.goBarge (s : State) (c : Nat) (k : Kernel) (idx : Nat) : Barge :=
  let d := BDesc.ofBytes ((s.kernTables k).barges.getD idx [])
  let j := (s.ctx c).jobs.head?
  { ctx := c, desc := { d with waitLock := s.slotLock k d.waitLock, addLock := s.slotLock k d.addLock }
    views := k.views
    go := some { job := (j.map (·.job)).getD 0, seq := (j.map (·.seq)).getD 0, attempt := (s.ctx c).restarts,
                 engines := k.engines } }

/-- The acts of the control word at the first issue of its bundle: SET, BARGE_GO and ADD. The ADD of an END bundle
follows the kernel's end (R95). -/
def controlActs (c e : Nat) (cw : CW) : Act (Option Failure) := do
  let s ← Act.get
  match (s.ctx c).kern with
  | none => return none
  | some k =>
    let x := s.engine e
    if cw.loop = 1 then Act.modEngine e fun x => { x with lc := x.lc.set cw.loopId cw.count }
    if cw.go && x.logical = 0 then
      let n := channelFor c
      Act.make (.channel n (s.chanQueues.at n [] ++ [s.goBarge c k cw.bargeIdx]))
    if cw.lockOp = 2 && !cw.fin then
      if cw.scope then return ← programAdd c k cw
      else
        Act.modEngine e fun x => { x with adds := x.adds + 1 }
        let t ← Act.get
        let others := (k.engines.filter (· ≠ e)).all fun o => x.adds + 1 ≤ (t.engine o).adds
        if others then return ← programAdd c k cw
    return none

/-- Where the engine stands after an issue of its bundle (R94). END wins over a BACK in the same bundle (log entry 210). -/
def Engine.afterIssue (x : Engine) (cw : CW) : Engine :=
  if x.rep < cw.rep then { x with rep := x.rep + 1 }
  else
    let y := { x with rep := 0, passed := false }
    if cw.fin then { y with ended := true, rep := x.rep }
    else if cw.loop = 2 && x.lc.getD cw.loopId 0 ≠ 0 then
      { y with pc := cw.target, lc := x.lc.set cw.loopId (x.lc.getD cw.loopId 0 - 1) }
    else { y with pc := x.pc + 1 }

/-! ## Issue -/

/-- One stall cycle (R93): counted, and against the cut-off while a heel is asked for (R180). -/
def stallCycle (c e : Nat) : Act Unit := do
  let s ← Act.get
  let asked := (((s.ctx c).kern.bind (·.heelAt)).isSome)
  Act.modEngine e fun x => { x with
    mode := .stalled, cyc := x.cyc + 1, stallReq := if asked then x.stallReq + 1 else x.stallReq }
  engineCycles c e 1
  account c 8 1
  land e

/-- The engine parks before its issue (R99). -/
def parkEngine (c e va : Nat) : Act Unit := do
  let s ← Act.get
  Act.modEngine e fun x => { x with mode := .parked, parkVa := some va, waitFrom := some s.ns }
  Act.modKernel c fun k => { k with parks := satInc 255 k.parks }
  account c 14 (2 ^ 32)

/-- What an issue adds to the activity counters of its context: MACs by format, Basin lines and vector results (R193). -/
def countActivity (c : Nat) (w : EW) (cells lines : Nat) : Act Unit := do
  if w.dop = 1 || w.dop = 2 then active c w.fmtW (cells * 16 * w.group)
  if lines ≠ 0 then active c 16 lines
  if w.vop ≠ 0 then active c 17 (cells * (if w.half && w.vop ≤ 6 then 64 else 32))

/-- Everything an issue does once nothing holds it, parks it or stops it. The first issue of a yield bundle is the join
itself, and counts in no interval (R94, R96). -/
def performIssue (c e : Nat) (k : Kernel) (cw : CW) (w : EW) (cells : List Nat) (accesses : List (Nat × Nat × Access))
    (sent : List (Nat × Sent)) : Act (Option Failure) := do
  let s ← Act.get
  let x := s.engine e
  let consts := (s.kernTables k).consts
  let v := s.viaKernel k c (Stop.cell e 0)
  let mut failed : Option Failure := none
  -- Basin reads, and the lines of padded taps
  let mut reads : List Landing := []
  for (n, i, a) in accesses do
    match a with
    | .read pa =>
      let (b, hit) ← readPhys pa 64
      match hit with
      | some (h, syn) => if failed.isNone then failed := some { code := Code.faultEcc, block := Block.eng e, atype := 0, addr := h, syn }
      | none => reads := reads ++ ((Port.target (w.port i) (lineOf b)).map fun t => { due := x.cyc + 3, cell := n, target := t }).toList
    | .padded l counts =>
      countPad e counts
      reads := reads ++ ((Port.target (w.port i) (lineOf l)).map fun t => { due := x.cyc + 3, cell := n, target := t }).toList
    | _ => nothing
  if failed.isSome then return failed
  -- dot unit, vector unit, receive
  let draw ← if (w.dop = 1 || w.dop = 2) && w.crosses x.rep then Act.draw else pure 0
  let outs := if w.idle then [] else cells.map fun n => (n, x.cellIssue n w (Config.mixedByte draw))
  let sat := (outs.map fun o => o.2.sat).sum
  let nan := (outs.map fun o => o.2.nan).sum
  if sat ≠ 0 then Act.countSat .engSat e 31 0 sat
  if nan ≠ 0 then Act.countSat .engNan e 31 0 nan
  Act.modEngine e fun z => { outs.foldl (fun z o => z.setCell o.1 o.2.cell) z with
    landings := z.landings ++ reads ++ outs.flatMap fun o => o.2.landings }
  -- Towpath send
  for n in cells do
    if failed.isNone && w.sop ≠ 0 then
      failed ← sendCell c e n k x w ((sent.find? (·.1 = n)).map (·.2))
  if failed.isSome then return failed
  if 5 ≤ w.sop && w.sop ≤ 7 && !cells.isEmpty then
    match w.sop with
    | 5 => weirMark w.wq
    | 6 => weirRewind w.wq
    | _ => weirRelease w.wq
  -- Basin writes
  for (n, i, a) in accesses do
    match a with
    | .write pa =>
      let p := w.port i
      let _ ← openForWrite v pa false
      let y := ((← Act.get).engine e).cell n
      let line : Line := if p.tgt = 8 then y.vline p.vreg p.vhalf
        else match (y.chan p.rch).head? with | some (.line l) => l | _ => 0
      Act.modEngine e fun z => { z with
        landings := z.landings ++ [{ due := x.cyc + 2, cell := n, target := .basin pa ((lineBytes line).take p.wbytes) }] }
    | _ => nothing
  -- pointers and streams, for the next issue
  if !w.idle then
    Act.modEngine e fun z => cells.foldl (fun z n => z.setCell n ((z.cell n).update w consts)) z
  Act.modEngine e fun z => { z with
    board := z.board ++ (w.writes x.ap).map (fun b => (x.cyc + b.1, b.2)),
    vbusy := if w.vop = 0 then z.vbusy else x.cyc + VOp.busy w.vop,
    ap := w.nextAp x.ap, vp := w.nextVp x.vp, cyc := x.cyc + 1, waited := 0
    sinceJoin := if cw.yield && x.rep = 0 then 0 else x.sinceJoin + 1
    mode := .issuing }
  engineCycles c e 1
  countActivity c w cells.length (accesses.filter fun a => a.2.2 matches .read _ || a.2.2 matches .write _).length
  land e
  -- the control word
  if x.rep = 0 then
    failed ← controlActs c e cw
  Act.modEngine e fun z =>
    let y := z.afterIssue cw
    { y with heldFrom := if y.ended then some s.ns else none }
  return failed

/-- A kernel's engine tries the issue it stands at: it is held through interlocks, stalls for a cycle, parks, fails, or
issues. -/
def tryIssue (c e : Nat) (k : Kernel) (cw : CW) (w : EW) : Act Unit := do
  -- holds are issue cycles (R92)
  let s ← Act.get
  let x := s.engine e
  let t := w.readyAt x.board x.ap x.vp x.vbusy x.cyc
  if x.cyc < t then
    Act.modEngine e fun x => { x with mode := .held, sinceJoin := x.sinceJoin + (t - x.cyc), cyc := t }
    engineCycles c e (t - x.cyc)
  land e
  let s ← Act.get
  let x := s.engine e
  let cells := if w.idle then [] else x.active w
  let draining : Bool := !(s.drains.at e []).isEmpty
  let goFull : Bool := cw.go && x.logical = 0 && x.rep = 0 && 32 ≤ (s.chanQueues.at (channelFor c) []).length
  if goFull || (draining && w.writesState) || s.towpathStall k x w cells then stallCycle c e
  else if 4 ≤ w.sop && w.sop ≤ 7 && !cells.isEmpty && !s.ownsQueue c w.wq then
    failKernel c { code := Code.faultXlat, block := Block.weir, atype := 2, addr := w.wq }
  else
    match ← portAccesses (s.viaKernel k c (Stop.cell e 0)) e x w cells with
    | .inr (.fail f) => failKernel c f
    | .inr _ => stallCycle c e
    | .inl accesses =>
      let sends ← if w.sop = 2 || w.sop = 3 then sendTranslations k c e x w cells else pure (.inl [])
      match sends with
      | .inr (some va, _) => parkEngine c e va
      | .inr (none, some f) => failKernel c f
      | .inr (none, none) => stallCycle c e
      | .inl sent =>
        match ← performIssue c e k cw w cells accesses sent with
        | some f => failKernel c f
        | none => nothing

end Sys2Proof.Machine
end

