-- ==== Sys2Proof/Machine/Kennel.lean ====
section
/-!
DEFINITION. Sys2Proof/Machine/Kennel.lean: kennels (R181 to R183, Table 7.7): what an engine writes out as it drains, and what
a restore reads back.
-/
namespace Sys2Proof.Machine

/-! ## What drains -/

/-- Writes the bytes at `pa` unless all are zero. -/
def writeNonzero (pa : Nat) (bytes : List Byte) : Act Unit :=
  if bytes.all (· = 0) then nothing else writePhys pa bytes

/-- The kennel header of an engine, but for the masks. -/
def kennelHeader (k : Kernel) (x : Engine) (repeats : Nat) (drained : Bool) : List Byte :=
  bytesOf 4 (pack [(k.heelKind, 0), (b2n drained, 2), (x.logical, 3), (x.span - 1, 6)]) ++
  bytesOf 4 (pack [(x.pc % 4096, 0), (repeats - x.rep, 12)]) ++ x.lc.flatMap (bytesOf 4) ++
  [BitVec.ofNat 8 x.ap, BitVec.ofNat 8 x.vp] ++ List.replicate 6 0 ++ bytesOf 8 (x.parkVa.getD 0) ++
  bytesOf 4 (if k.heelKind = 3 then k.wait.getD 0 else 0) ++ bytesOf 2 k.prog ++ bytesOf 2 k.index ++ bytesOf 4 0

/-- A stream's 48 bytes: configuration and position. -/
def Stream.bytes (g : Stream) : List Byte :=
  bytesOf 32 g.cfg.toNat ++ bytesOf 2 g.n0 ++ bytesOf 2 g.n1 ++ bytesOf 2 g.n2 ++ bytesOf 2 g.n3 ++ bytesOf 8 g.n4

/-- A VA register's 8 bytes. -/
def VaReg.bytes (r : VaReg) : List Byte := bytesOf 8 (pack [(r.va, 0), (r.ag, 48), (b2n r.bound, 51)])

/-- A receive channel's 512 bytes; a place without its line is a line of zeros. -/
def channelBytes (l : List Place) : List Byte :=
  fit 512 (l.flatMap fun p => match p with | .line x => lineBytes x | .owed _ => List.replicate 64 0)

/-- Writes a cell's part of the kennel over zeros. -/
def drainCell (pa : Nat) (y : Cell) : Act Unit := do
  let lines (m : Sparse Line) : List Byte := (List.range 6).flatMap fun i => lineBytes (m.at i 0)
  let words (m : Sparse Word) (n : Nat) : List Byte := (List.range n).flatMap fun i => bytesOf 4 (m.at i 0).toNat
  writeNonzero pa ((List.range 8).flatMap fun i => (y.stream i).bytes)
  writeNonzero (pa + 0x180) ((List.range 8).flatMap fun i => (y.vas.at i {}).bytes)
  writeNonzero (pa + 0x1C0) (bytesOf 4 y.lfsr.toNat ++ bytesOf 4 y.p.toNat ++
    (List.range 8).map fun i => BitVec.ofNat 8 (y.chan i).length)
  writeNonzero (pa + 0x200) (bytesOf 128 y.latch.toNat ++ bytesOf 128 y.sLatch.toNat)
  writeNonzero (pa + 0x300) (lines y.wAct ++ lineBytes y.sAct ++ lines y.wShadow ++ lineBytes y.sShadow)
  writeNonzero (pa + 0x680) (lineBytes y.sendBuf)
  if !y.acc.isEmpty then writeNonzero (pa + 0x700) (words y.acc 4096)
  if !y.v.isEmpty then writeNonzero (pa + 0x4700) (words y.v 512)
  for i in List.range 8 do writeNonzero (pa + 0x5000 + i * 512) (channelBytes (y.chan i))

/-- The repeats of the bundle an engine stands at. -/
def State.repeatOf (s : State) (k : Kernel) (x : Engine) : Nat := ((s.bundleAt k x.pc).map (·.1.rep)).getD 0

/-- Writes out the kennel of logical engine `j` of a kernel: the header, then every cell, a line never written as zeros. The
engine has no other line of the kennel, and leaves it as it is. -/
def drainEngine (c j : Nat) (k : Kernel) : Act Unit := do
  let s ← Act.get
  let x := k.saved.getD j {}
  let base := (s.ctx c).desc.kennel + j * 0x61_0000
  zeroPhys base 1024
  zeroPhys (base + 0x1_0000) (256 * 0x6000)
  writePhys base (kennelHeader k x (s.repeatOf k x) true)
  writeNonzero (base + 0x40) (x.masks.flatMap fun m => bytesOf 32 m.toNat)
  for n in List.range 256 do drainCell (base + 0x1_0000 + n * 0x6000) (x.cell n)
  account c 10 6292480

/-- The engine whose kennel is written out where engine `e` would be: engines with a kernel dispatched go first (R181). -/
def State.drainsFirst (s : State) (e : Nat) : Nat :=
  let due (i : Nat) : Bool := (s.engine i).ctx.isSome && !(s.drains.at i []).isEmpty
  if due e then e else ((List.range 8).find? due).getD e

/-- KENNEL_DRAIN (R181): the first of the engine's kennels is written out, header first, and counts as PSRAM bytes of
its context. -/
def execKennelDrain (e : Fin 8) (s : State) : Host.Outcome State Fault Refusal :=
  Act.outcome (do
    let t ← Act.get
    let i := t.drainsFirst e.val
    match t.drains.at i [] with
    | [] => nothing
    | (c, j) :: rest =>
      Act.make (.drains i rest)
      match (t.ctx c).kern with
      | none => nothing
      | some k =>
        drainEngine c j k
        Act.modKernel c fun k => { k with drained := k.drained.set j true }) s

/-! ## What a restore reads (R183) -/

/-- Numbers of `size` bytes from `base` on, those that are not zero, each by its place. `l` is rising. -/
def kennelUnits (base size : Nat) : List Host.Cell → Sparse Nat
  | [] => []
  | (a, b) :: t =>
    let k := (a - base) / size
    let v := b.toNat * 256 ^ ((a - base) % size)
    match kennelUnits base size t with
    | (k', v') :: u => if k' = k then (k, v + v') :: u else (k, v) :: (k', v') :: u
    | [] => [(k, v)]

/-- The bytes listed in a range. -/
def within (l : List Host.Cell) (base n : Nat) : List Host.Cell := l.filter fun b => base ≤ b.1 && b.1 < base + n

/-- A table of words, lines or other units read from a range of a kennel. -/
def unitsIn {α : Type} (l : List Host.Cell) (base n size : Nat) (f : Nat → α) : Sparse α :=
  (kennelUnits base size (within l base n)).map fun u => (u.1, f u.2)

/-- A stream from its 48 bytes. -/
def Stream.ofNat (v : Nat) : Stream :=
  let f (off n : Nat) : Nat := v / 256 ^ off % 256 ^ n
  { cfg := BitVec.ofNat 256 v, n0 := f 32 2, n1 := f 34 2, n2 := f 36 2, n3 := f 38 2, n4 := f 40 8 }

/-- A VA register from its 8 bytes (Table 4.4). -/
def VaReg.ofNat (v : Nat) : VaReg := VaReg.ofConst (BitVec.ofNat 128 v)

/-- A cell from its part of the kennel, the bytes `l` from `pa` on. The places kept for lines still to come, and which
accumulator lanes have saturated, go with the cell as it was saved. -/
def cellFrom (l : List Host.Cell) (pa : Nat) (was : Cell) : Cell :=
  let line (v : Nat) : Line := BitVec.ofNat 512 v
  let lines (off n : Nat) : Sparse Line := unitsIn l (pa + off) n 64 line
  let word (off n : Nat) : Nat := (unitsIn l (pa + off) n n id).at 0 0
  let chan (i : Nat) : List Place :=
    let held := lines (0x5000 + i * 512) 512
    (List.range (word (0x1C8 + i) 1)).map fun j => match (was.chan i)[j]? with
      | some (Place.owed id) => Place.owed id
      | _ => .line (held.at j 0)
  { was with
    streams := (List.range 8).map fun i => (i, Stream.ofNat (word (48 * i) 48))
    vas := unitsIn l (pa + 0x180) 64 8 VaReg.ofNat
    lfsr := Word.ofNat (word 0x1C0 4), p := BitVec.ofNat 32 (word 0x1C4 4)
    latch := BitVec.ofNat 1024 (word 0x200 128), sLatch := BitVec.ofNat 1024 (word 0x280 128)
    wAct := lines 0x300 384, sAct := line (word 0x480 64), wShadow := lines 0x4C0 384, sShadow := line (word 0x640 64)
    sendBuf := line (word 0x680 64)
    acc := unitsIn l (pa + 0x700) 16384 4 Word.ofNat, v := unitsIn l (pa + 0x4700) 2048 4 Word.ofNat
    chans := (List.range 8).filterMap fun i => if (chan i).isEmpty then none else some (i, chan i) }

/-- The cells of an engine from the bytes `l` of its kennel, each cell's bytes in turn. -/
def cellsFrom (base : Nat) (x : Engine) : Nat → Nat → List Host.Cell → Sparse Cell
  | 0, _, _ => []
  | fuel + 1, n, l =>
    let pa := base + n * 0x6000
    let mine := l.takeWhile fun b => b.1 < pa + 0x6000
    (n, cellFrom mine pa (x.cell n)) :: cellsFrom base x fuel (n + 1) (l.drop mine.length)

/-- The engine that a kennel holds (Table 7.7). -/
def State.engineFrom (s : State) (k : Kernel) (base : Nat) (x : Engine) : Engine :=
  let w (off n : Nat) : Nat := s.peekNat (base + off) n
  let y := { x with pc := w 4 4 % 4096 }
  { y with
    rep := s.repeatOf k y - w 4 4 / 4096 % 4096
    lc := (List.range 4).map fun i => w (8 + 4 * i) 4 % 2 ^ 20
    ap := w 0x18 1, vp := w 0x19 1
    masks := (List.range 15).map fun i => BitVec.ofNat 256 (w (0x40 + 32 * i) 32)
    cells := cellsFrom (base + 0x1_0000) x 256 0 (within s.mem (base + 0x1_0000) (256 * 0x6000)) }

/-- The kernel's heel kind and the outcome of its WAIT, as the header of its first kennel has them. -/
def State.kernelFrom (s : State) (c : Nat) (k : Kernel) : Kernel :=
  let base := (s.ctx c).desc.kennel
  let kind := s.peekNat base 1 % 4
  { k with heelKind := kind, wait := if kind = 3 then some (s.peekNat (base + 0x28) 1) else none }

end Sys2Proof.Machine
end

