-- ==== Sys2Proof/Machine/Swap.lean ====
section
/-!
DEFINITION. Sys2Proof/Machine/Swap.lean: KV frames that leave Basin when their context is heeled, and come back before
its kernel resumes (R147, R148).
-/
namespace Sys2Proof.Machine

/-- The enabled pools of a context, each with its slot. -/
def poolsOf (c : Nat) : Act (List (Nat × Pool)) := do
  let mut out : List (Nat × Pool) := []
  for i in List.range 16 do
    match ← poolAt i with
    | some p => if p.ctx = c then out := out ++ [(i, p)]
    | none => nothing
  return out

/-- The frame of the pool that a virtual page belongs to (R134). -/
def Pool.frameOf (p : Pool) (page : Nat) : Option Nat :=
  let f := (page - p.kvVa / 65536) / p.tpf
  if p.kvVa / 65536 ≤ page && f < p.frames then some f else none

/-- A kernel that is issuing pins the frame. -/
def State.issuingPins (s : State) (slot f : Nat) : Bool :=
  s.ctxs.any fun x => match x.2.kern with
    | some k => k.phase = .running && k.pins.any fun p => p.pool = slot && p.frame = f
    | none => false

/-- Pages of the pools' frames that lie in Basin and may leave it: virtual page and tile. Pinned memory does not move
(R221), nor does a frame that an issuing kernel pins (R147). -/
def State.swappable (s : State) (c : Nat) (pools : List (Nat × Pool)) : List (Nat × Nat) :=
  (s.leaves (s.ctx c).desc.ptRoot).filterMap fun (page, _, e) =>
    let fixed := flag (BitVec.ofNat 64 e : BitVec 64) 2 || s.pinned (tilePa e)
    if leafOk e && regionAt (tilePa e) = some .basin && !fixed &&
        pools.any (fun (i, p) => (p.frameOf page).any fun f => !s.issuingPins i f) then
      some (page, tilePa e)
    else none

/-- Moves a page of a frame as context 1,023 migrates one, and answers whether it moved: a failure leaves it where it was,
with a record of that context (R224, R225). -/
def swapPage (old new : Nat) : Act Bool := do
  let s ← Act.get
  if (s.mappings old).isEmpty || s.moveWaits old new then return false
  else
    match ← moveMapped old new with
    | none => return true
    | some f =>
      migrationRecord f
      return false

/-- The home of a page of a KV frame: a tile of the PSRAM tier reserved for it, so that moving it there never fails for want of
space. Where it lies is Rhoson's affair: the first free tile from kvHome on, or that tile itself (R147; log entry 96). -/
def State.homeOf (s : State) (c page : Nat) : Nat :=
  let n := max 1 s.backedTiles
  let mapped := s.mappedTiles
  let at' (i : Nat) : Nat := psramBase + (i + Config.kvHome c page) % n * 65536
  (((List.range n).find? fun i => !s.pinned (at' i) && !s.lostTile (at' i) && !s.xlat.retired.contains (at' i) &&
    !mapped.contains (at' i)).map at').getD (at' 0)

/-- At a heel the frames of the context's pools in Basin go to their homes in the PSRAM tier, if the incoming work needs
that Basin. Whether it does, and where the homes lie, is free (log entry 96). -/
def swapOut (c : Nat) : Act Unit := do
  let pools ← poolsOf c
  let s ← Act.get
  let pages := if pools.isEmpty then [] else s.swappable c pools
  if !pages.isEmpty then
    let need ← Act.draw
    if flag (Config.freeWord need) 0 then
      for (page, tile) in pages do
        let t ← Act.get
        if ← swapPage tile (t.homeOf c page) then Act.modCtx c fun x => { x with swapped := x.swapped ++ [page] }

/-- A free tile of Basin: not pinned and mapped by no page. Which one Rhoson takes is its own affair. -/
def freeBasinTile (s : State) (draw : Nat) : Option Nat :=
  let at' (i : Nat) : Nat := (i + (Config.freeWord draw).toNat) % 8192 * 65536
  ((List.range 8192).find? fun i => !s.pinned (at' i) && !s.mappedTiles.contains (at' i)).map at'

/-- Before a heeled kernel resumes, the swapped frames of its views come back into Basin (R148). A page without a free
tile stays at its home, from where the kernel reads it (log entry 96). -/
def swapIn (c : Nat) (k : Kernel) : Act Unit := do
  let s ← Act.get
  if !(s.ctx c).swapped.isEmpty then
    let pools ← poolsOf c
    let viewed (page : Nat) : Bool := pools.any fun (i, p) => (p.frameOf page).any fun f =>
      k.pins.any fun y => y.pool = i && y.frame = f
    for page in (s.ctx c).swapped.filter viewed do
      let t ← Act.get
      match (t.leaves (t.ctx c).desc.ptRoot).find? fun l => l.1 = page with
      | none => nothing
      | some (_, _, e) =>
        if leafOk e && regionAt (tilePa e) = some .psram then
          let d ← Act.draw
          match freeBasinTile t d with
          | none => nothing
          | some new =>
            if ← swapPage (tilePa e) new then Act.modCtx c fun x => { x with swapped := x.swapped.filter (· ≠ page) }

end Sys2Proof.Machine
end

