-- ==== Sys2Proof/Machine/Kernels.lean ====
section
/-!
DEFINITION. Sys2Proof/Machine/Kernels.lean: a kernel from its first issue to its end (R80, R81, R95, R99, R101): the
barrier and the WAIT, lines in flight, parks, heels (R179 to R184), the restore, and the end.
-/
namespace Sys2Proof.Machine

/-! ## Lines in flight (R88, R95) -/

/-- A line comes to its channel: behind what the channel holds, or into the place kept for it. -/
def deliver (c : Nat) (f : Flight) : Act Unit := do
  let s ← Act.get
  match (s.ctx c).kern with
  | none => nothing
  | some k =>
    match k.engines[f.dst]? with
    | none => nothing
    | some e =>
      for d in f.dstCells do
        match f.place with
        | none => placeLine e d f.chan f.line
        | some id =>
          Act.modEngine e fun x =>
            let y := x.cell d
            let l := (y.chan f.chan).map fun p => if p = Place.owed id then Place.line f.line else p
            x.setCell d { y with chans := y.chans.put f.chan l }

/-- Every line in flight is placed. -/
def deliverAll (c : Nat) : Act Unit := do
  let s ← Act.get
  for f in ((s.ctx c).kern.map (·.flights)).getD [] do deliver c f
  Act.modKernel c fun k => { k with flights := [] }

/-- Two lines of one pair of stops on one virtual channel keep their order (R22). -/
def Flight.sameWay (f g : Flight) : Bool := f.src = g.src && f.stop = g.stop && f.vc = g.vc

/-- TOWPATH_LINE_ARRIVAL: the line at place `k` of those in flight arrives, an earlier one of the same way first. -/
def execTowpathLineArrival (c : Ctx) (k : Nat) (s : State) : Host.Outcome State Fault Refusal :=
  Act.outcome (do
    let t ← Act.get
    let fs := ((t.ctx c).kern.map (·.flights)).getD []
    match fs[k]? with
    | none => nothing
    | some g =>
      match fs.findIdx? fun f => f.sameWay g with
      | none => nothing
      | some i =>
        deliver c (fs.getD i g)
        Act.modKernel c fun k => { k with flights := k.flights.eraseIdx i }) s

/-- Every result on its way in an engine lands, and no interlock is left. -/
def landAll (e : Nat) : Act Unit := do
  Act.modEngine e fun x => { x with cyc := x.landings.foldl (fun m l => max m l.due) x.cyc }
  land e
  Act.modEngine e fun x => { x with board := [], vbusy := 0 }

/-! ## Yield barriers and WAITs (R80, R95) -/

/-- The longest run of issue cycles between joins, as it stands at a join (Table 3.14). -/
def noteJoin (e : Nat) (yield : Bool) : Act Unit := do
  let s ← Act.get
  let n := min 65535 (s.engine e).sinceJoin
  if s.rf .engYield e 15 0 < n then Act.regField .engYield e 15 0 n
  if yield then Act.regField .engYield e 31 16 (s.rf .engYield e 31 16 + 1)
  Act.modEngine e fun x => { x with sinceJoin := 0 }

/-- The WAIT of the bundle the engines stand at is issued, once for the kernel. A Lock that the context does not own
is no Lock of its slots. -/
def issueKernelWait (c : Nat) (k : Kernel) (cw : CW) : Act Unit := do
  let s ← Act.get
  let n := s.slotLock k cw.lockSlot
  if !s.ownsLock c n then failKernel c { code := Code.faultXlat, block := Block.lock, atype := 2, addr := n }
  else
    Act.modKernel c fun k => { k with waitOn := n }
    match ← issueWait { waiter := .kernel c, lock := n, target := Word.ofNat cw.lockVal, deadline := s.deadline cw.tmo } with
    | some code => if !Code.good code then failKernel c { code, block := Block.lock, atype := 2, addr := n }
    | none =>
      Act.modKernel c fun k => { k with wait := some 0xFF }
      for e in k.engines do
        Act.modEngine e fun x => { x with mode := .stalled, waitFrom := some s.ns }

/-- After the barrier: the bundle's WAIT, if it has one; then the bundle acts. -/
def afterBarrier (c : Nat) : Act Unit := do
  let s ← Act.get
  match (s.ctx c).kern with
  | none => nothing
  | some k =>
    for e in k.engines do Act.modEngine e fun x => { x with atYield := false, passed := true }
    match (k.engines.head?.bind fun e => s.bundleAt k (s.engine e).pc) with
    | some (cw, _) => if cw.lockOp = 1 then issueKernelWait c k cw
    | none => nothing

/-- Every engine of the kernel stands at the barrier, and every line sent before it is placed. -/
def State.atBarrier (s : State) (k : Kernel) : Bool :=
  !k.engines.isEmpty && k.engines.all (fun e => (s.engine e).atYield && !(s.engine e).ended) &&
  k.flights.all (·.place.isSome)

/-! ## Heels (R97, R101, R179 to R181) -/

/-- A heel is counted, and its time from the request (Table 7.17). -/
def countHeel (c : Nat) (from' : Option Nat) : Act Unit := do
  let s ← Act.get
  let units := min 65535 ((s.ns - from'.getD s.ns) / 10)
  if s.rf .colHeelMax 0 15 0 < units then Act.regField .colHeelMax 0 15 0 units
  Act.count .colHeelCount
  Act.modCtx c fun x =>
    let a := x.accts.at 14 0
    { x with accts := x.accts.put 14 (a / 2 ^ 32 * 2 ^ 32 + (a + 1) % 2 ^ 32) }

/-- The kernel's engines freeze and are released: lines in flight are placed first, the state of R97 is saved, and
its lines drain (R181). A WEIRR not granted is withdrawn and its place stays (R284). KV frames may leave Basin (R147). -/
def heelNow (c kind : Nat) : Act Unit := do
  deliverAll c
  let s ← Act.get
  match (s.ctx c).kern with
  | none => nothing
  | some k =>
    chargeStalls c
    for e in k.engines do landAll e
    let t ← Act.get
    let saved := k.engines.map fun e => { t.engine e with stallReq := 0, waitFrom := none }
    for e in k.spare do freeEngine e
    for (e, j) in k.engines.zipIdx do
      freeEngine e
      let u ← Act.get
      Act.make (.drains e (u.drains.at e [] ++ [(c, j)]))
    countHeel c k.heelAt
    Act.modCtx c fun x => { x with
      st := .heeled
      kern := x.kern.map fun k => { k with
        phase := .heeled, saved, drained := k.engines.map fun _ => false, engines := [], spare := [], heelKind := kind, heelAt := none,
        heels := satInc 255 k.heels } }
    swapOut c

/-- A restore is abandoned: the kennel is as it was, and the engines are free (R180). -/
def abandonRestore (c : Nat) : Act Unit := do
  let s ← Act.get
  match (s.ctx c).kern with
  | none => nothing
  | some k =>
    chargeStalls c
    for e in k.engines do freeEngine e
    countHeel c (some s.ns)
    Act.modCtx c fun x => { x with
      st := .heeled
      kern := x.kern.map fun k => { k with phase := .heeled, engines := [], heelAt := none, heels := satInc 255 k.heels } }
    swapOut c

/-- A heel request reaches a kernel: one that is being restored goes back at once. -/
def heelKernel (c : Nat) : Act Unit := do
  let s ← Act.get
  match (s.ctx c).kern with
  | some k => if k.phase = .restoring then abandonRestore c else if k.phase = .running then requestHeel c
  | none => nothing

/-- An engine of the kernel is parked. -/
def State.hasParked (s : State) (k : Kernel) : Bool := k.engines.any fun e => (s.engine e).mode = .parked

/-- HEEL_RELEASE: a requested heel takes effect: at once where an engine is parked or the kernel waits at a WAIT, else
at a completed barrier (Table 3.10). -/
def execHeelRelease (c : Ctx) (s : State) : Host.Outcome State Fault Refusal :=
  Act.outcome (do
    let t ← Act.get
    match (t.ctx c).kern with
    | none => nothing
    | some k =>
      if k.phase = .running && k.heelAt.isSome then
        if t.hasParked k then heelNow c 1
        else if k.wait.isSome then heelNow c 3
        else if t.atBarrier k then
          for e in k.engines do
            noteJoin e true
            Act.modEngine e fun x => { x with atYield := false, passed := true }
          heelNow c 0) s

/-- YIELD_BARRIER_COMPLETE (R95): a pending heel takes effect, or the WAIT is issued and the bundle acts. -/
def execYieldBarrierComplete (c : Ctx) (s : State) : Host.Outcome State Fault Refusal :=
  Act.outcome (settled (do
    let t ← Act.get
    match (t.ctx c).kern with
    | none => nothing
    | some k =>
      if k.phase = .running && t.atBarrier k then
        for e in k.engines do
          noteJoin e true
          Act.modEngine e fun x => { x with atYield := false, passed := true }
        if k.heelAt.isSome then heelNow c 0 else afterBarrier c)) s

/-- STALL_CUTOFF (R180): the engine's stall cycles since the request come to 1.0 µs, and the kernel is saved where its
engines stand. A kernel that waits at a WAIT is not stalled so: its heel takes effect at once (Table 3.10). -/
def execStallCutoff (e : Fin 8) (s : State) : Host.Outcome State Fault Refusal :=
  Act.outcome (do
    let t ← Act.get
    let x := t.engine e.val
    match x.ctx with
    | none => nothing
    | some c =>
      match (t.ctx c).kern with
      | none => nothing
      | some k =>
        match k.heelAt with
        | none => nothing
        | some at' =>
          if k.phase = .running && x.mode = .stalled && k.wait.isNone then
            let left := (400 + 50 * t.rf .engFclk e.val 4 0) - x.stallReq
            engineCycles c e.val left
            account c 8 left
            reach (at' + 1000)
            heelNow c 2) s

/-- The stall threshold of a context, in ns (Table 7.1). -/
def Desc.stallNs (d : Desc) : Nat := (if d.stallUs = 0 then 50 else d.stallUs) * 1000

/-- STALL_THRESHOLD (R184): an engine has waited or been parked for STALL_US since its last issue. A timeout of the WAIT in
that cycle comes first (Table 7.8). -/
def execStallThreshold (c : Ctx) (s : State) : Host.Outcome State Fault Refusal :=
  Act.outcome (settled (do
    let t ← Act.get
    let x := t.ctx c
    match x.kern with
    | none => nothing
    | some k =>
      let waits := k.wait = some 0xFF
      let times := k.engines.filterMap fun e =>
        let y := t.engine e
        if waits || y.mode = .parked then y.waitFrom.map (· + x.desc.stallNs - y.waited) else none
      match times.min? with
      | none => nothing
      | some at' =>
        if k.phase = .running then
          reach at'
          let u ← Act.get
          match (if waits then u.waits.find? fun w => w.waiter = .kernel c && (u.atDeadline w.deadline || u.late w.deadline)
                 else none) with
          | some w => endWait w Code.timeout
          | none =>
            requestHeel c
            heelNow c (if waits then 3 else 1))) s

/-! ## Parks (R99) -/

/-- An access that parked still parks: its page is not resident. -/
def stillParks (k : Kernel) (c va : Nat) (write : Bool) : Act Bool := do
  let s ← Act.get
  wouldPark (s.viaKernel k c (Stop.cell 0 0)) va write

/-- The engine stands at a TIERW. -/
def State.writesTier (s : State) (k : Kernel) (x : Engine) : Bool :=
  ((s.bundleAt k x.pc).bind fun b => (b.2[x.logical]?).map fun w => decide (w.sop = 2)).getD false

/-! ## The restore (R180, R183, R284) -/

/-- The first uncorrectable error in a kennel, if one is met as it is read. -/
def readKennel (base n : Nat) : Act EccHit := do
  let s ← Act.get
  let mut hit : EccHit := none
  for (w, _) in s.flips do
    if base ≤ w ∧ w < base + n then
      let (_, h) ← readPhys w 8
      if hit.isNone then hit := h
  return hit

/-- The restore ends before the kernel's first issue: the engines hold what their kennels hold, the WEIRRs withdrawn at the
heel are issued again, and the kernel acts on the outcome of its WAIT, or issues the WAIT of the bundle it stands at. -/
def finishRestore (c : Nat) : Act Unit := do
  let s ← Act.get
  match (s.ctx c).kern with
  | none => nothing
  | some k =>
    let mut hit : EccHit := none
    for j in List.range k.span do
      let h ← readKennel ((s.ctx c).desc.kennel + j * 0x61_0000) 6292480
      if hit.isNone then hit := h
      account c 10 6292480
    chargeStalls c
    let k := s.kernelFrom c k
    for (e, j) in k.engines.zipIdx do
      Act.modEngine e fun x => s.engineFrom k ((s.ctx c).desc.kennel + j * 0x61_0000) x
    Act.modCtx c fun x => { x with
      st := .running
      kern := x.kern.map fun y => { y with phase := .running, saved := [], drained := [], heelKind := k.heelKind, wait := k.wait } }
    match hit with
    | some (a, syn) =>
      let t ← Act.get
      failKernel c { code := Code.faultEcc, block := t.eccBlock a, atype := 0, addr := a, syn }
    | none =>
      Act.modKernel c fun k => { k with weirWaits := [] }
      let mut failed : Option Failure := none
      for w in k.weirWaits do
        let t ← Act.get
        if t.rg .weirQRd w.queue ≠ t.rg .weirQCm w.queue then
          let r ← grantLine c (t.weirFlight k w.logical w.cell w.chan w.id) w.queue
          if failed.isNone then failed := r
        else
          Act.modKernel c fun k => { k with weirWaits := k.weirWaits ++ [{ w with deadline := t.deadline (t.rf .weirQFc w.queue 31 16) }] }
      match failed, k.heelKind, k.wait with
      | some f, _, _ => failKernel c f
      | none, 3, some code =>
        if code ≠ 0xFF && !Code.good code then failKernel c { code, block := Block.lock, atype := 2, addr := k.waitOn }
      | none, 0, _ => afterBarrier c
      | none, _, _ => nothing

/-! ## Issue -/

/-- One issue of engine `e` of a running kernel: at a yield bundle it stops before the slots act, for the barrier
(R95); in a WAIT it holds (R80). -/
def bundleIssue (e : Nat) : Act Unit := do
  let t ← Act.get
  let x := t.engine e
  match x.ctx with
  | none => nothing
  | some c =>
    match (t.ctx c).kern with
    | none => nothing
    | some k =>
      match t.bundleAt k x.pc with
      | none => nothing
      | some (cw, ws) =>
        if !t.runs || !k.engines.contains e || k.phase ≠ .running || x.ended || x.mode = .parked || x.mode = .retired then nothing
        else if cw.yield && !x.passed then
          Act.modEngine e fun x => { x with atYield := true }
          stallCycle c e
        else if k.wait = some 0xFF then Act.modEngine e fun x => { x with mode := .stalled }
        else
          endStall c e
          Act.modKernel c fun k => { k with wait := none }
          tryIssue c e k cw (ws.getD x.logical 0)

/-- BUNDLE_ISSUE: an engine comes to its next issue. A kernel that is being restored is first restored whole. -/
def execBundleIssue (e : Fin 8) (s : State) : Host.Outcome State Fault Refusal :=
  Act.outcome (settled (do
    let t ← Act.get
    match (t.engine e.val).ctx with
    | none => nothing
    | some c =>
      if t.runs && ((t.ctx c).kern.map fun k => k.phase) = some .restoring then finishRestore c
      bundleIssue e.val)) s

/-- PARK_RESUME (R99, R217): once its page is resident, the parked engine issues again at the faulting access, and the
parked tile goes on. -/
def execParkResume (p : Parked) (s : State) : Host.Outcome State Fault Refusal :=
  Act.outcome (settled (do
    let t ← Act.get
    match p with
    | .tile slot i =>
      match t.flying.find slot with
      | some b => if b.parked.contains i then landTile slot i
      | none => nothing
    | .engine e =>
      let x := t.engine e.val
      match x.ctx, x.parkVa with
      | some c, some va =>
        match (t.ctx c).kern with
        | none => nothing
        | some k =>
          if k.phase = .running && x.mode = .parked then
            if !(← stillParks k c va (t.writesTier k x)) then
              Act.modEngine e.val fun x => { x with mode := .issuing, parkVa := none }
              bundleIssue e.val
      | _, _ => nothing)) s

/-! ## The end of a kernel (R81, R95) -/

/-- Every engine has made its last END issue, and every line sent or asked for is placed. -/
def State.mayComplete (s : State) (k : Kernel) : Bool :=
  k.phase = .running && !k.engines.isEmpty && k.engines.all (fun e => (s.engine e).ended) && k.flights.isEmpty &&
  k.weirWaits.isEmpty

/-- A kernel completes: its tiles close, then the END bundle's ADD, then its record. -/
def finishKernel (c : Nat) : Act Unit := do
  let s ← Act.get
  match (s.ctx c).kern with
  | none => nothing
  | some k =>
    for e in k.engines do
      landAll e
      noteJoin e false
    match (k.engines.head?.bind fun e => s.bundleAt k (s.engine e).pc) with
    | none => kernelOk c
    | some (cw, _) =>
      let n := s.slotLock k cw.lockSlot
      if cw.lockOp = 2 && !s.ownsLock c n then
        failKernel c { code := Code.faultXlat, block := Block.lock, atype := 2, addr := n }
      else
        closeKernelTiles c true
        if cw.lockOp = 2 then
          if cw.scope then
            for _ in k.engines do
              let _ ← programAdd c k cw
          else
            let _ ← programAdd c k cw
        kernelOk c

/-- KERNEL_COMPLETE: of a pair whose members complete in one cycle, the primary goes first (Table 7.8). -/
def execKernelComplete (c : Ctx) (s : State) : Host.Outcome State Fault Refusal :=
  Act.outcome (settled (do
    let t ← Act.get
    let x := t.ctx c
    match x.kern with
    | none => nothing
    | some k =>
      if t.mayComplete k then
        let o := x.desc.partner
        let y := t.ctx o
        let both : Bool := x.desc.paired && !x.desc.primary && (x.jobs.head?.bind (·.pair)).isSome &&
          (y.jobs.head?.bind (·.pair)) = (x.jobs.head?.bind (·.pair)) &&
          (match y.kern with | some q => t.mayComplete q && (y.jobs.head?.map (·.nkern)) = some (y.nextKern + 1) | none => false) &&
          (x.jobs.head?.map (·.nkern)) = some (x.nextKern + 1)
        finishKernel (if both then o else c))) s

/-- RTMO_EXPIRY (R284): a WEIRR has waited RTMO and no commit came; its kernel ends with TIMEOUT. -/
def execRtmoExpiry (e : Fin 8) (cell ch : Nat) (s : State) : Host.Outcome State Fault Refusal :=
  Act.outcome (settled (do
    let t ← Act.get
    let x := t.engine e.val
    match x.ctx with
    | none => nothing
    | some c =>
      match (t.ctx c).kern with
      | none => nothing
      | some k =>
        match k.weirWaits.find? fun w => w.logical = x.logical && w.cell = cell && w.chan = ch with
        | none => nothing
        | some w =>
          match w.deadline with
          | none => nothing
          | some d =>
            if k.phase = .running then
              reach d
              failKernel c { code := Code.timeout, block := Block.weir, atype := 2, addr := w.queue })) s

end Sys2Proof.Machine
end

