-- ==== Sys2Proof/Machine/Reflex.lean ====
section
/-!
DEFINITION. Sys2Proof/Machine/Reflex.lean: the reflex lane in time (chapter 10): leash descriptors and the checks of
BIND, commits, the seal, vote and emission of a slot, triads and their rebuild.
-/
namespace Sys2Proof.Machine

/-- Bits of a packed structure, from bit `lo` on. -/
def bitsAt (d lo n : Nat) : Nat := d / 2 ^ lo % 2 ^ n

/-! ## Descriptors (Tables 10.2 to 10.4) -/

/-- A leash descriptor. -/
structure LeashDesc where
  period : Nat
  phase : Nat
  budget : Nat
  cells : Nat
  nin : Nat
  nout : Nat
  entry : Nat
  wcet : Nat
  ctx : Nat
  lock : Nat
  lockEn : Bool
  stale : Nat
  /-- A reserved field is set, or a field lies outside the table. -/
  bad : Bool
  deriving DecidableEq, Repr

def LeashDesc.of (bytes : List Byte) : LeashDesc :=
  let d := natOf bytes
  let f := bitsAt d
  { period := f 0 16, phase := f 16 16, budget := f 32 4 + 1, cells := f 36 16, nin := f 52 5, nout := f 57 5,
    entry := f 64 12, wcet := f 80 14, ctx := f 96 10, lock := f 106 13, lockEn := f 119 1 = 1, stale := f 128 32
    bad := f 62 2 ≠ 0 || f 76 4 ≠ 0 || f 94 2 ≠ 0 || f 120 8 ≠ 0 || f 160 352 ≠ 0 || f 0 16 < 50 ||
      f 0 16 ≤ f 16 16 || 8 < f 32 4 + 1 || f 36 16 = 0 || 16 < f 52 5 || f 57 5 = 0 || 16 < f 57 5 }

def State.leashOf (s : State) (n : Nat) : LeashDesc := LeashDesc.of (s.leashDesc n)

/-- An input or output entry: KIND, PORT, MATCH or ID, and XTD lie alike in both. -/
structure LeashEntry where
  kind : Nat
  port : Nat
  ident : Nat
  xtd : Bool
  /-- OFFSET of an input; TPL_LEN of an output. -/
  off : Nat
  len : Nat
  maxAge : Nat
  policy : Nat
  fdf : Bool
  brs : Bool
  bad : Bool
  deriving DecidableEq, Repr

/-- The ports of each KIND: 8 CAN controllers, 8 MACs, 4 SPI ports, 16 pins. -/
def portLimit (kind : Nat) : Nat := if kind ≤ 2 then 8 else if kind = 3 then 4 else 16

def LeashEntry.input (bytes : List Byte) : LeashEntry :=
  let f := bitsAt (natOf bytes)
  { kind := f 0 4, port := f 4 4, ident := f 8 29, xtd := f 37 1 = 1, off := f 40 6, len := f 46 7,
    maxAge := f 56 16, policy := f 72 2, fdf := false, brs := false
    bad := f 38 2 ≠ 0 || f 53 3 ≠ 0 || f 74 54 ≠ 0 || 4 < f 0 4 ||
      (f 0 4 ≠ 0 && (portLimit (f 0 4) ≤ f 4 4 || f 46 7 = 0 || 64 < f 46 7 || f 72 2 = 3 ||
        (f 0 4 = 4 && f 46 7 ≠ 8))) }

def LeashEntry.output (bytes : List Byte) : LeashEntry :=
  let f := bitsAt (natOf bytes)
  { kind := f 0 4, port := f 4 4, ident := f 8 29, xtd := f 37 1 = 1, off := f 40 6, len := f 46 7,
    maxAge := 0, policy := 0, fdf := f 38 1 = 1, brs := f 39 1 = 1
    bad := f 53 75 ≠ 0 || 4 < f 0 4 ||
      (f 0 4 ≠ 0 && (portLimit (f 0 4) ≤ f 4 4 || f 46 7 = 0 || 64 < f 46 7 ||
        (f 0 4 = 1 && f 38 1 = 0 && 8 < f 46 7) || (f 0 4 = 2 && f 40 6 < 14) || (f 0 4 = 4 && f 46 7 ≠ 8))) }

/-- Input and output entries of leash `n`, and its output areas (Table 10.1). -/
def State.leashInput (s : State) (n k : Nat) : LeashEntry :=
  LeashEntry.input (s.sliceBytes (n / 8) (leashArea n + 64 + 16 * k) 16)
def State.leashOutput (s : State) (n o : Nat) : LeashEntry :=
  LeashEntry.output (s.sliceBytes (n / 8) (leashArea n + 320 + 16 * o) 16)
def State.outputArea (s : State) (n o : Nat) : List Byte :=
  s.sliceBytes (n / 8) (leashArea n + 576 + 128 * o) 128

/-! ## The checks of BIND (R253) -/

/-- Checks 3 and 4 against one other leash: no shared output slot, and no overlap of windows whose cells meet. -/
def LeashDesc.apart (a b : LeashDesc) : Bool :=
  let g := Nat.gcd a.period b.period
  let meets (x y : Nat) : Bool := (a.phase + b.period * a.period - x) % g = (b.phase + b.period * a.period - y) % g
  !(meets 0 0) &&
    (a.cells &&& b.cells = 0 || (List.range a.budget).all fun x => (List.range b.budget).all fun y =>
      !(meets (x + 2) (y + 2)))

/-- A leash seals, computes or votes in slot `n`: one of the b + 2 slots before an output slot. -/
def LeashDesc.busy (d : LeashDesc) (n : Nat) : Bool :=
  let before := (d.phase + d.period - n % d.period) % d.period
  1 ≤ before && before ≤ d.budget + 2

/-- Check 5 over `fuel` slots from `n`: `quiet` says that slot n − 1 is quiet, `gap` how many slots have begun since
one did whose successor was quiet too. -/
def quietRuns (ds : List LeashDesc) : Nat → Nat → Bool → Nat → Bool
  | 0, _, _, _ => true
  | fuel + 1, n, quiet, gap =>
    let q := !(ds.any fun d => d.busy n)
    if quiet && q then quietRuns ds fuel (n + 1) q 0
    else if 999 ≤ gap + 1 then false
    else quietRuns ds fuel (n + 1) q (gap + 1)

/-- The length after which the pattern of busy slots repeats. -/
def patternLength (ds : List LeashDesc) : Nat := ds.foldl (fun a d => Nat.lcm a d.period) 1

/-- What BIND of leash `n` answers. -/
def State.bindCode (s : State) (n : Nat) : Nat :=
  let d := s.leashOf n
  let ins := (List.range d.nin).map (s.leashInput n)
  let outs := (List.range d.nout).map (s.leashOutput n)
  let others := ((s.bound (n / 8)).filter (· ≠ n)).map s.leashOf
  let x := s.ctx d.ctx
  let l := s.lockAt d.lock
  if (s.leash n).mode ≠ 0 then Code.faultXlat
  else if d.bad || ins.any (·.bad) || outs.any (·.bad) then Code.unaligned
  else if x.st ≠ .ready || x.desc.cls ≠ 0 || (d.lockEn && !(l.alloc && l.owner = d.ctx)) then Code.faultXlat
  else if 1400 * d.budget < d.wcet then Code.faultXlat
  else if others.any fun e => !(d.apart e) then Code.faultXlat
  else if !(quietRuns (d :: others) (patternLength (d :: others) + 2000) 0 false 0) then Code.faultXlat
  else Code.ok

/-- The leash is bound: it waits for its first trajectory, or emits SAFE payloads in a FAILED triad. -/
def bindLeash (n : Nat) : Act Nat := do
  let s ← Act.get
  let code := s.bindCode n
  if code = Code.ok then
    let failed : Bool := (s.triad (n / 8)).state = 2
    let old := s.leash n
    Act.modLeash n fun _ => {
      mode := if failed then 3 else 2, cause := if failed then 9 else 1, latch := failed,
      lastCommit := s.reflex.slot, out := old.out, ovr := old.ovr }
  return code

/-- UNBIND (R267). -/
def unbindLeash (n : Nat) : Act Nat := do
  let s ← Act.get
  let l := s.leash n
  if l.mode ≠ 0 && ((l.latch && 2 ≤ l.mode) || (s.triad (n / 8)).state = 2) then
    Act.modLeash n fun l => { out := l.out, ovr := l.ovr }
    return Code.ok
  else return Code.faultXlat

/-! ## Trajectories (R259 to R261) -/

/-- The header of a trajectory tile (Table 10.6). -/
structure TrajHead where
  magic : Nat
  n : Nat
  ns : Nat
  reserved : Nat
  start : Nat
  dt : Nat
  v : Nat
  sstart : Nat
  sdt : Nat
  crc : Nat
  deriving DecidableEq, Repr

def TrajHead.of (b : List Byte) : TrajHead :=
  { magic := natAt b 0 4, n := natAt b 4 4 % 1024, ns := natAt b 4 4 / 1024 % 256, reserved := natAt b 4 4 / 2 ^ 18,
    start := natAt b 8 8, dt := natAt b 0x10 4, v := natAt b 0x14 4, sstart := natAt b 0x18 8, sdt := natAt b 0x20 4,
    crc := natAt b 0x30 4 }

/-- The checks of COMMIT on one member's copy: MAGIC, the counts, V, and the CRC. -/
def commitCheck (tile : List Byte) : Nat :=
  let h := TrajHead.of tile
  if h.magic ≠ 0x314A5254 || 768 < h.n || h.ns = 0 || 252 < h.ns || h.reserved ≠ 0 || (0 < h.n && h.n ≤ h.v) then
    Code.faultXlat
  else if (crc32 (tile.drop 0x100)).toNat ≠ h.crc then Code.faultEcc
  else Code.ok

/-- COMMIT: the next tile is validated in every member; accepted, it waits for its seal (R260). -/
def commitLeash (n : Nat) : Act Nat := do
  let s ← Act.get
  let l := s.leash n
  if l.mode = 0 then return Code.faultXlat
  else
    let codes := (s.members (n / 8)).map fun m => commitCheck (s.peek (slicePa m (trajTile n (!l.liveHigh))) 65536)
    match codes.find? (· ≠ Code.ok) with
    | some code => return code
    | none =>
      Act.modLeash n fun l => { l with pending := true, lastCommit := s.reflex.slot, commitNs := s.ns }
      return Code.ok

/-- RESUME clears a latch, but not one of cause 6 or of a FAILED triad, nor one that comes up in the same cycle
(R262, R268). -/
def resumeLeash (n : Nat) : Act Nat := do
  let s ← Act.get
  let l := s.leash n
  if l.mode = 0 then return Code.faultXlat
  else
    if l.latch && l.cause ≠ 6 && l.cause ≠ 9 && l.causeNs ≠ s.ns then Act.modLeash n fun l => { l with latch := false, cause := 0 }
    return Code.ok

/-- STOP (Table 10.7). It takes the place of a KILL of the same cycle (R268). -/
def stopLeash (n : Nat) : Act Nat := do
  let s ← Act.get
  let l := s.leash n
  if l.mode = 0 then return Code.faultXlat
  else
    if l.cause = 8 && l.causeNs = s.ns then Act.modLeash n fun l => { l with cause := 7 }
    else leaveMain n 2 7 true
    return Code.ok

/-- A sample selection: main or stop, its two samples, and the fraction between them. -/
structure Selection where
  main : Bool
  a : Nat
  b : Nat
  num : Nat
  den : Nat
  deriving DecidableEq, Repr

/-- The step and the fraction of a time by a spacing. No value is stated where the spacing is 0: both are free. -/
def spaced (time : Int) (spacing free : Nat) : Int × Nat :=
  if spacing = 0 then ((free : Int) - 2 ^ 31, free) else (time / spacing, (time % spacing).toNat)

/-- The selection of R261 for output slot `o`; `stop` holds the leash to its stop branch. -/
def TrajHead.select (h : TrajHead) (o : Nat) (stop : Bool) (free : Nat) : Selection :=
  let m : Int := min (h.v : Int) ((h.n : Int) - 1)
  let (i, frac) := spaced ((o : Int) - h.start) h.dt free
  if !stop && 0 < h.n && 0 ≤ i && i ≤ m then
    { main := true, a := i.toNat, b := if i + 1 ≤ m then i.toNat + 1 else i.toNat, num := frac, den := h.dt }
  else
    let (k, frac) := spaced ((o : Int) - h.sstart) h.sdt free
    let j := min k.toNat (h.ns - 1)
    { main := false, a := j, b := if j + 1 ≤ h.ns - 1 then j + 1 else j
      num := if j < h.ns - 1 then frac else 0, den := h.sdt }

/-- What the snapshot carries of a selection: the mode, both samples and the fraction. -/
def State.sampleBytes (s : State) (n : Nat) (c : Selection) : List Byte :=
  let tile := trajTile n (s.leash n).liveHigh + (if c.main then 0x100 else 0xC100)
  [BitVec.ofNat 8 (b2n c.main)] ++ s.sliceBytes (n / 8) (tile + 64 * c.a) 64 ++ s.sliceBytes (n / 8) (tile + 64 * c.b) 64 ++
    bytesOf 4 c.num ++ bytesOf 4 c.den

/-! ## Triads (R263 to R266) -/

/-- The rebuild of a triad is given up; its spare is a spare again. -/
def abandonRebuild (t : Nat) : Act Unit := do
  let s ← Act.get
  match (s.triad t).rebuild with
  | some (_, x) => if s.role x = 3 then setRole x 0
  | none => nothing
  Act.modTriad t fun r => { r with rebuild := none }

/-- A rebuild starts from the lowest-numbered healthy spare, if one is left. -/
def startRebuild (t : Nat) : Act Unit := do
  let s ← Act.get
  match firstBelow 8 fun x => s.role x = 0 with
  | some x =>
    setRole x 3
    Act.modTriad t fun r => { r with rebuild := some (.wake, x) }
  | none => nothing

/-- A slice is retired: its record, its role and its bit (R263, R463, R500). -/
def retireSlice (x : Nat) : Act Unit := do
  let s ← Act.get
  if s.role x ≠ 2 then
    setRole x 2
    Act.regField .faultRetUnits 0 (8 + x) (8 + x) 1
    let _ ← retireRecord Code.faultUnit (Block.slice x)

/-- The triad becomes FAILED, with cause 6 on every leash (R264). -/
def failTriad (t : Nat) : Act Unit := do
  abandonRebuild t
  Act.modTriad t fun r => { r with state := 2 }
  let s ← Act.get
  for n in s.bound t do leaveMain n 3 6 true

/-- The position of the triad that names a slice. -/
def State.positionOf (s : State) (t x : Nat) : Nat := ([0, 1, 2].find? fun p => s.position t p = x).getD 0

/-- A member is retired from a TRIPLE triad, which becomes DUAL; a rebuild starts. A fault in the first vote after a
join takes the join back: its spare is copied anew (Table 10.9). -/
def loseMember (t x : Nat) : Act Unit := do
  let s ← Act.get
  let r := s.triad t
  retireSlice x
  let joined := s.position t r.gap
  if r.fresh && joined ≠ x then
    setRole joined 3
    let src ← Act.get
    copyPhys (slicePa (src.firstMember t) 0) (slicePa joined 0) 0x20_0000
    Act.modTriad t fun r => { r with state := 1, fresh := false, rebuild := some (.copy, joined) }
  else
    Act.modTriad t fun r => { r with
      state := 1, gap := s.positionOf t x, fresh := false, rebuildFrom := s.ns, rebuild := none }
    startRebuild t

/-- A triad is formed from wanted slices: one that is retired, named twice or in the other triad is replaced by the
lowest-numbered healthy slice; with fewer than three it is FAILED (R385). -/
def formTriad (t : Nat) (want : List Nat) : Act Unit := do
  abandonRebuild t
  let s ← Act.get
  let other := [0, 1, 2].map (s.position (1 - t))
  let fit (x : Nat) : Bool := x < 8 && (s.role x = 0 || (s.role x = 1 && (s.members t).contains x)) && !other.contains x
  let kept := want.foldl (fun (a : List (Option Nat)) x =>
    a ++ [if fit x && !a.contains (some x) then some x else none]) []
  let picks := kept.foldl (fun (a : List Nat × List (Option Nat)) x => match x with
    | some y => (a.1, a.2 ++ [some y])
    | none =>
      match firstBelow 8 fun y => fit y && !a.1.contains y && !kept.contains (some y) with
      | some y => (a.1 ++ [y], a.2 ++ [some y])
      | none => (a.1, a.2 ++ [none])) ([], [])
  for x in s.members t do setRole x 0
  for p in List.range 3 do
    match picks.2.getD p none with
    | some x =>
      setRole x 1
      Act.regField .refxTriad t (3 * p + 2) (3 * p) x
    | none => Act.regField .refxTriad t (3 * p + 2) (3 * p) (want.getD p 0)
  Act.modTriad t fun _ => { state := if picks.2.all Option.isSome then 0 else 2 }

/-- Rhoson loads the leash code into tiles 0 to 3 of the triad's members (R250). -/
def loadCode (t : Nat) : Act Unit := do
  let s ← Act.get
  for x in s.members t do
    zeroPhys (slicePa x 0) 0x4_0000
    writePhys (slicePa x 0) ((Config.leashCode s.reflex.code t).take 0x4_0000)

/-- The members' self-test, whose outcome is free: one that fails is retired and replaced (R264, R266). -/
def testMembers (t draw : Nat) : Nat → Act Unit
  | 0 => nothing
  | fuel + 1 => do
    let s ← Act.get
    match (s.members t).find? fun x => flag (Config.freeWord draw) x with
    | some x =>
      retireSlice x
      formTriad t ([0, 1, 2].map (s.position t))
      testMembers t draw fuel
    | none => nothing

/-- REINIT: with every leash unbound, the triad is rebuilt from self-test and reloaded code; its members' other tiles
are zero (R264). -/
def reinitTriad (t : Nat) : Act Nat := do
  let s ← Act.get
  if !(s.bound t).isEmpty then return Code.faultXlat
  else
    formTriad t ([0, 1, 2].map (s.position t))
    let d ← Act.draw
    testMembers t d 8
    loadCode t
    let u ← Act.get
    for x in u.members t do zeroPhys (slicePa x 0x4_0000) 0x1C_0000
    return if (u.triad t).state = 0 then Code.ok else Code.faultXlat

/-! ## Commands (R269) -/

/-- A write of REFX_s_CMD: S2–S7 issue COMMIT alone. -/
def reflexCommand (who : Who) (op n : Nat) : Act Nat := do
  if op = 0 || op = 7 then return Code.ok
  else if !privileged who && op ≠ 3 then return Code.faultXlat
  else
    let code ← match op with
      | 1 => bindLeash n
      | 2 => unbindLeash n
      | 3 => commitLeash n
      | 4 => resumeLeash n
      | 5 => reinitTriad (n / 8)
      | _ => stopLeash n
    Act.regField .refxStatus who.val 7 0 code
    return Code.ok

/-- BIND (R253). -/
def execLeashBind (who : Who) (leash : Fin 16) (s : State) : Host.Outcome State Fault Refusal :=
  Act.outcome (command who .refxCmd who.val (reflexCommand who 1 leash.val)) s

/-- UNBIND (R267). -/
def execLeashUnbind (who : Who) (leash : Fin 16) (s : State) : Host.Outcome State Fault Refusal :=
  Act.outcome (command who .refxCmd who.val (reflexCommand who 2 leash.val)) s

/-- COMMIT (R260). -/
def execLeashCommit (who : Who) (leash : Fin 16) (s : State) : Host.Outcome State Fault Refusal :=
  Act.outcome (command who .refxCmd who.val (reflexCommand who 3 leash.val)) s

/-- RESUME (R262). -/
def execLeashResume (who : Who) (leash : Fin 16) (s : State) : Host.Outcome State Fault Refusal :=
  Act.outcome (command who .refxCmd who.val (reflexCommand who 4 leash.val)) s

/-- REINIT (R264). -/
def execTriadReinit (who : Who) (leash : Fin 16) (s : State) : Host.Outcome State Fault Refusal :=
  Act.outcome (command who .refxCmd who.val (reflexCommand who 5 leash.val)) s

/-- STOP (R262). -/
def execLeashStop (who : Who) (leash : Fin 16) (s : State) : Host.Outcome State Fault Refusal :=
  Act.outcome (command who .refxCmd who.val (reflexCommand who 6 leash.val)) s

/-! ## Inputs (R254) -/

/-- Whether an entry takes an input from a source. -/
def LeashEntry.takes (e : LeashEntry) : ReflexSource → Bool
  | .can p i x => e.kind = 1 && e.port = p.val && e.xtd = x && (if x then e.ident else e.ident % 2048) = i
  | .eth m t => e.kind = 2 && e.port = m.val && e.ident % 65536 = t
  | .spi p => e.kind = 3 && e.port = p.val
  | .tc n => e.kind = 4 && e.port = n.val

/-- The bytes an entry takes of a payload: of a capture its 64-bit time; what lies behind the payload's end is not
stated and is free. -/
def LeashEntry.taken (e : LeashEntry) (payload : List Byte) (time draw : Nat) : List Byte :=
  if e.kind = 4 then bytesOf 8 time
  else
    let got := (payload.drop e.off).take e.len
    got ++ (List.range (e.len - got.length)).map fun i => (Config.freeWord draw).extractLsb' (8 * (i % 4)) 8

/-- An input reaches its arrival point: every bound leash that reads it holds it for its next seal. -/
def reflexArrival (src : ReflexSource) (payload : List Byte) : Act Unit := do
  let s ← Act.get
  for n in s.bound 0 ++ s.bound 1 do
    for k in List.range (s.leashOf n).nin do
      let e := s.leashInput n k
      if e.takes src then
        let draw ← if e.kind ≠ 4 && payload.length < e.off + e.len then Act.draw else pure 0
        let held : HeldInput := { bytes := e.taken payload s.fullTime draw, arrival := s.ns }
        Act.modLeash n fun l => { l with inputs := l.inputs.put k held }

/-- REFLEX_INPUT_ARRIVAL (R254). -/
def execReflexInputArrival (src : ReflexSource) (payload : List Byte) (s : State) : Host.Outcome State Fault Refusal :=
  Act.outcome (reflexArrival src payload) s

/-! ## A slot (R256) -/

/-- An input at the seal: stale when it has not arrived since BIND or is older than MAXAGE (R257). -/
def LeashEntry.stale (e : LeashEntry) (held : Option HeldInput) (now : Nat) : Bool :=
  e.kind ≠ 0 && match held with
    | none => true
    | some h => e.maxAge ≠ 0 && e.maxAge * 1000 < now - h.arrival

/-- What the snapshot says of an input: whether it has arrived, its bytes, its age in ns and the stale flag. -/
def LeashEntry.snapshot (e : LeashEntry) (held : Option HeldInput) (now : Nat) : List Byte :=
  let flag := [BitVec.ofNat 8 (b2n (e.stale held now))]
  match held with
  | none => [0] ++ flag
  | some h => [1] ++ h.bytes ++ bytesOf 8 (now - h.arrival) ++ flag

/-- The seal of leash `n` for output slot `o` at elapsed time `at'`: a pending commit of an earlier cycle whose start has
come becomes live, stale inputs act under POLICY, and the snapshot is taken (R257, R260 to R262). -/
def sealLeash (n o at' : Nat) : Act Unit := do
  let s ← Act.get
  let d := s.leashOf n
  let l := s.leash n
  let next := TrajHead.of (s.sliceBytes (n / 8) (trajTile n (!l.liveHigh)) 0x40)
  if l.pending && l.commitNs < at' && (if next.n = 0 then next.sstart else next.start) ≤ o then
    Act.modLeash n fun l => { l with pending := false, liveHigh := !l.liveHigh, everLive := true }
  let es := (List.range d.nin).map (s.leashInput n)
  let stale := (List.range d.nin).filter fun k => ((es[k]?).map fun e => e.stale (l.inputs.find k) s.ns).getD false
  Act.modLeash n fun l => { l with staleIn := stale.foldl (fun (a : BitVec 16) k => a ||| (1 <<< k)) 0 }
  let policy (p : Nat) : Bool := stale.any fun k => ((es[k]?).map fun e => decide (e.policy = p)).getD false
  if policy 2 then leaveMain n 3 4 true
  if policy 1 then leaveMain n 2 3 true
  let u ← Act.get
  let x := u.leash n
  let head := TrajHead.of (u.sliceBytes (n / 8) (trajTile n x.liveHigh) 0x40)
  let late : Bool := d.stale ≠ 0 && x.lastCommit + d.stale ≤ o
  let d' ← if x.everLive && (head.dt = 0 || head.sdt = 0) then Act.draw else pure 0
  let free := (Config.freeWord d').toNat
  let c := head.select o (x.latch || late) free
  let main : Bool := x.everLive && c.main
  if !x.latch then
    let cause : Nat := if main then 0 else if x.mode = 2 && x.cause ≠ 0 then x.cause
      else if x.everLive && (head.select o false free).main then 2 else 1
    Act.modLeash n fun l => { l with mode := if main then 1 else 2, cause }
  let inputs := (List.range d.nin).flatMap fun k =>
    ((es[k]?).map fun e => e.snapshot (l.inputs.find k) s.ns).getD []
  let sample := if x.everLive then u.sampleBytes n c else []
  Act.modLeash n fun l => { l with sealed := some (o, inputs, sample) }
  for m in u.members (n / 8) do
    writePhys (slicePa m (0x6_0000 + n % 8 * 0x2000)) (fit 0x2000 (Config.snapshotTile inputs sample))

/-- How a member votes: the result of its own code and state, a deviating one by its tag, or none (R263). -/
inductive Ballot where
  | own (slice : Nat)
  | other (tag : Nat)
  | absent
  deriving DecidableEq, Repr

/-- An uncorrectable error lies in what a member reads in its compute window: its leash state, or, if `code` says so, its
code. -/
def State.slipped (s : State) (n x : Nat) (code : Bool) : Bool :=
  s.flips.any fun (w, f) =>
    let off := w - slicePa x 0
    slicePa x 0 ≤ w && ((leashStateArea n ≤ off && off < leashStateArea n + 0x2000) || (code && off < 0x4_0000)) &&
      match (Ecc.read (BitVec.ofNat 64 (natOf (s.peek w 8))) f).2.1 with
      | .uncorrectable => true
      | _ => false

/-- The ballot of slice `x` on leash `n`: what the deviations of this slot, its rail and its SRAM say. Whether the code
words it runs take in a bad one of tiles 0 to 3 is free (log entry 113). -/
def State.ballot (s : State) (deviations : List (Nat × MemberFault)) (draw n x : Nat) : Ballot :=
  if s.reflex.low.contains x || s.slipped n x (flag (Config.freeWord draw) x) then .absent
  else match deviations.find? (·.1 = x) with
    | some (_, .differs tag) => .other tag
    | some _ => .absent
    | none => .own x

/-- The part of a slice's SRAM that its result on leash `n` depends on: code and leash state, as the bytes listed. -/
def State.inputsOf (s : State) (n x : Nat) : List Host.Cell :=
  s.mem.filterMap fun (a, b) =>
    let off := a - slicePa x 0
    if slicePa x 0 ≤ a && (off < 0x4_0000 || (leashStateArea n ≤ off && off < leashStateArea n + 0x2000)) then some (off, b)
    else none

/-- The payloads of leash `n` under a ballot. -/
def State.payloads (s : State) (n : Nat) (b : Ballot) (draw : Nat) : List (List Byte) :=
  let d := s.leashOf n
  (List.range d.nout).map fun o =>
    let e := s.leashOutput n o
    let sealed := ((s.leash n).sealed).getD (0, [], [])
    fit e.len (match b with
      | .other tag => Config.faultyOutput tag draw o
      | .own x => Config.leashOutput d.entry (s.peek (slicePa x 0) 0x4_0000) (s.peek (slicePa x (leashStateArea n)) 0x2000)
          sealed.2.1 sealed.2.2 o
      | .absent => [])

/-- The leash state that a member's window leaves. -/
def State.stateAfter (s : State) (n : Nat) (b : Ballot) (draw : Nat) : List Byte :=
  let sealed := ((s.leash n).sealed).getD (0, [], [])
  fit 0x2000 (match b with
    | .other tag => Config.faultyState tag draw
    | .own x => Config.leashState (s.leashOf n).entry (s.peek (slicePa x 0) 0x4_0000)
        (s.peek (slicePa x (leashStateArea n)) 0x2000) sealed.2.1 sealed.2.2
    | .absent => [])

/-- Two ballots carry the same result: members with equal code and state have equal results (R247), and others are compared
in full (R263). -/
def State.agree (s : State) (n draw : Nat) (a b : Ballot) : Bool :=
  match a, b with
  | .own x, .own y => x = y || s.inputsOf n x = s.inputsOf n y ||
      (s.payloads n a draw = s.payloads n b draw && s.stateAfter n a draw = s.stateAfter n b draw)
  | .other i, .other j => i = j
  | _, _ => false

/-- The result on which two members agree. -/
def State.majority (s : State) (n draw : Nat) (bs : List Ballot) : Option Ballot :=
  bs.find? fun b => 2 ≤ (bs.filter (s.agree n draw b)).length

/-- A member's window closes: its staged outputs and its updated state (tiles 7 and 5). -/
def closeWindow (before : State) (n x : Nat) (b : Ballot) (draw : Nat) : Act Unit := do
  if b ≠ .absent then
    writePhys (slicePa x (leashStateArea n)) (before.stateAfter n b draw)
    writePhys (slicePa x (0x7_0000 + n % 8 * 0x2000)) (fit 0x2000 (Config.stagingTile (before.payloads n b draw)))

/-- The vote of leash `n` for output slot `o` (R263, R264). -/
def voteLeash (deviations : List (Nat × MemberFault)) (n o : Nat) : Act Unit := do
  let s ← Act.get
  let t := n / 8
  let ms := s.members t
  let draw ← if deviations.isEmpty && s.flips.isEmpty then pure 0 else Act.draw
  let bs := ms.map (s.ballot deviations draw n)
  for (x, b) in ms.zip bs do closeWindow s n x b draw
  Act.make (.reflex { (← Act.get).reflex with low := s.reflex.low.filter fun x => !ms.contains x })
  let agreed := if ms.length = 1 then bs.find? (· ≠ .absent) else s.majority n draw bs
  match agreed with
  | some b =>
    Act.modLeash n fun l => { l with voted := some (o, s.payloads n b draw) }
    let out := (ms.zip bs).filter fun p => !s.agree n draw b p.2
    if !out.isEmpty then Act.countSat .refxVote t 15 0
    for p in out do loseMember t p.1
    if out.isEmpty then Act.modTriad t fun r => { r with fresh := false }
  | none =>
    Act.countSat .refxVote t 31 16
    if (s.triad t).state = 0 then leaveMain n 3 5 true
    else
      for p in ms.zip bs do
        if p.2 = .absent then retireSlice p.1
      failTriad t

/-- The lengths a CAN FD frame can have (R255). -/
def canLength (n : Nat) : Nat := (([8, 12, 16, 20, 24, 32, 48, 64] : List Nat).find? (n ≤ ·)).getD 64

/-- A frame enters a reflex transmit buffer, in the place of one of its output that still waits. -/
def queueFrame (frames : List CanFrame) (f : CanFrame) : List CanFrame :=
  if frames.any (·.output = f.output) then frames.map fun g => if g.output = f.output then f else g
  else frames ++ [f]

/-- One output of leash `n` is placed at its port; then its Lock rises (R255, R256, R258, R349). -/
def emitOutput (n o : Nat) (payload : List Byte) : Act Unit := do
  let s ← Act.get
  let e := s.leashOutput n o
  let d := s.leashOf n
  let key := n * 16 + o
  match e.kind with
  | 0 => nothing
  | 1 =>
    let size := if e.fdf && 8 < e.len then canLength e.len else e.len
    let f : CanFrame := { output := key, ident := if e.xtd then e.ident else e.ident % 2048, xtd := e.xtd, fdf := e.fdf
                          brs := e.brs, data := fit size payload }
    let waiting := s.reflex.canTx.at e.port []
    if waiting.any (·.output = key) then Act.modLeash n fun l => { l with ovr := min (2 ^ 32 - 1) (l.ovr + 1) }
    let u ← Act.get
    Act.make (.reflex { u.reflex with canTx := u.reflex.canTx.put e.port (queueFrame waiting f) })
  | 2 =>
    let frame := (s.outputArea n o).take e.off ++ payload
    Act.make (.reflex { s.reflex with ethTx := s.reflex.ethTx.put e.port (s.reflex.ethTx.at e.port [] ++ [frame]) })
  | 3 => Act.make (.reflex { s.reflex with spiTx := s.reflex.spiTx.put e.port payload })
  | _ =>
    if s.rf .toCfg e.port 1 0 = 3 then
      let late : Bool := natAt payload 0 4 < 1000
      let t := s.extend s.reflex.slotTime + max 1000 (natAt payload 0 4)
      if late then Act.regField .toCfg e.port 4 4 1
      let x := s.clock.timed.at e.port {}
      Act.make (.clock { s.clock with timed := s.clock.timed.put e.port { x with
        reflex := x.reflex ++ [(t, flag (payload.getD 4 0) 0)] } })
  if e.kind ≠ 0 then
    Act.modLeash n fun l => { l with out := (l.out + 1) % 2 ^ 32 }
    if d.lockEn then portAdd d.lock 1

/-- The outputs of leash `n` in its output slot `o`: the voted payloads, or the SAFE payloads. -/
def emitLeash (n o : Nat) : Act Unit := do
  let s ← Act.get
  let l := s.leash n
  if (l.sealed.map (·.1)) = some o then
    let voted : Option (List (List Byte)) := match l.voted with
      | some (x, ps) => if x = o && l.mode ≠ 3 then some ps else none
      | none => none
    for k in List.range (s.leashOf n).nout do
      let e := s.leashOutput n k
      let safe := ((s.outputArea n k).drop 64).take e.len
      emitOutput n k (match voted with
        | some ps => ps.getD k safe
        | none => safe)

/-- SLOT_TICK: at the slot boundary the slot counter rises, outputs of this slot are emitted, and the seals and votes
of the slot follow (R249, R256). -/
def execSlotTick (deviations : List (Nat × MemberFault)) (s : State) : Host.Outcome State Fault Refusal :=
  Act.outcome (settled (do
    let t0 ← Act.get
    if t0.awake then
      reach t0.reflex.nextBoundary
      let t ← Act.get
      let n := (t.reflex.slot + 1) % 2 ^ 64
      let at' := t.reflex.nextBoundary
      let back := t.ns - at'
      Act.make (.reflex { t.reflex with
        slot := n, slotTime := (t.nowLo + 2 ^ 32 - back % 2 ^ 32) % 2 ^ 32, nextBoundary := t.reflex.nextBoundary + 1000 })
      let ls := t.bound 0 ++ t.bound 1
      let due (x k : Nat) : Bool :=
        let d := t.leashOf x
        (n + k) % d.period = d.phase
      for x in ls do
        if due x 0 then emitLeash x n
      for x in ls do
        let b := (t.leashOf x).budget
        if due x (b + 2) then sealLeash x (n + b + 2) at'
      for x in ls do
        let u ← Act.get
        if due x 1 && (u.leash x).mode ≠ 3 && (u.leash x).mode ≠ 0 && ((u.leash x).sealed.map (·.1)) = some (n + 1) then
          voteLeash deviations x (n + 1))) s

/-! ## The rebuild (R265, R266) -/

/-- SPARE_DOMAIN_READY: the spare's domain is on and its self-test starts. -/
def execSpareDomainReady (t : Fin 2) (s : State) : Host.Outcome State Fault Refusal :=
  Act.outcome (do
    let u ← Act.get
    match (u.triad t.val).rebuild with
    | some (.wake, x) =>
      Act.setBit3 .pwrDom (42 + x) true
      Act.modTriad t.val fun r => { r with rebuild := some (.selfTest, x) }
    | _ => nothing) s

/-- SELF_TEST_COMPLETE: the copy from the lowest-numbered member begins, or the spare is retired and the next one
tried. -/
def execSelfTestComplete (t : Fin 2) (pass : Bool) (s : State) : Host.Outcome State Fault Refusal :=
  Act.outcome (do
    let u ← Act.get
    match (u.triad t.val).rebuild with
    | some (.selfTest, x) =>
      if pass then
        copyPhys (slicePa (u.firstMember t.val) 0) (slicePa x 0) 0x20_0000
        Act.modTriad t.val fun r => { r with rebuild := some (.copy, x) }
      else
        retireSlice x
        Act.modTriad t.val fun r => { r with rebuild := none }
        startRebuild t.val
    | _ => nothing) s

/-- FIRST_COPY_COMPLETE: the rebuild waits for two quiet slots. -/
def execFirstCopyComplete (t : Fin 2) (s : State) : Host.Outcome State Fault Refusal :=
  Act.outcome (do
    let u ← Act.get
    match (u.triad t.val).rebuild with
    | some (.copy, x) => Act.modTriad t.val fun r => { r with rebuild := some (.quiet, x) }
    | _ => nothing) s

/-- This slot and the next are quiet in triad `t` (R253, R265). -/
def State.quietNow (s : State) (t : Nat) : Bool :=
  (s.bound t).all fun n =>
    let d := s.leashOf n
    !(d.busy s.reflex.slot) && !(d.busy (s.reflex.slot + 1))

/-- REBUILD_JOIN: in two quiet slots tiles 5 and 7 are copied and the spare takes the vacated position. -/
def execRebuildJoin (t : Fin 2) (s : State) : Host.Outcome State Fault Refusal :=
  Act.outcome (do
    let u ← Act.get
    let r := u.triad t.val
    match r.rebuild with
    | some (.quiet, x) =>
      if u.quietNow t.val then
        let src := u.firstMember t.val
        copyPhys (slicePa src 0x5_0000) (slicePa x 0x5_0000) 0x1_0000
        copyPhys (slicePa src 0x7_0000) (slicePa x 0x7_0000) 0x1_0000
        Act.regField .refxTriad t.val (3 * r.gap + 2) (3 * r.gap) x
        setRole x 1
        Act.regField .refxRebuild t.val 15 0 (min 65535 ((u.ns - r.rebuildFrom) / 1000))
        Act.regField .refxRebuild t.val 23 16 (u.rf .refxRebuild t.val 23 16 + 1)
        let _ ← repairRecord Block.refx 4 0 2 t.val
        Act.modTriad t.val fun r => { r with state := 0, rebuild := none, fresh := true }
        let v ← Act.get
        match [0, 1, 2].find? fun p => v.role (v.position t.val p) ≠ 1 with
        | some p =>
          Act.modTriad t.val fun r => { r with state := 1, gap := p, fresh := false, rebuildFrom := v.ns }
          startRebuild t.val
        | none => nothing
    | _ => nothing) s

/-! ## Slice SRAM, rails and the ring -/

/-- SLICE_SRAM_WRITE: the write reaches every member, or it completes with FAULT_XLAT (R251). -/
def execSliceSramWrite (w : SliceWriter) (pa : Nat) (data : List Byte) (s : State) : Host.Outcome State Fault Refusal :=
  Act.outcome (do
    let many : Bool := match w with
      | .barge tiles => decide (1 < tiles)
      | .steward | .kernel => false
    let code ← if many || regionAt pa ≠ some .slice then pure Code.faultXlat else sliceWrite pa data
    if code ≠ Code.ok then
      let _ ← fault { code, block := Block.refx, atype := 0, addr := pa }) s

/-- SLICE_RAIL_LOW: the slice withholds its result in its next vote, which retires it (R429). -/
def execSliceRailLow (x : Fin 8) (s : State) : Host.Outcome State Fault Refusal :=
  Act.outcome (do
    let t ← Act.get
    if t.role x.val = 1 && !t.reflex.low.contains x.val then
      Act.make (.reflex { t.reflex with low := t.reflex.low ++ [x.val] })) s

/-- REFLEX_RING_LINK_FAILURE: the ring is recorded as failed; traffic goes on by the other (R248). -/
def execReflexRingLinkFailure (ring : Fin 2) (s : State) : Host.Outcome State Fault Refusal :=
  Act.outcome (do
    let t ← Act.get
    let bit := 6 + ring.val
    if !flag (t.rg .faultRetLink) bit then
      Act.regField .faultRetLink 0 bit bit 1
      let _ ← retireRecord Code.faultLink Block.ring) s

/-! ## Registers -/

/-- A write of REFX_TRIAD_t: members are assigned while no leash of the triad is bound (R269). A FAILED triad stays so until
REINIT; of a DUAL one the vacated position stays as it is, and its rebuild goes on (R264, R265; log entry 114). -/
def writeTriad (t : Nat) (value : Word) : Act Nat := do
  let s ← Act.get
  let want (p : Nat) : Nat := field value (3 * p + 2) (3 * p)
  let r := s.triad t
  if !(s.bound t).isEmpty then return Code.faultXlat
  else if r.state = 1 then
    let other := [0, 1, 2].map (s.position (1 - t))
    let kept := [0, 1, 2].filter (· ≠ r.gap)
    let fits (x : Nat) : Bool := (s.role x = 0 || (s.members t).contains x) && !other.contains x
    if kept.all (fun p => fits (want p)) && (kept.map want).Nodup then
      for x in s.members t do setRole x 0
      for p in kept do
        setRole (want p) 1
        Act.regField .refxTriad t (3 * p + 2) (3 * p) (want p)
      loadCode t
      return Code.ok
    else return Code.faultXlat
  else
    formTriad t ([0, 1, 2].map want)
    if r.state = 2 then Act.modTriad t fun r => { r with state := 2 }
    loadCode t
    return Code.ok

/-- What the computed registers of REFX read (Table 10.10). -/
def State.reflexReads (s : State) (r : Reg) (i : Nat) : Option Word :=
  let l := s.leash (s.rf .refxLeashSel 0 3 0)
  match r with
  | .refxTriad =>
    let t := s.triad i
    some (Word.ofNat (pack [(s.rf .refxTriad i 8 0, 0), (t.state, 9), (b2n t.rebuild.isSome, 11),
      ((t.rebuild.map (·.2)).getD 0, 12), (if t.state = 1 then t.gap else 0, 15)]))
  | .refxSlotLo => some (Word.ofNat s.reflex.slot)
  | .refxSlotHi => some (Word.ofNat (s.reflex.slot / 2 ^ 32))
  | .refxSlotTime => some (Word.ofNat s.reflex.slotTime)
  | .refxLeashStat => some (Word.ofNat (pack [(l.mode, 0), (b2n l.latch, 2), (b2n l.pending, 3), (l.cause, 4),
      (l.staleIn.toNat, 8)]))
  | .refxLeashOut => some (Word.ofNat l.out)
  | .refxLeashOvr => some (Word.ofNat l.ovr)
  | _ => none

end Sys2Proof.Machine
end

