-- ==== Sys2Proof/Machine/Ports.lean ====
section
/-!
DEFINITION. Sys2Proof/Machine/Ports.lean: the sensor ports and the commits of the Weir (chapter 11): CSI-2, Ethernet,
SPI, UART and CAN, and which source feeds a queue.
-/
namespace Sys2Proof.Machine

/-! ## Packets (R273 to R275) -/

/-- What a packet's header line says beside its length and counts (Table 11.1). -/
structure Head where
  src : Nat
  time : Nat
  crcErr : Bool := false
  fs : Bool := false
  fe : Bool := false
  frame : Nat := 0
  vc : Nat := 0
  dt : Nat := 0
  rule : Nat := 0
  deriving DecidableEq, Repr

def Head.bytes (h : Head) (len seq lost : Nat) : List Byte :=
  bytesOf 4 (pack [(len, 0), (b2n h.crcErr, 16), (b2n h.fs, 17), (b2n h.fe, 18), (b2n (lost ≠ 0), 19), (h.src, 24)]) ++
  bytesOf 4 h.time ++ bytesOf 4 seq ++ bytesOf 4 (pack [(h.frame, 0), (h.vc, 16), (h.dt, 20), (h.rule, 26)]) ++
  bytesOf 4 lost ++ List.replicate 44 0

/-- A packet is abandoned: DROP and the next header's LOST rise; while it arrived, occupancy stood at `peak` (R275). -/
def abandonPacket (q peak : Nat) : Act Unit := do
  watermark q peak
  watermarkNow q
  Act.countSat .weirQDrop q 31 0
  Act.modQueue q fun x => { x with lost := min 65535 (x.lost + 1) }

/-- The WEIRRs that wait for the queue are granted its lines in their order (R284). -/
def grantWaiting (q : Nat) : Act Unit := do
  let s ← Act.get
  match s.qOwner q with
  | none => nothing
  | some c =>
    match (s.ctx c).kern with
    | none => nothing
    | some k =>
      if k.phase = .running then
        for w in k.weirWaits.filter (·.queue = q) do
          let t ← Act.get
          if t.rg .weirQRd q ≠ t.rg .weirQCm q && ((t.ctx c).kern.map fun k => k.weirWaits.contains w) = some true then
            if t.late w.deadline then failKernel c { code := Code.timeout, block := Block.weir, atype := 2, addr := w.queue }
            else
              Act.modKernel c fun k => { k with
                weirWaits := k.weirWaits.filter (· ≠ w), okAtDeadline := k.okAtDeadline || t.atDeadline w.deadline }
              match ← grantLine c (t.weirFlight k w.logical w.cell w.chan w.id) q with
              | some f => failKernel c f
              | none => nothing

/-- The Lock operation of a commit (R274). -/
def queueLock (q : Nat) (h : Head) : Act Unit := do
  let s ← Act.get
  if flag (s.rg .weirQCfg q) 28 then
    let n := s.rf .weirQCfg q 27 15
    match s.rf .weirQCfg q 14 13 with
    | 0 => portAdd n 1
    | 1 => if h.fe then portAdd n 1
    | 2 =>
      if h.fs then portSet n 0
      portAdd n 1
    | _ => nothing

/-- The packet whose header line is at line count `wr` ends: its payload lines, its length word, CM and the Lock operation
(R274). -/
def commitPacket (q wr : Nat) (h : Head) (payload : List Byte) : Act Unit := do
  let s ← Act.get
  let lines := 1 + (payload.length + 63) / 64
  let x := s.queue q
  let seq := (x.seq + 1) % 2 ^ 32
  for i in List.range (lines - 1) do
    writePhys (s.qLine q ((wr + 1 + i) % 2 ^ 32)) (fit 64 (payload.drop (64 * i)))
  writePhys (s.qLine q wr) (h.bytes payload.length seq x.lost)
  Act.reg .weirQWr q (Word.ofNat (wr + lines))
  Act.reg .weirQCm q (Word.ofNat (wr + lines))
  Act.modQueue q fun x => { x with
    seq, lost := 0, packets := x.packets ++ [{ start := wr, lines, stamp := h.time }] }
  watermarkNow q
  if (s.qOwner q).isNone then weirFlush q else grantWaiting q
  if h.fs then alignFrame q (h.time % 2 ^ 32)
  queueLock q h

/-- A packet that has arrived whole for queue `q`: committed with its length word, or abandoned where it passes SIZE or
is not `good`. A queue that is not enabled takes nothing. -/
def queuePacket (q : Nat) (h : Head) (payload : List Byte) (good : Bool := true) : Act Unit := do
  let s ← Act.get
  if s.qOn q && s.portsOn then
    let occ := s.qOcc q + 1 + (payload.length + 63) / 64
    if s.qSize q < occ || !good then abandonPacket q (min (s.qSize q) occ)
    else commitPacket q (s.rg .weirQWr q).toNat h payload

/-! ## CSI-2 (R276) -/

/-- The enabled routes of a receiver for a virtual channel. -/
def State.routes (s : State) (r vc : Nat) : List Word :=
  ((List.range 4).map fun k => s.rg .csiRoute r k).filter fun w => flag w 0 && field w 4 1 = vc

/-- CSI_LONG_PACKET: the first route of its channel and data type takes it. A failed payload CRC is committed and
counted; an uncorrectable header abandons it (R275). -/
def execCsiLongPacket (r : Fin 12) (vc dt : Nat) (payload : List Byte) (crcOk hdrOk : Bool) (s : State) :
    Host.Outcome State Fault Refusal :=
  Act.outcome (settled (do
    let t ← Act.get
    let n := r.val
    if t.portsOn && flag (t.rg .csiCfg n) 0 then
      if !hdrOk then Act.countSat .csiErr n 31 16
      else if !crcOk then Act.countSat .csiErr n 15 0
      match (t.routes n vc).find? fun w => flag w 11 || field w 10 5 = dt with
      | none => Act.countSat .csiUnrouted n 31 0
      | some w =>
        let h : Head := { src := n, time := t.fullTime, crcErr := !crcOk, frame := t.ports.csiFrame.at (n * 16 + vc) 0, vc, dt }
        queuePacket (field w 17 12) h payload hdrOk)) s

/-- CSI_SHORT_PACKET: Frame Start and Frame End go to every route of their channel; others are counted and discarded. An
uncorrectable header abandons the packet (R275). -/
def execCsiShortPacket (r : Fin 12) (vc dt : Nat) (frame : Option Nat) (s : State) : Host.Outcome State Fault Refusal :=
  Act.outcome (settled (do
    let t ← Act.get
    let n := r.val
    if t.portsOn && flag (t.rg .csiCfg n) 0 then
      if frame.isNone then Act.countSat .csiErr n 31 16
      if dt = 0 || dt = 1 then
        let key := n * 16 + vc
        if let (0, some f) := (dt, frame) then
          Act.count .csiFrames n
          Act.make (.ports { t.ports with csiFrame := t.ports.csiFrame.put key (f % 65536) })
        let u ← Act.get
        let h : Head := { src := n, time := t.fullTime, fs := dt = 0, fe := dt = 1, frame := u.ports.csiFrame.at key 0, vc, dt }
        let qs : List Nat := ((t.routes n vc).map fun w => field w 17 12).dedup
        if qs.isEmpty then Act.countSat .csiUnrouted n 31 0
        for q in qs do queuePacket q h [] frame.isSome
      else Act.make (.ports { t.ports with csiShort := t.ports.csiShort + 1 }))) s

/-! ## Ethernet (R277, R343, R345) -/

/-- A big-endian 16-bit field of a frame. -/
def be16 (bs : List Byte) (i : Nat) : Nat := (bs.getD i 0).toNat * 256 + (bs.getD (i + 1) 0).toNat

/-- What the rules see of a frame (IEEE 802.3, 802.1Q, and UDP over IPv4 or IPv6). -/
structure EthHead where
  etherType : Nat
  vid : Option Nat
  udp : Option Nat
  /-- Where the payload of the EtherType, and of UDP, begins. -/
  body : Nat
  udpBody : Nat
  deriving DecidableEq, Repr

def EthHead.of (b : List Byte) : EthHead :=
  let tagged : Bool := be16 b 12 = 0x8100 && 18 ≤ b.length
  let body := if tagged then 18 else 14
  let et := be16 b (body - 2)
  let ihl := (b.getD body 0).toNat % 16 * 4
  let v4 : Bool := et = 0x0800 && body + 20 ≤ b.length && (b.getD (body + 9) 0).toNat = 17 && be16 b (body + 6) % 8192 = 0 &&
    body + ihl + 4 ≤ b.length
  let v6 : Bool := et = 0x86DD && body + 44 ≤ b.length && (b.getD (body + 6) 0).toNat = 17
  { etherType := et, vid := if tagged then some (be16 b 14 % 4096) else none
    udp := if v4 then some (be16 b (body + ihl + 2)) else if v6 then some (be16 b (body + 42)) else none
    body, udpBody := body + (if v4 then ihl else 40) + 8 }

/-- Rule `k` of a MAC takes a frame when it is enabled and every enabled condition holds (R292). -/
def State.ruleTakes (s : State) (m k : Nat) (h : EthHead) : Bool :=
  let lo := s.rg .ethRuleLo m k
  let hi := s.rg .ethRuleHi m k
  flag lo 30 && (!flag lo 28 || field lo 15 0 = h.etherType) && (!flag lo 29 || h.vid = some (field lo 27 16)) &&
    (!flag hi 16 || h.udp = some (field hi 15 0))

/-- The delays of Table 14.1 in tenths of a nanosecond: removed from a receive stamp, added to a transmit stamp. -/
def linkDelays : EthLink → Nat × Nat
  | .usx10g => (384, 256)
  | .usx5g => (768, 512)
  | .usx2g5 => (1536, 1024)
  | .usx1g => (3840, 2560)
  | .sgmii1000 => (720, 560)
  | .sgmii100 => (7200, 5600)

/-- The links a MAC can negotiate: USXGMII on MACs 0–3, SGMII on MACs 4–7 (R277). -/
def linkFits (m : Nat) : EthLink → Bool
  | .sgmii1000 | .sgmii100 => 4 ≤ m
  | .usx10g | .usx5g | .usx2g5 | .usx1g => m < 4

/-- Full device time moved by a number of tenths of a nanosecond, in ns (R345). -/
def State.stampAt (s : State) (tenths : Int) : Nat :=
  let t : Int := (s.nowHi * 2 ^ 64 + s.clock.acc.toNat : Nat)
  ((t * 10 + tenths * 2 ^ 32) / (10 * 2 ^ 32)).toNat

/-- Tenths of a nanosecond that one PAUSE quantum lasts: 512 bit times (IEEE 802.3). -/
def pauseQuantum : EthLink → Nat
  | .usx10g => 512
  | .usx5g => 1024
  | .usx2g5 => 2048
  | .usx1g | .sgmii1000 => 5120
  | .sgmii100 => 51200

/-- A receive stamp: the internal delay and RXADJ removed. -/
def State.rxStamp (s : State) (m : Nat) (l : EthLink) : Nat :=
  s.stampAt (-(linkDelays l).1 - 10 * signed 16 (s.rf .macAdj m 15 0))

/-- A transmit stamp: the internal delay and TXADJ added. -/
def State.txStamp (s : State) (m : Nat) (l : EthLink) : Nat :=
  s.stampAt ((linkDelays l).2 + 10 * signed 16 (s.rf .macAdj m 31 16))

/-- A PTP event stamp enters its MAC's FIFO of 32. -/
def ptpPush (m time : Nat) (sent : Bool) (msg seq : Nat) : Act Unit := do
  let s ← Act.get
  let q := s.clock.ptp.at m []
  if q.length < 32 then
    Act.make (.clock { s.clock with ptp := s.clock.ptp.put m (q ++ [(time, sent, msg, seq % 65536)]) })

/-- The PTP event message a frame carries, if it does: messageType 0–3 and sequenceId (R343). -/
def ptpMessage (b : List Byte) (h : EthHead) : Option (Nat × Nat) :=
  let at' := if h.etherType = 0x88F7 then some h.body else if h.udp = some 319 then some h.udpBody else none
  match at' with
  | some i =>
    let msg := (b.getD i 0).toNat % 16
    if msg ≤ 3 && i + 32 ≤ b.length then some (msg, be16 b (i + 30)) else none
  | none => none

/-- ETH_FRAME: a frame of `bytes` from the destination address to the end of the data is stamped, offered to leashes
and to the rules, and queued, abandoned or dropped. -/
def execEthFrame (m : Fin 8) (bytes : List Byte) (fcsOk : Bool) (link : EthLink) (s : State) :
    Host.Outcome State Fault Refusal :=
  Act.outcome (settled (do
    let t ← Act.get
    let n := m.val
    if t.awake && linkFits n link then
      let h := EthHead.of bytes
      let ing := t.rg .ethIng n
      let size := bytes.length + 4
      let sizeOk : Bool := 64 ≤ size && size ≤ (if flag ing 8 then 9216 else 1522)
      let good := fcsOk && sizeOk
      let time := t.rxStamp n link
      if good then
        match ptpMessage bytes h with
        | some (msg, seq) => ptpPush n time false msg seq
        | none => nothing
        reflexArrival (.eth m h.etherType) (bytes.drop h.body)
      if good && h.etherType = 0x8808 then
        if be16 bytes h.body = 1 then
          let hold := be16 bytes (h.body + 2) * pauseQuantum link / 10
          Act.make (.ports { t.ports with paused := t.ports.paused.put n (t.ns + hold) })
      else if flag ing 0 then
        if !fcsOk then Act.countSat .ethRxerr n 15 0
        if !sizeOk then Act.countSat .ethRxerr n 31 16
        match firstBelow 8 fun k => t.ruleTakes n k h with
        | some k =>
          queuePacket (field (t.rg .ethRuleHi n k) 22 17) { src := 0x10 + n, time, rule := k } (bytes.take 65535) good
        | none =>
          if flag ing 1 then Act.countSat .ethRxunm n 31 0
          else queuePacket (field ing 7 2) { src := 0x10 + n, time, rule := 8 } (bytes.take 65535) good)) s

/-- EVENT_MESSAGE_SENT: the transmit stamp enters the MAC's PTP FIFO with DIR 1. A MAC that honours a PAUSE sends at its end
(R277). -/
def execEventMessageSent (m : Fin 8) (p : PtpMessage) (link : EthLink) (s : State) : Host.Outcome State Fault Refusal :=
  Act.outcome (do
    let t ← Act.get
    if t.awake && linkFits m.val link && p.msg ≤ 3 then
      reach (t.ports.paused.at m.val 0)
      let u ← Act.get
      ptpPush m.val (u.txStamp m.val link) true p.msg p.seq) s

/-! ## SPI, UART and CAN (R278) -/

/-- The bytes a transaction of SPI port `n` clocks out: its template, and zeros behind it. -/
def State.spiBytes (s : State) (n : Nat) : List Byte :=
  fit (s.rf .spiIng n 13 6 + 1) ((List.range 4).flatMap fun j => bytesOf 4 (s.rg .spiTpl n j).toNat)

/-- A start of SPI port `n`: a transaction begins, or it is skipped while one runs. -/
def spiStart (n : Nat) : Act Unit := do
  let t ← Act.get
  if t.awake && flag (t.rg .spiIng n) 0 then
    if t.ports.spiBusy.at n false then Act.countSat .spiSkip n 31 0
    else Act.make (.ports { t.ports with
      spiBusy := t.ports.spiBusy.put n true, spiOut := t.ports.spiOut.put n (t.spiBytes n) })

/-- SPI_TRANSACTION_START of a periodic port, SPI_n_PERIOD after its last start; with TRIG a start comes with its capture
edge. -/
def execSpiTransactionStart (n : Fin 4) (s : State) : Host.Outcome State Fault Refusal :=
  Act.outcome (do
    let t ← Act.get
    if t.awake && flag (t.rg .spiIng n.val) 0 && !flag (t.rg .spiIng n.val) 1 then
      let due := (t.ports.spiNext.find n.val).getD t.ns
      reach due
      let u ← Act.get
      Act.make (.ports { u.ports with spiNext := u.ports.spiNext.put n.val (due + (u.rg .spiPeriod n.val).toNat) })
      spiStart n.val) s

/-- SPI_TRANSACTION_END: the bytes received make one packet, and reach the leashes that read the port. -/
def execSpiTransactionEnd (n : Fin 4) (received : List Byte) (s : State) : Host.Outcome State Fault Refusal :=
  Act.outcome (settled (do
    let t ← Act.get
    if t.awake && t.ports.spiBusy.at n.val false && received.length = t.rf .spiIng n.val 13 6 + 1 then
      Act.make (.ports { t.ports with spiBusy := t.ports.spiBusy.put n.val false })
      reflexArrival (.spi n) received
      queuePacket (t.rf .spiIng n.val 19 14) { src := 0x20 + n.val, time := t.fullTime } received)) s

def Act.modUart (n : Nat) (f : UartRx → UartRx) : Act Unit := do
  let s ← Act.get
  match s.ports.uart.find n with
  | some x => Act.make (.ports { s.ports with uart := s.ports.uart.put n (f x) })
  | none => nothing

/-- The packet that UART `n` receives needs its next line: WR advances over it, or the packet is abandoned (R274, R275). -/
def takeLine (n q : Nat) : Act Unit := do
  let s ← Act.get
  if s.qSize q < s.qOcc q + 1 then
    match s.ports.uart.find n with
    | some x =>
      Act.modUart n fun x => { x with held := false }
      Act.reg .weirQWr q (Word.ofNat x.start)
      abandonPacket q (s.qSize q)
    | none => nothing
  else
    Act.reg .weirQWr q (s.rg .weirQWr q + 1)
    watermarkNow q

/-- A packet of UART `n` starts: its header line is reserved. -/
def openUart (n q stamp : Nat) : Act Unit := do
  let s ← Act.get
  let held := s.qOn q && s.portsOn
  Act.make (.ports { s.ports with
    uart := s.ports.uart.put n { bytes := [], stamp, last := s.ns, start := (s.rg .weirQWr q).toNat, held } })
  if held then takeLine n q

/-- A byte joins the packet of UART `n`; the line it completes is written. -/
def addByte (n q : Nat) (byte : Byte) : Act Unit := do
  Act.modUart n fun x => { x with bytes := x.bytes ++ [byte] }
  let s ← Act.get
  match s.ports.uart.find n with
  | some x =>
    Act.modUart n fun x => { x with last := s.ns }
    if x.held && x.bytes.length % 64 = 0 then
      takeLine n q
      let u ← Act.get
      if ((u.ports.uart.find n).map (·.held)).getD false then
        writePhys (s.qLine q (x.start + x.bytes.length / 64)) (x.bytes.drop (x.bytes.length - 64))
  | none => nothing

/-- The UART closes its packet: what is left over of a line takes one more. -/
def closeUart (n : Nat) : Act Unit := do
  let t ← Act.get
  let q := t.rf .uartIng n 15 10
  match t.ports.uart.find n with
  | some x =>
    if x.held && x.bytes.length % 64 ≠ 0 then takeLine n q
    let u ← Act.get
    let held := ((u.ports.uart.find n).map (·.held)).getD false
    Act.make (.ports { u.ports with uart := u.ports.uart.drop n })
    if held then commitPacket q x.start { src := 0x28 + n, time := x.stamp } x.bytes
  | none => nothing

/-- Nanoseconds of `k` bit times of UART `n`. -/
def State.bitTimes (s : State) (n k : Nat) : Nat := k * 10 ^ 9 / s.rf .uartBaud n 21 0

/-- UART_BYTE, at the end of its stop bit: ten bit times after its start bit. -/
def execUartByte (n : Fin 4) (byte : Byte) (framingOk : Bool) (s : State) : Host.Outcome State Fault Refusal :=
  Act.outcome (settled (do
    let t ← Act.get
    let i := n.val
    if t.awake && flag (t.rg .uartIng i) 0 then
      if !framingOk then Act.countSat .uartErr i 31 0
      let q := t.rf .uartIng i 15 10
      if (t.ports.uart.find i).isNone then openUart i q (t.fullTime - t.bitTimes i 10)
      addByte i q byte
      let u ← Act.get
      let x : UartRx := (u.ports.uart.find i).getD { bytes := [], stamp := 0, last := 0 }
      let delim : Bool := flag (t.rg .uartIng i) 1 && byte.toNat = t.rf .uartIng i 9 2
      if delim || t.rf .uartIng i 26 16 + 1 ≤ x.bytes.length then closeUart i)) s

/-- UART_IDLE_CLOSE: two character times after the last byte. -/
def execUartIdleClose (n : Fin 4) (s : State) : Host.Outcome State Fault Refusal :=
  Act.outcome (settled (do
    let t ← Act.get
    match t.ports.uart.find n.val with
    | some x =>
      reach (x.last + t.bitTimes n.val 20)
      closeUart n.val
    | none => nothing)) s

/-- CAN_FRAME_RECEIVE: to the controller's mailboxes and to leashes, or counted on a CRC failure. -/
def execCanFrameReceive (port : Fin 8) (ident : Nat) (xtd : Bool) (payload : List Byte) (crcOk : Bool) (s : State) :
    Host.Outcome State Fault Refusal :=
  Act.outcome (do
    let t ← Act.get
    let p := port.val
    if t.awake then
      if crcOk then
        Act.make (.reflex { t.reflex with canBox := t.reflex.canBox.put p (t.reflex.canBox.at p [] ++ [(ident, xtd, payload)]) })
        reflexArrival (.can port ident xtd) payload
      else Act.make (.reflex { t.reflex with canErr := t.reflex.canErr.put p (t.reflex.canErr.at p 0 + 1) })) s

/-- CAN_TRANSMIT: the frame that has waited longest in the reflex transmit buffer is sent (R258). -/
def execCanTransmit (port : Fin 8) (s : State) : Host.Outcome State Fault Refusal :=
  Act.outcome (do
    let t ← Act.get
    if t.awake then
      Act.make (.reflex { t.reflex with canTx := t.reflex.canTx.put port.val ((t.reflex.canTx.at port.val []).drop 1) })) s

/-! ## Which source feeds a queue (R271) -/

/-- A write of instance (i, j) of a route, a rule or a port's settings: discarded with FAULT_XLAT where it would make a
second source feed a queue. -/
def writeRoute (r : Reg) (i j : Nat) (value : Word) : Act Nat := do
  let s ← Act.get
  let w := value &&& r.row.rw
  let after := s.upd (.reg (r.off i j) w)
  let source : Nat × Nat := match r with
    | .csiRoute => (i, j)
    | .ethIng => (0x10 + i, 8)
    | .ethRuleLo | .ethRuleHi => (0x10 + i, j)
    | .spiIng => (0x20 + i, 0)
    | _ => (0x28 + i, 0)
  let clash : Bool := (List.range 64).any fun q =>
    let xs := after.sources q
    xs.contains source && !(s.sources q).contains source && xs.any (· ≠ source)
  if clash then return Code.faultXlat
  else
    Act.regAt r i j w
    return Code.ok

end Sys2Proof.Machine
end

