-- ==== Sys2Proof/Machine/Clock.lean ====
section
/-!
DEFINITION. Sys2Proof/Machine/Clock.lean: the clock unit (chapter 14): wraps and their folding, the servo, steps, timed
outputs and captures.
-/
namespace Sys2Proof.Machine

/-! ## Wraps (R338, R339) -/

/-- TIME_COUNTER_WRAP: the nanosecond counter reaches 2^32. -/
def execTimeCounterWrap (s : State) : Host.Outcome State Fault Refusal :=
  Act.outcome (do
    let t ← Act.get
    passUnits (2 ^ 64 - t.clock.acc.toNat)) s

/-- A write of k to TIME_ERA_ACK folds k wraps; more than PEND is discarded. -/
def foldWraps (k : Nat) : Act Nat := do
  let s ← Act.get
  if k ≤ s.clock.pend then
    Act.make (.clock { s.clock with era := (s.clock.era + k) % 2 ^ 32, pend := s.clock.pend - k })
  return Code.ok

/-- ERA_ACK. -/
def execEraAck (who : Who) (k : Nat) (s : State) : Host.Outcome State Fault Refusal :=
  Act.outcome (command who .timeEraAck 0 (foldWraps (k % 4))) s

/-! ## The servo (R341, R342) -/

/-- A rate held within ±500 ppm. -/
def clampRate (x : Rat) : Rat := max (-(1 / 2000)) (min (1 / 2000) x)

/-- TIME_ADJ of a rate: the nearest whole unit of 2^−32 ns per tick, within its clamp. -/
def adjOf (rate : Rat) : Int := max (-4294967) (min 4294967 (rate * 2 * 2 ^ 32 + 1 / 2).floor)

/-- The time stepped at this moment: a sample of the same cycle is discarded (R353). -/
def Clock.justStepped (c : Clock) : Bool := c.stepAt = some c.elapsed

/-- One offset sample θ ns after an interval of `tau` ns; none for the write that only starts an interval. -/
def servo (theta : Int) (tau : Option Rat) : Act Unit := do
  let s ← Act.get
  let c := s.clock
  if c.justStepped then return ()
  Act.reg .timeLastofs 0 (BitVec.ofInt 32 theta)
  Act.regField .timeStat 0 4 4 0
  if 1000000 ≤ theta.natAbs then
    Act.regField .timeStat 0 5 5 1
    Act.regField .timeStat 0 3 3 0
    Act.make (.clock { c with good := 0, lastOfsTime := s.ns })
  else
    match tau with
    | none => Act.make (.clock { c with first := false, lastOfsTime := s.ns })
    | some tau =>
      let lock := s.rf .timeCfg 0 31 16
      let y : Rat := -(theta : Rat) / tau
      let integ := clampRate (c.integ + y / 2 ^ s.rf .timeCfg 0 13 10)
      let rate := clampRate (integ + y / 2 ^ s.rf .timeCfg 0 9 6)
      let good := if theta.natAbs ≤ lock then c.good + 1 else 0
      Act.reg .timeAdj 0 (BitVec.ofInt 32 (adjOf rate))
      if 4 ≤ good then Act.regField .timeStat 0 3 3 1
      if 4 * lock < theta.natAbs then Act.regField .timeStat 0 3 3 0
      Act.make (.clock { c with integ, good, lastOfsTime := s.ns })

/-- A sample written to TIME_OFS: ignored unless SRC is 2, and in the cycle of a step; its interval runs from the previous accepted write, at least
one tick before. -/
def offsetSample (theta : Word) : Act Nat := do
  let s ← Act.get
  if s.rf .timeCfg 0 1 0 = 2 && !s.clock.justStepped then
    let c := s.clock
    let tau : Option Rat := match c.lastSample with
      | some t => if c.first then none else some ((max (2 * nsUnit) (c.elapsed - t) : Nat) / (nsUnit : Rat))
      | none => none
    servo theta.toInt tau
    if !c.first || theta.toInt.natAbs < 1000000 then
      let u ← Act.get
      Act.make (.clock { u.clock with lastSample := some u.clock.elapsed })
  return Code.ok

/-- TIME_OFS. -/
def execTimeOfs (who : Who) (theta : Word) (s : State) : Host.Outcome State Fault Refusal :=
  Act.outcome (command who .timeOfs 0 (offsetSample theta)) s

/-- The unit enters holdover: LOCKED clears and TIME_ADJ is held. -/
def enterHoldover : Act Unit := do
  Act.regField .timeStat 0 3 3 0
  Act.regField .timeStat 0 4 4 1

/-- HOLDOVER: 2 s have passed with no sample. -/
def execHoldover (s : State) : Host.Outcome State Fault Refusal :=
  Act.outcome (do
    let t ← Act.get
    reach (t.clock.lastOfsTime + 2000000000)
    enterHoldover) s

/-- A write of TIME_CFG: a new SRC makes the next write of source 2 a first one (R341). -/
def writeTimeCfg (value : Word) : Act Nat := do
  let s ← Act.get
  if field value 1 0 ≠ s.rf .timeCfg 0 1 0 then
    Act.make (.clock { s.clock with first := true, lastSample := none, lastOfsTime := s.ns })
  Act.reg .timeCfg 0 (value &&& 0xFFFF3FFF)
  return Code.ok

/-- OSCILLATOR_FAIL: the backup oscillator takes over; time enters holdover (R462). -/
def execOscillatorFail (s : State) : Host.Outcome State Fault Refusal :=
  Act.outcome (do
    let t ← Act.get
    if !t.clock.backupOsc then
      Act.make (.clock { t.clock with backupOsc := true })
      enterHoldover) s

/-! ## Timed outputs (R347 to R350) -/

def Act.modTimed (n : Nat) (f : Timed → Timed) : Act Unit := do
  let s ← Act.get
  Act.make (.clock { s.clock with timed := s.clock.timed.put n (f (s.clock.timed.at n {})) })

def State.toMode (s : State) (n : Nat) : Nat := s.rf .toCfg n 1 0
def State.toStart (s : State) (n : Nat) : Nat := (s.rg .toStartLo n).toNat + (s.rg .toStartHi n).toNat * 2 ^ 32
def State.toWidth (s : State) (n : Nat) : Nat := (s.rg .toWidth n).toNat

/-- PERIOD and FRAC in 2^−16 ns. -/
def State.toStep (s : State) (n : Nat) : Nat := (s.rg .toPeriod n).toNat * 65536 + s.rf .toFrac n 15 0

/-- Full device time of leading edge `k` of a periodic output. -/
def State.edgeTime (s : State) (n k : Nat) : Nat := s.toStart n + k * s.toStep n / 65536

/-- The first periodic edge at or after now. -/
def State.nextEdge (s : State) (n : Nat) : Nat × Nat :=
  let k := (s.fullTime - s.toStart n) * 65536 / s.toStep n
  let k := if s.fullTime ≤ s.edgeTime n k then k else k + 1
  let k := if s.fullTime ≤ s.edgeTime n k then k else k + 1
  (k, s.edgeTime n k)

/-- Arms output `n` in its mode (R348). -/
def armOutput (n mode : Nat) : Act Unit := do
  let s ← Act.get
  match mode with
  | 1 =>
    let late : Bool := s.toStart n < s.fullTime
    if late then Act.regField .toCfg n 4 4 1
    Act.modTimed n fun x => { x with next := some (0, if late then s.fullTime else s.toStart n) }
    if late then Act.modTimed n fun x => { x with
      next := none, asserted := true, lastLead := s.fullTime
      trail := if s.toWidth n = 0 then none else some (s.clock.elapsed + s.toWidth n * nsUnit) }
  | 2 => Act.modTimed n fun x => { x with next := some (s.nextEdge n) }
  | _ => nothing

/-- A write of TIME_TO_n_CFG (R348). -/
def writeToCfg (n : Nat) (value : Word) : Act Nat := do
  let s ← Act.get
  let old := s.toMode n
  let new := field value 1 0
  let width := s.toWidth n
  let period := (s.rg .toPeriod n).toNat
  let bad : Bool := old = 0 && new = 2 && !(0 < width && width < period && 100 ≤ period)
  let keep : Bool := old ≠ 0 && new ≠ 0
  let late := if flag value 4 then 0 else s.rf .toCfg n 4 4
  let mode := if bad then 0 else if keep then old else new
  let pol := if keep then s.rf .toCfg n 2 2 else field value 2 2
  Act.reg .toCfg n (Word.ofNat (pack [(mode, 0), (pol, 2), (field value 3 3, 3), (late, 4)]))
  Act.make (.ports { s.ports with toDriven := s.ports.toDriven.put n true })
  if new = 0 then Act.modTimed n fun x => { x with next := none, trail := none, asserted := false, reflex := [] }
  else if !keep && !bad then armOutput n mode
  return if bad then Code.faultXlat else Code.ok

/-- TO_ARM: a write of an output's CFG arms or disarms it. -/
def execToArm (who : Who) (n : Fin 16) (cfg : Word) (s : State) : Host.Outcome State Fault Refusal :=
  Act.outcome (command who .toCfg n.val (writeToCfg n.val cfg)) s

/-- A write of START, PERIOD, FRAC or WIDTH: discarded while MODE is not 0. -/
def writeTimed (r : Reg) (n : Nat) (value : Word) : Act Nat := do
  let s ← Act.get
  if s.toMode n = 0 then Act.reg r n (value &&& r.row.rw)
  return Code.ok

/-- What an output does next. -/
inductive Edge where
  | lead (k time : Nat)
  | trail
  | reflex (time : Nat) (level : Bool)
  deriving DecidableEq, Repr

/-- The next edge of output `n`, with the units of elapsed time left until it. -/
def State.pendingEdge (s : State) (n : Nat) : Option (Nat × Edge) :=
  let x := s.clock.timed.at n {}
  let left (t : Nat) : Nat := (t - s.fullTime) * nsUnit - (if s.fullTime < t then s.clock.acc.toNat % nsUnit else 0)
  let all := (x.trail.map fun t => (t - s.clock.elapsed, Edge.trail)).toList ++
    (x.next.map fun p => (left p.2, Edge.lead p.1 p.2)).toList ++ x.reflex.map fun p => (left p.1, Edge.reflex p.1 p.2)
  all.foldl (fun (b : Option (Nat × Edge)) e => match b with
    | none => some e
    | some y => some (if e.1 < y.1 then e else y)) none

/-- TIMED_OUTPUT_EDGE: the output's next edge fires at its time. -/
def execTimedOutputEdge (n : Fin 16) (s : State) : Host.Outcome State Fault Refusal :=
  Act.outcome (do
    let t ← Act.get
    let i := n.val
    match t.pendingEdge i with
    | none => nothing
    | some (left, edge) =>
      passUnits left
      match edge with
      | .trail => Act.modTimed i fun x => { x with trail := none, asserted := false }
      | .reflex time level =>
        let on : Bool := level = flag (t.rg .toCfg i) 2
        Act.modTimed i fun x => { x with
          reflex := x.reflex.erase (time, level), asserted := on
          lastLead := if on && !x.asserted then time else x.lastLead }
      | .lead k time =>
        let u ← Act.get
        Act.modTimed i fun x => { x with
          next := if u.toMode i = 2 then some (k + 1, u.edgeTime i (k + 1)) else none
          asserted := true, lastLead := time
          trail := if u.toWidth i = 0 then none else some (u.clock.elapsed + u.toWidth i * nsUnit) }) s

/-! ## Steps (R344) -/

/-- A step of `delta` ns: full device time moves, PEND and the elapsed time stay. Periodic outputs go on at their first
edge from the new time, and deadlines it passes expire. -/
def stepTime (delta : Int) : Act Unit := do
  let s ← Act.get
  let full := (((s.fullTime : Int) + delta) % 2 ^ 64).toNat
  let acc : BitVec 64 := BitVec.ofNat 64 (full % 2 ^ 32 * 2 ^ 32 + s.clock.acc.toNat % 2 ^ 32)
  Act.make (.clock { s.clock with
    acc, era := (full / 2 ^ 32 + 2 ^ 32 - s.clock.pend) % 2 ^ 32, integ := 0, first := true, lastSample := none,
    stepAt := some s.clock.elapsed })
  Act.regField .timeStat 0 6 6 1
  Act.regField .timeStat 0 3 3 0
  let t ← Act.get
  for n in List.range 16 do
    if t.toMode n = 2 then Act.modTimed n fun x => { x with next := some (t.nextEdge n) }
    else Act.modTimed n fun x => { x with next := x.next.map fun p => (p.1, if delta < 0 then p.2 else max p.2 (min t.fullTime (p.2 + delta.toNat))) }
  for r in t.plan.requests do
    if r.deadline ≤ t.fullTime then planDeadline

/-- STEP_GO. -/
def execStepGo (who : Who) (s : State) : Host.Outcome State Fault Refusal :=
  Act.outcome (settled (command who .timeStepGo 0 (do
    let t ← Act.get
    stepTime (signed 64 ((t.rg .timeStepLo).toNat + (t.rg .timeStepHi).toNat * 2 ^ 32))
    return Code.ok))) s

/-! ## Captures (R351, R352) -/

/-- CAPTURE_EDGE, at the first tick of a new level that holds: the edge goes to the FIFO, to the servo, to leashes and to
the SPI ports it triggers. -/
def execCaptureEdge (n : Fin 16) (level : Bool) (s : State) : Host.Outcome State Fault Refusal :=
  Act.outcome (do
    let t ← Act.get
    let i := n.val
    let cfg := t.rg .tcCfg i
    let edge := field cfg 2 1
    let close : Bool := field cfg 7 3 = 0 && match t.clock.tcLast.find i with
      | some e => decide (t.clock.elapsed < e + 4 * nsUnit)
      | none => false
    if flag cfg 0 && (edge = 3 || edge = (if level then 1 else 2)) && !close then
      let q := t.clock.tc.at i []
      let full := t.fullTime
      Act.make (.clock { t.clock with
        tcLast := t.clock.tcLast.put i t.clock.elapsed
        tc := if q.length < 16 then t.clock.tc.put i (q ++ [(full, level)]) else t.clock.tc })
      if 16 ≤ q.length then Act.countSat .tcStat i 15 8
      if t.rf .timeCfg 0 1 0 = 1 && t.rf .timeCfg 0 5 2 = i then
        servo ((((full : Int) + 500000000) % 1000000000) - 500000000) (some 1000000000)
      reflexArrival (.tc n) []
      for p in List.range 4 do
        if flag (t.rg .spiIng p) 1 && t.rf .spiIng p 5 2 = i then spiStart p) s

/-- A write of TIME_TC_n_POP. -/
def popCapture (n : Nat) : Act Nat := do
  let s ← Act.get
  Act.make (.clock { s.clock with tc := s.clock.tc.put n ((s.clock.tc.at n []).drop 1) })
  return Code.ok

/-- TC_POP. -/
def execTcPop (who : Who) (n : Fin 16) (s : State) : Host.Outcome State Fault Refusal :=
  Act.outcome (command who .tcPop n.val (popCapture n.val)) s

/-- A write of TIME_PTP_m_POP. -/
def popPtp (m : Nat) : Act Nat := do
  let s ← Act.get
  Act.make (.clock { s.clock with ptp := s.clock.ptp.put m ((s.clock.ptp.at m []).drop 1) })
  return Code.ok

/-- PTP_POP. -/
def execPtpPop (who : Who) (m : Fin 8) (s : State) : Host.Outcome State Fault Refusal :=
  Act.outcome (command who .ptpPop m.val (popPtp m.val)) s

/-- What the computed registers of TIME read (Table 14.4). -/
def State.timeReads (s : State) (r : Reg) (i : Nat) : Option Word :=
  let tc := (s.clock.tc.at i []).head?
  let ptp := (s.clock.ptp.at i []).head?
  match r with
  | .timeNowLo => some (Word.ofNat s.nowLo)
  | .timeNowHi => some (Word.ofNat s.nowHi)
  | .timeStat => some (setField (s.rg .timeStat) 1 0 s.clock.pend)
  | .toLast => some (Word.ofNat (s.clock.timed.at i {}).lastLead)
  | .tcHeadLo => some (Word.ofNat ((tc.map (·.1)).getD 0))
  | .tcHeadHi => some (Word.ofNat ((tc.map (·.1)).getD 0 / 2 ^ 32))
  | .tcStat => some (setField (setField (s.rg .tcStat i) 4 0 (s.clock.tc.at i []).length) 5 5
      (b2n ((tc.map (·.2)).getD false)))
  | .ptpLo => some (Word.ofNat ((ptp.map (·.1)).getD 0))
  | .ptpHi => some (Word.ofNat ((ptp.map (·.1)).getD 0 / 2 ^ 32))
  | .ptpInfo => some (Word.ofNat (match ptp with
      | some (_, sent, msg, seq) => pack [(b2n sent, 0), (msg, 1), (seq, 16)]
      | none => 0))
  | .ptpPop => some (Word.ofNat (s.clock.ptp.at i []).length)
  | _ => none

end Sys2Proof.Machine
end

