-- ==== Sys2Proof/Machine/HostRing.lean ====
section
/-!
DEFINITION. Sys2Proof/Machine/HostRing.lean: the memory of function 1, the host completion ring, and how a mailbox command
begins and ends (R360, R361, R363, R364).
-/
namespace Sys2Proof.Machine

/-! ## Function 1 memory (Table 15.3) -/

abbrev hostRing : Nat := 0x0800
def slotBase (slot : Nat) : Nat := 0x1000 + slot * 0x400
def replyBase (slot : Nat) : Nat := 0x8000 + slot * 0x800

/-- Bytes of a command slot as a number (Table 15.4). -/
def State.slotNat (s : State) (slot off n : Nat) : Nat := natOf (Memory.load 0 s.sdio.ram (slotBase slot + off) n)

def State.slotOp (s : State) (slot : Nat) : Nat := s.slotNat slot 0 2
def State.slotLen (s : State) (slot : Nat) : Nat := s.slotNat slot 2 2
def State.slotCtx (s : State) (slot : Nat) : Nat := s.slotNat slot 0xC 4 % 1024

/-- A number in a command's payload. -/
def State.arg (s : State) (slot off n : Nat) : Nat := s.slotNat slot (0x10 + off) n

/-! ## The host completion ring (R364, R37) -/

/-- Writes a record at the host ring's write index. -/
def hostWrite (r : CRec) : Act Unit := do
  let s ← Act.get
  let x := s.sdio.ring
  Act.make (.ram (hostRing + x.wr % 64 * 32) (r.bytes 6 x.wr))
  Act.make (.sdio { s.sdio with ring := { x with wr := x.wr + 1 } })
  Act.regField .sdioIntStat 0 0 0 1

/-- A record of the host ring is written, or held with its slot busy behind a full ring. -/
def hostComplete (slot : Nat) (r : CRec) : Act Unit := do
  let s ← Act.get
  let x := s.sdio
  if x.ring.isFull 6 || !x.ring.held.isEmpty then
    Act.make (.sdio { x with ring := { x.ring with held := x.ring.held ++ [r] }, heldSlots := x.heldSlots ++ [slot] })
  else hostWrite r

/-- Writes one held record where the ring has room, and frees its slot. -/
def releaseHost : Act Unit := do
  let s ← Act.get
  let x := s.sdio
  match x.ring.held with
  | r :: rest =>
    if !x.ring.isFull 6 then
      Act.make (.sdio { x with ring := { x.ring with held := rest }, heldSlots := x.heldSlots.tail })
      hostWrite r
  | [] => nothing

/-- Writes held records until none is held or the ring is full. -/
def releaseAll : Nat → Act Unit
  | 0 => nothing
  | n + 1 => do
    releaseHost
    releaseAll n

/-! ## Running a command -/

/-- How a command ends: its code, the unit at fault, its reply, and what its fault record says of an address. -/
structure Reply where
  code : Nat := Code.ok
  block : Nat := Block.sdio
  data : List Byte := []
  atype : Nat := 3
  addr : Nat := 0
  syn : Nat := 0
  deriving DecidableEq, Repr

/-- A command ends with its reply in the slot's buffer and its record (R364). -/
def finish (slot : Nat) (r : Reply) : Act Unit := do
  let s ← Act.get
  let late : Bool := match s.sdio.cmds.find? (fun (m : MbCmd) => m.slot = slot) with
    | some m => m.deadline = some s.ns
    | none => false
  let code := if r.code = Code.ok && late then Code.okAtDeadline else r.code
  Act.make (.sdio { s.sdio with cmds := s.sdio.cmds.filter fun m => m.slot ≠ slot })
  if !r.data.isEmpty then Act.make (.ram (replyBase slot) r.data)
  let c := s.slotCtx slot
  let tag := Word.ofNat (s.slotNat slot 4 4)
  let mut idx := 0
  if Code.recorded code then
    let seq ← fault { code, block := r.block, ctx := if c = 0 then none else some c, atype := r.atype, addr := r.addr,
                      syn := r.syn, tag }
    idx := faultIndex seq
    if code = Code.faultEcc && r.atype = 0 then countUncorrectable r.addr seq
  let base := { s.record c code r.block 5 with tag }
  hostComplete slot (CRec.detailed base code r.addr idx (replyBase slot) r.data.length)

/-- Rhoson, or in recovery the boot ROM's service, works: in Run, not tripped (Table 18.3's note, R387). -/
def State.mailOn (s : State) : Bool :=
  s.power.state = .run && s.power.runOn.isNone && !s.boot.dead && !s.boot.off

/-- LEN is one that the payload of `op` has; none for an unknown OP (Table 15.5). -/
def lenFits (op len : Nat) : Bool :=
  match op with
  | 0x0001 => len ≤ 1008
  | 0x0002 => len = 0
  | 0x0010 => 12 ≤ len && len ≤ 1008 && len % 2 = 0
  | 0x0011 => len = 2
  | 0x0020 => len = 40
  | 0x0030 => len = 16
  | 0x0040 => len ≤ 1008
  | _ => false

/-- Whether a command's slot holds no reserved value (R361): its OP, its LEN, bits [31:10] of the context word, and the
Lock numbers of LOAD_PROG. -/
def State.formed (s : State) (slot : Nat) : Bool :=
  let op := s.slotOp slot
  let len := s.slotLen slot
  lenFits op len && s.slotNat slot 0xC 4 < 1024 &&
  (op ≠ 0x0010 || (List.range ((len - 12) / 2)).all fun i => s.arg slot (12 + 2 * i) 2 < 8192)

/-- In recovery only NOP, INFO and NOR_WRITE are accepted (R361, R387). -/
def State.accepts (s : State) (slot : Nat) : Bool :=
  !s.boot.recovery || [0x0001, 0x0002, 0x0030].contains (s.slotOp slot)

/-- The commands that run: the first four submitted that have not ended (R360). -/
def State.running (s : State) : List MbCmd := s.sdio.cmds.take 4

/-- A command's time has run out. -/
def MbCmd.late (m : MbCmd) (ns : Nat) : Bool := (m.deadline.map fun d => decide (d < ns)).getD false

/-- The OPs whose commit point is their start (Table 15.5). -/
def commitsAtStart (op : Nat) : Bool := [0x0001, 0x0002, 0x0011, 0x0020, 0x0040].contains op

/-- A command is past its commit point: LOAD_PROG and NOR_WRITE reach theirs within their rows. -/
def State.committed (s : State) (m : MbCmd) : Bool := m.begun && commitsAtStart (s.slotOp m.slot)

/-- The first four commands have started. -/
def begin4 (cmds : List MbCmd) : List MbCmd := (cmds.take 4).map (fun m => { m with begun := true }) ++ cmds.drop 4

/-- Commands start in order. One that no row runs ends at its start: with TIMEOUT where its time has run out, with UNALIGNED
where it is malformed, with FAULT_UNIT where recovery does not accept it. -/
def turnAway : Nat → Act Unit
  | 0 => nothing
  | n + 1 => do
    let s ← Act.get
    if s.mailOn then
      match s.running.find? fun (m : MbCmd) => (!m.begun && m.late s.ns) || !s.formed m.slot || !s.accepts m.slot with
      | some m =>
        if m.late s.ns then finish m.slot { code := Code.timeout }
        else if !s.formed m.slot then finish m.slot { code := Code.unaligned }
        else finish m.slot { code := Code.faultUnit }
        turnAway n
      | none => Act.make (.sdio { s.sdio with cmds := begin4 s.sdio.cmds })

/-- The steward core that Rhoson works on is lost: commands past their commit point end with FAULT_UNIT, the others run
again on the survivor (R462). -/
def failCommitted (block : Nat) : Act Unit := do
  let s ← Act.get
  for m in s.running do
    if s.committed m then finish m.slot { code := Code.faultUnit, block }
  turnAway 16

/-- Runs the command of a slot if it is one of OP `op` that has started: past its time and not past its commit point it
ends with TIMEOUT and no effect (R363), else with what `body` answers. -/
def mailbox (slot op : Nat) (body : Act Reply) : Act Unit := do
  let s ← Act.get
  match s.running.find? fun (m : MbCmd) => m.slot = slot with
  | none => nothing
  | some m =>
    if s.mailOn && s.slotOp slot = op && s.formed slot && s.accepts slot then
      if m.late s.ns && !s.committed m then finish slot { code := Code.timeout }
      else
        let r ← body
        finish slot r
      turnAway 16

end Sys2Proof.Machine
end

