-- ==== Sys2Proof/Machine/Scheduler.lean ====
section
/-!
DEFINITION. Sys2Proof/Machine/Scheduler.lean: which kernel the Collie dispatches, on which engines, and whom it heels
for it (R172, R176 to R178, R183); engines that fail (R189, R463).
-/
namespace Sys2Proof.Machine

/-! ## Ready kernels (R176, R183) -/

/-- Summed engine-cycles of a context (R176). -/
def Context.engineCycles (x : Context) : Nat := ((List.range 8).map fun e => x.accts.at e 0).sum

def Context.deadline (x : Context) : Nat := (x.jobs.head?.map (·.deadline)).getD (2 ^ 64 - 1)

/-- Context `c` comes before `d` for dispatch: class, DEADLINE, virtual time, ID. -/
def State.goesFirst (s : State) (c d : Nat) : Bool :=
  let x := s.ctx c
  let y := s.ctx d
  let vx := x.engineCycles * y.desc.weight
  let vy := y.engineCycles * x.desc.weight
  x.desc.cls < y.desc.cls || (x.desc.cls = y.desc.cls &&
    (x.deadline < y.deadline || (x.deadline = y.deadline && (vx < vy || (vx = vy && c ≤ d)))))

/-- Puts a context in its place among the ready ones. -/
def State.insertReady (s : State) (c : Nat) : List Nat → List Nat
  | [] => [c]
  | d :: t => if s.goesFirst c d then c :: d :: t else d :: s.insertReady c t

/-- The context's kernel is ready but for the pages of its parks: it is not ring-full (R37), and its next kernel has
not begun, or its heeled kernel is drained and its WAIT has an outcome. -/
def Context.mayDispatch (x : Context) : Bool :=
  x.desc.cls ≠ 0 && !x.ring.isFull x.desc.ringK && x.ring.held.isEmpty &&
  match x.kern with
  | none => x.st = .ready && !x.jobs.isEmpty
  | some k => k.phase = .again || (k.phase = .heeled && k.drained.all id && k.wait ≠ some 0xFF)

/-- Of a pair, the member that is not PRIMARY begins a job with 2 engines live only (R190). -/
def State.pairReady (s : State) (c : Nat) : Bool :=
  let x := s.ctx c
  x.desc.primary || !(x.jobs.head?.any (·.pair.isSome)) || x.inJob || 2 ≤ s.live.length

/-- The pages of every park of a heeled kernel are resident. -/
def parksResident (c : Nat) (k : Kernel) : Act Bool := do
  let mut ok := true
  for x in k.saved do
    match x.parkVa with
    | some va =>
      let s ← Act.get
      if ← stillParks k c va (s.writesTier k x) then ok := false
    | none => nothing
  return ok

/-- The contexts with a ready kernel, in the order of R176. -/
def readyContexts : Act (List Nat) := do
  let s ← Act.get
  let mut out : List Nat := []
  for (c, x) in s.ctxs do
    if x.mayDispatch && s.pairReady c then
      let resident ← match x.kern with
        | some k => if k.phase = .heeled then parksResident c k else pure true
        | none => pure true
      if resident then out := s.insertReady c out
  return out

/-! ## Engines (R177, R181, R412) -/

/-- The engine holds no kernel, fewer than three kennels drain from it, and it is not kept for another kernel. A
restore takes no engine with a drain pending (R183). -/
def State.engineFor (s : State) (c e : Nat) (restore : Bool) : Bool :=
  (s.engine e).ctx.isNone && (s.drains.at e []).length < (if restore then 1 else 3) &&
  (s.claims.find e).all (· = c)

/-- Pages of the context in an engine's Basin. -/
def State.basinPages (s : State) (c : Nat) : List Nat :=
  if !(s.ctx c).mapped then []
  else (s.leaves (s.ctx c).desc.ptRoot).filterMap fun l =>
    if leafOk l.2.2 && regionAt (tilePa l.2.2) = some .basin then some (tilePa l.2.2 / 0x400_0000) else none

/-- Engine `a` is taken before engine `b`. -/
def State.preferred (s : State) (pages : List Nat) (a b : Nat) : Bool :=
  let na := pages.count a
  let nb := pages.count b
  let on (e : Nat) : Bool := s.bitOf3 .pwrDom (2 + e)
  nb < na || (na = nb && ((on a && !on b) || (on a = on b && a ≤ b)))

def State.insertEngine (s : State) (pages : List Nat) (a : Nat) : List Nat → List Nat
  | [] => [a]
  | b :: t => if s.preferred pages a b then a :: b :: t else b :: s.insertEngine pages a t

/-- The engines a kernel of context `c` can have, the preferred ones first. -/
def State.available (s : State) (c : Nat) (restore : Bool) : List Nat :=
  (s.live.filter fun e => s.engineFor c e restore).foldr (s.insertEngine (s.basinPages c)) []

/-- The variant's bundles are in one half of the engine's store, which becomes the active one; a load goes to the idle
half (R103). -/
def Engine.resident (x : Engine) (l : Loaded) : Engine :=
  if x.storeA = some l then { x with half := false }
  else if x.storeB = some l then { x with half := true }
  else if x.half then { x with half := false, storeA := some l }
  else { x with half := true, storeB := some l }

/-- The program expected next is loaded into the idle half. -/
def Engine.expects (x : Engine) (l : Loaded) : Engine :=
  if x.storeA = some l || x.storeB = some l then x
  else if x.half then { x with storeA := some l }
  else { x with storeB := some l }

/-- The largest variant for `n` engines (R78). -/
def Program.spanFor (p : Program) (n : Nat) : Option Nat :=
  ((p.variants.map (·.span)).filter (· ≤ n)).max?

def Program.minSpan (p : Program) : Nat := ((p.variants.map (·.span)).min?).getD 0

def Program.maxSpan (p : Program) : Nat := ((p.variants.map (·.span)).max?).getD 0

/-- ENG_e_RELOC (Table 3.13). -/
def relocWord (es : List Nat) (j : Nat) : Word :=
  Word.ofNat (pack ([(j, 0), (es.length - 1, 3)] ++ es.zipIdx.map fun (e, i) => (e, 6 + 3 * i)))

/-- Engines granted beyond the variant's span: powered, and idle while the kernel holds them (R78, R177). -/
def holdSpare (c : Nat) (es : List Nat) : Act Unit := do
  let s ← Act.get
  for e in es do
    Act.setBit3 .pwrDom (2 + e) true
    Act.modEngine e fun x => { x with ctx := some c, heldFrom := some s.ns }

/-- The engines are the kernel's: powered, with its variant and their places in it. -/
def takeEngines (c prog : Nat) (es : List Nat) : Act Unit := do
  let s ← Act.get
  Act.make (.claims (s.claims.filter fun x => x.2 ≠ c))
  for (e, j) in es.zipIdx do
    Act.setBit3 .pwrDom (2 + e) true
    Act.modEngine e fun x => { x.resident { prog, span := es.length, logical := j } with ctx := some c, mode := .issuing }
    Act.reg .engReloc e (relocWord es j)
    Act.regField .engYield e 31 16 0

/-- The program of the kernel expected next on the engines of a context's kernel, as the kernel lists now stand: that of the
next kernel of its job, or of the first of its next job (log entry 211). -/
def nextProgram (c : Nat) : Act (Option Nat) := do
  let s ← Act.get
  let x := s.ctx c
  let next := match x.jobs with
    | [] => none
    | j :: rest => if x.nextKern + 1 < j.nkern then some (j, x.nextKern + 1) else rest.head?.map fun i => (i, 0)
  match next with
  | none => return none
  | some (j, n) =>
    match j.optimiser with
    | some h => return some h
    | none =>
      match ← walkLeaf c (j.klist + n * 16) with
      | .leaf l _ =>
        let t ← Act.get
        return some (t.peekNat (tilePa l + (j.klist + n * 16) % 65536) 2)
      | .fail _ => return none

/-- The kernel expected next is loaded behind the one that holds the engines. -/
def loadNext (c : Nat) (es : List Nat) : Act Unit := do
  match ← nextProgram c with
  | none => nothing
  | some h =>
    let s ← Act.get
    match (s.program h).bind fun p => p.spanFor es.length with
    | none => nothing
    | some n =>
      for (e, j) in es.zipIdx do
        if j < n then Act.modEngine e fun x => x.expects { prog := h, span := n, logical := j }

/-! ## Priority heels (R178) -/

/-- A kernel that can be heeled for one of class `cls`. -/
structure Victim where
  ctx : Nat
  cls : Nat
  engines : Nat
  deadline : Nat
  deriving DecidableEq, Repr

def State.victims (s : State) (cls : Nat) : List Victim :=
  s.ctxs.filterMap fun (c, x) =>
    match x.kern with
    | some k =>
      let claimed := k.granted.any fun e => (s.claims.find e).isSome
      if cls < x.desc.cls && (k.phase = .running || k.phase = .restoring) && k.heelAt.isNone && !claimed then
        some { ctx := c, cls := x.desc.cls, engines := k.granted.length, deadline := x.deadline }
      else none
    | none => none

/-- Victim `a` is taken before `b`, with `need` engines wanting: the higher class; then the fewer engines that still
cover the need, else the more; then the later DEADLINE. -/
def Victim.first (need : Nat) (a b : Victim) : Bool :=
  b.cls < a.cls || (a.cls = b.cls &&
    let ca := need ≤ a.engines
    let cb := need ≤ b.engines
    if ca != cb then ca
    else if a.engines ≠ b.engines then (if ca then a.engines < b.engines else b.engines < a.engines)
    else b.deadline < a.deadline || (a.deadline = b.deadline && a.ctx ≤ b.ctx))

/-- The first of the victims. -/
def Victim.pick (need : Nat) : List Victim → Option Victim
  | [] => none
  | v :: t => match Victim.pick need t with
    | none => some v
    | some w => some (if Victim.first need v w then v else w)

/-- Heels kernels for context `c` until `need` more engines are coming. -/
def heelFor (c : Nat) : Nat → Nat → List Victim → Act Unit
  | 0, _, _ => nothing
  | fuel + 1, need, vs =>
    if need = 0 then nothing
    else match Victim.pick need vs with
      | none => nothing
      | some v => do
        let s ← Act.get
        let es := ((s.ctx v.ctx).kern.map (·.granted)).getD []
        Act.make (.claims (es.foldl (fun m e => m.put e c) s.claims))
        heelKernel v.ctx
        heelFor c fuel (need - v.engines) (vs.filter (· ≠ v))

/-- A kernel of context `c` lacks engines: those it could have are kept for it, and it heels kernels of higher class numbers
(R176, R178). -/
def priorityHeel (c need : Nat) (have' : List Nat) : Act Unit := do
  let s ← Act.get
  let coming := s.claims.filter fun x => x.2 = c && !have'.contains x.1
  let vs := s.victims (s.ctx c).desc.cls
  Act.make (.claims (have'.foldl (fun m e => m.put e c) s.claims))
  heelFor c vs.length (need - have'.length - coming.length) vs

/-! ## Dispatch -/

/-- The first dispatch of a job attempt (R205). -/
def startAttempt (c : Nat) : Act Unit := do
  let s ← Act.get
  if !(s.ctx c).started then
    startLocks c
    Act.modCtx c fun x => { x with started := true }

/-- A kernel that completes without issuing (R78, R173, R177). -/
def refuseKernel (c prog : Nat) (f : Failure) : Act Unit := do
  startAttempt c
  Act.modCtx c fun x => { x with
    kern := some (x.kern.getD { prog, index := x.nextKern, span := 0, engines := [] }) }
  endKernel c f

/-- Before each attempt of a cascade context's kernel Rhoson writes its page: RANK, PARTS, MODULES and ATTEMPT (R400). -/
def writeRank (c : Nat) : Act Unit := do
  let s ← Act.get
  if (s.home c).isSome then
    let parts := (List.range 4).filter fun i => flag (s.casc.masks.at c 0) i && flag s.casc.live i
    let n := s.casc.attempts.at c 0
    Act.make (.casc { s.casc with attempts := s.casc.attempts.put c ((n + 1) % 2 ^ 32) })
    let _ ← writeVaNow { ctx := c, stop := Stop.steward 0 } (s.casc.pages.at c 0)
      (bytesOf 4 (parts.filter (· < s.casc.id)).length ++ bytesOf 4 parts.length ++
       bytesOf 4 (parts.map (2 ^ ·)).sum ++ bytesOf 4 n)

/-- A kernel begins on its engines from its first bundle. -/
def startKernel (c prog : Nat) (p : Program) (es spare : List Nat) : Act Unit := do
  writeRank c
  takeEngines c prog es
  holdSpare c spare
  let s ← Act.get
  let x := s.ctx c
  let k := x.kern.getD { prog, index := x.nextKern, span := es.length, engines := es }
  let tab := p.tablesFor es.length
  Act.modCtx c fun x => { x with
    st := .running
    kern := some { k with
      span := es.length, engines := es, spare, used := k.used ||| engineMask es, phase := .running, saved := [], drained := [],
      heelAt := none, wait := none, okAtDeadline := false, flights := [], weirWaits := [], opened := [] } }
  for (e, j) in es.zipIdx do
    Act.modEngine e fun y => { y with
      logical := j, span := es.length, masks := tab.masks ++ List.replicate (15 - tab.masks.length) 0
      streams0 := (List.range 8).map fun i => tab.consts.getD (2 * i + 1) 0 ++ tab.consts.getD (2 * i) 0
      seed := x.desc.seed ^^^ Word.ofNat (k.index * 0x9E37_79B9) }
  loadNext c es

/-- A heeled kernel comes back to `es`, each logical engine as it was saved. -/
def restoreKernel (c : Nat) (k : Kernel) (es : List Nat) : Act Unit := do
  let s ← Act.get
  takeEngines c k.prog es
  for (e, j) in es.zipIdx do
    let x := k.saved.getD j {}
    Act.modEngine e fun y => { x with
      half := y.half, storeA := y.storeA, storeB := y.storeB, mode := .issuing, parkVa := none, heldFrom := some s.ns }
  Act.modCtx c fun x => { x with
    st := .restoring
    kern := x.kern.map fun k => { k with phase := .restoring, engines := es, used := k.used ||| engineMask es } }
  loadNext c es

/-- A kernel entry (Table 7.4): its program and views. -/
structure KEntry where
  prog : Nat
  views : List Nat
  bad : Bool
  deriving DecidableEq, Repr

def KEntry.ofBytes (b : List Byte) : KEntry :=
  let n := natAt b 2 1 % 16
  let views := (List.range n).map fun v => natAt b (8 + v) 1
  { prog := natAt b 0 2, views, bad := 8 < n || views.any (63 < ·) }

/-- The grant of R177 and R178 to a kernel that begins: the engines it runs on and those beyond its variant, or none where it
waits. -/
def grantEngines (c : Nat) (p : Program) : Act (Option (List Nat × List Nat)) := do
  let s ← Act.get
  let es := s.available c false
  let n := min (s.ctx c).desc.kspan (min p.maxSpan es.length)
  if es.length < p.minSpan then
    priorityHeel c p.minSpan es
    return none
  else return (p.spanFor n).map fun v => (es.take v, (es.take n).drop v)

/-- The next kernel of a job: it begins, waits for engines or for its kernel list, or completes without issuing.
Answers whether anything came of it. -/
def dispatchNext (c : Nat) (j : Job) : Act Bool := do
  let s ← Act.get
  let x := s.ctx c
  let va := j.klist + x.nextKern * 16
  match x.bargeFault with
  | some (code, block, addr, idx) =>
    endJob c code block addr idx
    return true
  | none =>
    let got : Got ← match j.optimiser with
      | some h => pure (.bytes (bytesOf 2 h ++ List.replicate 14 0))
      | none => readVa { ctx := c, stop := Stop.collie } va 16
    match got with
    | .park => return false
    | .fail code block atype addr syn =>
      refuseKernel c 0 { code, block, atype, addr, syn }
      return true
    | .bytes b =>
      let y := KEntry.ofBytes b
      let t ← Act.get
      match t.program y.prog with
      | none =>
        refuseKernel c y.prog { code := Code.faultXlat, block := Block.col, atype := 1, addr := va }
        return true
      | some p =>
        if y.bad || x.desc.kspan < p.minSpan then
          refuseKernel c y.prog { code := Code.faultXlat, block := Block.col, atype := 1, addr := va }
          return true
        else if t.live.length < p.minSpan then
          refuseKernel c y.prog { code := Code.faultUnit, block := Block.col }
          return true
        else
          match ← grantEngines c p with
          | none => return false
          | some (es, spare) =>
            startAttempt c
            match ← snapshot c y.views with
            | none => refuseKernel c y.prog { code := Code.faultXlat, block := Block.xlat, atype := 1, addr := va }
            | some (views, pins) =>
              startKernel c y.prog p es spare
              Act.modKernel c fun k => { k with views, pins }
            return true

/-- A kernel whose split attempt failed runs again from its first bundle (R189). -/
def dispatchAgain (c : Nat) (k : Kernel) : Act Bool := do
  let s ← Act.get
  let p := s.kernProgram k
  if s.live.length < p.minSpan then
    endKernel c { code := Code.faultUnit, block := Block.col }
    return true
  else
    match ← grantEngines c p with
    | none => return false
    | some (es, spare) =>
      startKernel c k.prog p es spare
      return true

/-- A heeled kernel comes back when its span of engines is free (R98, R183), the swapped frames of its views before it
(R148). -/
def dispatchHeeled (c : Nat) (k : Kernel) : Act Bool := do
  let s ← Act.get
  let es := s.available c true
  if s.live.length < k.span then
    failKernel c { code := Code.faultUnit, block := Block.col }
    return true
  else if es.length < k.span then
    priorityHeel c k.span es
    return false
  else
    swapIn c k
    restoreKernel c k (es.take k.span)
    return true

/-- One context's turn. -/
def dispatchOf (c : Nat) : Act Bool := do
  let s ← Act.get
  let x := s.ctx c
  match x.kern, x.jobs.head? with
  | some k, _ => if k.phase = .again then dispatchAgain c k else dispatchHeeled c k
  | none, some j => dispatchNext c j
  | none, none => return false

/-- KERNEL_DISPATCH (R176): the first ready kernel that can have its engines is dispatched; those before it that cannot
heel others for them. Engines kept for a kernel that is ready no more are kept no longer. -/
def execKernelDispatch (s : State) : Host.Outcome State Fault Refusal :=
  Act.outcome (settled (do
    let t ← Act.get
    if !t.fabricEnded && t.dispatches then
      let ready ← readyContexts
      Act.make (.claims (t.claims.filter fun x => ready.contains x.2))
      let mut done := false
      for c in ready do
        if !done then done ← dispatchOf c)) s

/-! ## Engines that fail (R189, R463, R500) -/

/-- Whether a context's kernel is on the engine: it runs there, or lines of it still drain there. -/
def State.onEngine (s : State) (c e : Nat) : Bool :=
  (match (s.ctx c).kern with
    | some k => k.engines.contains e
    | none => false) || (s.drains.at e []).any (·.1 = c)

/-- An engine is retired: the Collie grants it to no kernel, and each kernel on it goes as R189 says. -/
def retireEngine (e code link : Nat) : Act Unit := do
  let s ← Act.get
  if !flag (s.rg .faultRetUnits) e then
    Act.regField .faultRetUnits 0 e e 1
    Act.regField .colEngLive 0 e e 0
    Act.setBit3 .pwrDom (2 + e) false
    let seq ← retireRecord code (Block.eng e) link
    for (c, _) in s.ctxs do
      if s.onEngine c e then losePart c true { code := Code.faultUnit, block := Block.eng e, link := seq }
      else Act.modKernel c fun k => { k with spare := k.spare.filter (· ≠ e) }
    Act.make (.drains e [])
    Act.modEngine e fun _ => { mode := .retired }
    checkUnits

/-- ENGINE_FAULT: a condition of Table 21.7 with its record, and the retirement it causes. -/
def execEngineFault (e : Fin 8) (cause : EngineCause) (s : State) : Host.Outcome State Fault Refusal :=
  Act.outcome (settled (do
    let t ← Act.get
    let n := e.val
    if !flag (t.rg .faultRetUnits) n then
      match cause with
      | .bundleStoreEcc =>
        let seq ← fault { code := Code.faultEcc, block := Block.eng n, ctx := (t.engine n).ctx }
        retireEngine n Code.faultEcc seq
      | .sparesExhausted =>
        let seq ← fault { code := Code.faultEcc, block := Block.eng n }
        retireEngine n Code.faultUnit seq
      | .controlParity | .noIssue => retireEngine n Code.faultUnit noLink)) s

end Sys2Proof.Machine
end

