-- ==== Sys2Proof/Machine/Integrity.lean ====
section
/-!
DEFINITION. Sys2Proof/Machine/Integrity.lean: link failures of the Towpath (R24, R25), in-service repair and retirement
(R461 to R467), the commands of the FAULT window (R460, R470), and the loads and stores of steward cores.
-/
namespace Sys2Proof.Machine

/-! ## The Towpath (R19 to R25) -/

/-- Failed retransmissions in a row towards stop `stop`. -/
def LinkSt.toward (l : LinkSt) (source stop : Nat) : Nat := if source < stop then l.failures else l.back

def LinkSt.setToward (l : LinkSt) (source stop n : Nat) : LinkSt :=
  if source < stop then { l with failures := n } else { l with back := n }

/-- FLIT_GROUP_RECEIVE: a group that fails its CRC-16 is discarded and sent again; the eighth failed retransmission in a
row retires the link (R24). A second retirement on an alternate route ends fabric work (R25). -/
def execFlitGroupReceive (stop source : Fin 40) (crcOk : Bool) (s : State) : Host.Outcome State Fault Refusal :=
  Act.outcome (settled (do
    let t ← Act.get
    let key := linkKey source.val stop.val
    let l := t.links.at key {}
    let failed := l.toward source.val stop.val
    if t.awake && neighbours source.val stop.val && !l.retired then
      if crcOk then
        if failed ≠ 0 then Act.make (.link key (l.setToward source.val stop.val 0))
      else if failed < 8 then Act.make (.link key (l.setToward source.val stop.val (failed + 1)))
      else
        Act.make (.link key { retired := true })
        Act.countSat .faultRetLink 0 5 0
        let crc ← Act.draw
        let seq ← fault { code := Code.faultLink, block := Block.stop stop.val, kind := 1,
                          syn := 9 + 65536 * ((Config.freeWord crc).toNat % 65536) }
        if cutsRoute key t.retiredLinks then endFabric (Block.stop stop.val) seq)) s

/-! ## Sparing and tile retirement (R465 to R467) -/

/-- One hour of device time, in ns. -/
abbrev hourNs : Nat := 3600 * 10 ^ 9

/-- Size of a row at `pa`, the memory that spares it, and how many spare rows that has (Table 21.8). -/
def spareGroup (pa : Nat) : Option (Nat × Nat) :=
  match regionAt pa with
  | some .basin => some (pa / 0x4_0000, 16)
  | some .weir => some (0x1_0000 + (pa - weirBase) / 64 % 8, 64)
  | some .slice => some (0x2_0000 + (pa - sliceBase) / 0x20_0000, 32)
  | _ => none

/-- ROW_SPARE: a row whose corrected errors of the last hour reach FAULT_THRESH.SRAM is copied into a spare row (R465);
its words come out corrected, but for those beyond correction (R466). Without a spare row the crossing is recorded, and
an engine whose cell has used up its rows is retired (Table 21.7). -/
def execRowSpare (pa : Nat) (s : State) : Host.Outcome State Fault Refusal :=
  Act.outcome (settled (do
    let t ← Act.get
    let row := rowOf pa
    match spareGroup row with
    | none => nothing
    | some (group, rows) =>
      let hits := (recent t.ns hourNs (t.faults.rows.at row [])).length
      let used := t.faults.spares.at group 0
      if t.rf .faultThresh 0 7 0 ≤ hits then
        let block := t.eccBlock row
        if used < rows then
          for (w, f) in t.flips do
            if rowOf w = row then
              let d : BitVec 64 := BitVec.ofNat 64 (natOf (t.peek w 8))
              match (Ecc.read d f).2.1 with
              | .corrected _ => Act.make (.flip w 0)
              | _ => nothing
          let u ← Act.get
          Act.make (.faults { u.faults with rows := u.faults.rows.drop row, spares := u.faults.spares.put group (used + 1) })
          Act.countSat .faultSpare 0 15 0
          let _ ← repairRecord block 0 used 0 row
        else
          Act.make (.faults { t.faults with rows := t.faults.rows.drop row })
          let seq ← fault { code := Code.faultEcc, block, atype := 0, addr := row }
          if regionAt row = some .basin then retireEngine (row / 0x400_0000) Code.faultUnit seq)) s

/-- PSRAM_TILE_RETIRE: a tile whose corrected errors of the last hour reach FAULT_THRESH.PSRAM. Its page moves to
`newTile`, or it leaves the free pool; a pinned tile stays in service (R467). The 64th tile retires the channel. -/
def execPsramTileRetire (tile newTile : Nat) (s : State) : Host.Outcome State Fault Refusal :=
  Act.outcome (settled (do
    let t ← Act.get
    let pa := psramBase + tile * 65536
    let new := psramBase + newTile * 65536
    let hits := (recent t.ns hourNs (t.faults.tiles.at tile [])).length
    if t.rf .faultThresh 0 15 8 ≤ hits && t.backed pa then
      let ch := t.channelOf tile
      let block := Block.channel ch
      Act.make (.faults { t.faults with tiles := t.faults.tiles.drop tile })
      if t.pinned pa then
        let _ ← repairRecord block 1 0xFFFF_FFFF 0 pa
      else
        let mapped := !(t.mappings pa).isEmpty
        let can := mapped && t.takesPage new && !t.moveWaits pa new
        let hit ← if can then moveMapped pa new else pure none
        let moved := can && hit.isNone
        let u ← Act.get
        Act.make (.xlat { u.xlat with retired := u.xlat.retired ++ [pa] })
        match hit with
        | some f => migrationRecord f
        | none => nothing
        Act.countSat .faultSpare 0 31 16
        let seq ← repairRecord block 1 (if moved then 8192 + newTile else 0xFFFF_FFFF) 0 pa
        let v ← Act.get
        let c := v.psram.at ch {}
        Act.make (.psram ch { c with tilesRetired := c.tilesRetired + 1 })
        if 64 ≤ c.tilesRetired + 1 then
          retireChannel ch Code.faultUnit seq
          checkUnits)) s

/-! ## Voted and duplicated logic (R461) -/

/-- Blocks whose control logic is triple-voted. -/
def votedBlock (b : Nat) : Bool :=
  [0x00, 0x01, 0x02, 0x03, 0x04, 0x05, 0x06, 0x09, 0x0C, 0x0D, 0x0E, 0x10, 0x14].contains b || (0x40 ≤ b && b < 0x68)

/-- VOTED_COPY_FAULT: the faulty copy is outvoted and written anew, and records KIND 2. A second fault in the block within
10 µs ends fabric work (L-07). A datapath copy of the Gridder or the voxel unit is retired. -/
def execVotedCopyFault (block : Nat) (s : State) : Host.Outcome State Fault Refusal :=
  Act.outcome (settled (do
    let t ← Act.get
    if block = Block.grid || block = Block.plan then
      let bit := if block = Block.grid then 8 else 9
      if !flag (t.rg .faultRetLink) bit then
        Act.regField .faultRetLink 0 bit bit 1
        let _ ← retireRecord Code.faultUnit block
    else if votedBlock block then
      let again : Bool := match t.faults.voted.find block with
        | some at' => t.ns < at' + 10000
        | none => false
      Act.make (.faults { t.faults with voted := t.faults.voted.put block t.ns })
      if again then endFabric block noLink
      else
        let _ ← repairRecord block 0 0 3 0)) s

/-! ## Stewards and NAND controllers -/

/-- A steward core is retired; S0 and S1 run Rhoson, whose commands the loss meets (R462). -/
def retireSteward (n code link : Nat) : Act Unit := do
  let s ← Act.get
  if !flag (s.rg .faultRetUnits) (20 + n) then
    Act.regField .faultRetUnits 0 (20 + n) (20 + n) 1
    Act.setBit3 .pwrDom (50 + n) false
    let _ ← retireRecord code (Block.steward n) link
    if n < 2 then failCommitted (Block.steward n)
    checkUnits

/-- STEWARD_WATCHDOG_MISS: no watchdog feed for 10 ms. -/
def execStewardWatchdogMiss (n : Fin 8) (s : State) : Host.Outcome State Fault Refusal :=
  Act.outcome (settled (do
    let t ← Act.get
    if t.runs then retireSteward n.val Code.faultUnit noLink)) s

/-- NAND_CONTROLLER_TIMEOUT: the third within 1 s retires the channel. -/
def execNandControllerTimeout (n : Fin 4) (s : State) : Host.Outcome State Fault Refusal :=
  Act.outcome (do
    let t ← Act.get
    if !flag (t.rg .faultRetUnits) (16 + n.val) then
      let ts := (t.ftl.timeouts.filter fun x => t.ns < x.2 + 10 ^ 9) ++ [(n.val, t.ns)]
      Act.make (.ftl { t.ftl with timeouts := ts })
      if 3 ≤ (ts.filter (·.1 = n.val)).length then retireNand n.val Code.faultUnit noLink) s

/-- STEWARD_MEMORY_ACCESS: a load or store of a steward core, translated in a context (R210, R234). An uncorrectable error
in the core's L2 tags retires the core. -/
def execStewardMemoryAccess (n : Fin 8) (c : Ctx) (va : Nat) (store : Option (List Byte)) (len : Nat) (l2TagError : Bool)
    (s : State) : Host.Outcome State Fault Refusal :=
  Act.outcome (settled (do
    let t ← Act.get
    if t.runs && !flag (t.rg .faultRetUnits) (20 + n.val) then
      if l2TagError then
        let seq ← fault { code := Code.faultEcc, block := Block.steward n.val }
        retireSteward n.val Code.faultEcc seq
      else
        Act.make (.xlat { t.xlat with acting := t.xlat.acting.put n.val (some (c % 1024)) })
        stewardAccess { core := n.val, ctx := c % 1024, va, store, len })) s

/-! ## FAULT registers (R460, R470) -/

/-- A write of FAULT_TAIL marks records read, never past NEXT. -/
def writeTail (index : Nat) : Act Nat := do
  let s ← Act.get
  let f := s.faults
  let d := (index + 256 - f.tail) % 256
  let next := f.seq % 256
  if f.unread = 256 && index = next then
    Act.make (.faults { f with tail := next, unread := 0 })
  else if f.unread < d then Act.make (.faults { f with tail := next, unread := 0 })
  else Act.make (.faults { f with tail := index, unread := f.unread - d })
  return Code.ok

/-- FAULT_TAIL. -/
def execFaultTail (who : Who) (index : Byte) (s : State) : Host.Outcome State Fault Refusal :=
  Act.outcome (command who .faultTail 0 (writeTail index.toNat)) s

/-- The word FAULT_INJ_ADDR names. -/
def State.injectAt (s : State) : Nat := ((s.rg .faultInjLo).toNat + (s.rg .faultInjHi).toNat * 2 ^ 32) / 8 * 8

/-- A write of FAULT_INJ: the next write of the target word stores bit BIT, or bits BIT and BIT + 1, inverted. A target
outside Basin, Weir SRAM, slice SRAM and the PSRAM tier is refused. -/
def writeInject (op bit : Nat) : Act Nat := do
  let s ← Act.get
  let pa := s.injectAt
  match regionAt pa with
  | some .basin | some .weir | some .slice | some .psram =>
    if op = 1 || op = 2 then
      let f : BitVec 72 := BitVec.ofNat 72 (2 ^ bit + if op = 2 then 2 ^ (bit + 1) else 0)
      Act.make (.faults { s.faults with inject := some (pa, f) })
    return Code.ok
  | _ => return Code.faultXlat

/-- FAULT_INJECT_SINGLE. -/
def execFaultInjectSingle (who : Who) (bit : Nat) (s : State) : Host.Outcome State Fault Refusal :=
  Act.outcome (command who .faultInj 0 (writeInject 1 (bit % 128))) s

/-- FAULT_INJECT_DOUBLE. -/
def execFaultInjectDouble (who : Who) (bit : Nat) (s : State) : Host.Outcome State Fault Refusal :=
  Act.outcome (command who .faultInj 0 (writeInject 2 (bit % 128))) s

/-- What the computed registers of FAULT read. -/
def State.faultReads (s : State) (r : Reg) (i j : Nat) : Option Word :=
  let f := s.faults
  match r with
  | .faultHead => some (Word.ofNat (f.seq % 256))
  | .faultSeq => some (Word.ofNat f.seq)
  | .faultTail => some (Word.ofNat f.tail)
  | .faultUnread => some (Word.ofNat f.unread)
  | .faultRec => some ((f.records.at i []).getD j 0)
  | _ => none

end Sys2Proof.Machine
end

