-- ==== Sys2Proof/Machine/Thermal.lean ====
section
/-!
DEFINITION. Sys2Proof/Machine/Thermal.lean: measurement and the governor (R423, R426, R427), droop (R428), the thermal
sensors and caps (R430, R431, R435), clock steps (R45), and the machine budget (R424).
-/
namespace Sys2Proof.Machine

/-! ## Clock steps (R45, R180, R427) -/

/-- ENGINE_STEP_CHANGE: the clock goes one step of 50 MHz towards the step asked for (R45, R180). -/
def execEngineStepChange (e : Fin 8) (s : State) : Host.Outcome State Fault Refusal :=
  Act.outcome (do
    let t ← Act.get
    let n := t.rf .engFclk e.val 4 0
    let m := if n < t.target e.val then n + 1 else if t.target e.val < n then n - 1 else n
    Act.regField .engFclk e.val 4 0 m
    Act.regField .engFclk e.val 16 16 (b2n (m ≠ t.target e.val))) s

/-! ## The governor (R426) -/

/-- Whether engine `a` comes before `b`: by the slack of the context it holds, least first, then by class, then by number;
an engine without a context comes last. -/
def State.urgent (s : State) (a b : Nat) : Bool :=
  match (s.engine a).ctx, (s.engine b).ctx with
  | some c, some d =>
    let x := s.ctx c
    let y := s.ctx d
    x.deadline < y.deadline || (x.deadline = y.deadline && (x.desc.cls < y.desc.cls || (x.desc.cls = y.desc.cls && a ≤ b)))
  | some _, none => true
  | none, some _ => false
  | none, none => a ≤ b

def State.insertUrgent (s : State) (a : Nat) : List Nat → List Nat
  | [] => [a]
  | b :: t => if s.urgent a b then a :: b :: t else b :: s.insertUrgent a t

/-- Live engines in the governor's order. -/
def State.governed (s : State) : List Nat := s.live.foldr s.insertUrgent []

/-- The target in mW: the share, or MODMAX where that is less. -/
def State.powerTarget (s : State) : Nat := 1000 * min (s.rf .pwrShare 0 11 0) (s.rf .pwrModmax 0 8 0)

/-- Lowers an engine by at most `n` steps and counts them. -/
def lowerEngine (e n : Nat) : Act Unit := do
  let s ← Act.get
  let was := s.target e
  setTarget e (was - n)
  let t ← Act.get
  Act.countSat .pwrGov 0 15 0 (was - t.target e)

/-- One pass of the governor over a sample of `p` mW. -/
def governor (p : Nat) : Act Unit := do
  let s ← Act.get
  let t := s.powerTarget
  let order := s.governed
  if 11 * t < 10 * p then
    for e in order do lowerEngine e 4
    Act.countSat .pwrGov 0 31 16
  else if t < p then
    let mut left : Nat := p - t
    for e in order.reverse do
      if 0 < left && 0 < s.target e then
        lowerEngine e 1
        left := left - Config.stepPower e (s.target e)
  else if p < t - s.therm.hyst * 1000 then
    let mut room : Nat := t - s.therm.hyst * 1000 - p
    for e in order do
      if 0 < room && (s.engine e).ctx.isSome && s.target e < s.cap e then
        setTarget e (s.target e + 1)
        room := room - Config.stepPower e (s.target e)

/-- REGULATOR_SAMPLE: the sample is held and the governor acts on it (R423, R426). -/
def execRegulatorSample (deciwatts millivolts milliamps : Nat) (s : State) : Host.Outcome State Fault Refusal :=
  Act.outcome (do
    let t ← Act.get
    if t.power.state ≠ .off then
      Act.reg .pwrMeas 0 (Word.ofNat (min 65535 deciwatts))
      Act.reg .pwrVin 0 (Word.ofNat (min 65535 millivolts))
      Act.reg .pwrIin 0 (Word.ofNat (min 65535 milliamps))
      if t.runs then governor (deciwatts * 100)) s

/-! ## Droop (R428) -/

/-- A forced step: one down, but not below step 8 while a heel holds the engine. -/
def forceStep (e : Nat) : Act Unit := do
  let s ← Act.get
  let n := s.target e
  if (if s.raised e then 8 else 0) < n then
    setTarget e (n - 1)
    Act.countSat .engDroop e 31 16

/-- DROOP_DETECT: stretching begins. -/
def execDroopDetect (e : Fin 8) (s : State) : Host.Outcome State Fault Refusal :=
  Act.outcome (do
    let t ← Act.get
    if t.runs && t.live.contains e.val && !t.therm.stretching.at e.val false then
      Act.make (.therm { t.therm with stretching := t.therm.stretching.put e.val true })
      Act.countSat .engDroop e.val 15 0) s

/-- 4,096 cycles of an engine, in ns. -/
def State.droopWindow (s : State) (e : Nat) : Nat := 4096 * 1000 / (400 + 50 * s.rf .engFclk e 4 0)

/-- STRETCH_END: stretching ends; 256 stretched cycles within 4,096 force a step. -/
def execStretchEnd (e : Fin 8) (stretched : Nat) (s : State) : Host.Outcome State Fault Refusal :=
  Act.outcome (do
    let t ← Act.get
    let n := e.val
    if t.therm.stretching.at n false then
      let old := (t.therm.stretched.at n []).filter fun x => t.ns < x.1 + t.droopWindow n
      let total := (old.map (·.2)).sum + stretched
      let kept := if total < 256 then old ++ [(t.ns, stretched)] else [(t.ns, total % 256)]
      Act.make (.therm { t.therm with
        stretching := t.therm.stretching.put n false, stretched := t.therm.stretched.put n kept })
      for _ in List.range (min 20 (total / 256)) do forceStep n) s

/-! ## Sensors (R430, R431, R435) -/

/-- THERM runs: in Run and Idle, recovery included. -/
def State.thermOn (s : State) : Bool := (s.power.state = .run || s.power.state = .idle) && !s.boot.dead && !s.boot.off

/-- A sensor's reading in 0.01 °C. -/
def State.sensor (s : State) (i : Nat) : Int := s.therm.sensors.at i 0

def State.anyAbove (s : State) (first n : Nat) : Bool := (List.range n).any fun i => 10000 ≤ s.sensor (first + i)

def State.allBelow (s : State) (first n : Nat) : Bool := (List.range n).all fun i => s.sensor (first + i) < 9700

/-- Stores an engine's cap; its clock follows it down. -/
def setCap (e n : Nat) : Act Unit := do
  Act.regField .thermCap (e / 6) (5 * (e % 6) + 4) (5 * (e % 6)) n
  Act.regField .thermStat 0 e e (b2n (n < 20))
  let s ← Act.get
  if n < s.target e then setTarget e n

/-- A signed reading in 16 bits. -/
def centi (x : Int) : Nat := (BitVec.ofInt 16 x).toNat

/-- The hottest junction sensor, the first of equals. -/
def State.hottest (s : State) : Nat := (List.range 48).foldl (fun b i => if s.sensor b < s.sensor i then i else b) 0

/-- The flow estimate in mL/min at `p` tenths of a watt, with the outlet `d` hundredths of a kelvin above the inlet; none
where the outlet is no warmer, for which R435 states no value. -/
def flowEstimate (p : Nat) (d : Int) : Option Nat :=
  if 0 < d then some (p * 600000 / (3745 * d.toNat)) else none

/-- THERMAL_SAMPLE: all sensors are read; caps fall, WARN and the steward clock follow, and the flow is estimated. -/
def execThermalSample (centi' : List Int) (s : State) : Host.Outcome State Fault Refusal :=
  Act.outcome (do
    let t0 ← Act.get
    if t0.thermOn then
      let read := (centi'.take 51).zipIdx.foldl (fun (m : Sparse Int) x => m.put x.2 x.1) t0.therm.sensors
      Act.make (.therm { t0.therm with sensors := read })
      let t ← Act.get
      for e in List.range 8 do
        if t.anyAbove (4 * e) 4 && 0 < t.cap e then
          setCap e (t.cap e - 1)
          Act.countSat .thermThrot 0 31 0
      if t.anyAbove 40 4 then Act.regField .thermStat 0 8 8 1
      else if t.allBelow 40 4 then Act.regField .thermStat 0 8 8 0
      Act.regField .thermStat 0 9 9 (b2n (t.anyAbove 0 48))
      Act.reg .thermHot 0 (Word.ofNat (pack [(centi (t.sensor t.hottest), 0), (t.hottest, 16)]))
      Act.reg .thermCool 0 (Word.ofNat (pack [(centi (t.sensor 48), 0), (centi (t.sensor 49), 16)]))
      let p := t.rf .pwrMeas 0 15 0
      if 1000 ≤ p then
        let flow ← match flowEstimate p (t.sensor 49 - t.sensor 48) with
          | some f => pure f
          | none => do
            let d ← Act.draw
            pure (Config.freeWord d).toNat
        Act.reg .thermFlow 0 (Word.ofNat (min 65535 flow))
        if flow < 1000 then Act.regField .thermStat 0 11 11 1
      else Act.reg .thermFlow 0 0
      if t.sensor 48 < -3000 || 6000 < t.sensor 48 then Act.regField .thermStat 0 12 12 1) s

/-- CAP_RISE: once every sensor of the engine reads below 97 °C its cap rises a step each millisecond. -/
def execCapRise (e : Fin 8) (s : State) : Host.Outcome State Fault Refusal :=
  Act.outcome (do
    let t ← Act.get
    if t.thermOn && t.allBelow (4 * e.val) 4 && t.cap e.val < 20 then setCap e.val (t.cap e.val + 1)) s

/-- What THERM_READ reads. -/
def State.thermReads (s : State) (r : Reg) : Option Word :=
  match r with
  | .thermRead => some (Word.ofNat (centi (s.sensor (s.rf .thermSel 0 5 0))))
  | _ => none

/-! ## The budget (R395, R424) -/

/-- The master, or a module that runs alone, takes a budget of 40 to 1,800 W for the next share. -/
def writeBudget (value : Word) : Act Nat := do
  let s ← Act.get
  let w := field value 11 0
  if (s.casc.role = 0 || s.casc.role = 1) && 40 ≤ w && w ≤ 1800 then
    Act.reg .pwrBudget 0 (Word.ofNat w)
    return Code.ok
  else return Code.faultXlat

/-- BUDGET_WRITE. -/
def execBudgetWrite (who : Who) (value : Word) (s : State) : Host.Outcome State Fault Refusal :=
  Act.outcome (command who .pwrBudget 0 (writeBudget value)) s

end Sys2Proof.Machine
end

