-- ==== Sys2Proof/Machine/Power.lean ====
section
/-!
DEFINITION. Sys2Proof/Machine/Power.lean: power states, their entry, refusal, abort and exit (R407 to R420), gating of
domains (R411), the thermal trips (R432, R433), and the supply (R462, R489).
-/
namespace Sys2Proof.Machine

/-- Numbers of the states in PWR_REQ and the log (Table 18.7). -/
def PState.code : PState → Nat
  | .run => 0
  | .idle => 1
  | .sleep => 2
  | .deep => 3
  | .off => 4

/-- What a request is turned away by: a block, or a context (Table 18.4). -/
inductive Refuser where
  | block (b : Nat)
  | context (c : Nat)
  deriving DecidableEq, Repr

/-- A log entry, and PWR_REFUSED of the target state rises (R414, R416, Table 18.7). -/
def logRefusal (target : PState) (abort : Bool) (by' : Refuser) : Act Unit := do
  let s ← Act.get
  Act.countSat .pwrRefused (target.code - 1) 31 0
  let n := s.rf .pwrLogHead 0 3 0
  let (kind, id) : Nat × Nat := match by' with
    | .block b => (0, b)
    | .context c => (1, c)
  Act.reg .pwrLog n (Word.ofNat (pack [(target.code, 0), (b2n abort, 3), (kind, 4), (id, 5)]))
  Act.reg .pwrLogTime n (Word.ofNat s.nowLo)
  Act.reg .pwrLogHead 0 (Word.ofNat (pack [((n + 1) % 16, 0), ((s.rf .pwrLogHead 0 31 16 + 1) % 65536, 16)]))

/-! ## Refusal (R414) -/

/-- A kernel holds engines. -/
def Kernel.dispatched (k : Kernel) : Bool := k.phase = .running || k.phase = .restoring

/-- A kernel is dispatched or restoring, or a drain is pending. -/
def State.collieBusy (s : State) : Bool :=
  (s.ctxs.any fun x => (x.2.kern.map Kernel.dispatched).getD false) || s.drains.any fun d => !d.2.isEmpty

/-- The quarter of PWR_RETAIN an address of Basin lies in. -/
def quarterOf (pa : Nat) : Nat := pa / 0x100_0000

/-- A pinned Basin tile lies in a quarter that Deep sleep does not keep. -/
def State.pinnedOutside (s : State) : Bool :=
  s.xlat.pins.any fun p => p.2 && p.1 < 8192 && !flag (s.rg .pwrRetain) (quarterOf (tileBase p.1))

/-- The first condition of Table 18.4 that holds; `busy` is the set of steward cores that do not wait. -/
def State.refuser (s : State) (target : PState) (busy : BitVec 8) : Option Refuser :=
  let resting := target = .sleep || target = .deep
  if s.power.entering.isSome then some (.block Block.pwr)
  else if target ≠ .off && s.rg .pwrWakeCause ≠ 0 then some (.block Block.pwr)
  else if target ≠ .idle && s.reflex.leashes.any fun l => l.2.mode ≠ 0 then some (.block Block.refx)
  else if resting && s.casc.role ≠ 0 then some (.block Block.tow)
  else if resting && s.ctxs.any fun x => 1 ≤ x.2.desc.cls && x.2.desc.cls ≤ 4 && !x.2.jobs.isEmpty then
    (s.ctxs.find? fun x => 1 ≤ x.2.desc.cls && x.2.desc.cls ≤ 4 && !x.2.jobs.isEmpty).map fun x => .context x.1
  else if target = .idle && s.collieBusy then some (.block Block.col)
  else if target = .idle && busy ≠ 0 then
    (firstBelow 8 (flag busy)).map fun n => .block (Block.steward n)
  else if resting && s.grid.running.isSome then some (.block Block.grid)
  else if resting && (!s.plan.requests.isEmpty || s.plan.openEpoch.isSome) then some (.block Block.plan)
  else if target = .deep && (List.range 16).any fun n => s.rf .toCfg n 1 0 ≠ 0 then some (.block Block.time)
  else if target = .deep && s.pinnedOutside then some (.block Block.xlat)
  else none

/-! ## Domains (R411) -/

/-- Whether Table 18.2 has a domain off in a state that an entry leads to. -/
def State.domainOff (s : State) (st : PState) (n : Nat) : Bool :=
  match st with
  | .run | .idle => false
  | .sleep => (2 ≤ n && n ≤ 9) || (42 ≤ n && n ≤ 49) || (75 ≤ n && n ≤ 80) || (88 ≤ n && n ≤ 93)
  | .deep => (2 ≤ n && n ≤ 9) || (10 ≤ n && n ≤ 41 && !flag (s.rg .pwrRetain) (n - 10)) || (42 ≤ n && n ≤ 66) || 75 ≤ n
  | .off => n ≠ 0

/-- The domains are set as Table 18.2 has them in a state. -/
def setDomains (st : PState) : Act Unit := do
  let s ← Act.get
  for n in List.range 96 do
    if s.domainOff st n then Act.setBit3 .pwrDom n false

/-- A domain is gated after PWR_GATE.IDLE_US without use; enabled ports keep theirs on (R412). -/
def State.mayGate (s : State) (d : Nat) : Bool :=
  if 2 ≤ d ∧ d ≤ 9 then s.power.state = .run && (s.engine (d - 2)).ctx.isNone && (s.drains.at (d - 2) []).isEmpty
  else if d = 75 ∨ d = 76 then true
  else if 78 ≤ d ∧ d ≤ 80 then s.casc.role = 0
  else if d = 88 ∨ d = 89 then (List.range 6).all fun k => !flag (s.rg .csiCfg ((d - 88) * 6 + k)) 0
  else if d = 90 ∨ d = 91 then (List.range 4).all fun k => !flag (s.rg .ethIng ((d - 90) * 4 + k)) 0
  else false

/-- DOMAIN_GATE. -/
def execDomainGate (d : Fin 96) (s : State) : Host.Outcome State Fault Refusal :=
  Act.outcome (do
    let t ← Act.get
    if t.awake && t.rf .pwrGate 0 15 0 ≠ 0 && t.mayGate d.val then Act.setBit3 .pwrDom d.val false) s

/-! ## Exit (R409, R410, R418, R420) -/

/-- Fills `n` bytes at `pa` with what a memory holds that has lost its contents. -/
def loseBytes (pa n : Nat) : Act Unit := do
  let d ← Act.draw
  zeroPhys pa n
  writePhys pa ((Config.lostBytes d).take n)

/-- The bound of an exit, in µs. -/
def PState.exitBound : PState → Nat
  | .idle => 2
  | .sleep => 250
  | .deep => 20000
  | _ => 0

/-- The slow clock's ticks in ns, rounded down (R420). -/
def tickNs (ticks : Nat) : Nat := ticks * 30517578125 / 10 ^ 6

/-- The reflex slots that passed in the state. -/
def advanceSlots : Act Unit := do
  let s ← Act.get
  let n := (s.ns - s.power.entryNs) / 1000
  let ahead := if s.reflex.nextBoundary ≤ s.ns then (s.ns - s.reflex.nextBoundary) / 1000 + 1 else 0
  Act.make (.reflex { s.reflex with
    slot := (s.reflex.slot + n) % 2 ^ 64, nextBoundary := s.reflex.nextBoundary + 1000 * ahead })

/-- An exit from Deep sleep: time from the slow clock, Basin zeros, empty Weir queues, and a host link to be tuned again. -/
def deepExit (ticks : Nat) : Act Unit := do
  let s ← Act.get
  reach (s.power.entryNs + tickNs ticks)
  let t ← Act.get
  Act.make (.clock { t.clock with era := (t.clock.era + t.clock.pend) % 2 ^ 32, pend := 0 })
  let u ← Act.get
  stepTime ((u.power.entryTime + tickNs ticks : Nat) - (u.fullTime : Int))
  for q in List.range 32 do
    if !flag (s.rg .pwrRetain) q then zeroPhys (q * 0x100_0000) 0x100_0000
  loseBytes weirBase 0x100_0000
  for q in List.range 64 do
    if s.qOn q then
      let cm := s.rg .weirQCm q
      Act.reg .weirQRl q cm
      Act.reg .weirQMk q cm
      Act.reg .weirQRd q cm
      Act.modQueue q fun x => { x with packets := [] }
      watermarkNow q
  let v ← Act.get
  Act.make (.sdio { v.sdio with tuned := false })

/-- The exit to Run, in the wake order: mailbox commands held till now start. Its duration is the silicon's, within its
bound. -/
def exitState (ticks : Nat) : Act Unit := do
  let s ← Act.get
  let st := s.power.state
  let d ← Act.draw
  let us := (Config.freeWord d).toNat % (st.exitBound + 1)
  passNs (us * 1000)
  Act.make (.power { s.power with
    state := .run, entering := none, wake := false, rails := true, alarm := none, doms := [] })
  if st = .deep then deepExit ticks
  if st = .sleep || st = .deep then
    advanceSlots
    for t in [0, 1] do loadCode t
  for (w, i) in s.power.doms.zipIdx do Act.reg .pwrDom i w
  Act.reg .pwrExitUs 0 (Word.ofNat us)
  turnAway 16

/-! ## Entry (R415, R417, R419) -/

/-- The earliest of the timeouts, deadlines and edges that are pending, in elapsed ns (R417). -/
def State.earliest (s : State) : Option Nat :=
  let ofFull (t : Nat) : Option Nat := if s.fullTime ≤ t ∧ t < 2 ^ 64 - 1 then some (s.ns + (t - s.fullTime)) else none
  let waits := s.waits.filterMap (·.deadline)
  let queued := s.chanQueues.flatMap fun q => q.2.filterMap (·.deadline)
  let flying := s.flying.filterMap fun b => b.2.deadline
  let rtmo := s.ctxs.flatMap fun x => (x.2.kern.map fun k => k.weirWaits.filterMap (·.deadline)).getD []
  let jobs := s.ctxs.flatMap fun x => x.2.jobs.filterMap fun j => ofFull j.deadline
  let edges := s.clock.timed.flatMap fun o => (o.2.next.bind fun p => ofFull p.2).toList ++ (o.2.trail.map (· / nsUnit)).toList
  (waits ++ queued ++ flying ++ rtmo ++ jobs ++ edges).min?

/-- An abort: the device is in Run again (R416). -/
def abortEntry (block : Nat) : Act Unit := do
  let s ← Act.get
  match s.power.entering with
  | none => nothing
  | some target =>
    Act.make (.power { s.power with entering := none, wake := false })
    logRefusal target true (.block block)

/-- The mapped Basin tiles outside the selected quarters. -/
def State.strayTiles (s : State) : List Nat :=
  s.mappedTiles.filter fun pa => regionAt pa = some .basin && !flag (s.rg .pwrRetain) (quarterOf pa)

/-- A tile that a pin or a leaf's PINNED holds in place (R221). -/
def State.fixed (s : State) (pa : Nat) : Bool :=
  s.pinned pa || (s.mappings pa).any fun m => flag (BitVec.ofNat 64 m.2 : BitVec 64) 2

/-- How the clearing of the quarters ends: every page has moved, one waits for its barge, or one has failed. -/
inductive Cleared where
  | done
  | waits
  | failed (block : Nat)
  deriving DecidableEq, Repr

/-- One page leaves its quarter for a free PSRAM tile. A page that may not move, or has no tile to go to, is a migration that
fails in XLAT (log entry 160). -/
def clearTile (pa : Nat) : Act Cleared := do
  let s ← Act.get
  let d ← Act.draw
  match freePsramTile s d with
  | none => return .failed Block.xlat
  | some n =>
    if s.fixed pa then return .failed Block.xlat
    else if s.moveWaits pa n then return .waits
    else
      match ← moveMapped pa n with
      | some f =>
        migrationRecord f
        return .failed f.block
      | none => return .done

/-- Every Basin page outside the selected quarters moves to a free PSRAM tile. -/
def clearTiles : List Nat → Act Cleared
  | [] => pure .done
  | pa :: rest => do
    match ← clearTile pa with
    | .done => clearTiles rest
    | other => return other

/-- Step 4 of R415. -/
def clearQuarters : Act Cleared := do
  let s ← Act.get
  clearTiles s.strayTiles

/-- Ingress stops: packets that have not been committed are abandoned (R415 step 3). -/
def stopIngress : Act Unit := do
  let s ← Act.get
  for (n, x) in s.ports.uart do
    let q := s.rf .uartIng n 15 10
    if x.held then
      let occ := s.qOcc q
      Act.reg .weirQWr q (Word.ofNat x.start)
      abandonPacket q occ
  let t ← Act.get
  Act.make (.ports { t.ports with uart := [], spiBusy := [] })

/-- The settings, and for Deep sleep the state of the core, go into the save area. Answers whether they could. -/
def writeSaveArea : Act Bool := do
  let s ← Act.get
  let pa := tileBase (s.rf .pwrSave 0 18 0)
  let n := 32 * 65536
  if regionAt pa = some .psram && s.backed pa && s.backed (pa + n - 1) then
    let d ← Act.draw
    writePhys pa ((Config.saveImage d).take n)
    return true
  else return false

/-- Rebuilds start over at exit, from the spare's domain, and slice SRAM is lost (R477). -/
def loseSlices : Act Unit := do
  for t in [0, 1] do
    Act.modTriad t fun r => { r with rebuild := r.rebuild.map fun p => (.wake, p.2) }
  for x in List.range 8 do loseBytes (slicePa x 0) 0x20_0000

/-- The last steps of an entry: the device is in the state, and leaves it at once where a wake event has come. A page that
waits for its barge keeps the entry open. -/
def finishEntry (target : PState) : Act Unit := do
  stopIngress
  match ← if target = .deep then clearQuarters else pure .done with
  | .waits => nothing
  | .failed b => abortEntry b
  | .done =>
    if !(← writeSaveArea) then abortEntry Block.xlat
    else
      loseSlices
      let s ← Act.get
      Act.make (.power { s.power with
        state := target, entering := none, rails := target ≠ .deep, entryTime := s.fullTime, entryNs := s.ns,
        doms := (List.range 3).map fun i => s.rg .pwrDom i,
        alarm := s.earliest.map (· - target.exitBound * 1000) })
      setDomains target
      if s.power.wake then exitState 0

/-- An entry in progress goes on to its end once nothing is left to heel, drain or complete. -/
def advanceEntry : Act Unit := do
  let s ← Act.get
  match s.power.entering with
  | none => nothing
  | some target =>
    let moving := s.flying.any fun b => !b.2.waiting
    if !s.collieBusy && !moving then finishEntry target

/-- An accepted entry: Idle at once; Sleep and Deep sleep stop dispatch and heel every kernel first. -/
def acceptEntry (target : PState) : Act Unit := do
  let s ← Act.get
  if target = .idle then
    Act.make (.power { s.power with state := .idle, entryTime := s.fullTime, entryNs := s.ns, doms := [] })
  else
    Act.make (.power { s.power with entering := some target, wake := false, entryLimit := s.ns + 2 * 10 ^ 6 })
    for (c, _) in s.ctxs do heelKernel c
    advanceEntry

/-- Off: every unit stops, nothing is kept but the boot NOR, and CASC_ALIVE is deasserted (R415). -/
def enterOff : Act Unit := do
  let s ← Act.get
  Act.make .fresh
  let t ← Act.get
  Act.make (.power { t.power with
    state := .off, rails := false, vinGood := s.power.vinGood, thermtrip := s.power.thermtrip })
  Act.make (.boot { t.boot with off := true, dead := s.boot.dead })
  Act.make (.casc { t.casc with alive := false })
  Act.make (.sdio { t.sdio with ready := false })
  setDomains .off

/-! ## Requests (R408, R414) -/

/-- A request for Idle, Sleep or Deep sleep; a state as deep as the present one changes nothing. `busy` is the set of steward
cores that do not wait for an interrupt. -/
def requestState (target : PState) (busy : BitVec 8) : Act Nat := do
  let s ← Act.get
  if target.code ≤ s.power.state.code then return Code.ok
  else
    match s.refuser target busy with
    | some r => logRefusal target false r
    | none => acceptEntry target
    return Code.ok

/-- A wake event is latched if it is enabled; answers whether it was (R413). -/
def latchWake (source : Nat) : Act Bool := do
  let s ← Act.get
  if source = 0 || flag (s.rg .pwrWakeEn) source then
    Act.regField .pwrWakeCause 0 source source 1
    return true
  else return false

/-- Sources that wake the device in a state (Table 18.3). -/
def PState.wakeMask : PState → Word
  | .run => 0
  | .idle => 0x1FF
  | .sleep => 0x7F
  | .deep => 0xF
  | .off => 0x1

/-- A wake event: an entry in progress completes first (R419); in Off it is a start that is due. -/
def wake (source ticks : Nat) : Act Unit := do
  let s ← Act.get
  if s.boot.dead then return ()
  if s.power.state = .off then
    if source = 0 && s.power.vinGood then Act.make (.boot { s.boot with startDue := true })
  else if s.power.entering.isSome then
    if ← latchWake source then
      let t ← Act.get
      Act.make (.power { t.power with wake := true })
    advanceEntry
  else if s.power.state = .run then
    let _ ← latchWake source
  else if flag s.power.state.wakeMask source then
    if ← latchWake source then exitState ticks

/-- PWR_REQ with STATE Run: a wake event in Idle and Sleep. -/
def requestRun : Act Nat := do
  let s ← Act.get
  if s.power.state = .idle || s.power.state = .sleep || s.power.entering.isSome then wake 6 0
  return Code.ok

/-- A request for Off needs its key; a write without it is discarded. -/
def requestOff (key : Nat) : Act Nat := do
  let s ← Act.get
  if key = 0x0FF0 then
    match s.refuser .off 0 with
    | some r => logRefusal .off false r
    | none => enterOff
  return Code.ok

/-- POWER_REQUEST_RUN. -/
def execPowerRequestRun (who : Who) (s : State) : Host.Outcome State Fault Refusal :=
  Act.outcome (settled (command who .pwrReq 0 requestRun)) s

/-- POWER_REQUEST_IDLE. -/
def execPowerRequestIdle (req : IdleRequest) (s : State) : Host.Outcome State Fault Refusal :=
  Act.outcome (command req.who .pwrReq 0 (requestState .idle req.busy)) s

/-- POWER_REQUEST_SLEEP. -/
def execPowerRequestSleep (who : Who) (s : State) : Host.Outcome State Fault Refusal :=
  Act.outcome (settled (command who .pwrReq 0 (requestState .sleep 0))) s

/-- POWER_REQUEST_DEEP_SLEEP. -/
def execPowerRequestDeepSleep (who : Who) (s : State) : Host.Outcome State Fault Refusal :=
  Act.outcome (settled (command who .pwrReq 0 (requestState .deep 0))) s

/-- POWER_REQUEST_OFF. -/
def execPowerRequestOff (who : Who) (key : BitVec 16) (s : State) : Host.Outcome State Fault Refusal :=
  Act.outcome (command who .pwrReq 0 (requestOff key.toNat)) s

/-- AUTO_IDLE: with IDLE_AUTO.EN, the conditions of Idle have held for HOLD_US. -/
def execAutoIdle (s : State) : Host.Outcome State Fault Refusal :=
  Act.outcome (do
    let t ← Act.get
    if t.runs && flag (t.rg .pwrIdleAuto) 0 then
      if (t.refuser .idle 0).isNone then acceptEntry .idle) s

/-- ENTRY_ABORT: a drain, a migration or a save fails in `block`, or a barge is in flight 2 ms after acceptance. -/
def execEntryAbort (block : Nat) (s : State) : Host.Outcome State Fault Refusal :=
  Act.outcome (do
    let t ← Act.get
    if t.power.entering.isSome then
      if block = Block.barge then reach t.power.entryLimit
      abortEntry (if Block.named block then block else Block.none)) s

/-- WAKE_EVENT. -/
def execWakeEvent (source : Fin 9) (slowTicks : Nat) (s : State) : Host.Outcome State Fault Refusal :=
  Act.outcome (settled (wake source.val slowTicks)) s

/-- SLOW_CLOCK_ALARM (R417). -/
def execSlowClockAlarm (slowTicks : Nat) (s : State) : Host.Outcome State Fault Refusal :=
  Act.outcome (settled (do
    let t ← Act.get
    match t.power.alarm with
    | some a =>
      reach a
      wake 2 slowTicks
    | none => nothing)) s

/-! ## Trips and the supply (R432, R433, R462, R489) -/

/-- TRIP_115: engines and stewards stop, every bound leash is latched into its stop branch, and the reflex lane runs on. -/
def execTrip115 (s : State) : Host.Outcome State Fault Refusal :=
  Act.outcome (do
    let t ← Act.get
    if t.power.state ≠ .off && !t.boot.dead && t.power.runOn.isNone then
      abortEntry Block.therm
      let u ← Act.get
      Act.make (.power { u.power with runOn := some (u.ns + 2 * 10 ^ 9) })
      for n in List.range 8 do
        Act.setBit3 .pwrDom (2 + n) false
        Act.setBit3 .pwrDom (50 + n) false
      for n in List.range 16 do leaveMain n 2 7 true
      let _ ← fault { code := Code.faultUnit, block := Block.therm }
      Act.regField .thermStat 0 10 10 1) s

/-- RUN_ON_END: 2 s after the trip the device enters Off. -/
def execRunOnEnd (s : State) : Host.Outcome State Fault Refusal :=
  Act.outcome (do
    let t ← Act.get
    match t.power.runOn with
    | some at' =>
      reach at'
      enterOff
    | none => nothing) s

/-- TRIP_120: every domain but AO_WAKE is cut, and THERMTRIP_N is low until the next start (R433, R492). -/
def execTrip120 (s : State) : Host.Outcome State Fault Refusal :=
  Act.outcome (do
    let t ← Act.get
    if t.power.state ≠ .off || t.boot.dead then
      Act.make (.power { t.power with thermtrip := true })
      enterOff) s

/-- VIN_BROWNOUT: below 32 V for more than 1 ms cuts as the 120 °C trip does, without THERMTRIP_N. -/
def execVinBrownout (s : State) : Host.Outcome State Fault Refusal :=
  Act.outcome (do
    let t ← Act.get
    Act.make (.power { t.power with vinGood := false })
    enterOff) s

/-- REGULATOR_PHASE_FAILURE: MODMAX is held at 400 W until the next start (Table 21.6). -/
def execRegulatorPhaseFailure (s : State) : Host.Outcome State Fault Refusal :=
  Act.outcome (do
    let t ← Act.get
    if t.power.state ≠ .off && !t.boot.dead then
      Act.make (.power { t.power with phasesLost := t.power.phasesLost + 1 })
      Act.reg .pwrModmax 0 (Word.ofNat (min 400 (t.rf .pwrModmax 0 8 0)))) s

/-- What the computed registers of PWR read. -/
def State.powerReads (s : State) (r : Reg) : Option Word :=
  match r with
  | .pwrState =>
    let p := s.power
    let ready := if p.state = .run || p.state = .idle then 15 else 0
    some (Word.ofNat (pack [(if p.state = .deep then 0 else p.state.code, 0), ((p.entering.map PState.code).getD 0, 3),
      (b2n p.entering.isSome, 6), (ready, 8)]))
  | _ => none

end Sys2Proof.Machine
end

