-- ==== Sys2Proof/Machine/Cascade.lean ====
section
/-!
DEFINITION. Sys2Proof/Machine/Cascade.lean: towlines, roles, time and budget across modules, liveness and hot swap, as one
module of the cascade has them (chapter 17).
-/
namespace Sys2Proof.Machine

def Act.modTowline (l : Nat) (f : Towline → Towline) : Act Unit := do
  let s ← Act.get
  Act.make (.casc { s.casc with links := s.casc.links.put l (f (s.casc.links.at l {})) })

def bit4 (i : Nat) : BitVec 4 := BitVec.ofNat 4 (2 ^ i)

/-- Modules of a set, in ID order. -/
def modulesOf (m : BitVec 4) : List Nat := (List.range 4).filter (flag m)

/-! ## Towlines (R391, R392) -/

/-- Lanes of a towline that are retired. -/
def State.retiredLanes (s : State) (l : Nat) : BitVec 8 := BitVec.ofNat 8 (s.rf .faultRetTow 0 (8 * l + 7) (8 * l))

/-- Lanes are retired until the next start, each with its record. -/
def retireLanes (l : Nat) (lanes : BitVec 8) (code syn : Nat) : Act Unit := do
  let s ← Act.get
  for j in List.range 8 do
    if flag lanes j && !flag (s.retiredLanes l) j then
      Act.regField .faultRetTow 0 (8 * l + j) (8 * l + j) 1
      let _ ← fault { code, block := Block.towline l, kind := 1, syn }

/-- TOWLINE_TRAINING: a peer that the wiring of R391 does not put here makes the towline unusable and is recorded. -/
def execTowlineTraining (l : Fin 3) (peer : Fin 4) (lanes : BitVec 8) (s : State) : Host.Outcome State Fault Refusal :=
  Act.outcome (do
    let t ← Act.get
    let n := l.val
    if t.awake then
      if peer.val = t.casc.id ^^^ (n + 1) then
        retireLanes n (~~~lanes) Code.faultUnit 0
        let u ← Act.get
        let on := lanes &&& ~~~(u.retiredLanes n)
        Act.modTowline n fun x => { x with lanes := on, peer := peer.val, up := on ≠ 0, failures := 0, lastBeat := u.ns }
      else
        Act.modTowline n fun x => { x with lanes := 0, peer := peer.val, up := false }
        let _ ← fault { code := Code.faultLink, block := Block.towline n }) s

/-- TOWLINE_FLIT_RECEIVE: a flit that fails its CRC-32 is sent again; after the eighth failed retransmission in a row the
towline retrains, lanes that fail are retired, and the flits held are sent anew. RETRY counts each of them once for every
live lane (L-13). -/
def execTowlineFlitReceive (l : Fin 3) (crcOk : Bool) (lanesFailed : BitVec 8) (s : State) : Host.Outcome State Fault Refusal :=
  Act.outcome (do
    let t ← Act.get
    let n := l.val
    let x := t.casc.links.at n {}
    if t.awake && x.up then
      if crcOk then Act.modTowline n fun x => { x with failures := 0 }
      else if x.failures < 8 then
        Act.countSat .towErr n 15 0
        Act.modTowline n fun x => { x with failures := x.failures + 1 }
      else
        Act.countSat .towErr n 31 16
        let d ← Act.draw
        let crc := (Config.freeWord d).toNat % 65536
        retireLanes n (x.lanes &&& lanesFailed) Code.faultLink (9 + 256 + 65536 * crc)
        let on := x.lanes &&& ~~~lanesFailed
        Act.modTowline n fun x => { x with lanes := on, up := on ≠ 0, failures := 0 }
        if on ≠ 0 then
          let held := 1 + (Config.freeWord d).toNat / 65536 % 64
          Act.countSat .towErr n 15 0 (held * ((List.range 8).filter (flag on)).length)
          let _ ← repairRecord (Block.towline n) 3 0 2 n) s

/-- DELAY_MEASURE (R396). -/
def execDelayMeasure (l : Fin 3) (ns : Nat) (s : State) : Host.Outcome State Fault Refusal :=
  Act.outcome (do
    let t ← Act.get
    if t.awake && (t.casc.links.at l.val {}).up then Act.reg .towDelay l.val (Word.ofNat (min 65535 ns))) s

/-! ## Roles (R393, R394, R403) -/

/-- The module's role under a master and a standby. -/
def setRoles (master standby : Option Nat) : Act Unit := do
  let s ← Act.get
  let k := s.casc
  let role := if master = some k.id then 1 else if standby = some k.id then 2 else 3
  Act.make (.casc { k with master, standby, role })

/-- The lowest live ID other than the master's. -/
def Casc.nextStandby (k : Casc) (master : Nat) : Option Nat := (modulesOf k.live).find? (· ≠ master)

/-- FORMATION_END: the modules whose towline to this one is in use have answered. The MASTER_SEL_N straps of the others are
theirs to tell. -/
def execFormationEnd (s : State) : Host.Outcome State Fault Refusal :=
  Act.outcome (do
    let t0 ← Act.get
    if t0.awake && t0.casc.enabled && !t0.casc.formed then
      let answered := (List.range 4).filter fun i => flag t0.casc.expect i && (i = t0.casc.id || t0.direct i)
      if answered.length < (modulesOf t0.casc.expect).length then reach (t0.casc.startNs + t0.casc.formMs * 10 ^ 6)
      let t ← Act.get
      let k := t.casc
      let d ← Act.draw
      let sel (i : Nat) : Bool := if i = k.id then k.msel else flag (Config.freeWord d) i
      let live := answered.foldl (fun (m : BitVec 4) i => m ||| bit4 i) 0
      let master := ((answered.find? sel).orElse fun _ => answered.head?).getD k.id
      Act.make (.casc { k with formed := true, live, liveAtShare := answered.length, lastShare := t.ns })
      let u ← Act.get
      setRoles (some master) (u.casc.nextStandby master)
      if master ≠ k.id then
        let _ ← writeTimeCfg (setField (u.rg .timeCfg) 1 0 3)
        nothing) s

/-! ## Time (R396) -/

/-- TIME_MESSAGE_SEND: the master's message goes out on every live towline. -/
def execTimeMessageSend (s : State) : Host.Outcome State Fault Refusal :=
  Act.outcome (do
    let t ← Act.get
    if t.awake && t.casc.role = 1 then Act.make (.casc { t.casc with timeMessages := t.casc.timeMessages + 1 })) s

/-- TIME_MESSAGE_RECEIVE: one offset sample with τ = 125 µs, corrected by the towline's delay; `sent` is the master's full
device time. -/
def execTimeMessageReceive (sent : Nat) (link : Fin 3) (s : State) : Host.Outcome State Fault Refusal :=
  Act.outcome (do
    let t ← Act.get
    if t.awake && (t.casc.role = 2 || t.casc.role = 3) && (t.casc.links.at link.val {}).up && t.rf .timeCfg 0 1 0 = 3 then
      let theta : Int := (t.fullTime : Int) - (sent + t.rf .towDelay link.val 15 0 : Nat)
      servo (max (-(2 ^ 31)) (min (2 ^ 31 - 1) theta)) (some 125000)) s

/-! ## Budget (R397, R425) -/

/-- One module's report as the shares take it. -/
structure Claim where
  id : Nat
  d : Nat
  k : Nat
  share : Rat
  deriving DecidableEq, Repr

/-- The loop of R425: claims still open, and those capped; at most one round for each module. -/
def shareLoop : Nat → Rat → List Claim → List Claim × List Claim
  | 0, _, cs => (cs, [])
  | fuel + 1, left, cs =>
    let w (c : Claim) : Rat := (c.d - c.share) * 2 ^ c.k
    let sum := (cs.map w).sum
    if sum = 0 then (cs, [])
    else
      let give (c : Claim) : Rat := left * w c / sum
      let capped := cs.filter fun c => (c.d : Rat) ≤ c.share + give c
      if capped.isEmpty then (cs.map fun c => { c with share := c.share + give c }, [])
      else
        let taken := (capped.map fun c => (c.d : Rat) - c.share).sum
        let (o, l) := shareLoop fuel (left - taken) (cs.filter fun c => !capped.contains c)
        (o, capped.map (fun c => { c with share := (c.d : Rat) }) ++ l)

/-- The shares of a budget of `b` W: by module, in whole W, and UNDER. -/
def sharesOf (b : Nat) (claims : List (Nat × Nat × Nat)) : List (Nat × Nat) × Bool :=
  if b < claims.length * 40 then (claims.map fun c => (c.1, 40), true)
  else
    let cs := claims.map fun c => ({ id := c.1, d := c.2.1, k := c.2.2, share := 40 } : Claim)
    let (o, l) := shareLoop (cs.length + 1) (b - claims.length * 40 : Nat) cs
    let whole (c : Claim) : Nat := c.share.floor.toNat
    let rest : Nat := ((o.map fun (c : Claim) => c.share).sum).floor.toNat - (o.map whole).sum
    let low : Nat := ((o.map fun (c : Claim) => c.id).min?).getD 4
    ((o.map fun c => (c.id, whole c + if c.id = low then rest else 0)) ++ l.map fun c => (c.id, whole c), false)

/-- The module's urgency: by the least slack of the jobs that run or are next (R425). -/
def State.urgency (s : State) : Nat :=
  let slack := s.ctxs.filterMap fun x => x.2.jobs.head?.bind fun j =>
    if j.deadline < 2 ^ 64 - 1 then some (j.deadline - s.fullTime) else none
  match slack.min? with
  | none => 0
  | some n => if n < 10 ^ 6 then 3 else if n < 10 ^ 7 then 2 else if n < 10 ^ 8 then 1 else 0

/-- PWR_SHARE. -/
def takeShare (w : Nat) (under : Bool) : Act Unit := do
  let s ← Act.get
  Act.reg .pwrShare 0 (Word.ofNat (pack [(min 4095 w, 0), (b2n under, 12), (s.urgency, 13)]))

/-- The master's JOIN is done once the new module reports and is given a share: it is live, and in the MASK of each
cascade context again (R404). -/
def finishJoin (reports : List ModuleReport) : Act Unit := do
  let s ← Act.get
  let k := s.casc
  match k.joining with
  | none => nothing
  | some m =>
    if reports.any fun r => r.id = m then
      let b := bit4 m.val
      let masks := k.masks.map fun x =>
        (x.1, if 2 ≤ (modulesOf x.2).length || flag (k.left.at x.1 0) m.val then x.2 ||| b else x.2)
      Act.make (.casc { k with
        joining := none, live := k.live ||| b, masks, left := k.left.map fun x => (x.1, x.2 &&& ~~~b) })
      Act.reg .towCmdStatus 0 0
      let u ← Act.get
      match u.casc.master with
      | some ma => setRoles (some ma) (u.casc.nextStandby ma)
      | none => nothing

/-- What a live module last reported; one that has not reported claims no more than the floor. -/
def State.claimOf (s : State) (own : Nat) (i : Nat) : Nat × Nat × Nat :=
  if i = s.casc.id then (i, own, s.urgency)
  else match s.casc.reports.find? fun r => r.id.val = i with
    | some r => (i, max 40 (min 450 r.demand), min 3 r.urgency)
    | none => (i, 40, 0)

/-- POWER_REPORT: the reports of this millisecond, and the shares the master makes of them. A module's own demand is its
own prediction. -/
def execPowerReport (reports : List ModuleReport) (s : State) : Host.Outcome State Fault Refusal :=
  Act.outcome (do
    let t0 ← Act.get
    if t0.awake then
      if t0.casc.role = 0 then takeShare (min (t0.rf .pwrBudget 0 11 0) (t0.rf .pwrModmax 0 8 0)) false
      else
        finishJoin reports
        let t1 ← Act.get
        let old := t1.casc.reports.filter fun r => !(reports.any fun q => q.id = r.id)
        Act.make (.casc { t1.casc with reports := reports ++ old })
        let t ← Act.get
        let top := max 40 (t.rf .pwrModmax 0 8 0)
        let d ← Act.draw
        let own := match t.casc.reports.find? fun r => r.id.val = t.casc.id with
          | some r => max 40 (min top r.demand)
          | none => max 40 (min top (Config.freeWord d).toNat)
        let live := modulesOf t.casc.live
        let (shares, under) := sharesOf (t.rf .pwrBudget 0 11 0) (live.map (t.claimOf own))
        Act.make (.casc { t.casc with shares, lastShare := t.ns, liveAtShare := live.length })
        takeShare (((shares.find? fun x => x.1 = t.casc.id).map (·.2)).getD 40) under) s

/-- SHARE_TIMEOUT: no share for 3 ms: an equal split of the budget. -/
def execShareTimeout (s : State) : Host.Outcome State Fault Refusal :=
  Act.outcome (do
    let t ← Act.get
    if t.awake && (t.casc.role = 2 || t.casc.role = 3) then
      reach (t.casc.lastShare + 3 * 10 ^ 6)
      takeShare (t.rf .pwrBudget 0 11 0 / max 1 t.casc.liveAtShare) false) s

/-! ## Liveness (R402, R403) -/

/-- HEARTBEAT. -/
def execHeartbeat (l : Fin 3) (s : State) : Host.Outcome State Fault Refusal :=
  Act.outcome (do
    let t ← Act.get
    if t.awake && (t.casc.links.at l.val {}).up then Act.modTowline l.val fun x => { x with lastBeat := t.ns }) s

/-- Cascade contexts with a kernel open here. -/
def State.openParts (s : State) (m : Nat) : List Nat :=
  (s.ctxs.filter fun x => x.2.kern.isSome && (s.home x.1).isSome && flag (s.casc.masks.at x.1 0) m).map (·.1)

/-- HEARTBEAT_LOSS: no heartbeat with any live module for 1 ms: the module leaves, its parts end with FAULT_LINK, and it
runs on alone, with no cascade to form until the next start. A LEAVE or JOIN under way ends with FAULT_LINK (R405). -/
def execHeartbeatLoss (s : State) : Host.Outcome State Fault Refusal :=
  Act.outcome (settled (do
    let t0 ← Act.get
    if t0.awake && t0.casc.role ≠ 0 then
      let beats := (t0.casc.links.filter fun x => x.2.up).map (·.2.lastBeat)
      reach ((beats.max?.getD t0.ns) + 10 ^ 6)
      let t ← Act.get
      for c in t.openParts t.casc.id do endKernel c { code := Code.faultLink, block := Block.tow }
      let u ← Act.get
      if u.casc.leaving.isSome || u.casc.joining.isSome then Act.reg .towCmdStatus 0 (Word.ofNat Code.faultLink)
      Act.make (.casc { u.casc with
        alive := false, role := 0, master := none, standby := none, enabled := false, formed := false,
        live := bit4 u.casc.id, leaving := none, joining := none })) ) s

/-- WATCHDOG_EXPIRY: CASC_ALIVE is deasserted. -/
def execWatchdogExpiry (s : State) : Host.Outcome State Fault Refusal :=
  Act.outcome (do
    let t ← Act.get
    Act.make (.casc { t.casc with alive := false })) s

/-- The contexts homed on a lost module take their new HOME here: their jobs are those it kept copies of (R403). -/
def takeHomes : Act Unit := do
  let s ← Act.get
  for (c, js) in s.casc.copies do
    if s.home c = some s.casc.id && (s.ctx c).st ≠ .free && (s.ctx c).jobs.isEmpty then
      Act.modCtx c fun x => { x with jobs := js }

/-- CASC_PEER_DEASSERT: module `i` is lost; the standby takes a lost master's place, and attempts with a part there fail
and are retried. -/
def execCascPeerDeassert (i : Fin 4) (s : State) : Host.Outcome State Fault Refusal :=
  Act.outcome (settled (do
    let t ← Act.get
    let k := t.casc
    if t.awake && k.role ≠ 0 && i.val ≠ k.id && flag k.live i.val then
      for c in t.openParts i.val do losePart c true { code := Code.faultLink, block := Block.tow }
      let u ← Act.get
      Act.make (.casc { u.casc with
        live := u.casc.live &&& ~~~(bit4 i.val)
        joining := if u.casc.joining = some i then none else u.casc.joining })
      if u.casc.joining = some i then Act.reg .towCmdStatus 0 (Word.ofNat Code.faultLink)
      let v ← Act.get
      if k.master = some i.val then
        let master := k.standby.getD v.casc.id
        setRoles (some master) (v.casc.nextStandby master)
        let d ← Act.draw
        Act.countSat .towFailover 0 7 0
        Act.regField .towFailover 0 31 16 ((Config.freeWord d).toNat % 101)
      else match k.master with
        | some m => setRoles (some m) (v.casc.nextStandby m)
        | none => nothing
      takeHomes)) s

/-! ## Hot swap (R395, R404) -/

/-- A command of TOW_CMD is the master's alone, one at a time. -/
def towCommand (body : Act Unit) : Act Nat := do
  let s ← Act.get
  if s.casc.role ≠ 1 || s.casc.leaving.isSome || s.casc.joining.isSome then return Code.faultXlat
  else
    body
    return Code.ok

/-- LEAVE: the module goes from every MASK, at once where no job is in progress, else at the job's boundary. -/
def leaveModule (m : Fin 4) : Act Unit := do
  let s ← Act.get
  if s.casc.master = some m.val then Act.reg .towCmdStatus 0 (Word.ofNat Code.faultXlat)
  else
    Act.make (.casc { s.casc with leaving := some m })
    Act.reg .towCmdStatus 0 (Word.ofNat 0x100)
    for (c, _) in s.casc.masks do
      if !(s.ctx c).inJob then leaveMask c m.val
    checkLeave

/-- CASC_LEAVE. -/
def execCascLeave (who : Who) (m : Fin 4) (s : State) : Host.Outcome State Fault Refusal :=
  Act.outcome (command who .towCmd 0 (towCommand (leaveModule m))) s

/-- JOIN is done when the module has reported and received its share. -/
def joinModule (m : Fin 4) : Act Unit := do
  let s ← Act.get
  if flag s.casc.live m.val then Act.reg .towCmdStatus 0 0
  else
    Act.make (.casc { s.casc with joining := some m })
    Act.reg .towCmdStatus 0 (Word.ofNat 0x100)

/-- CASC_JOIN. -/
def execCascJoin (who : Who) (m : Fin 4) (s : State) : Host.Outcome State Fault Refusal :=
  Act.outcome (command who .towCmd 0 (towCommand (joinModule m))) s

/-- HANDOVER: the standby becomes master. -/
def handOver : Act Unit := do
  let s ← Act.get
  match s.casc.standby with
  | some m =>
    setRoles (some m) (s.casc.nextStandby m)
    Act.reg .towCmdStatus 0 0
  | none => Act.reg .towCmdStatus 0 (Word.ofNat Code.faultXlat)

/-- CASC_HANDOVER. -/
def execCascHandover (who : Who) (s : State) : Host.Outcome State Fault Refusal :=
  Act.outcome (command who .towCmd 0 (towCommand handOver)) s

/-! ## Cascade contexts (R398, R475) -/

/-- A write of TOW_CTX: the MASK of the selected context, which may not be of class 0, paired or 1,023. -/
def writeMask (value : Word) : Act Nat := do
  let s ← Act.get
  let c := s.rf .towCtxSel 0 9 0
  let x := s.ctx c
  let m : BitVec 4 := BitVec.ofNat 4 (field value 3 0)
  if 2 ≤ (modulesOf m).length && (c = 1023 || (x.st ≠ .free && (x.desc.cls = 0 || x.desc.paired))) then
    Act.regField .towCmdStatus 0 7 0 Code.faultXlat
  else Act.make (.casc { s.casc with masks := s.casc.masks.put c m, left := s.casc.left.drop c })
  return Code.ok

/-- TOW_CTX_MASK_WRITE. -/
def execTowCtxMaskWrite (who : Who) (value : Word) (s : State) : Host.Outcome State Fault Refusal :=
  Act.outcome (command who .towCtx 0 (writeMask value)) s

/-- A write of TOW_CTX_PAGE: half of the selected context's page address. Bits [15:0], zero, are not stored, as they are in
other registers whose low bits a table calls zero (log entry 202). -/
def writePage (high : Bool) (value : Word) : Act Nat := do
  let s ← Act.get
  let c := s.rf .towCtxSel 0 9 0
  let va := s.casc.pages.at c 0
  let new := if high then va % 2 ^ 32 + value.toNat % 65536 * 2 ^ 32 else va / 2 ^ 32 * 2 ^ 32 + value.toNat / 65536 * 65536
  Act.make (.casc { s.casc with pages := s.casc.pages.put c new })
  return Code.ok

/-- What the computed registers of TOW read (Table 17.6). -/
def State.towReads (s : State) (r : Reg) (i : Nat) : Option Word :=
  let k := s.casc
  let c := s.rf .towCtxSel 0 9 0
  match r with
  | .towRole => some (Word.ofNat (pack [(k.id, 0), (b2n k.msel, 2), (k.role, 3), (k.live.toNat, 5)]))
  | .towStatus =>
    let x := k.links.at i {}
    some (Word.ofNat (pack [(((List.range 8).filter (flag x.lanes)).length, 0), (x.lanes.toNat, 4), (x.peer, 12),
      (b2n x.up, 14), (b2n (k.role ≠ 0 && s.relayed (k.id ^^^ (i + 1))), 15)]))
  | .towCtx => some (Word.ofNat (pack [((k.masks.at c 0).toNat, 0), ((s.home c).getD 0, 4)]))
  | .towCtxPageLo => some (Word.ofNat (k.pages.at c 0))
  | .towCtxPageHi => some (Word.ofNat (k.pages.at c 0 / 2 ^ 32))
  | _ => none

end Sys2Proof.Machine
end

