-- ==== Sys2Proof/Machine/Crypto.lean ====
section
/-!
DEFINITION. Sys2Proof/Machine/Crypto.lean: SHAKE256 and pure Ed448 (R439), which the spec takes whole from FIPS 202 and
RFC 8032 (log entry 70).
-/
namespace Sys2Proof.Machine

/-! ## SHAKE256 -/

/-- Rotation of lane (x, y) at `x + 5 * y`. -/
def Keccak.turns : List Nat :=
  [0, 1, 62, 28, 27, 36, 44, 6, 55, 20, 3, 10, 43, 25, 39, 41, 45, 15, 21, 8, 18, 2, 61, 56, 14]

/-- Round constants. -/
def Keccak.constants : List (BitVec 64) :=
  [0x0000000000000001, 0x0000000000008082, 0x800000000000808A, 0x8000000080008000, 0x000000000000808B,
   0x0000000080000001, 0x8000000080008081, 0x8000000000008009, 0x000000000000008A, 0x0000000000000088,
   0x0000000080008009, 0x000000008000000A, 0x000000008000808B, 0x800000000000008B, 0x8000000000008089,
   0x8000000000008003, 0x8000000000008002, 0x8000000000000080, 0x000000000000800A, 0x800000008000000A,
   0x8000000080008081, 0x8000000000008080, 0x0000000080000001, 0x8000000080008008]

/-- One round of Keccak-f[1600]. -/
def Keccak.round (a : List (BitVec 64)) (rc : BitVec 64) : List (BitVec 64) :=
  let lane (l : List (BitVec 64)) (x y : Nat) : BitVec 64 := l.getD (x % 5 + 5 * (y % 5)) 0
  let col := (List.range 5).map fun x => (List.range 5).foldl (fun c y => c ^^^ lane a x y) 0
  let mix (x : Nat) : BitVec 64 := col.getD ((x + 4) % 5) 0 ^^^ (col.getD ((x + 1) % 5) 0).rotateLeft 1
  let b := (List.range 25).map fun i =>
    let x := (i % 5 + 3 * (i / 5)) % 5
    let y := i % 5
    (lane a x y ^^^ mix x).rotateLeft (Keccak.turns.getD (x + 5 * y) 0)
  let c := (List.range 25).map fun i =>
    lane b (i % 5) (i / 5) ^^^ (~~~ lane b (i % 5 + 1) (i / 5) &&& lane b (i % 5 + 2) (i / 5))
  c.set 0 (c.getD 0 0 ^^^ rc)

def Keccak.permute (a : List (BitVec 64)) : List (BitVec 64) := Keccak.constants.foldl Keccak.round a

/-- Absorbs one block of 136 bytes. -/
def Keccak.absorb (a : List (BitVec 64)) (block : List Byte) : List (BitVec 64) :=
  Keccak.permute ((List.range 25).map fun i =>
    a.getD i 0 ^^^ (if i < 17 then BitVec.ofNat 64 (natAt block (8 * i) 8) else 0))

/-- Cuts bytes into `n` blocks of 136. -/
def Keccak.blocks : Nat → List Byte → List (List Byte)
  | 0, _ => []
  | n + 1, b => b.take 136 :: Keccak.blocks n (b.drop 136)

/-- Squeezes `n` blocks. -/
def Keccak.squeeze : Nat → List (BitVec 64) → List Byte
  | 0, _ => []
  | n + 1, a => (a.take 17).flatMap (fun l => bytesOf 8 l.toNat) ++ Keccak.squeeze n (Keccak.permute a)

/-- `n` bytes of SHAKE256. -/
def shake256 (n : Nat) (msg : List Byte) : List Byte :=
  let k := msg.length / 136 + 1
  let padded := fit (k * 136) (msg ++ [0x1F])
  let last := k * 136 - 1
  let blocks := Keccak.blocks k (padded.set last (padded.getD last 0 ||| 0x80))
  (Keccak.squeeze (n / 136 + 1) (blocks.foldl Keccak.absorb (List.replicate 25 0))).take n

/-! ## Ed448 -/

abbrev Ed448.p : Nat := 2 ^ 448 - 2 ^ 224 - 1
abbrev Ed448.order : Nat :=
  2 ^ 446 - 13818066809895115352007386748515426880336692474882178609894547503885

/-- `b ^ e` modulo p; `fuel` bounds the bits of the exponent. -/
def Ed448.pow : Nat → Nat → Nat → Nat
  | 0, _, _ => 1
  | fuel + 1, b, e =>
    let h := Ed448.pow fuel (b * b % Ed448.p) (e / 2)
    if e % 2 = 1 then b * h % Ed448.p else h

/-- A point in projective coordinates. -/
structure Ed448.Point where
  x : Nat
  y : Nat
  z : Nat
  deriving DecidableEq, Repr

def Ed448.base : Ed448.Point :=
  { x := 224580040295924300187604334099896036246789641632564134246125461686950415467406032909029192869357953282578032075146446173674602635247710
    y := 298819210078481492676017930443930673437544040154080242095928241372331506189835876003536878655418784733982303233503462500531545062832660
    z := 1 }

def Ed448.add (a b : Ed448.Point) : Ed448.Point :=
  let p := Ed448.p
  let q := a.z * b.z % p
  let q2 := q * q % p
  let c := a.x * b.x % p
  let d := a.y * b.y % p
  -- d = -39081: E is negated
  let e := 39081 * (c * d % p) % p
  let f := (q2 + e) % p
  let g := (q2 + p - e) % p
  let h := (a.x + a.y) * (b.x + b.y) % p
  { x := q * f % p * ((h + 2 * p - c - d) % p) % p, y := q * g % p * ((d + p - c) % p) % p, z := f * g % p }

/-- `n` times a point. -/
def Ed448.mul : Nat → Nat → Ed448.Point → Ed448.Point
  | 0, _, _ => { x := 0, y := 1, z := 1 }
  | fuel + 1, n, a =>
    let h := Ed448.mul fuel (n / 2) (Ed448.add a a)
    if n % 2 = 1 then Ed448.add a h else h

/-- Two projective points are one point. -/
def Ed448.same (a b : Ed448.Point) : Bool :=
  a.x * b.z % Ed448.p = b.x * a.z % Ed448.p && a.y * b.z % Ed448.p = b.y * a.z % Ed448.p

/-- The 57 bytes of a point. -/
def Ed448.encode (a : Ed448.Point) : List Byte :=
  let i := Ed448.pow 448 a.z (Ed448.p - 2)
  let x := a.x * i % Ed448.p
  bytesOf 56 (a.y * i % Ed448.p) ++ [BitVec.ofNat 8 (x % 2 * 128)]

/-- The point of 57 bytes. -/
def Ed448.decode (b : List Byte) : Option Ed448.Point :=
  let p := Ed448.p
  let y := natAt b 0 56
  let top := natAt b 56 1
  if p ≤ y || top % 128 ≠ 0 || b.length ≠ 57 then none
  else
    let u := (y * y + p - 1) % p
    -- v = d y^2 - 1
    let v := (2 * p - 39081 * (y * y % p) % p - 1) % p
    let u3 := u * u % p * u % p
    let v3 := v * v % p * v % p
    let x := u3 * v % p * Ed448.pow 448 (u3 * u % p * u % p * v3 % p) ((p - 3) / 4) % p
    if v * (x * x % p) % p ≠ u then none
    else if x = 0 && top = 128 then none
    else some { x := if x % 2 = top / 128 then x else p - x, y, z := 1 }

def Ed448.dom : List Byte := [0x53, 0x69, 0x67, 0x45, 0x64, 0x34, 0x34, 0x38, 0, 0]

/-- The secret scalar of a 57-byte seed. -/
def Ed448.scalar (seed : List Byte) : Nat :=
  natOf (shake256 57 seed) % 2 ^ 447 / 4 * 4 + 2 ^ 447

/-- The public key of a seed. -/
def Ed448.publicKey (seed : List Byte) : List Byte :=
  Ed448.encode (Ed448.mul 448 (Ed448.scalar seed % Ed448.order) Ed448.base)

/-- The signature of a message by a seed. -/
def Ed448.sign (seed msg : List Byte) : List Byte :=
  let s := Ed448.scalar seed
  let head' := (shake256 114 seed).drop 57
  let a := Ed448.publicKey seed
  let r := natOf (shake256 114 (Ed448.dom ++ head' ++ msg)) % Ed448.order
  let rb := Ed448.encode (Ed448.mul 448 r Ed448.base)
  let k := natOf (shake256 114 (Ed448.dom ++ rb ++ a ++ msg)) % Ed448.order
  rb ++ bytesOf 57 ((r + k * s) % Ed448.order)

/-- A signature verifies. -/
def Ed448.verify (key msg sig : List Byte) : Bool :=
  let rb := sig.take 57
  let s := natOf (sig.drop 57)
  match Ed448.decode key, Ed448.decode rb with
  | some a, some r =>
    let k := natOf (shake256 114 (Ed448.dom ++ rb ++ key ++ msg)) % Ed448.order
    sig.length = 114 && s < Ed448.order &&
    Ed448.same (Ed448.mul 448 (4 * s) Ed448.base) (Ed448.mul 8 4 (Ed448.add r (Ed448.mul 448 k a)))
  | _, _ => false

/-- KEY_ID of a public key (R439). -/
def keyId (key : List Byte) : Nat := natOf (shake256 8 key)

end Sys2Proof.Machine
end

