-- ==== Sys2Proof/Machine/Programs.lean ====
section
/-!
DEFINITION. Sys2Proof/Machine/Programs.lean: program images (R105, R106, R503) and Rhoson's checks of one at load
(R107, Table 3.17).
-/
namespace Sys2Proof.Machine

/-! ## Sections (R377, R503) -/

/-- A section: its type, flags, where its content starts and how long it is. -/
structure Section where
  type : Nat
  flags : Nat
  off : Nat
  len : Nat
  deriving DecidableEq, Repr

/-- The content of a section. -/
def Section.of (x : Section) (img : List Byte) : List Byte := (img.drop x.off).take x.len

/-- The sections from `off` to the one of type `last`, each on a 64-byte boundary; none where a bound breaks the walk
or the image ends without it. -/
def walkSections (img : List Byte) (last : Nat) : Nat → Nat → Option (List Section)
  | 0, _ => none
  | fuel + 1, off =>
    let len := natAt img (off + 4) 4
    if img.length < off + 8 + len then none
    else
      let x : Section := { type := natAt img off 2, flags := natAt img (off + 2) 2, off := off + 8, len }
      if x.type = last then some [x]
      else (walkSections img last fuel ((off + 8 + len + 63) / 64 * 64)).map (x :: ·)

/-- A refusal of an image: the check of Table 3.17, and the span and bundle it names. -/
structure LoadFail where
  check : Nat
  span : Nat := 0
  bundle : Nat := 0
  deriving DecidableEq, Repr

/-! ## Tables and variants -/

/-- Cuts bytes into entries of `n` bytes, at most `k`. -/
def entries (n : Nat) : Nat → List Byte → List (List Byte)
  | 0, _ => []
  | k + 1, b => if b.isEmpty then [] else b.take n :: entries n k (b.drop n)

/-- The table section of a type that serves a span (R503). -/
def tableFor (img : List Byte) (xs : List Section) (type span : Nat) : List Byte :=
  let mine := xs.filter fun x => x.type = type
  match mine.find? (·.flags % 16 = span) with
  | some x => x.of img
  | none => match mine.find? (·.flags % 16 = 0) with
    | some x => x.of img
    | none => []

/-- The tables that serve a span. -/
def tablesOf (img : List Byte) (xs : List Section) (span : Nat) : Tables :=
  { span
    masks := (entries 32 15 (tableFor img xs 2 span)).map fun b => BitVec.ofNat 256 (natOf b)
    consts := (entries 16 1024 (tableFor img xs 3 span)).map fun b => BitVec.ofNat 128 (natOf b)
    barges := entries 64 256 (tableFor img xs 4 span)
    lockUses := (entries 2 256 (tableFor img xs 5 span)).map natOf }

/-- The variant of a VARIANT section. -/
def variantOf (b : List Byte) : Variant :=
  let span := natAt b 0 1
  let size := 16 + 64 * span
  { span
    bundles := (entries size (natAt b 2 2) (b.drop 4)).map fun e =>
      (BitVec.ofNat 128 (natAt e 0 16), (List.range span).map fun j => BitVec.ofNat 512 (natAt e (16 + 64 * j) 64)) }

/-! ## Check 2 -/

/-- A section's length agrees with its type. -/
def Section.sized (x : Section) (img : List Byte) : Bool :=
  match x.type with
  | 1 => 4 ≤ x.len && x.len = 4 + natAt img (x.off + 2) 2 * (16 + 64 * natAt img x.off 1)
  | 2 => x.len % 32 = 0 && x.len ≤ 15 * 32
  | 3 => x.len % 16 = 0 && x.len ≤ 1024 * 16
  | 4 => x.len % 64 = 0 && x.len ≤ 256 * 64
  | 5 => x.len % 2 = 0 && x.len ≤ 256 * 2
  | 6 | 0xFF => true
  | _ => 2 ^ 15 ≤ x.flags

/-- Check 2: MAGIC, VERSION, LENGTH and the sections agree. -/
def check2 (img : List Byte) (xs : List Section) : Bool :=
  let fin := (xs.getLast?.map fun x => x.off + x.len).getD 0
  let tabs : List (Nat × Nat) := (xs.filter fun x => 2 ≤ x.type && x.type ≤ 6).map fun x => (x.type, x.flags % 16)
  natAt img 0 4 = 0x504B_4843 && natAt img 4 2 = 1 && natAt img 8 4 = img.length && fin ≤ img.length &&
  img.length ≤ (fin + 63) / 64 * 64 && natAt img 12 2 = xs.length && xs.all (·.sized img) && (tabs.dedup.length = tabs.length : Bool)

/-! ## Check 5 -/

/-- Rules of window, box and linear configurations (Tables 4.1 to 4.3, 4.5, 4.8; R117). -/
def streamOk (g : BitVec 256) : Bool :=
  let mapOk : Bool := field g 143 128 ≠ 0 && field g 159 144 ≠ 0 && field g 187 176 ≠ 0 && field g 225 224 ≠ 3 && field g 255 226 = 0
  match field g 1 0 with
  | 0 => field g 3 2 = 0 && field g 31 22 = 0 && field g 255 160 = 0
  | 1 =>
    let order := (List.range 4).map fun i => field g (23 + 2 * i) (22 + 2 * i)
    let orgx := signed 16 (field g 79 64)
    let right : Int := orgx + field g 63 52 * (field g 101 96 + 1) + field g 47 44 * (field g 115 108 + 1) - ((field g 143 128 : Int) - 1)
    field g 3 2 ≤ 1 && field g 31 30 = 0 && field g 127 124 = 0 && (order.dedup.length = order.length : Bool) && field g 47 44 ≠ 15 &&
    field g 51 48 ≠ 15 && decide (-1023 ≤ orgx) && decide (-1023 ≤ signed 16 (field g 95 80)) && decide (right ≤ 1023) && mapOk
  | 2 => field g 3 3 = 0 && field g 127 76 = 0 && field g 39 22 % 16 = 0 && mapOk
  | _ => false

/-- The configuration in constant entries `i` and `i + 1`. -/
def configAt (consts : List (BitVec 128)) (i : Nat) : BitVec 256 := consts.getD (i + 1) 0 ++ consts.getD i 0

/-- A control word holds no reserved value and no reserved bit (R79). -/
def CW.ok (w : CW) : Bool :=
  field w 3 2 = 0 && field w 63 52 = 0 && field w 127 117 = 0 && w.loop ≠ 3 && w.lockOp ≤ 2

/-- A Basin port slot holds no reserved value its operation uses (Table 3.6). -/
def Port.ok (p : Port) : Bool :=
  match p.bop with
  | 0 => true
  | 1 => p.tgt ≤ 9 || p.tgt = 11 || p.tgt = 12
  | 2 => p.tgt = 8 || p.tgt = 10
  | _ => false

/-- An engine word holds no reserved value that a slot of it uses, and no reserved bit (Tables 2.2, 3.2 to 3.8). -/
def EW.ok (w : EW) (consts : List (BitVec 128)) : Bool :=
  let v := w.vop
  let k : BitVec 128 := consts.getD w.const 0
  field w 15 6 = 0 && field w 79 56 = 0 && field w 175 145 = 0 && field w 239 197 = 0 && field w 303 261 = 0 &&
  field w 383 356 = 0 && field w 415 398 = 0 && field w 511 438 = 0 &&
  w.dop ≤ 3 && !((w.dop = 1 || w.dop = 2) && (14 ≤ w.fmtW || 14 ≤ w.fmtA)) &&
  VOp.listed v && !((0x20 ≤ v && v ≤ 0x22) && 14 ≤ w.fmtIn) && !((v = 0x20 || v = 0x21) && 14 ≤ w.fmtOut) &&
  !(w.half && 1 ≤ v && v ≤ 6 && 14 ≤ w.fmtOut) && !(VOp.rounds v && w.rnd = 3) &&
  (w.port 0).ok && (w.port 1).ok && w.sop ≤ 7 && w.rop ≤ 2 && !(w.rop = 2 && (w.waitN = 0 || 8 < w.waitN)) && w.aop ≤ 4 &&
  !(w.aop = 3 && !streamOk (configAt consts w.const)) &&
  !(w.aop = 4 && (field k 5 0 ≠ 0 || field k 127 52 ≠ 0))

/-! ## Check 7 -/

/-- The loops of a variant: target, BACK bundle, counter. -/
def loopsOf (v : Variant) : List (Nat × Nat × Nat) :=
  v.bundles.zipIdx.filterMap fun ((cw, _), i) =>
    if CW.loop cw = 2 then some (CW.target cw, i, CW.loopId cw) else none

/-- The BACK of bundle `i` breaks check 7: its target, the nesting, the depth, or a counter without a SET before it,
or used by a loop within it. -/
def badLoop (v : Variant) (l : Nat × Nat × Nat) : Bool :=
  let (t, i, c) := l
  let sets (j : Nat) : Bool := match v.bundles[j]? with
    | some (cw, _) => CW.loop cw = 1 && CW.loopId cw = c
    | none => false
  let others := loopsOf v
  i < t ||
  (others.any fun (t2, i2, _) => i2 < i && t2 < t && t ≤ i2) ||
  4 < 1 + (others.filter fun (t2, i2, _) => i < i2 && t2 ≤ t).length ||
  (others.any fun (t2, i2, c2) => i2 < i && t ≤ t2 && c2 = c) ||
  !((List.range i).any sets)

/-! ## The path of a variant (R94, R96) -/

/-- Where a path stands: bundle, issues of it made, loop counters. -/
structure PathAt where
  pc : Nat := 0
  rep : Nat := 0
  lc : List Nat := [0, 0, 0, 0]
  deriving DecidableEq, Repr

/-- The next issue of the path; none after END. -/
def PathAt.next (p : PathAt) (cw : CW) : Option PathAt :=
  let lc := if p.rep = 0 && cw.loop = 1 then p.lc.set cw.loopId cw.count else p.lc
  if p.rep < cw.rep then some { p with rep := p.rep + 1, lc }
  else if cw.fin then none
  else if cw.loop = 2 && lc.getD cw.loopId 0 ≠ 0 then
    some { pc := cw.target, rep := 0, lc := lc.set cw.loopId (lc.getD cw.loopId 0 - 1) }
  else some { pc := p.pc + 1, rep := 0, lc }

/-- More issues than any path has: 1,638 bundles, 4,096 repeats and four loops of 2^20 passes. -/
abbrev pathFuel : Nat := 2 ^ 104

/-- An engine on its path: pointers, interlocks and issue cycles since the last join. -/
structure PathRun where
  pos : PathAt := {}
  ap : Nat := 0
  vp : Nat := 0
  cyc : Nat := 0
  vbusy : Nat := 0
  board : List (Nat × Res) := []
  since : Nat := 0
  deriving DecidableEq, Repr

/-- Check 9 on logical engine `j`: the bundle of the 16,385th issue cycle of an interval, holds counted (R92). The first
issue of a yield bundle is the join itself, and belongs to no interval (R94). -/
def longRun (v : Variant) (j : Nat) : Nat → PathRun → Option Nat
  | 0, _ => none
  | fuel + 1, r =>
    match v.bundles[r.pos.pc]? with
    | none => none
    | some (cw, ws) =>
      let w : EW := ws.getD j 0
      let t := w.readyAt r.board r.ap r.vp r.vbusy r.cyc
      let since := if CW.yield cw && r.pos.rep = 0 then 0 else r.since + (t - r.cyc) + 1
      if 16384 < since then some r.pos.pc
      else match PathAt.next r.pos cw with
        | none => none
        | some pos => longRun v j fuel {
            pos, ap := w.nextAp r.ap, vp := w.nextVp r.vp, cyc := t + 1
            vbusy := if w.vop = 0 then r.vbusy else t + VOp.busy w.vop
            board := r.board.filter (fun b => t < b.1) ++ (w.writes r.ap).map fun b => (t + b.1, b.2), since }

/-- The cells that a mask register selects. -/
def maskCells (masks : List (BitVec 256)) (n : Nat) : List Nat :=
  if n = 0 then List.range 256 else (List.range 256).filter fun c => flag (masks.getD (n - 1) 0) c

/-- Key of a receive channel. -/
def chanKey (e cell chan : Nat) : Nat := (e * 256 + cell) * 8 + chan

/-- Adds to a balance. -/
def tally (m : Sparse Int) (n : Int) (keys : List Nat) : Sparse Int := keys.foldl (fun m k => m.put k (m.at k 0 + n)) m

/-- The balance of every receive channel after an issue of all engines: lines taken by POP, then lines sent. -/
def balance (masks : List (BitVec 256)) (ws : List EW) (m : Sparse Int) : Sparse Int :=
  let m := ws.zipIdx.foldl (fun m (w, j) =>
    if EW.rop w = 1 then tally m (-1) ((maskCells masks (EW.cmask w)).map fun c => chanKey j c (EW.rch w)) else m) m
  ws.zipIdx.foldl (fun m (w, j) =>
    let cells := maskCells masks (EW.cmask w)
    if EW.sop w = 1 then
      tally m cells.length ((selectCells (EW.dsel w) (EW.dcell w)).map fun d => chanKey (EW.deng w) d (EW.rbuf w))
    else if EW.sop w = 3 || EW.sop w = 4 then tally m 1 (cells.map fun c => chanKey j c (EW.rbuf w))
    else m) m

/-- Check 11: the bundle at which a channel's balance first passes 8 lines in an interval. -/
def overfull (v : Variant) (masks : List (BitVec 256)) : Nat → PathAt → Sparse Int → Option Nat
  | 0, _, _ => none
  | fuel + 1, p, m =>
    match v.bundles[p.pc]? with
    | none => none
    | some (cw, ws) =>
      let m := balance masks ws (if CW.yield cw && p.rep = 0 then [] else m)
      if m.any fun e => 8 < e.2 then some p.pc
      else match p.next cw with
        | none => none
        | some q => overfull v masks fuel q m

/-! ## Check 10 -/

/-- What a bundle names exists. -/
def namesExist (t : Tables) (cw : CW) (ws : List EW) : Bool :=
  !(cw.lockOp ≠ 0 && t.lockUses.length ≤ cw.lockSlot) && !(cw.go && t.barges.length ≤ cw.bargeIdx) &&
  ws.all fun w =>
    EW.cmask w ≤ t.masks.length && !(EW.sop w = 1 && t.span ≤ EW.deng w) &&
    !(EW.aop w = 3 && t.consts.length ≤ EW.const w + 1) && !(EW.aop w = 4 && t.consts.length ≤ EW.const w)

/-! ## The checks in order -/

/-- The first bundle, in index order, of the first variant that breaks a check on bundles. -/
def firstBad (n : Nat) (vs : List (Variant × Tables)) (bad : Variant × Tables → Nat → CW → List EW → Bool) : Option LoadFail :=
  vs.findSome? fun v =>
    (v.1.bundles.zipIdx.find? fun ((cw, ws), i) => bad v i cw ws).map fun b => { check := n, span := v.1.span, bundle := b.2 }

/-- Check 3: spans and bundle counts. -/
def check3 (img : List Byte) (vs : List Variant) : Option LoadFail :=
  match (vs.zipIdx.find? fun (v, i) => v.span = 0 || 8 < v.span || v.bundles.isEmpty || 1638 < v.bundles.length ||
      ((vs.take i).map (·.span)).contains v.span) with
  | some (v, _) => some { check := 3, span := v.span }
  | none =>
    if (vs.map (·.span)).min? = some (natAt img 0x24 1) && (vs.map (·.span)).max? = some (natAt img 0x25 1) then none
    else some { check := 3 }

/-- Check 5 beside the bundles: reserved bytes of the header, section flags, the reserved byte of a VARIANT, and the
stream configurations each variant starts with. -/
def check5 (img : List Byte) (xs : List Section) (vs : List (Variant × Tables)) : Option LoadFail :=
  let listed (x : Section) : Bool := (1 ≤ x.type && x.type ≤ 6) || x.type = 0xFF
  if natAt img 6 2 ≠ 0 || natAt img 14 2 ≠ 0 || natAt img 0x26 26 ≠ 0 ||
     xs.any fun x => x.flags % 2 ^ 15 / 16 ≠ 0 || 8 < x.flags % 16 || (listed x && 2 ^ 15 ≤ x.flags) then some { check := 5 }
  else
    match xs.find? fun x => x.type = 1 && (natAt img (x.off + 1) 1 ≠ 0 ||
        (x.flags % 16 ≠ 0 && x.flags % 16 ≠ natAt img x.off 1)) with
    | some x => some { check := 5, span := natAt img x.off 1 }
    | none =>
      match vs.find? fun v => (List.range 8).any fun i => !streamOk (configAt v.2.consts (2 * i)) with
      | some v => some { check := 5, span := v.1.span }
      | none => firstBad 5 vs fun v _ cw ws => !cw.ok || ws.any fun w => !EW.ok w v.2.consts

/-- The key that signs programs and its signature section name one another (R444): the signature covers the image up to
the end `fin` of the section before it (R106). -/
def signs (certs : List Cert) (img : List Byte) (fin : Nat) (x : Section) : Bool :=
  let msg := shake256 64 (img.take fin)
  x.len = 122 && certs.any fun k =>
    k.kind = 2 && k.usage / 2 % 2 = 1 && k.keyId = natAt img x.off 8 &&
    Ed448.verify k.pubkey msg ((img.drop (x.off + 8)).take 114)

/-- The checks of Table 3.17 in order: the program, or the refusal. -/
def checkImage (certs : List Cert) (img : List Byte) (binds : List Nat) : Program ⊕ LoadFail :=
  match walkSections img 0xFF (img.length / 64 + 1) 64 with
  | none => .inr { check := 2 }
  | some xs =>
    let sig := xs.getLast?.getD { type := 0xFF, flags := 0, off := 0, len := 0 }
    let fin := (xs.dropLast.getLast?.map fun x => x.off + x.len).getD 64
    if !signs certs img fin sig then .inr { check := 1 }
    else if !check2 img xs then .inr { check := 2 }
    else
      let bare := (xs.filter (·.type = 1)).map fun x => variantOf (x.of img)
      let vs := bare.map fun v => (v, tablesOf img xs v.span)
      let steps : List (Unit → Option LoadFail) := [
        fun _ => check3 img bare,
        fun _ => firstBad 4 vs fun v i cw _ => cw.fin != decide (i + 1 = v.1.bundles.length),
        fun _ => check5 img xs vs,
        fun _ => firstBad 6 vs fun _ _ _ ws => ws.any fun w =>
          (EW.dop w = 1 || EW.dop w = 2) && (dotGroup (EW.fmtW w) (EW.fmtA w)).isNone,
        fun _ => firstBad 7 vs fun v i _ _ => (loopsOf v.1).any fun l => l.2.1 = i && badLoop v.1 l,
        fun _ => firstBad 8 vs fun _ _ cw ws =>
          cw.lockOp = 1 && (!cw.yield || ws.any fun w => EW.sop w = 2 || EW.sop w = 3),
        fun _ => vs.findSome? fun v =>
          ((List.range v.1.span).filterMap fun j => longRun v.1 j pathFuel {}).min?.map fun b =>
            { check := 9, span := v.1.span, bundle := b },
        fun _ => firstBad 10 vs fun v _ cw ws => !namesExist v.2 cw ws,
        fun _ => vs.findSome? fun v =>
          (overfull v.1 v.2.masks pathFuel {} []).map fun b => { check := 11, span := v.1.span, bundle := b }]
      match steps.findSome? fun f => f () with
      | some f => .inr f
      | none => .inl {
          name := (img.drop 16).take 16, tool := natAt img 0x20 4, keyId := natAt img sig.off 8
          digest := shake256 64 (img.take fin), variants := bare, tables := vs.map (·.2), binds }

end Sys2Proof.Machine
end

