-- ==== Sys2Proof/Machine/Read.lean ====
section
/-!
DEFINITION. Sys2Proof/Machine/Read.lean: what every register of control space reads, side effects aside: the stored
value, or what the block it belongs to computes (R7, R8).
-/
namespace Sys2Proof.Machine

/-- States of ENG_e_PSTAT (Table 3.11). -/
def EngMode.code : EngMode → Nat
  | .idle => 0
  | .issuing => 1
  | .held => 2
  | .stalled => 3
  | .parked => 4
  | .heeling => 5
  | .retired => 6

/-- What the computed registers of an engine window read. -/
def State.engineReads (s : State) (r : Reg) (e : Nat) : Option Word :=
  let x := s.engine e
  let next := if x.half then x.storeA else x.storeB
  let heels := (x.ctx.bind fun c => (s.ctx c).kern).any fun k => k.phase = .running && k.heelAt.isSome && k.engines.contains e
  let mode := if heels && x.mode ≠ .parked then .heeling else x.mode
  match r with
  | .engPstat => some (Word.ofNat (pack [(mode.code, 0), (b2n x.half, 3), (b2n next.isSome, 4), (x.ctx.getD 0, 5)]))
  | .engPc =>
    match x.ctx.bind fun c => (s.ctx c).kern.bind fun k => s.bundleAt k x.pc with
    | some (cw, _) => some (Word.ofNat (pack [(x.pc, 0), (CW.rep cw - x.rep, 12)]))
    | none => some 0
  | _ => none

/-- The channel's trained seed as BOOT_SEEDS gives it: the words still to come first (Table 16.9). -/
def State.seedWords (s : State) (ch : Nat) : List Word :=
  s.boot.seeds.at ch ((List.range 16).map (Config.trainedSeed ch))

/-- Programs loaded (R451). -/
def State.loaded (s : State) : List (Nat × Program) := s.progs.filter fun p => !p.2.gone

/-- What the computed registers of SYS and SEC read (Tables 16.9 and 20.6). -/
def State.bootReads (s : State) (r : Reg) (i : Nat) : Option Word :=
  let cert := s.boot.certs[s.rf .secKeySel 0 1 0]?
  match r with
  | .bootSeeds =>
    let ch := s.rf .bootSeedsSel 0 6 0
    some (if ch < 96 then (s.seedWords ch).headD 0 else 0)
  | .secRoot => some (Word.ofNat (natAt Config.romRoot (4 * i) 4))
  | .secKeyLo => some (Word.ofNat ((cert.map (·.keyId)).getD 0))
  | .secKeyHi => some (Word.ofNat ((cert.map (·.keyId)).getD 0 / 2 ^ 32))
  | .secKeyInfo => some (Word.ofNat ((cert.map fun c => pack [(c.usage, 0), (c.kind, 8)]).getD 0))
  | .secProgs => some (Word.ofNat s.loaded.length)
  | .secQuotes => some (Word.ofNat s.boot.quotes)
  | _ => none

/-- Slots that are busy: their command is in progress, or its record is held (R360, R364). -/
def Sdio.busy (x : Sdio) : List Nat := x.cmds.map (·.slot) ++ x.heldSlots

/-- What the computed registers of SDIO read (Table 15.8). -/
def State.sdioReads (s : State) (r : Reg) : Option Word :=
  let x := s.sdio
  match r with
  | .sdioMbStat =>
    let busy := (x.busy.foldl (fun (m : Word) n => m ||| Word.ofNat (2 ^ n)) 0).toNat % 2 ^ 16
    some (Word.ofNat (pack [(busy, 0), (s.rf .sdioMbStat 0 23 16, 16), (b2n !x.heldSlots.isEmpty, 24)]))
  | .sdioMbCons => some (Word.ofNat (x.ring.cons % 64))
  | .sdioTelLevel => some (Word.ofNat x.fifo.length)
  | _ => none

/-- What a register reads when its block computes it. -/
def State.computed (s : State) (r : Reg) (i j : Nat) : Option Word :=
  match r.row.base / 0x10000 with
  | 0x00 | 0x10 => s.bootReads r i
  | 0x01 => s.powerReads r
  | 0x02 => s.thermReads r
  | 0x03 => s.colReads r i
  | 0x04 => s.lockReads r i
  | 0x05 | 0x07 => s.bargeReads r i
  | 0x06 => s.xlatReads r i
  | 0x09 => s.weirReads r i
  | 0x0A => s.gridReads r i
  | 0x0B => s.planReads r i
  | 0x0C => s.timeReads r i
  | 0x0D => s.reflexReads r i
  | 0x0E => s.sdioReads r
  | 0x0F => s.towReads r i
  | 0x14 => s.faultReads r i j
  | 0x20 => s.engineReads r i
  | _ => none

/-- Registers that only take commands: they store nothing and read zero (R8). -/
def Reg.writeOnly : Reg → Bool
  | .sysRestart | .pwrReq | .colCmd | .colDoorbell | .colCons | .lockCmd | .bargeSubmit | .kvCmd | .xlatInv
  | .xlatPinOp | .weirCmd | .gridSubmit | .gridTabCmd | .planSubmit | .epochCmd | .timeEraAck | .timeOfs | .timeStepGo
  | .tcPop | .refxCmd | .sdioMbSubmit | .towCmd | .faultInj => true
  | _ => false

/-- The current value of a register. -/
def State.value (s : State) (r : Reg) (i j : Nat) : Word :=
  if r.writeOnly then 0 else (s.computed r i j).getD (s.rg r i j)

end Sys2Proof.Machine
end

