-- ==== Sys2Proof/Machine/Mailbox.lean ====
section
/-!
DEFINITION. Sys2Proof/Machine/Mailbox.lean: the commands of the mailbox (R360 to R364), attestation (R449 to R451) and telemetry (R365).
-/
namespace Sys2Proof.Machine

/-! ## The staging region (R367) -/

/-- Physical address of `n` bytes at a staging offset; none where they pass the end of the region, or the region does not
lie in the PSRAM tier. -/
def State.stagePa (s : State) (off n : Nat) : Option Nat :=
  let base := s.rf .sdioStageBase 0 18 0
  let tiles := min 4096 (s.rf .sdioStageSize 0 12 0)
  if base < 8192 || 401408 < base + tiles || tiles * 65536 < off + n then none else some (tileBase base + off)

/-- Writes bytes into the staging region, as an initiator that holds no slot: up to the first tile that refuses them (R234,
Table 9.3). Answers how many went in, and the code of a refusal, which is recorded. -/
def writeStaged (pa : Nat) (data : List Byte) : Act (Nat × Nat) := do
  let s ← Act.get
  let refused := (List.range ((pa % 65536 + data.length + 65535) / 65536)).findSome? fun i =>
    let a := max pa ((pa / 65536 + i) * 65536)
    match s.tagOutcome { ctx := 1023, stop := 0 } a true with
    | .fail code => some (a, code)
    | _ => none
  match refused with
  | none => return (data.length, ← writeTier pa data)
  | some (a, code) =>
    let _ ← writeTier pa (data.take (a - pa))
    let _ ← fault { code, block := Block.sdio, atype := 0, addr := a }
    return (a - pa, code)

/-! ## Held records, submission -/

/-- HELD_COMPLETION_WRITE: once the consumer index has advanced, the oldest held record of a ring is written (R37). -/
def execHeldCompletionWrite (ring : Ring) (s : State) : Host.Outcome State Fault Refusal :=
  Act.outcome (do
    let t ← Act.get
    match ring with
    | .host => releaseHost
    | .ctx c =>
      let c := c % 1024
      let x := t.ctx c
      match x.ring.held with
      | r :: rest =>
        if !x.ring.isFull x.desc.ringK then
          Act.modCtx c fun x => { x with ring := { x.ring with held := rest } }
          ringWrite c r
      | [] => nothing) s

/-- A write of MB_SUBMIT (R360). -/
def submitSlot (slot : Nat) : Act Nat := do
  let s ← Act.get
  let x := s.sdio
  if x.busy.contains slot then Act.countSat .sdioMbStat 0 23 16
  else
    let tmo := s.slotNat slot 8 4
    Act.make (.sdio { x with cmds := x.cmds ++ [{ slot, deadline := s.deadline tmo }] })
    turnAway 16
  return Code.ok

/-- MB_SUBMIT. -/
def execMbSubmit (who : Who) (slot : Fin 16) (s : State) : Host.Outcome State Fault Refusal :=
  Act.outcome (command who .sdioMbSubmit 0 (submitSlot slot.val)) s

/-- NOP: the payload comes back. -/
def execMbNop (slot : Fin 16) (s : State) : Host.Outcome State Fault Refusal :=
  Act.outcome (mailbox slot.val 0x0001 (do
    let t ← Act.get
    return { data := Memory.load 0 t.sdio.ram (slotBase slot.val + 0x10) (t.slotLen slot.val) })) s

/-- The INFO reply (Table 15.10). -/
def State.info (s : State) : List Byte :=
  let run := !s.boot.recovery
  let on (n : Nat) : Nat := if run then n else 0
  bytesOf 4 (s.value .sysId 0 0).toNat ++ bytesOf 4 (s.value .bootTime 0 0).toNat ++ bytesOf 8 (on s.boot.rhosonVersion) ++
  bytesOf 8 s.boot.imageVersion ++ bytesOf 4 (on (s.value .pscBacked 0 0).toNat) ++
  bytesOf 4 (on (s.value .ftlStatus 0 0).toNat) ++ bytesOf 2 (on (s.rf .refxSlice 0 15 0)) ++
  bytesOf 1 (on (s.rf .colEngLive 0 7 0)) ++
  bytesOf 1 (pack [(b2n s.boot.recovery, 0), (s.rf .bootStat 0 11 8, 1)]) ++ bytesOf 4 0

/-- INFO (R362). -/
def execMbInfo (slot : Fin 16) (s : State) : Host.Outcome State Fault Refusal :=
  Act.outcome (mailbox slot.val 0x0002 (do
    let t ← Act.get
    return { data := t.info })) s

/-- Reads staged bytes: none past the end of the region; an uncorrectable error as the reply that reports it. -/
def readStage (off n : Nat) : Act (List Byte ⊕ Reply) := do
  let s ← Act.get
  match s.stagePa off n with
  | none => return .inr { code := Code.unaligned }
  | some pa =>
    match ← readTier pa n with
    | (bytes, none) => return .inl bytes
    | (_, some (a, syn)) =>
      let t ← Act.get
      return .inr { code := Code.faultEcc, block := t.eccBlock a, atype := 0, addr := a, syn }

/-- The handle of the next program: handles rise from 1, past those in use. -/
def State.freeHandle (s : State) : Nat :=
  let n := s.nextHandle
  (((List.range 0xFFFE).map fun i => (n - 1 + i) % 0xFFFE + 1).find? fun h => (s.progs.find h).isNone).getD 0

/-- Loads a program: answers its handle (R361, R450). -/
def loadProgram (p : Program) : Act Nat := do
  let s ← Act.get
  let h := s.freeHandle
  Act.make (.prog h p)
  Act.make (.nextHandle (h + 1))
  Act.make (.boot { s.boot with events := (s.boot.events + 1) % 2 ^ 32 })
  return h

/-- The reply to LOAD_PROG. -/
def loadReply (handle check span bundle : Nat) : List Byte :=
  bytesOf 2 handle ++ bytesOf 1 check ++ bytesOf 1 span ++ bytesOf 2 bundle ++ bytesOf 2 0

/-- LOAD_PROG (R107, R361, R451). -/
def execLoadProg (slot : Fin 16) (s : State) : Host.Outcome State Fault Refusal :=
  Act.outcome (mailbox slot.val 0x0010 (do
    let t ← Act.get
    let n := slot.val
    if 1024 ≤ t.loaded.length then return { code := Code.faultXlat, data := loadReply 0xFFFF 0xFF 0 0 }
    else
      match ← readStage (t.arg n 0 8) (t.arg n 8 4) with
      | .inr r => return r
      | .inl img =>
        let binds := (List.range ((t.slotLen n - 12) / 2)).map fun i => t.arg n (12 + 2 * i) 2
        match checkImage t.boot.certs img binds with
        | .inr f =>
          if f.check = 1 then Act.countSat .secSigfail 0 31 0
          return { code := Code.faultXlat, data := loadReply 0xFFFF f.check f.span f.bundle }
        | .inl p =>
          let h ← loadProgram p
          return { data := loadReply h 0 0 0 })) s

/-- A kernel of some context runs the program. -/
def State.runsProgram (s : State) (h : Nat) : Bool := s.ctxs.any fun x => (x.2.kern.map fun k => decide (k.prog = h)).getD false

/-- UNLOAD_PROG: a handle that names no program answers FAULT_XLAT. A kernel that runs the program goes on. -/
def execUnloadProg (slot : Fin 16) (s : State) : Host.Outcome State Fault Refusal :=
  Act.outcome (mailbox slot.val 0x0011 (do
    let t ← Act.get
    let h := t.arg slot.val 0 2
    match t.program h with
    | none => return { code := Code.faultXlat }
    | some p =>
      if t.runsProgram h then Act.make (.prog h { p with gone := true }) else Act.make (.dropProg h)
      for (e, x) in t.engines do
        let runs : Bool := ((x.ctx.bind fun c => (t.ctx c).kern).map fun k => decide (k.prog = h)).getD false
        if !runs then
          let keep (l : Option Loaded) : Option Loaded := l.filter fun l => l.prog ≠ h
          Act.modEngine e fun x => { x with storeA := keep x.storeA, storeB := keep x.storeB }
      Act.make (.boot { t.boot with events := (t.boot.events + 1) % 2 ^ 32 })
      return {})) s

/-! ## Attestation (R449, R450) -/

/-- An entry of a quote. -/
def quoteEntry (type handle key version : Nat) (digest : List Byte) : List Byte :=
  bytesOf 2 type ++ bytesOf 2 handle ++ bytesOf 8 key ++ bytesOf 4 version ++ fit 64 digest

/-- The quote but for its signature (Table 20.3). -/
def State.quote (s : State) (nonce : List Byte) : List Byte :=
  let boot := s.boot.entries.map fun e => quoteEntry e.1 0 e.2.1 e.2.2.1 e.2.2.2
  let progs := s.loaded.map fun p => quoteEntry 0x10 p.1 p.2.keyId p.2.tool p.2.digest
  let len := 320 + 80 * (boot.length + progs.length) + 114
  bytesOf 4 0x514B_4843 ++ bytesOf 2 1 ++ bytesOf 2 boot.length ++ bytesOf 2 progs.length ++ bytesOf 2 0 ++
  bytesOf 4 len ++ fit 32 nonce ++ fit 64 s.boot.idPublic ++ fit 64 Config.romRoot ++ bytesOf 8 s.boot.imageVersion ++
  bytesOf 8 s.boot.rhosonVersion ++ bytesOf 4 (s.value .sysId 0 0).toNat ++ bytesOf 4 s.boot.events ++ bytesOf 8 s.fullTime ++
  bytesOf 4 (s.value .bootTime 0 0).toNat ++ bytesOf 1 (s.rf .colEngLive 0 7 0) ++
  bytesOf 1 (pack [(s.casc.id, 0), (s.casc.role, 2)]) ++ bytesOf 2 0 ++ bytesOf 4 (s.value .pscBacked 0 0).toNat ++
  List.replicate 100 0 ++ boot.flatten ++ progs.flatten

/-- ATTEST. -/
def execAttest (slot : Fin 16) (s : State) : Host.Outcome State Fault Refusal :=
  Act.outcome (mailbox slot.val 0x0020 (do
    let t ← Act.get
    let off := t.arg slot.val 32 8
    let body := t.quote (Memory.load 0 t.sdio.ram (slotBase slot.val + 0x10) 32)
    let len := body.length + 114
    if !flag (t.rg .secStat) 3 then return { code := Code.faultUnit, block := Block.sec }
    else if off % 64 ≠ 0 then return { code := Code.unaligned, block := Block.sec }
    else
      match t.stagePa off len with
      | none => return { code := Code.unaligned, block := Block.sec }
      | some pa =>
        let (_, code) ← writeStaged pa (body ++ Ed448.sign (Config.pufSeed t.boot.helper) (shake256 64 body))
        if code ≠ Code.ok then return { code, block := Block.sdio }
        else
          let u ← Act.get
          Act.make (.boot { u.boot with quotes := (u.boot.quotes + 1) % 2 ^ 32 })
          return { data := bytesOf 4 len })) s

/-! ## NOR_WRITE and TEL_CFG -/

/-- NOR_WRITE: the bytes are written and read back; where the read-back differs, what the NOR holds there is open. -/
def execNorWrite (slot : Fin 16) (verifyOk : Bool) (s : State) : Host.Outcome State Fault Refusal :=
  Act.outcome (mailbox slot.val 0x0030 (do
    let t ← Act.get
    let off := t.arg slot.val 8 4
    let n := t.arg slot.val 12 4
    match ← readStage (t.arg slot.val 0 8) n with
    | .inr r => return r
    | .inl bytes =>
      if verifyOk then
        Act.make (.nor off bytes)
        return {}
      else
        let d ← Act.draw
        Act.make (.nor off ((List.range n).map (Config.freeByte d)))
        return { code := Code.faultUnit, block := Block.nor })) s

/-- The bounds of the telemetry periods, in ms (Table 15.6). -/
def periodOk (ps : List Nat) : Bool :=
  ps.length = 3 && ps.all (· ≤ 1000) && 10 ≤ ps.getD 0 0 && 1 ≤ ps.getD 1 0 && 10 ≤ ps.getD 2 0

/-- TEL_CFG. -/
def execTelCfg (slot : Fin 16) (s : State) : Host.Outcome State Fault Refusal :=
  Act.outcome (mailbox slot.val 0x0040 (do
    let t ← Act.get
    let ps := Config.telPeriods (Memory.load 0 t.sdio.ram (slotBase slot.val + 0x10) (t.slotLen slot.val))
    if periodOk ps then
      Act.make (.sdio { t.sdio with periods := ps, telNext := ps.map fun p => t.ns + p * 10 ^ 6 })
      return {}
    else return { code := Code.unaligned })) s

/-- MAILBOX_TIMEOUT: a command that has not passed its commit point when its TMO expires ends with TIMEOUT (R363). -/
def execMailboxTimeout (slot : Fin 16) (s : State) : Host.Outcome State Fault Refusal :=
  Act.outcome (do
    let t ← Act.get
    match (t.sdio.cmds.find? fun (m : MbCmd) => m.slot = slot.val && !t.committed m).bind (·.deadline) with
    | some d =>
      if t.mailOn then
        reach d
        finish slot.val { code := Code.timeout }
        turnAway 16
    | none => nothing) s

/-! ## The consumer index (R364, R370) -/

/-- A write of MB_CONS: an index past the write index is discarded; held replies are written in the records freed. -/
def consumeHost (index : Nat) : Act Nat := do
  let s ← Act.get
  let r := s.sdio.ring
  let d := (index % 64 + 64 - r.cons % 64) % 64
  if d ≤ r.wr - r.cons then
    Act.make (.sdio { s.sdio with ring := { r with cons := r.cons + d } })
    releaseAll 64
  return Code.ok

/-- MB_CONS. -/
def execMbCons (who : Who) (index : Nat) (s : State) : Host.Outcome State Fault Refusal :=
  Act.outcome (command who .sdioMbCons 0 (consumeHost index)) s

/-! ## Telemetry (Table 15.6) -/

/-- The payload of a record of type 1, 2 or 3. -/
def State.telPayload (s : State) (type : Nat) : List Byte :=
  match type with
  | 1 => bytesOf 8 s.fullTime ++ bytesOf 1 s.power.state.code ++ bytesOf 1 (s.rf .colEngLive 0 7 0) ++
      bytesOf 1 (field (s.value .refxTriad 0 0) 10 9) ++ bytesOf 1 (field (s.value .refxTriad 1 0) 10 9) ++
      bytesOf 4 (s.value .ftlStatus 0 0).toNat ++ bytesOf 4 (s.value .pscBacked 0 0).toNat
  | 2 => bytesOf 4 (s.rf .pwrVin 0 15 0) ++ bytesOf 4 (s.rf .pwrIin 0 15 0) ++ bytesOf 4 (s.rf .pwrMeas 0 15 0 * 100) ++
      bytesOf 4 (s.rf .pwrBudget 0 11 0 * 1000)
  | _ => bytesOf 2 (s.rf .thermHot 0 15 0) ++ bytesOf 4 (s.rg .thermCool).toNat ++ bytesOf 1 (s.rf .thermStat 0 9 9)

/-- TELEMETRY_TICK: the period of a record type ends. -/
def execTelemetryTick (type : Fin 4) (s : State) : Host.Outcome State Fault Refusal :=
  Act.outcome (do
    let t ← Act.get
    if t.awake && type.val ≠ 0 then
      let i := type.val - 1
      reach (t.sdio.telNext.getD i 0)
      let u ← Act.get
      telemetry type.val (u.telPayload type.val)
      let v ← Act.get
      let p := v.sdio.periods.getD i 100 * 10 ^ 6
      let next := max (v.sdio.telNext.getD i 0 + p) (v.ns + 1)
      Act.make (.sdio { v.sdio with telNext := v.sdio.telNext.set i next })) s

end Sys2Proof.Machine
end

