-- ==== Sys2Proof/Machine/Time.lean ====
section
/-!
DEFINITION. Sys2Proof/Machine/Time.lean: the 500 MHz clock when no command waits.
-/
namespace Sys2Proof.Machine

/-- Units of 2^−32 ns that one 2 ns tick adds: 2 ns and TIME_ADJ (R337). -/
def State.tickUnits (s : State) : Nat := (2 * 2 ^ 32 + (s.rg .timeAdj).toInt).toNat

/-- One tick of the 500 MHz clock: waits that have timed out end (R201), and a power-state entry in progress goes on
(R415). -/
def idleTick (s : State) : Host.Outcome State Fault Refusal :=
  Act.outcome (settled (do
    let t ← Act.get
    passUnits t.tickUnits
    expireWaits
    advanceEntry)) s

end Sys2Proof.Machine
end

