-- ==== Sys2Proof/Machine/Registers.lean ====
section
/-!
DEFINITION. Sys2Proof/Machine/Registers.lean: reads and writes of control registers by address (R6 to R9): what an access
code does, the latches of 64-bit pairs, and for each register with a command or a rule of its own, that.
-/
namespace Sys2Proof.Machine

/-! ## Reads (R8, R9) -/

/-- The _HI register of a 64-bit pair, by its _LO register. ETH_m_RULE_k counts as one, which R292 does not say (log
entry 202). -/
def Reg.high : Reg → Option Reg
  | .bootVerLo => some .bootVerHi
  | .colDescLo => some .colDescHi
  | .colAcctLo => some .colAcctHi
  | .bargeDescLo => some .bargeDescHi
  | .kvPtabLo => some .kvPtabHi
  | .xlatSplitLo => some .xlatSplitHi
  | .gridDescLo => some .gridDescHi
  | .gridTabLo => some .gridTabHi
  | .gridExclLo => some .gridExclHi
  | .planDescLo => some .planDescHi
  | .epochVaLo => some .epochVaHi
  | .planCurLo => some .planCurHi
  | .planOldLo => some .planOldHi
  | .planNodeLo => some .planNodeHi
  | .watchVaLo => some .watchVaHi
  | .watchDescLo => some .watchDescHi
  | .timeNowLo => some .timeNowHi
  | .timeStepLo => some .timeStepHi
  | .toStartLo => some .toStartHi
  | .tcHeadLo => some .tcHeadHi
  | .ptpLo => some .ptpHi
  | .refxSlotLo => some .refxSlotHi
  | .towCtxPageLo => some .towCtxPageHi
  | .secIdLo => some .secIdHi
  | .secKeyLo => some .secKeyHi
  | .ethRuleLo => some .ethRuleHi
  | .faultInjLo => some .faultInjHi
  | _ => none

/-- What a read of `_LO` latches: its `_HI`, and with REFX_SLOT_LO also SLOT_TIME (Table 10.10). -/
def Reg.latched (r : Reg) : List Reg := r.high.toList ++ (if r = .refxSlotLo then [.refxSlotTime] else [])

/-- An initiator's latch of instance (i, j) of a register. -/
def latchKey (who : Who) (r : Reg) (i j : Nat) : Nat := r.off i j * 16 + who.val

/-- What a read by `who` returns: its latch of a `_HI` register, if it has read `_LO`; else the current value. -/
def State.readBy (s : State) (who : Who) (r : Reg) (i j : Nat) : Word :=
  (s.latches.find (latchKey who r i j)).getD (s.value r i j)

/-- A read clears the RC fields; what was recorded in the same cycle, `hw`, stays (R8). -/
def clearRead (r : Reg) (i j : Nat) (hw : Word) : Act Unit := do
  let s ← Act.get
  let rc := r.row.rc
  if rc ≠ 0 then
    Act.regAt r i j ((s.rg r i j &&& ~~~rc) ||| (hw &&& rc))
    match r with
    | .pscChStat =>
      let ch := s.rf .pscChSel 0 6 0
      Act.make (.psram ch { s.psram.at ch {} with crcRetry := field hw 15 0, corr := field hw 31 16 })
    | .refxLeashOvr => Act.modLeash (s.rf .refxLeashSel 0 3 0) fun l => { l with ovr := hw.toNat }
    | _ => nothing

/-- A read of a register: its value, then what the read does. -/
def readRegister (who : Who) (r : Reg) (i j : Nat) (hw : Word) : Act Word := do
  let s ← Act.get
  for h in r.latched do Act.make (.latch (latchKey who h i j) (s.value h i j))
  clearRead r i j hw
  if r = .bootSeeds then
    let ch := s.rf .bootSeedsSel 0 6 0
    let ws := s.seedWords ch
    Act.make (.boot { s.boot with seeds := s.boot.seeds.put ch (ws.drop 1 ++ ws.take 1) })
  return s.readBy who r i j

/-- A read at an address of the bus; a discarded one, and one of a reserved address, gives no data but zero (R6, R7). -/
def readAt (who : Who) (addr size : Nat) (hw : Word) : Act (Nat × Word) := do
  let s ← Act.get
  let code := s.accessCode who false addr size
  if code = Code.ok then
    match Reg.lookup (addr - controlBase) with
    | some (r, i, j) =>
      let w ← readRegister who r i j hw
      return (code, w)
    | none => return (code, 0)
  else return (code, 0)

/-- READ_CLEAR (R8). -/
def execReadClear (who : Who) (addr size : Nat) (hw : Word) (s : State) : Host.Outcome State Fault Refusal :=
  Act.outcome (do
    let t ← Act.get
    if t.reachable then
      let (code, w) ← readAt who addr size hw
      Act.bus who code w) s

/-- READ_LO (R9). -/
def execReadLo (who : Who) (addr size : Nat) (s : State) : Host.Outcome State Fault Refusal :=
  Act.outcome (do
    let t ← Act.get
    if t.reachable then
      let (code, w) ← readAt who addr size 0
      Act.bus who code w) s

/-! ## Writes (R8) -/

/-- What a register holds after a write: RW bits as written, W1C bits cleared by a 1 unless the hardware sets them in the
same cycle (`hw`), every other bit as it was. -/
def Reg.written (r : Reg) (old value hw : Word) : Word :=
  let w := r.row
  (old &&& ~~~(w.rw ||| w.w1c)) ||| (value &&& w.rw) ||| (old &&& w.w1c &&& ~~~value) ||| (hw &&& w.w1c)

/-- A write by the access code alone. -/
def plainWrite (r : Reg) (i j : Nat) (value hw : Word) : Act Nat := do
  let s ← Act.get
  Act.regAt r i j (r.written (s.rg r i j) value hw)
  return Code.ok

/-- A write whose value the register's own rule takes; else it is discarded. -/
def writeIf (ok : Bool) (r : Reg) (i j : Nat) (value hw : Word) (code : Nat := Code.ok) : Act Nat :=
  if ok then plainWrite r i j value hw else pure code

/-- A write that switches a port on powers its domain (R412). -/
def writePort (domain : Nat) (r : Reg) (i j : Nat) (value hw : Word) : Act Nat := do
  if flag value 0 then Act.setBit3 .pwrDom domain true
  plainWrite r i j value hw

/-- The address an initiator's LO and HI registers hold. -/
def State.addressIn (s : State) (lo hi : Reg) (i : Nat) : Nat := (s.rg lo i).toNat + s.rf hi i 15 0 * 2 ^ 32

/-- Writes of PWR. -/
def writePower (r : Reg) (i j : Nat) (value hw : Word) : Act Nat := do
  let s ← Act.get
  match r with
  | .pwrReq =>
    match field value 2 0 with
    | 0 => requestRun
    | 1 =>
      let d ← Act.draw
      requestState .idle (Config.stewardsBusy d)
    | 2 => requestState .sleep 0
    | 3 => requestState .deep 0
    | 4 => requestOff (field value 31 16)
    | _ => return Code.ok
  | .pwrBudget => writeBudget value
  | .pwrWakeEn => plainWrite r i j (value ||| 1) hw
  | .pwrIdleAuto => writeIf (field value 16 1 ≠ 0) r i j value hw
  | .pwrRetain =>
    if s.power.entering.isSome then return Code.faultXlat
    else writeIf (((List.range 32).filter (flag value)).length ≤ 4) r i j value hw
  | .pwrModmax =>
    let w := field value 8 0
    let held := if 0 < s.power.phasesLost then min 400 w else w
    writeIf (100 ≤ w && w ≤ 450) r i j (Word.ofNat held) hw
  | _ => plainWrite r i j value hw

/-- Writes of COL, LOCK and BARGE. -/
def writeWork (who : Who) (r : Reg) (i j : Nat) (value hw : Word) : Act Nat := do
  let s ← Act.get
  match r with
  | .colCmd => colCommand (field value 2 0) (field value 25 16)
  | .colDoorbell => ringDoorbell (field value 9 0) (field value 31 16)
  | .colCons => consumeRing (field value 9 0) (field value 31 16)
  | .colSel => selectContext value
  | .lockCmd => lockCommand who value
  | .bargeSubmit => submitBarge who (field value 9 0) (s.addressIn .bargeDescLo .bargeDescHi who.val)
  | _ => plainWrite r i j value hw

/-- Writes of XLAT; the mirror range changes only while no context but 1,023 exists (R243). -/
def writeXlat (who : Who) (r : Reg) (i j : Nat) (value hw : Word) : Act Nat := do
  let s ← Act.get
  match r with
  | .kvCmd => kvWrite who value
  | .xlatInv => startInv who value
  | .xlatPinOp => pinCommand value
  | .xlatMirrorBase | .xlatMirrorSize =>
    writeIf (s.ctxs.all fun x => x.1 = 1023 || x.2.st = .free) r i j value hw Code.faultXlat
  | _ => plainWrite r i j value hw

/-- Writes of WEIR, ETH and CSI, and of the ports beside CAN. -/
def writeIngress (who : Who) (r : Reg) (i j : Nat) (value hw : Word) : Act Nat := do
  match r with
  | .weirQBase | .weirQSize => writeQueueRegion r i value
  | .weirQCfg => writeQueueCfg i value
  | .weirFcPol =>
    let s ← Act.get
    Act.make (.ports { s.ports with fcDriven := true })
    plainWrite r i j value hw
  | .weirCmd => weirCommand who (field value 2 0) (field value 8 3) (field value 31 16)
  | .csiCfg => writePort (88 + i / 6) r i j value hw
  | .weirQHigh | .weirQLow =>
    let code ← plainWrite r i j value hw
    watermarkNow i
    return code
  | .ethIng =>
    let code ← writeRoute r i j value
    if flag value 0 && code = Code.ok then Act.setBit3 .pwrDom (90 + i / 4) true
    return code
  | .spiIng =>
    let code ← writeRoute r i j value
    let s ← Act.get
    if code = Code.ok then Act.make (.ports { s.ports with spiNext := s.ports.spiNext.drop i })
    return code
  | .csiRoute | .ethRuleLo | .ethRuleHi | .uartIng => writeRoute r i j value
  | _ => plainWrite r i j value hw

/-- Writes of GRID and PLAN; the voxel tree's place and pool change only before the first epoch (R336). -/
def writeMaps (who : Who) (r : Reg) (i j : Nat) (value hw : Word) : Act Nat := do
  let s ← Act.get
  match r with
  | .gridSubmit => submitGrid who (field value 9 0) (s.addressIn .gridDescLo .gridDescHi who.val)
  | .gridTabCmd => tableCommand who value
  | .gridAlignDelta => writeDelta i value
  | .planSubmit =>
    let va := s.addressIn .planDescLo .planDescHi who.val
    if flag value 10 then update who (field value 9 0) va else submitPlan who (field value 9 0) va
  | .epochCmd =>
    match field value 2 0 with
    | 1 => openCommand who
    | 2 => layersCommand who
    | 3 => dirtyCommand who
    | 4 => publishCommand who
    | 5 => abandonCommand who
    | _ => return Code.ok
  | .planOrigin => writeIf (s.current.num = 0 && s.plan.openEpoch.isNone) r i j value hw
  | .planNodeLo | .planNodeHi | .planNodeCount =>
    if s.current.num = 0 && s.plan.openEpoch.isNone then
      Act.modPlan fun p => { p with nextNode := 1, freeNodes := [] }
      plainWrite r i j value hw
    else return Code.ok
  | _ => plainWrite r i j value hw

/-- Writes of TIME and REFX. -/
def writeTiming (who : Who) (r : Reg) (i j : Nat) (value hw : Word) : Act Nat := do
  let s ← Act.get
  match r with
  | .timeEraAck => foldWraps (field value 1 0)
  | .timeCfg => writeTimeCfg value
  | .timeOfs => offsetSample value
  | .timeStepGo =>
    if flag value 0 then stepTime (signed 64 ((s.rg .timeStepLo).toNat + (s.rg .timeStepHi).toNat * 2 ^ 32))
    return Code.ok
  | .toCfg =>
    let code ← writeToCfg i value
    if flag hw 4 then Act.regField .toCfg i 4 4 1
    return code
  | .toStartLo | .toStartHi | .toPeriod | .toFrac | .toWidth => writeTimed r i value
  | .tcPop => if flag value 0 then popCapture i else return Code.ok
  | .ptpPop => popPtp i
  | .refxTriad => writeTriad i value
  | .refxCmd => reflexCommand who (field value 2 0) (field value 19 16)
  | _ => plainWrite r i j value hw

/-- The start that a restart or a wake from Off asks for: the device is as in Off until it comes (R388). The refuser log
stands in an always-on domain (Table 18.2). -/
def restartNow : Act Unit := do
  let s ← Act.get
  enterOff
  let t ← Act.get
  Act.make (.boot { t.boot with startDue := true })
  for i in List.range 4 do Act.reg .pwrRefused i (s.rg .pwrRefused i)
  Act.reg .pwrLogHead 0 (s.rg .pwrLogHead)
  for i in List.range 16 do
    Act.reg .pwrLog i (s.rg .pwrLog i)
    Act.reg .pwrLogTime i (s.rg .pwrLogTime i)

/-- Writes of the other windows. -/
def writeOther (r : Reg) (i j : Nat) (value hw : Word) : Act Nat := do
  let s ← Act.get
  match r with
  | .sysRestart =>
    if field value 15 0 = 0xC0DE then restartNow
    return Code.ok
  | .bootSeedsSel =>
    Act.make (.boot { s.boot with seeds := s.boot.seeds.drop (field value 6 0) })
    plainWrite r i j value hw
  | .sdioMbSubmit => submitSlot (field value 3 0)
  | .sdioMbCons => consumeHost (field value 5 0)
  | .sdioTelThresh => writeIf (1 ≤ field value 8 0 && field value 8 0 ≤ 256) r i j value hw
  | .towCtx => writeMask value
  | .towCtxPageLo => writePage false value
  | .towCtxPageHi => writePage true value
  | .towCmd =>
    let m : Fin 4 := Fin.ofNat 4 (field value 3 2)
    towCommand (match field value 1 0 with
      | 1 => leaveModule m
      | 2 => joinModule m
      | 3 => handOver
      | _ => nothing)
  | .faultTail => writeTail (field value 7 0)
  | .faultThresh =>
    let one (n : Nat) : Nat := max 1 n
    plainWrite r i j (Word.ofNat (pack [(one (field value 7 0), 0), (one (field value 15 8), 8)])) hw
  | .faultInj => writeInject (field value 1 0) (field value 8 2)
  | _ => plainWrite r i j value hw

/-- A write of a register: its command or its rule, by block. -/
def writeRegister (who : Who) (r : Reg) (i j : Nat) (value hw : Word) : Act Nat :=
  match r.row.base / 0x10000 with
  | 0x01 => writePower r i j value hw
  | 0x03 | 0x04 | 0x05 => writeWork who r i j value hw
  | 0x06 => writeXlat who r i j value hw
  | 0x09 | 0x11 | 0x12 | 0x13 => writeIngress who r i j value hw
  | 0x0A | 0x0B => writeMaps who r i j value hw
  | 0x0C | 0x0D => writeTiming who r i j value hw
  | _ => writeOther r i j value hw

/-- A write at an address of the bus: discarded where its code is not OK; a reserved address ignores it (R6, R7). -/
def writeAt (who : Who) (addr size : Nat) (value hw : Word) : Act Nat := do
  let s ← Act.get
  let code := s.accessCode who true addr size
  if code = Code.ok then
    match Reg.lookup (addr - controlBase) with
    | some (r, i, j) => writeRegister who r i j value hw
    | none => return code
  else return code

/-- REGISTER_WRITE (R8). -/
def execRegisterWrite (who : Who) (addr size : Nat) (value hw : Word) (s : State) : Host.Outcome State Fault Refusal :=
  Act.outcome (settled (do
    let t ← Act.get
    if t.reachable then
      let code ← writeAt who addr size value hw
      Act.bus who code)) s

end Sys2Proof.Machine
end

