-- ==== Sys2Proof/Machine/Sdio.lean ====
section
/-!
DEFINITION. Sys2Proof/Machine/Sdio.lean: the SDIO device: bus commands, the CCCR fields it uses, and the three functions'
transfers (R355 to R359, R365 to R370).
-/
namespace Sys2Proof.Machine

def Act.modSdio (f : Sdio → Sdio) : Act Unit := do
  let s ← Act.get
  Act.make (.sdio (f s.sdio))

/-- What the device answers to a command, or the data of a read. -/
def reply (bs : List Byte) : Act Unit := Act.modSdio fun x => { x with reply := bs }

/-- Bytes the spec does not state. -/
def freeBytes (n : Nat) : Act (List Byte) := do
  let d ← Act.draw
  return (List.range n).map (Config.freeByte d)

/-! ## Interrupts (R368) -/

/-- The function 1 interrupt is raised. -/
def State.interrupt1 (s : State) : Bool := s.rg .sdioIntStat &&& s.rg .sdioIntEn &&& 7 ≠ 0

/-- The function 2 interrupt is raised. -/
def State.interrupt2 (s : State) : Bool := s.rf .sdioTelThresh 0 8 0 ≤ s.sdio.fifo.length

/-- DAT[1] signals an interrupt: IENM and the function's enable are set (Table 15.2). -/
def State.dat1 (s : State) : Bool :=
  flag s.sdio.ien 0 && ((flag s.sdio.ien 1 && s.interrupt1) || (flag s.sdio.ien 2 && s.interrupt2))

/-! ## CMD5, CMD11 and CMD19 (R355, R356) -/

/-- CMD5: R4 with the ready bit, three functions, no memory and S18A; the OCR bits are the standard's. A start that has begun
and not ended answers C = 0; in Off and in Deep sleep nothing answers. -/
def execCmd5 (s : State) : Host.Outcome State Fault Refusal :=
  Act.outcome (do
    let t ← Act.get
    if t.reachable || (t.boot.startDue && !t.boot.dead) then
      let d ← Act.draw
      reply (bytesOf 4 (pack [((Config.freeWord d).toNat % 2 ^ 24, 0), (1, 24), (3, 28), (b2n (t.reachable && t.sdio.ready), 31)]))
      Act.modSdio fun x => { x with s18a := true }
    else reply []) s

/-- CMD11 succeeds, and changes no level. -/
def execCmd11 (s : State) : Host.Outcome State Fault Refusal :=
  Act.outcome (do
    let t ← Act.get
    if t.reachable then
      let bs ← freeBytes 4
      reply bs
    else reply []) s

/-- CMD19: tuning, in SDR50 and SDR104; the tuning block is the standard's. -/
def execCmd19 (s : State) : Host.Outcome State Fault Refusal :=
  Act.outcome (do
    let t ← Act.get
    if t.reachable && 2 ≤ t.sdio.speed then
      let bs ← freeBytes 64
      reply bs
      Act.modSdio fun x => { x with tuned := true }
    else reply []) s

/-! ## Function 1 (R358, R359) -/

/-- An access fault of the host link: CODE, COUNT and INT_STAT.WIN (Table 15.8). -/
def linkFault : Act Unit := do
  Act.regField .sdioWinStatus 0 7 0 Code.unaligned
  Act.countSat .sdioWinStatus 0 15 8
  Act.regField .sdioIntStat 0 2 2 1

/-- CMD52_WIN: SDIO_WIN.WIN as one byte. -/
def execCmd52Win (write : Bool) (value : Byte) (s : State) : Host.Outcome State Fault Refusal :=
  Act.outcome (do
    let t ← Act.get
    if t.reachable then
      if write then Act.reg .sdioWin 0 (Word.ofNat value.toNat)
      let u ← Act.get
      reply [BitVec.ofNat 8 (u.rf .sdioWin 0 7 0)]) s

/-- The control-space address behind a function 1 address, under a window number: the host-link registers and the
aperture (Table 15.3). -/
def controlOf (a win : Nat) : Option Nat :=
  if a < 0x100 then some (controlBase + 0xE_0000 + a)
  else if 0x1_0000 ≤ a then some (controlBase + win * 0x1_0000 + (a - 0x1_0000))
  else none

/-- Function 1 memory: the ring, the slots and the reply buffers. -/
def inRam (a : Nat) : Bool := (0x800 ≤ a && a < 0x5000) || (0x8000 ≤ a && a < 0x1_0000)

/-- One word written at a function 1 address. The host writes the slots; the ring and the reply buffers are the device's
to write. -/
def writeWord (a win : Nat) (value : Word) : Act Unit := do
  match controlOf a win with
  | some pa =>
    let _ ← writeAt Who.host pa 4 value 0
    nothing
  | none => if 0x1000 ≤ a ∧ a < 0x5000 then Act.make (.ram a (bytesOf 4 value.toNat))

/-- One word read at a function 1 address. -/
def readWord (a win : Nat) : Act Word := do
  match controlOf a win with
  | some pa =>
    let (_, w) ← readAt Who.host pa 4 0
    return w
  | none =>
    let s ← Act.get
    return if inRam a then Word.ofNat (natOf (Memory.load 0 s.sdio.ram a 4)) else 0

/-- The address of word `k` of a transfer. -/
def wordAddr (fixed : Bool) (addr k : Nat) : Nat := (if fixed then addr else addr + 4 * k) % 0x2_0000

/-- The whole words of the bytes received take effect in turn. -/
def writeWords (fixed : Bool) (addr win : Nat) (data : List Byte) : Act Unit := do
  for k in List.range (data.length / 4) do
    writeWord (wordAddr fixed addr k) win (Word.ofNat (natAt data (4 * k) 4))

/-- CMD53 of function 1. Of a write, `data` is what has come in whole words; a write that is still to end stays open. -/
def execCmd53 (write fixed : Bool) (addr len : Nat) (data : List Byte) (s : State) : Host.Outcome State Fault Refusal :=
  Act.outcome (settled (do
    let t ← Act.get
    if t.reachable && len ≤ 511 * 512 then
      let win := t.rf .sdioWin 0 7 0
      Act.modSdio fun x => { x with transfer := none }
      if addr % 4 ≠ 0 || len % 4 ≠ 0 then
        linkFault
        reply (if write then [] else List.replicate len 0)
      else if write then
        writeWords fixed addr win (data.take len)
        if data.length < len then
          Act.modSdio fun x => { x with transfer := some (1, fixed, wordAddr fixed addr (data.length / 4), win) }
        reply []
      else
        let mut out : List Byte := []
        for k in List.range (len / 4) do
          let w ← readWord (wordAddr fixed addr k) win
          out := out ++ bytesOf 4 w.toNat
        reply out)) s

/-! ## Function 2 (R365) -/

/-- TELEMETRY_READ: records from the FIFO, then fill records. What a read that is no multiple of 128 bytes gives is open, and
it takes nothing. -/
def execTelemetryRead (len : Nat) (s : State) : Host.Outcome State Fault Refusal :=
  Act.outcome (do
    let t ← Act.get
    if t.reachable && len ≤ 511 * 512 then
      if len % 128 ≠ 0 then
        let bs ← freeBytes len
        reply bs
      else
        let n := len / 128
        let got := t.sdio.fifo.take n
        let fill ← freeBytes 127
        Act.modSdio fun x => { x with fifo := x.fifo.drop n }
        reply (got.flatten ++ (List.replicate (n - got.length) (0 :: fill)).flatten)) s

/-! ## Function 3 (R367) -/

/-- Moves bytes to the staging region at STAGE_PTR, and advances it. -/
def stageBytes (data : List Byte) : Act Unit := do
  let s ← Act.get
  let ptr := s.rf .sdioStagePtr 0 27 0
  match s.stagePa ptr data.length with
  | some pa =>
    let (n, _) ← writeStaged pa data
    Act.reg .sdioStagePtr 0 (Word.ofNat ((ptr + n) % 2 ^ 28))
  | none => linkFault

/-- STAGING_TRANSFER. A read that meets an uncorrectable error is recorded; its data are open. -/
def execStagingTransfer (write : Bool) (len : Nat) (data : List Byte) (s : State) : Host.Outcome State Fault Refusal :=
  Act.outcome (settled (do
    let t ← Act.get
    if t.reachable && len ≤ 511 * 512 then
      Act.modSdio fun x => { x with transfer := none }
      let ptr := t.rf .sdioStagePtr 0 27 0
      match t.stagePa ptr len with
      | none =>
        linkFault
        let bs ← freeBytes len
        reply (if write then [] else bs)
      | some pa =>
        if write then
          stageBytes (data.take len)
          if data.length < len then Act.modSdio fun x => { x with transfer := some (3, true, 0, 0) }
          reply []
        else
          Act.reg .sdioStagePtr 0 (Word.ofNat ((ptr + len) % 2 ^ 28))
          match ← readTier pa len with
          | (bytes, none) => reply bytes
          | (_, some (a, syn)) =>
            let u ← Act.get
            let seq ← fault { code := Code.faultEcc, block := u.eccBlock a, atype := 0, addr := a, syn }
            countUncorrectable a seq
            let bs ← freeBytes len
            reply bs)) s

/-! ## The CCCR (Table 15.2) -/

/-- IOE bits 1 to 3; IOR follows within 100 µs. -/
def enableFunctions (ioe : Byte) : Act Unit := Act.modSdio fun x => { x with ioe := ioe &&& 0x0E, ior := ioe &&& 0x0E }

/-- FUNCTION_ENABLE (R356). -/
def execFunctionEnable (ioe : Byte) (s : State) : Host.Outcome State Fault Refusal :=
  Act.outcome (do
    let t ← Act.get
    if t.reachable then enableFunctions ioe) s

/-- An abort of the CMD53 of function `f` in progress: what it had received, `kept`, takes effect in whole words of function
1, or in bytes of function 3 (R370). -/
def abortTransfer (f : Nat) (kept : List Byte) : Act Unit := do
  let s ← Act.get
  match s.sdio.transfer with
  | some (g, fixed, addr, win) =>
    if g = f then
      Act.modSdio fun x => { x with transfer := none }
      if f = 1 then writeWords fixed addr win kept else stageBytes kept
  | none => nothing

/-- ABORT. -/
def execSdioAbort (f : Fin 8) (kept : List Byte) (s : State) : Host.Outcome State Fault Refusal :=
  Act.outcome (settled (do
    let t ← Act.get
    if t.reachable then abortTransfer f.val kept)) s

/-- A write of RES: the host link as after start-up. Held records are written into the emptied ring (R357). -/
def resetLink : Act Unit := do
  Act.make (.ram hostRing (List.replicate 2048 0))
  Act.modSdio fun x => { x with
    ioe := 0, ior := 0, ien := 0, busWidth := 0, speed := 0, driverA := false, sai := false, tuned := false
    transfer := none, fifo := [], ring := { x.ring with wr := 0, cons := 0 } }
  Act.reg .sdioWin 0 0
  releaseAll 16

/-- RES. -/
def execSdioRes (s : State) : Host.Outcome State Fault Refusal :=
  Act.outcome (do
    let t ← Act.get
    if t.reachable then resetLink) s

/-- CCCR_WRITE: a CMD52 to function 0. Values that Table 15.2 does not take change nothing. -/
def execCccrWrite (addr : Nat) (value : Byte) (s : State) : Host.Outcome State Fault Refusal :=
  Act.outcome (settled (do
    let t ← Act.get
    if t.reachable then
      match addr with
      | 0x02 => enableFunctions value
      | 0x04 => Act.modSdio fun x => { x with ien := value &&& 0x07 }
      | 0x06 => if flag value 3 then resetLink else abortTransfer (field value 2 0) []
      | 0x07 =>
        let w := field value 1 0
        if w = 0 || w = 2 then Act.modSdio fun x => { x with busWidth := w }
      | 0x13 =>
        let b := field value 3 1
        if b ≤ 3 then Act.modSdio fun x => { x with speed := b }
      | 0x15 =>
        let d := field value 5 4
        if d ≤ 1 then Act.modSdio fun x => { x with driverA := d = 1 }
      | 0x16 => Act.modSdio fun x => { x with sai := flag value 1 }
      | _ => nothing)) s

end Sys2Proof.Machine
end

