-- ==== Sys2Proof/Machine/Startup.lean ====
section
/-!
DEFINITION. Sys2Proof/Machine/Startup.lean: a start: the configuration image, its checks, the units it leaves, and the
sections it applies (R372 to R389, R439 to R448), and the commands that bring one about.
-/
namespace Sys2Proof.Machine

/-- A start that ends in recovery: REASON and SECTION of Table 16.7, and the stage it ended in. -/
structure StartFail where
  reason : Nat
  stage : Nat
  place : Nat := 0
  deriving DecidableEq, Repr

/-! ## The image (R377, R378) -/

/-- Bytes of the boot NOR. -/
def State.norBytes (s : State) (off n : Nat) : List Byte := Memory.load 0xFF s.nor off n

/-- Section types (Table 16.3). -/
abbrev Sec.enables : Nat := 0x0101
abbrev Sec.trainseed : Nat := 0x0102
abbrev Sec.layout : Nat := 0x0103
abbrev Sec.puf : Nat := 0x0104
abbrev Sec.certs : Nat := 0x0105
abbrev Sec.rhoson : Nat := 0x0106
abbrev Sec.ports : Nat := 0x0107
abbrev Sec.cascade : Nat := 0x0108
abbrev Sec.power : Nat := 0x0109
abbrev Sec.steward : Nat := 0x010A
abbrev Sec.programs : Nat := 0x010B
abbrev Sec.signature : Nat := 0x01FF

/-- The content of the section of a type; empty where the image has none. -/
def contentOf (img : List Byte) (xs : List Section) (type : Nat) : List Byte :=
  match xs.find? fun x => x.type = type with
  | some x => x.of img
  | none => []

/-- The image has a section of a type. -/
def hasSection (xs : List Section) (type : Nat) : Bool := xs.any fun x => x.type = type

/-- Bits [hi:lo] of the number of `n` bytes at `off`. -/
def bitsOfAt (b : List Byte) (off n hi lo : Nat) : Nat := natAt b off n / 2 ^ lo % 2 ^ (hi + 1 - lo)

/-- Every byte from `off` on, of `n`, is zero. -/
def zeroAt (b : List Byte) (off n : Nat) : Bool := natAt b off n = 0

/-- Header and bounds (Table 16.2): `h` is the header. -/
def headerFail (h : List Byte) (part stepping : Nat) : Option StartFail :=
  if natAt h 0 4 ≠ 0x434B_4843 then some { reason := 1, stage := 2 }
  else if natAt h 4 2 ≠ 1 || natAt h 6 2 ≠ 0 || natAt h 8 4 < 64 || 2 ^ 27 < natAt h 8 4 || !zeroAt h 0x19 39 then
    some { reason := 3, stage := 2 }
  else if natAt h 0x0E 2 ≠ part || natAt h 0x18 1 ≠ stepping then some { reason := 5, stage := 2 }
  else none

/-! ## ENABLES (Table 16.4) -/

/-- What ENABLES retires and names. -/
structure Enables where
  eng : BitVec 8 := 0
  slices : BitVec 8 := 0
  nand : BitVec 4 := 0
  psc : BitVec 96 := 0
  tow : BitVec 24 := 0
  triads : List (List Nat) := [[0, 1, 2], [4, 5, 6]]
  rows : List Nat := []
  deriving DecidableEq, Repr

/-- The members of a triad, three bits each. -/
def threeOf (n : Nat) : List Nat := [n % 8, n / 8 % 8, n / 64 % 8]

/-- The section's content as it is laid out. -/
def Enables.of (b : List Byte) : Enables :=
  { eng := BitVec.ofNat 8 (natAt b 0 1), slices := BitVec.ofNat 8 (natAt b 1 1), nand := BitVec.ofNat 4 (natAt b 2 1)
    psc := BitVec.ofNat 96 (natAt b 8 12), tow := BitVec.ofNat 24 (natAt b 0x14 3)
    triads := [threeOf (natAt b 4 2), threeOf (natAt b 6 2)]
    rows := (entries 8 (natAt b 0x18 2) (b.drop 0x20)).map natOf }

def enablesOk (b : List Byte) : Bool :=
  0x20 ≤ b.length && natAt b 0x18 2 ≤ 256 && b.length = 0x20 + 8 * natAt b 0x18 2 && bitsOfAt b 2 1 7 4 = 0 && zeroAt b 3 1 &&
  bitsOfAt b 4 4 15 9 = 0 && bitsOfAt b 4 4 31 25 = 0 && zeroAt b 0x17 1 && zeroAt b 0x1A 6 &&
  (entries 8 256 (b.drop 0x20)).all fun r => natOf r < 2 ^ 48

/-! ## Formats of the other sections -/

/-- Offsets that a PORTS entry may address (R381). -/
def portsOffset (o : Nat) : Bool :=
  match o / 0x10000 with
  | 0x09 | 0x0A | 0x11 | 0x12 | 0x13 => true
  | 0x0C => match Reg.lookup o with
    | some (r, _, _) => [Reg.toCfg, .toStartLo, .toStartHi, .toPeriod, .toFrac, .toWidth, .toLast, .tcCfg, .tcHeadLo, .tcHeadHi,
        .tcStat, .tcPop, .macAdj].contains r
    | none => false
  | _ => o = 0x10

/-- COUNT and the length of CERTS (R442). -/
def certsOk (b : List Byte) : Bool :=
  let n := natAt b 0 1
  1 ≤ n && n ≤ 4 && zeroAt b 1 7 && b.length = 72 + 256 * n

/-- A section's content has its format; `own` is the module's ID. -/
def contentOk (own type : Nat) (b : List Byte) : Bool :=
  match type with
  | 0x0101 => enablesOk b
  | 0x0102 => b.length = 96 * 64
  | 0x0103 => b.length = 64 && natAt b 0 2 ≤ 4096 && natAt b 2 2 ≤ 32768 && zeroAt b 12 52
  | 0x0104 => b.length = 16 + 4096 && natAt b 0 2 = 1 && natAt b 2 2 ≤ 1 && zeroAt b 4 4
  | 0x0105 => certsOk b
  | 0x0106 => b.length = 12 + natAt b 8 4 + 114
  | 0x0107 => b.length % 8 = 0 && (entries 8 b.length b).all fun e => natAt e 3 1 = 0 && portsOffset (natAt e 0 3)
  | 0x0108 => b.length = 8 && bitsOfAt b 0 4 31 5 = 0 && zeroAt b 6 2 && (natAt b 4 2 = 0 || (100 ≤ natAt b 4 2 && natAt b 4 2 ≤ 2000)) &&
      (bitsOfAt b 0 1 4 4 = 0 || natAt b 0 1 / 2 ^ own % 2 = 1)
  | 0x0109 => b.length = 64 && zeroAt b 5 59 && (natAt b 0 2 = 0 || (40 ≤ natAt b 0 2 && natAt b 0 2 ≤ 1800)) &&
      (natAt b 2 2 = 0 || (100 ≤ natAt b 2 2 && natAt b 2 2 ≤ 450)) && natAt b 4 1 ≤ 50
  | 0x01FF => b.length = 122
  | _ => true

/-- The types of Table 16.3. -/
def knownSection (t : Nat) : Bool := (0x0101 ≤ t && t ≤ 0x010B) || t = 0x01FF

/-- A section that R377 and R378 reject, as it stands at place `i`. -/
def badSection (img : List Byte) (own : Nat) (xs : List Section) (x : Section) (i : Nat) : Bool :=
  x.flags % 2 ^ 15 ≠ 0 || (!knownSection x.type && x.flags < 2 ^ 15) ||
  (x.type ≠ Sec.programs && knownSection x.type && hasSection (xs.take i) x.type) ||
  (x.type = Sec.enables && i ≠ 0) || (x.type = Sec.trainseed && i ≠ 1) || !contentOk own x.type (x.of img)

/-- Format errors of the early sections, which stage 2 reads (R376). -/
def earlyFail (img : List Byte) : Option StartFail :=
  let part (off : Nat) : Section := { type := natAt img off 2, flags := natAt img (off + 2) 2, off := off + 8, len := natAt img (off + 4) 4 }
  let a := part 64
  let b := part ((a.off + a.len + 63) / 64 * 64)
  let fits (x : Section) : Bool := x.off + x.len ≤ min 65536 img.length
  let bad (x : Section) : Bool := !fits x || x.flags % 2 ^ 15 ≠ 0 || !contentOk 0 x.type (x.of img)
  if a.type ≠ Sec.enables || bad a then some { reason := 3, stage := 2, place := Sec.enables }
  else if b.type = Sec.trainseed && bad b then some { reason := 3, stage := 2, place := Sec.trainseed }
  else none

/-- Format errors of the whole image (R377, R378, R383): the type code of the section at fault, or 0. -/
def formatFail (img : List Byte) (own : Nat) : Option Nat :=
  match walkSections img Sec.signature (img.length / 64 + 1) 64 with
  | none => some 0
  | some xs =>
    let fin := (xs.getLast?.map fun x => x.off + x.len).getD 0
    let progs := xs.filter fun x => x.type = Sec.programs
    match xs.zipIdx.find? fun (x, i) => badSection img own xs x i with
    | some (x, _) => some x.type
    | none =>
      match [Sec.enables, Sec.puf, Sec.certs, Sec.rhoson].find? fun t => !hasSection xs t with
      | some t => some t
      | none =>
        if 32 < progs.length || 2 ^ 26 < (progs.map (·.len)).sum then some Sec.programs
        else if xs.length ≠ natAt img 12 2 || (fin + 63) / 64 * 64 < img.length then some 0
        else none

/-! ## The certificate chain (R440 to R443) -/

/-- The certificate at place `i` of CERTS. -/
def certBytes (certs : List Byte) (i : Nat) : List Byte := (certs.drop (72 + 256 * i)).take 256

/-- The certificate of its 256 bytes (Table 20.1). -/
def Cert.of (b : List Byte) : Cert :=
  { keyId := natAt b 8 8, usage := natAt b 7 1, kind := natAt b 6 1, pubkey := (b.drop 0x28).take 57 }

/-- A certificate's own fields hold no reserved value and match the part. -/
def certFieldsOk (b : List Byte) (part : Nat) : Bool :=
  let c := Cert.of b
  natAt b 0 4 = 0x544B_4843 && natAt b 4 2 = 1 && (c.kind = 1 || c.kind = 2) && c.usage < 8 && (c.usage < 4 || c.kind = 1) &&
  (natAt b 0x20 2 = part || natAt b 0x20 2 = 0xFFFF) && zeroAt b 0x22 6 && zeroAt b 0x61 31 && zeroAt b 0xF2 14 &&
  c.keyId = keyId c.pubkey

/-- The key that an issuer identifier names for a certificate: the root, or for an owner certificate the intermediate of
USAGE bit 2. -/
def issuerKey (root : List Byte) (all : List Cert) (kind issuer : Nat) : Option (List Byte) :=
  if issuer = keyId root then some root
  else if kind = 2 then (all.find? fun c => c.kind = 1 && 4 ≤ c.usage && c.keyId = issuer).map (·.pubkey)
  else none

/-- R443, checks 1 to 3. -/
def chainOk (certs : List Byte) (part : Nat) : Bool :=
  let root := (certs.drop 8).take 57
  let bs := (List.range (natAt certs 0 1)).map (certBytes certs)
  let all := bs.map Cert.of
  (all.filter fun c => c.kind = 1).length ≤ 1 && zeroAt certs 65 7 &&
  bs.all fun b => certFieldsOk b part && (match issuerKey root all (natAt b 6 1) (natAt b 0x10 8) with
    | some k => Ed448.verify k (shake256 64 (b.take 0x80)) ((b.drop 0x80).take 114)
    | none => false)

/-! ## Tests and retirements (R380, R385, R386) -/

/-- Rows to spare: taken so far by memory, the rows themselves, and those beyond the spares. -/
structure Sparing where
  used : Sparse Nat := []
  rows : List Nat := []
  skipped : List Nat := []
  deriving DecidableEq, Repr

/-- One row takes a spare row of its memory, or is left over. -/
def Sparing.take (x : Sparing) (pa : Nat) : Sparing :=
  let row := rowOf pa
  if x.rows.contains row then x
  else match spareGroup row with
    | some (g, n) =>
      if x.used.at g 0 < n then { x with used := x.used.put g (x.used.at g 0 + 1), rows := x.rows ++ [row] }
      else { x with skipped := x.skipped ++ [row] }
    | none => { x with skipped := x.skipped ++ [row] }

/-- The set bits of the units that rows left over take with them. -/
def bitsOf (n : Nat) (us : List Nat) : BitVec n := us.foldl (fun m u => m ||| BitVec.ofNat n (2 ^ u)) 0

/-- What the tests of stages 3 to 5 leave of the units: retired by their tests, by kind, and whether the start goes on. -/
structure TestResult where
  spared : Sparing
  skipped : Nat
  eng : BitVec 8
  slices : BitVec 8
  nand : BitVec 4
  psc : BitVec 96
  tow : BitVec 24
  ok : Bool
  deriving DecidableEq, Repr

/-- Stages 3 to 5: sparing, self-test and training. Units that ENABLES retires are not tested. -/
def testUnits (en : Enables) (o : StartOutcome) : TestResult :=
  let named := en.rows.foldl Sparing.take {}
  let found := o.faultyRows.foldl Sparing.take { named with skipped := [] }
  let left := found.skipped
  let engRows := (left.filter fun r => regionAt r = some .basin).map (· / 0x400_0000)
  let sliceRows := (left.filter fun r => regionAt r = some .slice).map fun r => (r - sliceBase) / 0x20_0000
  let eng := (o.engFail ||| bitsOf 8 engRows) &&& ~~~en.eng
  let psc := o.pscFail &&& ~~~en.psc
  { spared := found, skipped := named.skipped.length, eng
    slices := (o.sliceFail ||| bitsOf 8 sliceRows) &&& ~~~en.slices
    nand := o.nandFail &&& ~~~en.nand, psc, tow := o.towFail &&& ~~~en.tow
    ok := o.coreOk && (eng ||| en.eng) ≠ 0xFF && 8 ≤ ((List.range 96).filter fun n => !flag (psc ||| en.psc) n).length &&
      !(flag o.stwFail 0 && flag o.stwFail 1) && !left.any fun r => regionAt r = some .weir }

/-- The units of a set, in number order. -/
def unitsOf {n : Nat} (m : BitVec n) : List Nat := (List.range n).filter (flag m)

/-- Units that failed their tests are recorded, a record each. -/
def recordUnits (blocks : List Nat) : Act Unit := do
  for b in blocks do
    let _ ← retireRecord Code.faultUnit b

/-- The units are retired: registers, domains and records (R385). -/
def applyTests (en : Enables) (o : StartOutcome) (t : TestResult) : Act Unit := do
  let eng := t.eng ||| en.eng
  let slices := t.slices ||| en.slices
  let psc := t.psc ||| en.psc
  let s ← Act.get
  Act.make (.faults { s.faults with spares := t.spared.used })
  Act.reg .faultRetUnits 0 (Word.ofNat (pack [(eng.toNat, 0), (slices.toNat, 8), ((t.nand ||| en.nand).toNat, 16), (o.stwFail.toNat, 20)]))
  Act.reg .faultRetTow 0 (Word.ofNat (t.tow ||| en.tow).toNat)
  Act.reg .bootUnits 0 (Word.ofNat (pack [(t.eng.toNat, 0), (t.slices.toNat, 8), (t.nand.toNat, 16), (min 63 t.skipped, 26)]))
  Act.reg .bootTow 0 (Word.ofNat t.tow.toNat)
  for i in List.range 3 do
    Act.reg .bootPsc i (Word.ofNat (t.psc.toNat / 2 ^ (32 * i)))
    Act.reg .faultRetPsc i (Word.ofNat (psc.toNat / 2 ^ (32 * i)))
    Act.reg .pscLive i (~~~(Word.ofNat (psc.toNat / 2 ^ (32 * i))))
  Act.reg .pscBacked 0 (Word.ofNat ((unitsOf (~~~psc)).length * 4096))
  Act.reg .colEngLive 0 (Word.ofNat (~~~eng).toNat)
  for e in unitsOf eng do
    Act.make (.engine e { mode := .retired })
    Act.setBit3 .pwrDom (2 + e) false
    for q in List.range 4 do Act.setBit3 .pwrDom (10 + 4 * e + q) false
  for n in unitsOf o.stwFail do Act.setBit3 .pwrDom (50 + n) false
  recordUnits ((unitsOf t.eng).map Block.eng)
  recordUnits ((unitsOf t.slices).map Block.slice)
  recordUnits ((unitsOf o.stwFail).map Block.steward)
  recordUnits ((unitsOf t.psc).map Block.channel)
  recordUnits ((unitsOf t.nand).map Block.nand)
  recordUnits ((unitsOf t.tow).map fun n => Block.towline (n / 8))

/-- Triads from the members ENABLES names (R385); members' domains are on, spares' and retired slices' off. -/
def formTriads (en : Enables) (retired : BitVec 8) : Act Unit := do
  for x in List.range 8 do setRole x (if flag retired x then 2 else 0)
  for t in [0, 1] do
    for p in List.range 3 do
      Act.regField .refxTriad t (3 * p + 2) (3 * p) ((en.triads.getD t []).getD p 0)
  formTriad 0 (en.triads.getD 0 [])
  formTriad 1 (en.triads.getD 1 [])
  let d ← Act.draw
  let s ← Act.get
  for x in List.range 8 do Act.setBit3 .pwrDom (42 + x) (s.role x = 1)
  Act.make (.reflex { s.reflex with code := d })
  for t in [0, 1] do loadCode t

/-! ## Sections (R384) -/

/-- First tiles of the mirror range, the kennels and the staging region, PSRAM-relative: Rhoson's choice where it keeps them
apart and within the backed tiles. -/
def placement (mirror kennel stage backed : Nat) : Nat × Nat × Nat :=
  let sizes := [mirror, kennel, stage, backed]
  let m := Config.placeMirror sizes
  let k := Config.placeKennels sizes
  let g := Config.placeStaging sizes
  let apart (a n b k : Nat) : Bool := a + n ≤ b || b + k ≤ a
  if m + mirror ≤ backed && k + kennel ≤ backed && g + stage ≤ backed && apart m mirror k kennel && apart m mirror g stage &&
     apart k kennel g stage then (m, k, g)
  else (0, mirror, backed - stage)

/-- LAYOUT, with the defaults of Table 16.5, and the pins of the regions it places. -/
def applyLayout (b : List Byte) : Act Unit := do
  let or' (n d : Nat) : Nat := if n = 0 then d else n
  let stage := or' (natAt b 0 2) 2048
  let mirror := or' (natAt b 2 2) 1024
  let kennel := or' (natAt b 8 4) 49728
  Act.reg .xlatMirrorSize 0 (Word.ofNat mirror)
  let s ← Act.get
  let (m, k, g) := placement mirror kennel stage s.backedTiles
  Act.reg .xlatMirrorBase 0 (Word.ofNat m)
  Act.reg .sdioStageBase 0 (Word.ofNat (8192 + g))
  Act.reg .sdioStageSize 0 (Word.ofNat stage)
  Act.make (.boot { s.boot with pullHeadroom := or' (natAt b 4 4) 512, kennelTiles := kennel })
  let inside (n a k : Nat) : Bool := a ≤ n && n < a + k
  let pins : Sparse Bool := (List.range s.backedTiles).filterMap fun n =>
    if inside n m mirror || inside n k kennel || inside n g stage then some (8192 + n, true) else none
  Act.make (.xlat { s.xlat with pins })

/-- PUF: the identity key is reconstructed, or enrolled (R446 to R448). -/
def applyPuf (b : List Byte) (pufOk : Bool) : Act Unit := do
  let s ← Act.get
  let enroll := natAt b 2 2 % 2 = 1
  let d ← Act.draw
  let helper := fit 4096 (if enroll then Config.freshHelper d else b.drop 16)
  let pub := Ed448.publicKey (Config.pufSeed helper)
  let kid := keyId pub
  Act.make (.boot { s.boot with idPublic := pub, helper, enrolled := enroll })
  Act.reg .secIdLo 0 (Word.ofNat kid)
  Act.reg .secIdHi 0 (Word.ofNat (kid / 2 ^ 32))
  if enroll then
    match s.stagePa 0 (4096 + 57) with
    | some pa =>
      let _ ← writeTier pa (helper ++ pub)
      nothing
    | none => nothing
    Act.regField .secStat 0 4 3 3
  else if pufOk && kid = natAt b 8 8 then Act.regField .secStat 0 3 3 1
  else
    let _ ← fault { code := Code.faultUnit, block := Block.sec }

/-- PORTS: the writes in order, with Rhoson's rights; answers the first entry whose write fails (R381). -/
def applyPorts : List (List Byte) → Nat → Act (Option Nat)
  | [], _ => pure none
  | e :: rest, i => do
    let code ← writeAt 0 (controlBase + natAt e 0 3) 4 (Word.ofNat (natAt e 4 4)) 0
    if code = Code.ok then applyPorts rest (i + 1) else return some i

/-- CASCADE and POWER (Tables 17.2 and 19.1); a module alone has the smaller of budget and ceiling as its share. -/
def applyLimits (casc power : List Byte) : Act Unit := do
  let s ← Act.get
  let on := bitsOfAt casc 0 1 4 4 = 1
  let expect : BitVec 4 := BitVec.ofNat 4 (natAt casc 0 1)
  let form := natAt casc 4 2
  Act.make (.casc { s.casc with enabled := on, expect, formMs := if form = 0 then 500 else form })
  if !power.isEmpty then
    let modules := if on then (modulesOf expect).length else 1
    let b := if natAt power 0 2 = 0 then 450 * modules else natAt power 0 2
    let m := if natAt power 2 2 = 0 then 450 else natAt power 2 2
    Act.reg .pwrBudget 0 (Word.ofNat b)
    Act.reg .pwrModmax 0 (Word.ofNat m)
    Act.reg .pwrShare 0 (Word.ofNat (min b m))
    Act.make (.therm { s.therm with hyst := if natAt power 4 1 = 0 then 8 else natAt power 4 1 })

/-- Stage 9: the programs in image order, under handles from 1 on; one that fails its checks leaves its handle unused. -/
def loadInitial (certs : List Cert) (progs : List (List Byte)) : Act Unit := do
  for (img, i) in progs.zipIdx do
    match checkImage certs img [] with
    | .inl p => Act.make (.prog (i + 1) p)
    | .inr f =>
      Act.countSat .bootUnits 0 25 20
      if f.check = 1 then Act.countSat .secSigfail 0 31 0
  Act.make (.nextHandle (progs.length + 1))

/-- The boot entries of a quote (Table 20.4). -/
def bootEntries (img : List Byte) (xs : List Section) (signed' : List Byte) (signer root version rhoson : Nat) :
    List (Nat × Nat × Nat × List Byte) :=
  let content (t : Nat) : List Byte := contentOf img xs t
  let mixed := (xs.filter fun x => [Sec.layout, Sec.ports, Sec.cascade, Sec.power].contains x.type).flatMap (·.of img)
  let r := content Sec.rhoson
  [(1, signer, version % 2 ^ 32, signed'), (2, root, rhoson % 2 ^ 32, shake256 64 (r.take (r.length - 114))),
   (3, root, 0, shake256 64 (content Sec.certs)), (4, 0, 0, shake256 64 (content Sec.puf)), (5, 0, 0, shake256 64 mixed)] ++
  if hasSection xs Sec.steward then [(6, 0, 0, shake256 64 (content Sec.steward))] else []

/-- Stage 7: the three checks of R383 in order; what each passes shows in SEC_STAT. -/
def verifyImage (img : List Byte) (xs : List Section) (part : Nat) : Act (Option StartFail) := do
  let bad : StartFail := { reason := 4, stage := 7 }
  let certs := contentOf img xs Sec.certs
  let root := (certs.drop 8).take 57
  let r := contentOf img xs Sec.rhoson
  let n := r.length - 114
  let sig := xs.getLast?.getD { type := 0, flags := 0, off := 8, len := 0 }
  let all := (List.range (natAt certs 0 1)).map fun i => Cert.of (certBytes certs i)
  if shake256 64 root ≠ Config.romRoot then return some bad
  else
    Act.regField .secStat 0 0 0 1
    if !Ed448.verify root (shake256 64 (r.take n)) (r.drop n) then return some bad
    else
      match all.find? fun c => c.kind = 2 && c.usage % 2 = 1 && c.keyId = natAt img sig.off 8 with
      | none => return some bad
      | some key =>
        if !chainOk certs part then return some bad
        else
          Act.regField .secStat 0 1 1 1
          Act.regField .secStat 0 7 5 all.length
          let msg := shake256 64 (img.take (sig.off - 8))
          if !Ed448.verify key.pubkey msg ((img.drop (sig.off + 8)).take 114) then return some bad
          else
            Act.regField .secStat 0 2 2 1
            let s ← Act.get
            let rhoson := natAt r 0 8
            Act.make (.boot { s.boot with
              certs := all, rhosonVersion := rhoson
              entries := bootEntries img xs msg key.keyId (keyId root) (natAt img 0x10 8) rhoson })
            return none

/-- Stages 8 and 9. -/
def applySections (img : List Byte) (xs : List Section) (pufOk : Bool) : Act (Option StartFail) := do
  let content (t : Nat) : List Byte := contentOf img xs t
  applyLayout (content Sec.layout)
  applyPuf (content Sec.puf) pufOk
  let ports := content Sec.ports
  match ← applyPorts (entries 8 ports.length ports) 0 with
  | some i => return some { reason := 6, stage := 8, place := i }
  | none =>
    applyLimits (content Sec.cascade) (content Sec.power)
    let s ← Act.get
    Act.make (.boot { s.boot with stewardCode := content Sec.steward })
    loadInitial s.boot.certs ((xs.filter fun x => x.type = Sec.programs).map (·.of img))
    return none

/-- The sections of an image. -/
def sectionsOf (img : List Byte) : List Section := (walkSections img Sec.signature (img.length / 64 + 1) 64).getD []

/-- Stages 6 and 7: format and signatures. -/
def judgeImage (img : List Byte) (own part : Nat) : Act (Option StartFail) :=
  match formatFail img own with
  | some t => pure (some { reason := 3, stage := 6, place := t })
  | none => verifyImage img (sectionsOf img) part

/-- What ENABLES does where its image is rejected later: the choice of the units tested, and no more (R376). -/
def Enables.rejected (en : Enables) : Enables := { en with rows := [], triads := ({} : Enables).triads }

/-! ## A start (R374) -/

/-- Stage 2: the header and the early sections; answers the image, or how it fails. -/
def State.stage2 (s : State) (o : StartOutcome) : List Byte ⊕ StartFail :=
  let h := s.norBytes 0 64
  let id := s.rg .sysId
  if !o.norAnswers then .inr { reason := 1, stage := 2 }
  else if o.norTimeout then .inr { reason := 2, stage := 2 }
  else match headerFail h (field id 15 4) (field id 3 0) with
    | some f => .inr f
    | none =>
      let img := s.norBytes 0 (natAt h 8 4)
      match earlyFail img with
      | some f => .inr f
      | none => .inl img

/-- The boot ROM's recovery service: engines, slices and ports stay without power, and Rhoson does not run (R387). -/
def enterRecovery (f : StartFail) : Act Unit := do
  let s ← Act.get
  Act.reg .bootStat 0 (Word.ofNat (pack [(f.stage, 0), (1, 4), (f.reason, 8), (f.place, 16)]))
  Act.make (.boot { s.boot with recovery := true, rhosonVersion := 0 })
  Act.make (.ctx 1023 {})
  for n in (List.range 96).filter fun n => (2 ≤ n && n ≤ 9) || (42 ≤ n && n ≤ 49) || 88 ≤ n && n ≤ 93 do
    Act.setBit3 .pwrDom n false
  Act.reg .sdioStageBase 0 (Word.ofNat (8192 + s.backedTiles - 2048))
  Act.reg .sdioStageSize 0 (Word.ofNat 2048)

/-- The stages from a device with its regulators and oscillator up, to CMD5 C = 1 or to recovery. Whether the image is
rejected is settled before the units are set, since that decides what its ENABLES does. -/
def startStages (o : StartOutcome) : Act Unit := do
  let s ← Act.get
  let found := s.stage2 o
  let en : Enables := match found with
    | .inl img => Enables.of (img.drop 72)
    | .inr _ => {}
  let h := s.norBytes 0 64
  if o.norAnswers && !o.norTimeout && natAt h 0 4 = 0x434B_4843 then
    Act.make (.boot { s.boot with imageVersion := natAt h 0x10 8 })
    Act.reg .bootVerLo 0 (Word.ofNat (natAt h 0x10 4))
    Act.reg .bootVerHi 0 (Word.ofNat (natAt h 0x14 4))
  let failed : Option StartFail ← match found with
    | .inr f => pure (some f)
    | .inl img =>
      if !(testUnits en o).ok then pure (some { reason := 7, stage := 4 })
      else judgeImage img o.strapId.val (field (s.rg .sysId) 15 4)
  let en := if failed.any fun f => 6 ≤ f.stage then en.rejected else en
  let t := testUnits en o
  applyTests en o t
  formTriads en (t.slices ||| en.slices)
  let failed ← match failed, found with
    | none, .inl img => applySections img (sectionsOf img) o.pufOk
    | f, _ => pure f
  match failed with
  | some f => enterRecovery f
  | none => Act.reg .bootStat 0 (Word.ofNat 10)

/-- A start that is due is carried out. Regulators or oscillator that do not come up leave the device in Off; a host link or
NOR interface that fails its test leaves it in reset for good (Table 16.7). The clock unit leaves reset at a moment of the
start that the spec does not fix. -/
def doStart (o : StartOutcome) : Act Unit := do
  let s ← Act.get
  if s.boot.startDue && !s.boot.dead then
    Act.make (.pass (o.micros * 1000 * nsUnit))
    Act.make (.boot { s.boot with startDue := false })
    if o.railsUp then
      if !o.linkOk then
        Act.make (.boot { s.boot with startDue := false, dead := true })
        let t ← Act.get
        Act.make (.power { t.power with rails := true })
      else
        let d ← Act.draw
        let t ← Act.get
        let since := (Config.freeWord d).toNat % (o.micros * 1000 + 1)
        Act.make (.clock { t.clock with acc := BitVec.ofNat 64 (since * nsUnit) })
        Act.make (.power { t.power with state := .run, rails := true, thermtrip := false })
        Act.make (.boot { s.boot with startDue := false, off := false })
        for i in List.range 3 do Act.reg .pwrDom i (Reg.pwrDom.resetAt i)
        Act.make (.reflex { t.reflex with nextBoundary := t.ns + 1000 })
        Act.make (.casc { t.casc with
          id := o.strapId.val, msel := o.strapMsel, startNs := t.ns, lastShare := t.ns })
        Act.make (.sdio { t.sdio with ready := true, telNext := t.sdio.periods.map fun p => t.ns + p * 10 ^ 6 })
        startStages o
        Act.reg .bootTime 0 (Word.ofNat o.micros)
        let u ← Act.get
        Act.make (.casc { u.casc with alive := !u.boot.recovery })

/-- START. -/
def execStartUp (o : StartOutcome) (s : State) : Host.Outcome State Fault Refusal := Act.outcome (doStart o) s

/-- SYS_RESTART: a write whose KEY is not 0xC0DE is discarded. -/
def execSysRestart (who : Who) (key : BitVec 16) (o : StartOutcome) (s : State) : Host.Outcome State Fault Refusal :=
  Act.outcome (do
    command who .sysRestart 0 (do
      if key = 0xC0DE then restartNow
      return Code.ok)
    if !s.boot.startDue then doStart o) s

/-- VIN_RISE: AO_WAKE is ready and the device is in Off; a WAKE already high counts as an edge (R484, R490). -/
def execVinRise (wakeHigh : Bool) (o : StartOutcome) (s : State) : Host.Outcome State Fault Refusal :=
  Act.outcome (do
    enterOff
    let t ← Act.get
    Act.make (.power { t.power with vinGood := true, thermtrip := false })
    if wakeHigh then
      Act.make (.boot { t.boot with startDue := true })
      doStart o) s

end Sys2Proof.Machine
end

