-- ==== Sys2Proof/Machine/Dispatch.lean ====
section
/-!
DEFINITION. Sys2Proof/Machine/Dispatch.lean: one arm for each command.
-/
namespace Sys2Proof.Machine

/-- What a command does to everything but the queue. -/
def exec (i : Instr) (s : State) : Host.Outcome State Fault Refusal :=
  match i with
  | .registerWrite who addr size value hw => Sys2Proof.Machine.execRegisterWrite who addr size value hw s
  | .readClear who addr size hw => Sys2Proof.Machine.execReadClear who addr size hw s
  | .readLo who addr size => Sys2Proof.Machine.execReadLo who addr size s
  | .flitGroupReceive stop source crcOk => Sys2Proof.Machine.execFlitGroupReceive stop source crcOk s
  | .heldCompletionWrite ring => Sys2Proof.Machine.execHeldCompletionWrite ring s
  | .engineStepChange e => Sys2Proof.Machine.execEngineStepChange e s
  | .bundleIssue e => Sys2Proof.Machine.execBundleIssue e s
  | .yieldBarrierComplete c => Sys2Proof.Machine.execYieldBarrierComplete c s
  | .kernelComplete c => Sys2Proof.Machine.execKernelComplete c s
  | .towpathLineArrival c k => Sys2Proof.Machine.execTowpathLineArrival c k s
  | .parkResume p => Sys2Proof.Machine.execParkResume p s
  | .kvAcquire who pool frame => Sys2Proof.Machine.execKvAcquire who pool frame s
  | .kvShare who pool frame => Sys2Proof.Machine.execKvShare who pool frame s
  | .kvRelease who pool frame => Sys2Proof.Machine.execKvRelease who pool frame s
  | .kvQuery who pool frame => Sys2Proof.Machine.execKvQuery who pool frame s
  | .ctxCreate who c => Sys2Proof.Machine.execCtxCreate who c s
  | .ctxDestroy who c => Sys2Proof.Machine.execCtxDestroy who c s
  | .ctxKill who c => Sys2Proof.Machine.execCtxKill who c s
  | .ctxReopen who c => Sys2Proof.Machine.execCtxReopen who c s
  | .ctxHeel who c => Sys2Proof.Machine.execCtxHeel who c s
  | .doorbell who c index => Sys2Proof.Machine.execDoorbell who c index s
  | .colCons who c index => Sys2Proof.Machine.execColCons who c index s
  | .colSel who value => Sys2Proof.Machine.execColSel who value s
  | .kernelDispatch => Sys2Proof.Machine.execKernelDispatch s
  | .heelRelease c => Sys2Proof.Machine.execHeelRelease c s
  | .stallCutoff e => Sys2Proof.Machine.execStallCutoff e s
  | .kennelDrain e => Sys2Proof.Machine.execKennelDrain e s
  | .stallThreshold c => Sys2Proof.Machine.execStallThreshold c s
  | .jobRestart c => Sys2Proof.Machine.execJobRestart c s
  | .engineFault e cause => Sys2Proof.Machine.execEngineFault e cause s
  | .energyRescale measuredUj => Sys2Proof.Machine.execEnergyRescale measuredUj s
  | .lockAdd who lock value also => Sys2Proof.Machine.execLockAdd who lock value also s
  | .lockSet who lock value also => Sys2Proof.Machine.execLockSet who lock value also s
  | .lockArm who lock target ring tmo tag => Sys2Proof.Machine.execLockArm who lock target ring tmo tag s
  | .lockCancel who lock tag => Sys2Proof.Machine.execLockCancel who lock tag s
  | .lockAlloc who lock arg => Sys2Proof.Machine.execLockAlloc who lock arg s
  | .lockFree who lock => Sys2Proof.Machine.execLockFree who lock s
  | .waitTimeout w => Sys2Proof.Machine.execWaitTimeout w s
  | .xlatInv who firstPage value => Sys2Proof.Machine.execXlatInv who firstPage value s
  | .invalidationComplete who => Sys2Proof.Machine.execInvalidationComplete who s
  | .pinSet who range => Sys2Proof.Machine.execPinSet who range s
  | .pinClear who range => Sys2Proof.Machine.execPinClear who range s
  | .migrate c page tile => Sys2Proof.Machine.execMigrate c page tile s
  | .bargeSubmit who c va => Sys2Proof.Machine.execBargeSubmit who c va s
  | .bargeIssue channel => Sys2Proof.Machine.execBargeIssue channel s
  | .bargeTileLand slot tile => Sys2Proof.Machine.execBargeTileLand slot tile s
  | .bargeComplete slot => Sys2Proof.Machine.execBargeComplete slot s
  | .bargeTimeout slot => Sys2Proof.Machine.execBargeTimeout slot s
  | .splitRetry t => Sys2Proof.Machine.execSplitRetry t s
  | .psramBurstCrcFail channel pa lastCrc => Sys2Proof.Machine.execPsramBurstCrcFail channel pa lastCrc s
  | .channelRetrainEnd channel ok => Sys2Proof.Machine.execChannelRetrainEnd channel ok s
  | .readDisturbRefresh nand block => Sys2Proof.Machine.execReadDisturbRefresh nand block s
  | .ftlReady => Sys2Proof.Machine.execFtlReady s
  | .leashBind who leash => Sys2Proof.Machine.execLeashBind who leash s
  | .leashUnbind who leash => Sys2Proof.Machine.execLeashUnbind who leash s
  | .leashCommit who leash => Sys2Proof.Machine.execLeashCommit who leash s
  | .leashResume who leash => Sys2Proof.Machine.execLeashResume who leash s
  | .triadReinit who leash => Sys2Proof.Machine.execTriadReinit who leash s
  | .leashStop who leash => Sys2Proof.Machine.execLeashStop who leash s
  | .slotTick deviations => Sys2Proof.Machine.execSlotTick deviations s
  | .spareDomainReady t => Sys2Proof.Machine.execSpareDomainReady t s
  | .selfTestComplete t pass => Sys2Proof.Machine.execSelfTestComplete t pass s
  | .firstCopyComplete t => Sys2Proof.Machine.execFirstCopyComplete t s
  | .rebuildJoin t => Sys2Proof.Machine.execRebuildJoin t s
  | .reflexInputArrival src payload => Sys2Proof.Machine.execReflexInputArrival src payload s
  | .sliceSramWrite w pa data => Sys2Proof.Machine.execSliceSramWrite w pa data s
  | .sliceRailLow x => Sys2Proof.Machine.execSliceRailLow x s
  | .csiLongPacket r vc dt payload crcOk hdrOk => Sys2Proof.Machine.execCsiLongPacket r vc dt payload crcOk hdrOk s
  | .csiShortPacket r vc dt frame => Sys2Proof.Machine.execCsiShortPacket r vc dt frame s
  | .ethFrame m bytes fcsOk link => Sys2Proof.Machine.execEthFrame m bytes fcsOk link s
  | .spiTransactionStart n => Sys2Proof.Machine.execSpiTransactionStart n s
  | .spiTransactionEnd n received => Sys2Proof.Machine.execSpiTransactionEnd n received s
  | .uartByte n byte framingOk => Sys2Proof.Machine.execUartByte n byte framingOk s
  | .uartIdleClose n => Sys2Proof.Machine.execUartIdleClose n s
  | .pauseRepeat m => Sys2Proof.Machine.execPauseRepeat m s
  | .agedCheck => Sys2Proof.Machine.execAgedCheck s
  | .rtmoExpiry e cell ch => Sys2Proof.Machine.execRtmoExpiry e cell ch s
  | .weirAdvance who q n => Sys2Proof.Machine.execWeirAdvance who q n s
  | .weirMark who q => Sys2Proof.Machine.execWeirMark who q s
  | .weirRewind who q => Sys2Proof.Machine.execWeirRewind who q s
  | .weirRelease who q => Sys2Proof.Machine.execWeirRelease who q s
  | .queueEnable who q cfg => Sys2Proof.Machine.execQueueEnable who q cfg s
  | .gridSubmit who c va => Sys2Proof.Machine.execGridSubmit who c va s
  | .gridRequestStart => Sys2Proof.Machine.execGridRequestStart s
  | .gridRequestComplete disagree => Sys2Proof.Machine.execGridRequestComplete disagree s
  | .gridLoad who table va => Sys2Proof.Machine.execGridLoad who table va s
  | .gridCommit who table countM1 => Sys2Proof.Machine.execGridCommit who table countM1 s
  | .alignDeltaWrite who q value => Sys2Proof.Machine.execAlignDeltaWrite who q value s
  | .planSubmit who c va => Sys2Proof.Machine.execPlanSubmit who c va s
  | .planDeadline => Sys2Proof.Machine.execPlanDeadline s
  | .voxelUpdate who c va => Sys2Proof.Machine.execVoxelUpdate who c va s
  | .openEpoch who => Sys2Proof.Machine.execOpenEpoch who s
  | .openDeferred => Sys2Proof.Machine.execOpenDeferred s
  | .epochLayers who va => Sys2Proof.Machine.execEpochLayers who va s
  | .epochDirty who va => Sys2Proof.Machine.execEpochDirty who va s
  | .epochPublish who => Sys2Proof.Machine.execEpochPublish who s
  | .epochAbandon who => Sys2Proof.Machine.execEpochAbandon who s
  | .watchCheck l => Sys2Proof.Machine.execWatchCheck l s
  | .timeCounterWrap => Sys2Proof.Machine.execTimeCounterWrap s
  | .eraAck who k => Sys2Proof.Machine.execEraAck who k s
  | .timeOfs who theta => Sys2Proof.Machine.execTimeOfs who theta s
  | .holdover => Sys2Proof.Machine.execHoldover s
  | .stepGo who => Sys2Proof.Machine.execStepGo who s
  | .timedOutputEdge n => Sys2Proof.Machine.execTimedOutputEdge n s
  | .toArm who n cfg => Sys2Proof.Machine.execToArm who n cfg s
  | .captureEdge n level => Sys2Proof.Machine.execCaptureEdge n level s
  | .tcPop who n => Sys2Proof.Machine.execTcPop who n s
  | .ptpPop who m => Sys2Proof.Machine.execPtpPop who m s
  | .oscillatorFail => Sys2Proof.Machine.execOscillatorFail s
  | .cmd5 => Sys2Proof.Machine.execCmd5 s
  | .cmd11 => Sys2Proof.Machine.execCmd11 s
  | .cmd19 => Sys2Proof.Machine.execCmd19 s
  | .cmd52Win write value => Sys2Proof.Machine.execCmd52Win write value s
  | .cmd53 write fixed addr len data => Sys2Proof.Machine.execCmd53 write fixed addr len data s
  | .telemetryRead len => Sys2Proof.Machine.execTelemetryRead len s
  | .stagingTransfer write len data => Sys2Proof.Machine.execStagingTransfer write len data s
  | .functionEnable ioe => Sys2Proof.Machine.execFunctionEnable ioe s
  | .sdioAbort f kept => Sys2Proof.Machine.execSdioAbort f kept s
  | .sdioRes => Sys2Proof.Machine.execSdioRes s
  | .mbSubmit who slot => Sys2Proof.Machine.execMbSubmit who slot s
  | .mbNop slot => Sys2Proof.Machine.execMbNop slot s
  | .mbInfo slot => Sys2Proof.Machine.execMbInfo slot s
  | .loadProg slot => Sys2Proof.Machine.execLoadProg slot s
  | .unloadProg slot => Sys2Proof.Machine.execUnloadProg slot s
  | .attest slot => Sys2Proof.Machine.execAttest slot s
  | .norWrite slot verifyOk => Sys2Proof.Machine.execNorWrite slot verifyOk s
  | .telCfg slot => Sys2Proof.Machine.execTelCfg slot s
  | .mailboxTimeout slot => Sys2Proof.Machine.execMailboxTimeout slot s
  | .mbCons who index => Sys2Proof.Machine.execMbCons who index s
  | .telemetryTick type => Sys2Proof.Machine.execTelemetryTick type s
  | .startUp o => Sys2Proof.Machine.execStartUp o s
  | .sysRestart who key o => Sys2Proof.Machine.execSysRestart who key o s
  | .towlineFlitReceive l crcOk lanesFailed => Sys2Proof.Machine.execTowlineFlitReceive l crcOk lanesFailed s
  | .formationEnd => Sys2Proof.Machine.execFormationEnd s
  | .timeMessageSend => Sys2Proof.Machine.execTimeMessageSend s
  | .timeMessageReceive sent link => Sys2Proof.Machine.execTimeMessageReceive sent link s
  | .delayMeasure l ns => Sys2Proof.Machine.execDelayMeasure l ns s
  | .powerReport reports => Sys2Proof.Machine.execPowerReport reports s
  | .shareTimeout => Sys2Proof.Machine.execShareTimeout s
  | .heartbeat l => Sys2Proof.Machine.execHeartbeat l s
  | .heartbeatLoss => Sys2Proof.Machine.execHeartbeatLoss s
  | .watchdogExpiry => Sys2Proof.Machine.execWatchdogExpiry s
  | .cascPeerDeassert m => Sys2Proof.Machine.execCascPeerDeassert m s
  | .cascLeave who m => Sys2Proof.Machine.execCascLeave who m s
  | .cascJoin who m => Sys2Proof.Machine.execCascJoin who m s
  | .cascHandover who => Sys2Proof.Machine.execCascHandover who s
  | .towCtxMaskWrite who value => Sys2Proof.Machine.execTowCtxMaskWrite who value s
  | .powerRequestRun who => Sys2Proof.Machine.execPowerRequestRun who s
  | .powerRequestIdle req => Sys2Proof.Machine.execPowerRequestIdle req s
  | .powerRequestSleep who => Sys2Proof.Machine.execPowerRequestSleep who s
  | .powerRequestDeepSleep who => Sys2Proof.Machine.execPowerRequestDeepSleep who s
  | .powerRequestOff who key => Sys2Proof.Machine.execPowerRequestOff who key s
  | .autoIdle => Sys2Proof.Machine.execAutoIdle s
  | .entryAbort block => Sys2Proof.Machine.execEntryAbort block s
  | .wakeEvent source slowTicks => Sys2Proof.Machine.execWakeEvent source slowTicks s
  | .slowClockAlarm slowTicks => Sys2Proof.Machine.execSlowClockAlarm slowTicks s
  | .domainGate d => Sys2Proof.Machine.execDomainGate d s
  | .regulatorSample deciwatts millivolts milliamps => Sys2Proof.Machine.execRegulatorSample deciwatts millivolts milliamps s
  | .budgetWrite who value => Sys2Proof.Machine.execBudgetWrite who value s
  | .droopDetect e => Sys2Proof.Machine.execDroopDetect e s
  | .stretchEnd e stretched => Sys2Proof.Machine.execStretchEnd e stretched s
  | .thermalSample centi => Sys2Proof.Machine.execThermalSample centi s
  | .capRise e => Sys2Proof.Machine.execCapRise e s
  | .trip115 => Sys2Proof.Machine.execTrip115 s
  | .runOnEnd => Sys2Proof.Machine.execRunOnEnd s
  | .trip120 => Sys2Proof.Machine.execTrip120 s
  | .rowSpare pa => Sys2Proof.Machine.execRowSpare pa s
  | .psramTileRetire tile newTile => Sys2Proof.Machine.execPsramTileRetire tile newTile s
  | .votedCopyFault block => Sys2Proof.Machine.execVotedCopyFault block s
  | .stewardWatchdogMiss n => Sys2Proof.Machine.execStewardWatchdogMiss n s
  | .nandControllerTimeout n => Sys2Proof.Machine.execNandControllerTimeout n s
  | .faultTail who index => Sys2Proof.Machine.execFaultTail who index s
  | .faultInjectSingle who bit => Sys2Proof.Machine.execFaultInjectSingle who bit s
  | .faultInjectDouble who bit => Sys2Proof.Machine.execFaultInjectDouble who bit s
  | .vinRise wakeHigh o => Sys2Proof.Machine.execVinRise wakeHigh o s
  | .vinBrownout => Sys2Proof.Machine.execVinBrownout s
  | .reflexRingLinkFailure ring => Sys2Proof.Machine.execReflexRingLinkFailure ring s
  | .regulatorPhaseFailure => Sys2Proof.Machine.execRegulatorPhaseFailure s
  | .stewardMemoryAccess n c va store len l2TagError => Sys2Proof.Machine.execStewardMemoryAccess n c va store len l2TagError s
  | .canFrameReceive port ident xtd payload crcOk => Sys2Proof.Machine.execCanFrameReceive port ident xtd payload crcOk s
  | .canTransmit port => Sys2Proof.Machine.execCanTransmit port s
  | .eventMessageSent m p link => Sys2Proof.Machine.execEventMessageSent m p link s
  | .towlineTraining l peer lanes => Sys2Proof.Machine.execTowlineTraining l peer lanes s
  | .cccrWrite addr value => Sys2Proof.Machine.execCccrWrite addr value s

end Sys2Proof.Machine
end

