-- ==== Sys2Proof/Safety.lean ====
section
/-!
DEFINITION. Sys2Proof/Safety.lean: what holds of the device in every state a step leads to, and the forms in which
statements about commands are made.
-/
namespace Sys2Proof

open Machine

/-- Memories and tables are in their one form: keys strictly rising, no byte listed that an unlisted one reads as, no
word listed as flipped without a flip. -/
structure Machine.State.Canonical (s : State) : Prop where
  mem : Memory.wf s.mem = true
  nor : Memory.wfOr 0xFF s.nor = true
  ram : Memory.wf s.sdio.ram = true
  flips : s.flips.rising = true
  flipped : ∀ e ∈ s.flips, e.2 ≠ 0
  regs : s.regs.rising = true
  latches : s.latches.rising = true
  bus : s.bus.rising = true
  links : s.links.rising = true
  engines : s.engines.rising = true
  drains : s.drains.rising = true
  progs : s.progs.rising = true
  ctxs : s.ctxs.rising = true
  residual : s.residual.rising = true
  locks : s.locks.rising = true
  chanQueues : s.chanQueues.rising = true
  flying : s.flying.rising = true
  psram : s.psram.rising = true

/-- The command completes in `s`: a next state, of which `post` holds. -/
def Machine.State.does (s : State) (c : Instr) (post : State → Prop) : Prop :=
  ∃ t, Machine.exec c s = .next t ∧ post t

/-- No wait and no barge in flight is past the cycle of its timeout (R38, R201). -/
def Machine.State.onTime (s : State) : Bool :=
  s.waits.all (fun w => !s.late w.deadline) && s.flying.all (fun e => !s.late e.2.deadline)

/-- A kernel's wait failed, and the kernel is to end (R81). -/
def Machine.Kernel.settles (k : Kernel) : Bool :=
  match k.wait with
  | some w => k.phase = .running && w ≠ 0xFF && !Code.good w
  | none => false

/-- Nothing is open that a command would settle: no wait that failed, no optimiser that ended, nothing that waits for a page
(R81, R216, R232, R313, R328). -/
def Machine.State.quiet (s : State) : Bool :=
  s.flying.all (fun e => e.2.waitCode.isNone) && s.ctxs.all (fun e => !(e.2.kern.any Kernel.settles)) &&
  s.plan.requests.all (fun r => !r.waiting && r.optimised.isNone) && s.plan.subs.isEmpty && s.plan.updates.isEmpty &&
  s.plan.cmds.isEmpty && s.plan.parked.isEmpty && s.plan.trouble.isNone && s.grid.subs.isEmpty && s.grid.loads.isEmpty && s.xlat.subs.isEmpty && s.xlat.waiting.isEmpty

/-- A command finds nothing to settle: what a command leaves open is settled within it. -/
def Machine.State.calm (s : State) : Bool := s.onTime && s.quiet

/-- Control space answers, and an initiator's write of a word to instance `i` of a register is accepted (R6, R12, R15
to R17). -/
def Machine.State.takes (s : State) (who : Who) (r : Reg) (i : Nat) : Prop :=
  s.reachable = true ∧ s.accessCode who true (controlBase + r.off i 0) 4 = Code.ok

/-- The physical address of a virtual read whose page the stop's TLB holds and that Table 9.3 lets proceed. -/
def Machine.State.mapped (s : State) (stop c va : Nat) : Option Nat :=
  match s.xlat.tlb.find? fun e => e.stop = stop && e.ctx = c && e.page = va / 65536 with
  | some e =>
    match s.leafOutcome { ctx := c, stop } va e.leaf.toNat false with
    | .ok pa => some pa
    | _ => none
  | none => none

/-- The `n` bytes at `pa` read as they are stored: no word of theirs is flipped, and their tile is in service. -/
def Machine.State.sound (s : State) (pa n : Nat) : Prop :=
  (∀ f ∈ s.flips, f.1 + 8 ≤ pa ∨ pa + n ≤ f.1) ∧ s.gone pa = false ∧ s.flashLost pa = false ∧ s.lostTile pa = false

/-- A stop that reads the `n` bytes at virtual address `va` of context `c`, which lie in one page, gets `bs`. -/
def Machine.State.sees (s : State) (stop c va n : Nat) (bs : List Byte) : Prop :=
  va < 2 ^ 48 ∧ va % 65536 + n ≤ 65536 ∧ ∃ pa, s.mapped stop c va = some pa ∧ s.sound pa n ∧ s.peek pa n = bs

/-- An access through a page that its stop's TLB holds proceeds to `pa` without opening a tile: a read, or a write to a page
already dirty whose tile is LIVE or open to its own attempt (Table 9.3, R234). -/
def Machine.State.reaches (s : State) (v : Via) (va : Nat) (write : Bool) (pa : Nat) : Prop :=
  va < 2 ^ 48 ∧ v.views = [] ∧ ∃ e, s.xlat.tlb.find? (fun e => e.stop = v.stop && e.ctx = v.ctx && e.page = va / 65536) =
    some e ∧ s.leafOutcome v va e.leaf.toNat write = .ok pa ∧
  (write = true → e.dirtied = true ∧ (s.tagAt pa).1 ≠ Tag.dead ∧ ((s.tagAt pa).1 = Tag.live → v.split = false))

/-- The leaf of the page at `va` of context `c`, an ordinary one, with the address it is read at, where the walk cache
holds its level-2 table (R211 to R213). -/
def Machine.State.walks (s : State) (c va leaf pa : Nat) : Prop :=
  ∃ w, s.xlat.walk.find? (fun w => w.1 = c && w.2.1 = va / 2 ^ 29) = some w ∧ pa = w.2.2 + va / 65536 % 8192 * 8 ∧
    (regionAt pa = some .basin ∨ regionAt pa = some .psram ∧ s.backed pa = true) ∧ s.sound pa 8 ∧
    s.peekNat pa 8 = leaf ∧ leafOk leaf = true ∧ flag (BitVec.ofNat 64 leaf) 2 = false

/-- An access that `reaches` `pa` and does not wait: the walk finds its page as the TLB does, by the entry at `entry`, and no
channel of it retrains (R216, R240). -/
def Machine.State.passes (s : State) (v : Via) (va : Nat) (write : Bool) (pa entry : Nat) : Prop :=
  s.reaches v va write pa ∧ ∃ leaf, s.walks v.ctx va leaf entry ∧ s.leafOutcome v va leaf write = .ok pa ∧
    s.retraining (tilePa leaf + va % 65536) = false

/-- A block that reads the `n` bytes at `va`, which lie in one page, gets `bs` without a wait. -/
def Machine.State.gets (s : State) (v : Via) (va n : Nat) (bs : List Byte) : Prop :=
  s.sees v.stop v.ctx va n bs ∧ ∃ pa entry, s.passes v va false pa entry

/-- Memory holds `bs` from `pa` on. -/
def Machine.State.holds (s : State) (pa : Nat) (bs : List Byte) : Prop :=
  ∀ i < bs.length, Memory.byte s.mem (pa + i) = bs.getD i 0

/-- Memory of `t` is that of `s` but for the bytes of some ranges, each an address and a length. -/
def Machine.State.keepsBut (s t : State) (ranges : List (Nat × Nat)) : Prop :=
  ∀ a, (∀ r ∈ ranges, a < r.1 ∨ r.1 + r.2 ≤ a) → Memory.byte t.mem a = Memory.byte s.mem a

/-- No range of a list meets another. -/
def apart (ranges : List (Nat × Nat)) : Prop :=
  ranges.Pairwise fun a b => a.1 + a.2 ≤ b.1 ∨ b.1 + b.2 ≤ a.1

/-- Completions of a context's ring so far, those held included (R30, R37). -/
def Machine.State.completions (s : State) (c : Nat) : Nat := (s.ctx c).ring.wr + (s.ctx c).ring.held.length

/-- The pinned tile of the page at `va` of context `c`, where the walk cache holds its level-2 table (R211 to R213,
R220). -/
def Machine.State.pinnedAt (s : State) (c va tile : Nat) : Prop :=
  ∃ w, s.xlat.walk.find? (fun w => w.1 = c && w.2.1 = va / 2 ^ 29) = some w ∧
    let pa := w.2.2 + va / 65536 % 8192 * 8
    (regionAt pa = some .basin ∨ regionAt pa = some .psram ∧ s.backed pa = true) ∧ s.sound pa 8 ∧
    leafOk (s.peekNat pa 8) = true ∧ flag (BitVec.ofNat 64 (s.peekNat pa 8)) 2 = true ∧
    flag (BitVec.ofNat 64 (s.peekNat pa 8)) 5 = false ∧ tilePa (s.peekNat pa 8) = tile ∧ s.pinned tile = true

/-- The initiator's last access completed with `code` and no data (R6). -/
def Machine.State.answered (s : State) (who : Who) (code : Nat) : Prop :=
  s.bus.find who.val = some { code, data := 0 }

end Sys2Proof
end

