-- ==== Sys2Proof/Certificates/Slice0/Obligations.lean ====
section
/-!
DEFINITION. Sys2Proof/Certificates/Slice0/Obligations.lean: the statements for the provers. `s.does c post` says that
the command c completes in s and leaves a state of which `post` holds; `t = { s with f := t.f }` says that of the state
only the named fields may have changed.
-/
section

open Sys2Proof Sys2Proof.Machine


/-! ## The machine -/

/-- A step with a command waiting is that command's effect on the device whose queue is the rest. -/
def Obligations.StepRunsFrontCommand : Prop :=
  ∀ (s : State) (c : Instr) (rest : List Instr), s.pending = c :: rest →
    step s = exec c { s with pending := rest }

/-- With no command waiting and nothing left to settle, one tick of the 500 MHz clock passes: 2 ns and TIME_ADJ (R337).
That the tick comes on an empty queue is the model's choice (log entry 2). -/
def Obligations.EmptyQueueLetsATickPass : Prop :=
  ∀ s : State, s.pending = [] → s.calm = true → s.power.entering = none →
    s.power.state = .run ∨ s.power.state = .idle ∨ s.power.state = .sleep →
    s.clock.acc.toNat + s.tickUnits < 2 ^ 64 →
    ∃ t, step s = .next t ∧ t = { s with clock := t.clock } ∧
      t.clock = { s.clock with elapsed := s.clock.elapsed + s.tickUnits
                               acc := s.clock.acc + BitVec.ofNat 64 s.tickUnits }

/-- Every step answers a next state: no command faults or is refused. Commands leave the queue only from its front,
one a step, and no command adds one. Elapsed time and the count of free values drawn never fall. -/
def Obligations.StepsGoOn : Prop :=
  (∀ s : State, ∃ t, step s = .next t) ∧
  (∀ s t : State, step s = .next t → t.pending = s.pending.tail) ∧
  (∀ s t : State, step s = .next t → s.clock.elapsed ≤ t.clock.elapsed ∧ s.freeCount ≤ t.freeCount)

/-- Every step keeps memories and tables in their canonical form. -/
def Obligations.StepKeepsCanonicalForm : Prop :=
  ∀ s t : State, s.Canonical → step s = .next t → t.Canonical

/-- The device after reset is in canonical form and calm, its queue is empty and memory lists nothing; what registers
read, and what Locks and contexts are (R10, R14, R16, Tables 1.3, 1.4, 16.9, 18.7, 8.5, 14.4, 15.8). That reset is the
device at the end of its start, and that memory nothing has written reads 0, is the model's choice (log entries 6, 7). -/
def Obligations.ResetState : Prop :=
  (State.reset.Canonical ∧ State.reset.calm = true ∧ State.reset.pending = [] ∧
   ∀ a, Memory.byte State.reset.mem a = 0) ∧
  (State.reset.value .sysId 0 0 = 0x00086A12 ∧ State.reset.value .sysGrant 0 0 = 0 ∧
   State.reset.value .colEngLive 0 0 = 0xFF ∧ (∀ e : Fin 8, State.reset.value .engFclk e.val 0 = State.reset.rg .engFclk 0) ∧
   (∀ n : Fin 8192, State.reset.lockAt n.val = {}) ∧ (∀ c : Nat, c ≠ 1023 → (State.reset.ctx c).st = .free) ∧
   (State.reset.ctx 1023).st = .ready ∧ (State.reset.ctx 1023).desc.cls = 7 ∧ State.reset.power.state = .run)

/-! ## Control space (R6, R8, R9, R15 to R17) -/

/-- Which windows bits of SYS_GRANT open to S2–S7, and that S0, S1 and the host need none: at an aligned word of any
window they are refused only another initiator's instance, and the host the staging region (R15, R16, Table 1.4). -/
def Obligations.GrantBitsOpenWindows : Prop :=
  (∀ (s : State) (n : Nat), n ≤ 0x14 → s.granted n = flag (s.rg .sysGrant) n) ∧
  (∀ (s : State) (e : Nat), e < 8 → s.granted (0x20 + e) = flag (s.rg .sysGrant) (21 + e)) ∧
  (∀ (s : State) (n : Nat), 0x14 < n → (n < 0x20 ∨ 0x28 ≤ n) → s.granted n = false) ∧
  (∀ (s : State) (who : Who) (write : Bool) (addr : Nat), privileged who = true → controlBase ≤ addr →
    addr < controlBase + 2 ^ 24 → addr % 4 = 0 →
    (∀ r i j, Reg.lookup (addr - controlBase) = some (r, i, j) → r.ofInitiator = true → i = who.val) →
    (∀ r i j, Reg.lookup (addr - controlBase) = some (r, i, j) → r ≠ .sdioStageBase ∧ r ≠ .sdioStageSize) →
    s.accessCode who write addr 4 = Code.ok)

/-- What an access that is turned away does: nothing but its outcome on the bus. -/
def turnedAway (s : State) (who : Who) (addr size code : Nat) : Prop :=
  (∀ v hw, s.does (.registerWrite who addr size v hw) fun t => t = { s with bus := s.bus.put who.val ⟨code, 0⟩ }) ∧
  (∀ hw, s.does (.readClear who addr size hw) fun t => t = { s with bus := s.bus.put who.val ⟨code, 0⟩ }) ∧
  s.does (.readLo who addr size) fun t => t = { s with bus := s.bus.put who.val ⟨code, 0⟩ }

/-- An access of S2–S7 to a window that is not granted, or outside every window, is discarded and completes with
FAULT_XLAT, whatever its width and alignment (R17). A narrow or unaligned access to control space that the grant lets
through is discarded and completes with UNALIGNED (R6, R17). -/
def Obligations.RefusedAccessChangesNothing : Prop :=
  (∀ (s : State) (who : Who) (addr size : Nat), s.reachable = true → s.calm = true → privileged who = false →
     (addr < controlBase ∨ controlBase + 2 ^ 24 ≤ addr ∨ s.granted ((addr - controlBase) / 0x10000) = false) →
     turnedAway s who addr size Code.faultXlat) ∧
  (∀ (s : State) (who : Who) (addr size : Nat), s.reachable = true → s.calm = true →
     controlBase ≤ addr → addr < controlBase + 2 ^ 24 →
     privileged who = true ∨ s.granted ((addr - controlBase) / 0x10000) = true → size ≠ 4 ∨ addr % 4 ≠ 0 →
     turnedAway s who addr size Code.unaligned)

/-- Registers whose writes follow the access codes alone. -/
def plainRegs : List Reg :=
  [.sysGrant, .pwrWakeCause, .pwrSave, .pwrGate, .pwrGov, .thermStat, .thermSel, .thermThrot, .colDescLo, .colDescHi,
   .colHeelMax, .colDropped, .lockArg, .lockArg2, .lockTag, .lockSel, .bargeDescLo, .bargeDescHi, .bargeRetries,
   .kvPtabLo, .kvPtabHi, .xlatInvVa, .xlatPinTile, .xlatSplitLo, .xlatSplitHi, .xlatTagSel, .xlatStat, .pscChSel,
   .ftlRefresh, .gridDescLo, .gridDescHi, .gridTabLo, .gridTabHi, .gridAlignCfg, .gridAlignPeriod, .gridAlignLat,
   .planDescLo, .planDescHi, .epochVaLo, .epochVaHi, .planOwner, .watchVaLo, .watchVaHi, .watchDescLo, .watchDescHi,
   .watchCfg, .planStat, .planRepairMax, .timeNowLo, .timeStat, .timeStepLo, .timeStepHi, .tcCfg, .macAdj,
   .refxLeashSel, .refxVote, .sdioIntStat, .sdioIntEn, .sdioStageBase, .sdioStageSize, .sdioStagePtr, .sdioTelLost,
   .towErr, .towCtxSel, .secKeySel, .secSigfail, .sysId, .bootStat, .spiPeriod, .spiTpl, .uartBaud, .csiErr,
   .faultLost, .faultInjLo, .faultInjHi, .engSat, .engNan, .engFclk, .engPad]

/-- REGISTER_WRITE stores by the access codes: RW bits take the value written; a W1C bit is cleared by a 1 unless the
hardware sets it in the same cycle; every other bit keeps its value (R8). -/
def Obligations.RegisterWriteFollowsAccessCodes : Prop :=
  ∀ (s : State) (who : Who) (addr : Nat) (v hw : Word) (r : Reg) (i j : Nat), s.reachable = true → s.calm = true →
    r ∈ plainRegs → Reg.lookup (addr - controlBase) = some (r, i, j) → s.accessCode who true addr 4 = Code.ok →
    s.does (.registerWrite who addr 4 v hw) fun t =>
      t = { s with regs := s.regs.put (r.off i j) (t.rg r i j), bus := s.bus.put who.val ⟨Code.ok, 0⟩ } ∧
      ∀ b, flag (t.rg r i j) b =
        if flag r.row.rw b then flag v b
        else if flag r.row.w1c b then flag hw b || (flag (s.rg r i j) b && !flag v b)
        else flag (s.rg r i j) b

/-- READ_CLEAR returns the current value and clears the RC bits, but for events recorded in the same cycle; nothing
else changes beside what a read of _LO latches (R8). READ_LO latches _HI for its initiator alone: until the initiator
reads _LO again its reads of _HI return that value, whatever the register then holds (R9). -/
def Obligations.ReadsReturnClearAndLatch : Prop :=
  (∀ (s : State) (who : Who) (addr : Nat) (hw : Word) (r : Reg) (i j : Nat), s.reachable = true →
     r ≠ .bootSeeds → r ≠ .pscChStat → r ≠ .refxLeashOvr →
     Reg.lookup (addr - controlBase) = some (r, i, j) → s.accessCode who false addr 4 = Code.ok →
     s.does (.readClear who addr 4 hw) fun t =>
       t = { s with regs := t.regs, latches := t.latches, bus := s.bus.put who.val ⟨Code.ok, s.readBy who r i j⟩ } ∧
       (∀ b, flag (t.rg r i j) b = if flag r.row.rc b then flag hw b else flag (s.rg r i j) b) ∧
       ∀ o, o ≠ r.off i j → t.regs.find o = s.regs.find o) ∧
  (∀ (s : State) (who : Who) (addr : Nat) (r h : Reg) (i j : Nat), s.reachable = true → r.high = some h →
     Reg.lookup (addr - controlBase) = some (r, i, j) → s.accessCode who false addr 4 = Code.ok →
     (s.does (.readLo who addr 4) fun t =>
       t = { s with regs := t.regs, latches := t.latches, bus := s.bus.put who.val ⟨Code.ok, s.readBy who r i j⟩ } ∧
       t.readBy who h i j = s.value h i j ∧
       ∀ w : Who, w ≠ who → t.latches.find (latchKey w h i j) = s.latches.find (latchKey w h i j)) ∧
     ∀ (u : State) (v : Word), u.latches.find (latchKey who h i j) = some v → u.readBy who h i j = v)

/-! ## Locks (chapter 8) -/

/-- The status word of an initiator's Lock command group after a command that answers `code`. -/
def lockStatusAfter (s : State) (who : Who) (code : Nat) : Word := setField (s.rg .lockStatus who.val) 7 0 code

/-- A wait with target T is satisfied when LEVEL − T modulo 2^32 is less than 2^31: at and above the target by less than
2^31, and for a target further ahead than 2^31; not for a target less than 2^31 above the level (R196). -/
def Obligations.WaitSatisfiedModulo : Prop :=
  (∀ (level d : Word), d.toNat < 2 ^ 31 → reached (level + d) level = true) ∧
  (∀ (level d : Word), 0 < d.toNat → d.toNat ≤ 2 ^ 31 → reached level (level + d) = false) ∧
  (∀ (level d : Word), 2 ^ 31 < d.toNat → reached level (level + d) = true)

/-- LOCK_ADD and LOCK_SET alone in their cycle, on an allocated Lock: LEVEL rises by the value modulo 2^32, or takes
it; every wait on the Lock whose target the new level reaches leaves the wait table and every other wait stays; no
other Lock changes (R198, R199). An ADD or SET to a Lock that is not allocated changes no Lock and no wait that its
level does not reach already, and answers FAULT_XLAT in LOCK_s_STATUS (R198). A SET and ADDs of other initiators that
meet in one cycle: the SET comes first, the ADDs are then summed, and no level between is seen by a wait (R199, R203).
Nothing is then past its timeout or left to settle. -/
def Obligations.LevelsChangeByAddAndSet : Prop :=
  (∀ (s : State) (who : Who) (n : Nat) (v : Word), n < 8192 → s.calm = true → s.lockAccess who = true →
     (s.lockAt n).alloc = true →
     (s.does (.lockAdd who n v []) fun t =>
       t.locks = s.locks.put n { s.lockAt n with level := (s.lockAt n).level + v } ∧
       t.waits = s.waits.filter (fun w => !(w.lock = n && reached ((s.lockAt n).level + v) w.target)) ∧
       t.answered who Code.ok) ∧
     (s.does (.lockSet who n v []) fun t =>
       t.locks = s.locks.put n { s.lockAt n with level := v } ∧
       t.waits = s.waits.filter (fun w => !(w.lock = n && reached v w.target)) ∧
       t.answered who Code.ok)) ∧
  (∀ (s : State) (who : Who) (n : Nat) (v : Word), n < 8192 → s.calm = true → s.lockAccess who = true →
     (s.lockAt n).alloc = false → (∀ w ∈ s.waits, w.lock ≠ n) →
     (s.does (.lockAdd who n v []) fun t => t = { s with regs := t.regs, bus := t.bus } ∧
       t.rg .lockStatus who.val = lockStatusAfter s who Code.faultXlat ∧ t.answered who Code.ok) ∧
     (s.does (.lockSet who n v []) fun t => t = { s with regs := t.regs, bus := t.bus } ∧
       t.rg .lockStatus who.val = lockStatusAfter s who Code.faultXlat ∧ t.answered who Code.ok)) ∧
  (∀ (s : State) (a b c : Who) (n : Nat) (v x y : Word), n < 8192 → s.calm = true → s.lockAccess a = true →
     s.lockAccess b = true → s.lockAccess c = true → (s.lockAt n).alloc = true → a ≠ b → a ≠ c → b ≠ c →
     s.does (.lockAdd a n x [.set b n v, .add c n y]) fun t =>
       t.locks.find n = some { s.lockAt n with level := v + x + y } ∧
       t.waits = s.waits.filter (fun w => !(w.lock = n && reached (v + x + y) w.target)))

/-- LOCK_ALLOC gives a free Lock its owner, with level 0 and no poison; LOCK_FREE sets every part of a Lock that
nobody waits on to zero. Nothing else changes but the initiator's command group (R206, R207). S2–S7 may not allocate
or free a Lock: both complete with FAULT_XLAT and change no Lock (R198, R207). -/
def Obligations.AllocAndFreeSetTheLock : Prop :=
  (∀ (s : State) (who : Who) (n : Nat), n < 8192 → privileged who = true → s.takes who .lockCmd who.val →
     (∀ arg : Word, (s.lockAt n).alloc = false → field arg 31 11 = 0 →
       s.does (.lockAlloc who n arg) fun t => t = { s with regs := t.regs, bus := t.bus, locks := t.locks } ∧
         t.locks = s.locks.put n { level := 0, alloc := true, owner := field arg 9 0, jobzero := flag arg 10
                                   poisoned := false, jobadd := 0 } ∧
         t.rg .lockStatus who.val = lockStatusAfter s who Code.ok ∧ t.answered who Code.ok) ∧
     ((s.lockAt n).alloc = true → (∀ w ∈ s.waits, w.lock ≠ n) →
       s.does (.lockFree who n) fun t => t = { s with regs := t.regs, bus := t.bus, locks := t.locks } ∧
         t.locks = s.locks.put n {} ∧
         t.rg .lockStatus who.val = lockStatusAfter s who Code.ok ∧ t.answered who Code.ok)) ∧
  (∀ (s : State) (who : Who) (n : Nat) (arg : Word), privileged who = false → s.takes who .lockCmd who.val →
     (s.does (.lockAlloc who n arg) fun t => t = { s with regs := t.regs, bus := t.bus } ∧ t.answered who Code.faultXlat) ∧
     (s.does (.lockFree who n) fun t => t = { s with regs := t.regs, bus := t.bus } ∧ t.answered who Code.faultXlat))

/-- LOCK_ARM on an allocated Lock that is not poisoned and has not reached the target enters a wait that times out
after TMO µs of elapsed time; on a level already reached it ends at once and leaves no entry (R200 to R202).
LOCK_CANCEL ends the initiator's armed waits on the Lock that carry the tag, and no others (R198). WAIT_TIMEOUT of an
armed wait whose ring's context is FREE: the wait leaves the table once its deadline has come, and LOCK_s_LAST holds
TIMEOUT and the Lock (R201, R202). -/
def Obligations.WaitsEnterAndLeaveTheTable : Prop :=
  (∀ (s : State) (who : Who) (n : Nat) (target : Word) (ring tmo : Nat) (tag : Word), n < 8192 → ring < 1024 →
     tmo < 2 ^ 22 → s.takes who .lockCmd who.val → (s.lockAt n).alloc = true → (s.armedBy who.val).length < 256 →
     (s.lockAt n).poisoned = false →
     (reached (s.lockAt n).level target = false →
       s.does (.lockArm who n target ring tmo tag) fun t => t = { s with regs := t.regs, bus := t.bus, waits := t.waits } ∧
         t.waits = s.waits ++ [{ waiter := .armed who, lock := n, target, tag, ring
                                 deadline := if tmo = 0 then none else some (s.ns + tmo * 1000) }] ∧
         t.rg .lockStatus who.val = lockStatusAfter s who Code.ok ∧ t.answered who Code.ok) ∧
     (reached (s.lockAt n).level target = true → (s.ctx ring).st = .free →
       s.does (.lockArm who n target ring tmo tag) fun t => t = { s with regs := t.regs, bus := t.bus, waits := t.waits } ∧
         (∀ w ∈ t.waits, w ∈ s.waits) ∧ t.rg .lockLast who.val = Word.ofNat (n * 256))) ∧
  (∀ (s : State) (who : Who) (n : Nat) (tag : Word), n < 8192 → s.takes who .lockCmd who.val →
     (s.lockAt n).alloc = true →
     s.does (.lockCancel who n tag) fun t =>
       t.locks = s.locks ∧ t.waits = s.waits.filter (fun w => !(w.waiter = .armed who && w.lock = n && w.tag = tag)) ∧
       t.rg .lockStatus who.val = lockStatusAfter s who Code.ok ∧ t.answered who Code.ok) ∧
  (∀ (s : State) (who : Who) (k : Nat) (w : LWait) (d : Nat), (s.armedBy who.val)[k]? = some w →
     w.deadline = some d → d * nsUnit ≤ s.clock.elapsed → s.calm = true → (s.ctx w.ring).st = .free →
     s.does (.waitTimeout (.armed who k)) fun t =>
       t = { s with regs := t.regs, waits := t.waits } ∧ t.waits = s.waits.erase w ∧
       t.rg .lockLast who.val = Word.ofNat (pack [(Code.timeout, 0), (w.lock, 8)]))

/-! ## Contexts and the Collie (chapter 7) -/

/-- COL_CMD_STATUS after a command on context `c`. -/
def colStatus (code c : Nat) : Word := Word.ofNat (pack [(code, 0), (c, 16)])

/-- The pages that `n` bytes from `va` on lie in. -/
def pagesOf (va n : Nat) : Nat := (va + n - 1) / 65536 + 1 - va / 65536

/-- A context command that finds its context in another state than it requires changes nothing but COL_CMD_STATUS, which
reads FAULT_XLAT (R171). -/
def Obligations.CommandInWrongStateIsRefused : Prop :=
  ∀ (s : State) (who : Who) (c : Nat), c < 1024 → s.takes who .colCmd 0 → s.calm = true →
    let refused (i : Instr) := s.does i fun t => t = { s with regs := t.regs, bus := t.bus } ∧
      t.value .colCmdStatus 0 0 = colStatus Code.faultXlat c ∧ t.answered who Code.ok ∧
      ∀ o, o ≠ Reg.off .colCmdStatus 0 0 → t.regs.find o = s.regs.find o
    ((s.ctx c).st ≠ .free → refused (.ctxCreate who c)) ∧
    ((s.ctx c).st ≠ .ready → (s.ctx c).st ≠ .torn → refused (.ctxDestroy who c)) ∧
    ((s.ctx c).st = .free → refused (.ctxKill who c)) ∧
    ((s.ctx c).st ≠ .torn → refused (.ctxReopen who c)) ∧
    ((s.ctx c).st ≠ .running → refused (.ctxHeel who c))

/-- CREATE of an unpaired context whose descriptor is in range, whose kennel is pinned PSRAM and whose rings and views
lie in pinned pages: the context is READY with the descriptor's fields, the tiles of its rings and views, and every
account and index zero; nothing else changes (R168, R169, R171, R192). -/
def Obligations.CreateMakesAReadyContext : Prop :=
  ∀ (s : State) (who : Who) (c : Nat) (rt qt vt : Nat → Nat), c < 1024 → s.takes who .colCmd 0 →
    (s.ctx c).st = .free → (regionAt s.descBase = some .basin ∨ regionAt s.descBase = some .psram) →
    s.sound (s.descBase + c * 128) 128 →
    let b := s.peek (s.descBase + c * 128) 128
    let d := Desc.ofBytes b
    descInRange b d = true → d.aligned = true → d.paired = false → regionAt d.kennel = some .psram →
    s.regionPinned d.kennel ((97 * d.kspan + 1) * 65536) = true →
    (∀ i < pagesOf d.ringVa (32 * 2 ^ d.ringK), s.pinnedAt c ((d.ringVa / 65536 + i) * 65536) (rt i)) →
    (d.cls ≠ 0 → ∀ i < pagesOf d.subqVa (64 * 2 ^ d.subqK), s.pinnedAt c ((d.subqVa / 65536 + i) * 65536) (qt i)) →
    (d.viewVa ≠ 0 → ∀ i < pagesOf d.viewVa 2048, s.pinnedAt c ((d.viewVa / 65536 + i) * 65536) (vt i)) →
    s.does (.ctxCreate who c) fun t => t = { s with ctxs := t.ctxs, regs := t.regs, bus := t.bus } ∧
      t.ctx c = { st := .ready, desc := d
                  ringTiles := (List.range (pagesOf d.ringVa (32 * 2 ^ d.ringK))).map rt
                  subqTiles := if d.cls = 0 then [] else (List.range (pagesOf d.subqVa (64 * 2 ^ d.subqK))).map qt
                  viewTiles := if d.viewVa = 0 then [] else (List.range (pagesOf d.viewVa 2048)).map vt } ∧
      (∀ x, x ≠ c → t.ctx x = s.ctx x) ∧ t.value .colCmdStatus 0 0 = colStatus Code.ok c ∧ t.answered who Code.ok

/-- DESTROY of a READY or TORN context without a queued job: it is FREE, with nothing of it kept but its accounts and what
they still owe (R171, R192). KILL of an
idle context, one without kernel, jobs or barges on whose Locks nobody waits: it is TORN and each Lock it owns is
poisoned (R171, R186, R204). REOPEN makes a TORN context READY and clears the poison of the Locks it owns, leaving
their levels; it keeps its jobs but for one that the other member of its pair has begun (R171, R191, R206). -/
def Obligations.ContextsEndAndReopen : Prop :=
  (∀ (s : State) (who : Who) (c : Nat), c < 1024 → s.takes who .colCmd 0 →
     ((s.ctx c).st = .ready ∨ (s.ctx c).st = .torn) → (s.ctx c).jobs = [] →
     s.does (.ctxDestroy who c) fun t =>
       t.ctx c = { accts := (s.ctx c).accts, activity := (s.ctx c).activity } ∧ t.value .colCmdStatus 0 0 = colStatus Code.ok c ∧
       t.answered who Code.ok) ∧
  (∀ (s : State) (who : Who) (c : Nat), c < 1024 → s.takes who .colCmd 0 → s.calm = true → (s.ctx c).st ≠ .free →
     (s.ctx c).kern = none → (s.ctx c).jobs = [] → (s.ctx c).desc.cls ≠ 0 →
     (∀ e ∈ s.flying, e.2.ctx ≠ c) → (∀ q ∈ s.chanQueues, ∀ b ∈ q.2, b.ctx ≠ c) → (∀ r ∈ s.plan.requests, r.ctx ≠ c) →
     (∀ w ∈ s.waits, w.lock ∉ s.owned c) → s.locks.rising = true →
     s.does (.ctxKill who c) fun t => (t.ctx c).st = .torn ∧
       (∀ n ∈ s.owned c, t.lockAt n = { s.lockAt n with poisoned := true }) ∧
       t.value .colCmdStatus 0 0 = colStatus Code.ok c ∧ t.answered who Code.ok) ∧
  (∀ (s : State) (who : Who) (c : Nat), c < 1024 → s.takes who .colCmd 0 → (s.ctx c).st = .torn → s.locks.rising = true →
     s.does (.ctxReopen who c) fun t =>
       t = { s with ctxs := t.ctxs, locks := t.locks, regs := t.regs, bus := t.bus } ∧
       t.ctx c = { s.ctx c with st := .ready, jobs := (t.ctx c).jobs } ∧ (∀ x, x ≠ c → t.ctx x = s.ctx x) ∧
       (t.ctx c).jobs.Sublist (s.ctx c).jobs ∧ (∀ j ∈ (s.ctx c).jobs, j.pair = none → j ∈ (t.ctx c).jobs) ∧
       (∀ n, t.lockAt n = if n ∈ s.owned c then { s.lockAt n with poisoned := false } else s.lockAt n) ∧
       t.value .colCmdStatus 0 0 = colStatus Code.ok c ∧ t.answered who Code.ok)

/-- DOORBELL moves PROD and queues the job read, with the streams then excluded (R478), unless its context is FREE, of
class 0, a pair's second member or run from another module, or the index goes back or passes the ring: then it is counted
and changes nothing else (R172, R174). COL_CONS moves the
consumer index of a completion ring; an index past the write index is counted and changes nothing (R36, R174). COL_SEL
latches the state and the accounts of a context, or the residual account (Tables 7.14 to 7.16). -/
def Obligations.RingsAreServed : Prop :=
  (∀ (s : State) (who : Who) (c i : Nat), c < 1024 → i < 65536 → s.takes who .colDoorbell 0 →
     let x := s.ctx c
     let bad := x.st = .free ∨ x.desc.cls = 0 ∨ (x.desc.paired = true ∧ x.desc.primary = false) ∨
       (∃ h, s.home c = some h ∧ h ≠ s.casc.id) ∨ 2 ^ 15 ≤ (i + 65536 - x.prod) % 65536 ∨
       2 ^ x.desc.subqK < (i + 65536 - x.rd) % 65536
     (bad → s.does (.doorbell who c i) fun t => t = { s with regs := t.regs, bus := t.bus } ∧
       (t.rg .colDropped).toNat = min (2 ^ 32 - 1) ((s.rg .colDropped).toNat + 1) ∧ t.answered who Code.ok) ∧
     (¬bad → x.desc.paired = false → s.modules c = 0 → (x.rd + 1) % 65536 = i → ∀ tile,
       x.subqTiles[(x.desc.subqVa % 65536 + x.rd % 2 ^ x.desc.subqK * 64) / 65536]? = some tile →
       let pa := tile + (x.desc.subqVa % 65536 + x.rd % 2 ^ x.desc.subqK * 64) % 65536
       s.sound pa 64 →
       s.does (.doorbell who c i) fun t =>
         t = { s with ctxs := s.ctxs.put c { x with prod := i, rd := i, jobs := x.jobs ++
                        [{ Job.ofBytes (s.peek pa 64) x.rd with excl := s.rg .gridExclHi ++ s.rg .gridExclLo }] }
                      bus := t.bus } ∧ t.answered who Code.ok)) ∧
  (∀ (s : State) (who : Who), s.takes who .colCons 0 → s.takes who .colSel 0 →
     (∀ c i, c < 1024 → i < 65536 →
       let r := (s.ctx c).ring
       let d := (i + 65536 - r.cons % 65536) % 65536
       let n := (r.wr - r.cons) % 65536
       (d ≤ n → s.does (.colCons who c i) fun t =>
         t = { s with ctxs := s.ctxs.put c { s.ctx c with ring := { r with cons := r.cons + d } }, bus := t.bus } ∧
         t.answered who Code.ok) ∧
       (n < d → s.does (.colCons who c i) fun t => t = { s with regs := t.regs, bus := t.bus } ∧
         (t.rg .colDropped).toNat = min (2 ^ 32 - 1) ((s.rg .colDropped).toNat + 1) ∧ t.answered who Code.ok)) ∧
     (∀ v : Word, field v 10 0 < 1024 → s.does (.colSel who v) fun t =>
       t = { s with regs := t.regs, selState := t.selState, selAccts := t.selAccts, bus := t.bus } ∧
       t.value .colCtxState 0 0 = (s.ctx (field v 10 0)).stateWord ∧
       (∀ i, t.value .colAcctLo i 0 = Word.ofNat ((s.ctx (field v 10 0)).accts.at i 0)) ∧ t.answered who Code.ok) ∧
     (∀ v : Word, field v 10 0 = 1024 → s.does (.colSel who v) fun t =>
       (∀ i, t.value .colAcctLo i 0 = Word.ofNat (s.residual.at i 0)) ∧ t.answered who Code.ok))

/-- JOB_RESTART: a RESTARTING context is READY at its job's first kernel, the restart counted if the attempt had
begun; each Lock it owns has LEVEL less JOBADD unless JOBZERO, JOBADD 0 and no poison; on each Weir queue it owns RD
returns to MK. With nobody waiting on those Locks no other part of the device changes (R188, R206, R286).
ENERGY_RESCALE: over the interval the accounts of all contexts and the residual account together rise by what the
regulators measured, and a context without activity is charged none of it (R193). -/
def Obligations.RestartAndEnergy : Prop :=
  (∀ (s : State) (c : Nat), (s.ctx c).st = .restarting → s.locks.rising = true → (∀ w ∈ s.waits, w.lock ∉ s.owned c) →
     s.does (.jobRestart c) fun t => t = { s with ctxs := t.ctxs, locks := t.locks, regs := t.regs } ∧
       (∀ q < 64, s.qOwner q = some c → t.rg .weirQRd q = s.rg .weirQMk q) ∧
       (t.ctx c).st = .ready ∧ (t.ctx c).nextKern = 0 ∧ (t.ctx c).started = false ∧
       (t.ctx c).restarts = (if (s.ctx c).started then (s.ctx c).restarts + 1 else (s.ctx c).restarts) ∧
       ∀ n, t.lockAt n = if n ∈ s.owned c then { s.lockAt n with
         level := if (s.lockAt n).jobzero then (s.lockAt n).level else (s.lockAt n).level - (s.lockAt n).jobadd
         jobadd := 0, poisoned := false } else s.lockAt n) ∧
  (∀ (s : State) (m : Nat), s.Canonical →
     let total (u : State) := (u.ctxs.map fun e => e.2.accts.at 13 0).sum + u.residual.at 13 0
     s.does (.energyRescale m) fun t => t = { s with ctxs := t.ctxs, residual := t.residual, therm := t.therm } ∧
       total t % 2 ^ 64 = (total s + m) % 2 ^ 64 ∧ ∀ c, (s.ctx c).activity = [] → t.ctx c = s.ctx c)

/-! ## Engines and kernels (chapters 3 and 7) -/

/-- What an issue leaves of the engine's place in the program: LOOP_SET at the bundle's first issue, then the repeat, the
jump or the next bundle (R94). -/
def placeAfter (x : Engine) (cw : CW) : Engine :=
  Engine.afterIssue (if x.rep = 0 ∧ cw.loop = 1 then { x with lc := x.lc.set cw.loopId cw.count } else x) cw

/-- BUNDLE_ISSUE of a bundle that sends and receives nothing, makes no Basin access and asks for no Lock, barge or
barrier, with its operands ready: one issue cycle passes on the engine and for its context, and the engine stands
where R94 says. YIELD_BARRIER_COMPLETE: every engine of the kernel passes the barrier. A bundle's WAIT on a Lock of
the context that is not poisoned and has not reached the target is issued once for the kernel, and its engines stall
(R80, R95). -/
def Obligations.IssueAdvancesTheEngine : Prop :=
  (∀ (s : State) (e : Fin 8) (c : Nat) (k : Kernel) (cw : CW) (ws : List EW), s.calm = true → s.runs = true →
     let x := s.engine e.val
     let w := ws.getD x.logical 0
     x.ctx = some c → (s.ctx c).kern = some k → e.val ∈ k.engines → k.phase = .running → k.wait = none → x.ended = false →
     x.mode = .issuing → x.waitFrom = none → x.landings = [] → s.bundleAt k x.pc = some (cw, ws) →
     (cw.yield = true → x.passed = true) → w.readyAt x.board x.ap x.vp x.vbusy x.cyc ≤ x.cyc →
     s.drains.at e.val [] = [] → (w.port 0).bop = 0 → (w.port 1).bop = 0 → w.sop = 0 → w.rop = 0 →
     cw.go = false → cw.lockOp = 0 →
     s.does (.bundleIssue e) fun t =>
       (t.engine e.val).pc = (placeAfter x cw).pc ∧ (t.engine e.val).rep = (placeAfter x cw).rep ∧
       (t.engine e.val).lc = (placeAfter x cw).lc ∧ (t.engine e.val).ended = (placeAfter x cw).ended ∧
       (t.engine e.val).cyc = x.cyc + 1 ∧ (t.engine e.val).ap = w.nextAp x.ap ∧ (t.engine e.val).vp = w.nextVp x.vp ∧
       (t.ctx c).accts.at e.val 0 = ((s.ctx c).accts.at e.val 0 + 1) % 2 ^ 64 ∧
       t.mem = s.mem ∧ t.locks = s.locks ∧ ∀ f, f ≠ e.val → t.engine f = s.engine f) ∧
  (∀ (s : State) (c : Nat) (k : Kernel) (e : Nat) (cw : CW) (ws : List EW), s.calm = true → (s.ctx c).kern = some k →
     k.phase = .running → s.atBarrier k = true → k.heelAt = none → k.engines.head? = some e →
     s.bundleAt k (s.engine e).pc = some (cw, ws) →
     (cw.lockOp ≠ 1 → s.does (.yieldBarrierComplete c) fun t =>
       t = { s with engines := t.engines, regs := t.regs } ∧
       ∀ f ∈ k.engines, (t.engine f).passed = true ∧ (t.engine f).atYield = false ∧ (t.engine f).sinceJoin = 0) ∧
     (cw.lockOp = 1 →
       let n := s.slotLock k cw.lockSlot
       s.ownsLock c n = true → (s.lockAt n).poisoned = false →
       reached (s.lockAt n).level (Word.ofNat cw.lockVal) = false → k.wait = none →
       s.does (.yieldBarrierComplete c) fun t =>
         t = { s with engines := t.engines, regs := t.regs, ctxs := t.ctxs, waits := t.waits } ∧
         t.waits = s.waits ++ [{ waiter := .kernel c, lock := n, target := Word.ofNat cw.lockVal
                                 deadline := s.deadline cw.tmo }] ∧
         (t.ctx c).kern = some { k with waitOn := n, wait := some 0xFF } ∧
         ∀ f ∈ k.engines, (t.engine f).mode = .stalled ∧ (t.engine f).waitFrom = some s.ns))

/-- KERNEL_DISPATCH with one context ready: the next kernel of its job, of the program its kernel entry names, runs on
the engines the Collie grants (R172, R176, R177). The entry is read through the Collie's TLB. KERNEL_COMPLETE of a
kernel whose END bundle has no ADD and whose job asks for no kernel records: its engines are idle and free; the job
goes on with its next kernel, or after its last leaves the context with one job record, written or held (R81, R95,
R173). -/
def Obligations.KernelsStartAndComplete : Prop :=
  (∀ (s : State) (c : Nat) (j : Job) (rest : List Job) (b : List Byte) (p : Program) (n : Nat), s.calm = true →
     s.fabricEnded = false → s.dispatches = true → s.claims = [] →
     (∀ e ∈ s.ctxs, e.2.mayDispatch = true ↔ e.1 = c) →
     (s.ctxs.find c).isSome = true → s.Canonical → (s.ctx c).kern = none → (s.ctx c).jobs = j :: rest →
     j.optimiser = none → (s.ctx c).bargeFault = none → j.nkern ≤ (s.ctx c).nextKern + 1 → (s.ctx c).started = true →
     s.sees 18 c (j.klist + (s.ctx c).nextKern * 16) 16 b → (KEntry.ofBytes b).bad = false →
     (KEntry.ofBytes b).views = [] → s.program (KEntry.ofBytes b).prog = some p → s.casc.masks = [] →
     p.minSpan ≤ (s.ctx c).desc.kspan → p.minSpan ≤ (s.available c false).length →
     p.spanFor (min (s.ctx c).desc.kspan (min p.maxSpan (s.available c false).length)) = some n → 0 < n →
     s.does .kernelDispatch fun t => (t.ctx c).st = .running ∧
       (∃ k, (t.ctx c).kern = some k ∧ k.prog = (KEntry.ofBytes b).prog ∧ k.span = n ∧
         k.engines = (s.available c false).take n ∧ k.phase = .running ∧ k.wait = none) ∧
       ∀ e ∈ (s.available c false).take n, (t.engine e).ctx = some c ∧ (t.engine e).mode = .issuing ∧
         (t.engine e).span = n) ∧
  (∀ (s : State) (c : Nat) (k : Kernel) (j : Job) (rest : List Job) (e : Nat) (cw : CW) (ws : List EW), s.calm = true →
     (s.ctx c).kern = some k → (s.ctx c).jobs = j :: rest → s.mayComplete k = true → (s.ctx c).desc.paired = false →
     k.engines.head? = some e → k.engines.Nodup → s.bundleAt k (s.engine e).pc = some (cw, ws) → cw.lockOp ≠ 2 →
     (∀ f ∈ k.engines, (s.engine f).landings = [] ∧ (s.engine f).waitFrom = none ∧ (s.engine f).ctx = some c ∧
       (s.engine f).mode ≠ .retired) →
     k.pins = [] → k.opened = [] → j.krec = false → j.optimiser = none → j.pair = none → s.casc.masks = [] →
     s.openTiles (512 + c) [] = [] → (s.ctx c).st = .running →
     s.does (.kernelComplete c) fun t => (t.ctx c).kern = none ∧ (t.ctx c).st = .ready ∧
       (∀ f ∈ k.engines, (t.engine f).ctx = none ∧ (t.engine f).mode = .idle) ∧
       ((s.ctx c).nextKern + 1 < j.nkern → (t.ctx c).jobs = j :: rest ∧ (t.ctx c).nextKern = (s.ctx c).nextKern + 1 ∧
         (t.ctx c).ring = (s.ctx c).ring ∧ t.mem = s.mem) ∧
       (j.nkern ≤ (s.ctx c).nextKern + 1 → (t.ctx c).jobs = rest ∧ (t.ctx c).nextKern = 0 ∧
         (t.ctx c).ring.wr + (t.ctx c).ring.held.length = (s.ctx c).ring.wr + (s.ctx c).ring.held.length + 1))

/-- TOWPATH_LINE_ARRIVAL: of the lines in flight the first one of the way named goes behind what its channel holds, and
is in flight no more (R88). -/
def Obligations.LineArrivesInOrder : Prop :=
  ∀ (s : State) (c i : Nat) (k : Kernel) (g f : Flight) (e d : Nat) (pre post : List Flight),
    (s.ctx c).kern = some k → k.flights[i]? = some g → k.flights = pre ++ f :: post → f.sameWay g = true →
    (∀ h ∈ pre, h.sameWay g = false) → f.place = none → f.dstCells = [d] → k.engines[f.dst]? = some e →
    s.does (.towpathLineArrival c i) fun t => t = { s with engines := t.engines, ctxs := t.ctxs } ∧
      (t.ctx c).kern = some { k with flights := pre ++ post } ∧
      ((t.engine e).cell d).chan f.chan = ((s.engine e).cell d).chan f.chan ++ [.line f.line] ∧
      ∀ n, n ≠ e → t.engine n = s.engine n

/-- HEEL of a RUNNING context notes the request in its kernel, and each of its engines below step 8 is raised to step
8 until it is released (R171, R180). HEEL_RELEASE of a kernel that waits at a WAIT or has a parked engine,
STALL_CUTOFF of an engine 1.0 µs stalled, and STALL_THRESHOLD of a parked engine leave the context HEELED, its kernel
without engines, and each engine it had without a kernel and with the kernel's kennel to drain (R180, R181, R184).
KENNEL_DRAIN: the first of the engine's kennels leaves its list, but engines with a kernel dispatched go first; the
kernel notes that engine state as drained, its context is charged the kennel's PSRAM bytes, the kennel begins with the
engine's header, and no byte changes outside it or between its masks and its cells (R181, R192, Table 7.7). -/
def Obligations.HeelsFreeEnginesAndKennels : Prop :=
  (∀ (s : State) (who : Who) (c : Nat) (k : Kernel), c < 1024 → s.takes who .colCmd 0 → (s.ctx c).st = .running →
     (s.ctx c).kern = some k → k.heelAt = none → (∀ e ∈ k.engines, e < 8) →
     s.does (.ctxHeel who c) fun t =>
       t = { s with ctxs := s.ctxs.put c { s.ctx c with kern := some { k with heelAt := some s.ns } }
                    regs := t.regs, therm := t.therm, bus := t.bus } ∧
       (∀ e ∈ k.engines, s.rf .engFclk e 4 0 < 8 → t.target e = max (min (s.target e) (s.cap e)) 8 ∧
         flag t.therm.heelRaise e = true) ∧
       t.value .colCmdStatus 0 0 = colStatus Code.ok c ∧ t.answered who Code.ok) ∧
  (∀ (s : State) (c : Nat) (k : Kernel), (s.ctx c).kern = some k → k.phase = .running → k.flights = [] →
     k.engines.Nodup → (∀ e ∈ k.engines, e < 8 ∧ (s.engine e).landings = []) → s.calm = true →
     let heeled (t : State) := (t.ctx c).st = .heeled ∧
       (∃ q, (t.ctx c).kern = some q ∧ q.phase = .heeled ∧ q.engines = [] ∧ q.heelAt = none ∧
         q.saved.length = k.engines.length ∧ q.drained = k.engines.map fun _ => false) ∧
       ∀ e ∈ k.engines, (t.engine e).ctx = none ∧ ∃ j, (c, j) ∈ t.drains.at e []
     (k.heelAt.isSome = true → s.hasParked k = true ∨ k.wait.isSome = true → s.does (.heelRelease c) heeled) ∧
     (∀ e : Fin 8, k.heelAt.isSome = true → k.wait = none → (s.engine e.val).ctx = some c → (s.engine e.val).mode = .stalled →
       s.does (.stallCutoff e) heeled) ∧
     (k.wait = none → k.heelAt = none → (∃ e ∈ k.engines, (s.engine e).mode = .parked ∧ (s.engine e).waitFrom.isSome = true) →
       s.does (.stallThreshold c) heeled)) ∧
  (∀ (s : State) (e : Fin 8) (i c j : Nat) (rest : List (Nat × Nat)) (k : Kernel), i = s.drainsFirst e.val →
     ((s.engine i).ctx = none → ∀ f < 8, (s.engine f).ctx = none ∨ s.drains.at f [] = []) → s.drains.at i [] = (c, j) :: rest →
     (s.ctx c).kern = some k → (k.saved.getD j {}).lc.length = 4 → (k.saved.getD j {}).masks.length ≤ 15 →
     s.does (.kennelDrain e) fun t => t.drains.at i [] = rest ∧
       (t.ctx c).kern = some { k with drained := k.drained.set j true } ∧
       (t.ctx c).accts.at 10 0 = ((s.ctx c).accts.at 10 0 + 6292480) % 2 ^ 64 ∧
       let base := (s.ctx c).desc.kennel + j * 0x61_0000
       (∀ i < 52, Memory.byte t.mem (base + i) =
         (kennelHeader k (k.saved.getD j {}) (s.repeatOf k (k.saved.getD j {})) true).getD i 0) ∧
       ∀ a, a < base ∨ (base + 0x400 ≤ a ∧ a < base + 65536) ∨ base + 97 * 65536 ≤ a →
         Memory.byte t.mem a = Memory.byte s.mem a)

/-- ENGINE_FAULT on an engine without work retires it: no kernel is granted it again, and its condition is recorded. With
units enough left, no context changes (R189, R463). -/
def Obligations.EngineFaultRetires : Prop :=
  ∀ (s : State) (e : Fin 8) (cause : EngineCause), s.calm = true → flag (s.rg .faultRetUnits) e.val = false →
    (∀ c, s.onEngine c e.val = false) → (∀ c k, (s.ctx c).kern = some k → e.val ∉ k.spare) → 2 ≤ s.live.length →
    8 ≤ ((List.range 96).filter (s.bitOf3 .pscLive)).length → s.rf .faultRetUnits 0 21 20 ≠ 3 →
    s.does (.engineFault e cause) fun t => flag (t.rg .faultRetUnits) e.val = true ∧ e.val ∉ t.live ∧
      (t.engine e.val).mode = .retired ∧ (∀ c, t.ctx c = s.ctx c) ∧ t.locks = s.locks ∧ t.mem = s.mem ∧
      s.faults.seq ≠ t.faults.seq

/-! ## KV frames (chapter 5) -/

/-- What a successful KV command leaves in its result register. -/
def kvDone (frame : Nat) : Word := Word.ofNat (pack [(Code.ok, 0), (frame % 2 ^ 20, 12)])

/-- ACQUIRE makes a free frame held with one reference; SHARE adds a reference to a held frame that no writer pins;
RELEASE takes one away; QUERY changes no frame. A frame left without reference or pin is free, its GEN one higher, and
enters its pool's free ring. Nothing else in memory changes. On a pool that another context owns than the one the
initiator acts for, each completes with FAULT_XLAT and changes nothing (R135, R141, R142, Table 5.6). The pool table is
taken as physical, in a pinned tile, while context 1,023 has no page tables (log entry 12); which context an initiator acts
for is the model's choice (log entry 213). -/
def Obligations.KvCommandsKeepFrames : Prop :=
  ∀ (s : State) (who : Who) (i n tile ring : Nat) (p : Pool), i < 16 → s.takes who .kvCmd who.val →
    (s.ctx 1023).mapped = false → s.pinned p.pa = true →
    p.pa = (s.rg .kvPtabLo).toNat + (s.rg .kvPtabHi).toNat * 2 ^ 32 + i * 32 →
    let b := s.peek p.pa 32
    natAt b 7 1 / 128 ≠ 0 → p.kvVa = natAt b 0 6 → p.ftVa = natAt b 8 6 → p.ctx = natAt b 14 2 % 1024 →
    p.freeVa = natAt b 16 6 → p.frames = natAt b 24 4 % 2 ^ 20 → p.tpf = natAt b 24 4 / 2 ^ 20 + 1 →
    p.head = natAt b 28 4 → n < p.frames → s.pinnedAt p.ctx (p.ftVa + n * 8) tile →
    let pa := tile + (p.ftVa + n * 8) % 65536
    let f := Frame.ofNat (s.peekNat pa 8)
    let done (c : Instr) (g : Frame) := s.does c fun t => t.holds pa (bytesOf 8 g.toNat) ∧ s.keepsBut t [(pa, 8)] ∧
      t.rg .kvResult who.val = kvDone n ∧ t.locks = s.locks ∧ t.ctxs = s.ctxs
    (s.actsFor who p.ctx = false → ∀ c ∈ [Instr.kvAcquire who i n, .kvShare who i n, .kvRelease who i n, .kvQuery who i n],
      s.does c fun t => t = { s with regs := t.regs, bus := t.bus } ∧
        t.rg .kvResult who.val = Word.ofNat (pack [(Code.faultXlat, 0), (n % 2 ^ 20, 12)])) ∧
    (s.actsFor who p.ctx = true →
    (f.st = 0 ∧ f.refs = 0 ∧ f.pins = 0 → done (.kvAcquire who i n) { f with st := 1, refs := 1 }) ∧
    (f.st = 1 ∧ 1 ≤ f.refs ∧ f.refs < 65535 ∧ f.wpins = 0 → done (.kvShare who i n) { f with refs := f.refs + 1 }) ∧
    (f.st = 1 ∧ (2 ≤ f.refs ∨ 1 ≤ f.refs ∧ 1 ≤ f.pins) → done (.kvRelease who i n) { f with refs := f.refs - 1 }) ∧
    (f.st = 1 ∧ f.refs = 1 ∧ f.pins = 0 → s.pinnedAt p.ctx (p.freeVa + p.head % p.frames * 4) ring →
      let ra := ring + (p.freeVa + p.head % p.frames * 4) % 65536
      apart [(pa, 8), (ra, 4), (p.pa + 28, 4)] →
      (∀ w, s.xlat.walk.find? (fun w => w.1 = p.ctx && w.2.1 = (p.freeVa + p.head % p.frames * 4) / 2 ^ 29) = some w →
        apart [(pa, 8), (w.2.2 + (p.freeVa + p.head % p.frames * 4) / 65536 % 8192 * 8, 8)]) →
      s.does (.kvRelease who i n) fun t =>
        t.holds pa (bytesOf 8 { f with st := 0, refs := 0, gen := (f.gen + 1) % 65536 }.toNat) ∧
        t.holds ra (bytesOf 4 n) ∧ t.holds (p.pa + 28) (bytesOf 4 ((p.head + 1) % 2 ^ 32)) ∧
        s.keepsBut t [(pa, 8), (ra, 4), (p.pa + 28, 4)] ∧ t.rg .kvResult who.val = kvDone n) ∧
    s.does (.kvQuery who i n) fun t => t = { s with regs := t.regs, bus := t.bus } ∧
      t.rg .kvResult who.val = kvDone n ∧ t.rg .kvCount who.val = Word.ofNat (pack [(f.refs, 0), (f.pins, 16)]))

/-! ## Translation and pins (chapter 9) -/

/-- XLAT_INV starts an invalidation, BUSY until it completes; when the initiator's invalidations complete, no TLB
holds an entry they name, every other entry stays, and BUSY reads 0 (R214, Table 9.6). PIN_SET sets the pin bit of
every tile of the range; PIN_CLEAR clears those that no live context's descriptor names; no other pin bit changes
(R220, R222). S2–S7 may not write the pin map: both commands complete with FAULT_XLAT and change nothing (R220, R243).
-/
def Obligations.InvalidationAndPins : Prop :=
  (∀ (s : State) (who : Who) (first value : Word), s.takes who .xlatInv who.val →
     (s.does (.xlatInv who first value) fun t => t = { s with xlat := t.xlat, regs := t.regs, bus := t.bus } ∧
       t.xlat.tlb = s.xlat.tlb ∧ t.value .xlatInvStatus who.val 0 = 1 ∧
       t.xlat.invs = s.xlat.invs ++ [(who, if flag value 11 then none else some (field value 9 0),
         if flag value 10 || flag value 11 then none else some (first.toNat, field value 31 16 + 1))]) ∧
     s.does (.invalidationComplete who) fun t => t = { s with xlat := t.xlat } ∧
       t.value .xlatInvStatus who.val 0 = 0 ∧ (∀ i ∈ s.xlat.invs, i.1 ≠ who → i ∈ t.xlat.invs) ∧
       t.xlat.tlb = s.xlat.tlb.filter fun e =>
         !(s.xlat.invs.any fun i => i.1 = who && invNames i.2.1 i.2.2 e.ctx e.page)) ∧
  (∀ (s : State) (who : Who) (range : Word), s.takes who .xlatPinOp 0 →
     let named (n : Nat) := field range 18 0 ≤ n ∧ n < field range 18 0 + field range 31 19 + 1 ∧ n < 401408
     (s.does (.pinSet who range) fun t => t = { s with xlat := t.xlat, regs := t.regs, bus := t.bus } ∧
       (∀ n, named n → t.xlat.pins.at n false = true) ∧
       (∀ n, ¬named n → t.xlat.pins.at n false = s.xlat.pins.at n false)) ∧
     s.does (.pinClear who range) fun t => t = { s with xlat := t.xlat, regs := t.regs, bus := t.bus } ∧
       (∀ n, named n → s.descriptorNames (tileBase n) = false → t.xlat.pins.at n false = false) ∧
       (∀ n, named n → s.descriptorNames (tileBase n) = true → t.xlat.pins.at n false = s.xlat.pins.at n false) ∧
       ∀ n, ¬named n → t.xlat.pins.at n false = s.xlat.pins.at n false) ∧
  (∀ (s : State) (who : Who) (range : Word), privileged who = false → s.reachable = true →
     (s.does (.pinSet who range) fun t => t = { s with bus := s.bus.put who.val ⟨Code.faultXlat, 0⟩ }) ∧
     s.does (.pinClear who range) fun t => t = { s with bus := s.bus.put who.val ⟨Code.faultXlat, 0⟩ })

/-- MIGRATE of a page that one context maps to an unpinned PSRAM tile, to a tile of PSRAM that takes it: the new tile
holds the old tile's bytes, the leaf names the new tile, and no TLB names the old; neither tile then belongs to an
attempt or to a channel that retrains (R224, R234, R240). -/
def Obligations.MigrationMovesThePage : Prop :=
  ∀ (s : State) (c page new leaf pa : Nat), s.Canonical → s.calm = true → s.flips = [] → s.faults.inject = none →
    s.walks c (page * 65536) leaf pa → s.mappings (tilePa leaf) = [(pa, leaf)] → flag (BitVec.ofNat 64 leaf) 4 = false →
    s.pinned (tilePa leaf) = false → regionAt (tilePa leaf) = some .psram → s.sound (tilePa leaf) 65536 →
    s.moveOutcome (tilePa leaf) (new * 65536) = .go → s.moveWaits (tilePa leaf) (new * 65536) = false →
    s.mirrored (tilePa leaf) = false → s.takesPage (new * 65536) = true → regionAt (new * 65536) = some .psram →
    apart [(pa, 8), (tilePa leaf, 65536), (new * 65536, 65536)] →
    s.does (.migrate c page new) fun t =>
      (∀ i < 65536, Memory.byte t.mem (new * 65536 + i) = Memory.byte s.mem (tilePa leaf + i)) ∧
      t.holds pa (bytesOf 8 (leaf - tilePa leaf + new * 65536)) ∧ s.keepsBut t [(pa, 8), (new * 65536, 65536)] ∧
      (∀ e ∈ t.xlat.tlb, tilePa e.leaf.toNat ≠ tilePa leaf) ∧ t.xlat.pulls = s.xlat.pulls.erase (c, page) ∧
      t.locks = s.locks ∧ t.regs = s.regs

/-! ## Barges (chapter 9) -/

/-- BARGE_SUBMIT queues the descriptor it reads on its context's channel; nothing moves (R230, R244). BARGE_ISSUE puts
the first barge of a channel's queue in flight in the lowest free slot, once the channel comes first in the order of
service, and does nothing before; one with WAIT_EN whose Lock has not reached its target waits in the wait table, and
moves nothing (R228, R230, R232). -/
def Obligations.BargesAreSubmittedAndIssued : Prop :=
  (∀ (s : State) (who : Who) (c va : Nat) (b : List Byte), c < 1024 → s.takes who .bargeSubmit who.val →
     (s.ctx c).st ≠ .free → va % 64 = 0 → s.sees Stop.barge c va 64 b →
     s.does (.bargeSubmit who c va) fun t => t = { s with chanQueues := t.chanQueues, regs := t.regs, bus := t.bus } ∧
       t.chanQueues.at (channelFor c) [] = s.chanQueues.at (channelFor c) [] ++ [{ ctx := c, desc := BDesc.ofBytes b, who := some who }] ∧
       t.rf .bargeStatus who.val 7 0 = Code.ok ∧ t.answered who Code.ok) ∧
  (∀ (s : State) (n : Fin 64) (b : Barge) (rest : List Barge) (slot : Nat), s.calm = true → s.serves = true →
     s.chanQueues.at n.val [] = b :: rest → s.freeSlot n.val = some slot →
     (s.ctx b.ctx).ring.isFull (s.ctx b.ctx).desc.ringK = false → (s.ctx b.ctx).ring.held = [] →
     s.bargeCheck b = none → b.desc.dkind ≠ 3 → b.waitCode = none →
     let d := s.deadline b.desc.tmo
     (s.servedFirst n.val b = false → s.does (.bargeIssue n) fun t => t = s) ∧
     (s.servedFirst n.val b = true → b.desc.waitEn = false → s.does (.bargeIssue n) fun t =>
       t = { s with chanQueues := s.chanQueues.put n.val rest, served := n.val
                    flying := s.flying.put slot { b with deadline := d } }) ∧
     (s.servedFirst n.val b = true → b.desc.waitEn = true → (s.lockAt b.desc.waitLock).poisoned = false →
       reached (s.lockAt b.desc.waitLock).level b.desc.waitT = false → s.does (.bargeIssue n) fun t =>
       t = { s with chanQueues := s.chanQueues.put n.val rest, served := n.val, flying := t.flying, waits := t.waits } ∧
       t.flying.find slot = some { b with deadline := d, waiting := true } ∧
       t.waits = s.waits ++ [{ waiter := .barge slot, lock := b.desc.waitLock, target := b.desc.waitT, deadline := d }]))

/-- The attempt of a software barge in slot `slot`. -/
def bargeVia (b : Barge) (slot : Nat) : Via :=
  { ctx := b.ctx, stop := Stop.barge, slot := some slot, split := b.desc.split }

/-- BARGE_TILE_LAND of a barge of one tile from page to page in PSRAM: the destination holds the source's bytes, the tile
has landed, in the cycle of TMO with OK_AT_DEADLINE to come, and the bytes are charged. PARK_RESUME of the tile, once it
may go on, does the same (R192, R217, R218). -/
def Obligations.TileLandsWhole : Prop :=
  ∀ (s : State) (slot src dst : Nat) (b : Barge), s.Canonical → s.calm = true → s.flips = [] → s.faults.inject = none →
    s.flying.find slot = some b → b.go = none → b.waiting = false → b.waitCode = none → b.failed = false →
    b.landed = [] → b.desc.tiles = 1 → b.desc.conv = false → b.desc.regroup = 0 → b.desc.skind = 0 → b.desc.dkind = 0 →
    s.reaches (bargeVia b slot) b.desc.src false src → s.reaches (bargeVia b slot) (b.desc.dstVa 0) true dst →
    src % 65536 = 0 → dst % 65536 = 0 → regionAt src = some .psram → regionAt dst = some .psram → src ≠ dst →
    s.sound src 65536 → s.mirrored src = false → (∀ a, s.retraining a = false) →
    let lands (t : State) := (∀ i < 65536, Memory.byte t.mem (dst + i) = Memory.byte s.mem (src + i)) ∧
      s.keepsBut t [(dst, 65536)] ∧
      t.flying.find slot = some { b with
        landed := [0], parked := b.parked.erase 0
        okAtDeadline := b.okAtDeadline || (b.desc.dstTiles = 1 && s.atDeadline b.deadline) } ∧
      (t.ctx b.ctx).accts.at 10 0 = ((s.ctx b.ctx).accts.at 10 0 + 131072) % 2 ^ 64 ∧
      t.locks = s.locks ∧ t.regs = s.regs
    s.does (.bargeTileLand slot 0) lands ∧ (b.parked.contains 0 = true → s.does (.parkResume (.tile slot 0)) lands)

/-- BARGE_COMPLETE of a barge whose tiles have landed: its slot is free, its ADD is made on the Lock its context owns,
and with KREC it completes in its context's ring; one whose ADD's Lock its context owns no more leaves its slot too,
without the ADD (R33, R198, R231). BARGE_TIMEOUT of a barge of one tile that has not landed
frees the slot, with KREC completes, and tears nothing down (R186, R218). SPLIT_RETRY begins the one retry of a failed
barge or kernel, and counts it (R237). -/
def Obligations.BargesEndAndRetry : Prop :=
  (∀ (s : State) (slot : Nat) (b : Barge), s.calm = true → s.flying.find slot = some b → s.flying.rising = true →
     b.go = none → b.opened = [] → s.openTiles slot [] = [] → (s.ctx b.ctx).st ≠ .free → s.casc.masks = [] →
     b.desc.dkind ≠ 3 →
     let records (t : State) := t.completions b.ctx = s.completions b.ctx + (if b.desc.krec then 1 else 0)
     (b.whole = true → (b.desc.addEn = true → s.ownsLock b.ctx b.desc.addLock = true) →
       (∀ w ∈ s.waits, w.lock ≠ b.desc.addLock) → s.does (.bargeComplete slot) fun t =>
       t.flying.find slot = none ∧ records t ∧
       (b.desc.addEn = true →
         (t.lockAt b.desc.addLock).level = (s.lockAt b.desc.addLock).level + b.desc.addV) ∧
       (b.desc.addEn = false → t.locks = s.locks)) ∧
     (b.whole = true → b.desc.addEn = true → (s.lockAt b.desc.addLock).alloc = false →
       s.does (.bargeComplete slot) fun t => t.flying.find slot = none ∧ t.lockAt b.desc.addLock = s.lockAt b.desc.addLock) ∧
     (∀ d, b.deadline = some d → d * nsUnit ≤ s.clock.elapsed → b.whole = false → b.desc.tiles = 1 →
       s.does (.bargeTimeout slot) fun t => t.flying.find slot = none ∧ records t ∧ t.locks = s.locks ∧
         (t.ctx b.ctx).st = (s.ctx b.ctx).st)) ∧
  (∀ (s : State),
     (∀ slot b, s.flying.find slot = some b → b.failed = true → s.does (.splitRetry (.barge slot)) fun t =>
       t = { s with flying := s.flying.put slot { b with failed := false, retry := true }, regs := t.regs } ∧
       (t.rg .bargeRetries).toNat = min (2 ^ 32 - 1) ((s.rg .bargeRetries).toNat + 1)) ∧
     (∀ c k, (s.ctx c).kern = some k → k.phase = .failed → s.does (.splitRetry (.kernel c)) fun t =>
       t = { s with ctxs := s.ctxs.put c { s.ctx c with kern := some { k with phase := .again, retried := true } }
                    regs := t.regs } ∧
       (t.rg .bargeRetries).toNat = min (2 ^ 32 - 1) ((s.rg .bargeRetries).toNat + 1) ∧
       ∀ q < 64, s.qOwner q = some c → t.rg .weirQRd q = s.rg .weirQMk q))

/-! ## PSRAM and flash (R240 to R242, R458) -/

/-- PSRAM_BURST_CRC_FAIL with no barge in flight, no line on its way and no Gridder request running: the four retries are counted, the access that fails is recorded with
FAULT_LINK, and the channel retrains. CHANNEL_RETRAIN_END returns it to service with a repair record, or retires it
(R240, R458, R463). READ_DISTURB_REFRESH counts a refresh, but of a NAND channel that is retired. FTL_READY sets READY;
RDONLY reads 1 where the spare pool is exhausted, and an exhausted pool stays so (R241, R242, R245). The FTL's figures
are free values (log entry 20). -/
def Obligations.ChannelsAndFlashAreKept : Prop :=
  (∀ (s : State) (ch : Fin 96), s.calm = true →
     let p := s.psram.at ch.val {}
     (∀ pa crc, s.flying = [] → (∀ x ∈ s.ctxs, ∀ k, x.2.kern = some k → k.flights = []) → s.grid.running = none →
       (recent s.ns 10000000000 p.retrains).length < 2 →
       s.does (.psramBurstCrcFail ch pa crc) fun t =>
         (t.psram.at ch.val {}).retraining = true ∧ (t.psram.at ch.val {}).crcRetry = min 65535 (p.crcRetry + 4) ∧
         t.faults.seq = (s.faults.seq + 1) % 2 ^ 32 ∧ t.ctxs = s.ctxs ∧ t.locks = s.locks ∧ t.mem = s.mem) ∧
     (p.retraining = true → s.does (.channelRetrainEnd ch true) fun t =>
       (t.psram.at ch.val {}).retraining = false ∧ (t.psram.at ch.val {}).lost = p.lost ∧
       t.faults.seq = (s.faults.seq + 1) % 2 ^ 32 ∧ t.ctxs = s.ctxs ∧ t.mem = s.mem) ∧
     (p.retraining = true → p.lost = false → s.bitOf3 .pscLive ch.val = true → s.live ≠ [] →
       9 ≤ ((List.range 96).filter (s.bitOf3 .pscLive)).length → s.rf .faultRetUnits 0 21 20 ≠ 3 →
       s.does (.channelRetrainEnd ch false) fun t =>
         (t.psram.at ch.val {}).lost = true ∧ t.bitOf3 .pscLive ch.val = false ∧ t.bitOf3 .faultRetPsc ch.val = true ∧
         t.faults.seq = (s.faults.seq + 1) % 2 ^ 32 ∧ t.ctxs = s.ctxs ∧ t.mem = s.mem)) ∧
  (∀ (s : State),
     (∀ n b,
       (flag (s.rg .faultRetUnits) (16 + n.val) = false → s.does (.readDisturbRefresh n b) fun t =>
         t = { s with regs := t.regs, ftl := t.ftl, freeCount := s.freeCount + 2 } ∧
         (t.rg .ftlRefresh).toNat = min (2 ^ 32 - 1) ((s.rg .ftlRefresh).toNat + 1)) ∧
       (flag (s.rg .faultRetUnits) (16 + n.val) = true → s.does (.readDisturbRefresh n b) fun t => t = s)) ∧
     (s.calm = true → s.does .ftlReady fun t =>
       t = { s with regs := t.regs, ftl := t.ftl, freeCount := s.freeCount + 2 } ∧ flag (t.rg .ftlStatus) 0 = true ∧
       flag (t.rg .ftlStatus) 1 = t.ftl.spareGone ∧ (s.ftl.spareGone = true → t.ftl.spareGone = true)))

/-! ## The Weir and the sensor ports (chapter 11) -/

/-- No register outside the list is written. -/
def regsBut (s t : State) (offs : List Nat) : Prop := ∀ o, o ∉ offs → t.regs.find o = s.regs.find o

/-- The pointer commands of an initiator that may use the queue: ADVANCE moves RD by N, no further than CM; MARK and
REWIND copy RD to MK and back; RELEASE frees the lines below RD and marks there. Other initiators get FAULT_XLAT in
WEIR_s_STATUS, and nothing else changes (R285 to R287, R290). -/
def Obligations.WeirCommandsMovePointers : Prop :=
  ∀ (s : State) (who : Who) (q : Fin 64), s.takes who .weirCmd who.val →
    let allowed := privileged who = true ∨ flag (s.rg .weirQCfg q.val) 12 = true
    let status (t : State) (code : Nat) := t.rg .weirStatus who.val = setField (s.rg .weirStatus who.val) 7 0 code ∧
      t.answered who Code.ok
    let moved (r : Reg) (w : Word) (t : State) := t = { s with regs := t.regs, bus := t.bus } ∧ t.rg r q.val = w ∧
      status t Code.ok ∧ regsBut s t [r.off q.val 0, Reg.off .weirStatus who.val 0]
    let rd := s.rg .weirQRd q.val
    (allowed → (∀ n, n < 65536 → s.does (.weirAdvance who q n)
        (moved .weirQRd (rd + Word.ofNat (min n (s.rg .weirQCm q.val - rd).toNat)))) ∧
      s.does (.weirMark who q) (moved .weirQMk rd) ∧
      s.does (.weirRewind who q) (moved .weirQRd (s.rg .weirQMk q.val)) ∧
      s.does (.weirRelease who q) fun t => t = { s with regs := t.regs, ports := t.ports, bus := t.bus } ∧
        t.rg .weirQRl q.val = rd ∧ t.rg .weirQMk q.val = rd ∧ t.rg .weirQRd q.val = rd ∧ status t Code.ok ∧
        ∀ x, x < 64 → ∀ r ∈ [Reg.weirQWr, .weirQCm, .weirQRd, .weirQMk, .weirQRl], x ≠ q.val ∨ r = .weirQWr ∨ r = .weirQCm →
          t.rg r x = s.rg r x) ∧
    (¬allowed → ∀ c ∈ [Instr.weirAdvance who q 1, .weirMark who q, .weirRewind who q, .weirRelease who q],
      s.does c fun t => t = { s with regs := t.regs, bus := t.bus } ∧ status t Code.faultXlat ∧
        regsBut s t [Reg.off .weirStatus who.val 0])

/-- QUEUE_ENABLE of a queue that is off: with a region of two lines or more that lies in the Weir and meets no enabled
queue's, the queue is on and empty; with another it stays off and the write completes with FAULT_XLAT (R271).
AGED_CHECK sets AGED where the oldest committed packet is 2^31 ns old, PAUSE_REPEAT repeats the PAUSE of a MAC, 1 ms after
its last and with 0xFFFF quanta, for each of its queues whose state is set and whose ACT asks for it (R280, R281). RTMO_EXPIRY, once RTMO is over, ends the kernel of
the WEIRR that waited with TIMEOUT, and tears nothing down (R284). -/
def Obligations.QueuesAreEnabledAndWatched : Prop :=
  ∀ (s : State),
    (∀ (who : Who) (q : Fin 64) (cfg : Word), s.takes who .weirQCfg q.val → s.qOn q.val = false →
      (s.qClash q.val = false → 2 ≤ s.qSize q.val → s.does (.queueEnable who q cfg) fun t =>
        t = { s with regs := t.regs, ports := t.ports, bus := t.bus } ∧
        t.rg .weirQCfg q.val = (cfg ||| 1) &&& 0x1FFFFFFF ∧ t.queue q.val = {} ∧ t.qOcc q.val = 0 ∧
        (∀ r ∈ [Reg.weirQWr, .weirQCm, .weirQRd, .weirQMk, .weirQRl], t.rg r q.val = 0) ∧ t.answered who Code.ok) ∧
      (s.qClash q.val = true ∨ s.qSize q.val < 2 → s.does (.queueEnable who q cfg) fun t =>
        t = { s with regs := t.regs, bus := t.bus } ∧ t.qOn q.val = false ∧
        regsBut s t [Reg.off .weirQCfg q.val 0] ∧ t.answered who Code.faultXlat)) ∧
    (s.does .agedCheck fun t => t = { s with regs := t.regs } ∧ ∀ q, q < 64 → t.qOcc q = s.qOcc q ∧
      (s.qOn q = true → (flag (t.rg .weirQStat q) 20 = true ↔
        ∃ p rest, (s.queue q).packets = p :: rest ∧ p.stamp + 2 ^ 31 ≤ s.fullTime))) ∧
    (∀ m : Fin 8,
      let n := (List.range 64).countP fun q =>
        decide (s.qSource q = some (0x10 + m.val)) && flag (s.rg .weirQStat q) 19 && decide (2 ≤ s.qAct q)
      s.does (.pauseRepeat m) fun t => t.mem = s.mem ∧ t.ctxs = s.ctxs ∧ t.locks = s.locks ∧
        t.rg .ethPause m.val = s.rg .ethPause m.val + Word.ofNat n ∧
        (0 < n → s.ports.pauseNs.at m.val 0 + 10 ^ 6 ≤ t.ns ∧ t.ports.pauseOut.at m.val 0 = 0xFFFF ∧
          t.ports.pauseNs.at m.val 0 = t.ns) ∧
        ((s.ports.pauseNs.at m.val 0 + 10 ^ 6) * nsUnit ≤ s.clock.elapsed ∨ n = 0 →
          t = { s with regs := t.regs, ports := t.ports } ∧ regsBut s t [Reg.off .ethPause m.val 0])) ∧
    (∀ (e : Fin 8) (cell ch c d : Nat) (k : Kernel) (w : WeirWait) (j : Job) (rest : List Job), s.calm = true →
      (s.engine e.val).ctx = some c → (s.ctx c).kern = some k → k.phase = .running →
      k.weirWaits.find? (fun w => w.logical = (s.engine e.val).logical && w.cell = cell && w.chan = ch) = some w →
      w.deadline = some d → d * nsUnit ≤ s.clock.elapsed → (s.ctx c).jobs = j :: rest → j.krec = false →
      j.optimiser = none → j.pair = none → k.pins = [] → k.opened = [] → s.openTiles (512 + c) [] = [] →
      s.casc.masks = [] →
      s.does (.rtmoExpiry e cell ch) fun t => (t.ctx c).kern = none ∧ (t.ctx c).st = .ready ∧ (t.ctx c).jobs = rest ∧
        t.completions c = s.completions c + 1 ∧ t.locks = s.locks)

/-- Queue `q` is on, commits have no Lock, and no kernel of its owner waits for it. -/
def takesPackets (s : State) (q : Nat) : Prop :=
  q < 64 ∧ s.qOn q = true ∧ s.portsOn = true ∧ flag (s.rg .weirQCfg q) 28 = false ∧
  ∀ c, s.qOwner q = some c → (s.ctx c).kern = none

/-- Queue `q` has room for a packet of `n` bytes whose line counts do not wrap. -/
def roomFor (s : State) (q n : Nat) : Prop :=
  takesPackets s q ∧ s.qOcc q + (1 + (n + 63) / 64) ≤ s.qSize q ∧ (s.rg .weirQWr q).toNat + (1 + (n + 63) / 64) ≤ 2 ^ 32

/-- The open packet of a UART stands in queue `q`, WR behind its header line and its full lines, with room for one line
more. -/
def openIn (s : State) (q : Nat) (x : UartRx) : Prop :=
  takesPackets s q ∧ x.held = true ∧ s.rg .weirQWr q = Word.ofNat (x.start + 1 + x.bytes.length / 64) ∧
  s.qOcc q + 1 ≤ s.qSize q ∧ x.start + 2 + x.bytes.length / 64 ≤ 2 ^ 32

/-- A packet has been committed to queue `q` from line count `wr` on: its header line with length, source, stamp, SEQ and
LOST, then its bytes; WR and CM stand behind it; no byte outside the queue's region has changed (Table 11.1, R272 to
R275). -/
def committedAt (s t : State) (q wr : Nat) (h : Head) (bs : List Byte) : Prop :=
  t.rg .weirQWr q = Word.ofNat (wr + 1 + (bs.length + 63) / 64) ∧ t.rg .weirQCm q = t.rg .weirQWr q ∧
  t.holds (s.qLine q wr) (h.bytes bs.length (((s.queue q).seq + 1) % 2 ^ 32) (s.queue q).lost) ∧
  (∀ i, i < bs.length → Memory.byte t.mem (s.qLine q (wr + 1 + i / 64) + i % 64) = bs.getD i 0) ∧
  s.keepsBut t [(weirBase + s.qBase q * 64, s.qSize q * 64)] ∧ t.locks = s.locks ∧ t.ctxs = s.ctxs

/-- A packet that arrives whole is committed at WR. -/
def committed (s t : State) (q : Nat) (h : Head) (bs : List Byte) : Prop :=
  committedAt s t q (s.rg .weirQWr q).toNat h bs

/-- What a port delivers becomes one packet of its queue: a long packet of an enabled CSI-2 receiver by its first route,
a Frame End, a good Ethernet frame no rule takes by the MAC's default, the bytes of an SPI transaction, and the bytes of
a UART at its delimiter, its length or its idle close (R273 to R278). -/
def Obligations.PacketsAreCommitted : Prop :=
  ∀ (s : State) (q : Nat), s.calm = true →
    (∀ (r : Fin 12) (vc dt : Nat) (bs : List Byte) (crcOk : Bool) (w : Word), flag (s.rg .csiCfg r.val) 0 = true →
      (s.routes r.val vc).find? (fun w => flag w 11 || field w 10 5 = dt) = some w → field w 17 12 = q →
      roomFor s q bs.length → s.does (.csiLongPacket r vc dt bs crcOk true) fun t =>
        committed s t q { src := r.val, time := s.fullTime, crcErr := !crcOk
                          frame := s.ports.csiFrame.at (r.val * 16 + vc) 0, vc, dt } bs ∧
        t.rf .csiErr r.val 15 0 = if crcOk then s.rf .csiErr r.val 15 0 else min 65535 (s.rf .csiErr r.val 15 0 + 1)) ∧
    (∀ (r : Fin 12) (vc f : Nat), flag (s.rg .csiCfg r.val) 0 = true →
      ((s.routes r.val vc).map fun w => field w 17 12).dedup = [q] → roomFor s q 0 →
      s.does (.csiShortPacket r vc 1 (some f)) fun t =>
        committed s t q { src := r.val, time := s.fullTime, fe := true
                          frame := s.ports.csiFrame.at (r.val * 16 + vc) 0, vc, dt := 1 } []) ∧
    (∀ (m : Fin 8) (bs : List Byte) (link : EthLink), linkFits m.val link = true → 60 ≤ bs.length → bs.length ≤ 1518 →
      flag (s.rg .ethIng m.val) 0 = true → flag (s.rg .ethIng m.val) 1 = false → s.rf .ethIng m.val 7 2 = q →
      (EthHead.of bs).etherType ≠ 0x8808 → (∀ k, k < 8 → s.ruleTakes m.val k (EthHead.of bs) = false) →
      roomFor s q bs.length → s.does (.ethFrame m bs true link) fun t =>
        committed s t q { src := 0x10 + m.val, time := s.rxStamp m.val link, rule := 8 } bs) ∧
    (∀ (n : Fin 4) (bs : List Byte), s.ports.spiBusy.at n.val false = true →
      bs.length = s.rf .spiIng n.val 13 6 + 1 → s.rf .spiIng n.val 19 14 = q → roomFor s q bs.length →
      s.does (.spiTransactionEnd n bs) fun t =>
        committed s t q { src := 0x20 + n.val, time := s.fullTime } bs ∧ t.ports.spiBusy.at n.val false = false) ∧
    (∀ (n : Fin 4) (x : UartRx) (b : Byte) (ok : Bool), s.ports.uart.rising = true → s.ports.uart.find n.val = some x →
      s.rf .uartIng n.val 15 10 = q →
      (flag (s.rg .uartIng n.val) 0 = true → (flag (s.rg .uartIng n.val) 1 = true ∧ b.toNat = s.rf .uartIng n.val 9 2) ∨
          s.rf .uartIng n.val 26 16 ≤ x.bytes.length → openIn s q x →
        s.does (.uartByte n b ok) fun t =>
          committedAt s t q x.start { src := 0x28 + n.val, time := x.stamp } (x.bytes ++ [b]) ∧ t.ports.uart.find n.val = none) ∧
      ((x.last + s.bitTimes n.val 20) * nsUnit ≤ s.clock.elapsed → openIn s q x →
        s.does (.uartIdleClose n) fun t =>
          committedAt s t q x.start { src := 0x28 + n.val, time := x.stamp } x.bytes ∧ t.ports.uart.find n.val = none))

/-- What ports do without a packet: once its time has come a transaction of a periodic SPI port starts and clocks out its
template, or is skipped and counted while one runs, and the next is due a period later; with TRIG the command starts
none; a byte joins the UART's open packet, and completes a line, which WR passes, or finds no room, and the packet is
abandoned; a short packet of another type is discarded; a CAN frame goes to its controller's mailboxes, or on a failed CRC
is counted; the oldest reflex frame of a CAN controller leaves; a received PAUSE holds its MAC for its quanta, and the
stamp of a PTP event message sent once it is over enters the MAC's FIFO (R255, R258, R274 to R278, R343). -/
def Obligations.PortsBetweenPackets : Prop :=
  ∀ (s : State), s.awake = true → s.calm = true →
    (∀ n : Fin 4, flag (s.rg .spiIng n.val) 0 = true →
      let due := (s.ports.spiNext.find n.val).getD s.ns
      let next := s.ports.spiNext.put n.val (due + (s.rg .spiPeriod n.val).toNat)
      (flag (s.rg .spiIng n.val) 1 = true → s.does (.spiTransactionStart n) fun t => t = s) ∧
      (flag (s.rg .spiIng n.val) 1 = false → due * nsUnit ≤ s.clock.elapsed →
        (s.ports.spiBusy.at n.val false = false → s.does (.spiTransactionStart n) fun t =>
          t = { s with ports := { s.ports with spiNext := next, spiBusy := t.ports.spiBusy, spiOut := t.ports.spiOut } } ∧
          t.ports.spiBusy.at n.val false = true ∧ t.ports.spiOut.at n.val [] = s.spiBytes n.val) ∧
        (s.ports.spiBusy.at n.val false = true → s.does (.spiTransactionStart n) fun t =>
          t = { s with regs := t.regs, ports := { s.ports with spiNext := next } } ∧
          (t.rg .spiSkip n.val).toNat = min (2 ^ 32 - 1) ((s.rg .spiSkip n.val).toNat + 1)))) ∧
    (∀ (n : Fin 4) (b : Byte) (x : UartRx), flag (s.rg .uartIng n.val) 0 = true →
      flag (s.rg .uartIng n.val) 1 = false → s.ports.uart.find n.val = some x →
      x.bytes.length < s.rf .uartIng n.val 26 16 →
      let q := s.rf .uartIng n.val 15 10
      let y := { x with bytes := x.bytes ++ [b], last := s.ns }
      let line := s.qLine q (x.start + y.bytes.length / 64)
      (x.held = false ∨ y.bytes.length % 64 ≠ 0 → s.does (.uartByte n b true) fun t =>
        t = { s with ports := t.ports } ∧ t.ports.uart.find n.val = some y) ∧
      (openIn s q x → y.bytes.length % 64 = 0 → s.does (.uartByte n b true) fun t =>
        t.ports.uart.find n.val = some y ∧ t.rg .weirQWr q = s.rg .weirQWr q + 1 ∧ t.rg .weirQCm q = s.rg .weirQCm q ∧
        t.holds line (y.bytes.drop (y.bytes.length - 64)) ∧ s.keepsBut t [(line, 64)]) ∧
      (x.held = true → q < 64 → s.qSize q ≤ s.qOcc q → y.bytes.length % 64 = 0 → s.does (.uartByte n b true) fun t =>
        t.ports.uart.find n.val = some { y with held := false } ∧ t.rg .weirQWr q = Word.ofNat x.start ∧
        (t.rg .weirQDrop q).toNat = min (2 ^ 32 - 1) ((s.rg .weirQDrop q).toNat + 1) ∧ t.mem = s.mem)) ∧
    (∀ (r : Fin 12) (vc dt : Nat) (f : Option Nat), s.portsOn = true → flag (s.rg .csiCfg r.val) 0 = true → 2 ≤ dt →
      s.does (.csiShortPacket r vc dt f) fun t =>
        t = { s with regs := t.regs, ports := { s.ports with csiShort := s.ports.csiShort + 1 } } ∧
        (f.isSome = true → t.regs = s.regs)) ∧
    (∀ (p : Fin 8) (i : Nat) (x : Bool) (bs : List Byte),
      (s.does (.canFrameReceive p i x bs true) fun t =>
        t = { s with reflex := t.reflex, freeCount := t.freeCount } ∧
        t.reflex.canBox.at p.val [] = s.reflex.canBox.at p.val [] ++ [(i, x, bs)]) ∧
      s.does (.canFrameReceive p i x bs false) fun t => t = { s with reflex := t.reflex } ∧
        t.reflex.canBox = s.reflex.canBox ∧ t.reflex.canErr.at p.val 0 = s.reflex.canErr.at p.val 0 + 1) ∧
    (∀ (p : Fin 8) (f : CanFrame) (fs : List CanFrame), s.reflex.canTx.at p.val [] = f :: fs →
      s.does (.canTransmit p) fun t => t = { s with reflex := t.reflex } ∧ t.reflex.canTx.at p.val [] = fs) ∧
    (∀ (m : Fin 8) (p : PtpMessage) (link : EthLink), linkFits m.val link = true → p.msg ≤ 3 →
      (s.clock.ptp.at m.val []).length < 32 →
      (s.does (.eventMessageSent m p link) fun t => s.ports.paused.at m.val 0 ≤ t.ns) ∧
      (s.ports.paused.at m.val 0 * nsUnit ≤ s.clock.elapsed → s.does (.eventMessageSent m p link) fun t =>
        t = { s with clock := t.clock } ∧ t.clock.acc = s.clock.acc ∧
        t.clock.ptp.at m.val [] = s.clock.ptp.at m.val [] ++ [(s.txStamp m.val link, true, p.msg, p.seq % 65536)])) ∧
    (∀ (m : Fin 8) (bs : List Byte) (link : EthLink), linkFits m.val link = true → 60 ≤ bs.length → bs.length ≤ 1518 →
      (EthHead.of bs).etherType = 0x8808 → be16 bs (EthHead.of bs).body = 1 →
      s.does (.ethFrame m bs true link) fun t => t.mem = s.mem ∧ t.ctxs = s.ctxs ∧
        t.ports.paused.at m.val 0 = s.ns + be16 bs ((EthHead.of bs).body + 2) * pauseQuantum link / 10)

/-! ## The Gridder (chapter 12) -/

/-- GRID_SUBMIT queues the descriptor it reads. GRID_REQUEST_START takes, of the first 16 requests of each initiator, the
one of the lowest class, of these the first in the queue, and a request that starts copies its table with its GEN. A running
request yields only to one of a lower class and only at a boundary of 16,384 elements before its end: what it has processed
to there is written, and it waits first in the queue. GRID_REQUEST_COMPLETE of a SCATTER writes its planes, then its result
word with the table's GEN and the count of dropped points, and counts the completion (R294, R295, R298, R299). -/
def Obligations.GridRequestsRun : Prop :=
  ∀ (s : State), s.calm = true →
    (∀ (who : Who) (c va : Nat) (b : List Byte), c < 1024 → s.takes who .gridSubmit who.val → (s.ctx c).st ≠ .free →
      va % 128 = 0 → gridAligned b = true → s.sees Stop.grid c va 128 b →
      s.does (.gridSubmit who c va) fun t => t = { s with grid := t.grid, regs := t.regs, bus := t.bus } ∧
        t.grid = { s.grid with queue := s.grid.queue ++ [{ who, ctx := c, desc := b }] } ∧
        t.rf .gridStatus who.val 7 0 = Code.ok ∧ t.answered who Code.ok) ∧
    (∀ (i : Nat) (r : GridReq), s.serves = true → s.grid.queue[i]? = some r → s.gridQueued i = true → r.started = false →
      (∀ j q, s.grid.queue[j]? = some q → s.gridQueued j = true → (s.ctx r.ctx).desc.cls < (s.ctx q.ctx).desc.cls ∨
        (s.ctx r.ctx).desc.cls = (s.ctx q.ctx).desc.cls ∧ i ≤ j) →
      let tab := s.grid.tables.at r.tableNo {}
      (r.gather = true → tab.valid = true ∧ natAt tab.active 0x74 4 ≠ 3) →
      let now : GridReq := { r with table := tab.active, gen := tab.gen, started := true }
      (s.grid.running = none → s.does .gridRequestStart fun t => t = { s with grid := t.grid } ∧
        t.grid = { s.grid with queue := s.grid.queue.eraseIdx i, running := some now }) ∧
      (∀ old, s.grid.running = some old →
        (∀ (pts planes : List Byte) (spa dpa e₁ e₂ : Nat), (s.ctx r.ctx).desc.cls < (s.ctx old.ctx).desc.cls →
          old.gather = false → old.boundary < old.total →
          let out := scatter old planes pts
          s.sees Stop.grid old.ctx (daddr old.desc 8 + old.done * 16) ((old.boundary - old.done) * 16) pts →
          s.passes (gridVia old.ctx) (daddr old.desc 8 + old.done * 16) false spa e₁ →
          s.sees Stop.grid old.ctx (daddr old.desc 0x10) (4 * old.w * old.h * old.zb) planes →
          s.passes (gridVia old.ctx) (daddr old.desc 0x10) true dpa e₂ → regionAt dpa = some .psram →
          dpa % 65536 + out.1.length ≤ 65536 → apart [(dpa, out.1.length), (e₂, 8)] →
          s.does .gridRequestStart fun t => t.holds dpa out.1 ∧ s.keepsBut t [(dpa, out.1.length)] ∧
            t.grid = { s.grid with
              queue := { old with done := old.boundary, dropped := old.dropped + out.2 } :: s.grid.queue.eraseIdx i
              running := some now }) ∧
        ((s.ctx old.ctx).desc.cls ≤ (s.ctx r.ctx).desc.cls ∨ old.total ≤ old.boundary →
          s.does .gridRequestStart fun t => t = s))) ∧
    (∀ (r : GridReq) (pts : List Byte) (spa dpa rpa e₁ e₂ e₃ : Nat), s.grid.running = some r → r.gather = false →
      r.done = 0 → 0 < r.total →
      let out := scatter r r.blank pts
      s.sees Stop.grid r.ctx (daddr r.desc 8) (16 * r.total) pts → s.passes (gridVia r.ctx) (daddr r.desc 8) false spa e₁ →
      s.passes (gridVia r.ctx) (daddr r.desc 0x10) true dpa e₂ →
      s.passes (gridVia r.ctx) (daddr r.desc 0x18) true rpa e₃ →
      regionAt dpa = some .psram → regionAt rpa = some .psram → dpa % 65536 + out.1.length ≤ 65536 →
      rpa % 65536 + 8 ≤ 65536 → apart [(dpa, out.1.length), (rpa, 8), (e₂, 8)] →
      apart [(dpa, out.1.length), (rpa, 8), (e₃, 8)] →
      s.does (.gridRequestComplete false) fun t => t.grid = { s.grid with running := none } ∧ t.holds dpa out.1 ∧
        t.holds rpa (bytesOf 8 (pack [(r.code, 0), (r.gen, 16), (r.dropped + out.2, 32)])) ∧
        s.keepsBut t [(dpa, out.1.length), (rpa, 8)] ∧
        t.rf .gridStatus r.who.val 31 16 = (s.rf .gridStatus r.who.val 31 16 + 1) % 65536 ∧ t.locks = s.locks)

/-- LOAD fills a table's shadow; COMMIT of shadows that are all in order makes each active and raises its GEN, and
with one that is not it changes no table (R296, R297). LOAD takes its address as physical while context 1,023 has no
page tables (log entry 12). A write of GRID_ALIGN_q_DELTA is discarded in TRIG mode; in SOFT mode the register takes
it. A stream out of step or not locked is then excluded, counted and recorded, and one in step stays as it was (R305,
R307). -/
def Obligations.TablesAndAlignment : Prop :=
  (∀ (s : State) (who : Who), s.takes who .gridTabCmd who.val →
     (∀ n va, n < 256 → (s.ctx 1023).mapped = false → (regionAt va = some .basin ∨ regionAt va = some .psram) →
       s.sound va 128 → s.does (.gridLoad who n va) fun t => t = { s with grid := t.grid, regs := t.regs, bus := t.bus } ∧
         t.grid = { s.grid with tables := s.grid.tables.put n { s.grid.tables.at n {} with shadow := s.peek va 128 } } ∧
         t.rf .gridTabStatus who.val 7 0 = Code.ok ∧ t.answered who Code.ok) ∧
     (∀ n m, n < 256 → m < 256 →
       let inOrder := n + (m + 1) ≤ 256 ∧ ∀ i, i ≤ m → tableOk (s.grid.tables.at (n + i) {}).shadow = true
       (inOrder → s.does (.gridCommit who n m) fun t => t = { s with grid := t.grid, regs := t.regs, bus := t.bus } ∧
         (∀ i, t.grid.tables.at i {} = if n ≤ i ∧ i ≤ n + m then { s.grid.tables.at i {} with
             active := (s.grid.tables.at i {}).shadow, gen := ((s.grid.tables.at i {}).gen + 1) % 65536, valid := true }
           else s.grid.tables.at i {}) ∧
         t.grid.queue = s.grid.queue ∧ t.grid.running = s.grid.running ∧
         t.rf .gridTabStatus who.val 7 0 = Code.ok ∧ t.answered who Code.ok) ∧
       (¬inOrder → s.does (.gridCommit who n m) fun t => t = { s with regs := t.regs, bus := t.bus } ∧
         t.rf .gridTabStatus who.val 7 0 = Code.faultXlat ∧ t.answered who Code.ok))) ∧
  (∀ (s : State) (who : Who) (q : Fin 64) (v : Word), s.takes who .gridAlignDelta q.val →
     let cfg := s.rg .gridAlignCfg q.val
     let d := (signed 31 (field v 30 0)).natAbs
     (flag cfg 1 = true → s.does (.alignDeltaWrite who q v) fun t => t = { s with bus := t.bus } ∧ t.answered who Code.ok) ∧
     (flag cfg 1 = false → d < 2 ^ 30 →
       (flag cfg 0 = false ∨ (s.excluded q.val = false ∧ d ≤ (s.rg .gridAlignPeriod q.val).toNat ∧ flag v 31 = true) →
         s.does (.alignDeltaWrite who q v) fun t => t = { s with regs := t.regs, bus := t.bus } ∧
           t.rg .gridAlignDelta q.val = v ∧ regsBut s t [Reg.off .gridAlignDelta q.val 0] ∧ t.answered who Code.ok) ∧
       (flag cfg 0 = true → s.excluded q.val = false →
         ((s.rg .gridAlignPeriod q.val).toNat < d ∨ flag v 31 = false) →
         s.does (.alignDeltaWrite who q v) fun t => t.rg .gridAlignDelta q.val = v ∧ t.excluded q.val = true ∧
           (t.rg .gridStat).toNat = min (2 ^ 32 - 1) ((s.rg .gridStat).toNat + 1) ∧
           t.faults.seq = (s.faults.seq + 1) % 2 ^ 32 ∧ t.mem = s.mem ∧ t.answered who Code.ok)))

/-! ## The planner (chapter 13) -/

/-- PLAN_SUBMIT of a descriptor in order, whose regions and node pool are pinned: the request is accepted with OK, and is
under way or has completed in its context's ring (R326 to R331). PLAN_DEADLINE: the request whose DEADLINE has come first
leaves PLAN with its provisional result, its tile and its record in memory under BEST_EFFORT and one completion (R330,
R331). -/
def Obligations.PlanRequestsEnd : Prop :=
  ∀ (s : State), s.calm = true →
    (∀ (who : Who) (c va : Nat) (d : List Byte) (st sp np : Nat → Nat), c < 1024 → s.takes who .planSubmit who.val →
      (s.ctx c).st ≠ .free → (s.ctx c).desc.cls ≠ 0 → va % 256 = 0 → s.gets (planVia c) va 256 d →
      planAligned d = true → (natAt d 4 2 = 0xFFFF ∨ (s.program (natAt d 4 2)).isSome = true) →
      let pool := (s.rg .planNodeLo).toNat + s.rf .planNodeHi 0 15 0 * 2 ^ 32
      let n := s.rf .planNodeCount 0 29 0
      (∀ i, i < pagesOf (daddr d 0x68) (2 ^ (field (dword d 0) 19 16 + 16) * 16) →
        s.pinnedAt c ((daddr d 0x68 / 65536 + i) * 65536) (st i)) →
      (∀ i, i < pagesOf (daddr d 0x70) (2 ^ (field (dword d 0) 15 12 + 16) * 8) →
        s.pinnedAt c ((daddr d 0x70 / 65536 + i) * 65536) (sp i)) →
      (n ≠ 0 → ∀ i, i < pagesOf pool (n * 64) → s.pinnedAt s.planOwner ((pool / 65536 + i) * 65536) (np i)) →
      s.does (.planSubmit who c va) fun t => t.rf .planStatus who.val 7 0 = Code.ok ∧ t.answered who Code.ok ∧
        t.plan.submitted = s.plan.submitted + 1 ∧
        ((∃ r ∈ t.plan.requests, r.id = s.plan.submitted) ∨ s.completions c < t.completions c)) ∧
    (∀ (r : PlanReq) (dpa rpa e₁ e₂ : Nat), r ∈ s.plan.requests → r.ending = none →
      (∀ q ∈ s.plan.requests, q ≠ r → r.deadline < q.deadline) → r.deadline ≤ s.fullTime → (s.ctx r.ctx).st ≠ .free →
      s.passes (planVia r.ctx) (daddr r.desc 0x78) true dpa e₁ → s.passes (planVia r.ctx) (daddr r.desc 0x80) true rpa e₂ →
      regionAt dpa = some .psram → regionAt rpa = some .psram → dpa % 65536 = 0 → rpa % 65536 + 64 ≤ 65536 →
      apart [(dpa, 65536), (rpa, 64), (e₁, 8)] → apart [(dpa, 65536), (rpa, 64), (e₂, 8)] →
      (∀ pa, (s.ctx r.ctx).recordPa ((s.ctx r.ctx).ring.wr % 2 ^ (s.ctx r.ctx).desc.ringK) = some pa →
        apart [(dpa, 65536), (rpa, 64), (pa, 32)]) →
      let q := { r with fallback := r.fallback || r.optimising || r.optimised.isSome }
      s.does .planDeadline fun t => t.holds dpa (planTile q Code.bestEffort) ∧
        t.holds rpa (planRecord q Code.bestEffort) ∧ (∀ x ∈ t.plan.requests, x.id ≠ r.id) ∧
        t.completions r.ctx = s.completions r.ctx + 1 ∧ t.locks = s.locks)

/-- EPOCH_s_STATUS after a command: its code, and BUSY while the initiator's OPEN waits. -/
def epochDone (s t : State) (who : Who) (code : Nat) : Prop :=
  t.rf .epochStatus who.val 7 0 = code ∧
  (flag (t.value .epochStatus who.val 0) 8 = true ↔ t.plan.openWaiting = some who) ∧ t.answered who Code.ok ∧ t = { s with plan := t.plan, regs := t.regs, bus := t.bus }

/-- OPEN makes the one open epoch, numbered one above the current, with its root and layers; with 64 retained it waits,
BUSY, until OPEN_DEFERRED. LAYERS and DIRTY change the open epoch, PUBLISH makes it current, and each enabled watch latches
its address, holds the epoch and takes its boxes, ABANDON returns the nodes it made; without an open epoch these four change nothing and answer FAULT_XLAT, as
does a second OPEN (R311 to R313, R315, R333). -/
def Obligations.EpochCommandsMakeEpochs : Prop :=
  ∀ (s : State) (who : Who) (va : Nat), s.takes who .epochCmd who.val → s.calm = true →
    let fresh : Epoch := { num := s.current.num + 1, root := s.current.root, layers := s.current.layers }
    (s.plan.openEpoch = none → s.plan.openWaiting = none →
      (s.plan.epochs.length < 64 → s.does (.openEpoch who) fun t => epochDone s t who Code.ok ∧
        t.plan = { s.plan with openEpoch := some fresh }) ∧
      (64 ≤ s.plan.epochs.length → s.does (.openEpoch who) fun t => epochDone s t who (s.rf .epochStatus who.val 7 0) ∧
        t.plan = { s.plan with openWaiting := some who })) ∧
    (∀ (w : Who) (e : Epoch) (rest : List Epoch), s.plan.openEpoch = none → s.plan.openWaiting = some w →
      s.plan.epochs = e :: rest → rest ≠ [] → e.holds = 0 → rest.length ≤ 63 →
      s.does .openDeferred fun t => t = { s with plan := t.plan, regs := t.regs } ∧ t.plan.openWaiting = none ∧
        t.plan.openEpoch = some fresh ∧ t.plan.epochs.length < 64 ∧ t.current = s.current ∧
        (∀ x ∈ s.plan.epochs, x.holds ≠ 0 → x ∈ t.plan.epochs) ∧ t.rf .epochStatus w.val 7 0 = Code.ok) ∧
    (∀ e, s.plan.openEpoch = some e →
      (∀ b, s.gets (planVia s.planOwner) va 256 b → s.does (.epochLayers who va) fun t => epochDone s t who Code.ok ∧
        t.plan = { s.plan with openEpoch := some { e with layers := b } }) ∧
      (∀ b, s.gets (planVia s.planOwner) va 24 b → (∀ i, i < 6 → fpNaN (Word.ofNat (natAt b (4 * i) 4)) = false) →
        s.does (.epochDirty who va) fun t => epochDone s t who Code.ok ∧ t.plan = { s.plan with openEpoch := some { e with
          dirty := addBox e.dirty ((List.range 6).map fun i => coord (Word.ofNat (natAt b (4 * i) 4))) } }) ∧
      (s.plan.openWaiting = none → s.plan.requests = [] → s.does (.epochPublish who) fun t => epochDone s t who Code.ok ∧
        t.current = { e with holds := t.current.holds } ∧ t.plan.openEpoch = none ∧
        ∀ l, l < 16 → t.plan.watches.at l {} = if flag (s.rg .watchCfg l) 0 then { s.plan.watches.at l {} with
            latchedVa := some ((s.rg .watchVaLo l).toNat + s.rf .watchVaHi l 15 0 * 2 ^ 32), publishAt := s.ns
            held := some e.num, boxes := (s.plan.watches.at l {}).boxes ++ e.dirty }
          else s.plan.watches.at l {}) ∧
      (s.does (.epochAbandon who) fun t => epochDone s t who Code.ok ∧
        t.plan = { s.plan with openEpoch := none, freeNodes := s.plan.freeNodes ++ e.created }) ∧
      s.does (.openEpoch who) fun t => epochDone s t who Code.faultXlat ∧ t.plan = s.plan) ∧
    (s.plan.openEpoch = none → ∀ c ∈ [Instr.epochLayers who va, .epochDirty who va, .epochPublish who, .epochAbandon who],
      s.does c fun t => epochDone s t who Code.faultXlat ∧ t.plan = s.plan)

/-- An UPDATE of one item that sets an octant of the root cube, which the open epoch holds uniform in another state: a
node from the free ring takes the root's state but in that octant, the root names it, the root's cube and the octant are
dirty (R315; log entry 52), and the result word counts one item applied (R318 to R320). The layout of an UPDATE descriptor is not stated; what it names is
a hypothesis. WATCH_CHECK of a latched watch whose new boxes are none: the check is counted, its hold dropped, nothing blocked is found,
and no repair starts (R333). -/
def Obligations.UpdatesAndWatches : Prop :=
  (∀ (s : State) (who : Who) (va list result tile rpa : Nat) (d item : List Byte) (e : Epoch) (x y z entry : Nat),
     s.takes who .planSubmit who.val → s.calm = true → s.planOwner < 1024 → s.plan.openEpoch = some e → (s.ctx s.planOwner).st ≠ .free →
     s.gets (planVia s.planOwner) va 256 d → Config.updateDescriptor d = (list, 1, result) →
     s.gets (planVia s.planOwner) list 16 item →
     let w (i : Nat) : Word := Word.ofNat (natAt item (4 * i) 4)
     (∀ i, i < 3 → fpNaN (w i) = false) → s.voxelIndex 0 (w 0) = some x → s.voxelIndex 1 (w 1) = some y →
     s.voxelIndex 2 (w 2) = some z → field (w 3) 7 4 = 1 → field (w 3) 1 0 ≠ 3 → e.root.toNat < 3 →
     e.root ≠ Word.ofNat (field (w 3) 1 0) → s.plan.nextNode < s.rf .planNodeCount 0 29 0 →
     let nva := (s.rg .planNodeLo).toNat + s.rf .planNodeHi 0 15 0 * 2 ^ 32 + s.plan.nextNode * 64
     s.pinnedAt s.planOwner nva tile → nva % 64 = 0 → s.passes (planVia s.planOwner) result true rpa entry →
     regionAt rpa = some .psram → rpa % 65536 + 16 ≤ 65536 → apart [(tile + nva % 65536, 64), (rpa, 16), (entry, 8)] →
     s.does (.voxelUpdate who s.planOwner va) fun t =>
       t.holds (tile + nva % 65536) ((((List.replicate 8 e.root).set (x / 2 ^ 15 + 2 * (y / 2 ^ 15) + 4 * (z / 2 ^ 15))
         (Word.ofNat (field (w 3) 1 0))).flatMap fun v => bytesOf 4 v.toNat) ++ bytesOf 8 e.num) ∧
       t.holds rpa (bytesOf 16 (pack [(Code.ok, 0), (1, 16), (0, 64)])) ∧
       s.keepsBut t [(tile + nva % 65536, 64), (rpa, 16)] ∧
       (∃ f, t.plan.openEpoch = some f ∧ f.root = Word.ofNat (3 + 4 * s.plan.nextNode) ∧
         f.dirty = addBox (addBox e.dirty (s.cube 0 x y z)) (s.cube 1 x y z) ∧ f.created = e.created ++ [s.plan.nextNode]) ∧
       t.plan.nextNode = s.plan.nextNode + 1 ∧ t.rf .planStatus who.val 7 0 = Code.ok ∧ t.answered who Code.ok) ∧
  (∀ (s : State) (l : Fin 16) (va : Nat) (b d m : List Byte), s.calm = true →
     let w := s.plan.watches.at l.val {}
     let v := planVia (s.rf .watchCfg l.val 10 1)
     w.latchedVa = some va → w.boxes = [] → s.gets v va 65536 b →
     s.gets v ((s.rg .watchDescLo l.val).toNat + s.rf .watchDescHi l.val 15 0 * 2 ^ 32) 256 d →
     s.gets v (daddr d 0x58) 2272 m → s.plan.openWaiting = none →
     s.does (.watchCheck l) fun t => t = { s with plan := t.plan } ∧
       t.plan.watches.at l.val {} = { w with latchedVa := none, held := none, checks := (w.checks + 1) % 65536
                                             firstHit := 0x3FF, stopHit := false } ∧
       t.plan.requests = s.plan.requests ∧ (w.held = none → t.plan.epochs = s.plan.epochs) ∧
       (∀ e, s.plan.epochs = [e] → w.held = some e.num → t.plan.epochs = [{ e with holds := e.holds - 1 }]))

/-! ## Device time (chapter 14) -/

/-- A sample in TIME_OFS is ignored unless SRC is 2, and in the cycle of a step. One of 1 ms or more is marked and clears LOCKED, and TIME_ADJ holds; the
first one starts an interval; a later one sets TIME_ADJ by the servo, from the time since the last. HOLDOVER after 2 s
and OSCILLATOR_FAIL clear LOCKED, set HOLDOVER and hold TIME_ADJ (R341, R342, R353, R462). -/
def Obligations.ServoFollowsSamples : Prop :=
  ∀ (s : State),
    (∀ (who : Who) (theta : Word), s.takes who .timeOfs 0 →
      (s.rf .timeCfg 0 1 0 ≠ 2 ∨ s.clock.justStepped = true → s.does (.timeOfs who theta) fun t => t = { s with bus := t.bus }) ∧
      (s.rf .timeCfg 0 1 0 = 2 → s.clock.justStepped = false →
        (1000000 ≤ theta.toInt.natAbs → s.does (.timeOfs who theta) fun t =>
          t = { s with clock := t.clock, regs := t.regs, bus := t.bus } ∧ t.rg .timeLastofs = theta ∧
          flag (t.rg .timeStat) 5 = true ∧ flag (t.rg .timeStat) 3 = false ∧ t.rg .timeAdj = s.rg .timeAdj) ∧
        (theta.toInt.natAbs < 1000000 → s.clock.first = true ∨ s.clock.lastSample = none →
          s.does (.timeOfs who theta) fun t => t = { s with clock := t.clock, regs := t.regs, bus := t.bus } ∧
            t.rg .timeLastofs = theta ∧ t.rg .timeAdj = s.rg .timeAdj ∧ t.clock.first = false ∧
            t.clock.lastSample = some s.clock.elapsed) ∧
        (∀ last, theta.toInt.natAbs < 1000000 → s.clock.first = false → s.clock.lastSample = some last →
          let y : Rat := -(theta.toInt : Rat) / ((max (2 * nsUnit) (s.clock.elapsed - last) : Nat) / (nsUnit : Rat))
          let integ := clampRate (s.clock.integ + y / 2 ^ s.rf .timeCfg 0 13 10)
          s.does (.timeOfs who theta) fun t => t = { s with clock := t.clock, regs := t.regs, bus := t.bus } ∧
            t.rg .timeLastofs = theta ∧ t.clock.integ = integ ∧
            t.rg .timeAdj = BitVec.ofInt 32 (adjOf (clampRate (integ + y / 2 ^ s.rf .timeCfg 0 9 6))) ∧
            t.clock.acc = s.clock.acc ∧ t.clock.lastSample = some s.clock.elapsed))) ∧
    ((s.clock.lastOfsTime + 2000000000) * nsUnit ≤ s.clock.elapsed → s.does .holdover fun t =>
      t = { s with regs := t.regs } ∧ regsBut s t [Reg.off .timeStat 0 0] ∧ flag (t.rg .timeStat) 3 = false ∧
      flag (t.rg .timeStat) 4 = true) ∧
    (s.clock.backupOsc = false → s.does .oscillatorFail fun t =>
      t = { s with regs := t.regs, clock := { s.clock with backupOsc := true } } ∧
      regsBut s t [Reg.off .timeStat 0 0] ∧ flag (t.rg .timeStat) 3 = false ∧ flag (t.rg .timeStat) 4 = true)

/-- TO_ARM of an idle output: a pulse in the future waits for START, a late one fires at once and is marked, and a
periodic one with no proper width or period stays off and answers FAULT_XLAT. TIMED_OUTPUT_EDGE drives the edge that is
due: a leading edge asserts the output until WIDTH is over, and a periodic output goes on with its next edge
(R347, R348, R350). -/
def Obligations.TimedOutputsFire : Prop :=
  ∀ (s : State) (n : Fin 16),
    let x := s.clock.timed.at n.val {}
    let now (t : State) := t.clock.timed.at n.val {}
    let trail := if s.toWidth n.val = 0 then none else some (s.clock.elapsed + s.toWidth n.val * nsUnit)
    (∀ (who : Who) (cfg : Word), s.takes who .toCfg n.val → s.toMode n.val = 0 →
      (field cfg 1 0 = 1 → s.does (.toArm who n cfg) fun t =>
        t = { s with clock := t.clock, regs := t.regs, ports := t.ports, bus := t.bus } ∧ t.toMode n.val = 1 ∧
        t.answered who Code.ok ∧ t.clock.elapsed = s.clock.elapsed ∧
        now t = if s.toStart n.val < s.fullTime then
            { x with next := none, asserted := true, lastLead := s.fullTime, trail := trail }
          else { x with next := some (0, s.toStart n.val) }) ∧
      (field cfg 1 0 = 2 → ¬(0 < s.toWidth n.val ∧ s.toWidth n.val < (s.rg .toPeriod n.val).toNat ∧
          100 ≤ (s.rg .toPeriod n.val).toNat) → s.does (.toArm who n cfg) fun t =>
        t = { s with regs := t.regs, ports := t.ports, bus := t.bus } ∧ t.toMode n.val = 0 ∧
        t.answered who Code.faultXlat)) ∧
    (∀ k time, x.next = some (k, time) → x.trail = none → x.reflex = [] → time ≤ s.fullTime →
      s.does (.timedOutputEdge n) fun t => t = { s with clock := t.clock } ∧ t.clock.elapsed = s.clock.elapsed ∧
        now t = { x with next := if s.toMode n.val = 2 then some (k + 1, s.edgeTime n.val (k + 1)) else none
                         asserted := true, lastLead := time, trail := trail }) ∧
    (∀ e, x.trail = some e → x.next = none → x.reflex = [] → e ≤ s.clock.elapsed →
      s.does (.timedOutputEdge n) fun t => t = { s with clock := t.clock } ∧ t.clock.elapsed = s.clock.elapsed ∧
        now t = { x with trail := none, asserted := false })

/-- TIME_COUNTER_WRAP: the nanosecond counter is 0 again and PEND one higher, or, with three wraps not folded, the
wrap is lost, marked and recorded. ERA_ACK folds k of the wraps that are pending and leaves device time as it is; more
than PEND is discarded. STEP_GO moves full device time by the step, and neither elapsed time nor PEND (R338, R339,
R344). CAPTURE_EDGE of an enabled input, of an edge it selects and no closer than its filter lets pass: full device
time and the level enter its FIFO, and with 16 in it are counted instead. TC_POP and PTP_POP take the oldest entry
away (R343, R351, R352). -/
def Obligations.DeviceTimeMovesAndIsCaptured : Prop :=
  (∀ (s : State),
     (s.power.state = .run ∨ s.power.state = .idle →
       (s.clock.pend < 3 → s.does .timeCounterWrap fun t => t = { s with clock := t.clock } ∧
         t.clock = { s.clock with acc := 0, pend := s.clock.pend + 1
                                  elapsed := s.clock.elapsed + (2 ^ 64 - s.clock.acc.toNat) }) ∧
       (s.clock.pend = 3 → s.does .timeCounterWrap fun t => t.clock.acc = 0 ∧ t.clock.pend = 3 ∧
         t.clock.era = s.clock.era ∧ flag (t.rg .timeStat) 2 = true ∧ t.faults.seq = (s.faults.seq + 1) % 2 ^ 32 ∧
         t.mem = s.mem ∧ t.locks = s.locks)) ∧
     (∀ (who : Who) (k : Nat), s.takes who .timeEraAck 0 → k < 4 →
       (k ≤ s.clock.pend → s.does (.eraAck who k) fun t => t = { s with clock := t.clock, bus := t.bus } ∧
         t.clock.pend = s.clock.pend - k ∧ t.clock.era = (s.clock.era + k) % 2 ^ 32 ∧ t.fullTime = s.fullTime ∧
         t.clock.elapsed = s.clock.elapsed ∧ t.answered who Code.ok) ∧
       (s.clock.pend < k → s.does (.eraAck who k) fun t => t = { s with bus := t.bus } ∧ t.answered who Code.ok)) ∧
     (∀ (who : Who), s.takes who .timeStepGo 0 → s.calm = true → s.plan.requests = [] → s.clock.pend ≤ 3 →
       s.does (.stepGo who) fun t => t = { s with clock := t.clock, regs := t.regs, bus := t.bus } ∧
         (t.fullTime : Int) = ((s.fullTime : Int) +
           signed 64 ((s.rg .timeStepLo).toNat + (s.rg .timeStepHi).toNat * 2 ^ 32)) % 2 ^ 64 ∧
         t.clock.elapsed = s.clock.elapsed ∧ t.clock.pend = s.clock.pend ∧ t.clock.justStepped = true ∧
         flag (t.rg .timeStat) 6 = true ∧
         flag (t.rg .timeStat) 3 = false ∧ t.answered who Code.ok)) ∧
  (∀ (s : State),
     (∀ (n : Fin 16) (level : Bool), flag (s.rg .tcCfg n.val) 0 = true →
       (s.rf .tcCfg n.val 2 1 = 3 ∨ s.rf .tcCfg n.val 2 1 = if level then 1 else 2) →
       (s.rf .tcCfg n.val 7 3 ≠ 0 ∨ ∀ e, s.clock.tcLast.find n.val = some e → e + 4 * nsUnit ≤ s.clock.elapsed) →
       let q := s.clock.tc.at n.val []
       s.does (.captureEdge n level) fun t => t.mem = s.mem ∧ t.locks = s.locks ∧ t.ctxs = s.ctxs ∧
         t.clock.acc = s.clock.acc ∧ t.clock.tcLast.find n.val = some s.clock.elapsed ∧
         (q.length < 16 → t.clock.tc.at n.val [] = q ++ [(s.fullTime, level)]) ∧
         (16 ≤ q.length → t.clock.tc.at n.val [] = q ∧
           t.rf .tcStat n.val 15 8 = min 255 (s.rf .tcStat n.val 15 8 + 1))) ∧
     (∀ (who : Who) (n : Fin 16), s.takes who .tcPop n.val → s.does (.tcPop who n) fun t =>
       t = { s with clock := t.clock, bus := t.bus } ∧ t.clock.tc.at n.val [] = (s.clock.tc.at n.val []).tail ∧
       t.answered who Code.ok) ∧
     (∀ (who : Who) (m : Fin 8), s.takes who .ptpPop m.val → s.does (.ptpPop who m) fun t =>
       t = { s with clock := t.clock, bus := t.bus } ∧ t.clock.ptp.at m.val [] = (s.clock.ptp.at m.val []).tail ∧
       t.answered who Code.ok))

/-! ## The reflex lane (chapter 10) -/

/-- The leash commands of S0, S1 and the host, by REFX_s_STATUS: BIND, where R253's checks pass, leaves the leash
in its stop branch under cause 1; UNBIND needs a latched one; COMMIT is accepted if every member's copy is in order, and
waits for its seal; RESUME clears a latch, but not one of cause 6 or 9 nor one that came up in the same cycle; STOP latches
the leash in its stop branch under cause 7, in the place of a KILL of the same cycle (R268); a command on a leash that is
not bound answers FAULT_XLAT. S2–S7 may only COMMIT (R253, R260, R262, R267, R269). -/
def Obligations.LeashCommandsSetTheMode : Prop :=
  ∀ (s : State) (who : Who) (n : Fin 16), s.takes who .refxCmd who.val →
    let l := s.leash n.val
    let done (c : Instr) (code : Nat) (x : Leash) := s.does c fun t =>
      t = { s with reflex := t.reflex, regs := t.regs, bus := t.bus } ∧ t.leash n.val = x ∧
      t.rf .refxStatus who.val 7 0 = code ∧ regsBut s t [Reg.off .refxStatus who.val 0] ∧
      t.reflex.triads = s.reflex.triads ∧ t.answered who Code.ok
    let codes := (s.members (n.val / 8)).map fun m => commitCheck (s.peek (slicePa m (trajTile n.val (!l.liveHigh))) 65536)
    (privileged who = true →
      (s.bindCode n.val = Code.ok → (s.triad (n.val / 8)).state ≠ 2 → done (.leashBind who n) Code.ok
        { mode := 2, cause := 1, lastCommit := s.reflex.slot, out := l.out, ovr := l.ovr }) ∧
      (s.bindCode n.val ≠ Code.ok → done (.leashBind who n) (s.bindCode n.val) l) ∧
      (2 ≤ l.mode → l.latch = true → done (.leashUnbind who n) Code.ok { out := l.out, ovr := l.ovr }) ∧
      (l.mode = 0 ∨ l.latch = false ∧ (s.triad (n.val / 8)).state ≠ 2 → done (.leashUnbind who n) Code.faultXlat l) ∧
      (l.mode ≠ 0 → l.latch = true → l.cause ≠ 6 → l.cause ≠ 9 →
        (l.causeNs ≠ s.ns → done (.leashResume who n) Code.ok { l with latch := false, cause := 0 }) ∧
        (l.causeNs = s.ns → done (.leashResume who n) Code.ok l)) ∧
      (l.mode ≠ 0 → l.latch = false → l.cause ≠ 8 → done (.leashStop who n) Code.ok
        { l with mode := 2, cause := 7, latch := true, causeNs := s.ns }) ∧
      (l.mode ≠ 0 → l.cause = 8 → l.causeNs = s.ns → done (.leashStop who n) Code.ok { l with cause := 7 }) ∧
      (l.mode = 0 → ∀ c ∈ [Instr.leashResume who n, .leashStop who n], done c Code.faultXlat l)) ∧
    (l.mode ≠ 0 → (∀ c ∈ codes, c = Code.ok) →
      done (.leashCommit who n) Code.ok { l with pending := true, lastCommit := s.reflex.slot, commitNs := s.ns }) ∧
    (∀ c, l.mode ≠ 0 → codes.find? (· ≠ Code.ok) = some c → done (.leashCommit who n) c l) ∧
    (l.mode = 0 → done (.leashCommit who n) Code.faultXlat l) ∧
    (privileged who = false → ∀ c ∈ [Instr.leashBind who n, .leashUnbind who n, .leashResume who n, .leashStop who n,
      .triadReinit who n], s.does c fun t => t = { s with bus := t.bus } ∧ t.answered who Code.faultXlat)

/-- SLOT_TICK at its boundary: the slot counter rises and nothing else happens where no leash is bound; in the output
slot of the one bound leash its voted payload is placed at the SPI port its output names, and is counted. An input
that arrives is held, with its time, by each bound leash that reads it (R249, R254 to R256). -/
def Obligations.SlotsEmitAndInputsAreHeld : Prop :=
  ∀ (s : State), s.awake = true → s.calm = true →
    (s.reflex.nextBoundary * nsUnit ≤ s.clock.elapsed →
      (s.bound 0 ++ s.bound 1 = [] → s.does (.slotTick []) fun t => t = { s with reflex := t.reflex } ∧
        t.reflex = { s.reflex with slot := (s.reflex.slot + 1) % 2 ^ 64, slotTime := t.reflex.slotTime
                                   nextBoundary := s.reflex.nextBoundary + 1000 }) ∧
      (∀ n payload port, s.bound 0 ++ s.bound 1 = [n] →
        let d := s.leashOf n
        let e := s.leashOutput n 0
        let slot := (s.reflex.slot + 1) % 2 ^ 64
        slot % d.period = d.phase → 50 ≤ d.period → d.phase < d.period → d.budget ≤ 8 → d.nout = 1 → d.lockEn = false →
        (s.leash n).mode ≠ 3 → (s.leash n).sealed.map (·.1) = some slot → (s.leash n).voted = some (slot, [payload]) →
        e.kind = 3 → e.port = port → s.does (.slotTick []) fun t => t = { s with reflex := t.reflex } ∧
          t.reflex.slot = slot ∧ t.reflex.spiTx.find port = some payload ∧
          (t.leash n).out = ((s.leash n).out + 1) % 2 ^ 32)) ∧
    (∀ (src : ReflexSource) (bs : List Byte) (n k : Nat), n ∈ s.bound 0 ++ s.bound 1 → k < (s.leashOf n).nin →
      let e := s.leashInput n k
      e.takes src = true → e.kind ≠ 4 → e.off + e.len ≤ bs.length → s.does (.reflexInputArrival src bs) fun t =>
        t = { s with reflex := t.reflex, freeCount := t.freeCount } ∧
        (t.leash n).inputs.find k = some { bytes := (bs.drop e.off).take e.len, arrival := s.ns })

/-- A write to slice SRAM that R251 accepts reaches every member at one offset; another, a barge of more than one tile and a
write to a slice of no triad are recorded and change no memory. REINIT of a triad whose leashes are unbound loads the
leash code into every member and zeroes its other tiles; where every member passes its self-test, whose outcome is free,
the triad is TRIPLE again of the same members. With a leash bound it answers FAULT_XLAT. SLICE_RAIL_LOW marks the member for its next vote. A failed reflex ring is recorded once (R248, R251,
R264, R429). -/
def Obligations.SliceMemoryIsWrittenInEveryMember : Prop :=
  ∀ (s : State),
    (∀ (w : SliceWriter) (x off : Nat) (bs : List Byte), x < 8 → off < 0x20_0000 →
      (∀ t, s.triadOf x = some t → s.sliceAccepts t off bs.length = true → (∀ m, w = .barge m → m ≤ 1) →
        s.does (.sliceSramWrite w (slicePa x off) bs) fun u => (∀ m ∈ s.members t, u.holds (slicePa m off) bs) ∧
          s.keepsBut u ((s.members t ++ s.copying t).map fun m => (slicePa m off, bs.length)) ∧ u.regs = s.regs) ∧
      (s.triadOf x = none ∨ (∃ t, s.triadOf x = some t ∧ s.sliceAccepts t off bs.length = false) ∨
          (∃ m, w = .barge m ∧ 1 < m) →
        s.does (.sliceSramWrite w (slicePa x off) bs) fun u =>
          u.mem = s.mem ∧ u.faults.seq = (s.faults.seq + 1) % 2 ^ 32)) ∧
    (∀ (who : Who) (n : Fin 16) (a b c : Nat), s.takes who .refxCmd who.val → privileged who = true →
      let t := n.val / 8
      let code := (Config.leashCode s.reflex.code t).take 0x4_0000
      (s.bound t = [] → s.does (.triadReinit who n) fun u => u.answered who Code.ok ∧
        (∀ m ∈ u.members t, u.holds (slicePa m 0) code ∧
          ∀ i, code.length ≤ i → i < 0x20_0000 → Memory.byte u.mem (slicePa m i) = 0) ∧
        s.keepsBut u ((u.members t).map fun m => (slicePa m 0, 0x20_0000)) ∧
        ((∀ m ∈ [a, b, c], flag (Config.freeWord s.freeCount) m = false) → s.members t = [a, b, c] →
          a ≠ b → a ≠ c → b ≠ c → (∀ p, p < 3 → s.position (1 - t) p ∉ [a, b, c]) →
          (u.triad t).state = 0 ∧ u.members t = [a, b, c] ∧ u.rf .refxStatus who.val 7 0 = Code.ok)) ∧
      (s.bound t ≠ [] → s.does (.triadReinit who n) fun u => u = { s with regs := u.regs, bus := u.bus } ∧
        u.rf .refxStatus who.val 7 0 = Code.faultXlat ∧ u.answered who Code.ok)) ∧
    (∀ x : Fin 8, s.role x.val = 1 → s.reflex.low.contains x.val = false → s.does (.sliceRailLow x) fun t =>
      t = { s with reflex := { s.reflex with low := s.reflex.low ++ [x.val] } }) ∧
    (∀ r : Fin 2, (flag (s.rg .faultRetLink) (6 + r.val) = true → s.does (.reflexRingLinkFailure r) fun t => t = s) ∧
      (flag (s.rg .faultRetLink) (6 + r.val) = false → s.does (.reflexRingLinkFailure r) fun t =>
        flag (t.rg .faultRetLink) (6 + r.val) = true ∧ t.faults.seq = (s.faults.seq + 1) % 2 ^ 32 ∧
        t.mem = s.mem ∧ t.reflex = s.reflex))

/-- The rebuild of a triad, stage by stage: the spare's domain is on, its self-test passes and it takes a copy of the
first member's SRAM, the first copy ends, and in two quiet slots it joins in the vacated position: the triad is TRIPLE
again, and the repair is recorded. A spare that fails is retired (R265, R266). -/
def Obligations.TriadsAreRebuilt : Prop :=
  ∀ (s : State) (t : Fin 2) (x : Nat), x < 8 →
    let r := s.triad t.val
    (r.rebuild = some (.wake, x) → s.does (.spareDomainReady t) fun u => u = { s with regs := u.regs, reflex := u.reflex } ∧
      u.bitOf3 .pwrDom (42 + x) = true ∧ u.triad t.val = { r with rebuild := some (.selfTest, x) }) ∧
    (r.rebuild = some (.selfTest, x) →
      (s.firstMember t.val ≠ x → s.firstMember t.val < 8 → s.does (.selfTestComplete t true) fun u =>
        u.triad t.val = { r with rebuild := some (.copy, x) } ∧ s.keepsBut u [(slicePa x 0, 0x20_0000)] ∧
        (∀ i, i < 0x20_0000 → Memory.byte u.mem (slicePa x i) = Memory.byte s.mem (slicePa (s.firstMember t.val) i)) ∧
        u.regs = s.regs) ∧
      (s.role x = 3 → s.does (.selfTestComplete t false) fun u => u.role x = 2 ∧
        flag (u.rg .faultRetUnits) (8 + x) = true ∧ u.faults.seq = (s.faults.seq + 1) % 2 ^ 32 ∧ u.mem = s.mem ∧
        (u.triad t.val).state = r.state ∧ ∀ k, (u.triad t.val).rebuild ≠ some (k, x))) ∧
    (r.rebuild = some (.copy, x) → s.does (.firstCopyComplete t) fun u => u = { s with reflex := u.reflex } ∧
      u.triad t.val = { r with rebuild := some (.quiet, x) }) ∧
    (r.rebuild = some (.quiet, x) → s.quietNow t.val = true → r.gap < 3 →
      (∀ p, p < 3 → p ≠ r.gap → s.role (s.position t.val p) = 1 ∧ s.position t.val p ≠ x) → s.does (.rebuildJoin t) fun u =>
        u.position t.val r.gap = x ∧ u.role x = 1 ∧ u.triad t.val = { r with state := 0, rebuild := none, fresh := true } ∧
        (∀ p, p < 3 → p ≠ r.gap → u.position t.val p = s.position t.val p) ∧
        u.faults.seq = (s.faults.seq + 1) % 2 ^ 32 ∧
        s.keepsBut u [(slicePa x 0x5_0000, 0x1_0000), (slicePa x 0x7_0000, 0x1_0000)])

/-! ## The host link (chapter 15) -/

/-- Bytes of function 1 memory from `a` on. -/
def ramHolds (s : State) (a : Nat) (bs : List Byte) : Prop :=
  ∀ i, i < bs.length → Memory.byte s.sdio.ram (a + i) = bs.getD i 0

/-- What the bus commands and the CCCR do: CMD5 answers R4 with three functions, no memory and the ready bit; CMD11 and
CMD19 answer; a CMD52 writes and reads SDIO_WIN.WIN; IOE enables functions, and the CCCR's fields take the values that
Table 15.2 gives them; RES leaves the host link as after start-up (R355 to R358, Table 15.2). -/
def Obligations.SdioBusCommandsAnswer : Prop :=
  ∀ (s : State), s.reachable = true → s.calm = true →
    (s.does .cmd5 fun t => t = { s with sdio := t.sdio, freeCount := s.freeCount + 1 } ∧ t.sdio.s18a = true ∧
      ∃ n, t.sdio.reply = bytesOf 4 n ∧ n < 2 ^ 32 ∧ n / 2 ^ 24 % 2 = 1 ∧ n / 2 ^ 27 % 2 = 0 ∧ n / 2 ^ 28 % 8 = 3 ∧
        n / 2 ^ 31 = b2n s.sdio.ready) ∧
    (s.does .cmd11 fun t => t = { s with sdio := t.sdio, freeCount := s.freeCount + 1 } ∧ t.sdio.reply.length = 4 ∧
      t.sdio = { s.sdio with reply := t.sdio.reply }) ∧
    (2 ≤ s.sdio.speed → s.does .cmd19 fun t => t = { s with sdio := t.sdio, freeCount := s.freeCount + 1 } ∧
      t.sdio.reply.length = 64 ∧ t.sdio = { s.sdio with reply := t.sdio.reply, tuned := true }) ∧
    (∀ v : Byte, (s.does (.cmd52Win true v) fun t => t = { s with regs := t.regs, sdio := { s.sdio with reply := [v] } } ∧
        t.rg .sdioWin = Word.ofNat v.toNat ∧ regsBut s t [Reg.off .sdioWin 0 0]) ∧
      (s.does (.cmd52Win false v) fun t =>
        t = { s with sdio := { s.sdio with reply := [BitVec.ofNat 8 (s.rf .sdioWin 0 7 0)] } }) ∧
      (∀ c ∈ [Instr.functionEnable v, .cccrWrite 0x02 v], s.does c fun t =>
        t = { s with sdio := { s.sdio with ioe := v &&& 0x0E, ior := v &&& 0x0E } }) ∧
      (s.does (.cccrWrite 0x04 v) fun t => t = { s with sdio := { s.sdio with ien := v &&& 0x07 } }) ∧
      (field v 1 0 = 0 ∨ field v 1 0 = 2 → s.does (.cccrWrite 0x07 v) fun t =>
        t = { s with sdio := { s.sdio with busWidth := field v 1 0 } }) ∧
      (field v 1 0 = 1 ∨ field v 1 0 = 3 → s.does (.cccrWrite 0x07 v) fun t => t = s) ∧
      (field v 3 1 ≤ 3 → s.does (.cccrWrite 0x13 v) fun t => t = { s with sdio := { s.sdio with speed := field v 3 1 } })) ∧
    (s.sdio.ring.held = [] → s.does .sdioRes fun t => t = { s with sdio := t.sdio, regs := t.regs } ∧
      t.sdio = { s.sdio with ioe := 0, ior := 0, ien := 0, busWidth := 0, speed := 0, driverA := false, sai := false
                             tuned := false, transfer := none, fifo := [], ring := {}, ram := t.sdio.ram } ∧
      t.rf .sdioWin 0 7 0 = 0 ∧ ∀ i, i < 2048 → Memory.byte t.sdio.ram (hostRing + i) = 0)

/-- What the three functions transfer: CMD53 writes whole words to command slots and reads function 1 memory and, behind
the aperture, the register WIN selects; a CMD53 that is not of whole words only reports UNALIGNED; a read of function 2
takes records from the telemetry FIFO; function 3 moves bytes at STAGE_PTR, which follows, a write to tiles that are LIVE
(R234); an abort makes what was
kept of a write take effect (R358, R359, R365, R367, R370). -/
def Obligations.SdioFunctionsTransfer : Prop :=
  ∀ (s : State), s.reachable = true → s.calm = true →
    (∀ (a : Nat) (bs : List Byte), a % 4 = 0 → bs.length % 4 = 0 → 0x1000 ≤ a → a + bs.length ≤ 0x5000 →
      (s.does (.cmd53 true false a bs.length bs) fun t => t = { s with sdio := t.sdio } ∧ ramHolds t a bs ∧
        t.sdio.reply = [] ∧ t.sdio.transfer = none) ∧
      (∀ win, s.sdio.transfer = some (1, false, a, win) → s.does (.sdioAbort 1 bs) fun t => t = { s with sdio := t.sdio } ∧
        ramHolds t a bs ∧ t.sdio.transfer = none)) ∧
    (∀ (a n : Nat), a % 4 = 0 → n % 4 = 0 → 0x800 ≤ a → a + n ≤ 0x5000 → Memory.wf s.sdio.ram = true →
      s.does (.cmd53 false false a n []) fun t =>
        t = { s with sdio := { s.sdio with transfer := none, reply := Memory.load 0 s.sdio.ram a n } }) ∧
    (∀ (fixed : Bool) (a : Nat) (r : Reg) (i j : Nat), a % 4 = 0 → 0x1_0000 ≤ a → a < 0x2_0000 →
      Reg.lookup (s.rf .sdioWin 0 7 0 * 0x1_0000 + (a - 0x1_0000)) = some (r, i, j) → r.row.rc = 0 → r.high = none →
      r ≠ .bootSeeds → s.accessCode Who.host false (controlBase + s.rf .sdioWin 0 7 0 * 0x1_0000 + (a - 0x1_0000)) 4 = Code.ok →
      s.does (.cmd53 false fixed a 4 []) fun t => t.sdio.reply = bytesOf 4 (s.readBy Who.host r i j).toNat ∧
        t.regs = s.regs ∧ t.mem = s.mem) ∧
    (∀ (w fixed : Bool) (a n : Nat) (bs : List Byte), n ≤ 511 * 512 → a % 4 ≠ 0 ∨ n % 4 ≠ 0 →
      s.does (.cmd53 w fixed a n bs) fun t => t = { s with sdio := t.sdio, regs := t.regs } ∧
        t.rf .sdioWinStatus 0 7 0 = Code.unaligned ∧ flag (t.rg .sdioIntStat) 2 = true ∧ t.sdio.ram = s.sdio.ram ∧
        t.rf .sdioWinStatus 0 15 8 = min 255 (s.rf .sdioWinStatus 0 15 8 + 1)) ∧
    (∀ n, n ≤ s.sdio.fifo.length → n ≤ 2044 → s.does (.telemetryRead (128 * n)) fun t =>
      t = { s with sdio := t.sdio, freeCount := s.freeCount + 1 } ∧ t.sdio = { s.sdio with
        fifo := s.sdio.fifo.drop n, reply := (s.sdio.fifo.take n).flatten }) ∧
    (∀ (n pa : Nat) (bs : List Byte), n ≤ 511 * 512 → s.stagePa (s.rf .sdioStagePtr 0 27 0) n = some pa →
      regionAt pa = some .psram →
      (bs.length = n → (∀ a, pa ≤ a → a < pa + max 1 n → (s.tagAt a).1 = Tag.live) → s.does (.stagingTransfer true n bs) fun t => t.holds pa bs ∧ s.keepsBut t [(pa, n)] ∧
        t.rf .sdioStagePtr 0 27 0 = (s.rf .sdioStagePtr 0 27 0 + n) % 2 ^ 28 ∧ t.sdio.reply = []) ∧
      (s.sound pa n → s.does (.stagingTransfer false n []) fun t => t = { s with sdio := t.sdio, regs := t.regs } ∧
        t.sdio.reply = s.peek pa n ∧ t.rf .sdioStagePtr 0 27 0 = (s.rf .sdioStagePtr 0 27 0 + n) % 2 ^ 28))

/-- The mailbox works, `m` is the one command submitted, it is well formed and of OP `op`, and the host ring has
room. -/
def commandReady (s : State) (m : MbCmd) (op : Nat) : Prop :=
  s.mailOn = true ∧ s.sdio.cmds = [m] ∧ m.slot < 16 ∧ s.slotOp m.slot = op ∧ s.formed m.slot = true ∧
  s.accepts m.slot = true ∧ s.sdio.ring.held = [] ∧ s.sdio.ring.wr - s.sdio.ring.cons < 64

/-- The command of `slot` has ended: its slot is free, one record with its code stands in the host ring, its reply in its
buffer, and SDIO_INT_STAT.RING is set (R364). -/
def commandEnded (s t : State) (slot code : Nat) (data : List Byte) : Prop :=
  t.sdio.cmds = [] ∧ t.sdio.ring = { s.sdio.ring with wr := s.sdio.ring.wr + 1 } ∧
  Memory.byte t.sdio.ram (hostRing + s.sdio.ring.wr % 64 * 32) = BitVec.ofNat 8 code ∧ ramHolds t (replyBase slot) data ∧
  flag (t.rg .sdioIntStat) 0 = true

/-- The mailbox commands that succeed: NOP returns its payload and INFO Table 15.10; LOAD_PROG of an image that passes the
checks of Table 3.17 loads it under the next free handle, UNLOAD_PROG takes a program away, or marks it while a kernel
runs it; ATTEST leaves a quote in staging; NOR_WRITE writes the boot NOR; TEL_CFG sets periods in their bounds. Each
ends with OK in the host ring (R361, R362, R364, R450). How a TEL_CFG payload names its periods is not stated; what it
names is a free value. -/
def Obligations.MailboxCommandsComplete : Prop :=
  ∀ (s : State) (x : Fin 16) (op : Nat) (begun : Bool), commandReady s { slot := x.val, deadline := none, begun } op →
    (op = 0x0001 → s.does (.mbNop x) fun t => commandEnded s t x.val Code.ok
      (Memory.load 0 s.sdio.ram (slotBase x.val + 0x10) (s.slotLen x.val)) ∧ t.mem = s.mem) ∧
    (op = 0x0002 → s.does (.mbInfo x) fun t => commandEnded s t x.val Code.ok s.info ∧ t.mem = s.mem) ∧
    (op = 0x0010 → ∀ pa p, s.loaded.length < 1024 → s.stagePa (s.arg x.val 0 8) (s.arg x.val 8 4) = some pa →
      s.sound pa (s.arg x.val 8 4) →
      checkImage s.boot.certs (s.peek pa (s.arg x.val 8 4))
        ((List.range ((s.slotLen x.val - 12) / 2)).map fun i => s.arg x.val (12 + 2 * i) 2) = .inl p →
      s.does (.loadProg x) fun t => commandEnded s t x.val Code.ok (loadReply s.freeHandle 0 0 0) ∧
        t.progs.find s.freeHandle = some p ∧ (∀ h, h ≠ s.freeHandle → t.progs.find h = s.progs.find h) ∧
        t.boot.events = (s.boot.events + 1) % 2 ^ 32 ∧ t.mem = s.mem) ∧
    (op = 0x0011 → ∀ p, s.program (s.arg x.val 0 2) = some p → s.does (.unloadProg x) fun t =>
      commandEnded s t x.val Code.ok [] ∧ t.program (s.arg x.val 0 2) = none ∧
      (∀ h, h ≠ s.arg x.val 0 2 → t.progs.find h = s.progs.find h) ∧ t.ctxs = s.ctxs ∧ t.mem = s.mem) ∧
    (op = 0x0020 → ∀ pa, flag (s.rg .secStat) 3 = true → s.arg x.val 32 8 % 64 = 0 →
      let n := 434 + 80 * (s.boot.entries.length + s.loaded.length)
      s.stagePa (s.arg x.val 32 8) n = some pa → regionAt pa = some .psram →
      (∀ a, pa ≤ a → a < pa + n → (s.tagAt a).1 = Tag.live) → s.does (.attest x) fun t =>
        commandEnded s t x.val Code.ok (bytesOf 4 n) ∧
        t.holds pa (s.quote (Memory.load 0 s.sdio.ram (slotBase x.val + 0x10) 32)) ∧ s.keepsBut t [(pa, n)] ∧
        t.boot.quotes = (s.boot.quotes + 1) % 2 ^ 32) ∧
    (op = 0x0030 → ∀ pa, s.stagePa (s.arg x.val 0 8) (s.arg x.val 12 4) = some pa → s.sound pa (s.arg x.val 12 4) →
      s.does (.norWrite x true) fun t => commandEnded s t x.val Code.ok [] ∧ t.mem = s.mem ∧
        ∀ i, i < s.arg x.val 12 4 →
          Memory.byteOr 0xFF t.nor (s.arg x.val 8 4 + i) = (s.peek pa (s.arg x.val 12 4)).getD i 0) ∧
    (op = 0x0040 → s.does (.telCfg x) fun t =>
      let ps := Config.telPeriods (Memory.load 0 s.sdio.ram (slotBase x.val + 0x10) (s.slotLen x.val))
      (periodOk ps = true → commandEnded s t x.val Code.ok [] ∧ t.sdio.periods = ps) ∧
      (periodOk ps = false → commandEnded s t x.val Code.unaligned [] ∧ t.sdio.periods = s.sdio.periods))

/-- MB_SUBMIT of a slot that is free starts its command's time, and of a busy slot is counted; MAILBOX_TIMEOUT ends a
command at its deadline with TIMEOUT, but not one past its commit point; MB_CONS frees records; HELD_COMPLETION_WRITE writes the oldest held record of a
ring that has room, and no other; TELEMETRY_TICK puts one record of its type in the FIFO (R37, R360, R363 to R365). -/
def Obligations.RingsAndFifosMove : Prop :=
  ∀ (s : State),
    (∀ (who : Who) (x : Fin 16), s.takes who .sdioMbSubmit 0 →
      (x.val ∉ s.sdio.busy → s.formed x.val = true → s.accepts x.val = true →
        (∀ m ∈ s.sdio.cmds, s.formed m.slot = true ∧ s.accepts m.slot = true ∧ (m.begun = true ∨ m.deadline = none)) → s.does (.mbSubmit who x) fun t =>
          t = { s with bus := t.bus, sdio := { s.sdio with
            cmds := let l := s.sdio.cmds ++ [{ slot := x.val, deadline := s.deadline (s.slotNat x.val 8 4) }]
                    if s.mailOn then begin4 l else l } } ∧
          t.answered who Code.ok) ∧
      (x.val ∈ s.sdio.busy → s.does (.mbSubmit who x) fun t => t = { s with regs := t.regs, bus := t.bus } ∧
        t.rf .sdioMbStat 0 23 16 = min 255 (s.rf .sdioMbStat 0 23 16 + 1) ∧ t.answered who Code.ok)) ∧
    (∀ (x : Fin 16) (op d : Nat) (begun : Bool), commandReady s { slot := x.val, deadline := some d, begun } op →
      (begun = false ∨ commitsAtStart op = false → d * nsUnit ≤ s.clock.elapsed →
        s.does (.mailboxTimeout x) fun t => commandEnded s t x.val Code.timeout [] ∧ t.mem = s.mem) ∧
      (begun = true → commitsAtStart op = true → s.does (.mailboxTimeout x) fun t => t = s)) ∧
    (∀ (who : Who) (i : Nat), s.takes who .sdioMbCons 0 → s.sdio.ring.held = [] →
      let d := (i % 64 + 64 - s.sdio.ring.cons % 64) % 64
      (d ≤ s.sdio.ring.wr - s.sdio.ring.cons → s.does (.mbCons who i) fun t =>
        t = { s with sdio := { s.sdio with ring := { s.sdio.ring with cons := s.sdio.ring.cons + d } }, bus := t.bus }) ∧
      (s.sdio.ring.wr - s.sdio.ring.cons < d → s.does (.mbCons who i) fun t => t = { s with bus := t.bus })) ∧
    (∀ (r : CRec) (rest : List CRec),
      (s.sdio.ring.held = r :: rest → s.sdio.ring.isFull 6 = false → s.does (.heldCompletionWrite .host) fun t =>
        t = { s with sdio := t.sdio, regs := t.regs } ∧
        t.sdio.ring = { s.sdio.ring with wr := s.sdio.ring.wr + 1, held := rest } ∧
        t.sdio.heldSlots = s.sdio.heldSlots.tail ∧
        ramHolds t (hostRing + s.sdio.ring.wr % 64 * 32) (r.bytes 6 s.sdio.ring.wr)) ∧
      (∀ c pa, c < 1024 → (s.ctx c).ring.held = r :: rest → (s.ctx c).ring.isFull (s.ctx c).desc.ringK = false →
        (s.ctx c).recordPa ((s.ctx c).ring.wr % 2 ^ (s.ctx c).desc.ringK) = some pa →
        s.does (.heldCompletionWrite (.ctx c)) fun t =>
          t.ctx c = { s.ctx c with ring := { (s.ctx c).ring with wr := (s.ctx c).ring.wr + 1, held := rest } } ∧
          t.holds pa (r.bytes (s.ctx c).desc.ringK (s.ctx c).ring.wr) ∧ s.keepsBut t [(pa, 32)] ∧ t.locks = s.locks)) ∧
    (∀ type : Fin 4, type.val ≠ 0 → s.awake = true → s.sdio.fifo.length < 256 →
      s.sdio.telNext.getD (type.val - 1) 0 * nsUnit ≤ s.clock.elapsed → s.does (.telemetryTick type) fun t =>
        t = { s with sdio := t.sdio } ∧ ∃ r, t.sdio.fifo = s.sdio.fifo ++ [r] ∧ r.length = 128 ∧
          r.head? = some (BitVec.ofNat 8 type.val))

/-! ## Starts, power states and the governor (chapters 16, 18 and 19) -/

/-- The device runs the boot ROM's recovery service after a start that failed as `f` says, with the straps of `o` (R374,
R386, R387, R487). -/
def inRecovery (t : State) (o : StartOutcome) (f : StartFail) : Prop :=
  t.power.state = .run ∧ t.boot.recovery = true ∧ t.boot.off = false ∧ t.boot.startDue = false ∧
  t.rg .bootStat = Word.ofNat (pack [(f.stage, 0), (1, 4), (f.reason, 8), (f.place, 16)]) ∧
  t.rg .bootTime = Word.ofNat o.micros ∧ t.casc.id = o.strapId.val ∧ t.casc.alive = false ∧ t.sdio.ready = true

/-- The device runs after a start whose stages all passed: C = 1, STAGE 10, CASC_ALIVE asserted (R374, R386). -/
def hasStarted (t : State) (o : StartOutcome) : Prop :=
  t.power.state = .run ∧ t.boot.recovery = false ∧ t.boot.off = false ∧ t.boot.startDue = false ∧
  t.rg .bootStat = 10 ∧ t.rg .bootTime = Word.ofNat o.micros ∧ t.casc.id = o.strapId.val ∧ t.casc.alive = true ∧
  t.sdio.ready = true ∧ ∀ i, i < 3 → flag (t.rg .secStat) i = true

/-- The three checks of stage 7 pass (R383, R440 to R443). -/
def imageSigned (img : List Byte) (xs : List Section) (part : Nat) : Prop :=
  let certs := contentOf img xs Sec.certs
  let root := (certs.drop 8).take 57
  let r := contentOf img xs Sec.rhoson
  let all := (List.range (natAt certs 0 1)).map fun i => Cert.of (certBytes certs i)
  ∃ sig key, xs.getLast? = some sig ∧ shake256 64 root = Config.romRoot ∧
    Ed448.verify root (shake256 64 (r.take (r.length - 114))) (r.drop (r.length - 114)) = true ∧
    all.find? (fun c => c.kind = 2 && c.usage % 2 = 1 && c.keyId = natAt img sig.off 8) = some key ∧
    chainOk certs part = true ∧
    Ed448.verify key.pubkey (shake256 64 (img.take (sig.off - 8))) ((img.drop (sig.off + 8)).take 114) = true

/-- Every stage up to 7 passes for the image that stage 2 reads, of these sections (R374, R376, R377, R380, R383, R385). -/
def startPasses (s : State) (o : StartOutcome) (img : List Byte) (xs : List Section) : Prop :=
  s.stage2 o = .inl img ∧ (testUnits (Enables.of (img.drop 72)) o).ok = true ∧ formatFail img o.strapId.val = none ∧
  walkSections img Sec.signature (img.length / 64 + 1) 64 = some xs ∧ imageSigned img xs (field (s.rg .sysId) 15 4)

/-- The first stage that fails, and its REASON: 2 by the NOR or the early part of the image, 4 by the tests, 6 by the format,
7 by the signatures (Table 16.7). -/
def startFails (s : State) (o : StartOutcome) (f : StartFail) : Prop :=
  s.stage2 o = .inr f ∨ ∃ img, s.stage2 o = .inl img ∧
    let ok := (testUnits (Enables.of (img.drop 72)) o).ok
    (ok = false ∧ f = { reason := 7, stage := 4 } ∨
     ok = true ∧ (∃ place, formatFail img o.strapId.val = some place ∧ f = { reason := 3, stage := 6, place }) ∨
     ok = true ∧ formatFail img o.strapId.val = none ∧ f = { reason := 4, stage := 7 } ∧
       ∃ xs, walkSections img Sec.signature (img.length / 64 + 1) 64 = some xs ∧
         ¬imageSigned img xs (field (s.rg .sysId) 15 4))

/-- How a start of device `s` under `o` ends: in recovery where a stage fails; started where every stage passes, unless
an entry of PORTS fails in stage 8 (R381). -/
def startEnds (s : State) (o : StartOutcome) (t : State) : Prop :=
  (∀ f, startFails s o f → inRecovery t o f) ∧
  (∀ img xs, startPasses s o img xs →
    (contentOf img xs Sec.ports = [] → hasStarted t o) ∧
    (t.rg .bootStat = 10 ∨ ∃ i, t.rg .bootStat = Word.ofNat (pack [(8, 0), (1, 4), (6, 8), (i, 16)])))

/-- The device after reset with a boot NOR. -/
def withNor (nor : List Host.Cell) : State := { State.reset with nor }

/-- The device is in Off: nothing of it is as it was but the boot NOR and the flash tier (R242, R408, R415). -/
def isOff (s t : State) : Prop :=
  t.power.state = .off ∧ t.boot.off = true ∧ t.mem = Memory.clear s.mem 0 flashBase ∧ t.ctxs = State.reset.ctxs ∧ t.locks = State.reset.locks ∧
  t.nor = s.nor ∧ t.casc.alive = false ∧ t.sdio.ready = false ∧ ∀ n, n < 96 → t.bitOf3 .pwrDom n = (n == 0)

/-- START that is due runs the stages, and so do SYS_RESTART with its key and VIN_RISE with WAKE high, of a device as after
reset but for its NOR: where regulators, oscillator, host link and NOR interface come up, the device runs, started or in
recovery as the stages decide. Rails that do not come up leave it in Off, and a host link that fails its test leaves it in
reset. SYS_RESTART without its key does nothing, and VIN_RISE without WAKE leaves the device in Off (R374, R377, R386 to
R388, R484, R490, Table 16.7). What the mask ROM holds of the root key is a free value. -/
def Obligations.StartsEndInRunRecoveryOrOff : Prop :=
  ∀ (s : State) (o : StartOutcome),
    (s.boot.startDue = true → s.boot.dead = false →
      (o.railsUp = true → o.linkOk = true → s.boot.recovery = false → s.does (.startUp o) (startEnds s o)) ∧
      (o.railsUp = false → s.does (.startUp o) fun t => t = { s with clock := t.clock, boot := t.boot } ∧
        t.boot = { s.boot with startDue := false }) ∧
      (o.railsUp = true → o.linkOk = false → s.does (.startUp o) fun t =>
        t = { s with clock := t.clock, boot := t.boot, power := { s.power with rails := true } } ∧
        t.boot = { s.boot with startDue := false, dead := true })) ∧
    (s.boot.startDue = false → s.does (.startUp o) fun t => t = s) ∧
    (∀ who : Who, s.takes who .sysRestart 0 → s.boot.startDue = false →
      (∀ key, key ≠ 0xC0DE → s.does (.sysRestart who key o) fun t => t = { s with bus := t.bus }) ∧
      (o.railsUp = true → o.linkOk = true → s.does (.sysRestart who 0xC0DE o) fun t =>
        startEnds (withNor s.nor) o t ∧ t.nor = s.nor)) ∧
    (s.does (.vinRise false o) fun t => isOff s t ∧ t.power.vinGood = true ∧ t.power.thermtrip = false) ∧
    (s.boot.dead = false → o.railsUp = true → o.linkOk = true → s.does (.vinRise true o) fun t =>
      startEnds (withNor s.nor) o t ∧ t.power.vinGood = true ∧ t.nor = s.nor)

/-- The device is in Run again, woken by `source`: the event is latched, the exit took no longer than its bound, the domains
are as before the entry, and the slices hold their code again (R409, R410, R413, R418). -/
def wokenBy (s t : State) (source : Nat) : Prop :=
  t.power.state = .run ∧ t.power.alarm = none ∧ flag (t.rg .pwrWakeCause) source = true ∧ t.ctxs = s.ctxs ∧
  s.keepsBut t ((s.members 0 ++ s.members 1).map fun x => (slicePa x 0, 0x4_0000)) ∧ t.locks = s.locks ∧
  (∃ us, us ≤ s.power.state.exitBound ∧ t.rg .pwrExitUs = Word.ofNat us) ∧
  ∀ i, i < s.power.doms.length → t.rg .pwrDom i = s.power.doms.getD i 0

/-- Requests written to PWR_REQ. Each completes: Run wakes Idle and Sleep; Idle is entered where nothing of Table 18.4 refuses
it; Sleep and Deep sleep, where besides no engine, barge or packet is under way and, for Deep sleep, no mapped page lies
outside the selected quarters, are entered with the settings saved and the domains set; Off, with its key, cuts the
device off. A refused request is logged and counted and changes nothing else; one for a state no deeper than the present,
Run in Run, and Off without its key change nothing (R407, R408, R414, R415, R419, Tables 18.4 and 18.7). -/
def Obligations.PowerRequestsSetTheState : Prop :=
  ∀ (s : State) (who : Who) (busy : BitVec 8), s.takes who .pwrReq 0 → s.calm = true →
    let enters (target : PState) (t : State) : Prop :=
      let pa := tileBase (s.rf .pwrSave 0 18 0)
      t.power.state = target ∧ t.power.entering = none ∧ t.power.entryTime = s.fullTime ∧ t.answered who Code.ok ∧
      t.ctxs = s.ctxs ∧ t.locks = s.locks ∧ t.clock = s.clock ∧
      t.power.doms = (List.range 3).map (fun i => s.rg .pwrDom i) ∧
      (∀ n, n < 96 → t.bitOf3 .pwrDom n = if s.domainOff target n then false else s.bitOf3 .pwrDom n) ∧
      s.keepsBut t ((pa, 32 * 65536) :: (List.range 8).map fun x => (slicePa x 0, 0x20_0000))
    let atRest : Prop := s.collieBusy = false ∧ (∀ b ∈ s.flying, b.2.waiting = true) ∧ s.ports.uart = []
    let saves : Prop :=
      let pa := tileBase (s.rf .pwrSave 0 18 0)
      regionAt pa = some .psram ∧ s.backed pa = true ∧ s.backed (pa + 32 * 65536 - 1) = true
    (s.power.state = .idle ∨ s.power.state = .sleep → s.power.entering = none → s.boot.dead = false →
      flag (s.rg .pwrWakeEn) 6 = true → s.power.doms.length ≤ 3 →
      s.does (.powerRequestRun who) fun t => wokenBy s t 6 ∧ t.answered who Code.ok) ∧
    (s.power.state = .run → s.refuser .idle busy = none → s.does (.powerRequestIdle { who, busy }) fun t =>
      t = { s with power := t.power, bus := t.bus } ∧ t.answered who Code.ok ∧
      t.power = { s.power with state := .idle, entryTime := s.fullTime, entryNs := s.ns, doms := [] }) ∧
    (s.power.state = .run ∨ s.power.state = .idle → s.refuser .sleep 0 = none → atRest → saves →
      s.does (.powerRequestSleep who) (enters .sleep)) ∧
    (s.power.state ≠ .deep → s.power.state ≠ .off → s.refuser .deep 0 = none → atRest → s.strayTiles = [] → saves →
      s.does (.powerRequestDeepSleep who) (enters .deep)) ∧
    (s.refuser .off 0 = none → s.does (.powerRequestOff who 0x0FF0) fun t => isOff s t ∧ t.answered who Code.ok) ∧
    (s.power.entering = none → s.power.state = .run → s.does (.powerRequestRun who) fun t =>
      t = { s with bus := t.bus } ∧ t.answered who Code.ok) ∧
    (∀ key, key ≠ 0x0FF0 → s.does (.powerRequestOff who key) fun t => t = { s with bus := t.bus } ∧ t.answered who Code.ok) ∧
    (∀ (c : Instr) (target : PState), (c, target) ∈ [(.powerRequestIdle { who, busy }, .idle), (.powerRequestSleep who, .sleep),
        (.powerRequestDeepSleep who, .deep)] →
      (target.code ≤ s.power.state.code → s.does c fun t => t = { s with bus := t.bus } ∧ t.answered who Code.ok) ∧
      (∀ r, s.power.state.code < target.code → s.refuser target busy = some r → s.does c fun t =>
        t = { s with regs := t.regs, bus := t.bus } ∧ t.answered who Code.ok ∧
        t.rf .pwrRefused (target.code - 1) 31 0 = min (2 ^ 32 - 1) (s.rf .pwrRefused (target.code - 1) 31 0 + 1) ∧
        t.rg .pwrLog (s.rf .pwrLogHead 0 3 0) = Word.ofNat (match r with
          | .block b => pack [(target.code, 0), (b, 5)]
          | .context n => pack [(target.code, 0), (1, 4), (n, 5)]) ∧
        t.rf .pwrLogHead 0 3 0 = (s.rf .pwrLogHead 0 3 0 + 1) % 16))

/-- Power events: AUTO_IDLE enters Idle where Idle is not refused; ENTRY_ABORT brings an entry in progress back to Run,
logged and counted; WAKE_EVENT and SLOW_CLOCK_ALARM wake a state that their source wakes, where it is enabled, only latch
their cause in Run, and in Off make a start due; DOMAIN_GATE gates a domain that may be gated; RUN_ON_END, TRIP_120 and
VIN_BROWNOUT cut the device off (R411 to R413, R416, R417, R432, R433, R489). -/
def Obligations.PowerEventsMoveTheState : Prop :=
  ∀ (s : State),
    (s.runs = true → flag (s.rg .pwrIdleAuto) 0 = true → s.refuser .idle 0 = none → s.does .autoIdle fun t =>
      t = { s with power := { s.power with
        state := .idle, entryTime := s.fullTime, entryNs := s.ns, doms := [] } }) ∧
    (flag (s.rg .pwrIdleAuto) 0 = false → s.does .autoIdle fun t => t = s) ∧
    (∀ (block : Nat) (target : PState), s.power.entering = some target → target ≠ .run →
      block ≠ Block.barge ∨ s.power.entryLimit * nsUnit ≤ s.clock.elapsed → s.does (.entryAbort block) fun t =>
        t = { s with regs := t.regs, power := { s.power with entering := none, wake := false } } ∧
        t.rf .pwrRefused (target.code - 1) 31 0 = min (2 ^ 32 - 1) (s.rf .pwrRefused (target.code - 1) 31 0 + 1) ∧
        t.rf .pwrLogHead 0 3 0 = (s.rf .pwrLogHead 0 3 0 + 1) % 16) ∧
    (s.calm = true → s.boot.dead = false → s.power.entering = none → ∀ (source : Fin 9) (ticks : Nat),
      (s.power.state = .idle ∨ s.power.state = .sleep → flag s.power.state.wakeMask source.val = true →
        source.val = 0 ∨ flag (s.rg .pwrWakeEn) source.val = true → s.power.doms.length ≤ 3 →
        s.does (.wakeEvent source ticks) fun t => wokenBy s t source.val) ∧
      (s.power.state = .run → source.val = 0 ∨ flag (s.rg .pwrWakeEn) source.val = true →
        s.does (.wakeEvent source ticks) fun t => t = { s with regs := t.regs } ∧
          regsBut s t [Reg.off .pwrWakeCause 0 0] ∧ flag (t.rg .pwrWakeCause) source.val = true) ∧
      (s.power.state ≠ .off → source.val ≠ 0 → flag (s.rg .pwrWakeEn) source.val = false →
        s.does (.wakeEvent source ticks) fun t => t = s) ∧
      (s.power.state = .off → s.power.vinGood = true → s.does (.wakeEvent 0 ticks) fun t =>
        t = { s with boot := { s.boot with startDue := true } }) ∧
      (∀ a, s.power.state = .sleep → s.power.alarm = some a → a * nsUnit ≤ s.clock.elapsed →
        flag (s.rg .pwrWakeEn) 2 = true → s.power.doms.length ≤ 3 →
        s.does (.slowClockAlarm ticks) fun t => wokenBy s t 2)) ∧
    (∀ d : Fin 96, s.awake = true → s.rf .pwrGate 0 15 0 ≠ 0 →
      (s.mayGate d.val = true → s.does (.domainGate d) fun t => t = { s with regs := t.regs } ∧
        ∀ n, n < 96 → t.bitOf3 .pwrDom n = (s.bitOf3 .pwrDom n && n != d.val)) ∧
      (s.mayGate d.val = false → s.does (.domainGate d) fun t => t = s)) ∧
    (∀ at', s.power.runOn = some at' → at' * nsUnit ≤ s.clock.elapsed → s.does .runOnEnd fun t => isOff s t) ∧
    (s.power.state ≠ .off → s.does .trip120 fun t => isOff s t ∧ t.power.thermtrip = true) ∧
    (s.does .vinBrownout fun t => isOff s t ∧ t.power.vinGood = false)

/-- A sample of the regulator within the band only fills PWR_MEAS, PWR_VIN and PWR_IIN; one of more than 1.1 times the
target lowers every live engine by 4 steps, in Run. ENGINE_STEP_CHANGE takes an engine one step towards the one asked for, a phase
failure caps MODMAX at 400 W, and BUDGET_WRITE takes 40 to 1,800 W where the module is master or alone (R45, R423, R424,
R426, Table 21.6). -/
def Obligations.PowerIsGoverned : Prop :=
  ∀ (s : State),
    (∀ (p v i : Nat), s.power.state ≠ .off →
      let held (t : State) := t.mem = s.mem ∧ t.ctxs = s.ctxs ∧ t.rg .pwrMeas = Word.ofNat (min 65535 p) ∧
        t.rg .pwrVin = Word.ofNat (min 65535 v) ∧ t.rg .pwrIin = Word.ofNat (min 65535 i)
      (s.runs = false ∨ s.powerTarget - s.therm.hyst * 1000 ≤ p * 100 ∧ p * 100 ≤ s.powerTarget →
        s.does (.regulatorSample p v i) fun t => held t ∧ t = { s with regs := t.regs } ∧
          regsBut s t [Reg.off .pwrMeas 0 0, Reg.off .pwrVin 0 0, Reg.off .pwrIin 0 0]) ∧
      (s.runs = true → 11 * s.powerTarget < 1000 * p → s.does (.regulatorSample p v i) fun t => held t ∧
        t = { s with regs := t.regs } ∧ t.rf .pwrGov 0 31 16 = min 65535 (s.rf .pwrGov 0 31 16 + 1) ∧
        ∀ e ∈ s.live, s.raised e = false → t.target e = min (s.target e - 4) (s.cap e))) ∧
    (∀ e : Fin 8, s.does (.engineStepChange e) fun t => t = { s with regs := t.regs } ∧
      regsBut s t [Reg.off .engFclk e.val 0] ∧ t.target e.val = s.target e.val ∧
      let n := s.rf .engFclk e.val 4 0
      t.rf .engFclk e.val 4 0 = (if n < s.target e.val then n + 1 else if s.target e.val < n then n - 1 else n) ∧
      (flag (t.rg .engFclk e.val) 16 = true ↔ t.rf .engFclk e.val 4 0 ≠ s.target e.val)) ∧
    (s.power.state ≠ .off → s.boot.dead = false → s.does .regulatorPhaseFailure fun t =>
      t = { s with regs := t.regs, power := { s.power with phasesLost := s.power.phasesLost + 1 } } ∧
      t.rg .pwrModmax = Word.ofNat (min 400 (s.rf .pwrModmax 0 8 0))) ∧
    (∀ (who : Who) (w : Word), s.takes who .pwrBudget 0 →
      let n := field w 11 0
      (s.casc.role ≤ 1 → 40 ≤ n → n ≤ 1800 → s.does (.budgetWrite who w) fun t =>
        t = { s with regs := t.regs, bus := t.bus } ∧ t.rg .pwrBudget = Word.ofNat n ∧ t.answered who Code.ok ∧
        regsBut s t [Reg.off .pwrBudget 0 0]) ∧
      (1 < s.casc.role ∨ n < 40 ∨ 1800 < n → s.does (.budgetWrite who w) fun t => t = { s with bus := t.bus } ∧
        t.answered who Code.faultXlat))

/-- Droop and heat: DROOP_DETECT begins stretching and counts, and the end of an episode that brings the stretched cycles
of the window to 256 forces a step. THERMAL_SAMPLE of all 51 sensors lowers the cap of each engine with a sensor at
100 °C by one and shows WARN, and CAP_RISE raises it by one below 97 °C. TRIP_115 gates engines and stewards, latches
every bound leash into its stop branch with cause 7, records, and runs on for 2 s (R428, R430 to R432, Table 19.3). -/
def Obligations.DroopAndHeatSlowTheEngines : Prop :=
  ∀ (s : State),
    (∀ e : Fin 8,
      (s.runs = true → e.val ∈ s.live → s.therm.stretching.at e.val false = false → s.does (.droopDetect e) fun t =>
        t = { s with regs := t.regs, therm := { s.therm with stretching := s.therm.stretching.put e.val true } } ∧
        t.rf .engDroop e.val 15 0 = min 65535 (s.rf .engDroop e.val 15 0 + 1)) ∧
      (s.therm.stretching.at e.val false = true → ∀ n : Nat,
        let old := (s.therm.stretched.at e.val []).filter fun x => s.ns < x.1 + s.droopWindow e.val
        let total := (old.map (·.2)).sum + n
        (total < 256 → s.does (.stretchEnd e n) fun t => t = { s with therm := t.therm } ∧
          t.therm.stretching.at e.val false = false ∧ t.therm.stretched.at e.val [] = old ++ [(s.ns, n)]) ∧
        (256 ≤ total → total < 512 → s.raised e.val = false → 0 < s.target e.val → s.does (.stretchEnd e n) fun t =>
          t = { s with therm := t.therm, regs := t.regs } ∧ t.therm.stretching.at e.val false = false ∧
          t.therm.stretched.at e.val [] = [(s.ns, total - 256)] ∧
          t.target e.val = min (s.target e.val - 1) (s.cap e.val) ∧
          t.rf .engDroop e.val 31 16 = min 65535 (s.rf .engDroop e.val 31 16 + 1)))) ∧
    (s.thermOn = true →
      (∀ xs : List Int, xs.length = 51 → s.does (.thermalSample xs) fun t => t.mem = s.mem ∧ t.ctxs = s.ctxs ∧
        (∀ i, i < 51 → t.sensor i = xs.getD i 0) ∧
        (∀ e, e < 8 → t.cap e = if (List.range 4).any (fun i => 10000 ≤ xs.getD (4 * e + i) 0) = true
          then s.cap e - 1 else s.cap e) ∧
        flag (t.rg .thermStat) 9 = (List.range 48).any fun i => 10000 ≤ xs.getD i 0) ∧
      (∀ e : Fin 8, s.allBelow (4 * e.val) 4 = true → s.cap e.val < 20 → s.does (.capRise e) fun t =>
        t = { s with regs := t.regs } ∧ t.cap e.val = s.cap e.val + 1) ∧
      (∀ e : Fin 8, s.allBelow (4 * e.val) 4 = false ∨ 20 ≤ s.cap e.val → s.does (.capRise e) fun t => t = s)) ∧
    (s.power.state ≠ .off → s.boot.dead = false → s.power.runOn = none → s.power.entering = none →
      s.does .trip115 fun t => t.power.runOn = some (s.ns + 2 * 10 ^ 9) ∧ t.mem = s.mem ∧ t.locks = s.locks ∧
        t.faults.seq = (s.faults.seq + 1) % 2 ^ 32 ∧ flag (t.rg .thermStat) 10 = true ∧
        (∀ n, n < 8 → t.bitOf3 .pwrDom (2 + n) = false ∧ t.bitOf3 .pwrDom (50 + n) = false) ∧
        ∀ n, n < 16 → (s.leash n).mode ≠ 0 → (s.leash n).latch = false →
          t.leash n = { s.leash n with mode := 2, cause := 7, latch := true, causeNs := s.ns })

/-! ## Integrity (chapters 2 and 21) -/

/-- The SECDED code: a word read as it was written is clean; with any one of the 72 bits of its codeword inverted the data
comes back whole and the bit is named; with any two inverted the error is found and is not corrected (R501). -/
def Obligations.OneBitIsCorrectedAndTwoAreFound : Prop :=
  ∀ d : BitVec 64,
    ((Ecc.read d 0).1 = d ∧ (Ecc.read d 0).2.1 = .clean) ∧
    (∀ b, b < 72 → (Ecc.read d (BitVec.ofNat 72 (2 ^ b))).1 = d ∧
      (Ecc.read d (BitVec.ofNat 72 (2 ^ b))).2.1 = .corrected b) ∧
    ∀ a b, a < b → b < 72 → (Ecc.read d (BitVec.ofNat 72 (2 ^ a + 2 ^ b))).2.1 = .uncorrectable

/-- Only a record has been made, of one unit or one repair: the fault logger, its registers, and what the host link sends
of it. -/
def onlyRecorded (s t : State) : Prop :=
  t = { s with faults := t.faults, regs := t.regs, sdio := t.sdio, freeCount := t.freeCount } ∧
  t.faults.seq = (s.faults.seq + 1) % 2 ^ 32

/-- No context runs or holds a kernel. -/
def noKernels (s : State) : Prop := ∀ x ∈ s.ctxs, x.2.kern = none

/-- FLIT_GROUP_RECEIVE: a good group ends a run of failures; a bad one lengthens it; after the eighth failed
retransmission the link is retired, counted and recorded, and fabric work ends where that leaves a pair of stops without
a route. VOTED_COPY_FAULT records the repair of a copy, a second one in the block within 10 µs ends fabric work; a
datapath copy of the Gridder or the voxel unit is retired. STEWARD_WATCHDOG_MISS retires a core, and the third
NAND_CONTROLLER_TIMEOUT within 1 s a NAND channel (R24, R25, R461 to R464). -/
def Obligations.LinksAndUnitsRetire : Prop :=
  ∀ (s : State), s.calm = true →
    (∀ (stop source : Fin 40) (ok : Bool),
      let key := linkKey source.val stop.val
      let l := s.links.at key {}
      let failed := l.toward source.val stop.val
      s.awake = true → neighbours source.val stop.val = true → l.retired = false →
      (ok = true → s.does (.flitGroupReceive stop source ok) fun t => t = { s with links := t.links } ∧
        t.links.at key {} = l.setToward source.val stop.val 0 ∧ ∀ k, k ≠ key → t.links.find k = s.links.find k) ∧
      (ok = false → failed < 8 → s.does (.flitGroupReceive stop source ok) fun t =>
        t = { s with links := s.links.put key (l.setToward source.val stop.val (failed + 1)) }) ∧
      (ok = false → 8 ≤ failed →
        let cut := cutsRoute key ((s.links.filter fun x => x.2.retired).map fun x => x.1)
        (cut = false → s.does (.flitGroupReceive stop source ok) fun t =>
          t.links = s.links.put key { retired := true } ∧ t.fabricEnded = s.fabricEnded ∧
          t.rf .faultRetLink 0 5 0 = min 63 (s.rf .faultRetLink 0 5 0 + 1) ∧ onlyRecorded { s with links := t.links } t) ∧
        (cut = true → noKernels s → s.does (.flitGroupReceive stop source ok) fun t =>
          t.links = s.links.put key { retired := true } ∧ t.fabricEnded = true))) ∧
    (∀ block : Nat, votedBlock block = true → block ≠ Block.grid → block ≠ Block.plan →
      (∀ x, s.faults.voted.find block = some x → x + 10000 ≤ s.ns) → s.does (.votedCopyFault block) fun t =>
        onlyRecorded s t ∧ t.faults.voted.find block = some s.ns) ∧
    (∀ block x : Nat, votedBlock block = true → block ≠ Block.grid → block ≠ Block.plan →
      s.faults.voted.find block = some x → s.ns < x + 10000 → noKernels s → s.does (.votedCopyFault block) fun t =>
        t.fabricEnded = true) ∧
    (∀ block bit : Nat, (block, bit) ∈ [(Block.grid, 8), (Block.plan, 9)] →
      (flag (s.rg .faultRetLink) bit = false → s.does (.votedCopyFault block) fun t => onlyRecorded s t ∧
        flag (t.rg .faultRetLink) bit = true) ∧
      (flag (s.rg .faultRetLink) bit = true → s.does (.votedCopyFault block) fun t => t = s)) ∧
    (∀ n : Fin 8, s.runs = true → flag (s.rg .faultRetUnits) (20 + n.val) = false →
      (2 ≤ n.val → s.tooFew = false → s.does (.stewardWatchdogMiss n) fun t => onlyRecorded s t ∧
        flag (t.rg .faultRetUnits) (20 + n.val) = true ∧ t.bitOf3 .pwrDom (50 + n.val) = false) ∧
      (n.val < 2 → flag (s.rg .faultRetUnits) (21 - n.val) = true → noKernels s → s.does (.stewardWatchdogMiss n) fun t =>
        flag (t.rg .faultRetUnits) (20 + n.val) = true ∧ t.fabricEnded = true)) ∧
    (∀ n : Fin 4, flag (s.rg .faultRetUnits) (16 + n.val) = false →
      let late := s.ftl.timeouts.filter fun x => s.ns < x.2 + 10 ^ 9
      let ts := late ++ [(n.val, s.ns)]
      ((late.filter fun x => x.1 = n.val).length < 2 → s.does (.nandControllerTimeout n) fun t =>
        t = { s with ftl := { s.ftl with timeouts := ts } }) ∧
      (2 ≤ (late.filter fun x => x.1 = n.val).length → s.does (.nandControllerTimeout n) fun t =>
        onlyRecorded { s with ftl := t.ftl } t ∧ t.ftl = { s.ftl with timeouts := ts, degraded := true, fresh := [] } ∧
        flag (t.rg .faultRetUnits) (16 + n.val) = true))

/-- ROW_SPARE of a row whose corrected errors of the hour reach the threshold takes a spare row and corrects the row's
words, or, with none left, records the crossing; below the threshold it does nothing. PSRAM_TILE_RETIRE likewise takes an
unmapped tile out of the pool, and only records a pinned one. FAULT_TAIL moves the tail no further than NEXT. FAULT_INJ
arms an inversion in the memories R470 lists and refuses others. A steward's load changes nothing, and its store writes
memory (R210, R234, R460, R465 to R467, R470). -/
def Obligations.MemoryIsSparedAndInjected : Prop :=
  ∀ (s : State), s.calm = true →
    (∀ pa group rows : Nat, spareGroup (rowOf pa) = some (group, rows) → s.flips.rising = true →
      let row := rowOf pa
      let hits := (recent s.ns hourNs (s.faults.rows.at row [])).length
      let used := s.faults.spares.at group 0
      (hits < s.rf .faultThresh 0 7 0 → s.does (.rowSpare pa) fun t => t = s) ∧
      (s.rf .faultThresh 0 7 0 ≤ hits → used < rows → s.does (.rowSpare pa) fun t =>
        onlyRecorded { s with flips := t.flips } t ∧ t.faults.spares = s.faults.spares.put group (used + 1) ∧
        t.faults.rows = s.faults.rows.drop row ∧
        t.rf .faultSpare 0 15 0 = min 65535 (s.rf .faultSpare 0 15 0 + 1) ∧
        ∀ w f, s.flips.find w = some f → t.flips.find w =
          match (Ecc.read (BitVec.ofNat 64 (natOf (s.peek w 8))) f).2.1 with
          | .corrected _ => if rowOf w = row then none else some f
          | _ => some f) ∧
      (s.rf .faultThresh 0 7 0 ≤ hits → rows ≤ used → regionAt row ≠ some .basin → s.does (.rowSpare pa) fun t =>
        onlyRecorded s t ∧ t.faults.rows = s.faults.rows.drop row)) ∧
    (∀ tile new : Nat,
      let pa := psramBase + tile * 65536
      let hits := (recent s.ns hourNs (s.faults.tiles.at tile [])).length
      let ch := s.channelOf tile
      (hits < s.rf .faultThresh 0 15 8 → s.does (.psramTileRetire tile new) fun t => t = s) ∧
      (s.rf .faultThresh 0 15 8 ≤ hits → s.backed pa = true →
        (s.pinned pa = true → s.does (.psramTileRetire tile new) fun t => onlyRecorded s t ∧
          t.faults.tiles = s.faults.tiles.drop tile) ∧
        (s.pinned pa = false → s.mappings pa = [] → (s.psram.at ch {}).tilesRetired < 63 →
          s.does (.psramTileRetire tile new) fun t => onlyRecorded { s with xlat := t.xlat, psram := t.psram } t ∧
            t.xlat = { s.xlat with retired := s.xlat.retired ++ [pa] } ∧
            t.psram.at ch {} = { s.psram.at ch {} with tilesRetired := (s.psram.at ch {}).tilesRetired + 1 } ∧
            t.rf .faultSpare 0 31 16 = min 65535 (s.rf .faultSpare 0 31 16 + 1)))) ∧
    (∀ (who : Who) (i : Byte), s.takes who .faultTail 0 →
      let d := (i.toNat + 256 - s.faults.tail) % 256
      let next := s.faults.seq % 256
      let became (tail unread : Nat) (t : State) :=
        t = { s with faults := { s.faults with tail, unread }, bus := t.bus } ∧ t.answered who Code.ok
      (s.faults.unread = 256 → i.toNat = next → s.does (.faultTail who i) (became next 0)) ∧
      (s.faults.unread < d → s.does (.faultTail who i) (became next 0)) ∧
      (d ≤ s.faults.unread → s.faults.unread ≠ 256 ∨ i.toNat ≠ next →
        s.does (.faultTail who i) (became i.toNat (s.faults.unread - d)))) ∧
    (∀ (who : Who) (bit : Nat) (c : Instr) (f : BitVec 72), s.takes who .faultInj 0 → bit < 128 →
      (c, f) ∈ [(.faultInjectSingle who bit, BitVec.ofNat 72 (2 ^ bit)),
        (.faultInjectDouble who bit, BitVec.ofNat 72 (2 ^ bit + 2 ^ (bit + 1)))] →
      let at' := regionAt s.injectAt
      (at' = some .basin ∨ at' = some .weir ∨ at' = some .slice ∨ at' = some .psram → s.does c fun t =>
        t = { s with faults := { s.faults with inject := some (s.injectAt, f) }, bus := t.bus } ∧
        t.answered who Code.ok) ∧
      (at' = none ∨ at' = some .flash ∨ at' = some .control → s.does c fun t => t = { s with bus := t.bus } ∧
        t.answered who Code.faultXlat)) ∧
    (∀ (n : Fin 8) (c : Ctx) (va : Nat), s.runs = true → flag (s.rg .faultRetUnits) (20 + n.val) = false → c < 1024 →
      let xlat := { s.xlat with acting := s.xlat.acting.put n.val (some c) }
      (∀ len bs, s.gets { ctx := c, stop := Stop.steward n.val } va len bs →
        s.does (.stewardMemoryAccess n c va none len false) fun t => t = { s with xlat }) ∧
      (∀ (bs : List Byte) (pa entry len : Nat), s.passes { ctx := c, stop := Stop.steward n.val } va true pa entry →
        va % 65536 + bs.length ≤ 65536 → regionAt pa = some .basin ∨ regionAt pa = some .psram →
        s.does (.stewardMemoryAccess n c va (some bs) len false) fun t =>
          t = { s with mem := t.mem, flips := t.flips, faults := t.faults, xlat } ∧ t.holds pa bs ∧
          s.keepsBut t [(pa, bs.length)]))

/-! ## The cascade (chapter 17) -/

/-- The roles are those that master `m` gives: the lowest other live ID is the standby (R393). -/
def rolesUnder (t : State) (m : Nat) : Prop :=
  t.casc.master = some m ∧ t.casc.standby = t.casc.nextStandby m ∧
  t.casc.role = if m = t.casc.id then 1 else if t.casc.standby = some t.casc.id then 2 else 3

/-- TOWLINE_TRAINING puts a towline to the peer R391 wires into use with its good lanes, and retires the others; a wrong
peer makes it unusable and is recorded. A flit that fails counts, and after the eighth failed retransmission the towline
retrains without the lanes that failed. DELAY_MEASURE, HEARTBEAT and WATCHDOG_EXPIRY set what they measure.
TIME_MESSAGE_SEND is the master's; TIME_MESSAGE_RECEIVE is one offset sample of 125 µs. FORMATION_END with every expected
module there makes them live, one of them master, and the lowest other the standby (R391 to R394, R396, R402). -/
def Obligations.TowlinesCarryTimeAndRoles : Prop :=
  ∀ (s : State), s.awake = true →
    (∀ (l : Fin 3) (peer : Fin 4) (lanes : BitVec 8),
      let x := s.casc.links.at l.val {}
      let on := lanes &&& ~~~(s.retiredLanes l.val)
      (peer.val = s.casc.id ^^^ (l.val + 1) → s.does (.towlineTraining l peer lanes) fun t =>
        t = { s with casc := t.casc, regs := t.regs, faults := t.faults, sdio := t.sdio } ∧
        t.casc = { s.casc with links := s.casc.links.put l.val { x with
          lanes := on, peer := peer.val, up := decide (on ≠ 0), failures := 0, lastBeat := s.ns } } ∧
        t.retiredLanes l.val = s.retiredLanes l.val ||| ~~~lanes) ∧
      (peer.val ≠ s.casc.id ^^^ (l.val + 1) → s.does (.towlineTraining l peer lanes) fun t =>
        onlyRecorded { s with casc := t.casc } t ∧ (t.casc.links.at l.val {}).up = false ∧
        (t.casc.links.at l.val {}).lanes = 0)) ∧
    (∀ (l : Fin 3) (failed : BitVec 8),
      let x := s.casc.links.at l.val {}
      let now (t : State) := t.casc.links.at l.val {}
      x.up = true →
      (s.does (.towlineFlitReceive l true failed) fun t => t = { s with casc := t.casc } ∧ now t = { x with failures := 0 }) ∧
      (x.failures < 8 → s.does (.towlineFlitReceive l false failed) fun t => t = { s with casc := t.casc, regs := t.regs } ∧
        now t = { x with failures := x.failures + 1 } ∧
        t.rf .towErr l.val 15 0 = min 65535 (s.rf .towErr l.val 15 0 + 1)) ∧
      (8 ≤ x.failures → s.does (.towlineFlitReceive l false failed) fun t => t.mem = s.mem ∧ t.locks = s.locks ∧
        now t = { x with lanes := x.lanes &&& ~~~failed, up := decide (x.lanes &&& ~~~failed ≠ 0), failures := 0 } ∧
        t.retiredLanes l.val = s.retiredLanes l.val ||| (x.lanes &&& failed) ∧
        t.rf .towErr l.val 31 16 = min 65535 (s.rf .towErr l.val 31 16 + 1)) ∧
      (∀ ns, s.does (.delayMeasure l ns) fun t => t = { s with regs := t.regs } ∧ regsBut s t [Reg.off .towDelay l.val 0] ∧
        t.rg .towDelay l.val = Word.ofNat (min 65535 ns)) ∧
      (s.does (.heartbeat l) fun t => t = { s with casc := t.casc } ∧ now t = { x with lastBeat := s.ns }) ∧
      (∀ sent : Nat, s.casc.role = 2 ∨ s.casc.role = 3 → s.rf .timeCfg 0 1 0 = 3 → s.clock.justStepped = false →
        let theta : Int := (s.fullTime : Int) - (sent + s.rf .towDelay l.val 15 0 : Nat)
        let y : Rat := -(theta : Rat) / 125000
        let integ := clampRate (s.clock.integ + y / 2 ^ s.rf .timeCfg 0 13 10)
        (theta.natAbs < 1000000 → s.does (.timeMessageReceive sent l) fun t =>
          t = { s with clock := t.clock, regs := t.regs } ∧ t.rg .timeLastofs = BitVec.ofInt 32 theta ∧
          t.clock.integ = integ ∧ t.clock.acc = s.clock.acc ∧
          t.rg .timeAdj = BitVec.ofInt 32 (adjOf (clampRate (integ + y / 2 ^ s.rf .timeCfg 0 9 6)))) ∧
        (1000000 ≤ theta.natAbs → s.does (.timeMessageReceive sent l) fun t =>
          t = { s with clock := t.clock, regs := t.regs } ∧ flag (t.rg .timeStat) 5 = true ∧
          t.rg .timeAdj = s.rg .timeAdj))) ∧
    (s.does .watchdogExpiry fun t => t = { s with casc := { s.casc with alive := false } }) ∧
    (s.casc.role = 1 → s.does .timeMessageSend fun t =>
      t = { s with casc := { s.casc with timeMessages := s.casc.timeMessages + 1 } }) ∧
    (s.casc.role ≠ 1 → s.does .timeMessageSend fun t => t = s) ∧
    (s.casc.enabled = true → s.casc.formed = false → flag s.casc.expect s.casc.id = true → s.casc.id < 4 →
      (∀ i, i < 4 → flag s.casc.expect i = true → i = s.casc.id ∨ s.direct i = true) → s.does .formationEnd fun t =>
        t.casc.formed = true ∧ t.casc.id = s.casc.id ∧ t.casc.live = s.casc.expect ∧ t.mem = s.mem ∧ ∃ m, m < 4 ∧
          flag s.casc.expect m = true ∧ rolesUnder t m ∧ t.rf .timeCfg 0 1 0 = if m = s.casc.id then s.rf .timeCfg 0 1 0 else 3)

/-- POWER_REPORT: a module alone takes the lesser of budget and MODMAX; in a cascade every live module gets 40 W or more,
and the shares stay within the budget where it covers 40 W each. A module that joins is live once its report is in.
SHARE_TIMEOUT is an equal split. HEARTBEAT_LOSS leaves a module alone. A module lost leaves the live set, and the standby
takes a lost master's place, counted. TOW_CMD is the master's, one command at a time: LEAVE takes the module from every
MASK, JOIN waits for its report, HANDOVER makes the standby master. A MASK is written but for contexts R475 excludes
(R395, R397, R398, R402 to R404, R425, R475). -/
def Obligations.CascadesShareAndChange : Prop :=
  ∀ (s : State), s.awake = true → s.calm = true →
    (∀ rs : List ModuleReport,
      (s.casc.role = 0 → s.does (.powerReport rs) fun t => t = { s with regs := t.regs } ∧
        regsBut s t [Reg.off .pwrShare 0 0] ∧
        t.rf .pwrShare 0 11 0 = min 4095 (min (s.rf .pwrBudget 0 11 0) (s.rf .pwrModmax 0 8 0))) ∧
      (s.casc.role ≠ 0 → s.casc.joining = none → s.does (.powerReport rs) fun t =>
        t.mem = s.mem ∧ t.ctxs = s.ctxs ∧ t.casc.live = s.casc.live ∧ t.casc.lastShare = s.ns ∧
        (∀ x ∈ t.casc.shares, 40 ≤ x.2) ∧ t.casc.shares.length = (modulesOf s.casc.live).length ∧
        ((modulesOf s.casc.live).length * 40 ≤ s.rf .pwrBudget 0 11 0 →
          (t.casc.shares.map fun x => x.2).sum ≤ s.rf .pwrBudget 0 11 0 ∧ flag (t.rg .pwrShare) 12 = false) ∧
        (s.rf .pwrBudget 0 11 0 < (modulesOf s.casc.live).length * 40 →
          (∀ x ∈ t.casc.shares, x.2 = 40) ∧ flag (t.rg .pwrShare) 12 = true)) ∧
      (∀ m r, s.casc.role ≠ 0 → s.casc.joining = some m → r ∈ rs → r.id = m → s.does (.powerReport rs) fun t =>
        t.casc.joining = none ∧ flag t.casc.live m.val = true ∧ t.rg .towCmdStatus = 0)) ∧
    (s.casc.role = 2 ∨ s.casc.role = 3 → (s.casc.lastShare + 3 * 10 ^ 6) * nsUnit ≤ s.clock.elapsed →
      s.does .shareTimeout fun t => t = { s with regs := t.regs } ∧ regsBut s t [Reg.off .pwrShare 0 0] ∧
        t.rf .pwrShare 0 11 0 = min 4095 (s.rf .pwrBudget 0 11 0 / max 1 s.casc.liveAtShare)) ∧
    (∀ b, s.casc.role ≠ 0 → s.openParts s.casc.id = [] →
      ((s.casc.links.filter fun x => x.2.up).map fun x => x.2.lastBeat).max? = some b →
      (b + 10 ^ 6) * nsUnit ≤ s.clock.elapsed → s.does .heartbeatLoss fun t => t = { s with regs := t.regs, casc := { s.casc with
        alive := false, role := 0, master := none, standby := none, enabled := false, formed := false
        live := bit4 s.casc.id, leaving := none, joining := none } } ∧ regsBut s t [Reg.off .towCmdStatus 0 0] ∧
        t.rg .towCmdStatus = if s.casc.leaving = none ∧ s.casc.joining = none then s.rg .towCmdStatus
          else Word.ofNat Code.faultLink) ∧
    (∀ i : Fin 4, s.casc.role ≠ 0 → i.val ≠ s.casc.id → flag s.casc.live i.val = true → s.openParts i.val = [] →
      s.casc.copies = [] → s.casc.joining ≠ some i → s.does (.cascPeerDeassert i) fun t =>
        t.mem = s.mem ∧ t.ctxs = s.ctxs ∧ t.casc.live = s.casc.live &&& ~~~(bit4 i.val) ∧
        (s.casc.master = some i.val → rolesUnder t (s.casc.standby.getD s.casc.id) ∧
          t.rf .towFailover 0 7 0 = min 255 (s.rf .towFailover 0 7 0 + 1) ∧ t.rf .towFailover 0 31 16 ≤ 100) ∧
        (∀ m, s.casc.master = some m → m ≠ i.val → rolesUnder t m ∧ t.regs = s.regs)) ∧
    (∀ who : Who, s.takes who .towCmd 0 →
      (s.casc.role ≠ 1 ∨ s.casc.leaving ≠ none ∨ s.casc.joining ≠ none → ∀ m, ∀ c ∈ [Instr.cascLeave who m, .cascJoin who m,
        .cascHandover who], s.does c fun t => t = { s with bus := t.bus } ∧ t.answered who Code.faultXlat) ∧
      (s.casc.role = 1 → s.casc.leaving = none → s.casc.joining = none →
        let set (t : State) (w : Nat) := t = { s with casc := t.casc, regs := t.regs, bus := t.bus } ∧
          t.rg .towCmdStatus = Word.ofNat w ∧ regsBut s t [Reg.off .towCmdStatus 0 0] ∧ t.answered who Code.ok
        (∀ m : Fin 4, s.casc.master ≠ some m.val → s.casc.masks.rising = true →
          (∀ x ∈ s.casc.masks, (s.ctx x.1).inJob = false) → s.does (.cascLeave who m) fun t => set t 0 ∧
            t.casc.leaving = none ∧ ∀ c, t.casc.masks.at c 0 = s.casc.masks.at c 0 &&& ~~~(bit4 m.val)) ∧
        (∀ m : Fin 4, s.casc.master = some m.val → s.does (.cascLeave who m) fun t => set t Code.faultXlat ∧
          t.casc = s.casc) ∧
        (∀ m : Fin 4, (flag s.casc.live m.val = true → s.does (.cascJoin who m) fun t => set t 0 ∧ t.casc = s.casc) ∧
          (flag s.casc.live m.val = false → s.does (.cascJoin who m) fun t => set t 0x100 ∧
            t.casc = { s.casc with joining := some m })) ∧
        (∀ m, s.casc.standby = some m → s.does (.cascHandover who) fun t => set t 0 ∧ rolesUnder t m ∧
          t.casc.live = s.casc.live) ∧
        (s.casc.standby = none → s.does (.cascHandover who) fun t => set t Code.faultXlat ∧ t.casc = s.casc))) ∧
    (∀ (who : Who) (w : Word), s.takes who .towCtx 0 →
      let c := s.rf .towCtxSel 0 9 0
      let m : BitVec 4 := BitVec.ofNat 4 (field w 3 0)
      let barred := 2 ≤ (modulesOf m).length ∧ (c = 1023 ∨ ((s.ctx c).st ≠ .free ∧
        ((s.ctx c).desc.cls = 0 ∨ (s.ctx c).desc.paired = true)))
      (barred → s.does (.towCtxMaskWrite who w) fun t => t = { s with regs := t.regs, bus := t.bus } ∧
        t.rf .towCmdStatus 0 7 0 = Code.faultXlat ∧ t.answered who Code.ok) ∧
      (¬barred → s.does (.towCtxMaskWrite who w) fun t =>
        t = { s with casc := { s.casc with masks := s.casc.masks.put c m, left := s.casc.left.drop c }, bus := t.bus } ∧
        t.answered who Code.ok))

end
end

