-- ==== Sys2Proof/Laws/Run.lean ====
section
/-!
SUPPORT. Sys2Proof/Laws/Run.lean: how runs and actions compose, and the two ways to reason about them: a predicate
that every update keeps is kept by every run, and `Act.Does` says what an action answers and leaves.
-/
namespace Sys2Proof.Machine

@[simp] theorem Run.run_stop (s : State) : Run.stop.run s = s := rfl
@[simp] theorem Run.run_look (k : State → Run) (s : State) : (Run.look k).run s = (k s).run s := rfl
@[simp] theorem Run.run_make (u : Upd) (k : Run) (s : State) : (Run.make u k).run s = k.run (s.upd u) := rfl

@[simp] theorem Run.run_ite (p : Prop) [Decidable p] (a b : Run) (s : State) :
    (if p then a else b).run s = if p then a.run s else b.run s := by split <;> rfl

/-- What every update keeps, every run keeps. -/
theorem Run.keeps {P : State → Prop} (hu : ∀ s u, P s → P (s.upd u)) :
    ∀ (r : Run) (s : State), P s → P (r.run s)
  | .stop, _, h => h
  | .look k, s, h => Run.keeps hu (k s) s h
  | .make u k, s, h => Run.keeps hu k (s.upd u) (hu s u h)

/-- What every update keeps, every action keeps. -/
theorem Act.keeps {P : State → Prop} (hu : ∀ s u, P s → P (s.upd u)) (x : Act Unit) (s : State) (h : P s) :
    P (x.after s) := Run.keeps hu _ s h

/-- A reflexive and transitive relation that every update respects, every action respects. -/
theorem Act.respects {R : State → State → Prop} (refl : ∀ s, R s s) (trans : ∀ a b c, R a b → R b c → R a c)
    (hu : ∀ s u, R s (s.upd u)) (x : Act Unit) (s : State) : R s (x.after s) :=
  Run.keeps (P := R s) (fun t u h => trans s t _ h (hu t u)) _ s (refl s)

variable {α β : Type}

theorem Act.bind_apply (x : Act α) (f : α → Act β) (k : β → Run) : (x >>= f) k = x fun a => f a k := rfl
theorem Act.pure_apply (a : α) (k : α → Run) : (pure a : Act α) k = k a := rfl
theorem Act.get_apply (k : State → Run) : Act.get k = Run.look k := rfl
theorem Act.make_apply (u : Upd) (k : Unit → Run) : Act.make u k = Run.make u (k ()) := rfl
theorem Act.ite_apply (p : Prop) [Decidable p] (x y : Act α) (k : α → Run) :
    (if p then x else y) k = if p then x k else y k := by split <;> rfl
theorem Act.after_eq (x : Act Unit) (s : State) : x.after s = Run.run (x fun _ => Run.stop) s := rfl

/-- From `s` the action answers some `a` and leaves some `t` with `Q a t`, and goes on from there. -/
def Act.Does (x : Act α) (s : State) (Q : α → State → Prop) : Prop :=
  ∀ k : α → Run, ∃ a t, Q a t ∧ Run.run (x k) s = Run.run (k a) t

theorem Act.Does.after {x : Act Unit} {s : State} {Q : Unit → State → Prop} (h : x.Does s Q) : Q () (x.after s) := by
  obtain ⟨_, t, hq, ht⟩ := h fun _ => Run.stop
  have e : x.after s = t := ht
  rw [e]
  exact hq

theorem Act.Does.bind {x : Act α} {f : α → Act β} {s : State} {Q : α → State → Prop} {R : β → State → Prop}
    (hx : x.Does s Q) (hf : ∀ a t, Q a t → (f a).Does t R) : (x >>= f).Does s R := by
  intro k
  obtain ⟨a, t, hq, ht⟩ := hx fun a => f a k
  obtain ⟨b, u, hr, hu⟩ := hf a t hq k
  exact ⟨b, u, hr, ht.trans hu⟩

theorem Act.Does.mono {x : Act α} {s : State} {Q R : α → State → Prop} (h : x.Does s Q)
    (hi : ∀ a t, Q a t → R a t) : x.Does s R := fun k =>
  let ⟨a, t, hq, ht⟩ := h k
  ⟨a, t, hi a t hq, ht⟩

theorem Act.Does.pure {s : State} {Q : α → State → Prop} {a : α} (h : Q a s) : (Pure.pure a : Act α).Does s Q :=
  fun _ => ⟨a, s, h, rfl⟩

theorem Act.Does.get {s : State} {Q : State → State → Prop} (h : Q s s) : Act.get.Does s Q :=
  fun _ => ⟨s, s, h, rfl⟩

theorem Act.Does.make {u : Upd} {s : State} {Q : Unit → State → Prop} (h : Q () (s.upd u)) : (Act.make u).Does s Q :=
  fun _ => ⟨(), s.upd u, h, rfl⟩

theorem Act.Does.get_bind {f : State → Act β} {s : State} {R : β → State → Prop} (h : (f s).Does s R) :
    (Act.get >>= f).Does s R := fun k => h k

theorem Act.Does.make_bind {u : Upd} {f : Unit → Act β} {s : State} {R : β → State → Prop}
    (h : (f ()).Does (s.upd u) R) : (Act.make u >>= f).Does s R := fun k => h k

theorem Act.Does.pure_bind {a : α} {f : α → Act β} {s : State} {R : β → State → Prop} (h : (f a).Does s R) :
    ((Pure.pure a : Act α) >>= f).Does s R := fun k => h k

theorem Act.Does.ite {p : Prop} [Decidable p] {x y : Act α} {s : State} {Q : α → State → Prop}
    (hx : p → x.Does s Q) (hy : ¬p → y.Does s Q) : (if p then x else y).Does s Q := by
  split
  · exact hx ‹_›
  · exact hy ‹_›

/-- A loop over a list keeps what each pass keeps. -/
theorem Act.Does.loop {γ : Type} {f : γ → β → Act (ForInStep β)} {I : β → State → Prop}
    (hf : ∀ c b t, I b t → (f c b).Does t fun r u => match r with
      | .done b' => I b' u
      | .yield b' => I b' u) :
    ∀ (l : List γ) (b : β) (s : State), I b s → (forIn l b f : Act β).Does s I
  | [], b, s, h => Act.Does.pure h
  | c :: l, b, s, h => by
    rw [List.forIn_cons]
    refine (hf c b s h).bind fun r t hr => ?_
    cases r with
    | done b' => exact Act.Does.pure hr
    | yield b' => exact Act.Does.loop hf l b' t hr

/-- An action leaves `g` of the state as it was. -/
def Act.Frames {γ : Type} (g : State → γ) (x : Act α) : Prop := ∀ s, x.Does s fun _ t => g t = g s

theorem Act.Frames.bind {γ : Type} {g : State → γ} {x : Act α} {f : α → Act β} (hx : x.Frames g)
    (hf : ∀ a, (f a).Frames g) : (x >>= f).Frames g := fun s =>
  (hx s).bind fun a t ht => (hf a t).mono fun _ _ hu => hu.trans ht

theorem Act.Frames.pure {γ : Type} {g : State → γ} (a : α) : (Pure.pure a : Act α).Frames g :=
  fun _ => Act.Does.pure rfl

theorem Act.Frames.get {γ : Type} {g : State → γ} : Act.get.Frames g := fun _ => Act.Does.get rfl

theorem Act.Frames.make {γ : Type} {g : State → γ} {u : Upd} (h : ∀ s, g (s.upd u) = g s) : (Act.make u).Frames g :=
  fun s => Act.Does.make (h s)

theorem Act.Frames.ite {γ : Type} {g : State → γ} {p : Prop} [Decidable p] {x y : Act α} (hx : x.Frames g)
    (hy : y.Frames g) : (if p then x else y).Frames g := by split <;> assumption

theorem Act.Frames.loop {γ δ : Type} {g : State → γ} {f : δ → β → Act (ForInStep β)} (hf : ∀ c b, (f c b).Frames g)
    (l : List δ) (b : β) : (forIn l b f : Act β).Frames g := fun s =>
  Act.Does.loop (I := fun _ t => g t = g s)
    (fun c b t ht => (hf c b t).mono fun r u hu => by cases r <;> exact hu.trans ht) l b s rfl

theorem Act.Frames.after {γ : Type} {g : State → γ} {x : Act Unit} (h : x.Frames g) (s : State) : g (x.after s) = g s :=
  (h s).after

end Sys2Proof.Machine
end

