-- ==== Sys2Proof/Laws/State.lean ====
section
/-!
SUPPORT. Sys2Proof/Laws/State.lean: what each update does to each field of the state. An update that does not write a
field leaves it (`State.upd_<field>`, which simp applies by evaluating `Upd.writes`); the others say the field's new
value. So no proof unfolds `State.upd`.
-/
namespace Sys2Proof.Machine

/-- The fields of the state. -/
inductive Fld where
  | pending | regs | latches | bus | mem | flips | nor | links | fabricEnded | engines | drains | claims
  | progs | nextHandle | ctxs | residual | selState | selAccts | locks | waits | xlat | chanQueues | flying | served
  | psram | ftl | reflex | ports | grid | plan | clock | sdio | boot | casc | power | therm | faults
  | freeCount
  deriving DecidableEq

/-- Whether an update may write a field. `fresh` writes all but the queue, the boot NOR and the count of free values drawn. -/
@[simp] def Upd.writes : Upd → Fld → Bool
  | .reg _ _, f => f = .regs
  | .latch _ _, f => f = .latches
  | .bus _ _, f => f = .bus
  | .mem _ _, f => f = .mem
  | .copy _ _ _, f => f = .mem
  | .clear _ _, f => f = .mem
  | .flip _ _, f => f = .flips
  | .nor _ _, f => f = .nor
  | .norErase, f => f = .nor
  | .link _ _, f => f = .links
  | .fabricEnd, f => f = .fabricEnded
  | .engine _ _, f => f = .engines
  | .drains _ _, f => f = .drains
  | .claims _, f => f = .claims
  | .prog _ _, f => f = .progs
  | .dropProg _, f => f = .progs
  | .nextHandle _, f => f = .nextHandle
  | .ctx _ _, f => f = .ctxs
  | .residual _ _, f => f = .residual
  | .select _ _, f => f = .selState || f = .selAccts
  | .lock _ _, f => f = .locks
  | .waits _, f => f = .waits
  | .xlat _, f => f = .xlat
  | .channel _ _, f => f = .chanQueues
  | .fly _ _, f => f = .flying
  | .land _, f => f = .flying
  | .serve _, f => f = .served
  | .psram _ _, f => f = .psram
  | .ftl _, f => f = .ftl
  | .reflex _, f => f = .reflex
  | .ports _, f => f = .ports
  | .grid _, f => f = .grid
  | .plan _, f => f = .plan
  | .clock _, f => f = .clock
  | .pass _, f => f = .clock
  | .sdio _, f => f = .sdio
  | .ram _ _, f => f = .sdio
  | .boot _, f => f = .boot
  | .casc _, f => f = .casc
  | .power _, f => f = .power
  | .therm _, f => f = .therm
  | .faults _, f => f = .faults
  | .draw, f => f = .freeCount
  | .fresh, f => !(f = .pending || f = .nor || f = .freeCount)

variable (s : State) (u : Upd)

@[simp] theorem State.upd_pending : (s.upd u).pending = s.pending := by cases u <;> rfl
@[simp] theorem State.upd_regs (h : u.writes .regs = false) : (s.upd u).regs = s.regs := by
  cases u <;> first | rfl | cases h
@[simp] theorem State.upd_latches (h : u.writes .latches = false) : (s.upd u).latches = s.latches := by
  cases u <;> first | rfl | cases h
@[simp] theorem State.upd_bus (h : u.writes .bus = false) : (s.upd u).bus = s.bus := by
  cases u <;> first | rfl | cases h
@[simp] theorem State.upd_mem (h : u.writes .mem = false) : (s.upd u).mem = s.mem := by
  cases u <;> first | rfl | cases h
@[simp] theorem State.upd_flips (h : u.writes .flips = false) : (s.upd u).flips = s.flips := by
  cases u <;> first | rfl | cases h
@[simp] theorem State.upd_nor (h : u.writes .nor = false) : (s.upd u).nor = s.nor := by
  cases u <;> first | rfl | cases h
@[simp] theorem State.upd_links (h : u.writes .links = false) : (s.upd u).links = s.links := by
  cases u <;> first | rfl | cases h
@[simp] theorem State.upd_fabricEnded (h : u.writes .fabricEnded = false) : (s.upd u).fabricEnded = s.fabricEnded := by
  cases u <;> first | rfl | cases h
@[simp] theorem State.upd_engines (h : u.writes .engines = false) : (s.upd u).engines = s.engines := by
  cases u <;> first | rfl | cases h
@[simp] theorem State.upd_drains (h : u.writes .drains = false) : (s.upd u).drains = s.drains := by
  cases u <;> first | rfl | cases h
@[simp] theorem State.upd_claims (h : u.writes .claims = false) : (s.upd u).claims = s.claims := by
  cases u <;> first | rfl | cases h
@[simp] theorem State.upd_progs (h : u.writes .progs = false) : (s.upd u).progs = s.progs := by
  cases u <;> first | rfl | cases h
@[simp] theorem State.upd_nextHandle (h : u.writes .nextHandle = false) : (s.upd u).nextHandle = s.nextHandle := by
  cases u <;> first | rfl | cases h
@[simp] theorem State.upd_ctxs (h : u.writes .ctxs = false) : (s.upd u).ctxs = s.ctxs := by
  cases u <;> first | rfl | cases h
@[simp] theorem State.upd_residual (h : u.writes .residual = false) : (s.upd u).residual = s.residual := by
  cases u <;> first | rfl | cases h
@[simp] theorem State.upd_selState (h : u.writes .selState = false) : (s.upd u).selState = s.selState := by
  cases u <;> first | rfl | cases h
@[simp] theorem State.upd_selAccts (h : u.writes .selAccts = false) : (s.upd u).selAccts = s.selAccts := by
  cases u <;> first | rfl | cases h
@[simp] theorem State.upd_locks (h : u.writes .locks = false) : (s.upd u).locks = s.locks := by
  cases u <;> first | rfl | cases h
@[simp] theorem State.upd_waits (h : u.writes .waits = false) : (s.upd u).waits = s.waits := by
  cases u <;> first | rfl | cases h
@[simp] theorem State.upd_xlat (h : u.writes .xlat = false) : (s.upd u).xlat = s.xlat := by
  cases u <;> first | rfl | cases h
@[simp] theorem State.upd_chanQueues (h : u.writes .chanQueues = false) : (s.upd u).chanQueues = s.chanQueues := by
  cases u <;> first | rfl | cases h
@[simp] theorem State.upd_flying (h : u.writes .flying = false) : (s.upd u).flying = s.flying := by
  cases u <;> first | rfl | cases h
@[simp] theorem State.upd_served (h : u.writes .served = false) : (s.upd u).served = s.served := by
  cases u <;> first | rfl | cases h
@[simp] theorem State.upd_psram (h : u.writes .psram = false) : (s.upd u).psram = s.psram := by
  cases u <;> first | rfl | cases h
@[simp] theorem State.upd_ftl (h : u.writes .ftl = false) : (s.upd u).ftl = s.ftl := by
  cases u <;> first | rfl | cases h
@[simp] theorem State.upd_reflex (h : u.writes .reflex = false) : (s.upd u).reflex = s.reflex := by
  cases u <;> first | rfl | cases h
@[simp] theorem State.upd_ports (h : u.writes .ports = false) : (s.upd u).ports = s.ports := by
  cases u <;> first | rfl | cases h
@[simp] theorem State.upd_grid (h : u.writes .grid = false) : (s.upd u).grid = s.grid := by
  cases u <;> first | rfl | cases h
@[simp] theorem State.upd_plan (h : u.writes .plan = false) : (s.upd u).plan = s.plan := by
  cases u <;> first | rfl | cases h
@[simp] theorem State.upd_clock (h : u.writes .clock = false) : (s.upd u).clock = s.clock := by
  cases u <;> first | rfl | cases h
@[simp] theorem State.upd_sdio (h : u.writes .sdio = false) : (s.upd u).sdio = s.sdio := by
  cases u <;> first | rfl | cases h
@[simp] theorem State.upd_boot (h : u.writes .boot = false) : (s.upd u).boot = s.boot := by
  cases u <;> first | rfl | cases h
@[simp] theorem State.upd_casc (h : u.writes .casc = false) : (s.upd u).casc = s.casc := by
  cases u <;> first | rfl | cases h
@[simp] theorem State.upd_power (h : u.writes .power = false) : (s.upd u).power = s.power := by
  cases u <;> first | rfl | cases h
@[simp] theorem State.upd_therm (h : u.writes .therm = false) : (s.upd u).therm = s.therm := by
  cases u <;> first | rfl | cases h
@[simp] theorem State.upd_faults (h : u.writes .faults = false) : (s.upd u).faults = s.faults := by
  cases u <;> first | rfl | cases h
@[simp] theorem State.upd_freeCount (h : u.writes .freeCount = false) : (s.upd u).freeCount = s.freeCount := by
  cases u <;> first | rfl | cases h

@[simp] theorem State.upd_reg_regs (a b) : (s.upd (.reg a b)).regs =
    s.regs.put a b := rfl
@[simp] theorem State.upd_latch_latches (a b) : (s.upd (.latch a b)).latches =
    s.latches.put a b := rfl
@[simp] theorem State.upd_bus_bus (a b) : (s.upd (.bus a b)).bus =
    s.bus.put a b := rfl
@[simp] theorem State.upd_mem_mem (a b) : (s.upd (.mem a b)).mem =
    Memory.store 0 s.mem a b := rfl
@[simp] theorem State.upd_copy_mem (a b c) : (s.upd (.copy a b c)).mem =
    Memory.copy s.mem a b c := rfl
@[simp] theorem State.upd_clear_mem (a b) : (s.upd (.clear a b)).mem =
    Memory.clear s.mem a b := rfl
@[simp] theorem State.upd_flip_flips (a b) : (s.upd (.flip a b)).flips =
    if b = 0 then s.flips.drop a else s.flips.put a b := rfl
@[simp] theorem State.upd_nor_nor (a b) : (s.upd (.nor a b)).nor =
    Memory.store 0xFF s.nor a b := rfl
@[simp] theorem State.upd_norErase_nor : (s.upd (.norErase)).nor =
    [] := rfl
@[simp] theorem State.upd_link_links (a b) : (s.upd (.link a b)).links =
    s.links.put a b := rfl
@[simp] theorem State.upd_fabricEnd_fabricEnded : (s.upd (.fabricEnd)).fabricEnded =
    true := rfl
@[simp] theorem State.upd_engine_engines (a b) : (s.upd (.engine a b)).engines =
    s.engines.put a b := rfl
@[simp] theorem State.upd_drains_drains (a b) : (s.upd (.drains a b)).drains =
    s.drains.put a b := rfl
@[simp] theorem State.upd_claims_claims (a) : (s.upd (.claims a)).claims =
    a := rfl
@[simp] theorem State.upd_prog_progs (a b) : (s.upd (.prog a b)).progs =
    s.progs.put a b := rfl
@[simp] theorem State.upd_dropProg_progs (a) : (s.upd (.dropProg a)).progs =
    s.progs.drop a := rfl
@[simp] theorem State.upd_nextHandle_nextHandle (a) : (s.upd (.nextHandle a)).nextHandle =
    a := rfl
@[simp] theorem State.upd_ctx_ctxs (a b) : (s.upd (.ctx a b)).ctxs =
    s.ctxs.put a b := rfl
@[simp] theorem State.upd_residual_residual (a b) : (s.upd (.residual a b)).residual =
    s.residual.put a b := rfl
@[simp] theorem State.upd_select_selState (a b) : (s.upd (.select a b)).selState = a := rfl
@[simp] theorem State.upd_select_selAccts (a b) : (s.upd (.select a b)).selAccts = b := rfl
@[simp] theorem State.upd_lock_locks (a b) : (s.upd (.lock a b)).locks =
    s.locks.put a b := rfl
@[simp] theorem State.upd_waits_waits (a) : (s.upd (.waits a)).waits =
    a := rfl
@[simp] theorem State.upd_xlat_xlat (a) : (s.upd (.xlat a)).xlat =
    a := rfl
@[simp] theorem State.upd_channel_chanQueues (a b) : (s.upd (.channel a b)).chanQueues =
    s.chanQueues.put a b := rfl
@[simp] theorem State.upd_fly_flying (a b) : (s.upd (.fly a b)).flying =
    s.flying.put a b := rfl
@[simp] theorem State.upd_land_flying (a) : (s.upd (.land a)).flying =
    s.flying.drop a := rfl
@[simp] theorem State.upd_serve_served (a) : (s.upd (.serve a)).served =
    a := rfl
@[simp] theorem State.upd_psram_psram (a b) : (s.upd (.psram a b)).psram =
    s.psram.put a b := rfl
@[simp] theorem State.upd_ftl_ftl (a) : (s.upd (.ftl a)).ftl =
    a := rfl
@[simp] theorem State.upd_reflex_reflex (a) : (s.upd (.reflex a)).reflex =
    a := rfl
@[simp] theorem State.upd_ports_ports (a) : (s.upd (.ports a)).ports =
    a := rfl
@[simp] theorem State.upd_grid_grid (a) : (s.upd (.grid a)).grid =
    a := rfl
@[simp] theorem State.upd_plan_plan (a) : (s.upd (.plan a)).plan =
    a := rfl
@[simp] theorem State.upd_clock_clock (a) : (s.upd (.clock a)).clock =
    { a with elapsed := s.clock.elapsed } := rfl
@[simp] theorem State.upd_pass_clock (a) : (s.upd (.pass a)).clock =
    { s.clock with elapsed := s.clock.elapsed + a } := rfl
@[simp] theorem State.upd_sdio_sdio (a) : (s.upd (.sdio a)).sdio =
    { a with ram := s.sdio.ram } := rfl
@[simp] theorem State.upd_ram_sdio (a b) : (s.upd (.ram a b)).sdio =
    { s.sdio with ram := Memory.store 0 s.sdio.ram a b } := rfl
@[simp] theorem State.upd_boot_boot (a) : (s.upd (.boot a)).boot =
    a := rfl
@[simp] theorem State.upd_casc_casc (a) : (s.upd (.casc a)).casc =
    a := rfl
@[simp] theorem State.upd_power_power (a) : (s.upd (.power a)).power =
    a := rfl
@[simp] theorem State.upd_therm_therm (a) : (s.upd (.therm a)).therm =
    a := rfl
@[simp] theorem State.upd_faults_faults (a) : (s.upd (.faults a)).faults =
    a := rfl
@[simp] theorem State.upd_draw_freeCount : (s.upd (.draw)).freeCount =
    s.freeCount + 1 := rfl

/-- A fresh device keeps its queue, its boot NOR, the contents and the wear of its flash, its free values and elapsed time
(R3, R242, R409). -/
theorem State.upd_fresh : s.upd .fresh = { State.reset with
    pending := s.pending, nor := s.nor, freeCount := s.freeCount, clock := { elapsed := s.clock.elapsed }
    mem := Memory.clear s.mem 0 0x100_0000_0000
    ftl := { spareGone := s.ftl.spareGone, figures := s.ftl.figures } } := rfl

end Sys2Proof.Machine
end

