-- ==== Sys2Proof/Laws/Tables.lean ====
section
/-!
SUPPORT. Sys2Proof/Laws/Tables.lean: finding after storing in a table, and that storing and removing keep the keys
strictly rising.
-/
namespace Sys2Proof

variable {α : Type}

@[simp] theorem Sparse.find_nil (k : Nat) : Sparse.find ([] : Sparse α) k = none := rfl
@[simp] theorem Sparse.at_nil (k : Nat) (d : α) : Sparse.at ([] : Sparse α) k d = d := rfl

@[simp] theorem Sparse.find_put_same (t : Sparse α) (k : Nat) (a : α) : (t.put k a).find k = some a := by
  induction t with
  | nil => simp [Sparse.put, Sparse.find]
  | cons e t ih =>
    obtain ⟨j, b⟩ := e
    unfold Sparse.put
    split
    · have : j ≠ k := by omega
      simp [Sparse.find, this, ih]
    · split <;> simp [Sparse.find]

theorem Sparse.find_put_other (t : Sparse α) {k m : Nat} (a : α) (h : m ≠ k) : (t.put k a).find m = t.find m := by
  induction t with
  | nil => simp [Sparse.put, Sparse.find, Ne.symm h]
  | cons e t ih =>
    obtain ⟨j, b⟩ := e
    unfold Sparse.put
    split
    · simp [Sparse.find, ih]
    · split
      · subst_vars
        simp [Sparse.find, Ne.symm h]
      · simp [Sparse.find, Ne.symm h]

@[simp] theorem Sparse.at_put_same (t : Sparse α) (k : Nat) (a d : α) : (t.put k a).at k d = a := by
  simp [Sparse.at]

theorem Sparse.at_put_other (t : Sparse α) {k m : Nat} (a d : α) (h : m ≠ k) : (t.put k a).at m d = t.at m d := by
  simp [Sparse.at, Sparse.find_put_other t a h]

/-- Every key listed is above `m`. -/
theorem Sparse.rising_cons {j : Nat} {b : α} {t : Sparse α} :
    Sparse.rising ((j, b) :: t) = true ↔ (∀ e ∈ t, j < e.1) ∧ Sparse.rising t = true := by
  induction t generalizing j b with
  | nil => simp [Sparse.rising]
  | cons e t ih =>
    obtain ⟨k, c⟩ := e
    rw [Sparse.rising]
    simp only [Bool.and_eq_true, decide_eq_true_eq, List.mem_cons, forall_eq_or_imp]
    constructor
    · rintro ⟨h, hr⟩
      exact ⟨⟨h, fun e he => lt_trans h ((ih.1 hr).1 e he)⟩, hr⟩
    · rintro ⟨⟨h, _⟩, hr⟩
      exact ⟨h, hr⟩

theorem Sparse.mem_put {t : Sparse α} {k : Nat} {a : α} {e : Nat × α} (h : e ∈ t.put k a) : e ∈ t ∨ e = (k, a) := by
  induction t with
  | nil => simpa [Sparse.put] using h
  | cons f t ih =>
    obtain ⟨j, b⟩ := f
    unfold Sparse.put at h
    split at h
    · simp only [List.mem_cons] at h ⊢
      rcases h with h | h
      · exact .inl (.inl h)
      · exact (ih h).imp .inr id
    · split at h <;> simp only [List.mem_cons] at h ⊢ <;> tauto

theorem Sparse.rising_put {t : Sparse α} (h : t.rising = true) (k : Nat) (a : α) : (t.put k a).rising = true := by
  induction t with
  | nil => rfl
  | cons e t ih =>
    obtain ⟨j, b⟩ := e
    obtain ⟨hb, hr⟩ := Sparse.rising_cons.1 h
    unfold Sparse.put
    split
    · refine Sparse.rising_cons.2 ⟨fun e he => ?_, ih hr⟩
      rcases Sparse.mem_put he with he | rfl
      · exact hb e he
      · assumption
    · split
      · subst_vars
        exact Sparse.rising_cons.2 ⟨hb, hr⟩
      · refine Sparse.rising_cons.2 ⟨fun e he => ?_, h⟩
        have : k < j := by omega
        rcases List.mem_cons.1 he with rfl | he
        · exact this
        · exact lt_trans this (hb e he)

/-- Leaving entries out keeps the keys rising. -/
theorem Sparse.rising_filter {t : Sparse α} (h : t.rising = true) (p : Nat × α → Bool) :
    Sparse.rising (t.filter p) = true := by
  induction t with
  | nil => rfl
  | cons e t ih =>
    obtain ⟨j, b⟩ := e
    obtain ⟨hb, hr⟩ := Sparse.rising_cons.1 h
    rw [List.filter_cons]
    split
    · exact Sparse.rising_cons.2 ⟨fun e he => hb e (List.mem_of_mem_filter he), ih hr⟩
    · exact ih hr

theorem Sparse.rising_drop {t : Sparse α} (h : t.rising = true) (k : Nat) : (t.drop k).rising = true :=
  Sparse.rising_filter h _

@[simp] theorem Sparse.find_drop_same (t : Sparse α) (k : Nat) : (t.drop k).find k = none := by
  induction t with
  | nil => rfl
  | cons e t ih =>
    obtain ⟨j, b⟩ := e
    by_cases h : j = k
    · simpa [Sparse.drop, List.filter_cons, h] using ih
    · simpa [Sparse.drop, List.filter_cons, h, Sparse.find] using ih

theorem Sparse.find_drop_other (t : Sparse α) {k m : Nat} (h : m ≠ k) : (t.drop k).find m = t.find m := by
  induction t with
  | nil => rfl
  | cons e t ih =>
    obtain ⟨j, b⟩ := e
    by_cases hj : j = k
    · subst hj
      simpa [Sparse.drop, List.filter_cons, Sparse.find, Ne.symm h] using ih
    · by_cases hm : j = m
      · subst hm
        simp [Sparse.drop, hj, Sparse.find]
      · simpa [Sparse.drop, List.filter_cons, hj, Sparse.find, hm] using ih

/-- A number as bytes and back (R6). -/
theorem natOf_bytesOf (n x : Nat) : natOf (bytesOf n x) = x % 256 ^ n := by
  induction n generalizing x with
  | zero => simp [bytesOf, natOf, Nat.mod_one]
  | succ n ih =>
    simp only [bytesOf, natOf, ih, BitVec.toNat_ofNat]
    rw [show 256 ^ (n + 1) = 256 * 256 ^ n from pow_succ' 256 n, Nat.mod_mul]

@[simp] theorem bytesOf_length (n x : Nat) : (bytesOf n x).length = n := by
  induction n generalizing x with
  | zero => rfl
  | succ n ih => simp [bytesOf, ih]

end Sys2Proof
end

