-- ==== Sys2Proof/Laws/Regs.lean ====
section
/-!
SUPPORT. Sys2Proof/Laws/Regs.lean: a stored register after updates.
-/
namespace Sys2Proof.Machine

@[simp] theorem State.rg_upd_reg (s : State) (r : Reg) (i j : Nat) (w : Word) :
    (s.upd (.reg (r.off i j) w)).rg r i j = w := by simp [State.rg]

theorem State.rg_upd_reg_other (s : State) (r : Reg) (i j o : Nat) (w : Word) (h : r.off i j ≠ o) :
    (s.upd (.reg o w)).rg r i j = s.rg r i j := by simp [State.rg, Sparse.at_put_other _ _ _ h]

@[simp] theorem State.rg_upd (s : State) (u : Upd) (r : Reg) (i j : Nat) (h : u.writes .regs = false) :
    (s.upd u).rg r i j = s.rg r i j := by simp [State.rg, State.upd_regs s u h]

end Sys2Proof.Machine
end

