-- ==== Sys2Proof/Laws/Commands.lean ====
section
/-!
SUPPORT. Sys2Proof/Laws/Commands.lean: what a command given by a register write does once it is accepted, and that
nothing follows an action that leaves the device calm.
-/
namespace Sys2Proof.Machine

/-- An accepted command does what its body does, and completes with the body's code. -/
theorem command_does {who : Who} {r : Reg} {i : Nat} {body : Act Nat} {s : State} {Q : Unit → State → Prop}
    (h : s.takes who r i) (hb : body.Does s fun c t => Q () (t.upd (.bus who.val { code := c, data := 0 }))) :
    (command who r i body).Does s Q := by
  obtain ⟨h1, h2⟩ := h
  refine Act.Does.get_bind ?_
  simp only [h1, h2, Bool.not_true, Bool.false_eq_true, if_false, if_true]
  exact hb.bind fun c t hq => Act.Does.make hq

/-- A loop whose every pass does nothing. -/
theorem Act.Does.idleLoop {β γ : Type} {f : γ → β → Act (ForInStep β)} {s : State} {b : β} :
    ∀ (l : List γ), (∀ c ∈ l, (f c b).Does s fun r t => r = .yield b ∧ t = s) →
      (forIn l b f : Act β).Does s fun r t => r = b ∧ t = s
  | [], _ => Act.Does.pure ⟨rfl, rfl⟩
  | c :: l, h => by
    rw [List.forIn_cons]
    refine (h c List.mem_cons_self).bind fun r t hr => ?_
    obtain ⟨rfl, rfl⟩ := hr
    exact Act.Does.idleLoop l fun d hd => h d (List.mem_cons_of_mem _ hd)

/-- A loop over nothing. -/
theorem Act.Does.emptyLoop {β γ : Type} {f : γ → β → Act (ForInStep β)} {s : State} {b : β} {l : List γ}
    (h : l.isEmpty = true) : (forIn l b f : Act β).Does s fun r t => r = b ∧ t = s :=
  Act.Does.idleLoop l fun c hc => by rw [List.isEmpty_iff.mp h] at hc; exact absurd hc List.not_mem_nil

/-- An action that is a loop after a look at the state does nothing where the loop does nothing. -/
theorem Act.Does.idle {f : State → Act PUnit} {s : State} (h : (f s).Does s fun r t => r = ⟨⟩ ∧ t = s) :
    (Act.get >>= f).Does s fun _ t => t = s := (Act.Does.get_bind h).mono fun _ _ h => h.2

/-- Nothing times out where nothing is past its timeout. -/
theorem expireWaits_idle {s : State} (h : s.onTime = true) : expireWaits.Does s fun _ t => t = s := by
  refine Act.Does.idle (Act.Does.emptyLoop ?_)
  simp only [State.onTime, Bool.and_eq_true, List.all_eq_true, Bool.not_eq_true'] at h
  rw [List.filter_eq_nil_iff.mpr fun w hw => by simp [h.1 w hw]]
  rfl

theorem expireBarges_idle {s : State} (h : s.onTime = true) : expireBarges.Does s fun _ t => t = s := by
  refine Act.Does.idle (Act.Does.emptyLoop ?_)
  simp only [State.onTime, Bool.and_eq_true, List.all_eq_true, Bool.not_eq_true'] at h
  rw [List.filter_eq_nil_iff.mpr fun w hw => by simp [h.2 w hw]]
  rfl

/-- Settling a quiet device does nothing. -/
theorem settleBarges_idle {s : State} (h : s.quiet = true) : settleBarges.Does s fun _ t => t = s := by
  refine Act.Does.idle (Act.Does.idleLoop _ fun c hc => ?_)
  simp only [State.quiet, Bool.and_eq_true, List.all_eq_true, Option.isNone_iff_eq_none] at h
  simp only [h.1.1.1.1.1.1.1.1.1.1.1 c hc]
  exact Act.Does.pure_bind (Act.Does.pure ⟨rfl, rfl⟩)

theorem settleKernels_idle {s : State} (h : s.quiet = true) : settleKernels.Does s fun _ t => t = s := by
  refine Act.Does.idle (Act.Does.idleLoop _ fun c hc => ?_)
  simp only [State.quiet, Bool.and_eq_true, List.all_eq_true, Bool.not_eq_true'] at h
  have h1 := h.1.1.1.1.1.1.1.1.1.1.2 c hc
  obtain ⟨n, x⟩ := c
  dsimp only at h1 ⊢
  cases hk : x.kern with
  | none => exact Act.Does.pure_bind (Act.Does.pure ⟨rfl, rfl⟩)
  | some k =>
    simp only [hk, Option.any_some, Kernel.settles] at h1 ⊢
    cases hw : k.wait with
    | none => exact Act.Does.pure_bind (Act.Does.pure ⟨rfl, rfl⟩)
    | some w =>
      simp only [hw] at h1
      simp only [h1, Bool.false_eq_true, if_false]
      exact Act.Does.pure_bind (Act.Does.pure ⟨rfl, rfl⟩)

/-- Placing a request in PLAN's order adds it and no other. -/
theorem State.mem_placePlan (s : State) (r x : PlanReq) : ∀ l : List PlanReq, x ∈ s.placePlan r l ↔ x = r ∨ x ∈ l
  | [] => by simp [State.placePlan]
  | y :: t => by
    have h := State.mem_placePlan s r x t
    unfold State.placePlan
    split
    · simp
    · simp only [List.mem_cons, h]; tauto

/-- PLAN's order is an order of the requests under way (R332). -/
@[simp] theorem State.mem_planOrder (s : State) (x : PlanReq) : x ∈ s.planOrder ↔ x ∈ s.plan.requests := by
  unfold State.planOrder
  induction s.plan.requests with
  | nil => simp
  | cons r t ih => simp [State.mem_placePlan, ih]

theorem settlePlans_idle {s : State} (h : s.quiet = true) : settlePlans.Does s fun _ t => t = s := by
  refine Act.Does.idle (Act.Does.idleLoop _ fun r hr => ?_)
  simp only [State.quiet, Bool.and_eq_true, List.all_eq_true, Bool.not_eq_true', Option.isNone_iff_eq_none] at h
  have h1 := h.1.1.1.1.1.1.1.1.1.2 r ((s.mem_planOrder r).mp hr)
  simp only [planNext, h1.1, h1.2, Bool.false_eq_true, if_false, Option.map_none]
  exact Act.Does.pure_bind (Act.Does.pure ⟨rfl, rfl⟩)

theorem settleSubs_idle {s : State} (h : s.quiet = true) : settleSubs.Does s fun _ t => t = s := by
  simp only [State.quiet, Bool.and_eq_true] at h
  exact Act.Does.idle (Act.Does.emptyLoop h.1.1.1.1.1.1.1.1.2)

theorem settleEpochs_idle {s : State} (h : s.quiet = true) : settleEpochs.Does s fun _ t => t = s := by
  simp only [State.quiet, Bool.and_eq_true] at h
  refine Act.Does.get_bind ((Act.Does.emptyLoop h.1.1.1.1.1.1.2).bind fun _ t ht => ?_)
  rw [ht.2]
  exact (Act.Does.emptyLoop h.1.1.1.1.1.1.1.2).mono fun _ _ h => h.2

theorem settleGrids_idle {s : State} (h : s.quiet = true) : settleGrids.Does s fun _ t => t = s := by
  simp only [State.quiet, Bool.and_eq_true] at h
  exact Act.Does.idle (Act.Does.emptyLoop h.1.1.1.2)

theorem settleLoads_idle {s : State} (h : s.quiet = true) : settleLoads.Does s fun _ t => t = s := by
  simp only [State.quiet, Bool.and_eq_true] at h
  exact Act.Does.idle (Act.Does.emptyLoop h.1.1.2)

theorem settleSubmits_idle {s : State} (h : s.quiet = true) : settleSubmits.Does s fun _ t => t = s := by
  simp only [State.quiet, Bool.and_eq_true] at h
  exact Act.Does.idle (Act.Does.emptyLoop h.1.2)

theorem settleStewards_idle {s : State} (h : s.quiet = true) : settleStewards.Does s fun _ t => t = s := by
  simp only [State.quiet, Bool.and_eq_true] at h
  exact Act.Does.idle (Act.Does.emptyLoop h.2)

/-- What does nothing goes before. -/
theorem Act.Does.after_idle {β : Type} {x : Act PUnit} {f : PUnit → Act β} {s : State} {Q : β → State → Prop}
    (hx : x.Does s fun _ t => t = s) (hf : (f ⟨⟩).Does s Q) : (x >>= f).Does s Q :=
  hx.bind fun _ _ e => e ▸ hf

/-- Where nothing is past its timeout, and an action leaves nothing open, a command is just that action. -/
theorem settled_does {x : Act Unit} {s : State} {Q : Unit → State → Prop} (h : s.onTime = true)
    (hx : x.Does s fun a t => Q a t ∧ t.quiet = true) : (settled x).Does s Q := by
  refine Act.Does.after_idle (expireWaits_idle h) (Act.Does.after_idle (expireBarges_idle h) ?_)
  refine hx.bind fun _ t ht => ?_
  obtain ⟨hq, ht⟩ := ht
  refine Act.Does.after_idle (settleStewards_idle ht) (Act.Does.after_idle (settleSubmits_idle ht) ?_)
  refine Act.Does.after_idle (settleGrids_idle ht) (Act.Does.after_idle (settleLoads_idle ht) ?_)
  refine (Act.Does.idleLoop (s := t) _ fun _ _ => ?_).mono fun _ u hu => hu.2 ▸ hq
  refine Act.Does.after_idle (settleBarges_idle ht) (Act.Does.after_idle (settleKernels_idle ht) ?_)
  refine Act.Does.after_idle (settleEpochs_idle ht) (Act.Does.after_idle (settleSubs_idle ht) ?_)
  exact Act.Does.after_idle (settlePlans_idle ht) (Act.Does.pure ⟨rfl, rfl⟩)

/-- A command completes with what its action does. -/
theorem State.does_of {s : State} {c : Instr} {x : Act Unit} {post : State → Prop} (e : exec c s = Act.outcome x s)
    (h : x.Does s fun _ t => post t) : s.does c post := ⟨_, e, h.after⟩

end Sys2Proof.Machine
end

