-- ==== Sys2Proof/Laws/Access.lean ====
section
/-!
SUPPORT. Sys2Proof/Laws/Access.lean: what reads of sound memory give, physical and virtual, and that they change
nothing.
-/
namespace Sys2Proof.Machine

/-- A physical read that meets no flipped word gives what is stored. -/
theorem readPhys_does {s : State} (pa n : Nat) (h : ∀ f ∈ s.flips, f.1 + 8 ≤ pa ∨ pa + n ≤ f.1) :
    (readPhys pa n).Does s fun r t => r = (s.peek pa n, none) ∧ t = s := by
  refine Act.Does.get_bind ?_
  refine (Act.Does.idleLoop (s := s) _ fun f hf => ?_).bind ?_
  · have : ¬(f.1 < pa + n ∧ pa < f.1 + 8) := by have := h f hf; omega
    obtain ⟨w, x⟩ := f
    dsimp only at this ⊢
    rw [if_neg this]
    exact Act.Does.pure ⟨rfl, rfl⟩
  · rintro _ t ⟨rfl, rfl⟩
    exact Act.Does.pure ⟨rfl, rfl⟩

/-- A read of sound tier memory gives what is stored. -/
theorem readTier_does {s : State} (pa n : Nat) (h : s.sound pa n) :
    (readTier pa n).Does s fun r t => r = (s.peek pa n, none) ∧ t = s := by
  obtain ⟨h1, h2, h3, h4⟩ := h
  refine Act.Does.get_bind ?_
  simp only [h2, h3, h4, Bool.or_self, Bool.false_eq_true, if_false]
  refine (readPhys_does pa n h1).bind ?_
  rintro _ t ⟨rfl, rfl⟩
  simp only [Option.isSome_none, Bool.or_self, Bool.and_false, Bool.false_eq_true, if_false]
  exact Act.Does.pure ⟨rfl, rfl⟩

/-- A translation of a mapped read gives its address. -/
theorem translateNow_does {s : State} {stop c va pa : Nat} (hva : va < 2 ^ 48) (h : s.mapped stop c va = some pa) :
    (translateNow { ctx := c, stop } va false).Does s fun r t => r = .ok pa ∧ t = s := by
  unfold State.mapped at h
  split at h
  · next e he =>
    split at h
    · next p hp =>
      cases h
      have hl : (leafFor { ctx := c, stop } va).Does s fun r t => r = .leaf e.leaf.toNat e.entry ∧ t = s := by
        refine Act.Does.get_bind ?_
        simp only [he]
        exact Act.Does.pure ⟨rfl, rfl⟩
      have ht : (translate { ctx := c, stop } va false).Does s fun r t => r = .ok pa ∧ t = s := by
        unfold translate
        simp only [Via.viewOf, List.find?_nil]
        unfold translateFlat
        rw [if_neg (by omega)]
        refine hl.bind ?_
        rintro _ t ⟨rfl, rfl⟩
        refine Act.Does.get_bind ?_
        simp only [hp, Bool.false_eq_true, if_false]
        exact Act.Does.pure_bind (Act.Does.pure ⟨rfl, rfl⟩)
      unfold translateNow
      refine ht.bind ?_
      rintro _ t ⟨rfl, rfl⟩
      exact Act.Does.pure ⟨rfl, rfl⟩
    · cases h
  · cases h

/-- A block that reads bytes it sees gets them, and changes nothing. -/
theorem readVaNow_does {s : State} {stop c va n : Nat} {bs : List Byte} (h : s.sees stop c va n bs) :
    (readVaNow { ctx := c, stop } va n).Does s fun r t => r = .inl bs ∧ t = s := by
  obtain ⟨hva, hn, pa, hm, hs, rfl⟩ := h
  unfold readVaNow
  rw [show n / 65536 + 2 = (n / 65536 + 1) + 1 from rfl, readNow]
  have e : min n (65536 - va % 65536) = n := by omega
  simp only [e]
  refine (translateNow_does hva hm).bind ?_
  rintro _ t ⟨rfl, rfl⟩
  refine (readTier_does pa n hs).bind ?_
  rintro _ u ⟨rfl, rfl⟩
  simp only [if_true]
  exact Act.Does.pure ⟨rfl, rfl⟩

/-- The walk to a pinned page in the walk cache finds its tile, and changes nothing. -/
theorem pinnedTile_does {s : State} {c va tile : Nat} (h : s.pinnedAt c va tile) :
    (pinnedTile c va).Does s fun r t => r = some tile ∧ t = s := by
  obtain ⟨w, hw, hr, hs, hl, h2, h5, rfl, hp⟩ := h
  have hin : (decide (regionAt (w.2.2 + va / 65536 % 8192 * 8) = some .basin) ||
      (decide (regionAt (w.2.2 + va / 65536 % 8192 * 8) = some .psram) &&
        s.backed (w.2.2 + va / 65536 % 8192 * 8))) = true := by
    rcases hr with hr | ⟨hr, hb⟩
    · simp [hr]
    · simp [hr, hb]
  have he : (readEntry (w.2.2 + va / 65536 % 8192 * 8)).Does s fun r t =>
      r = (some (s.peekNat (w.2.2 + va / 65536 % 8192 * 8) 8), none) ∧ t = s := by
    refine Act.Does.get_bind ?_
    simp only [hin, Bool.not_true, Bool.false_eq_true, if_false]
    refine (readTier_does _ 8 hs).bind ?_
    rintro _ t ⟨rfl, rfl⟩
    exact Act.Does.pure ⟨rfl, rfl⟩
  have hk : (walkLeaf c va).Does s fun r t =>
      r = .leaf (s.peekNat (w.2.2 + va / 65536 % 8192 * 8) 8) (w.2.2 + va / 65536 % 8192 * 8) ∧ t = s := by
    unfold walkLeaf
    refine Act.Does.bind (Q := fun r t => r = .inl w.2.2 ∧ t = s) ?_ ?_
    · refine Act.Does.get_bind ?_
      simp only [hw]
      exact Act.Does.pure ⟨rfl, rfl⟩
    · rintro _ t ⟨rfl, rfl⟩
      refine he.bind ?_
      rintro _ u ⟨rfl, rfl⟩
      refine Act.Does.get_bind ?_
      simp only [hl, h2, h5, hp, Bool.not_true, Bool.and_false, Bool.or_self, Bool.false_eq_true, if_false]
      exact Act.Does.pure ⟨rfl, rfl⟩
  unfold pinnedTile
  refine hk.bind ?_
  rintro _ t ⟨rfl, rfl⟩
  refine Act.Does.get_bind ?_
  simp only [h2, hp, Bool.and_self, if_true]
  exact Act.Does.pure ⟨rfl, rfl⟩

end Sys2Proof.Machine
end

