-- ==== Sys2Proof/Laws/Memory.lean ====
section
/-!
SUPPORT. Sys2Proof/Laws/Memory.lean: every memory operation keeps the canonical form, and a byte reads after a store
what was stored, elsewhere what it read before.
-/
namespace Sys2Proof.Machine

variable {d : Byte}

/-- The canonical form, head first. -/
theorem Memory.wfOr_cons {c : Host.Cell} {t : List Host.Cell} :
    Memory.wfOr d (c :: t) = true ↔ c.2 ≠ d ∧ (∀ e ∈ t, c.1 < e.1) ∧ Memory.wfOr d t = true := by
  induction t generalizing c with
  | nil => simp [Memory.wfOr]
  | cons e t ih =>
    rw [Memory.wfOr]
    simp only [Bool.and_eq_true, decide_eq_true_eq, List.mem_cons, forall_eq_or_imp]
    constructor
    · rintro ⟨⟨h, hl⟩, hr⟩
      exact ⟨h, ⟨hl, fun f hf => lt_trans hl ((ih.1 hr).2.1 f hf)⟩, hr⟩
    · rintro ⟨h, ⟨hl, _⟩, hr⟩
      exact ⟨⟨h, hl⟩, hr⟩

theorem Memory.wfOr_filter {m : List Host.Cell} (h : Memory.wfOr d m = true) (p : Host.Cell → Bool) :
    Memory.wfOr d (m.filter p) = true := by
  induction m with
  | nil => rfl
  | cons c t ih =>
    obtain ⟨hc, hb, hr⟩ := Memory.wfOr_cons.1 h
    rw [List.filter_cons]
    split
    · exact Memory.wfOr_cons.2 ⟨hc, fun e he => hb e (List.mem_of_mem_filter he), ih hr⟩
    · exact ih hr

/-- Two canonical lists, the first wholly below the second, join to one. -/
theorem Memory.wfOr_append {a b : List Host.Cell} (ha : Memory.wfOr d a = true) (hb : Memory.wfOr d b = true)
    (hab : ∀ x ∈ a, ∀ y ∈ b, x.1 < y.1) : Memory.wfOr d (a ++ b) = true := by
  induction a with
  | nil => exact hb
  | cons c t ih =>
    obtain ⟨hc, hl, hr⟩ := Memory.wfOr_cons.1 ha
    refine Memory.wfOr_cons.2 ⟨hc, fun e he => ?_, ih hr fun x hx => hab x (List.mem_cons_of_mem _ hx)⟩
    rcases List.mem_append.1 he with he | he
    · exact hl e he
    · exact hab c List.mem_cons_self e he

theorem Memory.mem_cells {a : Nat} {bs : List Byte} {e : Host.Cell} (h : e ∈ Memory.cells d a bs) :
    a ≤ e.1 ∧ e.1 < a + bs.length := by
  induction bs generalizing a with
  | nil => simp [Memory.cells] at h
  | cons b t ih =>
    unfold Memory.cells at h
    have step : e ∈ Memory.cells d (a + 1) t → a ≤ e.1 ∧ e.1 < a + (b :: t).length := fun h => by
      have := ih h
      simp only [List.length_cons]
      omega
    split at h
    · exact step h
    · rcases List.mem_cons.1 h with rfl | h
      · simp
      · exact step h

theorem Memory.wfOr_cells (a : Nat) (bs : List Byte) : Memory.wfOr d (Memory.cells d a bs) = true := by
  induction bs generalizing a with
  | nil => rfl
  | cons b t ih =>
    unfold Memory.cells
    split
    · exact ih _
    · refine Memory.wfOr_cons.2 ⟨‹_›, fun e he => ?_, ih _⟩
      have := Memory.mem_cells he
      omega

theorem Memory.wfOr_store {m : List Host.Cell} (h : Memory.wfOr d m = true) (a : Nat) (bs : List Byte) :
    Memory.wfOr d (Memory.store d m a bs) = true := by
  unfold Memory.store
  refine Memory.wfOr_append (Memory.wfOr_append (Memory.wfOr_filter h _) (Memory.wfOr_cells a bs) ?_)
    (Memory.wfOr_filter h _) ?_
  · intro x hx y hy
    have hx := List.of_mem_filter hx
    have hy := Memory.mem_cells hy
    simp only [decide_eq_true_eq] at hx
    omega
  · intro x hx y hy
    have hy := List.of_mem_filter hy
    simp only [decide_eq_true_eq] at hy
    rcases List.mem_append.1 hx with hx | hx
    · have hx := List.of_mem_filter hx
      simp only [decide_eq_true_eq] at hx
      omega
    · have hx := Memory.mem_cells hx
      omega

/-- Moving every entry by the same distance keeps the form. -/
theorem Memory.wfOr_map {m : List Host.Cell} (h : Memory.wfOr d m = true) (a b : Nat) (ha : ∀ c ∈ m, a ≤ c.1) :
    Memory.wfOr d (m.map fun c => (c.1 - a + b, c.2)) = true := by
  induction m with
  | nil => rfl
  | cons c t ih =>
    obtain ⟨hc, hl, hr⟩ := Memory.wfOr_cons.1 h
    refine Memory.wfOr_cons.2 ⟨hc, fun e he => ?_, ih hr fun x hx => ha x (List.mem_cons_of_mem _ hx)⟩
    obtain ⟨f, hf, rfl⟩ := List.mem_map.1 he
    have h1 := hl f hf
    have h2 := ha c List.mem_cons_self
    show c.1 - a + b < f.1 - a + b
    omega

theorem Memory.wf_copy {m : List Host.Cell} (h : Memory.wf m = true) (a b n : Nat) :
    Memory.wf (Memory.copy m a b n) = true := by
  have hin : ∀ c ∈ m.filter (fun c => a ≤ c.1 && c.1 < a + n), a ≤ c.1 ∧ c.1 < a + n := fun c hc => by
    simpa using List.of_mem_filter hc
  unfold Memory.copy Memory.wf
  refine Memory.wfOr_append (Memory.wfOr_append (Memory.wfOr_filter h _)
    (Memory.wfOr_map (Memory.wfOr_filter h _) a b fun c hc => (hin c hc).1) ?_) (Memory.wfOr_filter h _) ?_
  · intro x hx y hy
    have hx := List.of_mem_filter hx
    obtain ⟨f, _, rfl⟩ := List.mem_map.1 hy
    simp only [decide_eq_true_eq] at hx
    show x.1 < f.1 - a + b
    omega
  · intro x hx y hy
    have hy := List.of_mem_filter hy
    simp only [decide_eq_true_eq] at hy
    rcases List.mem_append.1 hx with hx | hx
    · have hx := List.of_mem_filter hx
      simp only [decide_eq_true_eq] at hx
      omega
    · obtain ⟨f, hf, rfl⟩ := List.mem_map.1 hx
      have := hin f hf
      show f.1 - a + b < y.1
      omega

theorem Memory.wf_clear {m : List Host.Cell} (h : Memory.wf m = true) (a n : Nat) :
    Memory.wf (Memory.clear m a n) = true := Memory.wfOr_filter h _

theorem Memory.byteOr_append (l r : List Host.Cell) (x : Nat) (h : ∀ c ∈ l, c.1 ≠ x) :
    Memory.byteOr d (l ++ r) x = Memory.byteOr d r x := by
  induction l with
  | nil => rfl
  | cons c t ih =>
    obtain ⟨j, b⟩ := c
    have hj : j ≠ x := h (j, b) List.mem_cons_self
    simp [Memory.byteOr, hj, ih fun c hc => h c (List.mem_cons_of_mem _ hc)]

theorem Memory.byteOr_none (l : List Host.Cell) (x : Nat) (h : ∀ c ∈ l, c.1 ≠ x) : Memory.byteOr d l x = d := by
  simpa [Memory.byteOr] using Memory.byteOr_append (d := d) l [] x h

/-- Entries a filter leaves out do not matter to an address the filter takes. -/
theorem Memory.byteOr_filter (m : List Host.Cell) (p : Nat → Bool) (x : Nat) (hp : p x = true) :
    Memory.byteOr d (m.filter fun c => p c.1) x = Memory.byteOr d m x := by
  induction m with
  | nil => rfl
  | cons c t ih =>
    obtain ⟨j, b⟩ := c
    rw [List.filter_cons]
    by_cases hj : j = x
    · subst hj
      simp [hp, Memory.byteOr]
    · split <;> simp [Memory.byteOr, hj, ih]

/-- A list in which `x` is listed gives the same byte whatever follows. -/
theorem Memory.byteOr_append_left (l r : List Host.Cell) (x : Nat) (h : ∀ c ∈ r, c.1 ≠ x) :
    Memory.byteOr d (l ++ r) x = Memory.byteOr d l x := by
  induction l with
  | nil => simp only [List.nil_append]; exact Memory.byteOr_none r x h
  | cons c t ih =>
    obtain ⟨j, b⟩ := c
    simp [Memory.byteOr, ih]

/-- A store leaves every byte outside it. -/
theorem Memory.byteOr_store_other (m : List Host.Cell) (a : Nat) (bs : List Byte) (x : Nat)
    (h : x < a ∨ a + bs.length ≤ x) : Memory.byteOr d (Memory.store d m a bs) x = Memory.byteOr d m x := by
  have hc : ∀ c ∈ Memory.cells d a bs, c.1 ≠ x := fun c hc => by
    have := Memory.mem_cells hc
    omega
  unfold Memory.store
  rcases h with h | h
  · have h3 : ∀ c ∈ m.filter (fun c => a + bs.length ≤ c.1), c.1 ≠ x := fun c hc => by
      have := List.of_mem_filter hc
      simp only [decide_eq_true_eq] at this
      omega
    rw [Memory.byteOr_append_left _ _ x h3, Memory.byteOr_append_left _ _ x hc]
    exact Memory.byteOr_filter m (fun j => j < a) x (by simpa using h)
  · have h1 : ∀ c ∈ m.filter (fun c => c.1 < a), c.1 ≠ x := fun c hc => by
      have := List.of_mem_filter hc
      simp only [decide_eq_true_eq] at this
      omega
    rw [List.append_assoc, Memory.byteOr_append _ _ x h1, Memory.byteOr_append _ _ x hc]
    exact Memory.byteOr_filter m (fun j => a + bs.length ≤ j) x (by simpa using h)

theorem Memory.byteOr_cells (a : Nat) (bs : List Byte) (i : Nat) (h : i < bs.length) :
    Memory.byteOr d (Memory.cells d a bs) (a + i) = bs[i] := by
  induction bs generalizing a i with
  | nil => simp at h
  | cons b t ih =>
    unfold Memory.cells
    cases i with
    | zero =>
      split
      · subst_vars
        exact Memory.byteOr_none _ _ fun c hc => by
          have := Memory.mem_cells hc
          omega
      · simp [Memory.byteOr]
    | succ i =>
      have e : a + (i + 1) = a + 1 + i := by omega
      have hi : i < t.length := by simpa using h
      rw [e]
      split
      · simpa using ih (a + 1) i hi
      · have hne : a ≠ a + 1 + i := by omega
        simpa [Memory.byteOr, hne] using ih (a + 1) i hi

/-- A stored byte reads back. -/
theorem Memory.byteOr_store_same (m : List Host.Cell) (a : Nat) (bs : List Byte) (i : Nat) (h : i < bs.length) :
    Memory.byteOr d (Memory.store d m a bs) (a + i) = bs[i] := by
  have h1 : ∀ c ∈ m.filter (fun c => c.1 < a), c.1 ≠ a + i := fun c hc => by
    have := List.of_mem_filter hc
    simp only [decide_eq_true_eq] at this
    omega
  have h3 : ∀ c ∈ m.filter (fun c => a + bs.length ≤ c.1), c.1 ≠ a + i := fun c hc => by
    have := List.of_mem_filter hc
    simp only [decide_eq_true_eq] at this
    omega
  unfold Memory.store
  rw [List.append_assoc, Memory.byteOr_append _ _ _ h1, Memory.byteOr_append_left _ _ _ h3]
  exact Memory.byteOr_cells a bs i h

theorem Memory.byteOr_clear (m : List Host.Cell) (a n x : Nat) :
    Memory.byteOr 0 (Memory.clear m a n) x = if a ≤ x ∧ x < a + n then 0 else Memory.byteOr 0 m x := by
  split
  · refine Memory.byteOr_none _ _ fun c hc => ?_
    have := List.of_mem_filter hc
    simp only [Bool.or_eq_true, decide_eq_true_eq] at this
    omega
  · refine Memory.byteOr_filter m (fun j => j < a || a + n ≤ j) x ?_
    simp only [Bool.or_eq_true, decide_eq_true_eq]
    omega

/-- Keys of a canonical memory rise. -/
theorem Memory.rising_of_wfOr {m : List Host.Cell} (h : Memory.wfOr d m = true) : m.Pairwise fun a b => a.1 < b.1 := by
  induction m with
  | nil => exact .nil
  | cons c t ih =>
    have := (Memory.wfOr_cons).1 h
    exact .cons this.2.1 (ih this.2.2)

theorem Memory.walk_eq {m : List Host.Cell} {a : Nat} (n : Nat) (h : m.Pairwise fun a b => a.1 < b.1) (ha : ∀ c ∈ m, a ≤ c.1) :
    Memory.walk d n m a = (List.range n).map fun i => Memory.byteOr d m (a + i) := by
  induction n generalizing m a with
  | zero => rfl
  | succ n ih =>
    have e (f : Nat → Byte) : (List.range (n + 1)).map f = f 0 :: (List.range n).map fun i => f (i + 1) := by
      simp [List.range_succ_eq_map]
    rw [e]
    match m with
    | [] =>
      rw [Memory.walk, ih .nil nofun]
      exact congrArg₂ _ rfl (List.map_congr_left fun i _ => rfl)
    | (j, b) :: t =>
      have hp := List.pairwise_cons.1 h
      rw [Memory.walk]
      split
      · next hj =>
        subst hj
        rw [ih hp.2 fun c hc => hp.1 c hc]
        refine congrArg₂ _ (by simp [Memory.byteOr]) (List.map_congr_left fun i _ => ?_)
        rw [Memory.byteOr, if_neg (by omega)]
        exact congrArg (Memory.byteOr d t) (by simp only [Nat.succ_eq_add_one]; omega)
      · next hj =>
        have hj' : a + 1 ≤ j := by have := ha (j, b) (List.mem_cons_self ..); simp only at this; omega
        rw [ih h fun c hc => by
          rcases List.mem_cons.1 hc with rfl | hc
          · exact hj'
          · have := hp.1 c hc; omega]
        refine congrArg₂ _ (Memory.byteOr_none _ _ fun c hc => ?_).symm (List.map_congr_left fun i _ => ?_)
        · rcases List.mem_cons.1 hc with rfl | hc
          · simp only; omega
          · have := hp.1 c hc; simp only at this; omega
        · rw [Nat.add_right_comm, Nat.add_assoc]

/-- A load gives the byte of each address. -/
theorem Memory.load_eq {m : List Host.Cell} (h : Memory.wfOr d m = true) (a n : Nat) :
    Memory.load d m a n = (List.range n).map fun i => Memory.byteOr d m (a + i) := by
  rw [Memory.load, Memory.walk_eq n ((Memory.rising_of_wfOr h).filter _) fun c hc => by simpa using List.of_mem_filter hc]
  exact List.map_congr_left fun i _ => Memory.byteOr_filter m (fun j => decide (a ≤ j)) _ (by simp)

end Sys2Proof.Machine
end

