-- ==== Sys2Proof/WellFormed.lean ====
section
/-!
DEFINITION. Sys2Proof/WellFormed.lean: which commands a sender can form: every operand within the field, the bus or
the table of the manual that carries it.
-/
namespace Sys2Proof

/-- A context ID (R167). -/
def ctxOk (c : Nat) : Bool := c < 1024

/-- A Lock number (R195). -/
def lockOk (n : Nat) : Bool := n < 8192

/-- A virtual address has 48 bits (R212). -/
def vaOk (va : Nat) : Bool := va < 2 ^ 48

/-- A PSRAM tile number (R239). -/
def tileOk (t : Nat) : Bool := t < 393216

/-- An access of a width the bus has (R6). -/
def accessOk (addr size : Nat) : Bool :=
  addr < 2 ^ 48 && (size = 1 || size = 2 || size = 4 || size = 8)

/-- A Lock operation accepted in the same cycle names a Lock. -/
def lockOpOk : LockOp → Bool
  | .add _ n _ => lockOk n
  | .set _ n _ => lockOk n

/-- The operands of a command are within their ranges. -/
def wellFormed : Instr → Bool
  | .registerWrite _ a n _ _ => accessOk a n
  | .readClear _ a n _ => accessOk a n
  | .readLo _ a n => accessOk a n
  | .heldCompletionWrite (.ctx c) => ctxOk c
  | .heldCompletionWrite .host => true
  | .yieldBarrierComplete c => ctxOk c
  | .kernelComplete c => ctxOk c
  | .towpathLineArrival c _ => ctxOk c
  | .kvAcquire _ p f => p < 16 && f < 2 ^ 20
  | .kvShare _ p f => p < 16 && f < 2 ^ 20
  | .kvRelease _ p f => p < 16 && f < 2 ^ 20
  | .kvQuery _ p f => p < 16 && f < 2 ^ 20
  | .ctxCreate _ c => ctxOk c
  | .ctxDestroy _ c => ctxOk c
  | .ctxKill _ c => ctxOk c
  | .ctxReopen _ c => ctxOk c
  | .ctxHeel _ c => ctxOk c
  | .doorbell _ c i => ctxOk c && i < 65536
  | .colCons _ c i => ctxOk c && i < 65536
  | .heelRelease c => ctxOk c
  | .stallThreshold c => ctxOk c
  | .jobRestart c => ctxOk c
  | .lockAdd _ n _ also => lockOk n && also.all lockOpOk
  | .lockSet _ n _ also => lockOk n && also.all lockOpOk
  | .lockArm _ n _ r t _ => lockOk n && ctxOk r && t < 2 ^ 22
  | .lockCancel _ n _ => lockOk n
  | .lockAlloc _ n _ => lockOk n
  | .lockFree _ n => lockOk n
  | .migrate c p t => ctxOk c && p < 2 ^ 32 && t < 2 ^ 32
  | .bargeSubmit _ c va => ctxOk c && vaOk va
  | .bargeTileLand b _ => b < 1024
  | .bargeComplete b => b < 1024
  | .bargeTimeout b => b < 1024
  | .psramBurstCrcFail _ pa _ => pa < 2 ^ 48
  | .sliceSramWrite _ pa d => pa < 2 ^ 48 && d.length ≤ 65536
  | .reflexInputArrival _ p => p.length ≤ 64
  | .csiLongPacket _ vc dt p _ _ => vc < 16 && dt < 64 && p.length < 65536
  | .csiShortPacket _ vc dt f => vc < 16 && dt < 64 && f.getD 0 < 65536
  | .weirAdvance _ _ n => n < 65536
  | .gridSubmit _ c va => ctxOk c && vaOk va
  | .gridLoad _ t va => t < 256 && vaOk va
  | .gridCommit _ t n => t < 256 && n < 256
  | .planSubmit _ c va => ctxOk c && vaOk va
  | .voxelUpdate _ c va => ctxOk c && vaOk va
  | .epochLayers _ va => vaOk va
  | .epochDirty _ va => vaOk va
  | .eraAck _ k => k < 4
  | .cmd53 _ _ a n d => a < 2 ^ 17 && 1 ≤ n && d.length ≤ n
  | .telemetryRead n => 1 ≤ n
  | .stagingTransfer _ n d => 1 ≤ n && d.length ≤ n
  | .mbCons _ i => i < 64
  | .entryAbort b => Block.named b
  | .thermalSample c => c.length ≤ 64
  | .rowSpare pa => pa < 2 ^ 48
  | .psramTileRetire t n => tileOk t && tileOk n
  | .votedCopyFault b => Block.named b
  | .faultInjectSingle _ b => b < 72
  | .faultInjectDouble _ b => b < 72
  | .stewardMemoryAccess _ c va d n _ => ctxOk c && vaOk va && n ≤ 64 && (d.getD []).length ≤ n
  | .canFrameReceive _ i x p _ => i < (if x then 2 ^ 29 else 2 ^ 11) && p.length ≤ 64
  | .flitGroupReceive _ _ _ | .engineStepChange _ | .bundleIssue _ | .parkResume _ => true
  | .colSel _ _ | .kernelDispatch | .stallCutoff _ | .kennelDrain _ | .engineFault _ _ | .energyRescale _ => true
  | .waitTimeout _ | .xlatInv _ _ _ | .invalidationComplete _ | .pinSet _ _ | .pinClear _ _ | .bargeIssue _ => true
  | .splitRetry _ | .channelRetrainEnd _ _ | .readDisturbRefresh _ _ | .ftlReady | .leashBind _ _ => true
  | .leashUnbind _ _ | .leashCommit _ _ | .leashResume _ _ | .triadReinit _ _ | .leashStop _ _ => true
  | .slotTick _ | .spareDomainReady _ | .selfTestComplete _ _ | .firstCopyComplete _ | .rebuildJoin _ => true
  | .sliceRailLow _ | .ethFrame _ _ _ _ | .spiTransactionStart _ | .spiTransactionEnd _ _ => true
  | .uartByte _ _ _ | .uartIdleClose _ | .pauseRepeat _ | .agedCheck | .rtmoExpiry _ _ _ | .weirMark _ _ => true
  | .weirRewind _ _ | .weirRelease _ _ | .queueEnable _ _ _ | .gridRequestStart | .gridRequestComplete _ => true
  | .alignDeltaWrite _ _ _ | .planDeadline | .openEpoch _ | .openDeferred | .epochPublish _ => true
  | .epochAbandon _ | .watchCheck _ | .timeCounterWrap | .timeOfs _ _ | .holdover | .stepGo _ => true
  | .timedOutputEdge _ | .toArm _ _ _ | .captureEdge _ _ | .tcPop _ _ | .ptpPop _ _ | .oscillatorFail => true
  | .cmd5 | .cmd11 | .cmd19 | .cmd52Win _ _ | .functionEnable _ | .sdioAbort _ _ | .sdioRes => true
  | .mbSubmit _ _ | .mbNop _ | .mbInfo _ | .loadProg _ | .unloadProg _ | .attest _ | .norWrite _ _ => true
  | .telCfg _ | .mailboxTimeout _ | .telemetryTick _ | .startUp _ | .sysRestart _ _ _ => true
  | .towlineFlitReceive _ _ _ | .formationEnd | .timeMessageSend | .timeMessageReceive _ _ => true
  | .delayMeasure _ _ | .powerReport _ | .shareTimeout | .heartbeat _ | .heartbeatLoss | .watchdogExpiry => true
  | .cascPeerDeassert _ | .cascLeave _ _ | .cascJoin _ _ | .cascHandover _ | .towCtxMaskWrite _ _ => true
  | .powerRequestRun _ | .powerRequestIdle _ | .powerRequestSleep _ | .powerRequestDeepSleep _ => true
  | .powerRequestOff _ _ | .autoIdle | .wakeEvent _ _ | .slowClockAlarm _ | .domainGate _ => true
  | .regulatorSample _ _ _ | .budgetWrite _ _ | .droopDetect _ | .stretchEnd _ _ | .capRise _ | .trip115 => true
  | .runOnEnd | .trip120 | .stewardWatchdogMiss _ | .nandControllerTimeout _ | .faultTail _ _ => true
  | .vinRise _ _ | .vinBrownout | .reflexRingLinkFailure _ | .regulatorPhaseFailure | .canTransmit _ => true
  | .eventMessageSent _ _ _ | .towlineTraining _ _ _ | .cccrWrite _ _ => true

end Sys2Proof
end

