-- ==== Sys2Proof/Laws/PerInstr.lean ====
section
/-!
SUPPORT. Sys2Proof/Laws/PerInstr.lean: a law of every command as syntax: a well-formed command names contexts that
exist, and no word spells it.
-/
namespace Sys2Proof

/-- The contexts a command names by number. -/
def contextsOf : Instr → List Nat
  | .heldCompletionWrite (.ctx c) => [c]
  | .yieldBarrierComplete c => [c]
  | .kernelComplete c => [c]
  | .towpathLineArrival c _ => [c]
  | .ctxCreate _ c => [c]
  | .ctxDestroy _ c => [c]
  | .ctxKill _ c => [c]
  | .ctxReopen _ c => [c]
  | .ctxHeel _ c => [c]
  | .doorbell _ c _ => [c]
  | .colCons _ c _ => [c]
  | .heelRelease c => [c]
  | .stallThreshold c => [c]
  | .jobRestart c => [c]
  | .migrate c _ _ => [c]
  | .bargeSubmit _ c _ => [c]
  | .gridSubmit _ c _ => [c]
  | .planSubmit _ c _ => [c]
  | .voxelUpdate _ c _ => [c]
  | .stewardMemoryAccess _ c _ _ _ _ => [c]
  | _ => []

/-- A well-formed command names contexts that exist (R167), and no word of the table's bits spells it. -/
def Laws.Operands.Statement (i : Instr) : Prop :=
  (wellFormed i = true → ∀ c ∈ contextsOf i, c < 1024) ∧ ∀ nbits w, decodeTableWord nbits w ≠ some i

theorem Laws.Operands.registerWrite (who : Who) (addr size : Nat) (value hw : Word) : Laws.Operands.Statement (.registerWrite who addr size value hw) :=
  ⟨fun _ => nofun, fun _ _ => nofun⟩

theorem Laws.Operands.readClear (who : Who) (addr size : Nat) (hw : Word) : Laws.Operands.Statement (.readClear who addr size hw) :=
  ⟨fun _ => nofun, fun _ _ => nofun⟩

theorem Laws.Operands.readLo (who : Who) (addr size : Nat) : Laws.Operands.Statement (.readLo who addr size) :=
  ⟨fun _ => nofun, fun _ _ => nofun⟩

theorem Laws.Operands.flitGroupReceive (stop source : Fin 40) (crcOk : Bool) : Laws.Operands.Statement (.flitGroupReceive stop source crcOk) :=
  ⟨fun _ => nofun, fun _ _ => nofun⟩

theorem Laws.Operands.heldCompletionWrite (ring : Ring) : Laws.Operands.Statement (.heldCompletionWrite ring) :=
  ⟨by cases ring <;> simp [contextsOf, wellFormed, ctxOk], fun _ _ => nofun⟩

theorem Laws.Operands.engineStepChange (e : Fin 8) : Laws.Operands.Statement (.engineStepChange e) :=
  ⟨fun _ => nofun, fun _ _ => nofun⟩

theorem Laws.Operands.bundleIssue (e : Fin 8) : Laws.Operands.Statement (.bundleIssue e) :=
  ⟨fun _ => nofun, fun _ _ => nofun⟩

theorem Laws.Operands.yieldBarrierComplete (c : Ctx) : Laws.Operands.Statement (.yieldBarrierComplete c) :=
  ⟨by simp +contextual [contextsOf, wellFormed, ctxOk], fun _ _ => nofun⟩

theorem Laws.Operands.kernelComplete (c : Ctx) : Laws.Operands.Statement (.kernelComplete c) :=
  ⟨by simp +contextual [contextsOf, wellFormed, ctxOk], fun _ _ => nofun⟩

theorem Laws.Operands.towpathLineArrival (c : Ctx) (k : Nat) : Laws.Operands.Statement (.towpathLineArrival c k) :=
  ⟨by simp +contextual [contextsOf, wellFormed, ctxOk], fun _ _ => nofun⟩

theorem Laws.Operands.parkResume (p : Parked) : Laws.Operands.Statement (.parkResume p) :=
  ⟨fun _ => nofun, fun _ _ => nofun⟩

theorem Laws.Operands.kvAcquire (who : Who) (pool frame : Nat) : Laws.Operands.Statement (.kvAcquire who pool frame) :=
  ⟨fun _ => nofun, fun _ _ => nofun⟩

theorem Laws.Operands.kvShare (who : Who) (pool frame : Nat) : Laws.Operands.Statement (.kvShare who pool frame) :=
  ⟨fun _ => nofun, fun _ _ => nofun⟩

theorem Laws.Operands.kvRelease (who : Who) (pool frame : Nat) : Laws.Operands.Statement (.kvRelease who pool frame) :=
  ⟨fun _ => nofun, fun _ _ => nofun⟩

theorem Laws.Operands.kvQuery (who : Who) (pool frame : Nat) : Laws.Operands.Statement (.kvQuery who pool frame) :=
  ⟨fun _ => nofun, fun _ _ => nofun⟩

theorem Laws.Operands.ctxCreate (who : Who) (c : Ctx) : Laws.Operands.Statement (.ctxCreate who c) :=
  ⟨by simp +contextual [contextsOf, wellFormed, ctxOk], fun _ _ => nofun⟩

theorem Laws.Operands.ctxDestroy (who : Who) (c : Ctx) : Laws.Operands.Statement (.ctxDestroy who c) :=
  ⟨by simp +contextual [contextsOf, wellFormed, ctxOk], fun _ _ => nofun⟩

theorem Laws.Operands.ctxKill (who : Who) (c : Ctx) : Laws.Operands.Statement (.ctxKill who c) :=
  ⟨by simp +contextual [contextsOf, wellFormed, ctxOk], fun _ _ => nofun⟩

theorem Laws.Operands.ctxReopen (who : Who) (c : Ctx) : Laws.Operands.Statement (.ctxReopen who c) :=
  ⟨by simp +contextual [contextsOf, wellFormed, ctxOk], fun _ _ => nofun⟩

theorem Laws.Operands.ctxHeel (who : Who) (c : Ctx) : Laws.Operands.Statement (.ctxHeel who c) :=
  ⟨by simp +contextual [contextsOf, wellFormed, ctxOk], fun _ _ => nofun⟩

theorem Laws.Operands.doorbell (who : Who) (c : Ctx) (index : Nat) : Laws.Operands.Statement (.doorbell who c index) :=
  ⟨by simp +contextual [contextsOf, wellFormed, ctxOk], fun _ _ => nofun⟩

theorem Laws.Operands.colCons (who : Who) (c : Ctx) (index : Nat) : Laws.Operands.Statement (.colCons who c index) :=
  ⟨by simp +contextual [contextsOf, wellFormed, ctxOk], fun _ _ => nofun⟩

theorem Laws.Operands.colSel (who : Who) (value : Word) : Laws.Operands.Statement (.colSel who value) :=
  ⟨fun _ => nofun, fun _ _ => nofun⟩

theorem Laws.Operands.kernelDispatch : Laws.Operands.Statement (.kernelDispatch) :=
  ⟨fun _ => nofun, fun _ _ => nofun⟩

theorem Laws.Operands.heelRelease (c : Ctx) : Laws.Operands.Statement (.heelRelease c) :=
  ⟨by simp +contextual [contextsOf, wellFormed, ctxOk], fun _ _ => nofun⟩

theorem Laws.Operands.stallCutoff (e : Fin 8) : Laws.Operands.Statement (.stallCutoff e) :=
  ⟨fun _ => nofun, fun _ _ => nofun⟩

theorem Laws.Operands.kennelDrain (e : Fin 8) : Laws.Operands.Statement (.kennelDrain e) :=
  ⟨fun _ => nofun, fun _ _ => nofun⟩

theorem Laws.Operands.stallThreshold (c : Ctx) : Laws.Operands.Statement (.stallThreshold c) :=
  ⟨by simp +contextual [contextsOf, wellFormed, ctxOk], fun _ _ => nofun⟩

theorem Laws.Operands.jobRestart (c : Ctx) : Laws.Operands.Statement (.jobRestart c) :=
  ⟨by simp +contextual [contextsOf, wellFormed, ctxOk], fun _ _ => nofun⟩

theorem Laws.Operands.engineFault (e : Fin 8) (cause : EngineCause) : Laws.Operands.Statement (.engineFault e cause) :=
  ⟨fun _ => nofun, fun _ _ => nofun⟩

theorem Laws.Operands.energyRescale (measuredUj : Nat) : Laws.Operands.Statement (.energyRescale measuredUj) :=
  ⟨fun _ => nofun, fun _ _ => nofun⟩

theorem Laws.Operands.lockAdd (who : Who) (lock : Nat) (value : Word) (also : List LockOp) : Laws.Operands.Statement (.lockAdd who lock value also) :=
  ⟨fun _ => nofun, fun _ _ => nofun⟩

theorem Laws.Operands.lockSet (who : Who) (lock : Nat) (value : Word) (also : List LockOp) : Laws.Operands.Statement (.lockSet who lock value also) :=
  ⟨fun _ => nofun, fun _ _ => nofun⟩

theorem Laws.Operands.lockArm (who : Who) (lock : Nat) (target : Word) (ring tmo : Nat) (tag : Word) : Laws.Operands.Statement (.lockArm who lock target ring tmo tag) :=
  ⟨fun _ => nofun, fun _ _ => nofun⟩

theorem Laws.Operands.lockCancel (who : Who) (lock : Nat) (tag : Word) : Laws.Operands.Statement (.lockCancel who lock tag) :=
  ⟨fun _ => nofun, fun _ _ => nofun⟩

theorem Laws.Operands.lockAlloc (who : Who) (lock : Nat) (arg : Word) : Laws.Operands.Statement (.lockAlloc who lock arg) :=
  ⟨fun _ => nofun, fun _ _ => nofun⟩

theorem Laws.Operands.lockFree (who : Who) (lock : Nat) : Laws.Operands.Statement (.lockFree who lock) :=
  ⟨fun _ => nofun, fun _ _ => nofun⟩

theorem Laws.Operands.waitTimeout (w : WaitId) : Laws.Operands.Statement (.waitTimeout w) :=
  ⟨fun _ => nofun, fun _ _ => nofun⟩

theorem Laws.Operands.xlatInv (who : Who) (firstPage : Word) (value : Word) : Laws.Operands.Statement (.xlatInv who firstPage value) :=
  ⟨fun _ => nofun, fun _ _ => nofun⟩

theorem Laws.Operands.invalidationComplete (who : Who) : Laws.Operands.Statement (.invalidationComplete who) :=
  ⟨fun _ => nofun, fun _ _ => nofun⟩

theorem Laws.Operands.pinSet (who : Who) (range : Word) : Laws.Operands.Statement (.pinSet who range) :=
  ⟨fun _ => nofun, fun _ _ => nofun⟩

theorem Laws.Operands.pinClear (who : Who) (range : Word) : Laws.Operands.Statement (.pinClear who range) :=
  ⟨fun _ => nofun, fun _ _ => nofun⟩

theorem Laws.Operands.migrate (c : Ctx) (page tile : Nat) : Laws.Operands.Statement (.migrate c page tile) :=
  ⟨by simp +contextual [contextsOf, wellFormed, ctxOk], fun _ _ => nofun⟩

theorem Laws.Operands.bargeSubmit (who : Who) (c : Ctx) (va : Nat) : Laws.Operands.Statement (.bargeSubmit who c va) :=
  ⟨by simp +contextual [contextsOf, wellFormed, ctxOk], fun _ _ => nofun⟩

theorem Laws.Operands.bargeIssue (channel : Fin 64) : Laws.Operands.Statement (.bargeIssue channel) :=
  ⟨fun _ => nofun, fun _ _ => nofun⟩

theorem Laws.Operands.bargeTileLand (slot tile : Nat) : Laws.Operands.Statement (.bargeTileLand slot tile) :=
  ⟨fun _ => nofun, fun _ _ => nofun⟩

theorem Laws.Operands.bargeComplete (slot : Nat) : Laws.Operands.Statement (.bargeComplete slot) :=
  ⟨fun _ => nofun, fun _ _ => nofun⟩

theorem Laws.Operands.bargeTimeout (slot : Nat) : Laws.Operands.Statement (.bargeTimeout slot) :=
  ⟨fun _ => nofun, fun _ _ => nofun⟩

theorem Laws.Operands.splitRetry (t : SplitTarget) : Laws.Operands.Statement (.splitRetry t) :=
  ⟨fun _ => nofun, fun _ _ => nofun⟩

theorem Laws.Operands.psramBurstCrcFail (channel : Fin 96) (pa : Nat) (lastCrc : BitVec 16) : Laws.Operands.Statement (.psramBurstCrcFail channel pa lastCrc) :=
  ⟨fun _ => nofun, fun _ _ => nofun⟩

theorem Laws.Operands.channelRetrainEnd (channel : Fin 96) (ok : Bool) : Laws.Operands.Statement (.channelRetrainEnd channel ok) :=
  ⟨fun _ => nofun, fun _ _ => nofun⟩

theorem Laws.Operands.readDisturbRefresh (nand : Fin 4) (block : Nat) : Laws.Operands.Statement (.readDisturbRefresh nand block) :=
  ⟨fun _ => nofun, fun _ _ => nofun⟩

theorem Laws.Operands.ftlReady : Laws.Operands.Statement (.ftlReady) :=
  ⟨fun _ => nofun, fun _ _ => nofun⟩

theorem Laws.Operands.leashBind (who : Who) (leash : Fin 16) : Laws.Operands.Statement (.leashBind who leash) :=
  ⟨fun _ => nofun, fun _ _ => nofun⟩

theorem Laws.Operands.leashUnbind (who : Who) (leash : Fin 16) : Laws.Operands.Statement (.leashUnbind who leash) :=
  ⟨fun _ => nofun, fun _ _ => nofun⟩

theorem Laws.Operands.leashCommit (who : Who) (leash : Fin 16) : Laws.Operands.Statement (.leashCommit who leash) :=
  ⟨fun _ => nofun, fun _ _ => nofun⟩

theorem Laws.Operands.leashResume (who : Who) (leash : Fin 16) : Laws.Operands.Statement (.leashResume who leash) :=
  ⟨fun _ => nofun, fun _ _ => nofun⟩

theorem Laws.Operands.triadReinit (who : Who) (leash : Fin 16) : Laws.Operands.Statement (.triadReinit who leash) :=
  ⟨fun _ => nofun, fun _ _ => nofun⟩

theorem Laws.Operands.leashStop (who : Who) (leash : Fin 16) : Laws.Operands.Statement (.leashStop who leash) :=
  ⟨fun _ => nofun, fun _ _ => nofun⟩

theorem Laws.Operands.slotTick (deviations : List (Nat × MemberFault)) : Laws.Operands.Statement (.slotTick deviations) :=
  ⟨fun _ => nofun, fun _ _ => nofun⟩

theorem Laws.Operands.spareDomainReady (t : Fin 2) : Laws.Operands.Statement (.spareDomainReady t) :=
  ⟨fun _ => nofun, fun _ _ => nofun⟩

theorem Laws.Operands.selfTestComplete (t : Fin 2) (pass : Bool) : Laws.Operands.Statement (.selfTestComplete t pass) :=
  ⟨fun _ => nofun, fun _ _ => nofun⟩

theorem Laws.Operands.firstCopyComplete (t : Fin 2) : Laws.Operands.Statement (.firstCopyComplete t) :=
  ⟨fun _ => nofun, fun _ _ => nofun⟩

theorem Laws.Operands.rebuildJoin (t : Fin 2) : Laws.Operands.Statement (.rebuildJoin t) :=
  ⟨fun _ => nofun, fun _ _ => nofun⟩

theorem Laws.Operands.reflexInputArrival (src : ReflexSource) (payload : List Byte) : Laws.Operands.Statement (.reflexInputArrival src payload) :=
  ⟨fun _ => nofun, fun _ _ => nofun⟩

theorem Laws.Operands.sliceSramWrite (w : SliceWriter) (pa : Nat) (data : List Byte) : Laws.Operands.Statement (.sliceSramWrite w pa data) :=
  ⟨fun _ => nofun, fun _ _ => nofun⟩

theorem Laws.Operands.sliceRailLow (x : Fin 8) : Laws.Operands.Statement (.sliceRailLow x) :=
  ⟨fun _ => nofun, fun _ _ => nofun⟩

theorem Laws.Operands.csiLongPacket (r : Fin 12) (vc dt : Nat) (payload : List Byte) (crcOk hdrOk : Bool) : Laws.Operands.Statement (.csiLongPacket r vc dt payload crcOk hdrOk) :=
  ⟨fun _ => nofun, fun _ _ => nofun⟩

theorem Laws.Operands.csiShortPacket (r : Fin 12) (vc dt : Nat) (frame : Option Nat) :
    Laws.Operands.Statement (.csiShortPacket r vc dt frame) :=
  ⟨fun _ => nofun, fun _ _ => nofun⟩

theorem Laws.Operands.ethFrame (m : Fin 8) (bytes : List Byte) (fcsOk : Bool) (link : EthLink) : Laws.Operands.Statement (.ethFrame m bytes fcsOk link) :=
  ⟨fun _ => nofun, fun _ _ => nofun⟩

theorem Laws.Operands.spiTransactionStart (n : Fin 4) : Laws.Operands.Statement (.spiTransactionStart n) :=
  ⟨fun _ => nofun, fun _ _ => nofun⟩

theorem Laws.Operands.spiTransactionEnd (n : Fin 4) (received : List Byte) : Laws.Operands.Statement (.spiTransactionEnd n received) :=
  ⟨fun _ => nofun, fun _ _ => nofun⟩

theorem Laws.Operands.uartByte (n : Fin 4) (byte : Byte) (framingOk : Bool) : Laws.Operands.Statement (.uartByte n byte framingOk) :=
  ⟨fun _ => nofun, fun _ _ => nofun⟩

theorem Laws.Operands.uartIdleClose (n : Fin 4) : Laws.Operands.Statement (.uartIdleClose n) :=
  ⟨fun _ => nofun, fun _ _ => nofun⟩

theorem Laws.Operands.pauseRepeat (m : Fin 8) : Laws.Operands.Statement (.pauseRepeat m) :=
  ⟨fun _ => nofun, fun _ _ => nofun⟩

theorem Laws.Operands.agedCheck : Laws.Operands.Statement (.agedCheck) :=
  ⟨fun _ => nofun, fun _ _ => nofun⟩

theorem Laws.Operands.rtmoExpiry (e : Fin 8) (cell ch : Nat) : Laws.Operands.Statement (.rtmoExpiry e cell ch) :=
  ⟨fun _ => nofun, fun _ _ => nofun⟩

theorem Laws.Operands.weirAdvance (who : Who) (q : Fin 64) (n : Nat) : Laws.Operands.Statement (.weirAdvance who q n) :=
  ⟨fun _ => nofun, fun _ _ => nofun⟩

theorem Laws.Operands.weirMark (who : Who) (q : Fin 64) : Laws.Operands.Statement (.weirMark who q) :=
  ⟨fun _ => nofun, fun _ _ => nofun⟩

theorem Laws.Operands.weirRewind (who : Who) (q : Fin 64) : Laws.Operands.Statement (.weirRewind who q) :=
  ⟨fun _ => nofun, fun _ _ => nofun⟩

theorem Laws.Operands.weirRelease (who : Who) (q : Fin 64) : Laws.Operands.Statement (.weirRelease who q) :=
  ⟨fun _ => nofun, fun _ _ => nofun⟩

theorem Laws.Operands.queueEnable (who : Who) (q : Fin 64) (cfg : Word) : Laws.Operands.Statement (.queueEnable who q cfg) :=
  ⟨fun _ => nofun, fun _ _ => nofun⟩

theorem Laws.Operands.gridSubmit (who : Who) (c : Ctx) (va : Nat) : Laws.Operands.Statement (.gridSubmit who c va) :=
  ⟨by simp +contextual [contextsOf, wellFormed, ctxOk], fun _ _ => nofun⟩

theorem Laws.Operands.gridRequestStart : Laws.Operands.Statement (.gridRequestStart) :=
  ⟨fun _ => nofun, fun _ _ => nofun⟩

theorem Laws.Operands.gridRequestComplete (disagree : Bool) : Laws.Operands.Statement (.gridRequestComplete disagree) :=
  ⟨fun _ => nofun, fun _ _ => nofun⟩

theorem Laws.Operands.gridLoad (who : Who) (table va : Nat) : Laws.Operands.Statement (.gridLoad who table va) :=
  ⟨fun _ => nofun, fun _ _ => nofun⟩

theorem Laws.Operands.gridCommit (who : Who) (table countM1 : Nat) : Laws.Operands.Statement (.gridCommit who table countM1) :=
  ⟨fun _ => nofun, fun _ _ => nofun⟩

theorem Laws.Operands.alignDeltaWrite (who : Who) (q : Fin 64) (value : Word) : Laws.Operands.Statement (.alignDeltaWrite who q value) :=
  ⟨fun _ => nofun, fun _ _ => nofun⟩

theorem Laws.Operands.planSubmit (who : Who) (c : Ctx) (va : Nat) : Laws.Operands.Statement (.planSubmit who c va) :=
  ⟨by simp +contextual [contextsOf, wellFormed, ctxOk], fun _ _ => nofun⟩

theorem Laws.Operands.planDeadline : Laws.Operands.Statement (.planDeadline) :=
  ⟨fun _ => nofun, fun _ _ => nofun⟩

theorem Laws.Operands.voxelUpdate (who : Who) (c : Ctx) (va : Nat) : Laws.Operands.Statement (.voxelUpdate who c va) :=
  ⟨by simp +contextual [contextsOf, wellFormed, ctxOk], fun _ _ => nofun⟩

theorem Laws.Operands.openEpoch (who : Who) : Laws.Operands.Statement (.openEpoch who) :=
  ⟨fun _ => nofun, fun _ _ => nofun⟩

theorem Laws.Operands.openDeferred : Laws.Operands.Statement (.openDeferred) :=
  ⟨fun _ => nofun, fun _ _ => nofun⟩

theorem Laws.Operands.epochLayers (who : Who) (va : Nat) : Laws.Operands.Statement (.epochLayers who va) :=
  ⟨fun _ => nofun, fun _ _ => nofun⟩

theorem Laws.Operands.epochDirty (who : Who) (va : Nat) : Laws.Operands.Statement (.epochDirty who va) :=
  ⟨fun _ => nofun, fun _ _ => nofun⟩

theorem Laws.Operands.epochPublish (who : Who) : Laws.Operands.Statement (.epochPublish who) :=
  ⟨fun _ => nofun, fun _ _ => nofun⟩

theorem Laws.Operands.epochAbandon (who : Who) : Laws.Operands.Statement (.epochAbandon who) :=
  ⟨fun _ => nofun, fun _ _ => nofun⟩

theorem Laws.Operands.watchCheck (l : Fin 16) : Laws.Operands.Statement (.watchCheck l) :=
  ⟨fun _ => nofun, fun _ _ => nofun⟩

theorem Laws.Operands.timeCounterWrap : Laws.Operands.Statement (.timeCounterWrap) :=
  ⟨fun _ => nofun, fun _ _ => nofun⟩

theorem Laws.Operands.eraAck (who : Who) (k : Nat) : Laws.Operands.Statement (.eraAck who k) :=
  ⟨fun _ => nofun, fun _ _ => nofun⟩

theorem Laws.Operands.timeOfs (who : Who) (theta : Word) : Laws.Operands.Statement (.timeOfs who theta) :=
  ⟨fun _ => nofun, fun _ _ => nofun⟩

theorem Laws.Operands.holdover : Laws.Operands.Statement (.holdover) :=
  ⟨fun _ => nofun, fun _ _ => nofun⟩

theorem Laws.Operands.stepGo (who : Who) : Laws.Operands.Statement (.stepGo who) :=
  ⟨fun _ => nofun, fun _ _ => nofun⟩

theorem Laws.Operands.timedOutputEdge (n : Fin 16) : Laws.Operands.Statement (.timedOutputEdge n) :=
  ⟨fun _ => nofun, fun _ _ => nofun⟩

theorem Laws.Operands.toArm (who : Who) (n : Fin 16) (cfg : Word) : Laws.Operands.Statement (.toArm who n cfg) :=
  ⟨fun _ => nofun, fun _ _ => nofun⟩

theorem Laws.Operands.captureEdge (n : Fin 16) (level : Bool) : Laws.Operands.Statement (.captureEdge n level) :=
  ⟨fun _ => nofun, fun _ _ => nofun⟩

theorem Laws.Operands.tcPop (who : Who) (n : Fin 16) : Laws.Operands.Statement (.tcPop who n) :=
  ⟨fun _ => nofun, fun _ _ => nofun⟩

theorem Laws.Operands.ptpPop (who : Who) (m : Fin 8) : Laws.Operands.Statement (.ptpPop who m) :=
  ⟨fun _ => nofun, fun _ _ => nofun⟩

theorem Laws.Operands.oscillatorFail : Laws.Operands.Statement (.oscillatorFail) :=
  ⟨fun _ => nofun, fun _ _ => nofun⟩

theorem Laws.Operands.cmd5 : Laws.Operands.Statement (.cmd5) :=
  ⟨fun _ => nofun, fun _ _ => nofun⟩

theorem Laws.Operands.cmd11 : Laws.Operands.Statement (.cmd11) :=
  ⟨fun _ => nofun, fun _ _ => nofun⟩

theorem Laws.Operands.cmd19 : Laws.Operands.Statement (.cmd19) :=
  ⟨fun _ => nofun, fun _ _ => nofun⟩

theorem Laws.Operands.cmd52Win (write : Bool) (value : Byte) : Laws.Operands.Statement (.cmd52Win write value) :=
  ⟨fun _ => nofun, fun _ _ => nofun⟩

theorem Laws.Operands.cmd53 (write fixed : Bool) (addr len : Nat) (data : List Byte) : Laws.Operands.Statement (.cmd53 write fixed addr len data) :=
  ⟨fun _ => nofun, fun _ _ => nofun⟩

theorem Laws.Operands.telemetryRead (len : Nat) : Laws.Operands.Statement (.telemetryRead len) :=
  ⟨fun _ => nofun, fun _ _ => nofun⟩

theorem Laws.Operands.stagingTransfer (write : Bool) (len : Nat) (data : List Byte) : Laws.Operands.Statement (.stagingTransfer write len data) :=
  ⟨fun _ => nofun, fun _ _ => nofun⟩

theorem Laws.Operands.functionEnable (ioe : Byte) : Laws.Operands.Statement (.functionEnable ioe) :=
  ⟨fun _ => nofun, fun _ _ => nofun⟩

theorem Laws.Operands.sdioAbort (f : Fin 8) (kept : List Byte) : Laws.Operands.Statement (.sdioAbort f kept) :=
  ⟨fun _ => nofun, fun _ _ => nofun⟩

theorem Laws.Operands.sdioRes : Laws.Operands.Statement (.sdioRes) :=
  ⟨fun _ => nofun, fun _ _ => nofun⟩

theorem Laws.Operands.mbSubmit (who : Who) (slot : Fin 16) : Laws.Operands.Statement (.mbSubmit who slot) :=
  ⟨fun _ => nofun, fun _ _ => nofun⟩

theorem Laws.Operands.mbNop (slot : Fin 16) : Laws.Operands.Statement (.mbNop slot) :=
  ⟨fun _ => nofun, fun _ _ => nofun⟩

theorem Laws.Operands.mbInfo (slot : Fin 16) : Laws.Operands.Statement (.mbInfo slot) :=
  ⟨fun _ => nofun, fun _ _ => nofun⟩

theorem Laws.Operands.loadProg (slot : Fin 16) : Laws.Operands.Statement (.loadProg slot) :=
  ⟨fun _ => nofun, fun _ _ => nofun⟩

theorem Laws.Operands.unloadProg (slot : Fin 16) : Laws.Operands.Statement (.unloadProg slot) :=
  ⟨fun _ => nofun, fun _ _ => nofun⟩

theorem Laws.Operands.attest (slot : Fin 16) : Laws.Operands.Statement (.attest slot) :=
  ⟨fun _ => nofun, fun _ _ => nofun⟩

theorem Laws.Operands.norWrite (slot : Fin 16) (verifyOk : Bool) : Laws.Operands.Statement (.norWrite slot verifyOk) :=
  ⟨fun _ => nofun, fun _ _ => nofun⟩

theorem Laws.Operands.telCfg (slot : Fin 16) : Laws.Operands.Statement (.telCfg slot) :=
  ⟨fun _ => nofun, fun _ _ => nofun⟩

theorem Laws.Operands.mailboxTimeout (slot : Fin 16) : Laws.Operands.Statement (.mailboxTimeout slot) :=
  ⟨fun _ => nofun, fun _ _ => nofun⟩

theorem Laws.Operands.mbCons (who : Who) (index : Nat) : Laws.Operands.Statement (.mbCons who index) :=
  ⟨fun _ => nofun, fun _ _ => nofun⟩

theorem Laws.Operands.telemetryTick (type : Fin 4) : Laws.Operands.Statement (.telemetryTick type) :=
  ⟨fun _ => nofun, fun _ _ => nofun⟩

theorem Laws.Operands.startUp (o : StartOutcome) : Laws.Operands.Statement (.startUp o) :=
  ⟨fun _ => nofun, fun _ _ => nofun⟩

theorem Laws.Operands.sysRestart (who : Who) (key : BitVec 16) (o : StartOutcome) : Laws.Operands.Statement (.sysRestart who key o) :=
  ⟨fun _ => nofun, fun _ _ => nofun⟩

theorem Laws.Operands.towlineFlitReceive (l : Fin 3) (crcOk : Bool) (lanesFailed : BitVec 8) : Laws.Operands.Statement (.towlineFlitReceive l crcOk lanesFailed) :=
  ⟨fun _ => nofun, fun _ _ => nofun⟩

theorem Laws.Operands.formationEnd : Laws.Operands.Statement (.formationEnd) :=
  ⟨fun _ => nofun, fun _ _ => nofun⟩

theorem Laws.Operands.timeMessageSend : Laws.Operands.Statement (.timeMessageSend) :=
  ⟨fun _ => nofun, fun _ _ => nofun⟩

theorem Laws.Operands.timeMessageReceive (sent : Nat) (link : Fin 3) : Laws.Operands.Statement (.timeMessageReceive sent link) :=
  ⟨fun _ => nofun, fun _ _ => nofun⟩

theorem Laws.Operands.delayMeasure (l : Fin 3) (ns : Nat) : Laws.Operands.Statement (.delayMeasure l ns) :=
  ⟨fun _ => nofun, fun _ _ => nofun⟩

theorem Laws.Operands.powerReport (reports : List ModuleReport) : Laws.Operands.Statement (.powerReport reports) :=
  ⟨fun _ => nofun, fun _ _ => nofun⟩

theorem Laws.Operands.shareTimeout : Laws.Operands.Statement (.shareTimeout) :=
  ⟨fun _ => nofun, fun _ _ => nofun⟩

theorem Laws.Operands.heartbeat (l : Fin 3) : Laws.Operands.Statement (.heartbeat l) :=
  ⟨fun _ => nofun, fun _ _ => nofun⟩

theorem Laws.Operands.heartbeatLoss : Laws.Operands.Statement (.heartbeatLoss) :=
  ⟨fun _ => nofun, fun _ _ => nofun⟩

theorem Laws.Operands.watchdogExpiry : Laws.Operands.Statement (.watchdogExpiry) :=
  ⟨fun _ => nofun, fun _ _ => nofun⟩

theorem Laws.Operands.cascPeerDeassert (i : Fin 4) : Laws.Operands.Statement (.cascPeerDeassert i) :=
  ⟨fun _ => nofun, fun _ _ => nofun⟩

theorem Laws.Operands.cascLeave (who : Who) (m : Fin 4) : Laws.Operands.Statement (.cascLeave who m) :=
  ⟨fun _ => nofun, fun _ _ => nofun⟩

theorem Laws.Operands.cascJoin (who : Who) (m : Fin 4) : Laws.Operands.Statement (.cascJoin who m) :=
  ⟨fun _ => nofun, fun _ _ => nofun⟩

theorem Laws.Operands.cascHandover (who : Who) : Laws.Operands.Statement (.cascHandover who) :=
  ⟨fun _ => nofun, fun _ _ => nofun⟩

theorem Laws.Operands.towCtxMaskWrite (who : Who) (value : Word) : Laws.Operands.Statement (.towCtxMaskWrite who value) :=
  ⟨fun _ => nofun, fun _ _ => nofun⟩

theorem Laws.Operands.powerRequestRun (who : Who) : Laws.Operands.Statement (.powerRequestRun who) :=
  ⟨fun _ => nofun, fun _ _ => nofun⟩

theorem Laws.Operands.powerRequestIdle (req : IdleRequest) :
    Laws.Operands.Statement (.powerRequestIdle req) :=
  ⟨fun _ => nofun, fun _ _ => nofun⟩

theorem Laws.Operands.powerRequestSleep (who : Who) : Laws.Operands.Statement (.powerRequestSleep who) :=
  ⟨fun _ => nofun, fun _ _ => nofun⟩

theorem Laws.Operands.powerRequestDeepSleep (who : Who) : Laws.Operands.Statement (.powerRequestDeepSleep who) :=
  ⟨fun _ => nofun, fun _ _ => nofun⟩

theorem Laws.Operands.powerRequestOff (who : Who) (key : BitVec 16) : Laws.Operands.Statement (.powerRequestOff who key) :=
  ⟨fun _ => nofun, fun _ _ => nofun⟩

theorem Laws.Operands.autoIdle : Laws.Operands.Statement (.autoIdle) :=
  ⟨fun _ => nofun, fun _ _ => nofun⟩

theorem Laws.Operands.entryAbort (block : Nat) : Laws.Operands.Statement (.entryAbort block) :=
  ⟨fun _ => nofun, fun _ _ => nofun⟩

theorem Laws.Operands.wakeEvent (source : Fin 9) (slowTicks : Nat) : Laws.Operands.Statement (.wakeEvent source slowTicks) :=
  ⟨fun _ => nofun, fun _ _ => nofun⟩

theorem Laws.Operands.slowClockAlarm (slowTicks : Nat) : Laws.Operands.Statement (.slowClockAlarm slowTicks) :=
  ⟨fun _ => nofun, fun _ _ => nofun⟩

theorem Laws.Operands.domainGate (d : Fin 96) : Laws.Operands.Statement (.domainGate d) :=
  ⟨fun _ => nofun, fun _ _ => nofun⟩

theorem Laws.Operands.regulatorSample (deciwatts millivolts milliamps : Nat) : Laws.Operands.Statement (.regulatorSample deciwatts millivolts milliamps) :=
  ⟨fun _ => nofun, fun _ _ => nofun⟩

theorem Laws.Operands.budgetWrite (who : Who) (value : Word) : Laws.Operands.Statement (.budgetWrite who value) :=
  ⟨fun _ => nofun, fun _ _ => nofun⟩

theorem Laws.Operands.droopDetect (e : Fin 8) : Laws.Operands.Statement (.droopDetect e) :=
  ⟨fun _ => nofun, fun _ _ => nofun⟩

theorem Laws.Operands.stretchEnd (e : Fin 8) (stretched : Nat) : Laws.Operands.Statement (.stretchEnd e stretched) :=
  ⟨fun _ => nofun, fun _ _ => nofun⟩

theorem Laws.Operands.thermalSample (centi : List Int) : Laws.Operands.Statement (.thermalSample centi) :=
  ⟨fun _ => nofun, fun _ _ => nofun⟩

theorem Laws.Operands.capRise (e : Fin 8) : Laws.Operands.Statement (.capRise e) :=
  ⟨fun _ => nofun, fun _ _ => nofun⟩

theorem Laws.Operands.trip115 : Laws.Operands.Statement (.trip115) :=
  ⟨fun _ => nofun, fun _ _ => nofun⟩

theorem Laws.Operands.runOnEnd : Laws.Operands.Statement (.runOnEnd) :=
  ⟨fun _ => nofun, fun _ _ => nofun⟩

theorem Laws.Operands.trip120 : Laws.Operands.Statement (.trip120) :=
  ⟨fun _ => nofun, fun _ _ => nofun⟩

theorem Laws.Operands.rowSpare (pa : Nat) : Laws.Operands.Statement (.rowSpare pa) :=
  ⟨fun _ => nofun, fun _ _ => nofun⟩

theorem Laws.Operands.psramTileRetire (tile newTile : Nat) : Laws.Operands.Statement (.psramTileRetire tile newTile) :=
  ⟨fun _ => nofun, fun _ _ => nofun⟩

theorem Laws.Operands.votedCopyFault (block : Nat) : Laws.Operands.Statement (.votedCopyFault block) :=
  ⟨fun _ => nofun, fun _ _ => nofun⟩

theorem Laws.Operands.stewardWatchdogMiss (n : Fin 8) : Laws.Operands.Statement (.stewardWatchdogMiss n) :=
  ⟨fun _ => nofun, fun _ _ => nofun⟩

theorem Laws.Operands.nandControllerTimeout (n : Fin 4) : Laws.Operands.Statement (.nandControllerTimeout n) :=
  ⟨fun _ => nofun, fun _ _ => nofun⟩

theorem Laws.Operands.faultTail (who : Who) (index : Byte) : Laws.Operands.Statement (.faultTail who index) :=
  ⟨fun _ => nofun, fun _ _ => nofun⟩

theorem Laws.Operands.faultInjectSingle (who : Who) (bit : Nat) : Laws.Operands.Statement (.faultInjectSingle who bit) :=
  ⟨fun _ => nofun, fun _ _ => nofun⟩

theorem Laws.Operands.faultInjectDouble (who : Who) (bit : Nat) : Laws.Operands.Statement (.faultInjectDouble who bit) :=
  ⟨fun _ => nofun, fun _ _ => nofun⟩

theorem Laws.Operands.vinRise (wakeHigh : Bool) (o : StartOutcome) : Laws.Operands.Statement (.vinRise wakeHigh o) :=
  ⟨fun _ => nofun, fun _ _ => nofun⟩

theorem Laws.Operands.vinBrownout : Laws.Operands.Statement (.vinBrownout) :=
  ⟨fun _ => nofun, fun _ _ => nofun⟩

theorem Laws.Operands.reflexRingLinkFailure (ring : Fin 2) : Laws.Operands.Statement (.reflexRingLinkFailure ring) :=
  ⟨fun _ => nofun, fun _ _ => nofun⟩

theorem Laws.Operands.regulatorPhaseFailure : Laws.Operands.Statement (.regulatorPhaseFailure) :=
  ⟨fun _ => nofun, fun _ _ => nofun⟩

theorem Laws.Operands.stewardMemoryAccess (n : Fin 8) (c : Ctx) (va : Nat) (store : Option (List Byte)) (len : Nat) (l2TagError : Bool) : Laws.Operands.Statement (.stewardMemoryAccess n c va store len l2TagError) :=
  ⟨by simp +contextual [contextsOf, wellFormed, ctxOk], fun _ _ => nofun⟩

theorem Laws.Operands.canFrameReceive (port : Fin 8) (ident : Nat) (xtd : Bool) (payload : List Byte) (crcOk : Bool) : Laws.Operands.Statement (.canFrameReceive port ident xtd payload crcOk) :=
  ⟨fun _ => nofun, fun _ _ => nofun⟩

theorem Laws.Operands.canTransmit (port : Fin 8) : Laws.Operands.Statement (.canTransmit port) :=
  ⟨fun _ => nofun, fun _ _ => nofun⟩

theorem Laws.Operands.eventMessageSent (m : Fin 8) (p : PtpMessage) (link : EthLink) : Laws.Operands.Statement (.eventMessageSent m p link) :=
  ⟨fun _ => nofun, fun _ _ => nofun⟩

theorem Laws.Operands.towlineTraining (l : Fin 3) (peer : Fin 4) (lanes : BitVec 8) : Laws.Operands.Statement (.towlineTraining l peer lanes) :=
  ⟨fun _ => nofun, fun _ _ => nofun⟩

theorem Laws.Operands.cccrWrite (addr : Nat) (value : Byte) : Laws.Operands.Statement (.cccrWrite addr value) :=
  ⟨fun _ => nofun, fun _ _ => nofun⟩

end Sys2Proof
end

