-- ==== Sys2Proof/Laws/Step.lean ====
section
/-!
SUPPORT. Sys2Proof/Laws/Step.lean: every command is an action, every update keeps the canonical form, and what calm depends
on.
-/
namespace Sys2Proof.Machine

/-- Every command's meaning is what some action leaves. -/
theorem exec_eq_after (c : Instr) (s : State) : ∃ x : Act Unit, exec c s = .next (x.after s) := by
  cases c <;> exact ⟨_, rfl⟩

/-- So is every step. -/
theorem step_eq_after (s : State) : ∃ x : Act Unit, step s = .next (x.after { s with pending := s.pending.tail }) := by
  unfold step
  split
  · next h =>
    obtain ⟨x, hx⟩ : ∃ x : Act Unit, idleTick s = .next (x.after s) := ⟨_, rfl⟩
    have e : s = { s with pending := s.pending.tail } := by
      cases s
      simp_all
    exact ⟨x, hx.trans (congrArg (fun t => Host.Outcome.next (x.after t)) e)⟩
  · next c rest h =>
    rw [h]
    exact exec_eq_after c _

/-- No update changes a canonical form. -/
theorem State.upd_canonical (s : State) (u : Upd) (h : s.Canonical) : (s.upd u).Canonical := by
  cases u with
  | mem a b => exact { h with mem := Memory.wfOr_store h.mem a b }
  | copy a b n => exact { h with mem := Memory.wf_copy h.mem a b n }
  | clear a n => exact { h with mem := Memory.wf_clear h.mem a n }
  | nor a b => exact { h with nor := Memory.wfOr_store h.nor a b }
  | norErase => exact { h with nor := rfl }
  | ram a b => exact { h with ram := Memory.wfOr_store h.ram a b }
  | flip w f =>
    by_cases hw : f = 0
    · rw [show s.upd (.flip w f) = { s with flips := s.flips.drop w } from
        congrArg (fun x => { s with flips := x }) (if_pos hw)]
      exact { h with
        flips := Sparse.rising_drop h.flips w
        flipped := fun e he => h.flipped e (List.mem_of_mem_filter he) }
    · rw [show s.upd (.flip w f) = { s with flips := s.flips.put w f } from
        congrArg (fun x => { s with flips := x }) (if_neg hw)]
      exact { h with
        flips := Sparse.rising_put h.flips w f
        flipped := fun e he => (Sparse.mem_put he).elim (h.flipped e) fun e => e ▸ hw }
  | reg k x => exact { h with regs := Sparse.rising_put h.regs k x }
  | latch k x => exact { h with latches := Sparse.rising_put h.latches k x }
  | bus k x => exact { h with bus := Sparse.rising_put h.bus k x }
  | link k x => exact { h with links := Sparse.rising_put h.links k x }
  | engine k x => exact { h with engines := Sparse.rising_put h.engines k x }
  | drains k x => exact { h with drains := Sparse.rising_put h.drains k x }
  | prog k x => exact { h with progs := Sparse.rising_put h.progs k x }
  | dropProg k => exact { h with progs := Sparse.rising_drop h.progs k }
  | ctx k x => exact { h with ctxs := Sparse.rising_put h.ctxs k x }
  | residual k x => exact { h with residual := Sparse.rising_put h.residual k x }
  | lock k x => exact { h with locks := Sparse.rising_put h.locks k x }
  | channel k x => exact { h with chanQueues := Sparse.rising_put h.chanQueues k x }
  | fly k x => exact { h with flying := Sparse.rising_put h.flying k x }
  | land k => exact { h with flying := Sparse.rising_drop h.flying k }
  | psram k x => exact { h with psram := Sparse.rising_put h.psram k x }
  | fresh => constructor <;> first | rfl | exact h.nor | exact Memory.wf_clear h.mem 0 _ | exact fun e he => nomatch he
  | _ => exact { h with }

@[simp] theorem State.late_upd (s : State) (u : Upd) (h : u.writes .clock = false) (d : Option Nat) :
    (s.upd u).late d = s.late d := by
  have e : (s.upd u).ns = s.ns := congrArg (fun c : Clock => c.elapsed / nsUnit) (State.upd_clock s u h)
  unfold State.late
  rw [e]

/-- What is past its timeout depends on the waits, the barges in flight and the clock. -/
@[simp] theorem State.onTime_upd (s : State) (u : Upd) (h1 : u.writes .flying = false) (h2 : u.writes .waits = false)
    (h3 : u.writes .clock = false) : (s.upd u).onTime = s.onTime := by
  simp only [State.onTime, State.upd_flying s u h1, State.upd_waits s u h2, State.late_upd s u h3]

/-- What is open depends on the barges in flight, the contexts, PLAN, the Gridder and XLAT. -/
@[simp] theorem State.quiet_upd (s : State) (u : Upd) (h1 : u.writes .flying = false) (h2 : u.writes .ctxs = false)
    (h3 : u.writes .plan = false) (h4 : u.writes .grid = false) (h5 : u.writes .xlat = false) :
    (s.upd u).quiet = s.quiet := by
  simp only [State.quiet, State.upd_flying s u h1, State.upd_ctxs s u h2, State.upd_plan s u h3, State.upd_grid s u h4,
    State.upd_xlat s u h5]

end Sys2Proof.Machine
end

