-- ==== Sys2Proof/Tests/Slice0.lean ====
section
/-!
SUPPORT. Sys2Proof/Tests/Slice0.lean: ill-formed commands that WellFormed refuses; results checked against values worked
out from the manual; and, for the statements, states and operands that meet their hypotheses. A theorem wit_… applies its
statement to them and so meets every hypothesis of the clause it names.
-/
namespace Sys2Proof.Tests

set_option Elab.async false

open Machine

/-- A decidable premise that the kernel evaluates. -/
theorem yes {p : Prop} [Decidable p] (h : decide p = true := by decide +kernel) : p := of_decide_eq_true h

/-- Ranges that do not meet. -/
theorem gap {l : List (Nat × Nat)} (h : decide (l.Pairwise fun a b => a.1 + a.2 ≤ b.1 ∨ b.1 + b.2 ≤ a.1) = true := by
    decide +kernel) : apart l := by unfold apart; exact of_decide_eq_true h

/-- Memory at `pa` reads as it is stored. -/
theorem clean {s : State} {pa n : Nat} (h : decide ((∀ f ∈ s.flips, f.1 + 8 ≤ pa ∨ pa + n ≤ f.1) ∧ s.gone pa = false ∧
    s.flashLost pa = false ∧ s.lostTile pa = false) = true := by decide +kernel) : s.sound pa n := by unfold State.sound; exact of_decide_eq_true h

/-- A command completes; what a witness draws from a statement. -/
def completes (s : State) (c : Instr) : Prop := ∃ t, exec c s = .next t

theorem done {s : State} {c : Instr} {post : State → Prop} (h : s.does c post) : completes s c :=
  h.imp fun _ ht => ht.1

/-- The device after reset, with registers set. -/
def withRegs (l : List (Reg × Nat × Word)) (s : State := State.reset) : State :=
  { s with regs := l.foldl (fun m x => m.put (x.1.off x.2.1 0) x.2.2) s.regs }

/-- The host. -/
abbrev host : Who := 8

/-- A page a stop's TLB holds, writable and written before. -/
def page (stop c va pa : Nat) : TlbEntry :=
  { stop, ctx := c, page := va / 65536, leaf := BitVec.ofNat 64 (pa / 65536 * 65536 + 3), dirtied := true }

/-- PSRAM tile `n`. -/
def tile (n : Nat) : Nat := psramBase + n * 65536

/-- Leaves of pages in a level-2 table in PSRAM tile 301: page and tile of each. -/
def leaves (l : List (Nat × Nat)) : List (Nat × List Byte) := l.map fun p => (tile 301 + p.1 * 8, bytesOf 8 (tile p.2 + 3))

/-- An access through such a page, which its stop's TLB holds, does not wait. -/
theorem pass {s : State} {v : Via} {va : Nat} {write : Bool} {pa : Nat}
    (h1 : decide (va < 2 ^ 48 ∧ v.views = [] ∧
      s.xlat.tlb.find? (fun e => e.stop = v.stop && e.ctx = v.ctx && e.page = va / 65536) = some (page v.stop v.ctx va pa) ∧
      s.leafOutcome v va (page v.stop v.ctx va pa).leaf.toNat write = .ok pa ∧
      (write = true → (s.tagAt pa).1 ≠ Tag.dead ∧ ((s.tagAt pa).1 = Tag.live → v.split = false))) = true := by decide +kernel)
    (h2 : decide (s.xlat.walk.find? (fun w => w.1 = v.ctx && w.2.1 = va / 2 ^ 29) = some (1, 0, tile 301) ∧
      (regionAt (tile 301 + va / 65536 % 8192 * 8) = some .basin ∨ regionAt (tile 301 + va / 65536 % 8192 * 8) = some .psram ∧
        s.backed (tile 301 + va / 65536 % 8192 * 8) = true) ∧
      s.peekNat (tile 301 + va / 65536 % 8192 * 8) 8 = pa / 65536 * 65536 + 3 ∧ leafOk (pa / 65536 * 65536 + 3) = true ∧
      flag (BitVec.ofNat 64 (pa / 65536 * 65536 + 3)) 2 = false ∧ s.leafOutcome v va (pa / 65536 * 65536 + 3) write = .ok pa ∧
      s.retraining (tilePa (pa / 65536 * 65536 + 3) + va % 65536) = false) = true := by decide +kernel)
    (h3 : s.sound (tile 301 + va / 65536 % 8192 * 8) 8 := by exact clean) :
    s.passes v va write pa (tile 301 + va / 65536 % 8192 * 8) := by
  obtain ⟨a1, a2, a3, a4, a5⟩ := of_decide_eq_true h1
  obtain ⟨b1, b2, b3, b4, b5, b6, b7⟩ := of_decide_eq_true h2
  exact ⟨⟨a1, a2, _, a3, a4, fun h => ⟨rfl, a5 h⟩⟩, _, ⟨_, b1, rfl, b2, h3, b3, b4, b5⟩, b6, b7⟩

/-- A read through such a page gets what is stored. -/
theorem got {s : State} {v : Via} {va n : Nat} (pa : Nat)
    (h1 : decide (va < 2 ^ 48 ∧ va % 65536 + n ≤ 65536 ∧ s.mapped v.stop v.ctx va = some pa) = true := by decide +kernel)
    (h2 : s.sound pa n := by exact clean)
    (h3 : s.passes v va false pa (tile 301 + va / 65536 % 8192 * 8) := by exact pass) : s.gets v va n (s.peek pa n) :=
  have h := of_decide_eq_true h1
  ⟨⟨h.1, h.2.1, pa, h.2.2, h2, rfl⟩, pa, _, h3⟩

/-- No channel retrains where none has failed. -/
theorem trained {s : State} (h : s.psram = []) (a : Nat) : s.retraining a = false := by
  simp [State.retraining, h, Sparse.at, Sparse.find]

/-! ## WellFormed -/

theorem test_wf_context : wellFormed (.ctxCreate host 1024) = false ∧ wellFormed (.ctxCreate host 1023) = true := by decide
theorem test_wf_access_width : wellFormed (.registerWrite host controlBase 3 0 0) = false := by decide
theorem test_wf_access_address : wellFormed (.readLo host (2 ^ 48) 4) = false := by decide
theorem test_wf_ring : wellFormed (.heldCompletionWrite (.ctx 1024)) = false := by decide
theorem test_wf_pool : wellFormed (.kvAcquire host 16 0) = false := by decide
theorem test_wf_frame : wellFormed (.kvQuery host 0 (2 ^ 20)) = false := by decide
theorem test_wf_index : wellFormed (.doorbell host 0 65536) = false := by decide
theorem test_wf_lock : wellFormed (.lockFree host 8192) = false ∧ wellFormed (.lockFree host 8191) = true := by decide
theorem test_wf_lock_also : wellFormed (.lockAdd host 0 1 [.set host 8192 0]) = false := by decide
theorem test_wf_tmo : wellFormed (.lockArm host 0 0 0 (2 ^ 22) 0) = false := by decide
theorem test_wf_va : wellFormed (.bargeSubmit host 0 (2 ^ 48)) = false := by decide
theorem test_wf_page : wellFormed (.migrate 0 (2 ^ 32) 0) = false := by decide
theorem test_wf_slot : wellFormed (.bargeComplete 1024) = false := by decide
theorem test_wf_pa : wellFormed (.rowSpare (2 ^ 48)) = false := by decide
theorem test_wf_input : wellFormed (.reflexInputArrival (.spi 0) (List.replicate 65 0)) = false := by decide
theorem test_wf_dt : wellFormed (.csiShortPacket 0 0 64 (some 0)) = false := by decide
theorem test_wf_vc : wellFormed (.csiLongPacket 0 16 0 [] true true) = false := by decide
theorem test_wf_lines : wellFormed (.weirAdvance host 0 65536) = false := by decide
theorem test_wf_table : wellFormed (.gridCommit host 256 0) = false := by decide
theorem test_wf_era : wellFormed (.eraAck host 4) = false := by decide
theorem test_wf_cmd53 : wellFormed (.cmd53 true false (2 ^ 17) 4 []) = false := by decide
theorem test_wf_length : wellFormed (.telemetryRead 0) = false ∧ wellFormed (.stagingTransfer true 1 [0, 0]) = false := by decide
theorem test_wf_cons : wellFormed (.mbCons host 64) = false := by decide
theorem test_wf_block : wellFormed (.entryAbort 256) = false := by decide
theorem test_wf_sensors : wellFormed (.thermalSample (List.replicate 65 0)) = false := by decide
theorem test_wf_psram_tile : wellFormed (.psramTileRetire 0 393216) = false := by decide
theorem test_wf_inject : wellFormed (.faultInjectSingle host 72) = false := by decide
theorem test_wf_steward : wellFormed (.stewardMemoryAccess 0 0 0 none 65 false) = false := by decide
theorem test_wf_ident : wellFormed (.canFrameReceive 0 (2 ^ 11) false [] true) = false ∧
  wellFormed (.canFrameReceive 0 (2 ^ 11) true [] true) = true := by decide

/-! ## The machine and control space -/

theorem wit_step (h : Obligations.StepRunsFrontCommand) :
    step { State.reset with pending := [.trip120, .cmd5] } = exec .trip120 { State.reset with pending := [.cmd5] } :=
  h _ _ _ rfl

theorem wit_tick (h : Obligations.EmptyQueueLetsATickPass) : ∃ t, step State.reset = .next t :=
  (h State.reset yes yes yes yes yes).imp fun _ ht => ht.1

theorem resetCanonical : State.reset.Canonical := by constructor <;> decide +kernel

theorem wit_canonical (h : Obligations.ResetState) : State.reset.Canonical := h.1.1

theorem test_pending_after_step : (match step { State.reset with pending := [.cmd5, .cmd11] } with
    | .next t => t.pending
    | _ => []) = [.cmd11] := by decide

theorem test_sys_id : State.reset.value .sysId 0 0 = 0x00086A12 := by decide

theorem wit_grant (h : Obligations.GrantBitsOpenWindows) :
    State.reset.accessCode host true (controlBase + Reg.off .sysGrant 0 0) 4 = Code.ok :=
  h.2.2.2 State.reset host true _ yes yes yes yes
    (by intro r i j hl hi; have : some (r, i, j) = some (Reg.sysGrant, 0, 0) := hl.symm.trans yes
        cases this; revert hi; decide)
    (by intro r i j hl; have : some (r, i, j) = some (Reg.sysGrant, 0, 0) := hl.symm.trans yes
        cases this; decide)

theorem wit_ungranted (h : Obligations.RefusedAccessChangesNothing) :
    completes State.reset (.registerWrite 3 controlBase 4 1 0) :=
  done ((h.1 State.reset 3 controlBase 4 yes yes yes yes).1 1 0)

theorem wit_narrow (h : Obligations.RefusedAccessChangesNothing) :
    completes State.reset (.readLo host (controlBase + 2) 4) :=
  done (h.2 State.reset host (controlBase + 2) 4 yes yes yes yes yes yes).2.2

theorem wit_register_write (h : Obligations.RegisterWriteFollowsAccessCodes) :
    completes State.reset (.registerWrite host (controlBase + Reg.off .sysGrant 0 0) 4 0x5 0) :=
  done (h State.reset host _ 0x5 0 .sysGrant 0 0 yes yes yes yes yes)

theorem wit_read_clear (h : Obligations.ReadsReturnClearAndLatch) :
    completes State.reset (.readClear host (controlBase + Reg.off .sysId 0 0) 4 0) :=
  done (h.1 State.reset host _ 0 .sysId 0 0 yes yes yes yes yes yes)

theorem wit_read_lo (h : Obligations.ReadsReturnClearAndLatch) :
    completes State.reset (.readLo host (controlBase + Reg.off .timeNowLo 0 0) 4) :=
  done (h.2 State.reset host _ .timeNowLo .timeNowHi 0 0 yes yes yes yes).1

/-! ## Locks -/

/-- Lock 5 allocated to context 0 at level 10; the host waits on it for 12, and initiator 2 for 100. -/
def locked : State := { State.reset with
  locks := [(5, { alloc := true, level := 10 })]
  waits := [{ waiter := .armed host, lock := 5, target := 12, deadline := none },
            { waiter := .armed 2, lock := 5, target := 100, deadline := some 0, tag := 7 }] }

theorem wit_add (h : Obligations.LevelsChangeByAddAndSet) : completes locked (.lockAdd host 5 3 []) :=
  done (h.1 locked host 5 3 yes yes yes yes).1

theorem wit_set (h : Obligations.LevelsChangeByAddAndSet) : completes locked (.lockSet host 5 0 []) :=
  done (h.1 locked host 5 0 yes yes yes yes).2

theorem wit_add_free (h : Obligations.LevelsChangeByAddAndSet) : completes locked (.lockAdd host 8191 3 []) :=
  done (h.2.1 locked host 8191 3 yes yes yes yes yes).1

theorem wit_set_then_add (h : Obligations.LevelsChangeByAddAndSet) :
    completes locked (.lockAdd host 5 1 [.set 0 5 7, .add 1 5 2]) :=
  done (h.2.2 locked host 0 1 5 7 1 2 yes yes yes yes yes yes yes yes yes)

theorem test_lock_add_wraps : (match exec (.lockAdd host 5 0xFFFFFFF6 []) locked with
    | .next t => (t.lockAt 5).level
    | _ => 1) = 0 := by decide

theorem wit_alloc (h : Obligations.AllocAndFreeSetTheLock) : completes locked (.lockAlloc host 6 0x3FF) :=
  done ((h.1 locked host 6 yes yes ⟨yes, yes⟩).1 0x3FF yes yes)

theorem wit_free (h : Obligations.AllocAndFreeSetTheLock) : completes { locked with waits := [] } (.lockFree host 5) :=
  done ((h.1 { locked with waits := [] } host 5 yes yes ⟨yes, yes⟩).2 yes yes)

/-- The LOCK window is granted. -/
def granted : State := { withRegs [(.sysGrant, 0, 0xFFFFFFFF)] with locks := locked.locks, waits := locked.waits }

theorem wit_alloc_refused (h : Obligations.AllocAndFreeSetTheLock) : completes granted (.lockFree 3 5) :=
  done (h.2 granted 3 5 0 yes ⟨yes, yes⟩).2

theorem wit_arm (h : Obligations.WaitsEnterAndLeaveTheTable) : completes locked (.lockArm host 5 11 0 1 9) :=
  done ((h.1 locked host 5 11 0 1 9 yes yes yes ⟨yes, yes⟩ yes yes yes).1
    yes)

theorem wit_arm_reached (h : Obligations.WaitsEnterAndLeaveTheTable) : completes locked (.lockArm host 5 10 0 1 9) :=
  done ((h.1 locked host 5 10 0 1 9 yes yes yes ⟨yes, yes⟩ yes yes yes).2
    yes yes)

theorem wit_cancel (h : Obligations.WaitsEnterAndLeaveTheTable) : completes granted (.lockCancel 2 5 7) :=
  done (h.2.1 granted 2 5 7 yes ⟨yes, yes⟩ yes)

theorem wit_wait_timeout (h : Obligations.WaitsEnterAndLeaveTheTable) : completes locked (.waitTimeout (.armed 2 0)) :=
  done (h.2.2 locked 2 0 { waiter := .armed 2, lock := 5, target := 100, deadline := some 0, tag := 7 } 0 yes
    yes yes yes yes)

/-! ## Contexts and the Collie -/

/-- A device memory. -/
def ram (l : List (Nat × List Byte)) : List Host.Cell := l.foldl (fun m x => Memory.store 0 m x.1 x.2) []

/-- A job of one kernel. -/
def job1 : Job := { tag := 7, job := 3, nkern := 1, restartable := true, krec := false, deadline := 2 ^ 64 - 1, klist := 0x2_0000 }

/-- A descriptor of class 3: ring of 64 records at 0x1_0000, submission ring of 16 at 0x2_0000, kennel in PSRAM. -/
def desc3 : Desc := { cls := 3, kspan := 2, weight := 1, kennel := tile 0, ringVa := 0x1_0000, subqVa := 0x2_0000 }

/-- Context 1 is READY and idle. -/
def idle1 : State := { State.reset with
  ctxs := [(1, { st := .ready, desc := desc3, ringTiles := [tile 200], subqTiles := [tile 201] }), (1023, Context.migration)]
  locks := [(4, { alloc := true, owner := 1, level := 9, jobadd := 2, poisoned := true }), (5, { alloc := true, owner := 2 })] }

/-- Context 1 with another state of it. -/
def with1 (f : Context → Context) (s : State := idle1) : State := { s with ctxs := s.ctxs.put 1 (f (s.ctx 1)) }

theorem wit_wrong_state (h : Obligations.CommandInWrongStateIsRefused) : completes idle1 (.ctxHeel host 1) :=
  done ((h idle1 host 1 yes ⟨yes, yes⟩ yes).2.2.2.2 yes)

theorem wit_wrong_state_free (h : Obligations.CommandInWrongStateIsRefused) : completes idle1 (.ctxKill host 0) :=
  done ((h idle1 host 0 yes ⟨yes, yes⟩ yes).2.2.1 yes)

/-- Descriptor 1 of a table at PSRAM tile 300: class 3, KSPAN 1, rings in pinned tiles. -/
def creates : State := { State.reset with
  regs := ([(Reg.off .colDescLo 0 0, Word.ofNat (tile 300 % 2 ^ 32)), (Reg.off .colDescHi 0 0, Word.ofNat (tile 300 / 2 ^ 32))]
    : Sparse Word).foldl (fun m x => m.put x.1 x.2) []
  mem := ram [(tile 300 + 128, bytesOf 64 (pack [(1, 0), (3, 1), (1, 16), (6, 20), (4, 25), (1, 32), (tile 0, 128),
      (0x1_0000, 192), (0x2_0000, 256)])),
    (tile 301 + 8, bytesOf 16 (pack [(tile 200 + 5, 0), (tile 201 + 5, 64)]))]
  xlat := { walk := [(1, 0, tile 301)]
            pins := (List.range 98).map (fun i => (8192 + i, true)) ++ [(8392, true), (8393, true)] } }

theorem pinned_eq {s : State} {c a b t : Nat} (h : s.pinnedAt c b t) (e : a = b) : s.pinnedAt c a t := e ▸ h

theorem creates_ring : creates.pinnedAt 1 0x1_0000 (tile 200) := ⟨_, rfl, yes, clean, yes, yes, yes, yes, yes⟩
theorem creates_subq : creates.pinnedAt 1 0x2_0000 (tile 201) := ⟨_, rfl, yes, clean, yes, yes, yes, yes, yes⟩

theorem wit_create (h : Obligations.CreateMakesAReadyContext) : completes creates (.ctxCreate host 1) :=
  done (h creates host 1 (fun _ => tile 200) (fun _ => tile 201) (fun _ => 0) yes ⟨yes, yes⟩ yes yes clean yes yes yes yes yes
    (fun i hi => by
      have hi' : i < 1 := lt_of_lt_of_eq hi yes
      obtain rfl : i = 0 := by omega
      exact pinned_eq creates_ring yes)
    (fun _ i hi => by
      have hi' : i < 1 := lt_of_lt_of_eq hi yes
      obtain rfl : i = 0 := by omega
      exact pinned_eq creates_subq yes)
    (fun hv => absurd yes hv))

theorem wit_destroy (h : Obligations.ContextsEndAndReopen) : completes idle1 (.ctxDestroy host 1) :=
  done (h.1 idle1 host 1 yes ⟨yes, yes⟩ yes yes)

theorem wit_kill (h : Obligations.ContextsEndAndReopen) : completes idle1 (.ctxKill host 1) :=
  done (h.2.1 idle1 host 1 yes ⟨yes, yes⟩ yes yes yes yes yes yes yes yes yes yes)

theorem wit_reopen (h : Obligations.ContextsEndAndReopen) :
    completes (with1 fun x => { x with st := .torn }) (.ctxReopen host 1) :=
  done (h.2.2 (with1 fun x => { x with st := .torn }) host 1 yes ⟨yes, yes⟩ yes yes)

theorem wit_doorbell_bad (h : Obligations.RingsAreServed) : completes idle1 (.doorbell host 0 1) :=
  done ((h.1 idle1 host 0 1 yes yes ⟨yes, yes⟩).1 (.inl yes))

theorem wit_doorbell (h : Obligations.RingsAreServed) : completes idle1 (.doorbell host 1 1) :=
  done ((h.1 idle1 host 1 1 yes yes ⟨yes, yes⟩).2
    (by rintro (h | h | h | ⟨_, h, _⟩ | h | h)
        · exact absurd h yes
        · exact absurd h yes
        · exact absurd h.1 yes
        · exact absurd h (by have : idle1.home 1 = none := by decide
                             simp [this])
        · exact absurd h yes
        · exact absurd h yes) yes yes yes (tile 201) yes clean)

theorem wit_cons (h : Obligations.RingsAreServed) :
    completes (with1 fun x => { x with ring := { wr := 5, cons := 2 } }) (.colCons host 1 5) :=
  done (((h.2 (with1 fun x => { x with ring := { wr := 5, cons := 2 } }) host ⟨yes, yes⟩ ⟨yes, yes⟩).1 1 5 yes yes).1 yes)

theorem wit_cons_past (h : Obligations.RingsAreServed) :
    completes (with1 fun x => { x with ring := { wr := 5, cons := 2 } }) (.colCons host 1 6) :=
  done (((h.2 (with1 fun x => { x with ring := { wr := 5, cons := 2 } }) host ⟨yes, yes⟩ ⟨yes, yes⟩).1 1 6 yes yes).2 yes)

theorem wit_sel (h : Obligations.RingsAreServed) : completes idle1 (.colSel host 1) :=
  done ((h.2 idle1 host ⟨yes, yes⟩ ⟨yes, yes⟩).2.1 1 yes)

theorem wit_sel_residual (h : Obligations.RingsAreServed) : completes idle1 (.colSel host 1024) :=
  done ((h.2 idle1 host ⟨yes, yes⟩ ⟨yes, yes⟩).2.2 1024 yes)

theorem wit_restart (h : Obligations.RestartAndEnergy) :
    completes (with1 fun x => { x with st := .restarting, nextKern := 2, started := true, jobs := [job1] }) (.jobRestart 1) :=
  done (h.1 (with1 fun x => { x with st := .restarting, nextKern := 2, started := true, jobs := [job1] }) 1 yes yes yes)

theorem wit_energy (h : Obligations.RestartAndEnergy) : completes State.reset (.energyRescale 5000) :=
  done (h.2 State.reset 5000 resetCanonical)

/-! ## Engines and kernels -/

/-- A program of span 1: an idle bundle, a yield bundle with a WAIT for level 20 on the Lock of slot 0, and its END. -/
def prog1 : Program := { variants := [{ span := 1, bundles := [(0, [0]),
  (BitVec.ofNat 128 (pack [(1, 0), (1, 72), (20, 76)]), [0]), (2, [0])] }], binds := [4] }

/-- A kernel of it on engine 0. -/
def kern1 : Kernel := { prog := 1, index := 0, span := 1, engines := [0] }

/-- Context 1 runs the kernel, its one engine in some state. -/
def runs1 (x : Engine) (k : Kernel := kern1) : State := { idle1 with
  progs := [(1, prog1)]
  engines := [(0, { x with ctx := some 1, span := 1 })]
  locks := [(4, { alloc := true, owner := 1, level := 9 })]
  ctxs := [(1, { st := .running, desc := desc3, ringTiles := [tile 200], subqTiles := [tile 201], jobs := [job1]
                 kern := some k, started := true }), (1023, Context.migration)] }

def issuing : State := runs1 { mode := .issuing }

theorem wit_issue (h : Obligations.IssueAdvancesTheEngine) : completes issuing (.bundleIssue 0) :=
  done (h.1 issuing 0 1 kern1 0 [0] yes yes yes yes yes yes yes yes yes yes yes yes (fun h => absurd h yes) yes yes yes yes yes yes yes yes)

def atYield : State := runs1 { mode := .held, pc := 1, atYield := true, sinceJoin := 9 }

theorem wit_barrier_wait (h : Obligations.IssueAdvancesTheEngine) : completes atYield (.yieldBarrierComplete 1) :=
  done ((h.2 atYield 1 kern1 0 (BitVec.ofNat 128 (pack [(1, 0), (1, 72), (20, 76)])) [0] yes yes yes yes yes yes yes).2
    yes yes yes yes yes)

/-- The same at a bundle without a WAIT. -/
def atBarrier : State := runs1 { mode := .held, pc := 0, atYield := true }

theorem wit_barrier (h : Obligations.IssueAdvancesTheEngine) : completes atBarrier (.yieldBarrierComplete 1) :=
  done ((h.2 atBarrier 1 kern1 0 0 [0] yes yes yes yes yes yes yes).1 yes)

/-- Context 1 is READY with a job of one kernel, whose kernel list the Collie's TLB maps. -/
def dispatchable : State := { idle1 with
  progs := [(1, prog1)]
  mem := ram [(tile 210, [1])]
  xlat := { tlb := [page 18 1 0x2_0000 (tile 210)] }
  ctxs := [(1, { st := .ready, desc := desc3, ringTiles := [tile 200], subqTiles := [tile 201], jobs := [job1]
                 started := true }), (1023, Context.migration)] }

theorem dispatchable_sees : dispatchable.sees 18 1 0x2_0000 16 (dispatchable.peek (tile 210) 16) :=
  ⟨yes, yes, tile 210, yes, clean, rfl⟩

theorem wit_dispatch (h : Obligations.KernelsStartAndComplete) : completes dispatchable .kernelDispatch :=
  done (h.1 dispatchable 1 job1 [] _ prog1 1 yes yes yes yes yes yes
    (by constructor <;> decide +kernel)
    yes yes yes yes yes yes dispatchable_sees yes yes yes yes yes yes yes yes)

def ended : State := runs1 { mode := .held, pc := 2, ended := true }

theorem wit_complete (h : Obligations.KernelsStartAndComplete) : completes ended (.kernelComplete 1) :=
  done (h.2 ended 1 kern1 job1 [] 0 2 [0] yes yes yes yes yes yes yes yes yes yes yes yes yes yes yes yes yes yes)

/-- A line from stop 3 to cell 7 of the kernel's engine. -/
def flight : Flight := { src := 3, stop := 4, vc := 1, dst := 0, dstCells := [7], chan := 2, line := 5, place := none }

def arriving : State := runs1 { mode := .issuing } { kern1 with flights := [flight] }

theorem wit_line (h : Obligations.LineArrivesInOrder) : completes arriving (.towpathLineArrival 1 0) :=
  done (h arriving 1 0 { kern1 with flights := [flight] } flight flight 0 7 [] [] yes yes yes yes yes yes yes yes)

theorem wit_heel (h : Obligations.HeelsFreeEnginesAndKennels) : completes issuing (.ctxHeel host 1) :=
  done (h.1 issuing host 1 kern1 yes ⟨yes, yes⟩ yes yes yes yes)

/-- A heel of the kernel has been asked for. -/
def asking (w : Option Nat) : Kernel := { kern1 with heelAt := some 0, wait := w }

def asked (x : Engine) (w : Option Nat := none) : State := runs1 x (asking w)

theorem wit_release (h : Obligations.HeelsFreeEnginesAndKennels) : completes (asked { mode := .held } (some 0xFF)) (.heelRelease 1) :=
  done ((h.2.1 (asked { mode := .held } (some 0xFF)) 1 (asking (some 0xFF)) yes yes yes yes yes yes).1 yes yes)

theorem wit_cutoff (h : Obligations.HeelsFreeEnginesAndKennels) : completes (asked { mode := .stalled }) (.stallCutoff 0) :=
  done ((h.2.1 (asked { mode := .stalled }) 1 (asking none) yes yes yes yes yes yes).2.1 0 yes yes yes yes)

def parked : State := runs1 { mode := .parked, waitFrom := some 0, parkVa := some 0x5_0000 }

theorem wit_stall (h : Obligations.HeelsFreeEnginesAndKennels) : completes parked (.stallThreshold 1) :=
  done ((h.2.1 parked 1 kern1 yes yes yes yes yes yes).2.2 yes yes ⟨0, yes, yes, yes⟩)

def heeled : Kernel := { kern1 with phase := .heeled, engines := [], saved := [{}], drained := [false] }

def draining : State := { runs1 {} heeled with engines := [], drains := [(0, [(1, 0)])] }

theorem wit_drain (h : Obligations.HeelsFreeEnginesAndKennels) : completes draining (.kennelDrain 0) :=
  done (h.2.2 draining 0 0 1 0 [] heeled yes yes yes yes yes yes)

theorem noEngine (c : Nat) : State.reset.onEngine c 0 = false := by
  by_cases hc : c = 1023
  · subst hc; decide
  · have : State.reset.ctx c = {} := by simp [State.ctx, State.reset, Sparse.at, Sparse.find, Ne.symm hc]
    have d : State.reset.drains = [] := rfl
    simp [State.onEngine, this, d, Sparse.at, Sparse.find]

theorem wit_engine_fault (h : Obligations.EngineFaultRetires) : completes State.reset (.engineFault 0 .controlParity) :=
  done (h State.reset 0 .controlParity yes yes noEngine (fun c k hk => by
      by_cases hc : c = 1023
      · subst hc; exact nomatch hk
      · have : State.reset.ctx c = {} := by simp [State.ctx, State.reset, Sparse.at, Sparse.find, Ne.symm hc]
        rw [this] at hk; exact nomatch hk) yes yes yes)

/-! ## Memory -/

/-- A word of a KV frame record. -/
def frameWord (f : Frame) : List Byte := bytesOf 8 f.toNat

/-- Pool 0 of context 1, 4 frames of 1 tile; frame table in tile 401, free ring in tile 402; frame 2 as given. -/
def kvPool (f : Frame) : State := { idle1 with
  regs := ([(Reg.off .kvPtabLo 0 0, Word.ofNat (tile 400 % 2 ^ 32)), (Reg.off .kvPtabHi 0 0, Word.ofNat (tile 400 / 2 ^ 32))]
    : Sparse Word).foldl (fun m x => m.put x.1 x.2) []
  mem := ram [(tile 301 + 8, bytesOf 16 (pack [(tile 401 + 5, 0), (tile 402 + 5, 64)])),
    (tile 400, bytesOf 32 (pack [(0x4_0000, 0), (128, 56), (0x1_0000, 64), (1, 112), (0x2_0000, 128), (4, 192), (3, 224)])),
    (tile 401 + 16, frameWord f)]
  xlat := { walk := [(1, 0, tile 301)], pins := [(8192 + 400, true), (8192 + 401, true), (8192 + 402, true)] } }

def pool0 : Pool := { pa := tile 400, kvVa := 0x4_0000, ftVa := 0x1_0000, ctx := 1, freeVa := 0x2_0000, frames := 4, tpf := 1,
                      head := 3 }

def frame (st refs pins wpins : Nat) : Frame := { refs, pins, gen := 65535, st, wpins }

theorem wit_acquire (h : Obligations.KvCommandsKeepFrames) : completes (kvPool (frame 0 0 0 0)) (.kvAcquire host 0 2) :=
  done (((h (kvPool (frame 0 0 0 0)) host 0 2 (tile 401) (tile 402) pool0 yes ⟨yes, yes⟩ yes yes yes yes yes yes yes yes yes yes yes yes ⟨_, rfl, yes, clean, yes, yes, yes, yes, yes⟩).2 yes).1
    ⟨yes, yes, yes⟩)

theorem wit_share (h : Obligations.KvCommandsKeepFrames) : completes (kvPool (frame 1 65534 0 0)) (.kvShare host 0 2) :=
  done (((h (kvPool (frame 1 65534 0 0)) host 0 2 (tile 401) (tile 402) pool0 yes ⟨yes, yes⟩ yes yes yes yes yes yes yes yes yes yes yes yes ⟨_, rfl, yes, clean, yes, yes, yes, yes, yes⟩).2 yes).2.1
    ⟨yes, yes, yes, yes⟩)

theorem wit_kv_release (h : Obligations.KvCommandsKeepFrames) : completes (kvPool (frame 1 1 1 1)) (.kvRelease host 0 2) :=
  done (((h (kvPool (frame 1 1 1 1)) host 0 2 (tile 401) (tile 402) pool0 yes ⟨yes, yes⟩ yes yes yes yes yes yes yes yes yes yes yes yes ⟨_, rfl, yes, clean, yes, yes, yes, yes, yes⟩).2 yes).2.2.1
    ⟨yes, .inr ⟨yes, yes⟩⟩)

theorem wit_release_last (h : Obligations.KvCommandsKeepFrames) : completes (kvPool (frame 1 1 0 0)) (.kvRelease host 0 2) :=
  done (((h (kvPool (frame 1 1 0 0)) host 0 2 (tile 401) (tile 402) pool0 yes ⟨yes, yes⟩ yes yes yes yes yes yes yes yes yes yes yes yes ⟨_, rfl, yes, clean, yes, yes, yes, yes, yes⟩).2 yes).2.2.2.1
    ⟨yes, yes, yes⟩ ⟨_, rfl, yes, clean, yes, yes, yes, yes, yes⟩ gap fun w hw => by
      obtain rfl : (1, 0, tile 301) = w := Option.some.inj ((by decide +kernel : _ = _).symm.trans hw)
      exact gap)

theorem wit_query (h : Obligations.KvCommandsKeepFrames) : completes (kvPool (frame 1 1 0 0)) (.kvQuery host 0 2) :=
  done (((h (kvPool (frame 1 1 0 0)) host 0 2 (tile 401) (tile 402) pool0 yes ⟨yes, yes⟩ yes yes yes yes yes yes yes yes yes yes yes yes ⟨_, rfl, yes, clean, yes, yes, yes, yes, yes⟩).2 yes).2.2.2.2)

/-- The pool of context 1, and a steward that acts for context 2. -/
def kvForeign : State := { kvPool (frame 0 0 0 0) with xlat := { (kvPool (frame 0 0 0 0)).xlat with acting := [(0, some 2)] } }

theorem wit_kv_owner (h : Obligations.KvCommandsKeepFrames) : completes kvForeign (.kvQuery 0 0 2) :=
  done ((h kvForeign 0 0 2 (tile 401) (tile 402) pool0 yes ⟨yes, yes⟩ yes yes yes yes yes yes yes yes yes yes yes yes ⟨_, rfl, yes, clean, yes, yes, yes, yes, yes⟩).1 yes (.kvQuery 0 0 2) (by simp))

/-- Two TLB entries, and an invalidation of context 1 by the host under way. -/
def cached : State := { idle1 with
  xlat := { tlb := [page 18 1 0x2_0000 (tile 210), page 19 2 0x2_0000 (tile 211)], invs := [(host, some 1, none)]
            pins := [(8192 + 7, true)] } }

theorem wit_inv (h : Obligations.InvalidationAndPins) : completes cached (.xlatInv host 2 0x0001_0001) :=
  done (h.1 cached host 2 0x0001_0001 ⟨yes, yes⟩).1

theorem wit_inv_complete (h : Obligations.InvalidationAndPins) : completes cached (.invalidationComplete host) :=
  done (h.1 cached host 0 0 ⟨yes, yes⟩).2

theorem wit_pin_set (h : Obligations.InvalidationAndPins) : completes cached (.pinSet host 0x0008_2000) :=
  done (h.2.1 cached host 0x0008_2000 ⟨yes, yes⟩).1

theorem wit_pin_clear (h : Obligations.InvalidationAndPins) : completes cached (.pinClear host 0x0030_2000) :=
  done (h.2.1 cached host 0x0030_2000 ⟨yes, yes⟩).2

theorem wit_pin_refused (h : Obligations.InvalidationAndPins) : completes State.reset (.pinSet 2 0) :=
  done (h.2.2 State.reset 2 0 yes yes).1

/-- Context 1 maps page 1 to PSRAM tile 500, through tables in tiles 510, 511 and 512. -/
def mapped1 : State := { State.reset with
  ctxs := [(1, { st := .ready, desc := { desc3 with ptRoot := tile 510 } }), (1023, Context.migration)]
  mem := ram [(tile 500 + 7, [9]), (tile 510, bytesOf 8 (tile 511 + 1)), (tile 511, bytesOf 8 (tile 512 + 1)),
    (tile 512 + 8, bytesOf 8 (tile 500 + 3))]
  xlat := { tlb := [page 18 1 0x1_0000 (tile 500)], walk := [(1, 0, tile 512)] } }

theorem mapped1_canonical : mapped1.Canonical :=
  by constructor <;> decide +kernel

theorem wit_migrate (h : Obligations.MigrationMovesThePage) : completes mapped1 (.migrate 1 1 (tile 501 / 65536)) :=
  done (h mapped1 1 1 (tile 501 / 65536) (tile 500 + 3) (tile 512 + 8) mapped1_canonical yes yes yes
    ⟨(1, 0, tile 512), yes, yes, .inr ⟨yes, yes⟩, clean, yes, yes, yes⟩ yes yes yes yes clean yes yes yes yes yes gap)

/-- A descriptor of one tile from page 1 to page 2, with an ADD of 3 to Lock 4. -/
def bdesc : BDesc := { src := 0x1_0000, dst := 0x2_0000, addLock := 4, addEn := true, addV := 3, krec := true, tag := 5 }

/-- Context 1 with its pages 1 and 2 in PSRAM, and a barge descriptor in memory. -/
def barges : State := { idle1 with
  ctxs := [(1, { st := .ready, desc := desc3, ringTiles := [tile 200], subqTiles := [tile 201] }), (1023, Context.migration)]
  locks := [(4, { alloc := true, owner := 1, level := 9 })]
  mem := ram [(tile 500 + 7, [9])]
  xlat := { tlb := [page 19 1 0x1_0000 (tile 500), page 19 1 0x2_0000 (tile 502)] } }

theorem wit_submit (h : Obligations.BargesAreSubmittedAndIssued) : completes barges (.bargeSubmit host 1 0x1_0000) :=
  done (h.1 barges host 1 0x1_0000 (barges.peek (tile 500) 64) yes ⟨yes, yes⟩ yes yes ⟨yes, yes, tile 500, yes, clean, rfl⟩)

def queued (d : BDesc) : State := { barges with chanQueues := [(1, [{ ctx := 1, desc := d }])] }

theorem wit_issue_barge (h : Obligations.BargesAreSubmittedAndIssued) : completes (queued bdesc) (.bargeIssue 1) :=
  done ((h.2 (queued bdesc) 1 { ctx := 1, desc := bdesc } [] 8 yes yes yes yes yes yes yes yes yes).2.1 yes yes)

theorem wit_issue_wait (h : Obligations.BargesAreSubmittedAndIssued) :
    completes (queued { bdesc with waitEn := true, waitLock := 4, waitT := 10 }) (.bargeIssue 1) :=
  done ((h.2 (queued { bdesc with waitEn := true, waitLock := 4, waitT := 10 }) 1
    { ctx := 1, desc := { bdesc with waitEn := true, waitLock := 4, waitT := 10 } } [] 8 yes yes yes yes yes yes yes yes yes).2.2
    yes yes yes yes)

/-- A barge of class 0 waits on another channel. -/
def second : State := { queued bdesc with chanQueues := [(1, [{ ctx := 1, desc := bdesc }]), (2, [{ ctx := 2, desc := bdesc }])] }

theorem wit_issue_second (h : Obligations.BargesAreSubmittedAndIssued) : completes second (.bargeIssue 1) :=
  done ((h.2 second 1 { ctx := 1, desc := bdesc } [] 8 yes yes yes yes yes yes yes yes yes).1 yes)

def flies (b : Barge) : State := { barges with flying := [(8, b)] }

def moving : Barge := { ctx := 1, desc := bdesc }

theorem wit_land (h : Obligations.TileLandsWhole) : completes (flies moving) (.bargeTileLand 8 0) :=
  done (h (flies moving) 8 (tile 500) (tile 502) moving
    (by constructor <;> decide +kernel) yes yes yes yes yes yes yes yes yes yes yes yes yes yes
    ⟨yes, yes, _, rfl, yes, yes⟩ ⟨yes, yes, _, rfl, yes, yes⟩ yes yes yes yes yes clean yes (trained rfl)).1

theorem wit_resume (h : Obligations.TileLandsWhole) :
    completes (flies { moving with parked := [0] }) (.parkResume (.tile 8 0)) :=
  done ((h (flies { moving with parked := [0] }) 8 (tile 500) (tile 502) { moving with parked := [0] }
    (by constructor <;> decide +kernel) yes yes yes yes yes yes yes yes yes yes yes yes yes yes
    ⟨yes, yes, _, rfl, yes, yes⟩ ⟨yes, yes, _, rfl, yes, yes⟩ yes yes yes yes yes clean yes (trained rfl)).2 yes)

theorem wit_barge_complete (h : Obligations.BargesEndAndRetry) :
    completes (flies { moving with landed := [0] }) (.bargeComplete 8) :=
  done ((h.1 (flies { moving with landed := [0] }) 8 { moving with landed := [0] } yes yes yes yes yes yes yes yes yes).1 yes yes yes)

theorem wit_barge_timeout (h : Obligations.BargesEndAndRetry) :
    completes (flies { moving with deadline := some 0 }) (.bargeTimeout 8) :=
  done ((h.1 (flies { moving with deadline := some 0 }) 8 { moving with deadline := some 0 } yes yes yes yes yes yes yes yes yes).2.2 0
    yes yes yes yes)

/-- Its Lock is free by now. -/
def unlocked : State := { (flies { moving with landed := [0] }) with locks := [] }

theorem wit_barge_unlocked (h : Obligations.BargesEndAndRetry) : completes unlocked (.bargeComplete 8) :=
  done ((h.1 unlocked 8 { moving with landed := [0] } yes yes yes yes yes yes yes yes yes).2.1 yes yes yes)

theorem wit_retry (h : Obligations.BargesEndAndRetry) :
    completes (flies { moving with failed := true }) (.splitRetry (.barge 8)) :=
  done ((h.2 (flies { moving with failed := true })).1 8 { moving with failed := true } yes yes)

def failedSplit : Kernel := { kern1 with phase := .failed, engines := [] }

theorem wit_retry_kernel (h : Obligations.BargesEndAndRetry) : completes (runs1 {} failedSplit) (.splitRetry (.kernel 1)) :=
  done ((h.2 (runs1 {} failedSplit)).2 1 failedSplit yes yes)

theorem wit_burst (h : Obligations.ChannelsAndFlashAreKept) : completes State.reset (.psramBurstCrcFail 3 (tile 3) 0xBEEF) :=
  done ((h.1 State.reset 3 yes).1 (tile 3) 0xBEEF yes
    (fun x hx k hk => nomatch ((yes : ∀ x ∈ State.reset.ctxs, x.2.kern = none) x hx).symm.trans hk) yes yes)

def retrains : State := { State.reset with psram := [(95, { retraining := true })] }

theorem wit_retrained (h : Obligations.ChannelsAndFlashAreKept) : completes retrains (.channelRetrainEnd 95 true) :=
  done ((h.1 retrains 95 yes).2.1 yes)

theorem wit_channel_lost (h : Obligations.ChannelsAndFlashAreKept) : completes retrains (.channelRetrainEnd 95 false) :=
  done ((h.1 retrains 95 yes).2.2 yes yes yes yes yes yes)

theorem wit_refresh (h : Obligations.ChannelsAndFlashAreKept) : completes State.reset (.readDisturbRefresh 0 7) :=
  done (((h.2 State.reset).1 0 7).1 yes)

theorem wit_refresh_retired (h : Obligations.ChannelsAndFlashAreKept) :
    completes (withRegs [(.faultRetUnits, 0, 0x10000)]) (.readDisturbRefresh 0 7) :=
  done (((h.2 (withRegs [(.faultRetUnits, 0, 0x10000)])).1 0 7).2 yes)

theorem wit_ftl (h : Obligations.ChannelsAndFlashAreKept) : completes State.reset .ftlReady :=
  done ((h.2 State.reset).2 yes)

/-! ## The Weir and the ports -/

/-- Queue 2 on, of 16 lines, with some registers more. -/
def queue2 (l : List (Reg × Nat × Word) := []) : State :=
  withRegs ([(.weirQCfg, 2, 1), (.weirQSize, 2, 15), (.weirQWr, 2, 9), (.weirQCm, 2, 9), (.weirQRd, 2, 7), (.weirQMk, 2, 6),
    (.weirQRl, 2, 5)] ++ l)

theorem wit_advance (h : Obligations.WeirCommandsMovePointers) : completes (queue2) (.weirAdvance host 2 65535) :=
  done (((h queue2 host 2 ⟨yes, yes⟩).1 (.inl yes)).1 65535 yes)

theorem wit_mark (h : Obligations.WeirCommandsMovePointers) : completes (queue2) (.weirMark host 2) :=
  done ((h queue2 host 2 ⟨yes, yes⟩).1 (.inl yes)).2.1

theorem wit_rewind (h : Obligations.WeirCommandsMovePointers) : completes (queue2) (.weirRewind host 2) :=
  done ((h queue2 host 2 ⟨yes, yes⟩).1 (.inl yes)).2.2.1

theorem wit_queue_release (h : Obligations.WeirCommandsMovePointers) : completes (queue2) (.weirRelease host 2) :=
  done ((h queue2 host 2 ⟨yes, yes⟩).1 (.inl yes)).2.2.2

theorem wit_weir_refused (h : Obligations.WeirCommandsMovePointers) :
    completes (queue2 [(.sysGrant, 0, 0xFFFFFFFF)]) (.weirMark 4 2) :=
  done ((h (queue2 [(.sysGrant, 0, 0xFFFFFFFF)]) 4 2 ⟨yes, yes⟩).2 yes (.weirMark 4 2) yes)

theorem wit_enable (h : Obligations.QueuesAreEnabledAndWatched) :
    completes (queue2 [(.weirQBase, 3, 16), (.weirQSize, 3, 1)]) (.queueEnable host 3 0) :=
  done (((h (queue2 [(.weirQBase, 3, 16), (.weirQSize, 3, 1)])).1 host 3 0 ⟨yes, yes⟩ yes).1 yes yes)

theorem wit_enable_clash (h : Obligations.QueuesAreEnabledAndWatched) :
    completes (queue2 [(.weirQBase, 3, 15), (.weirQSize, 3, 1)]) (.queueEnable host 3 1) :=
  done (((h (queue2 [(.weirQBase, 3, 15), (.weirQSize, 3, 1)])).1 host 3 1 ⟨yes, yes⟩ yes).2 (.inl yes))

/-- The packet of queue 2 is 2^31 ns old. -/
def aged : State := { queue2 with
  ports := { queues := [(2, { packets := [{ start := 5, lines := 4, stamp := 0 }] })] }
  clock := { elapsed := 2 ^ 63, acc := 2 ^ 63 } }

theorem wit_aged (h : Obligations.QueuesAreEnabledAndWatched) : completes aged .agedCheck := done (h aged).2.1

theorem wit_pause (h : Obligations.QueuesAreEnabledAndWatched) :
    completes (queue2 [(.weirQStat, 2, 0x80000), (.weirQFc, 2, 0x20), (.ethIng, 1, 0x9)]) (.pauseRepeat 1) :=
  done ((h (queue2 [(.weirQStat, 2, 0x80000), (.weirQFc, 2, 0x20), (.ethIng, 1, 0x9)])).2.2.1 1)

/-- The kernel's cell 3 waits for queue 2 until elapsed time 0. -/
def weirWait : WeirWait := { id := 1, queue := 2, logical := 0, cell := 3, chan := 1, deadline := some 0 }

theorem wit_rtmo (h : Obligations.QueuesAreEnabledAndWatched) :
    completes (runs1 { mode := .issuing } { kern1 with weirWaits := [weirWait] }) (.rtmoExpiry 0 3 1) :=
  done ((h (runs1 { mode := .issuing } { kern1 with weirWaits := [weirWait] })).2.2.2 0 3 1 1 0
    { kern1 with weirWaits := [weirWait] } weirWait job1 [] yes yes yes yes yes yes yes yes yes yes yes yes yes yes yes)

theorem room (l : List (Reg × Nat × Word)) (n : Nat) (h1 : (queue2 l).qOn 2 = true) (h2 : (queue2 l).portsOn = true)
    (h3 : (queue2 l).qOcc 2 + (1 + (n + 63) / 64) ≤ (queue2 l).qSize 2)
    (h4 : ((queue2 l).rg .weirQWr 2).toNat + (1 + (n + 63) / 64) ≤ 2 ^ 32) (h5 : flag ((queue2 l).rg .weirQCfg 2) 28 = false)
    (h6 : (queue2 l).qOwner 2 = none) : roomFor (queue2 l) 2 n :=
  ⟨⟨yes, h1, h2, h5, fun c hc => absurd (h6.symm.trans hc) nofun⟩, h3, h4⟩

/-- CSI-2 receiver 0 on, its first route of channel 1 to queue 2. -/
def csi : List (Reg × Nat × Word) := [(.csiCfg, 0, 1), (.csiRoute, 0, 0x2803)]

theorem wit_csi (h : Obligations.PacketsAreCommitted) :
    completes (queue2 csi) (.csiLongPacket 0 1 0x2A (List.replicate 65 7) false true) :=
  done ((h (queue2 csi) 2 yes).1 0 1 0x2A (List.replicate 65 7) false 0x2803 yes yes yes (room csi 65 yes yes yes yes yes yes))

theorem wit_frame_end (h : Obligations.PacketsAreCommitted) : completes (queue2 csi) (.csiShortPacket 0 1 1 (some 4)) :=
  done ((h (queue2 csi) 2 yes).2.1 0 1 4 yes yes (room csi 0 yes yes yes yes yes yes))

def eth : List (Reg × Nat × Word) := [(.ethIng, 5, 0x9)]

theorem wit_eth (h : Obligations.PacketsAreCommitted) :
    completes (queue2 eth) (.ethFrame 5 (List.replicate 60 8) true .sgmii1000) :=
  done ((h (queue2 eth) 2 yes).2.2.1 5 (List.replicate 60 8) .sgmii1000 yes yes yes yes yes yes yes yes (room eth 60 yes yes yes yes yes yes))

def spi : List (Reg × Nat × Word) := [(.spiIng, 1, Word.ofNat (pack [(1, 0), (2, 6), (2, 14)]))]

/-- A transaction of SPI port 1 runs. -/
def spiRuns : State := { queue2 spi with ports := { spiBusy := [(1, true)] } }

theorem wit_spi_end (h : Obligations.PacketsAreCommitted) : completes spiRuns (.spiTransactionEnd 1 [1, 2, 3]) :=
  done ((h spiRuns 2 yes).2.2.2.1 1 [1, 2, 3] yes yes yes
    ⟨⟨yes, yes, yes, yes, fun c hc => absurd hc nofun⟩, yes, yes⟩)

/-- An open packet whose header line is line 8. -/
def received (bs : List Byte) : UartRx := { bytes := bs, stamp := 77, last := 0, start := 8, held := true }

/-- UART 3 feeds queue 2 in packets of up to 3 bytes or to a line feed, and has some. -/
def uartHas (bs : List Byte) : State :=
  { queue2 [(.uartIng, 3, Word.ofNat (pack [(3, 0), (10, 2), (2, 10), (2, 16)]))] with
    ports := { uart := [(3, received bs)] }, clock := { elapsed := 2 ^ 64 } }

theorem uart_open (bs : List Byte) (h1 : (uartHas bs).qOn 2 = true) (h2 : (uartHas bs).portsOn = true)
    (h3 : flag ((uartHas bs).rg .weirQCfg 2) 28 = false) (h4 : (uartHas bs).qOwner 2 = none)
    (h5 : (uartHas bs).rg .weirQWr 2 = Word.ofNat (9 + bs.length / 64)) (h6 : (uartHas bs).qOcc 2 + 1 ≤ (uartHas bs).qSize 2)
    (h7 : 10 + bs.length / 64 ≤ 2 ^ 32) : openIn (uartHas bs) 2 (received bs) :=
  ⟨⟨yes, h1, h2, h3, fun c hc => absurd (h4.symm.trans hc) nofun⟩, rfl, h5, h6, h7⟩

theorem wit_uart_end (h : Obligations.PacketsAreCommitted) : completes (uartHas [1]) (.uartByte 3 10 true) :=
  done (((h (uartHas [1]) 2 yes).2.2.2.2 3 (received [1]) 10 true yes yes yes).1 yes (.inl yes)
    (uart_open [1] yes yes yes yes yes yes yes))

theorem wit_uart_full (h : Obligations.PacketsAreCommitted) : completes (uartHas [1, 2]) (.uartByte 3 3 true) :=
  done (((h (uartHas [1, 2]) 2 yes).2.2.2.2 3 (received [1, 2]) 3 true yes yes yes).1 yes (.inr yes)
    (uart_open [1, 2] yes yes yes yes yes yes yes))

theorem wit_uart_idle (h : Obligations.PacketsAreCommitted) : completes (uartHas [1, 2]) (.uartIdleClose 3) :=
  done (((h (uartHas [1, 2]) 2 yes).2.2.2.2 3 (received [1, 2]) 3 true yes yes yes).2 yes
    (uart_open [1, 2] yes yes yes yes yes yes yes))

theorem wit_spi_start (h : Obligations.PortsBetweenPackets) : completes (queue2 spi) (.spiTransactionStart 1) :=
  done ((((h (queue2 spi) yes yes).1 1 yes).2 yes yes).1 yes)

theorem wit_spi_skip (h : Obligations.PortsBetweenPackets) : completes spiRuns (.spiTransactionStart 1) :=
  done ((((h spiRuns yes yes).1 1 yes).2 yes yes).2 yes)

theorem wit_spi_trig (h : Obligations.PortsBetweenPackets) : completes (queue2 [(.spiIng, 1, 3)]) (.spiTransactionStart 1) :=
  done (((h (queue2 [(.spiIng, 1, 3)]) yes yes).1 1 yes).1 yes)

/-- The UART again, without its delimiter and in packets of up to 200 bytes. -/
def uartPlain (bs : List Byte) (l : List (Reg × Nat × Word) := []) : State :=
  { queue2 ([(.uartIng, 3, Word.ofNat (pack [(1, 0), (10, 2), (2, 10), (200, 16)]))] ++ l) with
    ports := { uart := [(3, received bs)] } }

theorem wit_uart_byte (h : Obligations.PortsBetweenPackets) : completes (uartPlain [1]) (.uartByte 3 10 true) :=
  done (((h (uartPlain [1]) yes yes).2.1 3 10 (received [1]) yes yes yes yes).1 (.inr yes))

theorem wit_uart_line (h : Obligations.PortsBetweenPackets) : completes (uartPlain (List.replicate 63 1)) (.uartByte 3 10 true) :=
  done (((h (uartPlain (List.replicate 63 1)) yes yes).2.1 3 10 (received (List.replicate 63 1)) yes yes yes yes).2.1
    ⟨⟨yes, yes, yes, yes, fun c hc => absurd hc nofun⟩, rfl, yes, yes, yes⟩ yes)

theorem wit_uart_abandon (h : Obligations.PortsBetweenPackets) :
    completes (uartPlain (List.replicate 63 1) [(.weirQSize, 2, 3)]) (.uartByte 3 10 true) :=
  done (((h (uartPlain (List.replicate 63 1) [(.weirQSize, 2, 3)]) yes yes).2.1 3 10 (received (List.replicate 63 1)) yes yes yes
    yes).2.2 rfl yes yes yes)

theorem wit_csi_other (h : Obligations.PortsBetweenPackets) : completes (queue2 csi) (.csiShortPacket 0 1 2 (some 4)) :=
  done ((h (queue2 csi) yes yes).2.2.1 0 1 2 (some 4) yes yes yes)

theorem wit_can (h : Obligations.PortsBetweenPackets) : completes State.reset (.canFrameReceive 7 0x7FF false [1] true) :=
  done ((h State.reset yes yes).2.2.2.1 7 0x7FF false [1]).1

theorem wit_can_bad (h : Obligations.PortsBetweenPackets) : completes State.reset (.canFrameReceive 7 0x7FF false [1] false) :=
  done ((h State.reset yes yes).2.2.2.1 7 0x7FF false [1]).2

def canFrame : CanFrame := { output := 0, ident := 5, xtd := false, fdf := false, brs := false, data := [1] }

def canSends : State := { State.reset with reflex := { canTx := [(2, [canFrame])] } }

theorem wit_can_transmit (h : Obligations.PortsBetweenPackets) : completes canSends (.canTransmit 2) :=
  done ((h canSends yes yes).2.2.2.2.1 2 canFrame [] yes)

theorem wit_event_sent (h : Obligations.PortsBetweenPackets) : completes State.reset (.eventMessageSent 0 ⟨3, 9⟩ .usx10g) :=
  done (((h State.reset yes yes).2.2.2.2.2.1 0 ⟨3, 9⟩ .usx10g yes yes yes).2 yes)

/-- MAC 0 honours a PAUSE until 500 ns. -/
def paused : State := { State.reset with ports := { paused := [(0, 500)] } }

theorem wit_event_paused (h : Obligations.PortsBetweenPackets) : completes paused (.eventMessageSent 0 ⟨3, 9⟩ .usx10g) :=
  done ((h paused yes yes).2.2.2.2.2.1 0 ⟨3, 9⟩ .usx10g yes yes yes).1

/-- A PAUSE frame of 2 quanta (IEEE 802.3). -/
def pauseFrame : List Byte := [1, 0x80, 0xC2, 0, 0, 1, 2, 0, 0, 0, 0, 1, 0x88, 8, 0, 1, 0, 2] ++ List.replicate 42 0

theorem wit_pause_frame (h : Obligations.PortsBetweenPackets) : completes State.reset (.ethFrame 0 pauseFrame true .usx10g) :=
  done ((h State.reset yes yes).2.2.2.2.2.2 0 pauseFrame .usx10g yes yes yes yes yes)

/-! ## The Gridder and the planner -/

/-- FP32 one. -/
def one : Nat := 0x3F800000

/-- The identity of the placement and the intrinsics of a pinhole camera of 640 by 480 pixels (Table 12.2). -/
def camera : List Byte := bytesOf 128 (pack [(one, 0), (one, 160), (one, 320), (one, 480), (one, 512), (one, 544),
  (640, 960), (480, 976), (one, 992)])

/-- SCATTER of one point into 16 by 16 by 1 cells of 1 m, from page 1 to pages 2 and 3. -/
def gdesc : List Byte := bytesOf 128 (pack [(15, 32), (15, 44), (0x1_0040, 64), (0x2_0000, 128), (0x3_0008, 192), (1, 256),
  (one, 288), (one, 416), (9, 448)])

/-- Context 1 with pages 1 to 3 and 5 at the Gridder's stop, the descriptor and one point in page 1. -/
def grids (g : Grid) : State := { idle1 with
  grid := g
  mem := ram ([(tile 500, gdesc), (tile 500 + 64, bytesOf 16 (pack [(0x3F000000, 0), (0x3FC00000, 32), (0x3F000000, 64),
    (0x40E00000, 96)]))] ++ leaves [(1, 500), (2, 501), (3, 502), (5, 503)])
  xlat := { tlb := [page Stop.grid 1 0x1_0000 (tile 500), page Stop.grid 1 0x2_0000 (tile 501),
                    page Stop.grid 1 0x3_0000 (tile 502), page Stop.grid 1 0x5_0000 (tile 503)]
            walk := [(1, 0, tile 301)] } }

theorem wit_grid_submit (h : Obligations.GridRequestsRun) :
    completes { (grids {}) with mem := ram [(tile 500, gdesc)] } (.gridSubmit host 1 0x1_0000) :=
  done ((h { (grids {}) with mem := ram [(tile 500, gdesc)] } yes).1 host 1 0x1_0000
    (State.peek { (grids {}) with mem := ram [(tile 500, gdesc)] } (tile 500) 128) yes ⟨yes, yes⟩ yes yes yes
    ⟨yes, yes, tile 500, yes, clean, rfl⟩)

def greq (c : Nat) : GridReq := { who := 1, ctx := c, desc := gdesc }

/-- The one request queued comes first. -/
theorem alone {s : State} {c : Nat} (hq : s.grid.queue = [greq c]) (j : Nat) (q : GridReq) (hj : s.grid.queue[j]? = some q)
    (_ : s.gridQueued j = true) : (s.ctx (greq c).ctx).desc.cls < (s.ctx q.ctx).desc.cls ∨
      (s.ctx (greq c).ctx).desc.cls = (s.ctx q.ctx).desc.cls ∧ 0 ≤ j := by
  rw [hq] at hj
  match j with
  | 0 => exact .inr ⟨(Option.some.inj hj : greq c = q) ▸ rfl, Nat.zero_le _⟩
  | _ + 1 => exact nomatch hj

def tables1 : Sparse GridTable := [(0, { active := camera, gen := 5, valid := true })]

theorem wit_grid_start (h : Obligations.GridRequestsRun) :
    completes (grids { queue := [greq 1], tables := tables1 }) .gridRequestStart :=
  done (((h (grids { queue := [greq 1], tables := tables1 }) yes).2.1 0 (greq 1) yes yes yes yes (alone rfl) yes).1 yes)

/-- A SCATTER of 16,390 points, 4 of them left before the boundary, is running. -/
def far : GridReq := { greq 1 with desc := gdesc.take 32 ++ bytesOf 4 16390 ++ gdesc.drop 36, started := true, done := 16380 }

def yields (c : Nat) : State := { grids { queue := [greq c], running := some far, tables := tables1 } with
  ctxs := [(1, (idle1.ctx 1)), (2, { st := .ready, desc := { desc3 with cls := 1 } }), (1023, Context.migration)] }

theorem wit_grid_yield (h : Obligations.GridRequestsRun) : completes (yields 2) .gridRequestStart :=
  done ((((h (yields 2) yes).2.1 0 (greq 2) yes yes yes yes (alone rfl) yes).2 far yes).1 ((yields 2).peek (tile 503) 64)
    ((yields 2).peek (tile 501) 1024) (tile 503) (tile 501) _ _ yes yes yes ⟨yes, yes, tile 503, yes, clean, yes⟩ pass
    ⟨yes, yes, tile 501, yes, clean, yes⟩ pass yes yes gap)

theorem wit_grid_keep (h : Obligations.GridRequestsRun) : completes (yields 1) .gridRequestStart :=
  done ((((h (yields 1) yes).2.1 0 (greq 1) yes yes yes yes (alone rfl) yes).2 far yes).2 (.inl yes))

def scatters : State := grids { running := some { greq 1 with table := camera, gen := 5, started := true } }

theorem wit_grid_complete (h : Obligations.GridRequestsRun) : completes scatters (.gridRequestComplete false) :=
  done ((h scatters yes).2.2 { greq 1 with table := camera, gen := 5, started := true } (scatters.peek (tile 500 + 64) 16)
    (tile 500 + 64) (tile 501) (tile 502 + 8)
    _ _ _ yes yes yes yes ⟨yes, yes, tile 500 + 64, yes, clean, yes⟩ pass pass pass yes yes yes yes gap gap)

/-- Its point (0.5, 1.5, 0.5) lies in row 1 and column 0, with the value 7; no point of an element gives −∞ (R299). -/
theorem test_scatter : (scatter { greq 1 with table := camera } (greq 1).blank (scatters.peek (tile 500 + 64) 16)).1.take 68 =
    (List.replicate 16 [0x00, 0x00, 0x80, 0xFF]).flatten ++ [0x00, 0x00, 0xE0, 0x40] := yes

theorem wit_table_load (h : Obligations.TablesAndAlignment) : completes (grids {}) (.gridLoad host 255 (tile 500)) :=
  done ((h.1 (grids {}) host ⟨yes, yes⟩).1 255 (tile 500) yes yes yes clean)

def shadows : State := grids { tables := [(254, { shadow := camera, gen := 65535 }), (255, { shadow := camera })] }

theorem wit_table_commit (h : Obligations.TablesAndAlignment) : completes shadows (.gridCommit host 254 1) :=
  done (((h.1 shadows host ⟨yes, yes⟩).2 254 1 yes yes).1 ⟨yes, yes⟩)

theorem wit_table_refused (h : Obligations.TablesAndAlignment) : completes shadows (.gridCommit host 253 1) :=
  done (((h.1 shadows host ⟨yes, yes⟩).2 253 1 yes yes).2 yes)

theorem wit_table_end (h : Obligations.TablesAndAlignment) : completes shadows (.gridCommit host 255 1) :=
  done (((h.1 shadows host ⟨yes, yes⟩).2 255 1 yes yes).2 yes)

/-- The alignment entry of queue 63, with a period of 100 ns. -/
def aligns (cfg : Word) : State := withRegs [(.gridAlignCfg, 63, cfg), (.gridAlignPeriod, 63, 100)]

theorem wit_delta_trig (h : Obligations.TablesAndAlignment) : completes (aligns 3) (.alignDeltaWrite host 63 1) :=
  done ((h.2 (aligns 3) host 63 1 ⟨yes, yes⟩).1 yes)

theorem wit_delta_off (h : Obligations.TablesAndAlignment) : completes (aligns 0) (.alignDeltaWrite host 63 1) :=
  done (((h.2 (aligns 0) host 63 1 ⟨yes, yes⟩).2 yes yes).1 (.inl yes))

theorem wit_delta_kept (h : Obligations.TablesAndAlignment) :
    completes (aligns 1) (.alignDeltaWrite host 63 (Word.ofNat (2 ^ 32 - 100))) :=
  done (((h.2 (aligns 1) host 63 (Word.ofNat (2 ^ 32 - 100)) ⟨yes, yes⟩).2 yes yes).1 (.inr ⟨yes, yes, yes⟩))

theorem wit_delta_out (h : Obligations.TablesAndAlignment) :
    completes (aligns 1) (.alignDeltaWrite host 63 (Word.ofNat (2 ^ 31 + 101))) :=
  done (((h.2 (aligns 1) host 63 (Word.ofNat (2 ^ 31 + 101)) ⟨yes, yes⟩).2 yes yes).2 yes yes (.inl yes))

/-- VERIFY of a trajectory, in order: states in pages 16 to 31, spills in pages 32 to 39, the tile in page 4, the record in
page 5. -/
def pdesc : List Byte := bytesOf 256 (pack [(2, 0), (0xFFFF, 32), (1, 96), (10 ^ 9, 128), (4000, 256), (one, 288),
  (one, 416), (one, 448), (one, 480), (one, 512), (one, 544), (one, 576), (one, 608), (0x10_0000, 832), (0x20_0000, 896),
  (0x4_0000, 960), (0x5_0040, 1024), (1, 1232)])

/-- Context 1 with that descriptor in page 1; its level-2 table in tile 301 pins pages 16 to 39, tiles 616 to 639. -/
def plans (p : Plan) : State := { idle1 with
  plan := p
  mem := ram ((tile 500, pdesc) :: leaves [(1, 500), (4, 501), (5, 502)] ++
    (List.range 24).map fun i => (tile 301 + (16 + i) * 8, bytesOf 8 (tile (616 + i) + 5)))
  xlat := { tlb := [page Stop.plan 1 0x1_0000 (tile 500), page Stop.plan 1 0x4_0000 (tile 501),
                    page Stop.plan 1 0x5_0000 (tile 502)]
            walk := [(1, 0, tile 301)], pins := (List.range 24).map fun i => (8192 + 616 + i, true) } }

theorem pinned_all {s : State} {c n : Nat} {f g : Nat → Nat} (w : Nat × Nat × Nat)
    (h : ∀ i < n, s.xlat.walk.find? (fun w => w.1 = c && w.2.1 = f i / 2 ^ 29) = some w ∧
      (let pa := w.2.2 + f i / 65536 % 8192 * 8
       (regionAt pa = some .basin ∨ regionAt pa = some .psram ∧ s.backed pa = true) ∧ s.sound pa 8 ∧
       leafOk (s.peekNat pa 8) = true ∧ flag (BitVec.ofNat 64 (s.peekNat pa 8)) 2 = true ∧
       flag (BitVec.ofNat 64 (s.peekNat pa 8)) 5 = false ∧ tilePa (s.peekNat pa 8) = g i ∧ s.pinned (g i) = true)) :
    ∀ i < n, s.pinnedAt c (f i) (g i) := fun i hi => ⟨w, h i hi⟩

theorem wit_plan_submit (h : Obligations.PlanRequestsEnd) : completes (plans {}) (.planSubmit host 1 0x1_0000) :=
  done ((h (plans {}) yes).1 host 1 0x1_0000 ((plans {}).peek (tile 500) 256) (fun i => tile (616 + i)) (fun i => tile (632 + i))
    id yes ⟨yes, yes⟩ yes yes yes (got (tile 500)) yes (.inl yes)
    (pinned_all (1, 0, tile 301) (by unfold State.sound; decide +kernel))
    (pinned_all (1, 0, tile 301) (by unfold State.sound; decide +kernel)) (fun hn => absurd yes hn))

def preq : PlanReq := { who := 8, ctx := 1, desc := pdesc.take 16 ++ List.replicate 8 0 ++ pdesc.drop 24, snap := 0, held := 0 }

theorem wit_plan_deadline (h : Obligations.PlanRequestsEnd) : completes (plans { requests := [preq] }) .planDeadline :=
  done ((h (plans { requests := [preq] }) yes).2 preq (tile 501) (tile 502 + 64) _ _ yes yes yes yes yes pass pass
    yes yes yes yes gap gap
    (fun pa hpa => by
      obtain rfl : tile 200 = pa := Option.some.inj ((by decide +kernel : _ = _).symm.trans hpa)
      exact gap))

/-- The host may command epochs; context 1 owns the world, and its page 1 holds six coordinates or a layer table. -/
def epochs (p : Plan) : State := { withRegs [(.planOwner, 0, 1), (.watchCfg, 3, 1), (.watchVaLo, 3, 0x70000)] idle1 with
  plan := p, mem := ram ((tile 500, List.replicate 24 1) :: leaves [(1, 500)])
  xlat := { tlb := [page Stop.plan 1 0x1_0000 (tile 500)], walk := [(1, 0, tile 301)] } }

theorem wit_open (h : Obligations.EpochCommandsMakeEpochs) : completes (epochs {}) (.openEpoch host) :=
  done (((h (epochs {}) host 0x1_0000 ⟨yes, yes⟩ yes).1 yes yes).1 yes)

def retained (n : Nat) : List Epoch := (List.range n).map fun i => { num := i, holds := if i = 0 then 0 else 1 }

theorem wit_open_waits (h : Obligations.EpochCommandsMakeEpochs) :
    completes (epochs { epochs := retained 64 }) (.openEpoch host) :=
  done (((h (epochs { epochs := retained 64 }) host 0x1_0000 ⟨yes, yes⟩ yes).1 yes yes).2 yes)

theorem wit_open_deferred (h : Obligations.EpochCommandsMakeEpochs) :
    completes (epochs { epochs := retained 64, openWaiting := some 1 }) .openDeferred :=
  done ((h (epochs { epochs := retained 64, openWaiting := some 1 }) host 0x1_0000 ⟨yes, yes⟩ yes).2.1 1 { num := 0 }
    ((retained 64).drop 1) yes yes yes yes yes yes)

def epoch1 : Epoch := { num := 1, created := [7] }

theorem wit_layers (h : Obligations.EpochCommandsMakeEpochs) :
    completes (epochs { openEpoch := some epoch1 }) (.epochLayers host 0x1_0000) :=
  done (((h (epochs { openEpoch := some epoch1 }) host 0x1_0000 ⟨yes, yes⟩ yes).2.2.1 epoch1 yes).1
    ((epochs { openEpoch := some epoch1 }).peek (tile 500) 256) (got (tile 500)))

theorem wit_dirty (h : Obligations.EpochCommandsMakeEpochs) :
    completes (epochs { openEpoch := some epoch1 }) (.epochDirty host 0x1_0000) :=
  done (((h (epochs { openEpoch := some epoch1 }) host 0x1_0000 ⟨yes, yes⟩ yes).2.2.1 epoch1 yes).2.1
    ((epochs { openEpoch := some epoch1 }).peek (tile 500) 24) (got (tile 500)) yes)

theorem wit_publish (h : Obligations.EpochCommandsMakeEpochs) :
    completes (epochs { openEpoch := some epoch1 }) (.epochPublish host) :=
  done (((h (epochs { openEpoch := some epoch1 }) host 0x1_0000 ⟨yes, yes⟩ yes).2.2.1 epoch1 yes).2.2.1 yes yes)

theorem wit_abandon (h : Obligations.EpochCommandsMakeEpochs) :
    completes (epochs { openEpoch := some epoch1 }) (.epochAbandon host) :=
  done (((h (epochs { openEpoch := some epoch1 }) host 0x1_0000 ⟨yes, yes⟩ yes).2.2.1 epoch1 yes).2.2.2.1)

theorem wit_open_twice (h : Obligations.EpochCommandsMakeEpochs) :
    completes (epochs { openEpoch := some epoch1 }) (.openEpoch host) :=
  done (((h (epochs { openEpoch := some epoch1 }) host 0x1_0000 ⟨yes, yes⟩ yes).2.2.1 epoch1 yes).2.2.2.2)

theorem wit_no_epoch (h : Obligations.EpochCommandsMakeEpochs) : completes (epochs {}) (.epochPublish host) :=
  done ((h (epochs {}) host 0x1_0000 ⟨yes, yes⟩ yes).2.2.2 yes (.epochPublish host) yes)

/-- An update of one item: the voxel at 0.1 m becomes OCCUPIED as one octant of the root, which is FREE. -/
def updates : State := { withRegs [(.planOwner, 0, 1), (.planNodeCount, 0, 100), (.planNodeLo, 0, 0x10_0000)] idle1 with
  plan := { openEpoch := some { num := 1, root := 0 }, nextNode := 2 }
  mem := ram ([(tile 500 + 256, bytesOf 16 (pack [(0x3DCCCCCD, 0), (0x3DCCCCCD, 32), (0x3DCCCCCD, 64), (0x11, 96)])),
    (tile 301 + 128, bytesOf 8 (tile 616 + 5))] ++ leaves [(1, 500), (5, 502)])
  xlat := { tlb := [page Stop.plan 1 0x1_0000 (tile 500), page Stop.plan 1 0x5_0000 (tile 502)]
            walk := [(1, 0, tile 301)], pins := [(8192 + 616, true)] } }

theorem wit_update (h : Obligations.UpdatesAndWatches)
    (hd : Config.updateDescriptor (updates.peek (tile 500) 256) = (0x1_0100, 1, 0x5_0010)) :
    completes updates (.voxelUpdate host 1 0x1_0000) :=
  done (h.1 updates host 0x1_0000 0x1_0100 0x5_0010 (tile 616) (tile 502 + 16) (updates.peek (tile 500) 256)
    (updates.peek (tile 500 + 256) 16) { num := 1, root := 0 } 2 2 2 (tile 301 + 40) ⟨yes, yes⟩ yes yes yes yes
    (got (tile 500)) hd (got (tile 500 + 256)) yes yes yes yes yes yes yes yes yes ⟨_, rfl, yes, clean, yes, yes, yes, yes, yes⟩ yes pass yes yes gap)

/-- Watch 3 of context 1 has a latched trajectory; its descriptor and model are in page 1. -/
def watches : State :=
  { withRegs [(.watchCfg, 3, 3), (.watchDescLo, 3, 0x1_0000), (.watchVaLo, 3, 0x7_0000)] idle1 with
    plan := { watches := [(3, { latchedVa := some 0x7_0000, checks := 65535, firstHit := 4 })] }
    mem := ram ((tile 500 + 0x58, bytesOf 8 0x1_1000) :: leaves [(1, 500), (7, 504)])
    xlat := { tlb := [page Stop.plan 1 0x1_0000 (tile 500), page Stop.plan 1 0x7_0000 (tile 504)], walk := [(1, 0, tile 301)] } }

theorem wit_watch (h : Obligations.UpdatesAndWatches) : completes watches (.watchCheck 3) :=
  done (h.2 watches 3 0x7_0000 (watches.peek (tile 504) 65536) (watches.peek (tile 500) 256)
    (watches.peek (tile 500 + 0x1000) 2272) yes yes yes (got (tile 504)) (got (tile 500)) (got (tile 500 + 0x1000)) yes)

/-- The watch holds the one epoch that it is to check. -/
def holding : State := { watches with plan := { watches.plan with
  epochs := [{ num := 0, holds := 1 }], watches := [(3, { latchedVa := some 0x7_0000, held := some 0 })] } }

theorem wit_watch_held (h : Obligations.UpdatesAndWatches) : completes holding (.watchCheck 3) :=
  done (h.2 holding 3 0x7_0000 (holding.peek (tile 504) 65536) (holding.peek (tile 500) 256)
    (holding.peek (tile 500 + 0x1000) 2272) yes yes yes (got (tile 504)) (got (tile 500)) (got (tile 500 + 0x1000)) yes)

/-! ## Device time and the reflex lane -/

/-- Device time from samples of S0, with LASTOFS after elapsed time `t`. -/
def servo (c : Clock) : State := { withRegs [(.timeCfg, 0, 0x641482)] with clock := c }

theorem wit_ofs_other (h : Obligations.ServoFollowsSamples) : completes State.reset (.timeOfs host 5) :=
  done (((h State.reset).1 host 5 ⟨yes, yes⟩).1 (.inl yes))

theorem wit_ofs_big (h : Obligations.ServoFollowsSamples) : completes (servo {}) (.timeOfs host (BitVec.ofInt 32 (-1000000))) :=
  done ((((h (servo {})).1 host (BitVec.ofInt 32 (-1000000)) ⟨yes, yes⟩).2 yes yes).1 yes)

theorem wit_ofs_first (h : Obligations.ServoFollowsSamples) : completes (servo {}) (.timeOfs host 999999) :=
  done ((((h (servo {})).1 host 999999 ⟨yes, yes⟩).2 yes yes).2.1 yes (.inl yes))

theorem wit_ofs_stepped (h : Obligations.ServoFollowsSamples) : completes (servo { stepAt := some 0 }) (.timeOfs host 5) :=
  done (((h (servo { stepAt := some 0 })).1 host 5 ⟨yes, yes⟩).1 (.inr yes))

def sampled : Clock := { elapsed := 2 ^ 62, first := false, lastSample := some (2 ^ 61) }

theorem wit_ofs_servo (h : Obligations.ServoFollowsSamples) :
    completes (servo sampled) (.timeOfs host (BitVec.ofInt 32 (-70))) :=
  done ((((h (servo sampled)).1 host (BitVec.ofInt 32 (-70)) ⟨yes, yes⟩).2 yes yes).2.2 (2 ^ 61) yes yes yes)

theorem wit_holdover (h : Obligations.ServoFollowsSamples) :
    completes { State.reset with clock := { elapsed := 2000000000 * 2 ^ 32 } } .holdover :=
  done ((h { State.reset with clock := { elapsed := 2000000000 * 2 ^ 32 } }).2.1 yes)

theorem wit_oscillator (h : Obligations.ServoFollowsSamples) : completes State.reset .oscillatorFail :=
  done ((h State.reset).2.2 yes)

/-- Output 15 with START 1,000 and WIDTH 5, at a device time. -/
def output (ns : Nat) (x : Timed := {}) (cfg : Word := 0) : State :=
  { withRegs [(.toStartLo, 15, 1000), (.toWidth, 15, 5), (.toPeriod, 15, 99), (.toCfg, 15, cfg)] with
    clock := { elapsed := ns * 2 ^ 32, acc := BitVec.ofNat 64 (ns * 2 ^ 32), timed := [(15, x)] } }

theorem wit_to_arm (h : Obligations.TimedOutputsFire) : completes (output 1000) (.toArm host 15 1) :=
  done (((h (output 1000) 15).1 host 1 ⟨yes, yes⟩ yes).1 yes)

theorem wit_arm_late (h : Obligations.TimedOutputsFire) : completes (output 1001) (.toArm host 15 1) :=
  done (((h (output 1001) 15).1 host 1 ⟨yes, yes⟩ yes).1 yes)

theorem wit_arm_refused (h : Obligations.TimedOutputsFire) : completes (output 0) (.toArm host 15 2) :=
  done (((h (output 0) 15).1 host 2 ⟨yes, yes⟩ yes).2 yes yes)

theorem wit_lead (h : Obligations.TimedOutputsFire) :
    completes (output 1000 { next := some (3, 1000) } 2) (.timedOutputEdge 15) :=
  done ((h (output 1000 { next := some (3, 1000) } 2) 15).2.1 3 1000 yes yes yes yes)

theorem wit_trail (h : Obligations.TimedOutputsFire) :
    completes (output 1000 { trail := some 7, asserted := true }) (.timedOutputEdge 15) :=
  done ((h (output 1000 { trail := some 7, asserted := true }) 15).2.2 7 yes yes yes yes)

def wraps (n : Nat) : State := { withRegs [(.timeStepLo, 0, 0xFFFFFFFF), (.timeStepHi, 0, 0xFFFFFFFF)] with
  clock := { pend := n, acc := 0, elapsed := 2 ^ 65 } }

theorem wit_wrap (h : Obligations.DeviceTimeMovesAndIsCaptured) : completes (wraps 2) .timeCounterWrap :=
  done (((h.1 (wraps 2)).1 (.inl yes)).1 yes)

theorem wit_wrap_lost (h : Obligations.DeviceTimeMovesAndIsCaptured) : completes (wraps 3) .timeCounterWrap :=
  done (((h.1 (wraps 3)).1 (.inl yes)).2 yes)

theorem wit_ack (h : Obligations.DeviceTimeMovesAndIsCaptured) : completes (wraps 2) (.eraAck host 2) :=
  done (((h.1 (wraps 2)).2.1 host 2 ⟨yes, yes⟩ yes).1 yes)

theorem wit_ack_more (h : Obligations.DeviceTimeMovesAndIsCaptured) : completes (wraps 2) (.eraAck host 3) :=
  done (((h.1 (wraps 2)).2.1 host 3 ⟨yes, yes⟩ yes).2 yes)

theorem wit_step_go (h : Obligations.DeviceTimeMovesAndIsCaptured) : completes (wraps 0) (.stepGo host) :=
  done ((h.1 (wraps 0)).2.2 host ⟨yes, yes⟩ yes yes yes)

def captures (q : List (Nat × Bool)) : State := { withRegs [(.tcCfg, 4, 3)] with
  clock := { tc := [(4, q)], ptp := [(7, [(1, true, 2, 3)])], tcLast := [(4, 0)], elapsed := 4 * 2 ^ 32 } }

theorem wit_capture (h : Obligations.DeviceTimeMovesAndIsCaptured) : completes (captures []) (.captureEdge 4 true) :=
  done ((h.2 (captures [])).1 4 true yes (.inr yes) (.inr (fun e he => by
    obtain rfl : 0 = e := Option.some.inj ((by decide +kernel : _ = _).symm.trans he)
    exact yes)))

theorem wit_capture_full (h : Obligations.DeviceTimeMovesAndIsCaptured) :
    completes (captures (List.replicate 16 (1, true))) (.captureEdge 4 true) :=
  done ((h.2 (captures (List.replicate 16 (1, true)))).1 4 true yes (.inr yes) (.inr (fun e he => by
    obtain rfl : 0 = e := Option.some.inj ((by decide +kernel : _ = _).symm.trans he)
    exact yes)))

theorem wit_tc_pop (h : Obligations.DeviceTimeMovesAndIsCaptured) : completes (captures [(1, true)]) (.tcPop host 4) :=
  done ((h.2 (captures [(1, true)])).2.1 host 4 ⟨yes, yes⟩)

theorem wit_ptp_pop (h : Obligations.DeviceTimeMovesAndIsCaptured) : completes (captures []) (.ptpPop host 7) :=
  done ((h.2 (captures [])).2.2 host 7 ⟨yes, yes⟩)

/-- A leash's descriptor: PERIOD 50, BUDGET 1, cell 0, one input, one output, context 1 (Table 10.2). -/
def ldesc : List Byte := bytesOf 64 (pack [(50, 0), (1, 36), (1, 52), (1, 57), (1, 96)])

/-- Its input: 4 bytes from offset 1 of frames with identifier 5 at CAN controller 2; its output: 2 bytes at SPI port 3
(Tables 10.3, 10.4). -/
def lentries : List (Nat × List Byte) :=
  [(0x4_0000, ldesc), (0x4_0040, bytesOf 16 (pack [(1, 0), (2, 4), (5, 8), (1, 40), (4, 46)])),
   (0x4_0140, bytesOf 16 (pack [(3, 0), (3, 4), (2, 46)]))]

/-- Leash 0 in a state, its descriptor in slice 0; context 1 is of class 0 and READY. -/
def leashed (l : Leash) (r : Nat := 0) (regs : List (Reg × Nat × Word) := []) : State := { withRegs regs with
  ctxs := [(1, { st := .ready, desc := { desc3 with cls := 0 } }), (1023, Context.migration)]
  mem := ram (lentries.map fun e => (slicePa 0 e.1, e.2))
  reflex := { slot := 49, leashes := [(0, l)], triads := [(0, { state := r })] } }

theorem wit_bind (h : Obligations.LeashCommandsSetTheMode) : completes (leashed {}) (.leashBind host 0) :=
  done ((((h (leashed {}) host 0 ⟨yes, yes⟩).1 yes)).1 yes yes)

theorem wit_bind_refused (h : Obligations.LeashCommandsSetTheMode) : completes (leashed {}) (.leashBind host 1) :=
  done ((((h (leashed {}) host 1 ⟨yes, yes⟩).1 yes)).2.1 yes)

theorem wit_unbind (h : Obligations.LeashCommandsSetTheMode) :
    completes (leashed { mode := 2, latch := true }) (.leashUnbind host 0) :=
  done ((((h (leashed { mode := 2, latch := true }) host 0 ⟨yes, yes⟩).1 yes)).2.2.1 yes yes)

theorem wit_unbind_refused (h : Obligations.LeashCommandsSetTheMode) :
    completes (leashed { mode := 1 }) (.leashUnbind host 0) :=
  done ((((h (leashed { mode := 1 }) host 0 ⟨yes, yes⟩).1 yes)).2.2.2.1 (.inr ⟨yes, yes⟩))

theorem wit_resume_leash (h : Obligations.LeashCommandsSetTheMode) :
    completes (leashed { mode := 2, latch := true, cause := 7, causeNs := 5 }) (.leashResume host 0) :=
  done (((((h (leashed { mode := 2, latch := true, cause := 7, causeNs := 5 }) host 0 ⟨yes, yes⟩).1 yes)).2.2.2.2.1 yes yes yes yes).1 yes)

theorem wit_resume_late (h : Obligations.LeashCommandsSetTheMode) :
    completes (leashed { mode := 2, latch := true, cause := 7 }) (.leashResume host 0) :=
  done (((((h (leashed { mode := 2, latch := true, cause := 7 }) host 0 ⟨yes, yes⟩).1 yes)).2.2.2.2.1 yes yes yes yes).2 yes)

theorem wit_stop (h : Obligations.LeashCommandsSetTheMode) : completes (leashed { mode := 1 }) (.leashStop host 0) :=
  done ((((h (leashed { mode := 1 }) host 0 ⟨yes, yes⟩).1 yes)).2.2.2.2.2.1 yes yes yes)

theorem wit_stop_killed (h : Obligations.LeashCommandsSetTheMode) :
    completes (leashed { mode := 2, latch := true, cause := 8 }) (.leashStop host 0) :=
  done ((((h (leashed { mode := 2, latch := true, cause := 8 }) host 0 ⟨yes, yes⟩).1 yes)).2.2.2.2.2.2.1 yes yes yes)

theorem wit_stop_unbound (h : Obligations.LeashCommandsSetTheMode) : completes (leashed {}) (.leashStop host 0) :=
  done ((((h (leashed {}) host 0 ⟨yes, yes⟩).1 yes)).2.2.2.2.2.2.2 yes _ yes)

/-- The CRC register that is zero stays so over zero bytes. -/
theorem crc_zeros (n : Nat) : (List.replicate n (0 : Byte)).foldl
    (fun c b => (List.range 8).foldl (fun c _ => crc32Step c) (c ^^^ b.zeroExtend 32)) 0#32 = 0#32 := by
  induction n with
  | zero => rfl
  | succ n ih =>
    rw [List.replicate_succ, List.foldl_cons]
    exact (congrArg (fun c : Word => (List.replicate n (0 : Byte)).foldl _ c) yes).trans ih

theorem crc_ones (n : Nat) : crc32 (List.replicate 4 255 ++ List.replicate n 0) = 0xFFFFFFFF := by
  unfold crc32
  rw [List.foldl_append, show (List.replicate 4 (255 : Byte)).foldl _ _ = 0#32 from yes, crc_zeros]
  rfl

theorem load_zeros {m : List Host.Cell} {a n k : Nat} (hw : Memory.wf m = true) (h : ∀ c ∈ m, c.1 < a + k) :
    (Memory.load 0 m a n).drop k = List.replicate (n - k) 0 := by
  rw [Memory.load_eq hw]
  apply List.ext_getElem
  · simp
  · intro i h1 h2
    simp only [List.getElem_drop, List.getElem_map, List.getElem_range, List.getElem_replicate]
    exact Memory.byteOr_none _ _ fun c hc => by have := h c hc; omega
/-- A trajectory in order, of one stop sample that begins with a word of ones, in the lower tile of leash 0 in slice 0, the
one member left. -/
def commits (magic : Nat) : State := { leashed { mode := 1, liveHigh := true } 1 [(.refxSlice, 0, 0x2A29)] with
  mem := ram [(slicePa 0 0x8_0000, bytesOf 36 (pack [(magic, 0), (1024, 32), (1, 128), (1, 256)])),
    (slicePa 0 0x8_0030, bytesOf 4 0xFFFFFFFF), (slicePa 0 0x8_0100, bytesOf 4 0xFFFFFFFF)] }

theorem wit_commit_bad (h : Obligations.LeashCommandsSetTheMode) : completes (commits 1) (.leashCommit host 0) :=
  done ((h (commits 1) host 0 ⟨yes, yes⟩).2.2.1 Code.faultXlat yes yes)

theorem commits_crc : crc32 (((commits 0x314A5254).peek (slicePa 0 0x8_0000) 65536).drop 0x100) = 0xFFFFFFFF := by
  have e := List.take_append_drop 4 (((commits 0x314A5254).peek (slicePa 0 0x8_0000) 65536).drop 0x100)
  rw [← e, List.drop_drop, State.peek, load_zeros (k := 0x104) yes yes,
    show List.take 4 (List.drop 256 (Memory.load 0 (commits 0x314A5254).mem (slicePa 0 0x8_0000) 65536)) =
      List.replicate 4 255 from yes]
  exact crc_ones 65276

theorem commits_ok : commitCheck ((commits 0x314A5254).peek (slicePa 0 0x8_0000) 65536) = Code.ok := by
  unfold commitCheck
  rw [if_neg yes, commits_crc, if_neg yes]

theorem commits_all : ∀ c ∈ ((commits 0x314A5254).members 0).map fun m => commitCheck ((commits 0x314A5254).peek
    (slicePa m (trajTile 0 (!((commits 0x314A5254).leash 0).liveHigh))) 65536), c = Code.ok := by
  rw [show (commits 0x314A5254).members 0 = [0] from yes,
    show trajTile 0 (!((commits 0x314A5254).leash 0).liveHigh) = 0x8_0000 from yes]
  exact fun c hc => (List.mem_singleton.1 hc).trans commits_ok

theorem wit_commit (h : Obligations.LeashCommandsSetTheMode) : completes (commits 0x314A5254) (.leashCommit host 0) :=
  done ((h (commits 0x314A5254) host 0 ⟨yes, yes⟩).2.1 yes commits_all)

theorem wit_commit_unbound (h : Obligations.LeashCommandsSetTheMode) : completes (leashed {}) (.leashCommit host 0) :=
  done ((h (leashed {}) host 0 ⟨yes, yes⟩).2.2.2.1 yes)

theorem wit_not_privileged (h : Obligations.LeashCommandsSetTheMode) :
    completes (leashed {} 0 [(.sysGrant, 0, 0xFFFFFFFF)]) (.leashBind 2 0) :=
  done ((h (leashed {} 0 [(.sysGrant, 0, 0xFFFFFFFF)]) 2 0 ⟨yes, yes⟩).2.2.2.2 yes _ (.head _))

/-- A slot boundary has come. -/
def boundary (s : State) : State := { s with clock := { elapsed := 1000 * 2 ^ 32 } }

theorem wit_slot_quiet (h : Obligations.SlotsEmitAndInputsAreHeld) : completes (boundary (leashed {})) (.slotTick []) :=
  done (((h (boundary (leashed {})) yes yes).1 yes).1 yes)

def votes : State := leashed { mode := 1, sealed := some (50, [], []), voted := some (50, [[7, 8]]) }

theorem wit_slot (h : Obligations.SlotsEmitAndInputsAreHeld) : completes (boundary votes) (.slotTick []) :=
  done (((h (boundary votes) yes yes).1 yes).2 0 [7, 8] 3 yes yes yes yes yes yes yes yes yes yes yes yes)

theorem wit_input (h : Obligations.SlotsEmitAndInputsAreHeld) :
    completes votes (.reflexInputArrival (.can 2 5 false) [9, 8, 7, 6, 5]) :=
  done ((h votes yes yes).2 (.can 2 5 false) [9, 8, 7, 6, 5] 0 0 yes yes yes yes yes)

theorem wit_slice_write (h : Obligations.SliceMemoryIsWrittenInEveryMember) :
    completes (leashed {}) (.sliceSramWrite .kernel (slicePa 2 0x4_FFFF) [1]) :=
  done (((h (leashed {})).1 .kernel 2 0x4_FFFF [1] yes yes).1 0 yes yes nofun)

theorem wit_slice_refused (h : Obligations.SliceMemoryIsWrittenInEveryMember) :
    completes (leashed {}) (.sliceSramWrite .kernel (slicePa 2 0x4_FFFF) [1, 2]) :=
  done (((h (leashed {})).1 .kernel 2 0x4_FFFF [1, 2] yes yes).2 (.inr (.inl ⟨0, yes, yes⟩)))

theorem wit_reinit (h : Obligations.SliceMemoryIsWrittenInEveryMember) :
    completes (leashed {} 2) (.triadReinit host 0) :=
  done (((h (leashed {} 2)).2.1 host 0 0 1 2 ⟨yes, yes⟩ yes).1 yes)

theorem wit_reinit_bound (h : Obligations.SliceMemoryIsWrittenInEveryMember) :
    completes (leashed { mode := 1 } 2) (.triadReinit host 0) :=
  done (((h (leashed { mode := 1 } 2)).2.1 host 0 0 1 2 ⟨yes, yes⟩ yes).2 yes)

theorem wit_slice_barge (h : Obligations.SliceMemoryIsWrittenInEveryMember) :
    completes (leashed {}) (.sliceSramWrite (.barge 2) (slicePa 2 0x4_FFFF) [1]) :=
  done (((h (leashed {})).1 (.barge 2) 2 0x4_FFFF [1] yes yes).2 (.inr (.inr ⟨2, yes, yes⟩)))

theorem wit_rail (h : Obligations.SliceMemoryIsWrittenInEveryMember) : completes State.reset (.sliceRailLow 6) :=
  done ((h State.reset).2.2.1 6 yes yes)

theorem wit_ring (h : Obligations.SliceMemoryIsWrittenInEveryMember) : completes State.reset (.reflexRingLinkFailure 1) :=
  done (((h State.reset).2.2.2 1).2 yes)

theorem wit_ring_again (h : Obligations.SliceMemoryIsWrittenInEveryMember) :
    completes (withRegs [(.faultRetLink, 0, 0x80)]) (.reflexRingLinkFailure 1) :=
  done (((h (withRegs [(.faultRetLink, 0, 0x80)])).2.2.2 1).1 yes)

/-- Triad 0 has lost slice 1 and rebuilds slice 3. -/
def rebuilds (k : Rebuild) : State := { withRegs [(.refxSlice, 0, 0x15D9)] with
  mem := ram [(slicePa 0 5, [9]), (slicePa 3 6, [8])]
  reflex := { triads := [(0, { state := 1, gap := 1, rebuild := some (k, 3) })] } }

theorem wit_domain (h : Obligations.TriadsAreRebuilt) : completes (rebuilds .wake) (.spareDomainReady 0) :=
  done ((h (rebuilds .wake) 0 3 yes).1 yes)

theorem wit_self_test (h : Obligations.TriadsAreRebuilt) : completes (rebuilds .selfTest) (.selfTestComplete 0 true) :=
  done (((h (rebuilds .selfTest) 0 3 yes).2.1 yes).1 yes yes)

theorem wit_self_test_fails (h : Obligations.TriadsAreRebuilt) :
    completes (rebuilds .selfTest) (.selfTestComplete 0 false) :=
  done (((h (rebuilds .selfTest) 0 3 yes).2.1 yes).2 yes)

theorem wit_first_copy (h : Obligations.TriadsAreRebuilt) : completes (rebuilds .copy) (.firstCopyComplete 0) :=
  done ((h (rebuilds .copy) 0 3 yes).2.2.1 yes)

theorem wit_join (h : Obligations.TriadsAreRebuilt) : completes (rebuilds .quiet) (.rebuildJoin 0) :=
  done ((h (rebuilds .quiet) 0 3 yes).2.2.2 yes yes yes yes)

/-! ## The host link -/

/-- Every tile is LIVE where none was opened. -/
theorem live {s : State} (h : s.xlat.tags = []) (h' : s.xlat.flashTags = []) (a : Nat) : (s.tagAt a).1 = Tag.live := by
  have e (n : Nat) : Sparse.at ([] : Sparse (BitVec 16)) n 0 = 0 := rfl
  have z : field (0 : BitVec 16) 15 14 = Tag.live := yes
  unfold State.tagAt
  rw [h, h']
  cases tileNumber a with
  | some n => simp only [e, z]
  | none => simp only [e, z, ite_self]

/-- Whole words at the host's slots, a record in the telemetry FIFO, and staging of 16 tiles from PSRAM tile 100 on. -/
def linked (x : Sdio) (regs : List (Reg × Nat × Word) := []) : State :=
  { withRegs ([(.sdioStageBase, 0, 8292), (.sdioStageSize, 0, 16), (.sdioStagePtr, 0, 0xF_FFF0)] ++ regs) with sdio := x }

theorem wit_cmd5 (h : Obligations.SdioBusCommandsAnswer) : completes State.reset .cmd5 :=
  done (h State.reset yes yes).1

theorem wit_cmd11 (h : Obligations.SdioBusCommandsAnswer) : completes State.reset .cmd11 :=
  done (h State.reset yes yes).2.1

theorem wit_cmd19 (h : Obligations.SdioBusCommandsAnswer) : completes (linked { speed := 2 }) .cmd19 :=
  done ((h (linked { speed := 2 }) yes yes).2.2.1 yes)

theorem wit_win_write (h : Obligations.SdioBusCommandsAnswer) : completes State.reset (.cmd52Win true 0x0A) :=
  done ((h State.reset yes yes).2.2.2.1 0x0A).1

theorem wit_win_read (h : Obligations.SdioBusCommandsAnswer) : completes (linked {} [(.sdioWin, 0, 7)]) (.cmd52Win false 0) :=
  done ((h (linked {} [(.sdioWin, 0, 7)]) yes yes).2.2.2.1 0).2.1

theorem wit_ioe (h : Obligations.SdioBusCommandsAnswer) : completes State.reset (.functionEnable 0xFF) :=
  done (((h State.reset yes yes).2.2.2.1 0xFF).2.2.1 _ (.head _))

theorem wit_ioe_cccr (h : Obligations.SdioBusCommandsAnswer) : completes State.reset (.cccrWrite 0x02 6) :=
  done (((h State.reset yes yes).2.2.2.1 6).2.2.1 _ (.tail _ (.head _)))

theorem wit_ien (h : Obligations.SdioBusCommandsAnswer) : completes State.reset (.cccrWrite 0x04 0xFF) :=
  done ((h State.reset yes yes).2.2.2.1 0xFF).2.2.2.1

theorem wit_width (h : Obligations.SdioBusCommandsAnswer) : completes State.reset (.cccrWrite 0x07 2) :=
  done (((h State.reset yes yes).2.2.2.1 2).2.2.2.2.1 yes)

theorem wit_width_other (h : Obligations.SdioBusCommandsAnswer) : completes State.reset (.cccrWrite 0x07 3) :=
  done (((h State.reset yes yes).2.2.2.1 3).2.2.2.2.2.1 yes)

theorem wit_speed (h : Obligations.SdioBusCommandsAnswer) : completes State.reset (.cccrWrite 0x13 6) :=
  done (((h State.reset yes yes).2.2.2.1 6).2.2.2.2.2.2 yes)

theorem wit_res (h : Obligations.SdioBusCommandsAnswer) :
    completes (linked { ioe := 2, ring := { wr := 3 }, fifo := [[1]], ram := Memory.store 0 [] 0x800 [1, 2] }) .sdioRes :=
  done ((h (linked { ioe := 2, ring := { wr := 3 }, fifo := [[1]], ram := Memory.store 0 [] 0x800 [1, 2] }) yes yes).2.2.2.2 yes)

theorem wit_slot_write (h : Obligations.SdioFunctionsTransfer) :
    completes (linked {}) (.cmd53 true false 0x4FF8 8 [1, 2, 3, 4, 5, 6, 7, 8]) :=
  done (((h (linked {}) yes yes).1 0x4FF8 [1, 2, 3, 4, 5, 6, 7, 8] yes yes yes yes).1)

theorem wit_abort (h : Obligations.SdioFunctionsTransfer) :
    completes (linked { transfer := some (1, false, 0x1004, 3) }) (.sdioAbort 1 [1, 2, 3, 4]) :=
  done (((h (linked { transfer := some (1, false, 0x1004, 3) }) yes yes).1 0x1004 [1, 2, 3, 4] yes yes yes yes).2 3 yes)

theorem wit_ram_read (h : Obligations.SdioFunctionsTransfer) :
    completes (linked { ram := Memory.store 0 [] 0x802 [1, 2] }) (.cmd53 false false 0x800 8 []) :=
  done ((h (linked { ram := Memory.store 0 [] 0x802 [1, 2] }) yes yes).2.1 0x800 8 yes yes yes yes yes)

theorem wit_aperture (h : Obligations.SdioFunctionsTransfer) :
    completes (linked {} [(.sdioWin, 0, 14)]) (.cmd53 false true 0x1_0040 4 []) :=
  done ((h (linked {} [(.sdioWin, 0, 14)]) yes yes).2.2.1 true 0x1_0040 .sdioStageBase 0 0 yes yes yes yes yes yes nofun yes)

theorem wit_not_words (h : Obligations.SdioFunctionsTransfer) : completes (linked {}) (.cmd53 false false 0x1000 6 []) :=
  done ((h (linked {}) yes yes).2.2.2.1 false false 0x1000 6 [] yes (.inr yes))

theorem wit_records (h : Obligations.SdioFunctionsTransfer) :
    completes (linked { fifo := [List.replicate 128 3, List.replicate 128 4] }) (.telemetryRead 128) :=
  done ((h (linked { fifo := [List.replicate 128 3, List.replicate 128 4] }) yes yes).2.2.2.2.1 1 yes yes)

theorem wit_stage_write (h : Obligations.SdioFunctionsTransfer) :
    completes (linked {}) (.stagingTransfer true 16 (List.replicate 16 9)) :=
  done (((h (linked {}) yes yes).2.2.2.2.2 16 (tile 115 + 0xFFF0) (List.replicate 16 9) yes yes yes).1 yes
    fun a _ _ => live rfl rfl a)

theorem wit_stage_read (h : Obligations.SdioFunctionsTransfer) : completes (linked {}) (.stagingTransfer false 16 []) :=
  done (((h (linked {}) yes yes).2.2.2.2.2 16 (tile 115 + 0xFFF0) [] yes yes yes).2 clean)

/-- Slot 15 holds a command of OP `op` with its payload. -/
def slot15 (op tmo : Nat) (payload : List Byte) : List Host.Cell :=
  Memory.store 0 [] (slotBase 15) (bytesOf 16 (pack [(op, 0), (payload.length, 16), (77, 32), (tmo, 64)]) ++ payload)

/-- That command has been submitted. -/
def mailed (op : Nat) (payload : List Byte) : State :=
  linked { ram := slot15 op 0 payload, cmds := [{ slot := 15, deadline := none }], ring := { wr := 70, cons := 7 } }
    [(.secStat, 0, 8)]

theorem wit_nop (h : Obligations.MailboxCommandsComplete) : completes (mailed 1 [5, 6, 7]) (.mbNop 15) :=
  done ((h (mailed 1 [5, 6, 7]) 15 1 false ⟨yes, yes, yes, yes, yes, yes, yes, yes⟩).1 yes)

theorem wit_info (h : Obligations.MailboxCommandsComplete) : completes (mailed 2 []) (.mbInfo 15) :=
  done ((h (mailed 2 []) 15 2 false ⟨yes, yes, yes, yes, yes, yes, yes, yes⟩).2.1 yes)

def loads1 (s : State) : State := { s with progs := [(3, prog1)] }

theorem wit_unload (h : Obligations.MailboxCommandsComplete) : completes (loads1 (mailed 0x11 [3, 0])) (.unloadProg 15) :=
  done ((h (loads1 (mailed 0x11 [3, 0])) 15 0x11 false ⟨yes, yes, yes, yes, yes, yes, yes, yes⟩).2.2.2.1 yes prog1 yes)

theorem wit_attest (h : Obligations.MailboxCommandsComplete) :
    completes (mailed 0x20 (List.replicate 32 1 ++ bytesOf 8 0x40)) (.attest 15) :=
  done ((h (mailed 0x20 (List.replicate 32 1 ++ bytesOf 8 0x40)) 15 0x20 false ⟨yes, yes, yes, yes, yes, yes, yes, yes⟩).2.2.2.2.1
    yes (tile 100 + 0x40) yes yes yes yes fun a _ _ => live rfl rfl a)

theorem wit_nor (h : Obligations.MailboxCommandsComplete) :
    completes (mailed 0x30 (bytesOf 8 0x10 ++ bytesOf 4 0x100 ++ bytesOf 4 8)) (.norWrite 15 true) :=
  done ((h (mailed 0x30 (bytesOf 8 0x10 ++ bytesOf 4 0x100 ++ bytesOf 4 8)) 15 0x30 false
    ⟨yes, yes, yes, yes, yes, yes, yes, yes⟩).2.2.2.2.2.1 yes (tile 100 + 0x10) yes clean)

theorem wit_tel_cfg (h : Obligations.MailboxCommandsComplete) : completes (mailed 0x40 [1, 2]) (.telCfg 15) :=
  done ((h (mailed 0x40 [1, 2]) 15 0x40 false ⟨yes, yes, yes, yes, yes, yes, yes, yes⟩).2.2.2.2.2.2 yes)

/-- The neutral point of Ed448 as 57 bytes: as a key it verifies, with R the neutral point and S zero, any message. -/
def neutral : List Byte := bytesOf 57 1

theorem mul_neutral (fuel n : Nat) : Ed448.mul fuel n { x := 0, y := 1, z := 1 } = { x := 0, y := 1, z := 1 } := by
  induction fuel generalizing n with
  | zero => rfl
  | succ k ih =>
    rw [Ed448.mul, show Ed448.add { x := 0, y := 1, z := 1 } { x := 0, y := 1, z := 1 } = { x := 0, y := 1, z := 1 } from yes, ih]
    split
    · exact yes
    · rfl

theorem mul_zero (fuel : Nat) (a : Ed448.Point) : Ed448.mul fuel 0 a = { x := 0, y := 1, z := 1 } := by
  induction fuel generalizing a with
  | zero => rfl
  | succ k ih => rw [Ed448.mul, Nat.zero_div, ih]; rfl

theorem neutral_same (k : Nat) : Ed448.same (Ed448.mul 448 (4 * 0) Ed448.base)
    (Ed448.mul 8 4 (Ed448.add { x := 0, y := 1, z := 1 } (Ed448.mul 448 k { x := 0, y := 1, z := 1 }))) = true := by
  rw [mul_neutral]
  exact yes

theorem neutral_verifies (msg : List Byte) : Ed448.verify neutral msg (neutral ++ List.replicate 57 0) = true := by
  unfold Ed448.verify
  dsimp only
  rw [show List.take 57 (neutral ++ List.replicate 57 0) = neutral from yes,
    show Ed448.decode neutral = some { x := 0, y := 1, z := 1 } from yes,
    show natOf (List.drop 57 (neutral ++ List.replicate 57 0)) = 0 from yes]
  dsimp only
  rw [neutral_same, Bool.and_true]
  exact yes

/-- The key with identifier 5 signs programs. -/
def signer : Cert := { keyId := 5, usage := 2, kind := 2, pubkey := neutral }

/-- A program image: one variant of span 1 with one bundle, which ends it, and its signature section. -/
def image : List Byte := bytesOf 64 (pack [(0x504B4843, 0), (1, 32), (322, 64), (2, 96), (1, 288), (1, 296)]) ++
  bytesOf 128 (pack [(1, 0), (84, 32), (1, 64), (1, 80), (2, 96)]) ++
  bytesOf 16 (pack [(0xFF, 0), (122, 32), (5, 64)]) ++ neutral ++ List.replicate 57 0

/-- The image is staged, and slot 15 asks for it to be loaded with one Lock. -/
def images : State := { mailed 0x10 (bytesOf 8 0 ++ bytesOf 4 322 ++ bytesOf 2 4) with
  mem := ram [(tile 100, image)], boot := { certs := [signer] } }

def sections : List Section := [{ type := 1, flags := 0, off := 72, len := 84 }, { type := 0xFF, flags := 0, off := 200, len := 122 }]

theorem image_walk : walkSections image 0xFF (image.length / 64 + 1) 64 = some sections := yes

theorem image_signed : signs [signer] image 156 { type := 0xFF, flags := 0, off := 200, len := 122 } = true := by
  have e : (image.drop (200 + 8)).take 114 = neutral ++ List.replicate 57 0 := yes
  simp only [signs, e, List.any_cons, List.any_nil, signer, neutral_verifies]
  exact yes

/-- The program of the image. -/
def imageProgram : Program :=
  { name := (image.drop 16).take 16, tool := natAt image 0x20 4, keyId := natAt image 200 8
    digest := shake256 64 (image.take 156), variants := [variantOf ((sections.getD 0 ⟨0, 0, 0, 0⟩).of image)]
    tables := [tablesOf image sections 1], binds := [4] }

theorem image_checked : checkImage [signer] image [4] = .inl imageProgram := by
  simp only [checkImage, image_walk]
  rw [show sections.getLast?.getD { type := 0xFF, flags := 0, off := 0, len := 0 } = ⟨0xFF, 0, 200, 122⟩ from rfl,
    show (Option.map (fun x => x.off + x.len) sections.dropLast.getLast?).getD 64 = 156 from rfl,
    if_neg (by rw [image_signed]; decide), if_neg yes]
  rw [show List.findSome? _ _ = none from yes]
  rfl

theorem image_staged : checkImage images.boot.certs (images.peek (tile 100) (images.arg (15 : Fin 16).val 8 4))
    ((List.range ((images.slotLen (15 : Fin 16).val - 12) / 2)).map fun i => images.arg (15 : Fin 16).val (12 + 2 * i) 2) =
    .inl imageProgram := by
  rw [show images.peek (tile 100) (images.arg (15 : Fin 16).val 8 4) = image from yes,
    show (List.range ((images.slotLen (15 : Fin 16).val - 12) / 2)).map (fun i => images.arg (15 : Fin 16).val (12 + 2 * i) 2) =
      [4] from yes]
  exact image_checked

theorem wit_load_prog (h : Obligations.MailboxCommandsComplete) : completes images (.loadProg 15) :=
  done ((h images 15 0x10 false ⟨yes, yes, yes, yes, yes, yes, yes, yes⟩).2.2.1 yes (tile 100) imageProgram yes yes clean
    image_staged)

/-- Slot 15 holds a NOP, and slot 2 is submitted. -/
def submits : State := linked { ram := slot15 1 1000 [5], cmds := [{ slot := 15, deadline := some 0 }] }

theorem wit_mb_submit (h : Obligations.RingsAndFifosMove) :
    completes (linked { ram := slot15 1 1000 [5] }) (.mbSubmit host 15) :=
  done (((h (linked { ram := slot15 1 1000 [5] })).1 host 15 ⟨yes, yes⟩).1 yes yes yes nofun)

theorem wit_mb_busy (h : Obligations.RingsAndFifosMove) : completes submits (.mbSubmit host 15) :=
  done (((h submits).1 host 15 ⟨yes, yes⟩).2 yes)

theorem wit_mb_timeout (h : Obligations.RingsAndFifosMove) : completes submits (.mailboxTimeout 15) :=
  done (((h submits).2.1 15 1 0 false ⟨yes, yes, yes, yes, yes, yes, yes, yes⟩).1 (.inl yes) yes)

/-- Slot 15 holds a NOP that has started. -/
def started : State := linked { ram := slot15 1 1000 [5], cmds := [{ slot := 15, deadline := some 0, begun := true }] }

theorem wit_mb_committed (h : Obligations.RingsAndFifosMove) : completes started (.mailboxTimeout 15) :=
  done (((h started).2.1 15 1 0 true ⟨yes, yes, yes, yes, yes, yes, yes, yes⟩).2 yes yes)

theorem wit_mb_cons (h : Obligations.RingsAndFifosMove) : completes (linked { ring := { wr := 70, cons := 7 } }) (.mbCons host 6) :=
  done (((h (linked { ring := { wr := 70, cons := 7 } })).2.2.1 host 6 ⟨yes, yes⟩ yes).1 yes)

theorem wit_mb_cons_past (h : Obligations.RingsAndFifosMove) :
    completes (linked { ring := { wr := 69, cons := 7 } }) (.mbCons host 6) :=
  done (((h (linked { ring := { wr := 69, cons := 7 } })).2.2.1 host 6 ⟨yes, yes⟩ yes).2 yes)

def rec1 : CRec := State.reset.record 1 0 5 1

theorem wit_host_held (h : Obligations.RingsAndFifosMove) :
    completes (linked { ring := { wr := 70, cons := 7, held := [rec1] }, heldSlots := [3] }) (.heldCompletionWrite .host) :=
  done (((h (linked { ring := { wr := 70, cons := 7, held := [rec1] }, heldSlots := [3] })).2.2.2.1 rec1 []).1 yes yes)

theorem wit_ctx_held (h : Obligations.RingsAndFifosMove) :
    completes (with1 fun x => { x with ring := { wr := 70, cons := 7, held := [rec1] } }) (.heldCompletionWrite (.ctx 1)) :=
  done (((h (with1 fun x => { x with ring := { wr := 70, cons := 7, held := [rec1] } })).2.2.2.1 rec1 []).2 1
    (tile 200 + 6 * 32) yes yes yes yes)

theorem wit_tel_tick (h : Obligations.RingsAndFifosMove) :
    completes { State.reset with clock := { elapsed := 10000000 * 2 ^ 32 } } (.telemetryTick 2) :=
  done ((h { State.reset with clock := { elapsed := 10000000 * 2 ^ 32 } }).2.2.2.2 2 yes yes yes yes)

/-! ## Starts, power and heat -/

/-- A start whose boot NOR does not answer. -/
def fails : StartOutcome :=
  { railsUp := true, linkOk := true, norAnswers := false, norTimeout := false, faultyRows := [], engFail := 0, sliceFail := 0
    nandFail := 0, stwFail := 0, pscFail := 0, towFail := 0, coreOk := true, pufOk := true, strapId := 2, strapMsel := false
    micros := 500 }

/-- A start is due. -/
def due : State := { State.reset with boot := { startDue := true, off := true }, power := { state := .off } }

theorem wit_start (h : Obligations.StartsEndInRunRecoveryOrOff) : completes due (.startUp fails) :=
  done (((h due fails).1 yes yes).1 yes yes yes)

/-- The start fails in stage 2: the NOR does not answer. -/
theorem wit_start_fails : startFails due fails { reason := 1, stage := 2 } := .inl yes

theorem wit_start_rails (h : Obligations.StartsEndInRunRecoveryOrOff) : completes due (.startUp { fails with railsUp := false }) :=
  done (((h due { fails with railsUp := false }).1 yes yes).2.1 yes)

theorem wit_start_link (h : Obligations.StartsEndInRunRecoveryOrOff) : completes due (.startUp { fails with linkOk := false }) :=
  done (((h due { fails with linkOk := false }).1 yes yes).2.2 yes yes)

theorem wit_start_none (h : Obligations.StartsEndInRunRecoveryOrOff) : completes idle1 (.startUp fails) :=
  done ((h idle1 fails).2.1 yes)

theorem wit_restart_key (h : Obligations.StartsEndInRunRecoveryOrOff) : completes idle1 (.sysRestart host 0xC0DF fails) :=
  done (((h idle1 fails).2.2.1 host ⟨yes, yes⟩ yes).1 0xC0DF yes)

theorem wit_sys_restart (h : Obligations.StartsEndInRunRecoveryOrOff) : completes idle1 (.sysRestart host 0xC0DE fails) :=
  done (((h idle1 fails).2.2.1 host ⟨yes, yes⟩ yes).2 yes yes)

theorem wit_vin (h : Obligations.StartsEndInRunRecoveryOrOff) : completes idle1 (.vinRise false fails) :=
  done (h idle1 fails).2.2.2.1

theorem wit_vin_wake (h : Obligations.StartsEndInRunRecoveryOrOff) : completes idle1 (.vinRise true fails) :=
  done ((h idle1 fails).2.2.2.2 yes yes yes)

/-- A state other than Run, entered from one with all but domain 7 on. -/
def resting (st : PState) (l : List (Reg × Nat × Word) := []) (a : Option Nat := none) : State :=
  { withRegs ([(.pwrDom, 0, 0xFFFFFF80)] ++ l) idle1 with
    power := { state := st, doms := [0xFFFFFF7F, 5, 6], alarm := a }, clock := { elapsed := 10 ^ 7 * 2 ^ 32 } }

theorem wit_run_sleep (h : Obligations.PowerRequestsSetTheState) : completes (resting .sleep) (.powerRequestRun host) :=
  done ((h (resting .sleep) host 0 ⟨yes, yes⟩ yes).1 (.inr yes) yes yes yes yes)

theorem wit_idle (h : Obligations.PowerRequestsSetTheState) : completes idle1 (.powerRequestIdle ⟨host, 0⟩) :=
  done ((h idle1 host 0 ⟨yes, yes⟩ yes).2.1 yes yes)

/-- The settings are kept in tile 9,000. -/
def keeps : State := withRegs [(.pwrSave, 0, 9000)] idle1

theorem wit_sleep (h : Obligations.PowerRequestsSetTheState) : completes keeps (.powerRequestSleep host) :=
  done ((h keeps host 0 ⟨yes, yes⟩ yes).2.2.1 (.inl yes) yes ⟨yes, yes, yes⟩ ⟨yes, yes, yes⟩)

theorem wit_deep (h : Obligations.PowerRequestsSetTheState) : completes keeps (.powerRequestDeepSleep host) :=
  done ((h keeps host 0 ⟨yes, yes⟩ yes).2.2.2.1 yes yes yes ⟨yes, yes, yes⟩ yes ⟨yes, yes, yes⟩)

theorem wit_off (h : Obligations.PowerRequestsSetTheState) : completes idle1 (.powerRequestOff host 0x0FF0) :=
  done ((h idle1 host 0 ⟨yes, yes⟩ yes).2.2.2.2.1 yes)

theorem wit_run_run (h : Obligations.PowerRequestsSetTheState) : completes idle1 (.powerRequestRun host) :=
  done ((h idle1 host 0 ⟨yes, yes⟩ yes).2.2.2.2.2.1 yes yes)

theorem wit_off_key (h : Obligations.PowerRequestsSetTheState) : completes idle1 (.powerRequestOff host 0x0FF1) :=
  done ((h idle1 host 0 ⟨yes, yes⟩ yes).2.2.2.2.2.2.1 0x0FF1 yes)

theorem wit_no_deeper (h : Obligations.PowerRequestsSetTheState) :
    completes { idle1 with power := { state := .sleep } } (.powerRequestSleep host) :=
  done (((h { idle1 with power := { state := .sleep } } host 0 ⟨yes, yes⟩ yes).2.2.2.2.2.2.2 (.powerRequestSleep host) .sleep yes).1 yes)

/-- The module is in a cascade. -/
def member : State := { idle1 with casc := { role := 3, live := 0x3 } }

theorem wit_sleep_refused (h : Obligations.PowerRequestsSetTheState) : completes member (.powerRequestSleep host) :=
  done (((h member host 0 ⟨yes, yes⟩ yes).2.2.2.2.2.2.2 (.powerRequestSleep host) .sleep yes).2 (.block Block.tow) yes yes)

theorem wit_auto (h : Obligations.PowerEventsMoveTheState) : completes (withRegs [(.pwrIdleAuto, 0, 1)] idle1) .autoIdle :=
  done ((h (withRegs [(.pwrIdleAuto, 0, 1)] idle1)).1 yes yes yes)

theorem wit_auto_off (h : Obligations.PowerEventsMoveTheState) : completes idle1 .autoIdle :=
  done ((h idle1).2.1 yes)

/-- An entry to Sleep is in progress. -/
def entering : State := { idle1 with power := { entering := some .sleep, entryLimit := 5 }, clock := { elapsed := 5 * 2 ^ 32 } }

theorem wit_abort_entry (h : Obligations.PowerEventsMoveTheState) : completes entering (.entryAbort Block.barge) :=
  done ((h entering).2.2.1 Block.barge .sleep yes yes (.inr yes))

theorem wit_wake (h : Obligations.PowerEventsMoveTheState) : completes (resting .idle) (.wakeEvent 8 0) :=
  done (((h (resting .idle)).2.2.2.1 yes yes yes 8 0).1 (.inl yes) yes (.inr yes) yes)

theorem wit_wake_run (h : Obligations.PowerEventsMoveTheState) : completes idle1 (.wakeEvent 3 0) :=
  done (((h idle1).2.2.2.1 yes yes yes 3 0).2.1 yes (.inr yes))

theorem wit_wake_masked (h : Obligations.PowerEventsMoveTheState) :
    completes (resting .sleep [(.pwrWakeEn, 0, 1)]) (.wakeEvent 3 0) :=
  done (((h (resting .sleep [(.pwrWakeEn, 0, 1)])).2.2.2.1 yes yes yes 3 0).2.2.1 yes yes yes)

theorem wit_wake_off (h : Obligations.PowerEventsMoveTheState) : completes (resting .off) (.wakeEvent 0 0) :=
  done (((h (resting .off)).2.2.2.1 yes yes yes 0 0).2.2.2.1 yes yes)

theorem wit_alarm (h : Obligations.PowerEventsMoveTheState) : completes (resting .sleep [] (some 9)) (.slowClockAlarm 0) :=
  done (((h (resting .sleep [] (some 9))).2.2.2.1 yes yes yes 0 0).2.2.2.2 9 yes yes yes yes yes)

theorem wit_gate (h : Obligations.PowerEventsMoveTheState) : completes (withRegs [(.pwrGate, 0, 10)]) (.domainGate 90) :=
  done (((h (withRegs [(.pwrGate, 0, 10)])).2.2.2.2.1 90 yes yes).1 yes)

theorem wit_gate_kept (h : Obligations.PowerEventsMoveTheState) : completes (withRegs [(.pwrGate, 0, 10)]) (.domainGate 1) :=
  done (((h (withRegs [(.pwrGate, 0, 10)])).2.2.2.2.1 1 yes yes).2 yes)

def runsOn : State := { idle1 with power := { runOn := some 4 }, clock := { elapsed := 4 * 2 ^ 32 } }

theorem wit_run_on (h : Obligations.PowerEventsMoveTheState) : completes runsOn .runOnEnd :=
  done ((h runsOn).2.2.2.2.2.1 4 yes yes)

theorem wit_trip120 (h : Obligations.PowerEventsMoveTheState) : completes idle1 .trip120 :=
  done ((h idle1).2.2.2.2.2.2.1 yes)

theorem wit_brownout (h : Obligations.PowerEventsMoveTheState) : completes idle1 .vinBrownout :=
  done (h idle1).2.2.2.2.2.2.2

theorem wit_regulator (h : Obligations.PowerIsGoverned) :
    completes (withRegs [(.pwrShare, 0, 450)]) (.regulatorSample 4450 480 0x1_0000) :=
  done (((h (withRegs [(.pwrShare, 0, 450)])).1 4450 480 0x1_0000 yes).1 (.inr ⟨yes, yes⟩))

theorem wit_regulator_over (h : Obligations.PowerIsGoverned) :
    completes (withRegs [(.pwrShare, 0, 100)]) (.regulatorSample 1101 480 9) :=
  done (((h (withRegs [(.pwrShare, 0, 100)])).1 1101 480 9 yes).2 yes yes)

theorem wit_engine_step (h : Obligations.PowerIsGoverned) : completes (withRegs [(.engFclk, 7, 0x1_0314)]) (.engineStepChange 7) :=
  done ((h (withRegs [(.engFclk, 7, 0x1_0314)])).2.1 7)

theorem wit_phase (h : Obligations.PowerIsGoverned) : completes State.reset .regulatorPhaseFailure :=
  done ((h State.reset).2.2.1 yes yes)

theorem wit_budget (h : Obligations.PowerIsGoverned) : completes State.reset (.budgetWrite host 1800) :=
  done (((h State.reset).2.2.2 host 1800 ⟨yes, yes⟩).1 yes yes yes)

theorem wit_budget_refused (h : Obligations.PowerIsGoverned) : completes State.reset (.budgetWrite host 1801) :=
  done (((h State.reset).2.2.2 host 1801 ⟨yes, yes⟩).2 (.inr (.inr yes)))

theorem wit_droop (h : Obligations.DroopAndHeatSlowTheEngines) : completes State.reset (.droopDetect 7) :=
  done (((h State.reset).1 7).1 yes yes yes)

def stretches (n : Nat) : State := { State.reset with therm := { stretching := [(7, true)], stretched := [(7, [(0, n)])] } }

theorem wit_stretch (h : Obligations.DroopAndHeatSlowTheEngines) : completes (stretches 100) (.stretchEnd 7 155) :=
  done ((((h (stretches 100)).1 7).2 yes 155).1 yes)

theorem wit_stretch_forced (h : Obligations.DroopAndHeatSlowTheEngines) : completes (stretches 101) (.stretchEnd 7 155) :=
  done ((((h (stretches 101)).1 7).2 yes 155).2 yes yes yes yes)

theorem wit_thermal (h : Obligations.DroopAndHeatSlowTheEngines) :
    completes State.reset (.thermalSample (10000 :: List.replicate 50 9999)) :=
  done (((h State.reset).2.1 yes).1 (10000 :: List.replicate 50 9999) yes)

def warm (x : Int) : State := { withRegs [(.thermCap, 0, 0x14A54A53)] with therm := { sensors := [(0, x), (1, 5), (2, 5), (3, 5)] } }

theorem wit_cap (h : Obligations.DroopAndHeatSlowTheEngines) : completes (warm 9699) (.capRise 0) :=
  done (((h (warm 9699)).2.1 yes).2.1 0 yes yes)

theorem wit_cap_kept (h : Obligations.DroopAndHeatSlowTheEngines) : completes (warm 9700) (.capRise 0) :=
  done (((h (warm 9700)).2.1 yes).2.2 0 (.inl yes))

/-- Leash 5 follows its trajectory. -/
def hot : State := { idle1 with reflex := { leashes := [(5, { mode := 1 })] } }

theorem wit_trip115 (h : Obligations.DroopAndHeatSlowTheEngines) : completes hot .trip115 :=
  done ((h hot).2.2 yes yes yes yes)

/-! ## Integrity -/

/-- Table 19.4: 450 W and a rise of 3.6 K are a flow of 2.0 L/min. -/
theorem test_flow : flowEstimate 4500 360 = some 2002 := yes

/-- SECDED code words by hand: the one data bit D0 stands in position 3 of the codeword, so it is covered by check bits 0
and 1 and the overall bit (R501). -/
theorem test_secded : (Ecc.read 1 4).2.1 = .corrected 2 ∧ (Ecc.read 1 4).1 = 1 := yes

/-- The link from stop 1 to stop 0 has failed 8 times in a row. -/
def link (n : Nat) : State := { State.reset with links := [(1, { back := n })] }

theorem wit_flit (h : Obligations.LinksAndUnitsRetire) : completes (link 8) (.flitGroupReceive 0 1 true) :=
  done (((h (link 8) yes).1 0 1 true yes yes yes).1 yes)

theorem wit_flit_bad (h : Obligations.LinksAndUnitsRetire) : completes (link 7) (.flitGroupReceive 0 1 false) :=
  done (((h (link 7) yes).1 0 1 false yes yes yes).2.1 yes yes)

theorem wit_flit_retired (h : Obligations.LinksAndUnitsRetire) : completes (link 8) (.flitGroupReceive 0 1 false) :=
  done ((((h (link 8) yes).1 0 1 false yes yes yes).2.2 yes yes).1 yes)

def voted (x : Nat) : State := { State.reset with
  faults := { voted := [(Block.col, x)] }, clock := { elapsed := 10000 * 2 ^ 32 } }

theorem wit_voted (h : Obligations.LinksAndUnitsRetire) : completes (voted 0) (.votedCopyFault Block.col) :=
  done ((h (voted 0) yes).2.1 Block.col yes yes yes (fun x hx => by
    obtain rfl : 0 = x := Option.some.inj ((by decide +kernel : _ = _).symm.trans hx)
    exact yes))

theorem wit_voted_twice (h : Obligations.LinksAndUnitsRetire) : completes (voted 1) (.votedCopyFault Block.col) :=
  done ((h (voted 1) yes).2.2.1 Block.col 1 yes yes yes yes yes (by unfold noKernels; decide +kernel))

theorem wit_datapath (h : Obligations.LinksAndUnitsRetire) : completes State.reset (.votedCopyFault Block.plan) :=
  done (((h State.reset yes).2.2.2.1 Block.plan 9 yes).1 yes)

theorem wit_datapath_again (h : Obligations.LinksAndUnitsRetire) :
    completes (withRegs [(.faultRetLink, 0, 0x200)]) (.votedCopyFault Block.plan) :=
  done (((h (withRegs [(.faultRetLink, 0, 0x200)]) yes).2.2.2.1 Block.plan 9 yes).2 yes)

theorem wit_watchdog (h : Obligations.LinksAndUnitsRetire) : completes State.reset (.stewardWatchdogMiss 7) :=
  done (((h State.reset yes).2.2.2.2.1 7 yes yes).1 yes yes)

theorem wit_watchdog_pair (h : Obligations.LinksAndUnitsRetire) :
    completes (withRegs [(.faultRetUnits, 0, 0x100000)]) (.stewardWatchdogMiss 1) :=
  done (((h (withRegs [(.faultRetUnits, 0, 0x100000)]) yes).2.2.2.2.1 1 yes yes).2 yes yes (by unfold noKernels; decide +kernel))

def nand (n : Nat) : State := { State.reset with ftl := { timeouts := List.replicate n (3, 0) } }

theorem wit_nand (h : Obligations.LinksAndUnitsRetire) : completes (nand 1) (.nandControllerTimeout 3) :=
  done (((h (nand 1) yes).2.2.2.2.2 3 yes).1 yes)

theorem wit_nand_retired (h : Obligations.LinksAndUnitsRetire) : completes (nand 2) (.nandControllerTimeout 3) :=
  done (((h (nand 2) yes).2.2.2.2.2 3 yes).2 yes)

/-- A row of the Basin with corrected errors of this hour, and one flip in it. -/
def errors (hits used : Nat) : State := { State.reset with
  flips := [(0x40, 1)]
  faults := { rows := [(0, List.replicate hits 0)]
              spares := [(0, used)]
              tiles := [(7, List.replicate hits 0)] } }

theorem wit_row_below (h : Obligations.MemoryIsSparedAndInjected) :
    completes (errors 7 15) (.rowSpare 0x40) :=
  done (((h (errors 7 15) yes).1 0x40 0 16 yes yes).1 yes)

theorem wit_row (h : Obligations.MemoryIsSparedAndInjected) :
    completes (errors 8 15) (.rowSpare 0x40) :=
  done (((h (errors 8 15) yes).1 0x40 0 16 yes yes).2.1 yes yes)

def weirErrors : State := { State.reset with faults := {
  rows := [(weirBase, List.replicate 8 0)], spares := [(0x1_0000, 64)] } }

theorem wit_row_none (h : Obligations.MemoryIsSparedAndInjected) : completes weirErrors (.rowSpare weirBase) :=
  done (((h weirErrors yes).1 weirBase 0x1_0000 64 yes yes).2.2 yes yes yes)

theorem wit_tile_below (h : Obligations.MemoryIsSparedAndInjected) : completes (errors 3 0) (.psramTileRetire 7 9) :=
  done (((h (errors 3 0) yes).2.1 7 9).1 yes)

theorem wit_tile (h : Obligations.MemoryIsSparedAndInjected) : completes (errors 4 0) (.psramTileRetire 7 9) :=
  done ((((h (errors 4 0) yes).2.1 7 9).2 yes yes).2 yes yes yes)

def pinned7 : State := { errors 4 0 with xlat := { pins := [(8199, true)] } }

theorem wit_tile_pinned (h : Obligations.MemoryIsSparedAndInjected) : completes pinned7 (.psramTileRetire 7 9) :=
  done ((((h pinned7 yes).2.1 7 9).2 yes yes).1 yes)

/-- The fault ring holds so many unread records, up to record 5. -/
def logged (tail unread : Nat) : State := { State.reset with faults := { seq := 261, tail, unread } }

theorem wit_tail_full (h : Obligations.MemoryIsSparedAndInjected) : completes (logged 5 256) (.faultTail host 5) :=
  done (((h (logged 5 256) yes).2.2.1 host 5 ⟨yes, yes⟩).1 yes yes)

theorem wit_tail_past (h : Obligations.MemoryIsSparedAndInjected) : completes (logged 254 7) (.faultTail host 6) :=
  done (((h (logged 254 7) yes).2.2.1 host 6 ⟨yes, yes⟩).2.1 yes)

theorem wit_tail (h : Obligations.MemoryIsSparedAndInjected) : completes (logged 254 7) (.faultTail host 5) :=
  done (((h (logged 254 7) yes).2.2.1 host 5 ⟨yes, yes⟩).2.2 yes (.inl yes))

/-- FAULT_INJ names Weir SRAM. -/
def injects (pa : Nat) : State :=
  withRegs [(.faultInjLo, 0, Word.ofNat (pa % 2 ^ 32)), (.faultInjHi, 0, Word.ofNat (pa / 2 ^ 32))]

theorem wit_inject (h : Obligations.MemoryIsSparedAndInjected) : completes (injects weirBase) (.faultInjectSingle host 71) :=
  done (((h (injects weirBase) yes).2.2.2.1 host 71 (.faultInjectSingle host 71) _ ⟨yes, yes⟩ yes (.head _)).1 (.inr (.inl yes)))

theorem wit_inject_double (h : Obligations.MemoryIsSparedAndInjected) :
    completes (injects weirBase) (.faultInjectDouble host 70) :=
  done (((h (injects weirBase) yes).2.2.2.1 host 70 (.faultInjectDouble host 70) _ ⟨yes, yes⟩ yes (.tail _ (.head _))).1 (.inr (.inl yes)))

theorem wit_inject_refused (h : Obligations.MemoryIsSparedAndInjected) :
    completes (injects controlBase) (.faultInjectSingle host 0) :=
  done (((h (injects controlBase) yes).2.2.2.1 host 0 (.faultInjectSingle host 0) _ ⟨yes, yes⟩ yes (.head _)).2 (.inr (.inr yes)))

/-- Page 1 of context 1 at the stop of steward 7. -/
def serves7 : State := { idle1 with
  mem := ram (leaves [(1, 500)]), xlat := { tlb := [page (Stop.steward 7) 1 0x1_0000 (tile 500)], walk := [(1, 0, tile 301)] } }

theorem wit_load (h : Obligations.MemoryIsSparedAndInjected) :
    completes serves7 (.stewardMemoryAccess 7 1 0x1_0008 none 8 false) :=
  done (((h serves7 yes).2.2.2.2 7 1 0x1_0008 yes yes yes).1 8 (serves7.peek (tile 500 + 8) 8)
    (got (tile 500 + 8)))

theorem wit_store (h : Obligations.MemoryIsSparedAndInjected) :
    completes serves7 (.stewardMemoryAccess 7 1 0x1_0008 (some [1, 2, 3]) 3 false) :=
  done (((h serves7 yes).2.2.2.2 7 1 0x1_0008 yes yes yes).2 [1, 2, 3] (tile 500 + 8) _ 3 pass yes (.inr yes))

/-! ## The cascade -/

/-- Module 1 in a role, towline 0 to module 0 in use. -/
def casc (k : Casc) (l : List (Reg × Nat × Word) := []) : State := { withRegs ([(.towDelay, 0, 40)] ++ l) with
  casc := { k with id := 1, links := [(0, { lanes := 0xFF, up := true, failures := if k.formed then 8 else 2 })] }
  clock := { elapsed := 10 ^ 7 * 2 ^ 32, acc := 10 ^ 7 * 2 ^ 32 } }

theorem wit_training (h : Obligations.TowlinesCarryTimeAndRoles) : completes (casc {}) (.towlineTraining 1 3 0xF7) :=
  done (((h (casc {}) yes).1 1 3 0xF7).1 yes)

theorem wit_training_peer (h : Obligations.TowlinesCarryTimeAndRoles) : completes (casc {}) (.towlineTraining 1 2 0xFF) :=
  done (((h (casc {}) yes).1 1 2 0xFF).2 yes)

theorem wit_tow_ok (h : Obligations.TowlinesCarryTimeAndRoles) : completes (casc {}) (.towlineFlitReceive 0 true 0) :=
  done (((h (casc {}) yes).2.1 0 0 yes).1)

theorem wit_tow_bad (h : Obligations.TowlinesCarryTimeAndRoles) : completes (casc {}) (.towlineFlitReceive 0 false 1) :=
  done (((h (casc {}) yes).2.1 0 1 yes).2.1 yes)

theorem wit_tow_retrain (h : Obligations.TowlinesCarryTimeAndRoles) :
    completes (casc { formed := true }) (.towlineFlitReceive 0 false 0xFE) :=
  done (((h (casc { formed := true }) yes).2.1 0 0xFE yes).2.2.1 yes)

theorem wit_delay (h : Obligations.TowlinesCarryTimeAndRoles) : completes (casc {}) (.delayMeasure 0 70000) :=
  done (((h (casc {}) yes).2.1 0 0 yes).2.2.2.1 70000)

theorem wit_beat (h : Obligations.TowlinesCarryTimeAndRoles) : completes (casc {}) (.heartbeat 0) :=
  done (((h (casc {}) yes).2.1 0 0 yes).2.2.2.2.1)

theorem wit_time_receive (h : Obligations.TowlinesCarryTimeAndRoles) :
    completes (casc { role := 2 } [(.timeCfg, 0, 0x641483)]) (.timeMessageReceive 9999900 0) :=
  done ((((h (casc { role := 2 } [(.timeCfg, 0, 0x641483)]) yes).2.1 0 0 yes).2.2.2.2.2 9999900 (.inl yes) yes yes).1 yes)

theorem wit_time_big (h : Obligations.TowlinesCarryTimeAndRoles) :
    completes (casc { role := 3 } [(.timeCfg, 0, 0x641483)]) (.timeMessageReceive (10 ^ 7 + 10 ^ 6 - 40) 0) :=
  done ((((h (casc { role := 3 } [(.timeCfg, 0, 0x641483)]) yes).2.1 0 0 yes).2.2.2.2.2 (10 ^ 7 + 10 ^ 6 - 40) (.inr yes) yes yes).2 yes)

theorem wit_casc_watchdog (h : Obligations.TowlinesCarryTimeAndRoles) : completes (casc {}) .watchdogExpiry :=
  done (h (casc {}) yes).2.2.1

theorem wit_time_send (h : Obligations.TowlinesCarryTimeAndRoles) : completes (casc { role := 1 }) .timeMessageSend :=
  done ((h (casc { role := 1 }) yes).2.2.2.1 yes)

theorem wit_time_send_other (h : Obligations.TowlinesCarryTimeAndRoles) : completes (casc { role := 2 }) .timeMessageSend :=
  done ((h (casc { role := 2 }) yes).2.2.2.2.1 yes)

theorem wit_formation (h : Obligations.TowlinesCarryTimeAndRoles) :
    completes (casc { enabled := true, expect := 3, formMs := 1 }) .formationEnd :=
  done ((h (casc { enabled := true, expect := 3, formMs := 1 }) yes).2.2.2.2.2 yes yes yes yes yes)

/-- A formed cascade of modules 0 and 1, with module 0 the master. -/
def formed : Casc := { role := 2, formed := true, live := 3, master := some 0, standby := some 1, liveAtShare := 2 }

/-- The same with this module the master. -/
def leads : Casc := { formed with role := 1, master := some 1, standby := some 0 }

def report (m : Fin 4) : ModuleReport := { id := m, power := 100, demand := 300, urgency := 2 }

theorem wit_report_alone (h : Obligations.CascadesShareAndChange) : completes (casc {}) (.powerReport []) :=
  done (((h (casc {}) yes yes).1 []).1 yes)

theorem wit_report (h : Obligations.CascadesShareAndChange) : completes (casc leads) (.powerReport [report 0, report 1]) :=
  done (((h (casc leads) yes yes).1 [report 0, report 1]).2.1 yes yes)

theorem wit_report_join (h : Obligations.CascadesShareAndChange) :
    completes (casc { leads with joining := some 2 }) (.powerReport [report 2]) :=
  done (((h (casc { leads with joining := some 2 }) yes yes).1 [report 2]).2.2 2 (report 2) yes yes (.head _) yes)

theorem wit_share_timeout (h : Obligations.CascadesShareAndChange) : completes (casc formed) .shareTimeout :=
  done ((h (casc formed) yes yes).2.1 (.inl yes) yes)

theorem wit_beat_loss (h : Obligations.CascadesShareAndChange) : completes (casc formed) .heartbeatLoss :=
  done ((h (casc formed) yes yes).2.2.1 0 yes yes yes yes)

theorem wit_peer_lost (h : Obligations.CascadesShareAndChange) : completes (casc formed) (.cascPeerDeassert 0) :=
  done ((h (casc formed) yes yes).2.2.2.1 0 yes yes yes yes yes yes)

theorem wit_tow_refused (h : Obligations.CascadesShareAndChange) : completes (casc formed) (.cascHandover host) :=
  done (((h (casc formed) yes yes).2.2.2.2.1 host ⟨yes, yes⟩).1 (.inl yes) 0 _ (.tail _ (.tail _ (.head _))))

theorem wit_leave (h : Obligations.CascadesShareAndChange) : completes (casc { leads with masks := [(5, 3)] }) (.cascLeave host 0) :=
  done ((((h (casc { leads with masks := [(5, 3)] }) yes yes).2.2.2.2.1 host ⟨yes, yes⟩).2 yes yes yes).1 0 yes yes yes)

theorem wit_leave_master (h : Obligations.CascadesShareAndChange) : completes (casc leads) (.cascLeave host 1) :=
  done ((((h (casc leads) yes yes).2.2.2.2.1 host ⟨yes, yes⟩).2 yes yes yes).2.1 1 yes)

theorem wit_join_live (h : Obligations.CascadesShareAndChange) : completes (casc leads) (.cascJoin host 0) :=
  done (((((h (casc leads) yes yes).2.2.2.2.1 host ⟨yes, yes⟩).2 yes yes yes).2.2.1 0).1 yes)

theorem wit_casc_join (h : Obligations.CascadesShareAndChange) : completes (casc leads) (.cascJoin host 3) :=
  done (((((h (casc leads) yes yes).2.2.2.2.1 host ⟨yes, yes⟩).2 yes yes yes).2.2.1 3).2 yes)

theorem wit_handover (h : Obligations.CascadesShareAndChange) : completes (casc leads) (.cascHandover host) :=
  done ((((h (casc leads) yes yes).2.2.2.2.1 host ⟨yes, yes⟩).2 yes yes yes).2.2.2.1 0 yes)

theorem wit_no_standby (h : Obligations.CascadesShareAndChange) :
    completes (casc { leads with standby := none }) (.cascHandover host) :=
  done ((((h (casc { leads with standby := none }) yes yes).2.2.2.2.1 host ⟨yes, yes⟩).2 yes yes yes).2.2.2.2 yes)

theorem wit_mask_barred (h : Obligations.CascadesShareAndChange) :
    completes (casc leads [(.towCtxSel, 0, 1023)]) (.towCtxMaskWrite host 3) :=
  done (((h (casc leads [(.towCtxSel, 0, 1023)]) yes yes).2.2.2.2.2 host 3 ⟨yes, yes⟩).1 yes)

theorem wit_mask (h : Obligations.CascadesShareAndChange) :
    completes (casc leads [(.towCtxSel, 0, 1023)]) (.towCtxMaskWrite host 2) :=
  done (((h (casc leads [(.towCtxSel, 0, 1023)]) yes yes).2.2.2.2.2 host 2 ⟨yes, yes⟩).2 yes)
end Sys2Proof.Tests
end

/-!
PROOF. What an accepted read of a control register leaves: the RC bits cleared, the
latches of `_LO`, the completion on the bus, and nothing else (R8, R9).
-/
namespace Sys2Proof.Machine

/-! ## Latches (R9) -/

/-- A list of registers latched by `who`, each with the value `s` gives it, on top of the latches `l`. -/
def State.latchAll (s : State) (who : Who) (i j : Nat) (hs : List Reg) (l : Sparse Word) : Sparse Word :=
  hs.foldl (fun l h => l.put (latchKey who h i j) (s.value h i j)) l

theorem latchKey_ne_of_who {w who : Who} (h : w ≠ who) (r q : Reg) (i j : Nat) :
    latchKey w r i j ≠ latchKey who q i j := by
  have hne : w.val ≠ who.val := fun e => h (Fin.ext e)
  simp only [latchKey]
  omega

theorem latchKey_ne_of_off {r q : Reg} {i j : Nat} (h : r.off i j ≠ q.off i j) (who : Who) :
    latchKey who r i j ≠ latchKey who q i j := by
  simp only [latchKey]
  omega

theorem State.find_latchAll_other (s : State) {who : Who} {i j k : Nat} {hs : List Reg} (l : Sparse Word)
    (h : ∀ q ∈ hs, k ≠ latchKey who q i j) : (s.latchAll who i j hs l).find k = l.find k := by
  induction hs generalizing l with
  | nil => rfl
  | cons q hs ih =>
    obtain ⟨hq, hs'⟩ := List.forall_mem_cons.mp h
    exact (ih _ hs').trans (Sparse.find_put_other l _ hq)

theorem State.find_latchAll_head (s : State) {who : Who} {i j : Nat} {q : Reg} {hs : List Reg} (l : Sparse Word)
    (h : ∀ p ∈ hs, latchKey who q i j ≠ latchKey who p i j) :
    (s.latchAll who i j (q :: hs) l).find (latchKey who q i j) = some (s.value q i j) :=
  (s.find_latchAll_other _ h).trans (Sparse.find_put_same l _ _)

/-- Where a latch is held, a read returns it, whatever the register holds. -/
theorem State.readBy_of_latch {s : State} {who : Who} {r : Reg} {i j : Nat} {v : Word}
    (h : s.latches.find (latchKey who r i j) = some v) : s.readBy who r i j = v := by
  simp [State.readBy, h]

/-- `_HI` comes first among what a read of `_LO` latches; only SLOT_TIME may follow. -/
theorem Reg.latched_of_high {r h : Reg} (hr : r.high = some h) :
    r.latched = h :: if r = .refxSlotLo then [.refxSlotTime] else [] := by
  simp [Reg.latched, hr]

/-- What a read of `_LO` latches beside `_HI` lies at another offset. -/
theorem Reg.off_high_ne_of_mem {r h q : Reg} (hr : r.high = some h)
    (hq : q ∈ if r = .refxSlotLo then [Reg.refxSlotTime] else []) (i j : Nat) : h.off i j ≠ q.off i j := by
  split at hq
  · next hslot =>
    subst hslot
    cases hr
    cases List.mem_singleton.mp hq
    simp [Reg.off, Reg.row]
  · cases hq

/-! ## The state after a read -/

/-- The stored registers after a read of `r`: its RC bits hold what was recorded in the same cycle (R8). -/
def State.regsCleared (s : State) (r : Reg) (i j : Nat) (hw : Word) : Sparse Word :=
  if r.row.rc = 0 then s.regs
  else s.regs.put (r.off i j) ((s.rg r i j &&& ~~~r.row.rc) ||| (hw &&& r.row.rc))

theorem State.regsCleared_of_rc_eq_zero (s : State) {r : Reg} (i j : Nat) (hw : Word) (hrc : r.row.rc = 0) :
    s.regsCleared r i j hw = s.regs := if_pos hrc

theorem State.regsCleared_of_rc_ne_zero (s : State) {r : Reg} (i j : Nat) (hw : Word) (hrc : r.row.rc ≠ 0) :
    s.regsCleared r i j hw = s.regs.put (r.off i j) ((s.rg r i j &&& ~~~r.row.rc) ||| (hw &&& r.row.rc)) := if_neg hrc

/-- The state after an accepted read of an ordinary register. -/
def State.afterRead (s : State) (who : Who) (r : Reg) (i j : Nat) (hw : Word) : State := { s with
  regs := s.regsCleared r i j hw
  latches := s.latchAll who i j r.latched s.latches
  bus := s.bus.put who.val ⟨Code.ok, s.readBy who r i j⟩ }

theorem flag_clearMask (old rc hw : Word) (b : Nat) :
    flag ((old &&& ~~~rc) ||| (hw &&& rc)) b = if flag rc b then flag hw b else flag old b := by
  by_cases hb : b < 32
  · cases hrc : flag rc b <;> simp_all [flag]
  · simp [flag, BitVec.getLsbD_of_ge _ b (Nat.le_of_not_lt hb)]

theorem State.flag_rg_afterRead (s : State) (who : Who) (r : Reg) (i j : Nat) (hw : Word) (b : Nat) :
    flag ((s.afterRead who r i j hw).rg r i j) b = if flag r.row.rc b then flag hw b else flag (s.rg r i j) b := by
  by_cases hrc : r.row.rc = 0
  · simp [State.rg, State.afterRead, s.regsCleared_of_rc_eq_zero i j hw hrc, hrc, flag]
  · rw [← flag_clearMask]
    simp [State.rg, State.afterRead, s.regsCleared_of_rc_ne_zero i j hw hrc]

theorem State.find_regs_afterRead_other (s : State) (who : Who) (r : Reg) (i j : Nat) (hw : Word) {o : Nat}
    (ho : o ≠ r.off i j) : (s.afterRead who r i j hw).regs.find o = s.regs.find o := by
  simp only [State.afterRead, State.regsCleared]
  split
  · rfl
  · exact Sparse.find_put_other _ _ ho

theorem State.readBy_high_afterRead (s : State) (who : Who) {r h : Reg} (i j : Nat) (hw : Word) (hr : r.high = some h) :
    (s.afterRead who r i j hw).readBy who h i j = s.value h i j := by
  refine State.readBy_of_latch ?_
  simp only [State.afterRead, Reg.latched_of_high hr]
  exact s.find_latchAll_head _ fun q hq => latchKey_ne_of_off (Reg.off_high_ne_of_mem hr hq i j) who

theorem State.find_latches_afterRead_other (s : State) {w who : Who} (r h : Reg) (i j : Nat) (hw : Word)
    (hne : w ≠ who) :
    (s.afterRead who r i j hw).latches.find (latchKey w h i j) = s.latches.find (latchKey w h i j) :=
  s.find_latchAll_other _ fun q _ => latchKey_ne_of_who hne h q i j

/-! ## Reads -/

/-- The loop of a read of `_LO`: the values latched are those of `s`, in which the read began. -/
theorem latchLoop_does (s : State) (who : Who) (i j : Nat) (hs : List Reg) (t : State) :
    (forIn hs PUnit.unit (fun h _ => do
      Act.make (.latch (latchKey who h i j) (s.value h i j))
      pure (ForInStep.yield PUnit.unit)) : Act PUnit).Does t
      fun _ u => u = { t with latches := s.latchAll who i j hs t.latches } := by
  induction hs generalizing t with
  | nil => exact Act.Does.pure rfl
  | cons h hs ih =>
    rw [List.forIn_cons]
    exact Act.Does.make_bind (Act.Does.pure_bind (ih _))

/-- Of the registers with RC fields only PSC_CH_STAT and REFX_LEASH_OVR mirror another part of the device. -/
theorem clearRead_does (s : State) {r : Reg} (i j : Nat) (hw : Word) (hPsc : r ≠ .pscChStat)
    (hLeash : r ≠ .refxLeashOvr) :
    (clearRead r i j hw).Does s fun _ t => t = { s with regs := s.regsCleared r i j hw } := by
  refine Act.Does.get_bind (Act.Does.ite (fun hrc => Act.Does.make_bind ?_) fun hrc => Act.Does.pure ?_)
  · split
    · exact absurd rfl hPsc
    · exact absurd rfl hLeash
    · exact Act.Does.pure (by rw [s.regsCleared_of_rc_ne_zero i j hw hrc]; rfl)
  · rw [s.regsCleared_of_rc_eq_zero i j hw (not_not.mp hrc)]

theorem readRegister_does (s : State) (who : Who) {r : Reg} (i j : Nat) (hw : Word) (hSeeds : r ≠ .bootSeeds)
    (hPsc : r ≠ .pscChStat) (hLeash : r ≠ .refxLeashOvr) :
    (readRegister who r i j hw).Does s fun w t => w = s.readBy who r i j ∧
      t = { s with regs := s.regsCleared r i j hw, latches := s.latchAll who i j r.latched s.latches } := by
  refine Act.Does.get_bind ((latchLoop_does s who i j r.latched s).bind ?_)
  rintro _ _ rfl
  refine (clearRead_does _ i j hw hPsc hLeash).bind ?_
  rintro _ _ rfl
  simp only [hSeeds, if_false]
  exact Act.Does.pure ⟨rfl, rfl⟩

/-- An accepted READ_CLEAR of an ordinary register leaves exactly `afterRead`. -/
theorem readClear_does {s : State} {who : Who} {addr : Nat} (hw : Word) {r : Reg} {i j : Nat}
    (hReach : s.reachable = true) (hSeeds : r ≠ .bootSeeds) (hPsc : r ≠ .pscChStat) (hLeash : r ≠ .refxLeashOvr)
    (hLook : Reg.lookup (addr - controlBase) = some (r, i, j)) (hCode : s.accessCode who false addr 4 = Code.ok) :
    s.does (.readClear who addr 4 hw) fun t => t = s.afterRead who r i j hw := by
  have hAt : (readAt who addr 4 hw).Does s fun a t => a = (Code.ok, s.readBy who r i j) ∧
      t = { s with regs := s.regsCleared r i j hw, latches := s.latchAll who i j r.latched s.latches } := by
    refine Act.Does.get_bind ?_
    simp only [hCode, hLook, if_true]
    refine (readRegister_does s who i j hw hSeeds hPsc hLeash).bind ?_
    rintro _ _ ⟨rfl, rfl⟩
    exact Act.Does.pure ⟨rfl, rfl⟩
  refine State.does_of rfl (Act.Does.get_bind ?_)
  simp only [hReach, if_true]
  refine hAt.bind ?_
  rintro _ _ ⟨rfl, rfl⟩
  exact Act.Does.make rfl

/-- READ_LO is a read in whose cycle no event is recorded. -/
theorem State.does_readLo {s : State} {who : Who} {addr size : Nat} {post : State → Prop} :
    s.does (.readLo who addr size) post ↔ s.does (.readClear who addr size 0) post := Iff.rfl

/-- No `_LO` register is one whose read does more than clear and latch. -/
theorem Reg.ordinary_of_high {r h : Reg} (hr : r.high = some h) :
    r ≠ .bootSeeds ∧ r ≠ .pscChStat ∧ r ≠ .refxLeashOvr := by
  refine ⟨?_, ?_, ?_⟩ <;> rintro rfl <;> cases hr

/-- Settles O9: an accepted read leaves exactly `afterRead`, whose registers, latches and bus are then looked up. -/
theorem readsReturnClearAndLatch : Obligations.ReadsReturnClearAndLatch := by
  refine ⟨?_, ?_⟩
  · intro s who addr hw r i j hReach hSeeds hPsc hLeash hLook hCode
    obtain ⟨_, hExec, rfl⟩ := readClear_does hw hReach hSeeds hPsc hLeash hLook hCode
    exact ⟨_, hExec, rfl, s.flag_rg_afterRead who r i j hw, fun _ ho => s.find_regs_afterRead_other who r i j hw ho⟩
  · intro s who addr r h i j hReach hr hLook hCode
    obtain ⟨hSeeds, hPsc, hLeash⟩ := Reg.ordinary_of_high hr
    obtain ⟨_, hExec, rfl⟩ := readClear_does 0 hReach hSeeds hPsc hLeash hLook hCode
    refine ⟨State.does_readLo.mpr ⟨_, hExec, rfl, s.readBy_high_afterRead who i j 0 hr, ?_⟩, ?_⟩
    · exact fun w hne => s.find_latches_afterRead_other r h i j 0 hne
    · exact fun u v hLatch => State.readBy_of_latch hLatch

end Sys2Proof.Machine

/-!
PROOF. What an access to control space that is turned away leaves: its code on the bus, and nothing else (R6, R17).
-/
namespace Sys2Proof.Machine

/-! ## Which accesses are turned away -/

/-- For S2–S7 the grant decides first: the width, the alignment and the register itself do not matter (R17). -/
theorem State.accessCode_of_not_granted {s : State} {who : Who} {addr : Nat} (hWho : privileged who = false)
    (hOut : addr < controlBase ∨ controlBase + 2 ^ 24 ≤ addr ∨ s.granted ((addr - controlBase) / 0x10000) = false)
    (write : Bool) (size : Nat) : s.accessCode who write addr size = Code.faultXlat := by
  rcases hOut with hBelow | hAbove | hBarred
  · simp [State.accessCode, hWho, Nat.not_le.mpr hBelow]
  · have hOff : 0x100_0000 ≤ addr - controlBase := by omega
    simp [State.accessCode, hWho, Nat.not_lt.mpr hOff]
  · simp [State.accessCode, hWho, hBarred]

/-- Where the grant lets an access through, one that is not of an aligned word is UNALIGNED (R6; an aligned one
wider than 32 bits by log entry 202). -/
theorem State.accessCode_of_not_aligned_word {s : State} {who : Who} {addr size : Nat} (hLow : controlBase ≤ addr)
    (hHigh : addr < controlBase + 2 ^ 24)
    (hGrant : privileged who = true ∨ s.granted ((addr - controlBase) / 0x10000) = true)
    (hWord : size ≠ 4 ∨ addr % 4 ≠ 0) (write : Bool) : s.accessCode who write addr size = Code.unaligned := by
  have hOff : addr - controlBase < 0x100_0000 := by omega
  rcases hGrant with hWho | hBit
  · simp [State.accessCode, hWho, hLow, hOff, hWord]
  · simp [State.accessCode, hBit, hLow, hOff, hWord]

/-! ## What is left -/

/-- A write that is turned away does nothing but answer its code (R6). -/
theorem writeAt_refused {s : State} {who : Who} {addr size code : Nat} (v hw : Word)
    (hCode : s.accessCode who true addr size = code) (hRefused : code ≠ Code.ok) :
    (writeAt who addr size v hw).Does s fun c t => c = code ∧ t = s := by
  refine Act.Does.get_bind ?_
  simp only [hCode, hRefused, if_false]
  exact Act.Does.pure ⟨rfl, rfl⟩

/-- A read that is turned away gives no data and clears and latches nothing (R6). -/
theorem readAt_refused {s : State} {who : Who} {addr size code : Nat} (hw : Word)
    (hCode : s.accessCode who false addr size = code) (hRefused : code ≠ Code.ok) :
    (readAt who addr size hw).Does s fun a t => a = (code, 0) ∧ t = s := by
  refine Act.Does.get_bind ?_
  simp only [hCode, hRefused, if_false]
  exact Act.Does.pure ⟨rfl, rfl⟩

/-- A completion on the bus opens nothing that a command would settle. -/
theorem State.quiet_upd_bus (s : State) (who : Nat) (b : BusResult) : (s.upd (.bus who b)).quiet = s.quiet := rfl

/-- REGISTER_WRITE of an access turned away. -/
theorem registerWrite_refused {s : State} {who : Who} {addr size code : Nat} (v hw : Word) (hReach : s.reachable = true)
    (hCalm : s.calm = true) (hCode : s.accessCode who true addr size = code) (hRefused : code ≠ Code.ok) :
    s.does (.registerWrite who addr size v hw) fun t => t = { s with bus := s.bus.put who.val ⟨code, 0⟩ } := by
  obtain ⟨hOnTime, hQuiet⟩ := (Bool.and_eq_true _ _).mp hCalm
  refine State.does_of rfl (settled_does hOnTime (Act.Does.get_bind ?_))
  simp only [hReach, if_true]
  refine (writeAt_refused v hw hCode hRefused).bind ?_
  rintro _ t ⟨rfl, rfl⟩
  exact Act.Does.make ⟨rfl, (t.quiet_upd_bus _ _).trans hQuiet⟩

/-- READ_CLEAR of an access turned away. -/
theorem readClear_refused {s : State} {who : Who} {addr size code : Nat} (hw : Word) (hReach : s.reachable = true)
    (hCode : s.accessCode who false addr size = code) (hRefused : code ≠ Code.ok) :
    s.does (.readClear who addr size hw) fun t => t = { s with bus := s.bus.put who.val ⟨code, 0⟩ } := by
  refine State.does_of rfl (Act.Does.get_bind ?_)
  simp only [hReach, if_true]
  refine (readAt_refused hw hCode hRefused).bind ?_
  rintro _ _ ⟨rfl, rfl⟩
  exact Act.Does.make rfl

/-- An access whose code is not OK, whether it reads or writes, is turned away with that code. -/
theorem turnedAway_of_accessCode {s : State} {who : Who} {addr size code : Nat} (hReach : s.reachable = true)
    (hCalm : s.calm = true) (hCode : ∀ write, s.accessCode who write addr size = code) (hRefused : code ≠ Code.ok) :
    turnedAway s who addr size code :=
  ⟨fun v hw => registerWrite_refused v hw hReach hCalm (hCode true) hRefused,
   fun hw => readClear_refused hw hReach (hCode false) hRefused,
   State.does_readLo.mpr (readClear_refused 0 hReach (hCode false) hRefused)⟩

/-- Settles O7: the grant and then the alignment rule fix the code, and no code but OK reaches a register. -/
theorem refusedAccessChangesNothing : Obligations.RefusedAccessChangesNothing := by
  refine ⟨?_, ?_⟩
  · intro s who addr size hReach hCalm hWho hOut
    exact turnedAway_of_accessCode hReach hCalm
      (fun write => State.accessCode_of_not_granted hWho hOut write size) (by decide)
  · intro s who addr size hReach hCalm hLow hHigh hGrant hWord
    exact turnedAway_of_accessCode hReach hCalm
      (State.accessCode_of_not_aligned_word hLow hHigh hGrant hWord) (by decide)

end Sys2Proof.Machine

/-!
PROOF. When a Lock wait is satisfied: `reached` read off the distance between the level and the target (R196).
-/
namespace Sys2Proof.Machine

theorem reached_iff (level target : Word) : reached level target = true ↔ (level - target).toNat < 2 ^ 31 :=
  decide_eq_true_iff

/-- A level `d` above the target has reached it while `d` is less than half the range. -/
theorem reached_of_level_ahead (target d : Word) : reached (target + d) target = true ↔ d.toNat < 2 ^ 31 := by
  rw [reached_iff, BitVec.add_comm, BitVec.add_sub_cancel]

/-- A target `d` ahead is one the level is 2^32 − `d` above, so it counts as reached from more than half the range. -/
theorem reached_of_target_ahead (level : Word) {d : Word} (hAhead : 0 < d.toNat) :
    reached level (level + d) = true ↔ 2 ^ 31 < d.toNat := by
  have hDist : (level - (level + d)).toNat = 2 ^ 32 - d.toNat := by bv_omega
  rw [reached_iff, hDist]
  omega

/-- Settles O10: the distance from target to level is `d` where the level is ahead, and 2^32 − `d` where the target is. -/
theorem waitSatisfiedModulo : Obligations.WaitSatisfiedModulo := by
  refine ⟨?_, ?_, ?_⟩
  · intro level d hNear
    exact (reached_of_level_ahead level d).mpr hNear
  · intro level d hAhead hNear
    rw [Bool.eq_false_iff, Ne, reached_of_target_ahead level hAhead]
    exact Nat.not_lt.mpr hNear
  · intro level d hFar
    exact (reached_of_target_ahead level (Nat.zero_lt_of_lt hFar)).mpr hFar

end Sys2Proof.Machine

/-!
PROOF. What holds of every step, because every step is an action made of updates.
-/
namespace Sys2Proof.Machine

/-- Every step runs some action on the state whose queue has lost its front. -/
theorem step_eq_some_after {s t : State} (h : step s = .next t) :
    ∃ x : Act Unit, t = x.after { s with pending := s.pending.tail } := by
  obtain ⟨x, hx⟩ := step_eq_after s
  rw [hx] at h
  cases h
  exact ⟨x, rfl⟩

theorem State.clock_elapsed_le_upd (s : State) (u : Upd) : s.clock.elapsed ≤ (s.upd u).clock.elapsed := by
  cases u with
  | pass n => exact Nat.le_add_right _ n
  | _ => exact Nat.le_refl _

theorem State.freeCount_le_upd (s : State) (u : Upd) : s.freeCount ≤ (s.upd u).freeCount := by
  cases u with
  | draw => exact Nat.le_succ _
  | _ => exact Nat.le_refl _

/-- Settles O4: canonical form does not depend on the queue, and every update keeps it. -/
theorem stepKeepsCanonicalForm : Obligations.StepKeepsCanonicalForm := by
  intro s t hs h
  obtain ⟨x, rfl⟩ := step_eq_some_after h
  exact Act.keeps State.upd_canonical x _ { hs with }

/-- Settles O3: a step is an action, whose updates neither touch the queue nor turn back time or the count of draws. -/
theorem stepsGoOn : Obligations.StepsGoOn := by
  refine ⟨?_, ?_, ?_⟩
  · intro s
    obtain ⟨x, hx⟩ := step_eq_after s
    exact ⟨_, hx⟩
  · intro s t h
    obtain ⟨x, rfl⟩ := step_eq_some_after h
    exact Act.keeps (P := fun u => u.pending = s.pending.tail) (fun u v hu => (u.upd_pending v).trans hu) x _ rfl
  · intro s t h
    obtain ⟨x, rfl⟩ := step_eq_some_after h
    exact Act.respects (R := fun a b => a.clock.elapsed ≤ b.clock.elapsed ∧ a.freeCount ≤ b.freeCount)
      (fun _ => ⟨Nat.le_refl _, Nat.le_refl _⟩) (fun _ _ _ h k => ⟨h.1.trans k.1, h.2.trans k.2⟩)
      (fun u v => ⟨u.clock_elapsed_le_upd v, u.freeCount_le_upd v⟩) x { s with pending := s.pending.tail }

/-- Settles O1: `step` on a queue that is not empty. -/
theorem stepRunsFrontCommand : Obligations.StepRunsFrontCommand := by
  intro s c rest h
  unfold step
  rw [h]

end Sys2Proof.Machine

/-!
PROOF. Which accesses a grant lets through, and what a write of a plain register stores (R8, R15 to R17).
-/
namespace Sys2Proof.Machine

/-! ## SYS_GRANT -/

theorem State.granted_block (s : State) {n : Nat} (h : n ≤ 0x14) : s.granted n = flag (s.rg .sysGrant) n := if_pos h

theorem State.granted_engine (s : State) {e : Nat} (h : e < 8) :
    s.granted (0x20 + e) = flag (s.rg .sysGrant) (21 + e) := by
  have hBlock : ¬0x20 + e ≤ 0x14 := by omega
  have hEngine : 0x20 ≤ 0x20 + e ∧ 0x20 + e < 0x28 := by omega
  have hBit : 0x20 + e + 1 - 0x0C = 21 + e := by omega
  rw [State.granted, if_neg hBlock, if_pos hEngine, hBit]

theorem State.granted_reserved (s : State) {n : Nat} (h : 0x14 < n) (h' : n < 0x20 ∨ 0x28 ≤ n) :
    s.granted n = false := by
  have hEngine : ¬(0x20 ≤ n ∧ n < 0x28) := by omega
  rw [State.granted, if_neg (Nat.not_le.mpr h), if_neg hEngine]

/-- S0, S1 and the host reach every register but another initiator's instance and, from the host, a write of the
staging region. -/
theorem State.mayAccess_of_privileged {s : State} {who : Who} {r : Reg} {i : Nat} (write : Bool)
    (hWho : privileged who = true) (hOwn : r.ofInitiator = true → i = who.val)
    (hStage : r ≠ .sdioStageBase ∧ r ≠ .sdioStageSize) : s.mayAccess who write r i = true := by
  have hInstance : ¬(r.ofInitiator && decide (i ≠ who.val)) = true := by
    simpa using hOwn
  rw [State.mayAccess, if_neg hInstance]
  by_cases hHost : who = Who.host
  · simp [hHost, hStage]
  · simp [hHost, hWho]

theorem State.accessCode_of_privileged {s : State} {who : Who} (write : Bool) {addr : Nat}
    (hWho : privileged who = true) (hLow : controlBase ≤ addr) (hHigh : addr < controlBase + 2 ^ 24)
    (hAligned : addr % 4 = 0)
    (hMay : ∀ r i j, Reg.lookup (addr - controlBase) = some (r, i, j) → s.mayAccess who write r i = true) :
    s.accessCode who write addr 4 = Code.ok := by
  have hOff : addr - controlBase < 2 ^ 24 := by omega
  simp only [State.accessCode, hWho, hLow, hOff, hAligned, and_self, decide_true, Bool.not_true, Bool.false_and,
    Bool.false_eq_true, if_false, ne_eq, not_true_eq_false, or_self]
  split
  · next r i j hLook => rw [if_pos (hMay r i j hLook)]
  · rfl

/-- Settles O6: the grant bit of each window is read off `State.granted`; the initiators that need none then meet only the
rights of a register's instance. -/
theorem grantBitsOpenWindows : Obligations.GrantBitsOpenWindows := by
  refine ⟨fun s _ => s.granted_block, fun s _ => s.granted_engine, fun s _ => s.granted_reserved, ?_⟩
  intro s who write addr hWho hLow hHigh hAligned hOwn hStage
  refine State.accessCode_of_privileged write hWho hLow hHigh hAligned fun r i j hLook => ?_
  exact State.mayAccess_of_privileged write hWho (hOwn r i j hLook) (hStage r i j hLook)

/-! ## REGISTER_WRITE -/

theorem flag_written (r : Reg) (old v hw : Word) (b : Nat) (hApart : r.row.rw &&& r.row.w1c = 0) :
    flag (r.written old v hw) b =
      if flag r.row.rw b then flag v b
      else if flag r.row.w1c b then flag hw b || (flag old b && !flag v b)
      else flag old b := by
  by_cases hb : b < 32
  · have hNotBoth : (flag r.row.rw b && flag r.row.w1c b) = false := by
      simpa [flag] using congrArg (fun w : Word => w.getLsbD b) hApart
    cases hrw : flag r.row.rw b <;> cases hwc : flag r.row.w1c b <;>
      simp_all [flag, Reg.written, Bool.or_comm]
  · simp [flag, BitVec.getLsbD_of_ge _ b (Nat.le_of_not_lt hb)]

/-- Bits of no plain register are both RW and W1C. -/
theorem rw_and_w1c_of_plain {r : Reg} (hr : r ∈ plainRegs) : r.row.rw &&& r.row.w1c = 0 := by
  have hAll : ∀ q ∈ plainRegs, q.row.rw &&& q.row.w1c = 0 := by decide
  exact hAll r hr

/-- A write of a plain register comes to `plainWrite`, whichever block's window it lies in. -/
theorem writeRegister_does_of_plain {r : Reg} (hr : r ∈ plainRegs) {who : Who} {i j : Nat} {v hw : Word} {s : State}
    {Q : Nat → State → Prop} (h : (plainWrite r i j v hw).Does s Q) : (writeRegister who r i j v hw).Does s Q := by
  revert r
  simp only [plainRegs, List.forall_mem_cons, List.not_mem_nil, false_imp_iff, implies_true, and_true]
  and_intros <;> exact fun h k => h k

/-- Calm: nothing past its timeout, and nothing open. -/
theorem State.calm_iff {s : State} : s.calm = true ↔ s.onTime = true ∧ s.quiet = true := by
  rw [State.calm, Bool.and_eq_true]

/-- Settles O8: a plain register takes `Reg.written`, bit by bit. -/
theorem registerWriteFollowsAccessCodes : Obligations.RegisterWriteFollowsAccessCodes := by
  intro s who addr v hw r i j hReach hCalm hr hLook hCode
  obtain ⟨hOnTime, hQuiet⟩ := State.calm_iff.mp hCalm
  have hWrite : (plainWrite r i j v hw).Does s fun c t => c = Code.ok ∧
      t = s.upd (.reg (r.off i j) (r.written (s.rg r i j) v hw)) :=
    Act.Does.get_bind (Act.Does.make_bind (Act.Does.pure ⟨rfl, rfl⟩))
  have hAt : (writeAt who addr 4 v hw).Does s fun c t => c = Code.ok ∧
      t = s.upd (.reg (r.off i j) (r.written (s.rg r i j) v hw)) := by
    refine Act.Does.get_bind ?_
    simp only [hCode, hLook, if_true]
    exact writeRegister_does_of_plain hr hWrite
  refine State.does_of rfl (settled_does hOnTime (Act.Does.get_bind ?_))
  simp only [hReach, if_true]
  refine hAt.bind ?_
  rintro _ t ⟨rfl, rfl⟩
  refine Act.Does.make ⟨⟨?_, fun b => ?_⟩, ?_⟩
  · have hNow : ((s.upd (.reg (r.off i j) (r.written (s.rg r i j) v hw))).upd (.bus who.val ⟨Code.ok, 0⟩)).rg r i j =
        r.written (s.rg r i j) v hw := by simp
    rw [hNow]
    rfl
  · simp [flag_written _ _ _ _ _ (rw_and_w1c_of_plain hr)]
  · simpa using hQuiet

end Sys2Proof.Machine

/-!
PROOF. The device after reset, and the tick that passes on an empty queue.
-/
namespace Sys2Proof.Machine

/-! ## The device after reset -/

theorem State.reset_canonical : State.reset.Canonical := by
  constructor
  case flipped => exact nofun
  all_goals rfl

theorem State.ctx_reset_of_ne {c : Nat} (h : c ≠ 1023) : State.reset.ctx c = {} := by
  simp [State.ctx, State.reset, Sparse.at, Sparse.find, h.symm]

/-- Settles O5: each part is read off `State.reset`. -/
theorem resetState : Obligations.ResetState := by
  refine ⟨⟨State.reset_canonical, rfl, rfl, fun _ => rfl⟩, rfl, rfl, by decide, by decide, fun _ => rfl, ?_, rfl, rfl, rfl⟩
  intro c hc
  rw [State.ctx_reset_of_ne hc]

/-- A wait due in the cycle in which the tick begins. -/
def dueWait : LWait := { waiter := .armed 0, lock := 0, target := 0, deadline := some 0 }

/-- The device after reset with a wait that the first tick times out. -/
def beforeTimeout : State := { State.reset with waits := [dueWait] }

/-- Refutes O2: a wait in the cycle of its timeout leaves a calm device calm, and the tick that passes that cycle ends it
(R201), so more than the clock changes. -/
theorem not_emptyQueueLetsATickPass : ¬ Obligations.EmptyQueueLetsATickPass := by
  intro h
  obtain ⟨t, hStep, hFrame, -⟩ := h beforeTimeout rfl (by decide) rfl (Or.inl rfl) (by decide)
  have hWaits : ∃ u, step beforeTimeout = .next u ∧ u.waits = [] := ⟨_, rfl, by decide⟩
  obtain ⟨u, hStep', hNone⟩ := hWaits
  cases hStep.symm.trans hStep'
  rw [hFrame] at hNone
  cases hNone

end Sys2Proof.Machine

/-!
PROOF. Running an action step by step: what each shared operation does to the state, as rewriting rules of `Run.run`,
and which fields an action may write.
-/
namespace Sys2Proof.Machine

variable {α β : Type}

/-! ## Running an action

The proofs are written `(rfl)` so that `simp` keeps them as rewriting steps, which the kernel need not run again. -/

@[simp] theorem run_bind (x : Act α) (f : α → Act β) (k : β → Run) (s : State) :
    Run.run ((x >>= f) k) s = Run.run (x fun a => f a k) s := (rfl)
@[simp] theorem run_pure (a : α) (k : α → Run) (s : State) : Run.run ((pure a : Act α) k) s = Run.run (k a) s := (rfl)
@[simp] theorem run_map (f : α → β) (x : Act α) (k : β → Run) (s : State) :
    Run.run ((f <$> x) k) s = Run.run (x fun a => k (f a)) s := (rfl)
@[simp] theorem run_get (k : State → Run) (s : State) : Run.run (Act.get k) s = Run.run (k s) s := (rfl)
@[simp] theorem run_make (u : Upd) (k : Unit → Run) (s : State) :
    Run.run (Act.make u k) s = Run.run (k ()) (s.upd u) := (rfl)
@[simp] theorem run_ite (p : Prop) [Decidable p] (x y : Act α) (k : α → Run) (s : State) :
    Run.run ((if p then x else y) k) s = if p then Run.run (x k) s else Run.run (y k) s := by split <;> rfl
@[simp] theorem run_nothing (k : Unit → Run) (s : State) : Run.run (nothing k) s = Run.run (k ()) s := (rfl)
@[simp] theorem run_reg (r : Reg) (i : Nat) (w : Word) (k : Unit → Run) (s : State) :
    Run.run (Act.reg r i w k) s = Run.run (k ()) (s.upd (.reg (r.off i 0) w)) := (rfl)
@[simp] theorem run_regAt (r : Reg) (i j : Nat) (w : Word) (k : Unit → Run) (s : State) :
    Run.run (Act.regAt r i j w k) s = Run.run (k ()) (s.upd (.reg (r.off i j) w)) := (rfl)
@[simp] theorem run_regField (r : Reg) (i hi lo v : Nat) (k : Unit → Run) (s : State) :
    Run.run (Act.regField r i hi lo v k) s = Run.run (k ()) (s.upd (.reg (r.off i 0) (setField (s.rg r i) hi lo v))) := (rfl)
@[simp] theorem run_count (r : Reg) (i n : Nat) (k : Unit → Run) (s : State) :
    Run.run (Act.count r i n k) s = Run.run (k ()) (s.upd (.reg (r.off i 0) (s.rg r i + Word.ofNat n))) := (rfl)
@[simp] theorem run_countSat (r : Reg) (i hi lo n : Nat) (k : Unit → Run) (s : State) :
    Run.run (Act.countSat r i hi lo n k) s = Run.run (k ()) (s.upd (.reg (r.off i 0)
      (setField (s.rg r i) hi lo (min (2 ^ (hi + 1 - lo) - 1) (s.rf r i hi lo + n))))) := (rfl)
@[simp] theorem run_setBit3 (r : Reg) (n : Nat) (v : Bool) (k : Unit → Run) (s : State) :
    Run.run (Act.setBit3 r n v k) s = Run.run (k ()) (s.upd (.reg (r.off (n / 32) 0)
      (setField (s.rg r (n / 32)) (n % 32) (n % 32) (b2n v)))) := (rfl)
@[simp] theorem run_bus (who : Who) (code : Nat) (data : Word) (k : Unit → Run) (s : State) :
    Run.run (Act.bus who code data k) s = Run.run (k ()) (s.upd (.bus who.val { code, data })) := (rfl)
@[simp] theorem run_draw (k : Nat → Run) (s : State) :
    Run.run (Act.draw k) s = Run.run (k s.freeCount) (s.upd .draw) := (rfl)
@[simp] theorem run_modCtx (c : Nat) (f : Context → Context) (k : Unit → Run) (s : State) :
    Run.run (Act.modCtx c f k) s = Run.run (k ()) (s.upd (.ctx c (f (s.ctx c)))) := (rfl)
@[simp] theorem run_modLock (n : Nat) (f : Lock → Lock) (k : Unit → Run) (s : State) :
    Run.run (Act.modLock n f k) s = Run.run (k ()) (s.upd (.lock n (f (s.lockAt n)))) := (rfl)
@[simp] theorem run_lockStatus (who : Who) (code : Nat) (k : Unit → Run) (s : State) :
    Run.run (lockStatus who code k) s =
      Run.run (k ()) (s.upd (.reg (Reg.off .lockStatus who.val 0) (lockStatusAfter s who code))) := (rfl)

/-- An action of which all is known, run. -/
theorem Act.Does.run_eq {x : Act α} {s u : State} {a : α} (h : x.Does s fun b t => b = a ∧ t = u) (k : α → Run) :
    Run.run (x k) s = Run.run (k a) u := by
  obtain ⟨_, _, ⟨rfl, rfl⟩, hRun⟩ := h k
  exact hRun

theorem Act.Does.run_unit_eq {x : Act Unit} {s u : State} (h : x.Does s fun _ t => t = u) (k : Unit → Run) :
    Run.run (x k) s = Run.run (k ()) u := (h.mono fun _ _ e => ⟨rfl, e⟩).run_eq k

/-- What a run does, the action does. -/
theorem Act.does_of_run {x : Act α} {s u : State} {a : α} {Q : α → State → Prop}
    (h : ∀ k : α → Run, Run.run (x k) s = Run.run (k a) u) (hQ : Q a u) : x.Does s Q := fun k => ⟨a, u, hQ, h k⟩

/-- An accepted command runs its body, then completes with the body's code. -/
theorem run_command {who : Who} {r : Reg} {i : Nat} {s : State} (h : s.takes who r i) (body : Act Nat) (k : Unit → Run) :
    Run.run (command who r i body k) s =
      Run.run (body fun c => Run.make (.bus who.val { code := c, data := 0 }) (k ())) s := by
  obtain ⟨hReach, hCode⟩ := h
  have hBody : command who r i body k = Run.look fun t => (if (!t.reachable) = true then pure () else
    if t.accessCode who true (controlBase + r.off i 0) 4 = Code.ok then body >>= Act.bus who
    else Act.bus who (t.accessCode who true (controlBase + r.off i 0) 4) : Act Unit) k := rfl
  rw [hBody]
  simp only [Run.run_look, hReach, hCode, Bool.not_true, Bool.false_eq_true, if_false, if_true]
  rfl

/-- A command completes with the state its action runs to. -/
theorem State.does_of_run {s u : State} {c : Instr} {x : Act Unit} {post : State → Prop}
    (e : exec c s = Act.outcome x s) (hRun : Run.run (x fun _ => Run.stop) s = u) (hPost : post u) : s.does c post :=
  ⟨_, e, by rw [Act.after_eq, hRun]; exact hPost⟩

/-! ## What an update leaves of what is read off the state -/

variable (s : State) (u : Upd)

@[simp] theorem State.lockAt_upd (n : Nat) (h : u.writes .locks = false) : (s.upd u).lockAt n = s.lockAt n := by
  rw [State.lockAt, State.upd_locks s u h, State.lockAt]

@[simp] theorem State.ctx_upd (c : Nat) (h : u.writes .ctxs = false) : (s.upd u).ctx c = s.ctx c := by
  rw [State.ctx, State.upd_ctxs s u h, State.ctx]

@[simp] theorem State.ns_upd (h : u.writes .clock = false) : (s.upd u).ns = s.ns := by
  rw [State.ns, State.upd_clock s u h, State.ns]

@[simp] theorem State.fullTime_upd (h : u.writes .clock = false) : (s.upd u).fullTime = s.fullTime := by
  simp only [State.fullTime, State.nowHi, State.nowLo, State.upd_clock s u h]

@[simp] theorem State.engine_upd (e : Nat) (h : u.writes .engines = false) : (s.upd u).engine e = s.engine e := by
  rw [State.engine, State.upd_engines s u h, State.engine]

@[simp] theorem State.lockAt_upd_lock (n : Nat) (l : Lock) : (s.upd (.lock n l)).lockAt n = l := by simp [State.lockAt]

theorem State.lockAt_upd_lock_other {n m : Nat} (l : Lock) (h : m ≠ n) : (s.upd (.lock n l)).lockAt m = s.lockAt m := by
  simp [State.lockAt, Sparse.at_put_other _ _ _ h]

@[simp] theorem State.ctx_upd_ctx (c : Nat) (x : Context) : (s.upd (.ctx c x)).ctx c = x := by simp [State.ctx]

theorem State.ctx_upd_ctx_other {c d : Nat} (x : Context) (h : d ≠ c) : (s.upd (.ctx c x)).ctx d = s.ctx d := by
  simp [State.ctx, Sparse.at_put_other _ _ _ h]

@[simp] theorem State.answered_upd_bus (who : Who) (code : Nat) : (s.upd (.bus who.val ⟨code, 0#32⟩)).answered who code := by
  simp [State.answered]

theorem State.rg_upd_reg_eq (r : Reg) (i j o : Nat) (w : Word) :
    (s.upd (.reg o w)).rg r i j = if r.off i j = o then w else s.rg r i j := by
  split
  · next h => rw [← h, State.rg_upd_reg]
  · next h => exact s.rg_upd_reg_other r i j o w h

/-- Registers at other offsets. -/
theorem State.find_upd_reg_other {o p : Nat} (w : Word) (h : p ≠ o) : (s.upd (.reg o w)).regs.find p = s.regs.find p := by
  simp [Sparse.find_put_other _ _ h]

end Sys2Proof.Machine

/-!
PROOF. LOCK_ALLOC and LOCK_FREE (R206, R207).
-/
namespace Sys2Proof.Machine

/-- LOCK_s_ARG and LOCK_s_STATUS are two registers. -/
theorem Reg.off_lockStatus_ne_lockArg (i : Nat) : Reg.off .lockStatus i 0 ≠ Reg.off .lockArg i 0 := by
  simp [Reg.off, Reg.row]

theorem lockStatusAfter_upd_lockArg (s : State) (who : Who) (w : Word) (code : Nat) :
    lockStatusAfter (s.upd (.reg (Reg.off .lockArg who.val 0) w)) who code = lockStatusAfter s who code := by
  simp [lockStatusAfter, State.rg_upd_reg_eq, Reg.off_lockStatus_ne_lockArg]

section
variable {s : State} {who : Who} {n : Nat}

theorem lockAlloc_does {arg : Word} (hn : n < 8192) (hWho : privileged who = true) (hTakes : s.takes who .lockCmd who.val)
    (hFree : (s.lockAt n).alloc = false) (hArg : field arg 31 11 = 0) :
    s.does (.lockAlloc who n arg) fun t => t = { s with regs := t.regs, bus := t.bus, locks := t.locks } ∧
      t.locks = s.locks.put n { level := 0, alloc := true, owner := field arg 9 0, jobzero := flag arg 10
                                poisoned := false, jobadd := 0 } ∧
      t.rg .lockStatus who.val = lockStatusAfter s who Code.ok ∧ t.answered who Code.ok := by
  have hMod : n % 8192 = n := Nat.mod_eq_of_lt hn
  refine State.does_of_run rfl (by simp [run_command hTakes, allocLock, hMod, hWho, hFree, hArg]; rfl) ?_
  refine ⟨rfl, rfl, ?_, ?_⟩
  · simp [lockStatusAfter_upd_lockArg]
  · simp

theorem lockFree_does (hn : n < 8192) (hWho : privileged who = true) (hTakes : s.takes who .lockCmd who.val)
    (hAlloc : (s.lockAt n).alloc = true) (hIdle : ∀ w ∈ s.waits, w.lock ≠ n) :
    s.does (.lockFree who n) fun t => t = { s with regs := t.regs, bus := t.bus, locks := t.locks } ∧
      t.locks = s.locks.put n {} ∧ t.rg .lockStatus who.val = lockStatusAfter s who Code.ok ∧
      t.answered who Code.ok := by
  have hMod : n % 8192 = n := Nat.mod_eq_of_lt hn
  have hNone : ¬∃ w ∈ s.waits, w.lock = n := fun ⟨w, hw, h⟩ => hIdle w hw h
  refine State.does_of_run rfl (by simp [run_command hTakes, freeLock, hMod, hWho, hAlloc, hNone]; rfl) ?_
  refine ⟨rfl, rfl, ?_, ?_⟩ <;> simp

theorem lockAlloc_barred (arg : Word) (hWho : privileged who = false) (hTakes : s.takes who .lockCmd who.val) :
    s.does (.lockAlloc who n arg) fun t => t = { s with regs := t.regs, bus := t.bus } ∧
      t.answered who Code.faultXlat := by
  refine State.does_of_run rfl (by simp [run_command hTakes, allocLock, hWho]; rfl) ⟨rfl, ?_⟩
  simp

theorem lockFree_barred (hWho : privileged who = false) (hTakes : s.takes who .lockCmd who.val) :
    s.does (.lockFree who n) fun t => t = { s with regs := t.regs, bus := t.bus } ∧ t.answered who Code.faultXlat := by
  refine State.does_of_run rfl (by simp [run_command hTakes, freeLock, hWho]; rfl) ⟨rfl, ?_⟩
  simp

end

/-- Settles O12: each of the two commands, for an initiator that may give it and for one that may not. -/
theorem allocAndFreeSetTheLock : Obligations.AllocAndFreeSetTheLock := by
  refine ⟨?_, ?_⟩
  · intro s who n hn hWho hTakes
    exact ⟨fun arg hFree hArg => lockAlloc_does hn hWho hTakes hFree hArg, lockFree_does hn hWho hTakes⟩
  · intro s who n arg hWho hTakes
    exact ⟨lockAlloc_barred arg hWho hTakes, lockFree_barred hWho hTakes⟩

end Sys2Proof.Machine

/-!
PROOF. Context commands that find their context in another state than they require (R171).
-/
namespace Sys2Proof.Machine

/-- COL_CMD_STATUS is stored. -/
@[simp] theorem State.value_colCmdStatus (s : State) : s.value .colCmdStatus 0 0 = s.rg .colCmdStatus := rfl

/-- The state after a context command that did nothing but answer `code`. -/
def State.colAnswered (s : State) (who : Who) (code c : Nat) : State :=
  (s.upd (.reg (Reg.off .colCmdStatus 0 0) (colStatus code c))).upd (.bus who.val ⟨Code.ok, 0⟩)

theorem State.colStatus_colAnswered (s : State) (who : Who) (code c : Nat) :
    (s.colAnswered who code c).rg .colCmdStatus = colStatus code c := by
  simp [State.colAnswered]

theorem State.quiet_colAnswered (s : State) (who : Who) (code c : Nat) :
    (s.colAnswered who code c).quiet = s.quiet := by
  simp [State.colAnswered]

/-- A command of Table 7.2 leaves its code in COL_CMD_STATUS. -/
theorem run_colCommand {op c : Nat} (hOp : op ≠ 0) (k : Nat → Run) (s : State) :
    Run.run (colCommand op c k) s =
      Run.run (contextCommand op c fun code => Run.make (.reg (Reg.off .colCmdStatus 0 0) (colStatus code c)) (k Code.ok)) s := by
  simp only [colCommand, if_pos hOp]
  rfl

/-- What contextCommand refuses, the write of COL_CMD only reports. -/
theorem colCommand_refused {s : State} {who : Who} {op c : Nat} (hTakes : s.takes who .colCmd 0) (hOp : op ≠ 0)
    (hRefused : ∀ k, Run.run (contextCommand op c k) s = Run.run (k Code.faultXlat) s) (k : Unit → Run) :
    Run.run (command who .colCmd 0 (colCommand op c) k) s = Run.run (k ()) (s.colAnswered who Code.faultXlat c) := by
  rw [run_command hTakes, run_colCommand hOp, hRefused]
  rfl

section
variable {s : State} {c : Nat}

theorem create_refused (h : (s.ctx c).st ≠ .free) (k : Nat → Run) :
    Run.run (contextCommand 1 c k) s = Run.run (k Code.faultXlat) s := by simp [contextCommand, h]

theorem destroy_refused (h : (s.ctx c).st ≠ .ready) (h' : (s.ctx c).st ≠ .torn) (k : Nat → Run) :
    Run.run (contextCommand 2 c k) s = Run.run (k Code.faultXlat) s := by simp [contextCommand, h, h']

theorem kill_refused (h : (s.ctx c).st = .free) (k : Nat → Run) :
    Run.run (contextCommand 3 c k) s = Run.run (k Code.faultXlat) s := by simp [contextCommand, h]

theorem reopen_refused (h : (s.ctx c).st ≠ .torn) (k : Nat → Run) :
    Run.run (contextCommand 4 c k) s = Run.run (k Code.faultXlat) s := by simp [contextCommand, h]

theorem heel_refused (h : (s.ctx c).st ≠ .running) (k : Nat → Run) :
    Run.run (contextCommand 5 c k) s = Run.run (k Code.faultXlat) s := by simp [contextCommand, h]

end

/-- Settles O14: a refused command runs to `colAnswered`, and so does KILL, which leaves nothing to settle. -/
theorem commandInWrongStateIsRefused : Obligations.CommandInWrongStateIsRefused := by
  intro s who c hc hTakes hCalm
  have hMod : c % 1024 = c := Nat.mod_eq_of_lt hc
  have hAfter : let t := s.colAnswered who Code.faultXlat c
      t = { s with regs := t.regs, bus := t.bus } ∧ t.value .colCmdStatus 0 0 = colStatus Code.faultXlat c ∧
      t.answered who Code.ok ∧ ∀ o, o ≠ Reg.off .colCmdStatus 0 0 → t.regs.find o = s.regs.find o :=
    ⟨rfl, s.colStatus_colAnswered who _ c, by simp [State.colAnswered],
      fun o ho => by simpa [State.colAnswered] using s.find_upd_reg_other _ ho⟩
  have hAct {op : Nat} (hOp : op ≠ 0) (h : ∀ k, Run.run (contextCommand op c k) s = Run.run (k Code.faultXlat) s) :
      Run.run (command who .colCmd 0 (colCommand op (c % 1024)) fun _ => .stop) s = s.colAnswered who Code.faultXlat c := by
    rw [hMod, colCommand_refused hTakes hOp h, Run.run_stop]
  refine ⟨fun h => ?_, fun h h' => ?_, fun h => ?_, fun h => ?_, fun h => ?_⟩
  · exact State.does_of_run rfl (hAct (by decide) (create_refused h)) hAfter
  · exact State.does_of_run rfl (hAct (by decide) (destroy_refused h h')) hAfter
  · obtain ⟨hOnTime, hQuiet⟩ := State.calm_iff.mp hCalm
    refine State.does_of rfl (settled_does hOnTime ?_)
    rw [hMod]
    exact Act.does_of_run (colCommand_refused hTakes (by decide) (kill_refused h))
      ⟨hAfter, (s.quiet_colAnswered who _ c).trans hQuiet⟩
  · exact State.does_of_run rfl (hAct (by decide) (reopen_refused h)) hAfter
  · exact State.does_of_run rfl (hAct (by decide) (heel_refused h)) hAfter

end Sys2Proof.Machine

/-!
PROOF. Which fields of the state an action may write.
-/
namespace Sys2Proof.Machine

/-- What a field holds. -/
def Fld.Ty : Fld → Type
  | .pending => List Instr
  | .regs | .latches => Sparse Word
  | .bus => Sparse BusResult
  | .mem | .nor => List Host.Cell
  | .flips => Sparse (BitVec 72)
  | .links => Sparse LinkSt
  | .fabricEnded => Bool
  | .engines => Sparse Engine
  | .drains => Sparse (List (Nat × Nat))
  | .claims | .residual | .selAccts => Sparse Nat
  | .progs => Sparse Program
  | .nextHandle | .served | .freeCount => Nat
  | .ctxs => Sparse Context
  | .selState => Word
  | .locks => Sparse Lock
  | .waits => List LWait
  | .xlat => Xlat
  | .chanQueues => Sparse (List Barge)
  | .flying => Sparse Barge
  | .psram => Sparse PsChan
  | .ftl => Ftl
  | .reflex => Reflex
  | .ports => Ports
  | .grid => Grid
  | .plan => Plan
  | .clock => Clock
  | .sdio => Sdio
  | .boot => Boot
  | .casc => Casc
  | .power => Power
  | .therm => Thermal
  | .faults => FaultLog

/-- The value of a field. -/
def State.fld (s : State) : (f : Fld) → f.Ty
  | .pending => s.pending
  | .regs => s.regs
  | .latches => s.latches
  | .bus => s.bus
  | .mem => s.mem
  | .flips => s.flips
  | .nor => s.nor
  | .links => s.links
  | .fabricEnded => s.fabricEnded
  | .engines => s.engines
  | .drains => s.drains
  | .claims => s.claims
  | .progs => s.progs
  | .nextHandle => s.nextHandle
  | .ctxs => s.ctxs
  | .residual => s.residual
  | .selState => s.selState
  | .selAccts => s.selAccts
  | .locks => s.locks
  | .waits => s.waits
  | .xlat => s.xlat
  | .chanQueues => s.chanQueues
  | .flying => s.flying
  | .served => s.served
  | .psram => s.psram
  | .ftl => s.ftl
  | .reflex => s.reflex
  | .ports => s.ports
  | .grid => s.grid
  | .plan => s.plan
  | .clock => s.clock
  | .sdio => s.sdio
  | .boot => s.boot
  | .casc => s.casc
  | .power => s.power
  | .therm => s.therm
  | .faults => s.faults
  | .freeCount => s.freeCount

/-- An update leaves every field it does not write. -/
theorem State.fld_upd (s : State) (u : Upd) (f : Fld) (h : u.writes f = false) : (s.upd u).fld f = s.fld f := by
  cases f with
  | pending => exact s.upd_pending u
  | regs => exact s.upd_regs u h
  | latches => exact s.upd_latches u h
  | bus => exact s.upd_bus u h
  | mem => exact s.upd_mem u h
  | flips => exact s.upd_flips u h
  | nor => exact s.upd_nor u h
  | links => exact s.upd_links u h
  | fabricEnded => exact s.upd_fabricEnded u h
  | engines => exact s.upd_engines u h
  | drains => exact s.upd_drains u h
  | claims => exact s.upd_claims u h
  | progs => exact s.upd_progs u h
  | nextHandle => exact s.upd_nextHandle u h
  | ctxs => exact s.upd_ctxs u h
  | residual => exact s.upd_residual u h
  | selState => exact s.upd_selState u h
  | selAccts => exact s.upd_selAccts u h
  | locks => exact s.upd_locks u h
  | waits => exact s.upd_waits u h
  | xlat => exact s.upd_xlat u h
  | chanQueues => exact s.upd_chanQueues u h
  | flying => exact s.upd_flying u h
  | served => exact s.upd_served u h
  | psram => exact s.upd_psram u h
  | ftl => exact s.upd_ftl u h
  | reflex => exact s.upd_reflex u h
  | ports => exact s.upd_ports u h
  | grid => exact s.upd_grid u h
  | plan => exact s.upd_plan u h
  | clock => exact s.upd_clock u h
  | sdio => exact s.upd_sdio u h
  | boot => exact s.upd_boot u h
  | casc => exact s.upd_casc u h
  | power => exact s.upd_power u h
  | therm => exact s.upd_therm u h
  | faults => exact s.upd_faults u h
  | freeCount => exact s.upd_freeCount u h

/-- The two states differ in no field but those listed. -/
def State.SameBut (l : List Fld) (s t : State) : Prop := ∀ f, f ∉ l → t.fld f = s.fld f

theorem State.SameBut.refl (l : List Fld) (s : State) : s.SameBut l s := fun _ _ => rfl

theorem State.SameBut.trans {l : List Fld} {s t u : State} (h : s.SameBut l t) (h' : t.SameBut l u) : s.SameBut l u :=
  fun f hf => (h' f hf).trans (h f hf)

theorem State.SameBut.mono {l m : List Fld} {s t : State} (h : s.SameBut l t) (hlm : l ⊆ m) : s.SameBut m t :=
  fun f hf => h f fun hl => hf (hlm hl)

/-! ## The one outcome of an action -/

variable {α β : Type}

/-- Run in `s`, the action ends in one way, of which `Q` holds. -/
def Act.Gives (x : Act α) (s : State) (Q : α → State → Prop) : Prop :=
  ∃ a t, Q a t ∧ ∀ k : α → Run, Run.run (x k) s = Run.run (k a) t

theorem Act.Gives.does {x : Act α} {s : State} {Q : α → State → Prop} (h : x.Gives s Q) : x.Does s Q := by
  obtain ⟨a, t, hQ, hRun⟩ := h
  exact fun k => ⟨a, t, hQ, hRun k⟩

theorem Act.Gives.mono {x : Act α} {s : State} {Q R : α → State → Prop} (h : x.Gives s Q)
    (hi : ∀ a t, Q a t → R a t) : x.Gives s R := by
  obtain ⟨a, t, hQ, hRun⟩ := h
  exact ⟨a, t, hi a t hQ, hRun⟩

theorem State.upd_draw_ne (s : State) : s.upd .draw ≠ s := fun h => by simpa using congrArg State.freeCount h

/-- What an action does in every continuation holds of the one way in which it ends: a continuation can tell any other
end from it. -/
theorem Act.Does.of_run {x : Act α} {s t : State} {a : α} {Q : α → State → Prop} (h : x.Does s Q)
    (hRun : ∀ k : α → Run, Run.run (x k) s = Run.run (k a) t) : Q a t := by
  classical
  obtain ⟨b, u, hQ, hk⟩ := h fun b => Run.look fun u => if b ≠ a ∧ u = t then .make .draw .stop else .stop
  rw [hRun] at hk
  simp only [Run.run_look, ne_eq, not_true_eq_false, false_and, if_false] at hk
  by_cases hOther : b ≠ a ∧ u = t
  · rw [if_pos hOther] at hk
    exact absurd (hOther.2 ▸ hk.symm) t.upd_draw_ne
  · rw [if_neg hOther] at hk
    have hu : u = t := hk.symm
    have hb : b = a := by_contra fun hb => hOther ⟨hb, hu⟩
    rwa [hb, hu] at hQ

theorem Act.Gives.and {x : Act α} {s : State} {P Q : α → State → Prop} (h : x.Gives s P) (h' : x.Does s Q) :
    x.Gives s fun a t => P a t ∧ Q a t := by
  obtain ⟨a, t, hP, hRun⟩ := h
  exact ⟨a, t, ⟨hP, h'.of_run hRun⟩, hRun⟩

theorem Act.Gives.pure {s : State} {Q : α → State → Prop} {a : α} (h : Q a s) : (Pure.pure a : Act α).Gives s Q :=
  ⟨a, s, h, fun _ => rfl⟩

theorem Act.Gives.get {s : State} {Q : State → State → Prop} (h : Q s s) : Act.get.Gives s Q := ⟨s, s, h, fun _ => rfl⟩

theorem Act.Gives.make {u : Upd} {s : State} {Q : Unit → State → Prop} (h : Q () (s.upd u)) : (Act.make u).Gives s Q :=
  ⟨(), s.upd u, h, fun _ => rfl⟩

theorem Act.Gives.bind {x : Act α} {f : α → Act β} {s : State} {Q : α → State → Prop} {R : β → State → Prop}
    (hx : x.Gives s Q) (hf : ∀ a t, Q a t → (f a).Gives t R) : (x >>= f).Gives s R := by
  obtain ⟨a, t, hQ, hRun⟩ := hx
  obtain ⟨b, u, hR, hRun'⟩ := hf a t hQ
  exact ⟨b, u, hR, fun k => (hRun fun a => f a k).trans (hRun' k)⟩

/-- A loop ends in one way where each pass does; the invariant is carried on. -/
theorem Act.Gives.loop {γ : Type} {f : γ → β → Act (ForInStep β)} {I : β → State → Prop}
    (hf : ∀ c b t, I b t → (f c b).Gives t fun r u => match r with
      | .done b' => I b' u
      | .yield b' => I b' u) :
    ∀ (l : List γ) (b : β) (s : State), I b s → (forIn l b f : Act β).Gives s I
  | [], _, _, h => Act.Gives.pure h
  | c :: l, b, s, h => by
    rw [List.forIn_cons]
    refine (hf c b s h).bind fun r t ht => ?_
    cases r with
    | done b' => exact Act.Gives.pure ht
    | yield b' => exact Act.Gives.loop hf l b' t ht

/-! ## What an action writes -/

variable {l m : List Fld}

/-- The action writes no field but those listed. -/
def Act.Writes (l : List Fld) (x : Act α) : Prop := ∀ s, x.Gives s fun _ t => s.SameBut l t

theorem Act.Writes.does {x : Act α} (h : x.Writes l) (s : State) : x.Does s fun _ t => s.SameBut l t := (h s).does

theorem Act.Writes.mono {x : Act α} (h : x.Writes l) (hlm : l ⊆ m) : x.Writes m :=
  fun s => (h s).mono fun _ _ ht => ht.mono hlm

/-- What an action does, with the fields it leaves. -/
theorem Act.Writes.and {x : Act α} (h : x.Writes l) {s : State} {Q : α → State → Prop} (hQ : x.Does s Q) :
    x.Does s fun a t => s.SameBut l t ∧ Q a t := ((h s).and hQ).does

/-- The fields an update writes. -/
@[simp] def Upd.fields : Upd → List Fld
  | .reg _ _ => [.regs]
  | .latch _ _ => [.latches]
  | .bus _ _ => [.bus]
  | .mem _ _ | .copy _ _ _ | .clear _ _ => [.mem]
  | .flip _ _ => [.flips]
  | .nor _ _ | .norErase => [.nor]
  | .link _ _ => [.links]
  | .fabricEnd => [.fabricEnded]
  | .engine _ _ => [.engines]
  | .drains _ _ => [.drains]
  | .claims _ => [.claims]
  | .prog _ _ | .dropProg _ => [.progs]
  | .nextHandle _ => [.nextHandle]
  | .ctx _ _ => [.ctxs]
  | .residual _ _ => [.residual]
  | .select _ _ => [.selState, .selAccts]
  | .lock _ _ => [.locks]
  | .waits _ => [.waits]
  | .xlat _ => [.xlat]
  | .channel _ _ => [.chanQueues]
  | .fly _ _ | .land _ => [.flying]
  | .serve _ => [.served]
  | .psram _ _ => [.psram]
  | .ftl _ => [.ftl]
  | .reflex _ => [.reflex]
  | .ports _ => [.ports]
  | .grid _ => [.grid]
  | .plan _ => [.plan]
  | .clock _ | .pass _ => [.clock]
  | .sdio _ | .ram _ _ => [.sdio]
  | .boot _ => [.boot]
  | .casc _ => [.casc]
  | .power _ => [.power]
  | .therm _ => [.therm]
  | .faults _ => [.faults]
  | .draw => [.freeCount]
  | .fresh => [.regs, .latches, .bus, .mem, .flips, .links, .fabricEnded, .engines, .drains, .claims, .progs, .nextHandle,
      .ctxs, .residual, .selState, .selAccts, .locks, .waits, .xlat, .chanQueues, .flying, .served, .psram, .ftl, .reflex,
      .ports, .grid, .plan, .clock, .sdio, .boot, .casc, .power, .therm, .faults]

theorem Upd.writes_eq_false_of_not_mem {u : Upd} {f : Fld} (h : f ∉ u.fields) : u.writes f = false := by
  cases u with
  | fresh => cases f <;> simp_all
  | _ => simpa using h

/-- The update writes no field but those listed. -/
def Upd.Within (u : Upd) (l : List Fld) : Prop := ∀ f ∈ u.fields, f ∈ l

@[simp] theorem Upd.within_iff {u : Upd} {l : List Fld} : u.Within l ↔ ∀ f ∈ u.fields, f ∈ l :=
  ⟨fun h => h, fun h => h⟩

/-! The rules by which `simp` finds the fields an action writes. -/

@[simp] theorem writes_make {u : Upd} (h : u.Within l) : (Act.make u).Writes l :=
  fun s => Act.Gives.make fun f hf => s.fld_upd u f (Upd.writes_eq_false_of_not_mem fun hu => hf (h f hu))

@[simp] theorem writes_pure (a : α) : (pure a : Act α).Writes l := fun s => Act.Gives.pure (.refl l s)

@[simp] theorem writes_get : Act.get.Writes l := fun s => Act.Gives.get (.refl l s)

@[simp] theorem writes_bind {x : Act α} {f : α → Act β} (hx : x.Writes l) (hf : ∀ a, (f a).Writes l) :
    (x >>= f).Writes l :=
  fun s => (hx s).bind fun a t ht => (hf a t).mono fun _ _ hu => ht.trans hu

@[simp] theorem writes_map {x : Act α} (f : α → β) (hx : x.Writes l) : (f <$> x).Writes l :=
  writes_bind hx fun a => writes_pure (f a)

@[simp] theorem writes_nothing : nothing.Writes l := writes_pure ()

@[simp] theorem writes_ite {p : Prop} [Decidable p] {x y : Act α} (hx : x.Writes l) (hy : y.Writes l) :
    (if p then x else y).Writes l := by split <;> assumption

@[simp] theorem writes_forIn {γ : Type} {f : γ → β → Act (ForInStep β)} (hf : ∀ c b, (f c b).Writes l) (cs : List γ)
    (b : β) : (forIn cs b f : Act β).Writes l := fun s =>
  Act.Gives.loop (I := fun _ t => s.SameBut l t)
    (fun c b t ht => (hf c b t).mono fun r _ hu => by cases r <;> exact ht.trans hu) cs b s (.refl l s)

@[simp] theorem writes_reg (r : Reg) (i : Nat) (w : Word) (h : Fld.regs ∈ l) : (Act.reg r i w).Writes l :=
  writes_make (by simpa using h)

@[simp] theorem writes_regAt (r : Reg) (i j : Nat) (w : Word) (h : Fld.regs ∈ l) : (Act.regAt r i j w).Writes l :=
  writes_make (by simpa using h)

@[simp] theorem writes_regField (r : Reg) (i hi lo v : Nat) (h : Fld.regs ∈ l) :
    (Act.regField r i hi lo v).Writes l := by simp [Act.regField, h]

@[simp] theorem writes_count (r : Reg) (i n : Nat) (h : Fld.regs ∈ l) : (Act.count r i n).Writes l := by
  simp [Act.count, h]

@[simp] theorem writes_countSat (r : Reg) (i hi lo n : Nat) (h : Fld.regs ∈ l) :
    (Act.countSat r i hi lo n).Writes l := by simp [Act.countSat, h]

@[simp] theorem writes_setBit3 (r : Reg) (n : Nat) (v : Bool) (h : Fld.regs ∈ l) :
    (Act.setBit3 r n v).Writes l := by simp [Act.setBit3, h]

@[simp] theorem writes_bus (who : Who) (code : Nat) (data : Word) (h : Fld.bus ∈ l) : (Act.bus who code data).Writes l :=
  writes_make (by simpa using h)

/-- An action after a look at the state. -/
theorem writes_get_bind {f : State → Act β} (h : ∀ s, (f s).Writes l) : (Act.get >>= f).Writes l := writes_bind writes_get h

theorem writes_make_bind {u : Upd} {f : Unit → Act β} (h : u.Within l) (hf : (f ()).Writes l) : (Act.make u >>= f).Writes l :=
  writes_bind (writes_make h) fun _ => hf

@[simp] theorem writes_draw (h : Fld.freeCount ∈ l) : Act.draw.Writes l :=
  writes_get_bind fun s => by simp [h]

@[simp] theorem writes_modCtx (c : Nat) (f : Context → Context) (h : Fld.ctxs ∈ l) : (Act.modCtx c f).Writes l :=
  writes_get_bind fun s => by simp [h]

@[simp] theorem writes_modLock (n : Nat) (f : Lock → Lock) (h : Fld.locks ∈ l) : (Act.modLock n f).Writes l :=
  writes_get_bind fun s => by simp [h]

@[simp] theorem writes_telDrop (h : Fld.sdio ∈ l) (h' : Fld.regs ∈ l) : telDrop.Writes l :=
  writes_get_bind fun s => by simp [h, h']

@[simp] theorem writes_telemetry (type : Nat) (payload : List Byte) (h : Fld.sdio ∈ l) (h' : Fld.regs ∈ l) :
    (telemetry type payload).Writes l := by
  refine writes_get_bind fun s => writes_make_bind (by simp [h]) (writes_ite (by simp [h]) ?_)
  refine writes_bind (by simp [h, h']) fun _ => ?_
  split
  · exact writes_get_bind fun t => by simp [h]
  · simp

@[simp] theorem writes_fault (r : FaultRec) (h : Fld.faults ∈ l) (h' : Fld.regs ∈ l) (h'' : Fld.sdio ∈ l) :
    (fault r).Writes l := by
  have hRest (seq : Nat) (ws : List Word) : (do
      Act.regField .sdioIntStat 0 1 1 1
      telemetry 4 (ws.flatMap fun w => bytesOf 4 w.toNat)
      return seq : Act Nat).Writes l := writes_bind (by simp [h']) fun _ => by simp [h', h'']
  refine writes_get_bind fun s => writes_make_bind (by simp [h]) (writes_ite ?_ (hRest _ _))
  exact writes_bind (by simp [h']) fun _ => hRest _ _

end Sys2Proof.Machine

/-!
PROOF. Actions that leave nothing open for a command to settle, and what the end of a wait changes.
-/
namespace Sys2Proof.Machine

variable {α β : Type} {l : List Fld}

/-! ## Tables -/

theorem Sparse.mem_of_find {γ : Type} {t : Sparse γ} {k : Nat} {a : γ} (h : t.find k = some a) : (k, a) ∈ t := by
  induction t with
  | nil => cases h
  | cons e t ih =>
    obtain ⟨j, b⟩ := e
    rw [Sparse.find] at h
    split at h
    · next hj =>
      cases h
      cases hj
      exact List.mem_cons_self
    · exact List.mem_cons_of_mem _ (ih h)

theorem Sparse.all_put {γ : Type} {t : Sparse γ} {p : Nat × γ → Bool} {k : Nat} {a : γ} (h : t.all p = true)
    (ha : p (k, a) = true) : (t.put k a).all p = true := by
  rw [List.all_eq_true] at h ⊢
  intro e he
  rcases Sparse.mem_put he with hOld | rfl
  · exact h e hOld
  · exact ha

/-! ## Quiet -/

/-- What quiet reads of the state. -/
def quietFields : List Fld := [.flying, .ctxs, .plan, .grid, .xlat]

theorem State.quiet_of_sameBut {s t : State} (h : s.SameBut l t) (hl : ∀ f ∈ quietFields, f ∉ l) : t.quiet = s.quiet := by
  have hFlying : t.flying = s.flying := h .flying (hl _ (by decide))
  have hCtxs : t.ctxs = s.ctxs := h .ctxs (hl _ (by decide))
  have hPlan : t.plan = s.plan := h .plan (hl _ (by decide))
  have hGrid : t.grid = s.grid := h .grid (hl _ (by decide))
  have hXlat : t.xlat = s.xlat := h .xlat (hl _ (by decide))
  simp only [State.quiet, hFlying, hCtxs, hPlan, hGrid, hXlat]

/-- No kernel of a quiet device waits to end. -/
theorem State.not_settles_of_quiet {s : State} (h : s.quiet = true) (c : Nat) : (s.ctx c).kern.any Kernel.settles = false := by
  simp only [State.quiet, Bool.and_eq_true, List.all_eq_true, Bool.not_eq_true'] at h
  cases hFind : s.ctxs.find c with
  | none => simp [State.ctx, Sparse.at, hFind]
  | some x => simpa [State.ctx, Sparse.at, hFind] using h.1.1.1.1.1.1.1.1.1.1.2 _ (Sparse.mem_of_find hFind)

theorem State.quiet_upd_ctx {s : State} (h : s.quiet = true) {c : Nat} {x : Context}
    (hx : x.kern.any Kernel.settles = false) : (s.upd (.ctx c x)).quiet = true := by
  simp only [State.quiet, Bool.and_eq_true] at h ⊢
  obtain ⟨⟨⟨⟨⟨⟨⟨⟨⟨⟨⟨h1, h2⟩, h3⟩, h4⟩, h5⟩, h6⟩, h7⟩, h8⟩, h9⟩, h10⟩, h11⟩, h12⟩ := h
  exact ⟨⟨⟨⟨⟨⟨⟨⟨⟨⟨⟨h1, Sparse.all_put h2 (by simpa using hx)⟩, h3⟩, h4⟩, h5⟩, h6⟩, h7⟩, h8⟩, h9⟩, h10⟩, h11⟩, h12⟩

theorem State.quiet_upd_fly {s : State} (h : s.quiet = true) {slot : Nat} {b : Barge}
    (hb : b.waitCode = none) : (s.upd (.fly slot b)).quiet = true := by
  simp only [State.quiet, Bool.and_eq_true] at h ⊢
  obtain ⟨⟨⟨⟨⟨⟨⟨⟨⟨⟨⟨h1, h2⟩, h3⟩, h4⟩, h5⟩, h6⟩, h7⟩, h8⟩, h9⟩, h10⟩, h11⟩, h12⟩ := h
  exact ⟨⟨⟨⟨⟨⟨⟨⟨⟨⟨⟨Sparse.all_put h1 (by simp [hb]), h2⟩, h3⟩, h4⟩, h5⟩, h6⟩, h7⟩, h8⟩, h9⟩, h10⟩, h11⟩, h12⟩

/-- The action leaves a quiet device quiet. -/
def Act.StaysQuiet (x : Act α) : Prop := ∀ s, s.quiet = true → x.Does s fun _ t => t.quiet = true

theorem staysQuiet_of_writes {x : Act α} (h : x.Writes l) (hl : ∀ f ∈ quietFields, f ∉ l) : x.StaysQuiet :=
  fun s hs => (h.does s).mono fun _ _ ht => (State.quiet_of_sameBut ht hl).trans hs

theorem staysQuiet_pure (a : α) : (pure a : Act α).StaysQuiet := fun _ hs => Act.Does.pure hs

theorem staysQuiet_nothing : nothing.StaysQuiet := staysQuiet_pure ()

theorem staysQuiet_bind {x : Act α} {f : α → Act β} (hx : x.StaysQuiet) (hf : ∀ a, (f a).StaysQuiet) :
    (x >>= f).StaysQuiet := fun s hs => (hx s hs).bind fun a t ht => hf a t ht

theorem staysQuiet_ite {p : Prop} [Decidable p] {x y : Act α} (hx : x.StaysQuiet) (hy : y.StaysQuiet) :
    (if p then x else y).StaysQuiet := by split <;> assumption

theorem staysQuiet_forIn {γ : Type} {f : γ → β → Act (ForInStep β)} (hf : ∀ c b, (f c b).StaysQuiet) (cs : List γ)
    (b : β) : (forIn cs b f : Act β).StaysQuiet := fun s hs =>
  Act.Does.loop (I := fun _ t => t.quiet = true)
    (fun c b t ht => (hf c b t ht).mono fun r _ hu => by cases r <;> exact hu) cs b s hs

/-- A change of a context that leaves its kernel, or lets it wait for nothing that failed. -/
theorem staysQuiet_modCtx (c : Nat) {f : Context → Context}
    (h : ∀ x : Context, x.kern.any Kernel.settles = false → (f x).kern.any Kernel.settles = false) :
    (Act.modCtx c f).StaysQuiet := fun s hs =>
  Act.Does.get_bind (Act.Does.make (State.quiet_upd_ctx hs (h _ (s.not_settles_of_quiet hs c))))

theorem staysQuiet_modCtx_kern (c : Nat) {f : Context → Context} (h : ∀ x : Context, (f x).kern = x.kern) :
    (Act.modCtx c f).StaysQuiet := staysQuiet_modCtx c fun x hx => (h x).symm ▸ hx

/-! ## Memory and rings -/

@[simp] theorem writes_freshCheck (pa n : Nat) (h : Fld.flips ∈ l) (h' : Fld.faults ∈ l) : (freshCheck pa n).Writes l := by
  refine writes_get_bind fun s => writes_bind (writes_forIn (fun c b => ?_) _ _) fun _ => ?_
  · exact writes_ite (writes_make_bind (by simp [h]) (by simp)) (by simp)
  · split
    · exact writes_ite (writes_make_bind (by simp [h]) (by simp [h'])) (by simp)
    · simp

@[simp] theorem writes_writePhys (pa : Nat) (bs : List Byte) (h : Fld.mem ∈ l) (h' : Fld.flips ∈ l) (h'' : Fld.faults ∈ l) :
    (writePhys pa bs).Writes l := writes_make_bind (by simp [h]) (by simp [h', h''])

/-- The fields a completion may write. -/
def completeFields : List Fld := [.mem, .flips, .faults, .ctxs]

theorem writes_ringWrite (c : Nat) (r : CRec) (h : completeFields ⊆ l) : (ringWrite c r).Writes l := by
  have hCtxs : Fld.ctxs ∈ l := h (by decide)
  refine writes_get_bind fun s => ?_
  dsimp only
  split
  · exact writes_bind (writes_writePhys _ _ (h (by decide)) (h (by decide)) (h (by decide))) fun _ => by simp [hCtxs]
  · exact writes_bind (by simp) fun _ => by simp [hCtxs]

theorem writes_complete (c : Nat) (r : CRec) (h : completeFields ⊆ l) : (complete c r).Writes l := by
  have hCtxs : Fld.ctxs ∈ l := h (by decide)
  exact writes_get_bind fun s => writes_ite (by simp) (writes_ite (by simp [hCtxs]) (writes_ringWrite c r h))

theorem staysQuiet_writePhys (pa : Nat) (bs : List Byte) : (writePhys pa bs).StaysQuiet :=
  staysQuiet_of_writes (l := [.mem, .flips, .faults]) (writes_writePhys pa bs (by decide) (by decide) (by decide))
    (by decide)

theorem staysQuiet_ringWrite (c : Nat) (r : CRec) : (ringWrite c r).StaysQuiet := by
  intro s hs
  refine Act.Does.get_bind ?_
  dsimp only
  split
  · exact staysQuiet_bind (staysQuiet_writePhys _ _)
      (fun _ => staysQuiet_modCtx_kern c (by intro; rfl)) s hs
  · exact staysQuiet_bind staysQuiet_nothing (fun _ => staysQuiet_modCtx_kern c (by intro; rfl)) s hs

theorem staysQuiet_complete (c : Nat) (r : CRec) : (complete c r).StaysQuiet := by
  intro s hs
  refine Act.Does.get_bind (Act.Does.ite (fun _ => Act.Does.pure hs) fun _ => Act.Does.ite (fun _ => ?_) fun _ => ?_)
  · exact staysQuiet_modCtx_kern c (by intro; rfl) s hs
  · exact staysQuiet_ringWrite c r s hs

/-! ## The end of a wait -/

/-- The fields in which the outcome of a wait is kept. -/
def outcomeFields : List Fld := [.regs, .sdio, .flying, .mem, .flips, .faults, .ctxs]

/-- The fields the end of a wait may write. -/
def waitFields : List Fld := .waits :: outcomeFields

theorem writes_endArmed (who : Who) (w : LWait) (code : Nat) (torn : Option Nat) :
    (endArmed who w code torn).Writes outcomeFields := by
  have hRing (s : State) : (if (s.ctx w.ring).st ≠ .free ∧ torn ≠ some w.ring then
      complete w.ring { s.record w.ring code Block.lock 3 with
        tag := w.tag, time := Word.ofNat (s.nowLo + 2 ^ 32 - (match w.deadline with
          | some d => if code = Code.timeout then s.ns - d else 0
          | none => 0) % 2 ^ 32), detail := (s.lockAt w.lock).level.toNat, aux := w.lock }
      else pure ()).Writes outcomeFields := writes_ite (writes_complete _ _ (by decide)) (by simp)
  refine writes_get_bind fun s => writes_bind (by simp [outcomeFields]) fun _ => writes_ite ?_ (hRing s)
  exact writes_bind (by simp [outcomeFields]) fun _ => hRing s

/-- The fields the copy of an outcome to kennels may write. -/
def kennelFields : List Fld := [.mem, .flips, .faults]

theorem writes_copyOutcome (c code : Nat) : (copyOutcome c code).Writes kennelFields := by
  refine writes_get_bind fun s => ?_
  split
  · refine writes_ite (writes_forIn (fun x b => ?_) _ _) (by simp)
    exact writes_ite (writes_bind (by simp [kennelFields]) (by simp)) (by simp)
  · simp

/-- The end of a wait takes it from the table, and keeps its outcome where its block acts on it. -/
theorem endWait_does (w : LWait) (code : Nat) (torn : Option Nat) (s : State) :
    (endWait w code torn).Does s fun _ t => t.waits = s.waits.erase w ∧ s.SameBut waitFields t := by
  have hRest {x : Act Unit} (hx : x.Writes outcomeFields) : x.Does (s.upd (.waits (s.waits.erase w))) fun _ t =>
      t.waits = s.waits.erase w ∧ s.SameBut waitFields t := by
    refine (hx.does _).mono fun _ t ht => ⟨ht .waits (by decide), fun f hf => ?_⟩
    exact (ht f fun h => hf (List.mem_cons_of_mem _ h)).trans (s.fld_upd _ f (Upd.writes_eq_false_of_not_mem fun e => hf (List.mem_singleton.mp e ▸ by decide)))
  refine Act.Does.get_bind (Act.Does.make_bind ?_)
  split
  · exact hRest (writes_endArmed _ w code torn)
  · exact hRest (writes_bind (by simp [outcomeFields]) fun _ => (writes_copyOutcome _ code).mono (by decide))
  · split
    · exact hRest (by simp [outcomeFields])
    · exact hRest (by simp)

theorem staysQuiet_endArmed (who : Who) (w : LWait) (code : Nat) (torn : Option Nat) :
    (endArmed who w code torn).StaysQuiet := by
  have hRing (s : State) (r : CRec) : (if (s.ctx w.ring).st ≠ .free ∧ torn ≠ some w.ring then
      complete w.ring r else pure ()).StaysQuiet := staysQuiet_ite (staysQuiet_complete _ _) (staysQuiet_pure ())
  have hReg (v : Word) : (Act.reg .lockLast who.val v).StaysQuiet :=
    staysQuiet_of_writes (l := [.regs]) (by simp) (by decide)
  have hFault (r : FaultRec) : (fault r).StaysQuiet :=
    staysQuiet_of_writes (l := [.faults, .regs, .sdio]) (by simp) (by decide)
  intro s hs
  refine Act.Does.get_bind (staysQuiet_bind (hReg _) (fun _ => staysQuiet_ite ?_ (hRing s _)) s hs)
  exact staysQuiet_bind (hFault _) fun _ => hRing s _

theorem Kernel.not_settles_of_good {k : Kernel} {code : Nat} (hGood : Code.good code = true) (b : Bool) :
    Kernel.settles { k with wait := some code, okAtDeadline := b } = false := by
  simp [Kernel.settles, hGood]

/-- A wait that ends well leaves nothing to settle. -/
theorem staysQuiet_endWait (w : LWait) {code : Nat} (torn : Option Nat) (hGood : Code.good code = true) :
    (endWait w code torn).StaysQuiet := by
  intro s hs
  have hs' : (s.upd (.waits (s.waits.erase w))).quiet = true := by simpa using hs
  refine Act.Does.get_bind (Act.Does.make_bind ?_)
  split
  · exact staysQuiet_endArmed _ w code torn _ hs'
  · refine staysQuiet_bind (staysQuiet_modCtx _ fun x _ => ?_)
      (fun _ => staysQuiet_of_writes (writes_copyOutcome _ code) (by decide)) _ hs'
    cases hk : x.kern with
    | none => simp
    | some k => simpa [hk] using Kernel.not_settles_of_good hGood _
  · split
    · exact Act.Does.make (State.quiet_upd_fly hs' (by simp [hGood]))
    · exact Act.Does.pure hs'

end Sys2Proof.Machine

/-!
PROOF. Which registers an action leaves.
-/
namespace Sys2Proof.Machine

variable {α β γ : Type}

/-- An action that does not write a field leaves what is read off it. -/
theorem frames_of_writes {f : State → γ} {l : List Fld} {x : Act α} (h : x.Writes l)
    (hf : ∀ s t, s.SameBut l t → f t = f s) : x.Frames f :=
  fun s => (h.does s).mono fun _ t ht => hf s t ht

/-! ## Registers an action leaves -/

/-- The action does not write the register at offset `o`. -/
def Act.KeepsReg (o : Nat) (x : Act α) : Prop := x.Frames fun s => s.regs.find o

variable {o : Nat}

theorem State.rg_eq_of_find {s t : State} {r : Reg} {i j : Nat} (h : t.regs.find (r.off i j) = s.regs.find (r.off i j)) :
    t.rg r i j = s.rg r i j := by simp only [State.rg, Sparse.at, h]

@[simp] theorem keepsReg_pure (a : α) : (pure a : Act α).KeepsReg o := Act.Frames.pure a
@[simp] theorem keepsReg_nothing : nothing.KeepsReg o := Act.Frames.pure ()
theorem keepsReg_bind {x : Act α} {g : α → Act β} (hx : x.KeepsReg o) (hg : ∀ a, (g a).KeepsReg o) :
    (x >>= g).KeepsReg o := Act.Frames.bind hx hg
theorem keepsReg_get_bind {g : State → Act β} (hg : ∀ s, (g s).KeepsReg o) : (Act.get >>= g).KeepsReg o :=
  Act.Frames.bind Act.Frames.get hg
theorem keepsReg_ite {p : Prop} [Decidable p] {x y : Act α} (hx : x.KeepsReg o) (hy : y.KeepsReg o) :
    (if p then x else y).KeepsReg o := Act.Frames.ite hx hy
theorem keepsReg_forIn {δ : Type} {g : δ → β → Act (ForInStep β)} (hg : ∀ c b, (g c b).KeepsReg o) (cs : List δ) (b : β) :
    (forIn cs b g : Act β).KeepsReg o := Act.Frames.loop hg cs b

theorem keepsReg_make {u : Upd} (h : u.writes .regs = false) : (Act.make u).KeepsReg o :=
  Act.Frames.make fun s => by rw [State.upd_regs s u h]

theorem keepsReg_regAt {r : Reg} {i j : Nat} (w : Word) (h : o ≠ r.off i j) : (Act.regAt r i j w).KeepsReg o :=
  Act.Frames.make fun s => s.find_upd_reg_other w h

theorem keepsReg_reg {r : Reg} {i : Nat} (w : Word) (h : o ≠ r.off i 0) : (Act.reg r i w).KeepsReg o := keepsReg_regAt w h

theorem keepsReg_regField {r : Reg} {i : Nat} (hi lo v : Nat) (h : o ≠ r.off i 0) : (Act.regField r i hi lo v).KeepsReg o :=
  keepsReg_get_bind fun _ => keepsReg_reg _ h

theorem keepsReg_count {r : Reg} {i : Nat} (n : Nat) (h : o ≠ r.off i 0) : (Act.count r i n).KeepsReg o :=
  keepsReg_get_bind fun _ => keepsReg_reg _ h

theorem keepsReg_countSat {r : Reg} {i : Nat} (hi lo n : Nat) (h : o ≠ r.off i 0) : (Act.countSat r i hi lo n).KeepsReg o :=
  keepsReg_get_bind fun _ => keepsReg_regField hi lo _ h

theorem keepsReg_setBit3 {r : Reg} {n : Nat} (v : Bool) (h : o ≠ r.off (n / 32) 0) : (Act.setBit3 r n v).KeepsReg o :=
  keepsReg_regField _ _ _ h

theorem keepsReg_of_writes {l : List Fld} {x : Act α} (h : x.Writes l) (hl : Fld.regs ∉ l) : x.KeepsReg o :=
  frames_of_writes h fun _ _ ht => congrArg (fun w : Sparse Word => w.find o) (ht .regs hl)

/-! ## What a command does, said in parts -/

theorem State.does.and {s : State} {c : Instr} {P Q : State → Prop} (h : s.does c P) (h' : s.does c Q) :
    s.does c fun t => P t ∧ Q t := by
  obtain ⟨t, hExec, hP⟩ := h
  obtain ⟨u, hExec', hQ⟩ := h'
  cases hExec.symm.trans hExec'
  exact ⟨t, hExec, hP, hQ⟩

theorem State.does.mono {s : State} {c : Instr} {P Q : State → Prop} (h : s.does c P) (hi : ∀ t, P t → Q t) :
    s.does c Q := by
  obtain ⟨t, hExec, hP⟩ := h
  exact ⟨t, hExec, hi t hP⟩

/-! ## One operation, then the rest -/

section
variable {s : State} {f : Unit → Act β} {R : β → State → Prop}

theorem Act.Does.reg_bind {r : Reg} {i : Nat} {w : Word} (h : (f ()).Does (s.upd (.reg (r.off i 0) w)) R) :
    (Act.reg r i w >>= f).Does s R := fun k => h k

theorem Act.Does.regField_bind {r : Reg} {i hi lo v : Nat}
    (h : (f ()).Does (s.upd (.reg (r.off i 0) (setField (s.rg r i) hi lo v))) R) :
    (Act.regField r i hi lo v >>= f).Does s R := fun k => h k

theorem Act.Does.count_bind {r : Reg} {i n : Nat} (h : (f ()).Does (s.upd (.reg (r.off i 0) (s.rg r i + Word.ofNat n))) R) :
    (Act.count r i n >>= f).Does s R := fun k => h k

theorem Act.Does.countSat_bind {r : Reg} {i hi lo n : Nat}
    (h : (f ()).Does (s.upd (.reg (r.off i 0) (setField (s.rg r i) hi lo (min (2 ^ (hi + 1 - lo) - 1) (s.rf r i hi lo + n))))) R) :
    (Act.countSat r i hi lo n >>= f).Does s R := fun k => h k

theorem Act.Does.modCtx_bind {c : Nat} {g : Context → Context} (h : (f ()).Does (s.upd (.ctx c (g (s.ctx c)))) R) :
    (Act.modCtx c g >>= f).Does s R := fun k => h k

theorem Act.Does.modLock_bind {n : Nat} {g : Lock → Lock} (h : (f ()).Does (s.upd (.lock n (g (s.lockAt n)))) R) :
    (Act.modLock n g >>= f).Does s R := fun k => h k

end

/-! ## States that agree in every field -/

theorem State.ext_fld {s t : State} (h : ∀ f, s.fld f = t.fld f) : s = t := by
  cases s
  cases t
  rw [State.mk.injEq]
  exact ⟨h .pending, h .regs, h .latches, h .bus, h .mem, h .flips, h .nor, h .links, h .fabricEnded, h .engines, h
    .drains, h .claims, h .progs, h .nextHandle, h .ctxs, h .residual, h .selState, h .selAccts, h .locks, h
    .waits, h .xlat, h .chanQueues, h .flying, h .served, h .psram, h .ftl, h .reflex, h .ports, h .grid, h .plan,
    h .clock, h .sdio, h .boot, h .casc, h .power, h .therm, h .faults, h .freeCount⟩

end Sys2Proof.Machine

/-!
PROOF. Bit fields of registers, time that passes, and fault records.
-/
namespace Sys2Proof.Machine

variable {w : Nat}

theorem testBit_field (x : BitVec w) (hi lo i : Nat) : (field x hi lo).testBit i = (decide (i < hi + 1 - lo) && flag x (i + lo)) := by
  rw [field, Nat.testBit_mod_two_pow, Nat.testBit_div_two_pow, flag, BitVec.testBit_toNat]

/-- The bits of a word with a field replaced. -/
theorem flag_setField (x : BitVec w) (hi lo v : Nat) {b : Nat} (hb : b < w) :
    flag (setField x hi lo v) b = if lo ≤ b ∧ b ≤ hi then v.testBit (b - lo) else flag x b := by
  have hMask : (BitVec.ofNat w ((2 ^ (hi + 1 - lo) - 1) * 2 ^ lo)).getLsbD b = decide (lo ≤ b ∧ b ≤ hi) := by
    rw [BitVec.getLsbD_ofNat, Nat.testBit_mul_two_pow, Nat.testBit_two_pow_sub_one]
    simp only [hb, decide_true, Bool.true_and]
    grind
  simp only [flag, setField, BitVec.getLsbD_or, BitVec.getLsbD_and, BitVec.getLsbD_not, hMask, hb, decide_true, Bool.true_and,
    BitVec.getLsbD_ofNat, Nat.testBit_mul_two_pow]
  by_cases hIn : lo ≤ b ∧ b ≤ hi
  · simp [hIn]
  · simp [hIn]

/-- A bit inside a field of one bit. -/
@[simp] theorem flag_setField_same (x : Word) {b : Nat} (v : Nat) (hb : b < 32) :
    flag (setField x b b v) b = v.testBit 0 := by
  simp [flag_setField x b b v hb]

theorem flag_setField_other (x : Word) {hi lo b : Nat} (v : Nat) (h : ¬(lo ≤ b ∧ b ≤ hi)) :
    flag (setField x hi lo v) b = flag x b := by
  by_cases hb : b < 32
  · rw [flag_setField x hi lo v hb, if_neg h]
  · simp [flag, BitVec.getLsbD_of_ge _ _ (Nat.le_of_not_lt hb)]

/-- A field that has been replaced. -/
theorem field_setField_same (x : BitVec w) {hi lo : Nat} (v : Nat) (h : hi < w) :
    field (setField x hi lo v) hi lo = v % 2 ^ (hi + 1 - lo) := by
  refine Nat.eq_of_testBit_eq fun i => ?_
  rw [testBit_field, Nat.testBit_mod_two_pow]
  by_cases hi' : i < hi + 1 - lo
  · rw [flag_setField x hi lo v (by omega), if_pos (by omega), Nat.add_sub_cancel]
  · simp [hi']

/-- A field beside the one replaced. -/
theorem field_setField_other (x : Word) {hi lo hi' lo' : Nat} (v : Nat) (h : hi < lo' ∨ hi' < lo) :
    field (setField x hi lo v) hi' lo' = field x hi' lo' := by
  refine Nat.eq_of_testBit_eq fun i => ?_
  rw [testBit_field, testBit_field]
  by_cases hi : i < hi' + 1 - lo'
  · rw [flag_setField_other x v (by omega)]
  · simp [hi]

theorem field_lt (x : BitVec w) (hi lo : Nat) : field x hi lo < 2 ^ (hi + 1 - lo) := Nat.mod_lt _ (Nat.two_pow_pos _)

@[simp] theorem b2n_true : b2n true = 1 := rfl
@[simp] theorem b2n_false : b2n false = 0 := rfl

@[simp] theorem testBit_b2n (v : Bool) : (b2n v).testBit 0 = v := by cases v <;> rfl

/-- The count in a field that holds at its top value. -/
theorem field_countSat (x : BitVec w) {hi lo : Nat} (n : Nat) (h : hi < w) :
    field (setField x hi lo (min (2 ^ (hi + 1 - lo) - 1) n)) hi lo = min (2 ^ (hi + 1 - lo) - 1) n := by
  rw [field_setField_same _ _ h]
  have := Nat.two_pow_pos (hi + 1 - lo)
  exact Nat.mod_eq_of_lt (by omega)

/-! ## Time that passes -/

/-- A time that has come is not waited for. -/
@[simp] theorem run_reach_past {s : State} {ns : Nat} (h : ns * nsUnit ≤ s.clock.elapsed) (k : Unit → Run) :
    Run.run (reach ns k) s = Run.run (k ()) s := by
  have hBody : reach ns k = Run.look fun t => (if t.clock.elapsed < ns * nsUnit then
    passUnits (ns * nsUnit - t.clock.elapsed) else pure ()) k := rfl
  rw [hBody, Run.run_look, if_neg (Nat.not_lt.mpr h)]
  rfl

/-! ## Fault records -/

/-- The registers a fault record may write. -/
def recordRegs : List Nat := [Reg.off .faultLost 0 0, Reg.off .sdioIntStat 0 0, Reg.off .sdioTelLost 0 0]

theorem keepsReg_telDrop {o : Nat} (h : o ∉ recordRegs) : telDrop.KeepsReg o :=
  keepsReg_get_bind fun _ => keepsReg_bind (keepsReg_make rfl) fun _ =>
    keepsReg_countSat _ _ _ (by simp_all [recordRegs])

theorem keepsReg_telemetry {o : Nat} (h : o ∉ recordRegs) (type : Nat) (payload : List Byte) :
    (telemetry type payload).KeepsReg o := by
  refine keepsReg_get_bind fun s => keepsReg_bind (keepsReg_make rfl) fun _ => keepsReg_ite (keepsReg_make rfl) ?_
  refine keepsReg_bind (keepsReg_telDrop h) fun _ => ?_
  split
  · exact keepsReg_get_bind fun t => keepsReg_make rfl
  · exact keepsReg_nothing

theorem keepsReg_fault {o : Nat} (h : o ∉ recordRegs) (r : FaultRec) : (fault r).KeepsReg o := by
  have hLost : o ≠ Reg.off .faultLost 0 0 := fun e => h (e ▸ by simp [recordRegs])
  have hStat : o ≠ Reg.off .sdioIntStat 0 0 := fun e => h (e ▸ by simp [recordRegs])
  have hRest (x : Act Nat) (hx : x.KeepsReg o) : (Act.regField .sdioIntStat 0 1 1 1 >>= fun _ => x).KeepsReg o :=
    keepsReg_bind (keepsReg_regField _ _ _ hStat) fun _ => hx
  have hTel (w : List Byte) (seq : Nat) : (do telemetry 4 w; return seq : Act Nat).KeepsReg o :=
    keepsReg_bind (keepsReg_telemetry h _ _) fun _ => keepsReg_pure seq
  refine keepsReg_get_bind fun s => keepsReg_bind (keepsReg_make rfl) fun _ => keepsReg_ite ?_ ?_
  · exact keepsReg_bind (keepsReg_countSat _ _ _ hLost) fun _ => hRest _ (hTel _ _)
  · exact hRest _ (hTel _ _)

/-- One record has been made: beside the fault logger only what the host link sends of it has changed. -/
def State.Recorded (s t : State) : Prop :=
  s.SameBut [.faults, .regs, .sdio] t ∧ t.faults.seq = (s.faults.seq + 1) % 2 ^ 32 ∧
  ∀ o, o ∉ recordRegs → t.regs.find o = s.regs.find o

theorem fault_seq (s : State) (r : FaultRec) : (fault r).Does s fun _ t => t.faults.seq = (s.faults.seq + 1) % 2 ^ 32 := by
  have hRest (w : List Byte) (seq : Nat) : (do Act.regField .sdioIntStat 0 1 1 1; telemetry 4 w; return seq : Act Nat).Writes
      [.regs, .sdio] := writes_bind (by simp) fun _ => by simp
  have hSeq {x : Act Nat} (hx : x.Writes [.regs, .sdio]) {u : State} (hu : u.faults.seq = (s.faults.seq + 1) % 2 ^ 32) :
      x.Does u fun _ t => t.faults.seq = (s.faults.seq + 1) % 2 ^ 32 :=
    (hx.does u).mono fun _ t ht => (congrArg FaultLog.seq (ht .faults (by decide))).trans hu
  refine Act.Does.get_bind (Act.Does.make_bind (Act.Does.ite (fun _ => ?_) fun _ => ?_))
  · exact hSeq (writes_bind (by simp) fun _ => hRest _ _) rfl
  · exact hSeq (hRest _ _) rfl

theorem fault_gives (s : State) (r : FaultRec) : (fault r).Gives s fun _ t => s.Recorded t := by
  have hWrites : (fault r).Writes [.faults, .regs, .sdio] := writes_fault r (by decide) (by decide) (by decide)
  obtain ⟨a, t, hSame, hRun⟩ := hWrites s
  exact ⟨a, t, ⟨hSame, (fault_seq s r).of_run hRun, fun o ho => (keepsReg_fault ho r s).of_run hRun⟩, hRun⟩

end Sys2Proof.Machine

/-!
PROOF. The pointer commands of the Weir (R285 to R287, R290).
-/
namespace Sys2Proof.Machine

/-! ## The queue's registers -/

/-- The pointers of a queue: line counts WR, CM, RD, MK and RL. -/
def pointerRegs : List Reg := [.weirQWr, .weirQCm, .weirQRd, .weirQMk, .weirQRl]

theorem Reg.off_pointer_ne_ethPause {r : Reg} (hr : r ∈ pointerRegs) (q n : Nat) :
    r.off q 0 ≠ Reg.off .ethPause n 0 := by
  simp only [pointerRegs, List.mem_cons, List.not_mem_nil, or_false] at hr
  rcases hr with rfl | rfl | rfl | rfl | rfl <;> simp [Reg.off, Reg.row] <;> omega

theorem Reg.off_pointer_ne_weirQStat {r : Reg} (hr : r ∈ pointerRegs) (q n : Nat) : r.off q 0 ≠ Reg.off .weirQStat n 0 := by
  simp only [pointerRegs, List.mem_cons, List.not_mem_nil, or_false] at hr
  rcases hr with rfl | rfl | rfl | rfl | rfl <;> simp [Reg.off, Reg.row] <;> omega

theorem Reg.off_pointer_ne_weirStatus {r : Reg} (hr : r ∈ pointerRegs) {q : Nat} (hq : q < 64) (n : Nat) :
    r.off q 0 ≠ Reg.off .weirStatus n 0 := by
  simp only [pointerRegs, List.mem_cons, List.not_mem_nil, or_false] at hr
  rcases hr with rfl | rfl | rfl | rfl | rfl <;> simp [Reg.off, Reg.row] <;> omega

/-- Two pointers at one offset are the same pointer of the same queue. -/
theorem Reg.off_pointer_inj {r r' : Reg} (hr : r ∈ pointerRegs) (hr' : r' ∈ pointerRegs) {q q' : Nat}
    (h : r.off q 0 = r'.off q' 0) : r = r' ∧ q = q' := by
  have hBase : r.row.base = r'.row.base → r = r' := by
    simp only [pointerRegs, List.mem_cons, List.not_mem_nil, or_false] at hr hr'
    rcases hr with rfl | rfl | rfl | rfl | rfl <;> rcases hr' with rfl | rfl | rfl | rfl | rfl <;> simp [Reg.row]
  have hRow {x : Reg} (hx : x ∈ pointerRegs) : x.row.si = 0x40 ∧ x.row.sj = 0 ∧ 0x90018 ≤ x.row.base ∧ x.row.base < 0x90058 := by
    simp only [pointerRegs, List.mem_cons, List.not_mem_nil, or_false] at hx
    rcases hx with rfl | rfl | rfl | rfl | rfl <;> simp [Reg.row]
  obtain ⟨hi, hj, hLo, hHi⟩ := hRow hr
  obtain ⟨hi', hj', hLo', hHi'⟩ := hRow hr'
  simp only [Reg.off, hi, hj, hi', hj', Nat.zero_mul, Nat.add_zero] at h
  exact ⟨hBase (by omega), by omega⟩

/-! ## What the rest of a release leaves -/

/-- What a release writes beside the queue's own pointers. -/
def releaseFields : List Fld := [.regs, .ports]

theorem writes_sendPause (q quanta : Nat) : (sendPause q quanta).Writes releaseFields := by
  refine writes_get_bind fun s => ?_
  split
  · exact writes_ite (writes_bind (by simp [releaseFields]) fun _ => by simp [releaseFields]) (by simp)
  · simp

theorem writes_watermark (q occ : Nat) : (watermark q occ).Writes releaseFields := by
  have hState (v quanta : Nat) : (do Act.regField .weirQStat q 19 19 v; sendPause q quanta).Writes releaseFields :=
    writes_bind (by simp [releaseFields]) fun _ => writes_sendPause q quanta
  refine writes_get_bind fun s => writes_ite (writes_ite ?_ (writes_ite ?_ (by simp))) (by simp)
  · exact writes_ite (hState 1 _) (by simp)
  · exact writes_ite (hState 0 _) (by simp)

theorem writes_dropReleased (q : Nat) : (dropReleased q).Writes releaseFields :=
  writes_get_bind fun _ => writes_get_bind fun _ => by simp [releaseFields]

theorem writes_watermarkNow (q : Nat) : (watermarkNow q).Writes releaseFields :=
  writes_get_bind fun s => writes_watermark q (s.qOcc q)

section
variable {o : Nat} (hFc : ∀ n, o ≠ Reg.off .ethPause n 0) (hStat : ∀ n, o ≠ Reg.off .weirQStat n 0)
include hFc

theorem keepsReg_sendPause (q quanta : Nat) : (sendPause q quanta).KeepsReg o := by
  refine keepsReg_get_bind fun s => ?_
  split
  · exact keepsReg_ite (keepsReg_bind (keepsReg_count _ (hFc _))
      fun _ => keepsReg_make rfl) keepsReg_nothing
  · exact keepsReg_nothing

include hStat in
theorem keepsReg_watermark (q occ : Nat) : (watermark q occ).KeepsReg o := by
  have hState (v quanta : Nat) : (do Act.regField .weirQStat q 19 19 v; sendPause q quanta).KeepsReg o :=
    keepsReg_bind (keepsReg_regField _ _ _ (hStat q)) fun _ => keepsReg_sendPause hFc q quanta
  refine keepsReg_get_bind fun s => keepsReg_ite (keepsReg_ite ?_ (keepsReg_ite ?_ ?_)) ?_
  · exact keepsReg_ite (hState 1 _) keepsReg_nothing
  · exact keepsReg_ite (hState 0 _) keepsReg_nothing
  · exact keepsReg_nothing
  · exact keepsReg_nothing

end

/-! ## The commands -/

/-- A pointer command that does `x` for an initiator that may use the queue. -/
def weirGuarded (who : Who) (q : Nat) (x : Act Unit) : Act Nat := do
  let s ← Act.get
  if !privileged who && !flag (s.rg .weirQCfg q) 12 then
    Act.regField .weirStatus who.val 7 0 Code.faultXlat
    return Code.ok
  Act.regField .weirStatus who.val 7 0 Code.ok
  x
  return Code.ok

theorem weirCommand_advance (who : Who) (q n : Nat) : weirCommand who 1 q n = weirGuarded who q (weirAdvance q n) := rfl
theorem weirCommand_mark (who : Who) (q n : Nat) : weirCommand who 2 q n = weirGuarded who q (weirMark q) := rfl
theorem weirCommand_rewind (who : Who) (q n : Nat) : weirCommand who 3 q n = weirGuarded who q (weirRewind q) := rfl
theorem weirCommand_release (who : Who) (q n : Nat) : weirCommand who 4 q n = weirGuarded who q (weirRelease q) := rfl

/-- The state once a pointer command has written its status. -/
def State.weirStatusSet (s : State) (who : Who) (code : Nat) : State :=
  s.upd (.reg (Reg.off .weirStatus who.val 0) (setField (s.rg .weirStatus who.val) 7 0 code))

/-- Nothing but the status and the outcome has changed. -/
def State.weirAnswered (s : State) (who : Who) (code : Nat) (t : State) : Prop :=
  t = { s with regs := t.regs, bus := t.bus } ∧
  (t.rg .weirStatus who.val = setField (s.rg .weirStatus who.val) 7 0 code ∧ t.answered who Code.ok) ∧
  regsBut s t [Reg.off .weirStatus who.val 0]

section
variable {s : State} {who : Who} {q : Nat}

theorem State.rg_weirStatusSet (code : Nat) {r : Reg} (hr : r ∈ pointerRegs) (hq : q < 64) :
    (s.weirStatusSet who code).rg r q = s.rg r q :=
  s.rg_upd_reg_other r q 0 _ _ (Reg.off_pointer_ne_weirStatus hr hq who.val)

theorem weirGuarded_barred (hTakes : s.takes who .weirCmd who.val)
    (h : ¬(privileged who = true ∨ flag (s.rg .weirQCfg q) 12 = true)) (x : Act Unit) :
    Run.run (command who .weirCmd who.val (weirGuarded who q x) fun _ => .stop) s =
      (s.weirStatusSet who Code.faultXlat).upd (.bus who.val ⟨Code.ok, 0⟩) := by
  simp only [not_or, Bool.not_eq_true] at h
  simp [run_command hTakes, weirGuarded, h, State.weirStatusSet]

theorem weirGuarded_allowed (hTakes : s.takes who .weirCmd who.val)
    (h : privileged who = true ∨ flag (s.rg .weirQCfg q) 12 = true) (x : Act Unit) :
    Run.run (command who .weirCmd who.val (weirGuarded who q x) fun _ => .stop) s =
      Run.run (x fun _ => .make (.bus who.val ⟨Code.ok, 0⟩) .stop) (s.weirStatusSet who Code.ok) := by
  have hAllowed : ¬(privileged who = false ∧ flag (s.rg .weirQCfg q) 12 = false) := fun ⟨hWho, hFlag⟩ => by
    simp [hWho, hFlag] at h
  simp [run_command hTakes, weirGuarded, hAllowed, State.weirStatusSet]

/-- A command that turns out to write one pointer. -/
theorem moved_of_run {r : Reg} (hr : r ∈ pointerRegs) (hq : q < 64) (w : Word) :
    let t := ((s.weirStatusSet who Code.ok).upd (.reg (r.off q 0) w)).upd (.bus who.val ⟨Code.ok, 0⟩)
    t = { s with regs := t.regs, bus := t.bus } ∧ t.rg r q = w ∧
      (t.rg .weirStatus who.val = setField (s.rg .weirStatus who.val) 7 0 Code.ok ∧ t.answered who Code.ok) ∧
      regsBut s t [r.off q 0, Reg.off .weirStatus who.val 0] := by
  refine ⟨rfl, by simp, ⟨?_, by simp⟩, fun o ho => ?_⟩
  · simp [State.rg_upd_reg_eq, (Reg.off_pointer_ne_weirStatus hr hq who.val).symm, State.weirStatusSet]
  · obtain ⟨ho, ho'⟩ : o ≠ r.off q 0 ∧ o ≠ Reg.off .weirStatus who.val 0 := by simpa using ho
    exact ((s.weirStatusSet who Code.ok).find_upd_reg_other w ho).trans (s.find_upd_reg_other _ ho')

theorem weirAnswered_barred : s.weirAnswered who Code.faultXlat
    ((s.weirStatusSet who Code.faultXlat).upd (.bus who.val ⟨Code.ok, 0⟩)) := by
  refine ⟨rfl, ⟨by simp [State.weirStatusSet], by simp⟩, fun o ho => s.find_upd_reg_other _ ?_⟩
  simpa using ho

/-- What is left of a release once RL and MK have moved. -/
def releaseRest (who : Who) (q : Nat) : Act Unit := do
  dropReleased q
  watermarkNow q
  Act.bus who Code.ok

theorem releaseRest_sameBut (t : State) : t.SameBut [.regs, .ports, .bus] ((releaseRest who q).after t) := by
  have h : (releaseRest who q).Writes [.regs, .ports, .bus] := writes_bind ((writes_dropReleased q).mono (by decide)) fun _ =>
    writes_bind ((writes_watermarkNow q).mono (by decide)) fun _ => by simp
  exact (h.does t).after

theorem releaseRest_answered (t : State) : ((releaseRest who q).after t).answered who Code.ok := by
  have h : (releaseRest who q).Does t fun _ u => u.answered who Code.ok :=
    ((writes_dropReleased q).does t).bind fun _ _ _ => ((writes_watermarkNow q).does _).bind fun _ _ _ =>
      Act.Does.make (State.answered_upd_bus _ who Code.ok)
  exact h.after

theorem keepsReg_releaseRest {o : Nat} (hFc : ∀ n, o ≠ Reg.off .ethPause n 0) (hStat : ∀ n, o ≠ Reg.off .weirQStat n 0) :
    (releaseRest who q).KeepsReg o :=
  keepsReg_bind (keepsReg_get_bind fun _ => keepsReg_get_bind fun _ => keepsReg_make rfl) fun _ =>
    keepsReg_bind (keepsReg_get_bind fun s => keepsReg_watermark hFc hStat q (s.qOcc q)) fun _ => keepsReg_make rfl

theorem rg_releaseRest_pointer (t : State) {r : Reg} (hr : r ∈ pointerRegs) (x : Nat) :
    ((releaseRest who q).after t).rg r x = t.rg r x :=
  State.rg_eq_of_find (keepsReg_releaseRest (Reg.off_pointer_ne_ethPause hr x) (Reg.off_pointer_ne_weirQStat hr x) t).after

theorem rg_releaseRest_status (t : State) : ((releaseRest who q).after t).rg .weirStatus who.val = t.rg .weirStatus who.val :=
  State.rg_eq_of_find (keepsReg_releaseRest (fun n => by simp [Reg.off, Reg.row]; omega)
    (fun n => by simp [Reg.off, Reg.row]; omega) t).after

/-- The state once RELEASE has moved RL and MK to RD. -/
def State.released (s : State) (q : Nat) (rd : Word) : State :=
  (s.upd (.reg (Reg.off .weirQRl q 0) rd)).upd (.reg (Reg.off .weirQMk q 0) rd)

theorem State.rg_released {r : Reg} (hr : r ∈ pointerRegs) (rd : Word) (x : Nat) :
    (s.released q rd).rg r x = if x = q ∧ (r = .weirQRl ∨ r = .weirQMk) then rd else s.rg r x := by
  simp only [State.released, State.rg_upd_reg_eq]
  have hEq {r' : Reg} (hr' : r' ∈ pointerRegs) : r.off x 0 = r'.off q 0 ↔ r = r' ∧ x = q :=
    ⟨Reg.off_pointer_inj hr hr', fun ⟨h, h'⟩ => by rw [h, h']⟩
  simp only [hEq (by decide : Reg.weirQRl ∈ pointerRegs), hEq (by decide : Reg.weirQMk ∈ pointerRegs)]
  split_ifs <;> tauto

theorem weirRelease_run (hTakes : s.takes who .weirCmd who.val)
    (h : privileged who = true ∨ flag (s.rg .weirQCfg q) 12 = true) (hq : q < 64) (n : Nat) :
    Run.run (command who .weirCmd who.val (weirCommand who 4 q n) fun _ => .stop) s =
      (releaseRest who q).after ((s.weirStatusSet who Code.ok).released q (s.rg .weirQRd q)) := by
  have hRd := State.rg_weirStatusSet (s := s) (who := who) Code.ok (by decide : Reg.weirQRd ∈ pointerRegs) hq
  rw [weirCommand_release, weirGuarded_allowed hTakes h, Act.after_eq]
  simp [weirRelease, hRd, releaseRest, State.released]
  rfl

/-- RL, MK and RD after a release, and the pointers that stay. -/
theorem weirReleased_of_run (hq : q < 64) :
    let t := (releaseRest who q).after ((s.weirStatusSet who Code.ok).released q (s.rg .weirQRd q))
    t = { s with regs := t.regs, ports := t.ports, bus := t.bus } ∧
      t.rg .weirQRl q = s.rg .weirQRd q ∧ t.rg .weirQMk q = s.rg .weirQRd q ∧ t.rg .weirQRd q = s.rg .weirQRd q ∧
      (t.rg .weirStatus who.val = setField (s.rg .weirStatus who.val) 7 0 Code.ok ∧ t.answered who Code.ok) ∧
      ∀ x, x < 64 → ∀ r ∈ [Reg.weirQWr, .weirQCm, .weirQRd, .weirQMk, .weirQRl], x ≠ q ∨ r = .weirQWr ∨ r = .weirQCm →
        t.rg r x = s.rg r x := by
  intro t
  have hPointer {r : Reg} (hr : r ∈ pointerRegs) {x : Nat} (hx : x < 64) :
      t.rg r x = if x = q ∧ (r = .weirQRl ∨ r = .weirQMk) then s.rg .weirQRd q else s.rg r x := by
    rw [rg_releaseRest_pointer _ hr, State.rg_released hr, State.rg_weirStatusSet Code.ok hr hx]
  refine ⟨State.ext_fld fun f => ?_, (hPointer (by decide) hq).trans (by simp), (hPointer (by decide) hq).trans (by simp),
    (hPointer (by decide) hq).trans (by simp), ⟨?_, releaseRest_answered _⟩, fun x hx r hr hOther => ?_⟩
  · cases f with
    | regs | ports | bus => rfl
    | _ => exact releaseRest_sameBut _ _ (by decide)
  · have hRl : Reg.off .weirStatus who.val 0 ≠ Reg.off .weirQRl q 0 := by simp [Reg.off, Reg.row]; omega
    have hMk : Reg.off .weirStatus who.val 0 ≠ Reg.off .weirQMk q 0 := by simp [Reg.off, Reg.row]; omega
    rw [rg_releaseRest_status]
    simp [State.released, State.weirStatusSet, State.rg_upd_reg_eq, hRl, hMk]
  · rw [hPointer hr hx, if_neg]
    rintro ⟨rfl, hr' | hr'⟩ <;> simp [hr'] at hOther

end

/-- Settles O31: each of the four commands, for an initiator that may use the queue and for one that may not. -/
theorem weirCommandsMovePointers : Obligations.WeirCommandsMovePointers := by
  intro s who q hTakes
  have hKept {r : Reg} (hr : r ∈ pointerRegs) := State.rg_weirStatusSet (s := s) (who := who) Code.ok hr q.isLt
  have hRd := hKept (by decide : Reg.weirQRd ∈ pointerRegs)
  have hCm := hKept (by decide : Reg.weirQCm ∈ pointerRegs)
  have hMk := hKept (by decide : Reg.weirQMk ∈ pointerRegs)
  refine ⟨fun h => ⟨fun n hn => ?_, ?_, ?_, ?_⟩, fun h c hc => ?_⟩
  · refine State.does_of_run rfl ((weirGuarded_allowed hTakes h _).trans ?_) (moved_of_run (by decide) q.isLt _)
    simp [weirAdvance, hRd, hCm, Nat.mod_eq_of_lt hn]
  · refine State.does_of_run rfl ((weirGuarded_allowed hTakes h _).trans ?_) (moved_of_run (by decide) q.isLt _)
    simp [weirMark, hRd]
  · refine State.does_of_run rfl ((weirGuarded_allowed hTakes h _).trans ?_) (moved_of_run (by decide) q.isLt _)
    simp [weirRewind, hMk]
  · refine State.does_of_run rfl (weirRelease_run hTakes h q.isLt 0) (weirReleased_of_run q.isLt)
  · simp only [List.mem_cons, List.not_mem_nil, or_false] at hc
    rcases hc with rfl | rfl | rfl | rfl <;>
      exact State.does_of_run rfl (weirGuarded_barred hTakes h _) weirAnswered_barred
end Sys2Proof.Machine

/-!
PROOF. The servo and offset samples (R341, R342, R353, R462).
-/
namespace Sys2Proof.Machine

/-! ## The servo -/

/-- A sample of 1 ms or more is marked, and clears LOCKED. -/
theorem servo_far {s : State} {theta : Int} (tau : Option Rat) (hStep : s.clock.justStepped = false)
    (hFar : 1000000 ≤ theta.natAbs) : (servo theta tau).Does s fun _ t =>
      t = { s with clock := t.clock, regs := t.regs } ∧ t.rg .timeLastofs = BitVec.ofInt 32 theta ∧
      flag (t.rg .timeStat) 5 = true ∧ flag (t.rg .timeStat) 3 = false ∧ t.rg .timeAdj = s.rg .timeAdj ∧
      t.clock = { s.clock with good := 0, lastOfsTime := s.ns } := by
  refine Act.does_of_run (fun k => by simp [servo, hStep, hFar]; rfl) ?_
  refine ⟨rfl, ?_, ?_, ?_, ?_, rfl⟩ <;> simp [State.rg_upd_reg_eq, Reg.off, Reg.row, flag_setField_other]

/-- A sample that only starts an interval. -/
theorem servo_start {s : State} {theta : Int} (hStep : s.clock.justStepped = false) (hNear : theta.natAbs < 1000000) :
    (servo theta none).Does s fun _ t => t = { s with clock := t.clock, regs := t.regs } ∧
      t.rg .timeLastofs = BitVec.ofInt 32 theta ∧ t.rg .timeAdj = s.rg .timeAdj ∧
      t.clock = { s.clock with first := false, lastOfsTime := s.ns } := by
  refine Act.does_of_run (fun k => by simp [servo, hStep, Nat.not_le.mpr hNear]; rfl) ?_
  refine ⟨rfl, ?_, ?_, rfl⟩ <;> simp [State.rg_upd_reg_eq, Reg.off, Reg.row]

/-- The servo's integrator after a sample θ at the end of an interval `tau` (R342). -/
def State.integAfter (s : State) (theta : Int) (tau : Rat) : Rat :=
  clampRate (s.clock.integ + -(theta : Rat) / tau / 2 ^ s.rf .timeCfg 0 13 10)

/-- TIME_ADJ after a sample θ at the end of an interval `tau` (R342). -/
def State.adjAfter (s : State) (theta : Int) (tau : Rat) : Word :=
  BitVec.ofInt 32 (adjOf (clampRate (s.integAfter theta tau + -(theta : Rat) / tau / 2 ^ s.rf .timeCfg 0 9 6)))

/-- A sample at the end of an interval sets TIME_ADJ. -/
theorem servo_near {s : State} {theta : Int} (tau : Rat) (hStep : s.clock.justStepped = false)
    (hNear : theta.natAbs < 1000000) : (servo theta (some tau)).Does s fun _ t =>
      t = { s with clock := t.clock, regs := t.regs } ∧ t.rg .timeLastofs = BitVec.ofInt 32 theta ∧
      t.rg .timeAdj = s.adjAfter theta tau ∧
      ∃ good, t.clock = { s.clock with integ := s.integAfter theta tau, good, lastOfsTime := s.ns } := by
  by_cases hGood : 4 ≤ (if theta.natAbs ≤ s.rf .timeCfg 0 31 16 then s.clock.good + 1 else 0) <;>
    by_cases hOut : 4 * s.rf .timeCfg 0 31 16 < theta.natAbs <;>
    refine Act.does_of_run (fun k => by simp [servo, hStep, Nat.not_le.mpr hNear, hGood, hOut]; rfl) ⟨rfl, ?_, ?_, _, rfl⟩ <;>
    simp [State.rg_upd_reg_eq, Reg.off, Reg.row, State.adjAfter, State.integAfter]

/-- A sample changes the servo's part of the clock unit, and TIME_LASTOFS, TIME_STAT and TIME_ADJ. -/
theorem servo_clock (s : State) (theta : Int) (tau : Option Rat) : (servo theta tau).Does s fun _ t =>
    t = { s with clock := t.clock, regs := t.regs } ∧ t.clock.acc = s.clock.acc ∧ t.clock.tc = s.clock.tc ∧
      t.clock.tcLast = s.clock.tcLast := by
  by_cases hStep : s.clock.justStepped = true
  · exact Act.does_of_run (fun k => by simp [servo, hStep]; rfl) ⟨rfl, rfl, rfl, rfl⟩
  rw [Bool.not_eq_true] at hStep
  by_cases hFar : 1000000 ≤ theta.natAbs
  · refine (servo_far tau hStep hFar).mono fun _ t ht => ?_
    obtain ⟨hSame, -, -, -, -, hClock⟩ := ht
    exact ⟨hSame, by rw [hClock], by rw [hClock], by rw [hClock]⟩
  have hNear : theta.natAbs < 1000000 := Nat.lt_of_not_le hFar
  cases tau with
  | none =>
    refine (servo_start hStep hNear).mono fun _ t ht => ?_
    obtain ⟨hSame, -, -, hClock⟩ := ht
    exact ⟨hSame, by rw [hClock], by rw [hClock], by rw [hClock]⟩
  | some tau =>
    refine (servo_near tau hStep hNear).mono fun _ t ht => ?_
    obtain ⟨hSame, -, -, good, hClock⟩ := ht
    exact ⟨hSame, by rw [hClock], by rw [hClock], by rw [hClock]⟩

theorem keepsReg_servo {o : Nat} (hOfs : o ≠ Reg.off .timeLastofs 0 0) (hStat : o ≠ Reg.off .timeStat 0 0)
    (hAdj : o ≠ Reg.off .timeAdj 0 0) (theta : Int) (tau : Option Rat) : (servo theta tau).KeepsReg o := by
  have hMark (hi lo v : Nat) : (Act.regField .timeStat 0 hi lo v).KeepsReg o := keepsReg_regField _ _ _ hStat
  refine keepsReg_get_bind fun s => keepsReg_ite (keepsReg_pure ()) (keepsReg_bind (keepsReg_reg _ hOfs) fun _ =>
    keepsReg_bind (hMark _ _ _) fun _ => keepsReg_ite ?_ ?_)
  · exact keepsReg_bind (hMark _ _ _) fun _ => keepsReg_bind (hMark _ _ _) fun _ => keepsReg_make rfl
  · cases tau with
    | none => exact keepsReg_make rfl
    | some tau =>
      have hEnd (c : Clock) (p : Prop) [Decidable p] : (do
          if p then Act.regField .timeStat 0 3 3 0
          Act.make (.clock c) : Act Unit).KeepsReg o := by
        split
        · exact keepsReg_bind (hMark _ _ _) fun _ => keepsReg_make rfl
        · exact keepsReg_make rfl
      refine keepsReg_bind (keepsReg_reg _ hAdj) fun _ => keepsReg_ite ?_ (hEnd _ _)
      exact keepsReg_bind (hMark _ _ _) fun _ => hEnd _ _

/-! ## Samples written to TIME_OFS -/

section
variable {s : State} {who : Who} {theta : Word}

/-- A sample is ignored where SRC is not 2, and in the cycle of a step. -/
theorem timeOfs_ignored (hTakes : s.takes who .timeOfs 0)
    (h : s.rf .timeCfg 0 1 0 ≠ 2 ∨ s.clock.justStepped = true) :
    s.does (.timeOfs who theta) fun t => t = { s with bus := t.bus } := by
  have hSkip : ¬(s.rf .timeCfg 0 1 0 = 2 ∧ s.clock.justStepped = false) := by
    rintro ⟨hSrc, hNot⟩
    simp [hSrc, hNot] at h
  exact State.does_of_run rfl (by simp [run_command hTakes, offsetSample, hSkip]; rfl) rfl

/-- The interval that ends with a sample (R341). -/
def State.sampleInterval (s : State) : Option Rat :=
  match s.clock.lastSample with
  | some t => if s.clock.first then none else some ((max (2 * nsUnit) (s.clock.elapsed - t) : Nat) / (nsUnit : Rat))
  | none => none

/-- A sample that is not ignored goes to the servo, and its time is kept where it starts or ends an interval. -/
theorem timeOfs_does {post : State → Prop} (hTakes : s.takes who .timeOfs 0) (hSrc : s.rf .timeCfg 0 1 0 = 2)
    (hStep : s.clock.justStepped = false)
    (h : (servo theta.toInt s.sampleInterval).Does s fun _ t => ∀ kept, kept = t ∨
      kept = t.upd (.clock { t.clock with lastSample := some t.clock.elapsed }) →
      ((s.clock.first = false ∨ theta.toInt.natAbs < 1000000) →
        kept = t.upd (.clock { t.clock with lastSample := some t.clock.elapsed })) →
      post (kept.upd (.bus who.val ⟨Code.ok, 0⟩))) : s.does (.timeOfs who theta) post := by
  refine State.does_of rfl (command_does hTakes (Act.Does.get_bind ?_))
  simp only [hSrc, hStep, Bool.not_false, Bool.and_self, decide_true, if_true]
  refine h.bind fun _ t ht => Act.Does.ite (fun _ => ?_) fun hNot => ?_
  · exact Act.Does.get_bind (Act.Does.make_bind (Act.Does.pure (ht _ (.inr rfl) fun _ => rfl)))
  · exact Act.Does.pure (ht _ (.inl rfl) fun hKeep => absurd hKeep (by simpa using hNot))

theorem timeOfs_far (hTakes : s.takes who .timeOfs 0) (hSrc : s.rf .timeCfg 0 1 0 = 2) (hStep : s.clock.justStepped = false)
    (hFar : 1000000 ≤ theta.toInt.natAbs) : s.does (.timeOfs who theta) fun t =>
      t = { s with clock := t.clock, regs := t.regs, bus := t.bus } ∧ t.rg .timeLastofs = theta ∧
      flag (t.rg .timeStat) 5 = true ∧ flag (t.rg .timeStat) 3 = false ∧ t.rg .timeAdj = s.rg .timeAdj := by
  refine timeOfs_does hTakes hSrc hStep ((servo_far _ hStep hFar).mono fun _ t ht kept hKept _ => ?_)
  obtain ⟨hSame, hLast, hMark, hLocked, hAdj, -⟩ := ht
  rw [BitVec.ofInt_toInt] at hLast
  rcases hKept with rfl | rfl <;>
    exact ⟨by rw [hSame]; rfl, by simpa using hLast, by simpa using hMark, by simpa using hLocked, by simpa using hAdj⟩

theorem timeOfs_first (hTakes : s.takes who .timeOfs 0) (hSrc : s.rf .timeCfg 0 1 0 = 2) (hStep : s.clock.justStepped = false)
    (hNear : theta.toInt.natAbs < 1000000) (hFirst : s.clock.first = true ∨ s.clock.lastSample = none) :
    s.does (.timeOfs who theta) fun t => t = { s with clock := t.clock, regs := t.regs, bus := t.bus } ∧
      t.rg .timeLastofs = theta ∧ t.rg .timeAdj = s.rg .timeAdj ∧ t.clock.first = false ∧
      t.clock.lastSample = some s.clock.elapsed := by
  have hInterval : s.sampleInterval = none := by
    rcases hFirst with h | h <;> simp [State.sampleInterval, h]
    split <;> rfl
  refine timeOfs_does hTakes hSrc hStep (hInterval ▸ (servo_start hStep hNear).mono fun _ t ht kept _ hKept => ?_)
  obtain ⟨hSame, hLast, hAdj, hClock⟩ := ht
  rw [BitVec.ofInt_toInt] at hLast
  rw [hKept (.inr hNear)]
  exact ⟨by rw [hSame]; rfl, by simpa using hLast, by simpa using hAdj, by simp [hClock], by simp [hClock]⟩

theorem timeOfs_later (hTakes : s.takes who .timeOfs 0) (hSrc : s.rf .timeCfg 0 1 0 = 2) (hStep : s.clock.justStepped = false)
    {last : Nat} (hNear : theta.toInt.natAbs < 1000000) (hFirst : s.clock.first = false) (hLast : s.clock.lastSample = some last) :
    let tau : Rat := (max (2 * nsUnit) (s.clock.elapsed - last) : Nat) / (nsUnit : Rat)
    s.does (.timeOfs who theta) fun t => t = { s with clock := t.clock, regs := t.regs, bus := t.bus } ∧
      t.rg .timeLastofs = theta ∧ t.clock.integ = s.integAfter theta.toInt tau ∧
      t.rg .timeAdj = s.adjAfter theta.toInt tau ∧
      t.clock.acc = s.clock.acc ∧ t.clock.lastSample = some s.clock.elapsed := by
  intro tau
  have hInterval : s.sampleInterval = some tau := by simp [State.sampleInterval, hLast, hFirst, tau]
  refine timeOfs_does hTakes hSrc hStep (hInterval ▸ (servo_near _ hStep hNear).mono fun _ t ht kept _ hKept => ?_)
  obtain ⟨hSame, hLast, hAdj, good, hClock⟩ := ht
  rw [BitVec.ofInt_toInt] at hLast
  rw [hKept (.inr hNear)]
  exact ⟨by rw [hSame]; rfl, by simpa using hLast, by simp [hClock], by simpa using hAdj, by simp [hClock], by simp [hClock]⟩

end

/-! ## Holdover -/

/-- What entering holdover does. -/
theorem holdover_entered (s : State) :
    let t := (s.upd (.reg (Reg.off .timeStat 0 0) (setField (s.rg .timeStat) 3 3 0))).upd
      (.reg (Reg.off .timeStat 0 0) (setField (setField (s.rg .timeStat) 3 3 0) 4 4 1))
    regsBut s t [Reg.off .timeStat 0 0] ∧ flag (t.rg .timeStat) 3 = false ∧ flag (t.rg .timeStat) 4 = true := by
  refine ⟨fun o ho => ?_, by simp [flag_setField_other], by simp⟩
  have ho : o ≠ Reg.off .timeStat 0 0 := by simpa using ho
  simp [Sparse.find_put_other _ _ ho]

theorem holdover_does {s : State} (hDue : (s.clock.lastOfsTime + 2000000000) * nsUnit ≤ s.clock.elapsed) :
    s.does .holdover fun t => t = { s with regs := t.regs } ∧ regsBut s t [Reg.off .timeStat 0 0] ∧
      flag (t.rg .timeStat) 3 = false ∧ flag (t.rg .timeStat) 4 = true := by
  refine State.does_of_run rfl ?_ ⟨rfl, holdover_entered s⟩
  simp only [run_bind, run_get, run_reach_past hDue, enterHoldover, run_regField, State.rg_upd_reg]
  rfl

theorem oscillatorFail_does {s : State} (hBackup : s.clock.backupOsc = false) : s.does .oscillatorFail fun t =>
      t = { s with regs := t.regs, clock := { s.clock with backupOsc := true } } ∧
      regsBut s t [Reg.off .timeStat 0 0] ∧ flag (t.rg .timeStat) 3 = false ∧ flag (t.rg .timeStat) 4 = true := by
  refine State.does_of_run rfl (by simp [hBackup, enterHoldover]; rfl) ⟨rfl, ?_⟩
  have hEntered := holdover_entered (s.upd (.clock { s.clock with backupOsc := true }))
  simpa [regsBut] using hEntered

/-- Settles O40: the samples by SRC, by their size and by what came before them, then the two ways into holdover. -/
theorem servoFollowsSamples : Obligations.ServoFollowsSamples := by
  intro s
  refine ⟨fun who theta hTakes => ⟨timeOfs_ignored hTakes, fun hSrc hStep => ⟨timeOfs_far hTakes hSrc hStep,
    timeOfs_first hTakes hSrc hStep, fun last hNear hFirst hLast => timeOfs_later hTakes hSrc hStep hNear hFirst hLast⟩⟩,
    fun hDue => ?_, fun hBackup => ?_⟩
  · exact holdover_does hDue
  · exact oscillatorFail_does hBackup

end Sys2Proof.Machine

/-!
PROOF. Wraps, folds and steps of device time, captures, and timed outputs (R338, R339, R343, R344, R347 to R352).
-/
namespace Sys2Proof.Machine

/-! ## Wraps and folds -/

/-- A wrap of the nanosecond counter leaves it at 0, elapsed time later by what was missing. -/
def State.wrapped (s : State) : State :=
  (s.upd (.pass (2 ^ 64 - s.clock.acc.toNat))).upd (.clock { s.clock with acc := 0 })

theorem timeCounterWrap_run {s : State} (hOn : s.power.state = .run ∨ s.power.state = .idle) (k : Unit → Run) :
    Run.run (passUnits (2 ^ 64 - s.clock.acc.toNat) k) s = Run.run (wrapCounter k) s.wrapped := by
  have hAcc : s.clock.acc.toNat + (2 ^ 64 - s.clock.acc.toNat) = 2 ^ 64 := Nat.add_sub_cancel' (Nat.le_of_lt s.clock.acc.isLt)
  have hState : (s.power.state = .run || s.power.state = .idle || s.power.state = .sleep) = true := by
    rcases hOn with h | h <;> simp [h]
  have hRange : List.range (2 ^ 64 / 2 ^ 64) = [0] := by decide
  simp only [passUnits, run_bind, run_get, run_make, hAcc, hState, if_true, hRange, List.forIn_cons, List.forIn_nil]
  rfl

theorem timeCounterWrap_pending {s : State} (hOn : s.power.state = .run ∨ s.power.state = .idle) (hPend : s.clock.pend < 3) :
    s.does .timeCounterWrap fun t => t = { s with clock := t.clock } ∧
      t.clock = { s.clock with acc := 0, pend := s.clock.pend + 1
                               elapsed := s.clock.elapsed + (2 ^ 64 - s.clock.acc.toNat) } := by
  have hSleep : s.power.state ≠ .sleep := by rcases hOn with h | h <;> simp [h]
  refine State.does_of_run rfl (by
    simp only [run_bind, run_get, timeCounterWrap_run hOn]
    simp [wrapCounter, hSleep, hPend, State.wrapped]
    rfl) ⟨rfl, rfl⟩

theorem timeCounterWrap_lost {s : State} (hOn : s.power.state = .run ∨ s.power.state = .idle) (hPend : s.clock.pend = 3) :
    s.does .timeCounterWrap fun t => t.clock.acc = 0 ∧ t.clock.pend = 3 ∧ t.clock.era = s.clock.era ∧
      flag (t.rg .timeStat) 2 = true ∧ t.faults.seq = (s.faults.seq + 1) % 2 ^ 32 ∧ t.mem = s.mem ∧ t.locks = s.locks := by
  have hSleep : s.power.state ≠ .sleep := by rcases hOn with h | h <;> simp [h]
  have hStat : Reg.off .timeStat 0 0 ∉ recordRegs := by simp [recordRegs, Reg.off, Reg.row]
  let u := s.wrapped.upd (.reg (Reg.off .timeStat 0 0) (setField (s.wrapped.rg .timeStat) 2 2 1))
  obtain ⟨_, t, ⟨hSame, hSeq, hRegs⟩, hRun⟩ := fault_gives u { code := Code.faultUnit, block := Block.time }
  have hClock : t.clock = u.clock := hSame .clock (by decide)
  refine State.does_of_run (u := t) rfl ?_ ⟨?_, ?_, ?_, ?_, hSeq, hSame .mem (by decide), hSame .locks (by decide)⟩
  · simp only [run_bind, run_get, timeCounterWrap_run hOn]
    have hPower : s.wrapped.power.state ≠ .sleep := hSleep
    have hFull : ¬s.wrapped.clock.pend < 3 := by simp [State.wrapped, hPend]
    simp only [wrapCounter, run_bind, run_get, if_neg hPower, if_neg hFull, run_regField]
    exact hRun _
  · rw [hClock]
    rfl
  · rw [hClock]
    exact hPend
  · rw [hClock]
    rfl
  · rw [State.rg_eq_of_find (hRegs _ hStat)]
    simp [u]

/-- Folding wraps that are pending keeps device time. -/
theorem eraAck_fold {s : State} {who : Who} {k : Nat} (hTakes : s.takes who .timeEraAck 0) (hk : k < 4)
    (hPend : k ≤ s.clock.pend) : s.does (.eraAck who k) fun t => t = { s with clock := t.clock, bus := t.bus } ∧
      t.clock.pend = s.clock.pend - k ∧ t.clock.era = (s.clock.era + k) % 2 ^ 32 ∧ t.fullTime = s.fullTime ∧
      t.clock.elapsed = s.clock.elapsed ∧ t.answered who Code.ok := by
  refine State.does_of_run rfl (by simp [run_command hTakes, foldWraps, Nat.mod_eq_of_lt hk, hPend]; rfl) ?_
  refine ⟨rfl, rfl, rfl, ?_, rfl, by simp⟩
  have hSum : (s.clock.era + k + (s.clock.pend - k)) % 4294967296 = (s.clock.era + s.clock.pend) % 4294967296 := by omega
  simp [State.fullTime, State.nowHi, State.nowLo, hSum]

theorem eraAck_discarded {s : State} {who : Who} {k : Nat} (hTakes : s.takes who .timeEraAck 0) (hk : k < 4)
    (hPend : s.clock.pend < k) : s.does (.eraAck who k) fun t => t = { s with bus := t.bus } ∧ t.answered who Code.ok :=
  State.does_of_run rfl (by simp [run_command hTakes, foldWraps, Nat.mod_eq_of_lt hk, Nat.not_le.mpr hPend]; rfl) ⟨rfl, by simp⟩

/-! ## Steps -/

/-- The accumulator and ERA after a step of `delta` ns. -/
def State.steppedClock (s : State) (delta : Int) : Clock :=
  let full := (((s.fullTime : Int) + delta) % 2 ^ 64).toNat
  { s.clock with
    acc := BitVec.ofNat 64 (full % 2 ^ 32 * 2 ^ 32 + s.clock.acc.toNat % 2 ^ 32)
    era := (full / 2 ^ 32 + 2 ^ 32 - s.clock.pend) % 2 ^ 32, integ := 0, first := true, lastSample := none
    stepAt := some s.clock.elapsed }

/-- The words of device time, ERA less what is pending, and its fraction, taken together again. -/
theorem fullTime_parts {n pend frac : Nat} (hn : n < 18446744073709551616) (hPend : pend ≤ 3) :
    ((n / 4294967296 + 4294967296 - pend) % 4294967296 + pend) % 4294967296 * 4294967296 +
      (n % 4294967296 * 4294967296 + frac % 4294967296) % 18446744073709551616 / 4294967296 = n := by
  omega

theorem fullTime_of_steppedClock {s t : State} {delta : Int} (hPend : s.clock.pend ≤ 3)
    (hAcc : t.clock.acc = (s.steppedClock delta).acc) (hEra : t.clock.era = (s.steppedClock delta).era)
    (hPend' : t.clock.pend = s.clock.pend) : (t.fullTime : Int) = ((s.fullTime : Int) + delta) % 2 ^ 64 := by
  have hNonneg : 0 ≤ ((s.fullTime : Int) + delta) % 2 ^ 64 := Int.emod_nonneg _ (by decide)
  have hLt : (((s.fullTime : Int) + delta) % 2 ^ 64).toNat < 2 ^ 64 := by
    rw [Int.toNat_lt hNonneg]
    exact Int.emod_lt_of_pos _ (by decide)
  rw [← Int.toNat_of_nonneg hNonneg]
  refine congrArg Nat.cast ?_
  simp only [State.fullTime, State.nowHi, State.nowLo, hAcc, hEra, hPend', State.steppedClock, BitVec.toNat_ofNat]
  exact fullTime_parts hLt hPend

/-- Of `t` only what the timed outputs do next has changed. -/
def State.SameButTimed (t u : State) : Prop := u = { t with clock := { t.clock with timed := u.clock.timed } }

theorem modTimed_does {t u : State} (h : t.SameButTimed u) (n : Nat) (f : Timed → Timed) :
    (Act.modTimed n f).Does u fun _ v => t.SameButTimed v := by
  refine Act.Does.get_bind (Act.Does.make ?_)
  rw [State.SameButTimed] at h ⊢
  rw [h]
  rfl

theorem sameButTimed_loop {t : State} {body : Nat → PUnit → Act (ForInStep PUnit)}
    (h : ∀ n b u, t.SameButTimed u → (body n b).Does u fun _ v => t.SameButTimed v) (ns : List Nat) :
    (forIn ns PUnit.unit body : Act PUnit).Does t fun _ v => t.SameButTimed v :=
  Act.Does.loop (I := fun _ v => t.SameButTimed v)
    (fun n b u hu => (h n b u hu).mono fun r _ hv => by cases r <;> exact hv) ns .unit t rfl

/-- What a step does once the clock has moved. -/
def stepRest (delta : Int) : Act Unit := do
  Act.regField .timeStat 0 6 6 1
  Act.regField .timeStat 0 3 3 0
  let t ← Act.get
  for n in List.range 16 do
    if t.toMode n = 2 then Act.modTimed n fun x => { x with next := some (t.nextEdge n) }
    else Act.modTimed n fun x => { x with next := x.next.map fun p => (p.1, if delta < 0 then p.2 else max p.2 (min t.fullTime (p.2 + delta.toNat))) }
  for r in t.plan.requests do
    if r.deadline ≤ t.fullTime then planDeadline

theorem stepTime_eq (delta : Int) : stepTime delta = (do
    let s ← Act.get
    Act.make (.clock (s.steppedClock delta))
    stepRest delta) := rfl

/-- With nothing in the planner a step moves the timed outputs and marks the step. -/
theorem stepRest_does {s : State} (delta : Int) (hPlan : s.plan.requests = []) : (stepRest delta).Does s fun _ t =>
    t = { s with clock := { s.clock with timed := t.clock.timed }, regs := t.regs } ∧
    flag (t.rg .timeStat) 6 = true ∧ flag (t.rg .timeStat) 3 = false := by
  refine Act.Does.regField_bind (Act.Does.regField_bind (Act.Does.get_bind ?_))
  refine (sameButTimed_loop (fun n _ v hv => ?_) _).bind fun _ v hv => ?_
  · split
    · exact (modTimed_does hv n _).bind fun _ w hw => Act.Does.pure hw
    · exact (modTimed_does hv n _).bind fun _ w hw => Act.Does.pure hw
  · rw [State.SameButTimed] at hv
    refine (Act.Does.emptyLoop (by simp [hPlan])).bind ?_
    rintro _ _ ⟨-, rfl⟩
    refine Act.Does.pure ⟨by rw [hv]; rfl, ?_, ?_⟩ <;> rw [hv] <;> simp [State.rg, flag_setField_other]

theorem State.steppedClock_elapsed (s : State) (delta : Int) : (s.steppedClock delta).elapsed = s.clock.elapsed := by
  unfold State.steppedClock
  rfl

theorem State.steppedClock_pend (s : State) (delta : Int) : (s.steppedClock delta).pend = s.clock.pend := by
  unfold State.steppedClock
  rfl

theorem State.steppedClock_stepAt (s : State) (delta : Int) : (s.steppedClock delta).stepAt = some s.clock.elapsed := by
  unfold State.steppedClock
  rfl

/-- A clock that keeps elapsed time takes the place of the old. -/
theorem State.upd_clock_eq {s : State} {c : Clock} (h : c.elapsed = s.clock.elapsed) :
    s.upd (.clock c) = { s with clock := c } := by
  cases c
  cases h
  rfl

/-- What a step leaves of device time and elapsed time. -/
structure State.Stepped (s : State) (delta : Int) (t : State) : Prop where
  same : t = { s with clock := t.clock, regs := t.regs }
  acc : t.clock.acc = (s.steppedClock delta).acc
  era : t.clock.era = (s.steppedClock delta).era
  pend : t.clock.pend = s.clock.pend
  elapsed : t.clock.elapsed = s.clock.elapsed
  stepAt : t.clock.stepAt = some s.clock.elapsed
  marked : flag (t.rg .timeStat) 6 = true
  unlocked : flag (t.rg .timeStat) 3 = false

/-- A step once the clock it leaves is known. -/
theorem stepFrom_does {s : State} {c : Clock} (delta : Int) (hPlan : s.plan.requests = [])
    (hElapsed : c.elapsed = s.clock.elapsed) : (do Act.make (.clock c); stepRest delta).Does s fun _ t =>
      t = { s with clock := t.clock, regs := t.regs } ∧ (t.clock.acc = c.acc ∧ t.clock.era = c.era ∧
        t.clock.pend = c.pend ∧ t.clock.elapsed = c.elapsed ∧ t.clock.stepAt = c.stepAt) ∧
      flag (t.rg .timeStat) 6 = true ∧ flag (t.rg .timeStat) 3 = false := by
  refine Act.Does.make_bind ?_
  rw [State.upd_clock_eq hElapsed]
  refine (stepRest_does (s := { s with clock := c }) delta hPlan).mono fun _ t ht => ?_
  obtain ⟨hDone, hMarks⟩ := ht
  have hClock : t.clock = { c with timed := t.clock.timed } := by rw [hDone]
  exact ⟨by rw [hDone], ⟨by rw [hClock], by rw [hClock], by rw [hClock], by rw [hClock], by rw [hClock]⟩, hMarks⟩

theorem stepTime_does {s : State} (delta : Int) (hPlan : s.plan.requests = []) :
    (stepTime delta).Does s fun _ t => s.Stepped delta t := by
  rw [stepTime_eq]
  refine Act.Does.get_bind ((stepFrom_does delta hPlan (s.steppedClock_elapsed delta)).mono fun _ t ht => ?_)
  obtain ⟨hSame, ⟨hAcc, hEra, hPend, hElapsed, hStepAt⟩, hMarked, hUnlocked⟩ := ht
  exact {
    same := hSame
    acc := hAcc
    era := hEra
    pend := hPend.trans (s.steppedClock_pend delta)
    elapsed := hElapsed.trans (s.steppedClock_elapsed delta)
    stepAt := hStepAt.trans (s.steppedClock_stepAt delta)
    marked := hMarked
    unlocked := hUnlocked }

theorem stepGo_does {s : State} {who : Who} (hTakes : s.takes who .timeStepGo 0) (hCalm : s.calm = true)
    (hPlan : s.plan.requests = []) (hPend : s.clock.pend ≤ 3) :
    s.does (.stepGo who) fun t => t = { s with clock := t.clock, regs := t.regs, bus := t.bus } ∧
      (t.fullTime : Int) = ((s.fullTime : Int) +
        signed 64 ((s.rg .timeStepLo).toNat + (s.rg .timeStepHi).toNat * 2 ^ 32)) % 2 ^ 64 ∧
      t.clock.elapsed = s.clock.elapsed ∧ t.clock.pend = s.clock.pend ∧ t.clock.justStepped = true ∧
      flag (t.rg .timeStat) 6 = true ∧ flag (t.rg .timeStat) 3 = false ∧ t.answered who Code.ok := by
  obtain ⟨hOnTime, hQuiet⟩ := State.calm_iff.mp hCalm
  refine State.does_of rfl (settled_does hOnTime (command_does hTakes (Act.Does.get_bind ?_)))
  generalize signed 64 ((s.rg .timeStepLo).toNat + (s.rg .timeStepHi).toNat * 2 ^ 32) = delta
  refine (stepTime_does delta hPlan).bind fun _ t ht => Act.Does.pure ?_
  refine ⟨⟨by rw [ht.same]; rfl, ?_, ht.elapsed, ht.pend, ?_, by simpa using ht.marked, by simpa using ht.unlocked, by simp⟩, ?_⟩
  · rw [State.fullTime_upd _ _ rfl]
    exact fullTime_of_steppedClock hPend ht.acc ht.era ht.pend
  · simp [Clock.justStepped, ht.stepAt, ht.elapsed]
  · rw [ht.same]
    exact hQuiet

/-! ## Captures -/

theorem writes_modLeash (n : Nat) (f : Leash → Leash) : (Act.modLeash n f).Writes [.reflex, .freeCount] :=
  writes_get_bind fun s => by simp

theorem writes_reflexArrival (src : ReflexSource) (payload : List Byte) :
    (reflexArrival src payload).Writes [.reflex, .freeCount] := by
  refine writes_get_bind fun s => writes_bind (writes_forIn (fun n _ => ?_) _ _) fun _ => by simp
  refine writes_bind (writes_forIn (fun k _ => writes_ite ?_ (by simp)) _ _) fun _ => by simp
  have hHeld (f : Leash → Leash) : (do Act.modLeash n f; pure (ForInStep.yield PUnit.unit)).Writes
      [.reflex, .freeCount] := writes_bind (writes_modLeash n f) fun _ => by simp
  exact writes_ite (writes_bind (by simp) fun _ => hHeld _) (writes_bind (by simp) fun _ => hHeld _)

theorem writes_spiStart (n : Nat) : (spiStart n).Writes [.regs, .ports] :=
  writes_get_bind fun t => writes_ite (writes_ite (by simp) (by simp)) (by simp)

theorem keepsReg_spiStart {o : Nat} (n : Nat) (h : o ≠ Reg.off .spiSkip n 0) : (spiStart n).KeepsReg o :=
  keepsReg_get_bind fun _ => keepsReg_ite (keepsReg_ite (keepsReg_countSat _ _ _ h) (keepsReg_make rfl)) (keepsReg_pure ())

/-- What follows an accepted edge of input `n`: the servo, leashes and SPI ports. -/
def captureRest (n : Fin 16) (full : Nat) (t : State) : Act Unit := do
  if t.rf .timeCfg 0 1 0 = 1 && t.rf .timeCfg 0 5 2 = n.val then
    servo ((((full : Int) + 500000000) % 1000000000) - 500000000) (some 1000000000)
  reflexArrival (.tc n) []
  for p in List.range 4 do
    if flag (t.rg .spiIng p) 1 && t.rf .spiIng p 5 2 = n.val then spiStart p

/-- What a capture leaves, but its own FIFO and count. -/
def captureKept (s : State) :=
  (s.mem, s.locks, s.ctxs, s.clock.acc, s.clock.tc, s.clock.tcLast)

theorem captureRest_frames (n : Fin 16) (full : Nat) (t : State) : (captureRest n full t).Frames captureKept := by
  have hServo (theta : Int) (tau : Option Rat) : (servo theta tau).Frames captureKept := fun s =>
    (servo_clock s theta tau).mono fun _ u hu => by
      obtain ⟨hSame, hAcc, hTc, hLast⟩ := hu
      simp only [captureKept, hAcc, hTc, hLast]
      rw [hSame]
  have hReflex : (reflexArrival (.tc n) []).Frames captureKept := frames_of_writes (writes_reflexArrival _ _) fun s u hu => by
    simp only [captureKept, show u.mem = s.mem from hu .mem (by decide), show u.locks = s.locks from hu .locks (by decide),
      show u.ctxs = s.ctxs from hu .ctxs (by decide), show u.clock = s.clock from hu .clock (by decide)]
  have hSpi (p : Nat) : (spiStart p).Frames captureKept := frames_of_writes (writes_spiStart p) fun s u hu => by
    simp only [captureKept, show u.mem = s.mem from hu .mem (by decide), show u.locks = s.locks from hu .locks (by decide),
      show u.ctxs = s.ctxs from hu .ctxs (by decide), show u.clock = s.clock from hu .clock (by decide)]
  have hEnd : (do
      reflexArrival (.tc n) []
      for p in List.range 4 do
        if flag (t.rg .spiIng p) 1 && t.rf .spiIng p 5 2 = n.val then spiStart p : Act Unit).Frames captureKept :=
    hReflex.bind fun _ => (Act.Frames.loop (fun p _ => Act.Frames.ite ((hSpi p).bind fun _ => Act.Frames.pure _)
      (Act.Frames.pure _)) _ _).bind fun _ => Act.Frames.pure _
  exact Act.Frames.ite ((hServo _ _).bind fun _ => hEnd) hEnd

theorem keepsReg_captureRest {o : Nat} (hOfs : o ≠ Reg.off .timeLastofs 0 0) (hStat : o ≠ Reg.off .timeStat 0 0)
    (hAdj : o ≠ Reg.off .timeAdj 0 0) (hSkip : ∀ p, o ≠ Reg.off .spiSkip p 0) (n : Fin 16) (full : Nat) (t : State) :
    (captureRest n full t).KeepsReg o := by
  have hEnd : (do
      reflexArrival (.tc n) []
      for p in List.range 4 do
        if flag (t.rg .spiIng p) 1 && t.rf .spiIng p 5 2 = n.val then spiStart p : Act Unit).KeepsReg o :=
    keepsReg_bind (keepsReg_of_writes (writes_reflexArrival _ _) (by decide)) fun _ =>
      keepsReg_bind (keepsReg_forIn (fun p _ => keepsReg_ite (keepsReg_bind (keepsReg_spiStart p (hSkip p)) fun _ =>
        keepsReg_pure _) (keepsReg_pure _)) _ _) fun _ => keepsReg_pure _
  exact keepsReg_ite (keepsReg_bind (keepsReg_servo hOfs hStat hAdj _ _) fun _ => hEnd) hEnd

section
variable {s : State} {n : Fin 16} {level : Bool}

/-- The clock unit after an accepted edge. -/
def State.captured (s : State) (n : Fin 16) (level : Bool) : Clock := { s.clock with
  tcLast := s.clock.tcLast.put n.val s.clock.elapsed
  tc := if (s.clock.tc.at n.val []).length < 16 then s.clock.tc.put n.val (s.clock.tc.at n.val [] ++ [(s.fullTime, level)])
    else s.clock.tc }

/-- An accepted edge: the clock unit takes it, a full FIFO counts it, and the rest follows. -/
theorem captureEdge_exec (hOn : flag (s.rg .tcCfg n.val) 0 = true)
    (hEdge : s.rf .tcCfg n.val 2 1 = 3 ∨ s.rf .tcCfg n.val 2 1 = if level then 1 else 2)
    (hFilter : s.rf .tcCfg n.val 7 3 ≠ 0 ∨ ∀ e, s.clock.tcLast.find n.val = some e → e + 4 * nsUnit ≤ s.clock.elapsed)
    {post : State → Prop} (h : (do
      Act.make (.clock (s.captured n level))
      if 16 ≤ (s.clock.tc.at n.val []).length then Act.countSat .tcStat n.val 15 8
      captureRest n s.fullTime s).Does s fun _ t => post t) : s.does (.captureEdge n level) post := by
  refine State.does_of rfl (Act.Does.get_bind (Act.Does.ite (fun _ => h) fun hNot => absurd ?_ hNot))
  simp only [State.rf] at hEdge hFilter
  cases hLast : s.clock.tcLast.find n.val with
  | none => simp [hOn, hEdge]
  | some e =>
    rcases hFilter with hFilter | hFilter
    · simp [hOn, hEdge, hFilter]
    · simp [hOn, hEdge, Nat.not_lt.mpr (hFilter e hLast)]

/-- What an accepted edge leaves of the clock unit and the rest. -/
theorem captureEdge_kept (hOn : flag (s.rg .tcCfg n.val) 0 = true)
    (hEdge : s.rf .tcCfg n.val 2 1 = 3 ∨ s.rf .tcCfg n.val 2 1 = if level then 1 else 2)
    (hFilter : s.rf .tcCfg n.val 7 3 ≠ 0 ∨ ∀ e, s.clock.tcLast.find n.val = some e → e + 4 * nsUnit ≤ s.clock.elapsed) :
    s.does (.captureEdge n level) fun t => captureKept t = captureKept (s.upd (.clock (s.captured n level))) := by
  have hCount : (do
      if 16 ≤ (s.clock.tc.at n.val []).length then Act.countSat .tcStat n.val 15 8
      captureRest n s.fullTime s : Act Unit).Frames captureKept :=
    Act.Frames.ite (Act.Frames.bind (frames_of_writes (l := [.regs]) (by simp) fun s u hu => by
      simp only [captureKept, show u.mem = s.mem from hu .mem (by decide), show u.locks = s.locks from hu .locks (by decide),
        show u.ctxs = s.ctxs from hu .ctxs (by decide), show u.clock = s.clock from hu .clock (by decide)])
      fun _ => captureRest_frames n _ s) (captureRest_frames n _ s)
  exact captureEdge_exec hOn hEdge hFilter (Act.Does.make_bind ((hCount _).mono fun _ _ ht => ht))

/-- A full FIFO counts the edge. -/
theorem captureEdge_counted (hOn : flag (s.rg .tcCfg n.val) 0 = true)
    (hEdge : s.rf .tcCfg n.val 2 1 = 3 ∨ s.rf .tcCfg n.val 2 1 = if level then 1 else 2)
    (hFilter : s.rf .tcCfg n.val 7 3 ≠ 0 ∨ ∀ e, s.clock.tcLast.find n.val = some e → e + 4 * nsUnit ≤ s.clock.elapsed)
    (hFull : 16 ≤ (s.clock.tc.at n.val []).length) :
    s.does (.captureEdge n level) fun t => t.rf .tcStat n.val 15 8 = min 255 (s.rf .tcStat n.val 15 8 + 1) := by
  have hKeeps : (captureRest n s.fullTime s).KeepsReg (Reg.off .tcStat n.val 0) := by
    refine keepsReg_captureRest ?_ ?_ ?_ (fun p => ?_) n _ s <;> simp [Reg.off, Reg.row] <;> omega
  refine captureEdge_exec hOn hEdge hFilter (Act.Does.make_bind ?_)
  simp only [hFull, if_true]
  refine Act.Does.countSat_bind ((hKeeps _).mono fun _ t ht => ?_)
  simp only [State.rf, State.rg_eq_of_find ht, State.rg_upd_reg]
  rw [State.rg_upd s (.clock _) _ _ _ rfl]
  exact field_countSat _ _ (by decide)

end

/-! ## FIFOs -/

theorem tcPop_does {s : State} {who : Who} {n : Fin 16} (hTakes : s.takes who .tcPop n.val) : s.does (.tcPop who n) fun t =>
    t = { s with clock := t.clock, bus := t.bus } ∧ t.clock.tc.at n.val [] = (s.clock.tc.at n.val []).tail ∧
      t.answered who Code.ok := by
  refine State.does_of_run rfl (by simp [run_command hTakes, popCapture]; rfl) ?_
  exact ⟨rfl, by simp, by simp⟩

theorem ptpPop_does {s : State} {who : Who} {m : Fin 8} (hTakes : s.takes who .ptpPop m.val) : s.does (.ptpPop who m) fun t =>
    t = { s with clock := t.clock, bus := t.bus } ∧ t.clock.ptp.at m.val [] = (s.clock.ptp.at m.val []).tail ∧
      t.answered who Code.ok := by
  refine State.does_of_run rfl (by simp [run_command hTakes, popPtp]; rfl) ?_
  exact ⟨rfl, by simp, by simp⟩

/-- Settles O42: wraps, folds and steps, then captures and the two FIFOs. -/
theorem deviceTimeMovesAndIsCaptured : Obligations.DeviceTimeMovesAndIsCaptured := by
  refine ⟨fun s => ⟨fun hOn => ⟨timeCounterWrap_pending hOn, timeCounterWrap_lost hOn⟩,
      fun who k hTakes hk => ⟨eraAck_fold hTakes hk, eraAck_discarded hTakes hk⟩, fun who => stepGo_does⟩,
    fun s => ⟨fun n level hOn hEdge hFilter => ?_, fun who n => tcPop_does, fun who m => ptpPop_does⟩⟩
  have hKept := captureEdge_kept hOn hEdge hFilter
  by_cases hFull : 16 ≤ (s.clock.tc.at n.val []).length
  · refine (hKept.and (captureEdge_counted hOn hEdge hFilter hFull)).mono fun t ht => ?_
    obtain ⟨hKept, hCount⟩ := ht
    simp only [captureKept, Prod.mk.injEq] at hKept
    obtain ⟨hMem, hLocks, hCtxs, hAcc, hTc, hLast⟩ := hKept
    refine ⟨hMem, hLocks, hCtxs, hAcc, ?_, fun h => absurd h (by omega), fun _ => ⟨?_, hCount⟩⟩
    · rw [hLast]
      simp [State.captured]
    · rw [hTc]
      simp [State.captured, Nat.not_lt.mpr hFull]
  · refine hKept.mono fun t hKept => ?_
    simp only [captureKept, Prod.mk.injEq] at hKept
    obtain ⟨hMem, hLocks, hCtxs, hAcc, hTc, hLast⟩ := hKept
    refine ⟨hMem, hLocks, hCtxs, hAcc, ?_, fun h => ?_, fun h => absurd h hFull⟩
    · rw [hLast]
      simp [State.captured]
    · rw [hTc]
      simp [State.captured, h]

end Sys2Proof.Machine

/-!
PROOF. Timed outputs (R347 to R350).
-/
namespace Sys2Proof.Machine

/-- No time passes. -/
theorem passUnits_zero (s : State) : (passUnits 0).Does s fun _ t => t = s := by
  have hWrap : (s.clock.acc.toNat + 0) / 2 ^ 64 = 0 := Nat.div_eq_of_lt s.clock.acc.isLt
  have hPass : s.upd (.pass 0) = s := rfl
  have hClock : s.upd (.clock { s.clock with acc := BitVec.ofNat 64 (s.clock.acc.toNat + 0) }) = s := by
    rw [Nat.add_zero, BitVec.ofNat_toNat, BitVec.setWidth_eq]
    exact State.upd_clock_eq rfl
  refine Act.does_of_run (a := ()) (u := s) (fun k => ?_) rfl
  simp only [passUnits, run_bind, run_get, run_make, hPass, hWrap, List.range_zero, List.forIn_nil]
  split
  · rw [run_bind, run_make, hClock]
    rfl
  · rfl

section
variable {s : State} {n : Fin 16}

/-- The mode of a CFG word that a write of an idle output leaves. -/
theorem field_cfg_mode (mode a b c : Nat) (h : mode < 4) :
    field (Word.ofNat (pack [(mode, 0), (a, 2), (b, 3), (c, 4)])) 1 0 = mode := by
  simp only [field, pack, List.foldl, Word.ofNat, BitVec.toNat_ofNat]
  omega

/-- The trailing edge of a pulse that begins now. -/
def State.trailAt (s : State) (n : Nat) : Option Nat :=
  if s.toWidth n = 0 then none else some (s.clock.elapsed + s.toWidth n * nsUnit)

/-- What arming in mode 1 leaves of an output: a late pulse has fired, another waits for START. -/
def State.pulseArmed (s : State) (n : Nat) : Timed :=
  if s.toStart n < s.fullTime then
    { s.clock.timed.at n {} with next := none, asserted := true, lastLead := s.fullTime, trail := s.trailAt n }
  else { s.clock.timed.at n {} with next := some (0, s.toStart n) }

/-- The device with output `m` replaced. -/
def State.timedSet (s : State) (m : Nat) (x : Timed) : State :=
  s.upd (.clock { s.clock with timed := s.clock.timed.put m x })

theorem Act.Does.modTimed {m : Nat} {g : Timed → Timed} {Q : Unit → State → Prop}
    (h : Q () (s.timedSet m (g (s.clock.timed.at m {})))) : (Act.modTimed m g).Does s Q :=
  Act.Does.get_bind (Act.Does.make h)

theorem Act.Does.modTimed_bind {β : Type} {m : Nat} {g : Timed → Timed} {f : Unit → Act β} {R : β → State → Prop}
    (h : (f ()).Does (s.timedSet m (g (s.clock.timed.at m {}))) R) : (Act.modTimed m g >>= f).Does s R := fun k => h k

theorem armOutput_pulse (s : State) (m : Nat) : (armOutput m 1).Does s fun _ t =>
    t = { s with clock := t.clock, regs := t.regs } ∧ t.toMode m = s.toMode m ∧ t.clock.elapsed = s.clock.elapsed ∧
      t.clock.timed.at m {} = s.pulseArmed m := by
  refine Act.Does.get_bind ?_
  dsimp only
  by_cases hLate : s.toStart m < s.fullTime
  · simp only [hLate, decide_true, if_true]
    refine Act.Does.regField_bind (Act.Does.modTimed_bind (Act.Does.modTimed ?_))
    refine ⟨rfl, ?_, rfl, by simp [State.pulseArmed, hLate, State.trailAt, State.timedSet]⟩
    simp [State.toMode, State.rf, State.timedSet, field_setField_other]
  · simp only [hLate, decide_false, Bool.false_eq_true, if_false]
    refine Act.Does.modTimed ?_
    exact ⟨rfl, rfl, rfl, by simp [State.pulseArmed, hLate, State.timedSet]⟩

theorem Reg.off_toStart_ne_toCfg (m : Nat) : Reg.off .toStartLo m 0 ≠ Reg.off .toCfg m 0 ∧
    Reg.off .toStartHi m 0 ≠ Reg.off .toCfg m 0 ∧ Reg.off .toWidth m 0 ≠ Reg.off .toCfg m 0 := by
  simp [Reg.off, Reg.row]

/-- A write of CFG does not change what the arming reads. -/
theorem pulseArmed_upd_cfg (s : State) (m : Nat) (w : Word) (p : Ports) :
    ((s.upd (.reg (Reg.off .toCfg m 0) w)).upd (.ports p)).pulseArmed m = s.pulseArmed m := by
  obtain ⟨hLo, hHi, hWidth⟩ := Reg.off_toStart_ne_toCfg m
  have hStart : ((s.upd (.reg (Reg.off .toCfg m 0) w)).upd (.ports p)).toStart m = s.toStart m := by
    simp [State.toStart, State.rg_upd_reg_eq, hLo, hHi]
  have hTrail : ((s.upd (.reg (Reg.off .toCfg m 0) w)).upd (.ports p)).trailAt m = s.trailAt m := by
    rw [State.trailAt, State.toWidth, State.rg_upd _ _ _ _ _ rfl, State.rg_upd_reg_other _ _ _ _ _ _ hWidth]
    rfl
  rw [State.pulseArmed, hStart, hTrail]
  rfl

/-- A write that arms an idle output in mode 1. -/
theorem toArm_pulse {who : Who} {cfg : Word} (hTakes : s.takes who .toCfg n.val) (hIdle : s.toMode n.val = 0)
    (hMode : field cfg 1 0 = 1) : s.does (.toArm who n cfg) fun t =>
      t = { s with clock := t.clock, regs := t.regs, ports := t.ports, bus := t.bus } ∧ t.toMode n.val = 1 ∧
      t.answered who Code.ok ∧ t.clock.elapsed = s.clock.elapsed ∧ t.clock.timed.at n.val {} = s.pulseArmed n.val := by
  refine State.does_of rfl (command_does hTakes (Act.Does.get_bind ?_))
  simp only [hIdle, hMode, ne_eq, not_true_eq_false, decide_false, decide_true, Bool.false_and, Bool.and_false,
    one_ne_zero, OfNat.one_ne_ofNat, Bool.false_eq_true, if_false, if_true, Bool.not_false, Bool.and_self]
  refine Act.Does.reg_bind (Act.Does.make_bind ((armOutput_pulse _ _).bind fun _ t ht => Act.Does.pure ?_))
  obtain ⟨hSame, hKept, hElapsed, hTimed⟩ := ht
  refine ⟨?_, hKept.trans ?_, by simp, hElapsed, hTimed.trans (pulseArmed_upd_cfg _ _ _ _)⟩
  · rw [hSame]
    rfl
  · simp [State.toMode, State.rf, field_cfg_mode]

theorem toArm_refused {who : Who} {cfg : Word} (hTakes : s.takes who .toCfg n.val) (hIdle : s.toMode n.val = 0)
    (hMode : field cfg 1 0 = 2) (hBad : ¬(0 < s.toWidth n.val ∧ s.toWidth n.val < (s.rg .toPeriod n.val).toNat ∧
      100 ≤ (s.rg .toPeriod n.val).toNat)) : s.does (.toArm who n cfg) fun t =>
      t = { s with regs := t.regs, ports := t.ports, bus := t.bus } ∧ t.toMode n.val = 0 ∧
      t.answered who Code.faultXlat := by
  have hBad' : (s.toWidth n.val = 0 ∨ (s.rg .toPeriod n.val).toNat ≤ s.toWidth n.val) ∨
      (s.rg .toPeriod n.val).toNat < 100 := by omega
  have hNot : ¬((0 < s.toWidth n.val ∧ s.toWidth n.val < (s.rg .toPeriod n.val).toNat) ∧
      100 ≤ (s.rg .toPeriod n.val).toNat) := by omega
  refine State.does_of_run rfl (by
    simp [run_command hTakes, writeToCfg, hIdle, hMode, hBad', hNot]
    rfl) ?_
  refine ⟨rfl, ?_, by simp⟩
  simp [State.toMode, State.rf, field_cfg_mode]

/-- A leading edge that is due. -/
theorem timedOutputEdge_lead {k time : Nat} (hNext : (s.clock.timed.at n.val {}).next = some (k, time))
    (hTrail : (s.clock.timed.at n.val {}).trail = none) (hReflex : (s.clock.timed.at n.val {}).reflex = [])
    (hDue : time ≤ s.fullTime) : s.does (.timedOutputEdge n) fun t => t = { s with clock := t.clock } ∧
      t.clock.elapsed = s.clock.elapsed ∧ t.clock.timed.at n.val {} = { s.clock.timed.at n.val {} with
        next := if s.toMode n.val = 2 then some (k + 1, s.edgeTime n.val (k + 1)) else none
        asserted := true, lastLead := time, trail := s.trailAt n.val } := by
  have hPending : s.pendingEdge n.val = some (0, .lead k time) := by
    simp [State.pendingEdge, hNext, hTrail, hReflex, Nat.sub_eq_zero_of_le hDue]
  refine State.does_of_run rfl (by simp [hPending, (passUnits_zero s).run_unit_eq, Act.modTimed]; rfl) ?_
  exact ⟨rfl, rfl, by simp [State.trailAt]⟩

/-- A trailing edge that is due. -/
theorem timedOutputEdge_trail {e : Nat} (hTrail : (s.clock.timed.at n.val {}).trail = some e)
    (hNext : (s.clock.timed.at n.val {}).next = none) (hReflex : (s.clock.timed.at n.val {}).reflex = [])
    (hDue : e ≤ s.clock.elapsed) : s.does (.timedOutputEdge n) fun t => t = { s with clock := t.clock } ∧
      t.clock.elapsed = s.clock.elapsed ∧
      t.clock.timed.at n.val {} = { s.clock.timed.at n.val {} with trail := none, asserted := false } := by
  have hPending : s.pendingEdge n.val = some (0, .trail) := by
    simp [State.pendingEdge, hNext, hTrail, hReflex, Nat.sub_eq_zero_of_le hDue]
  refine State.does_of_run rfl (by simp [hPending, (passUnits_zero s).run_unit_eq, Act.modTimed]; rfl) ?_
  exact ⟨rfl, rfl, by simp⟩

end

/-- Settles O41: the writes of CFG, then the edges that are due. -/
theorem timedOutputsFire : Obligations.TimedOutputsFire := fun _ _ =>
  ⟨fun _ _ hTakes hIdle => ⟨toArm_pulse hTakes hIdle, toArm_refused hTakes hIdle⟩,
    fun _ _ => timedOutputEdge_lead, fun _ => timedOutputEdge_trail⟩

end Sys2Proof.Machine

/-!
PROOF. The leash commands (R253, R260, R262, R267 to R269).
-/
namespace Sys2Proof.Machine

/-- A leash command whose outcome goes to REFX_s_STATUS. -/
def leashAnswered (who : Who) (x : Act Nat) : Act Nat := do
  let code ← x
  Act.regField .refxStatus who.val 7 0 code
  return Code.ok

theorem reflexCommand_bind {who : Who} (h : privileged who = true) (n : Nat) :
    reflexCommand who 1 n = leashAnswered who (bindLeash n) := by
  simp [reflexCommand, leashAnswered, h]

theorem reflexCommand_unbind {who : Who} (h : privileged who = true) (n : Nat) :
    reflexCommand who 2 n = leashAnswered who (unbindLeash n) := by
  simp [reflexCommand, leashAnswered, h]

theorem reflexCommand_commit (who : Who) (n : Nat) :
    reflexCommand who 3 n = leashAnswered who (commitLeash n) := by
  simp [reflexCommand, leashAnswered]

theorem reflexCommand_resume {who : Who} (h : privileged who = true) (n : Nat) :
    reflexCommand who 4 n = leashAnswered who (resumeLeash n) := by
  simp [reflexCommand, leashAnswered, h]

theorem reflexCommand_reinit {who : Who} (h : privileged who = true) (n : Nat) :
    reflexCommand who 5 n = leashAnswered who (reinitTriad (n / 8)) := by
  simp [reflexCommand, leashAnswered, h]

theorem reflexCommand_stop {who : Who} (h : privileged who = true) (n : Nat) :
    reflexCommand who 6 n = leashAnswered who (stopLeash n) := by
  simp [reflexCommand, leashAnswered, h]

theorem reflexCommand_barred {who : Who} (h : privileged who = false) {op : Nat} (hop : op ∈ [1, 2, 4, 5, 6]) (n : Nat) :
    reflexCommand who op n = pure Code.faultXlat := by
  simp only [List.mem_cons, List.not_mem_nil, or_false] at hop
  rcases hop with rfl | rfl | rfl | rfl | rfl <;> simp [reflexCommand, h]

/-- What a leash command leaves of the device, by its code and the leash. -/
def State.leashDone (s : State) (who : Who) (n code : Nat) (x : Leash) (t : State) : Prop :=
  t = { s with reflex := t.reflex, regs := t.regs, bus := t.bus } ∧ t.leash n = x ∧
  t.rf .refxStatus who.val 7 0 = code ∧ regsBut s t [Reg.off .refxStatus who.val 0] ∧
  t.reflex.triads = s.reflex.triads ∧ t.answered who Code.ok

/-- An action on one leash alone. -/
def State.leashSet (s : State) (n : Nat) (x : Leash) (t : State) : Prop :=
  t = { s with reflex := t.reflex } ∧ t.leash n = x ∧ t.reflex.triads = s.reflex.triads

theorem State.leashSet_self (s : State) (n : Nat) : s.leashSet n (s.leash n) s := ⟨rfl, rfl, rfl⟩

theorem State.leashSet_mod (s : State) (n : Nat) (x : Leash) :
    s.leashSet n x (s.upd (.reflex { s.reflex with leashes := s.reflex.leashes.put n x })) :=
  ⟨rfl, by simp [State.leash], rfl⟩

theorem modLeash_does (s : State) (n : Nat) (f : Leash → Leash) :
    (Act.modLeash n f).Does s fun _ t => s.leashSet n (f (s.leash n)) t :=
  Act.Does.get_bind (Act.Does.make (s.leashSet_mod n _))

section
variable {s : State} {who : Who} {n : Nat} {code : Nat} {x : Leash}

theorem leashAnswered_does {c : Instr} {y : Act Nat} (hTakes : s.takes who .refxCmd who.val)
    (e : exec c s = Act.outcome (command who .refxCmd who.val (leashAnswered who y)) s) (hCode : code < 256)
    (h : y.Does s fun a t => a = code ∧ s.leashSet n x t) : s.does c (s.leashDone who n code x) := by
  refine State.does_of e (command_does hTakes (h.bind fun a t ht => Act.Does.regField_bind (Act.Does.pure ?_)))
  obtain ⟨rfl, hSame, hLeash, hTriads⟩ := ht
  have hRegs : t.regs = s.regs := by rw [hSame]
  refine ⟨by rw [hSame]; rfl, hLeash, ?_, fun o ho => ?_, hTriads, by simp⟩
  · simpa [State.rf, field_setField_same] using hCode
  · have ho : o ≠ Reg.off .refxStatus who.val 0 := by simpa using ho
    simp [Sparse.find_put_other _ _ ho, hRegs]

theorem bindLeash_ok (h : s.bindCode n = Code.ok) (hTriad : (s.triad (n / 8)).state ≠ 2) :
    (bindLeash n).Does s fun a t => a = Code.ok ∧ s.leashSet n
      { mode := 2, cause := 1, lastCommit := s.reflex.slot, out := (s.leash n).out, ovr := (s.leash n).ovr } t := by
  refine Act.Does.get_bind ?_
  simp only [h, hTriad, decide_false, if_true]
  exact (modLeash_does s n _).bind fun _ t ht => Act.Does.pure ⟨rfl, ht⟩

theorem bindLeash_refused (h : s.bindCode n ≠ Code.ok) :
    (bindLeash n).Does s fun a t => a = s.bindCode n ∧ s.leashSet n (s.leash n) t := by
  refine Act.Does.get_bind ?_
  simp only [h, if_false]
  exact Act.Does.pure ⟨rfl, s.leashSet_self n⟩

theorem unbindLeash_ok (hMode : 2 ≤ (s.leash n).mode) (hLatch : (s.leash n).latch = true) :
    (unbindLeash n).Does s fun a t => a = Code.ok ∧ s.leashSet n { out := (s.leash n).out, ovr := (s.leash n).ovr } t := by
  refine Act.Does.get_bind (Act.Does.ite (fun _ => ?_) fun hNot => absurd ?_ hNot)
  · exact (modLeash_does s n _).bind fun _ t ht => Act.Does.pure ⟨rfl, ht⟩
  · simp [hMode, hLatch, show (s.leash n).mode ≠ 0 by omega]

theorem unbindLeash_refused (h : (s.leash n).mode = 0 ∨ (s.leash n).latch = false ∧ (s.triad (n / 8)).state ≠ 2) :
    (unbindLeash n).Does s fun a t => a = Code.faultXlat ∧ s.leashSet n (s.leash n) t := by
  refine Act.Does.get_bind (Act.Does.ite (fun hDo => absurd hDo ?_) fun _ => Act.Does.pure ⟨rfl, s.leashSet_self n⟩)
  rcases h with h | ⟨hLatch, hState⟩
  · simp [h]
  · simp [hLatch, hState]

/-- What COMMIT finds in the members' copies of the next tile. -/
def State.commitCodes (s : State) (n : Nat) : List Nat :=
  (s.members (n / 8)).map fun m => commitCheck (s.peek (slicePa m (trajTile n (!(s.leash n).liveHigh))) 65536)

theorem commitLeash_unbound (h : (s.leash n).mode = 0) :
    (commitLeash n).Does s fun a t => a = Code.faultXlat ∧ s.leashSet n (s.leash n) t :=
  Act.Does.get_bind (Act.Does.ite (fun _ => Act.Does.pure ⟨rfl, s.leashSet_self n⟩) fun hNot => absurd h hNot)

theorem commitLeash_ok (hMode : (s.leash n).mode ≠ 0) (hCodes : ∀ c ∈ s.commitCodes n, c = Code.ok) :
    (commitLeash n).Does s fun a t => a = Code.ok ∧ s.leashSet n
      { s.leash n with pending := true, lastCommit := s.reflex.slot, commitNs := s.ns } t := by
  have hNone : (s.commitCodes n).find? (· ≠ Code.ok) = none := by simpa using hCodes
  rw [State.commitCodes] at hNone
  refine Act.Does.get_bind (Act.Does.ite (fun h => absurd h hMode) fun _ => ?_)
  simp only [hNone]
  exact (modLeash_does s n _).bind fun _ t ht => Act.Does.pure ⟨rfl, ht⟩

theorem commitLeash_refused {c : Nat} (hMode : (s.leash n).mode ≠ 0) (hCode : (s.commitCodes n).find? (· ≠ Code.ok) = some c) :
    (commitLeash n).Does s fun a t => a = c ∧ s.leashSet n (s.leash n) t := by
  rw [State.commitCodes] at hCode
  refine Act.Does.get_bind (Act.Does.ite (fun h => absurd h hMode) fun _ => ?_)
  simp only [hCode]
  exact Act.Does.pure ⟨rfl, s.leashSet_self n⟩

theorem resumeLeash_unbound (h : (s.leash n).mode = 0) :
    (resumeLeash n).Does s fun a t => a = Code.faultXlat ∧ s.leashSet n (s.leash n) t :=
  Act.Does.get_bind (Act.Does.ite (fun _ => Act.Does.pure ⟨rfl, s.leashSet_self n⟩) fun hNot => absurd h hNot)

theorem resumeLeash_clears (hMode : (s.leash n).mode ≠ 0) (hLatch : (s.leash n).latch = true) (h6 : (s.leash n).cause ≠ 6)
    (h9 : (s.leash n).cause ≠ 9) (hEarlier : (s.leash n).causeNs ≠ s.ns) :
    (resumeLeash n).Does s fun a t => a = Code.ok ∧ s.leashSet n { s.leash n with latch := false, cause := 0 } t := by
  refine Act.Does.get_bind (Act.Does.ite (fun h => absurd h hMode) fun _ => ?_)
  simp only [hLatch, h6, h9, hEarlier, ne_eq, not_false_eq_true, decide_true, Bool.and_self, if_true]
  exact (modLeash_does s n _).bind fun _ t ht => Act.Does.pure ⟨rfl, ht⟩

theorem resumeLeash_keeps (hMode : (s.leash n).mode ≠ 0) (hNow : (s.leash n).causeNs = s.ns) :
    (resumeLeash n).Does s fun a t => a = Code.ok ∧ s.leashSet n (s.leash n) t := by
  refine Act.Does.get_bind (Act.Does.ite (fun h => absurd h hMode) fun _ => ?_)
  simp only [hNow, ne_eq, not_true_eq_false, decide_false, Bool.and_false, Bool.false_eq_true, if_false]
  exact Act.Does.pure ⟨rfl, s.leashSet_self n⟩

theorem stopLeash_unbound (h : (s.leash n).mode = 0) :
    (stopLeash n).Does s fun a t => a = Code.faultXlat ∧ s.leashSet n (s.leash n) t :=
  Act.Does.get_bind (Act.Does.ite (fun _ => Act.Does.pure ⟨rfl, s.leashSet_self n⟩) fun hNot => absurd h hNot)

theorem leaveMain_latches {mode cause : Nat} (hMode : (s.leash n).mode ≠ 0) (hLatch : (s.leash n).latch = false) :
    (leaveMain n mode cause true).Does s fun _ t =>
      s.leashSet n { s.leash n with mode, cause, latch := true, causeNs := s.ns } t := by
  refine Act.Does.get_bind (Act.Does.ite (fun _ => ?_) fun hNot => absurd ?_ hNot)
  · refine (modLeash_does s n _).mono fun _ t ht => ?_
    simpa [hLatch] using ht
  · simp [hMode, hLatch]

theorem stopLeash_latches (hMode : (s.leash n).mode ≠ 0) (hLatch : (s.leash n).latch = false) (h8 : (s.leash n).cause ≠ 8) :
    (stopLeash n).Does s fun a t => a = Code.ok ∧ s.leashSet n
      { s.leash n with mode := 2, cause := 7, latch := true, causeNs := s.ns } t := by
  refine Act.Does.get_bind (Act.Does.ite (fun h => absurd h hMode) fun _ => ?_)
  simp only [h8, decide_false, Bool.false_and, Bool.false_eq_true, if_false]
  exact (leaveMain_latches hMode hLatch).bind fun _ t ht => Act.Does.pure ⟨rfl, ht⟩

/-- STOP takes the place of a KILL of the same cycle. -/
theorem stopLeash_overKill (hMode : (s.leash n).mode ≠ 0) (h8 : (s.leash n).cause = 8) (hNow : (s.leash n).causeNs = s.ns) :
    (stopLeash n).Does s fun a t => a = Code.ok ∧ s.leashSet n { s.leash n with cause := 7 } t := by
  refine Act.Does.get_bind (Act.Does.ite (fun h => absurd h hMode) fun _ => Act.Does.ite (fun _ => ?_) fun hNot => absurd ?_ hNot)
  · exact (modLeash_does s n _).bind fun _ t ht => Act.Does.pure ⟨rfl, ht⟩
  · simp [h8, hNow]

end

theorem bindCode_lt (s : State) (n : Nat) : s.bindCode n < 256 := by
  simp only [State.bindCode]
  split_ifs <;> decide

theorem commitCheck_lt (tile : List Byte) : commitCheck tile < 256 := by
  simp only [commitCheck]
  split_ifs <;> decide

theorem lt_of_mem_commitCodes {s : State} {n c : Nat} (h : c ∈ s.commitCodes n) : c < 256 := by
  obtain ⟨m, -, rfl⟩ := List.mem_map.mp h
  exact commitCheck_lt _

/-- Settles O43: each command by the leash's mode, its latch and its cause, then COMMIT, then the initiators that may only
COMMIT. -/
theorem leashCommandsSetTheMode : Obligations.LeashCommandsSetTheMode := by
  intro s who n hTakes
  refine ⟨fun hWho => ⟨fun h hTriad => ?_, fun h => ?_, fun hMode hLatch => ?_, fun h => ?_,
    fun hMode hLatch h6 h9 => ⟨fun hEarlier => ?_, fun hNow => ?_⟩, fun hMode hLatch h8 => ?_, fun hMode h8 hNow => ?_,
    fun hMode c hc => ?_⟩, fun hMode hCodes => ?_, fun c hMode hCode => ?_, fun hMode => ?_, fun hWho c hc => ?_⟩
  · exact leashAnswered_does hTakes (by rw [← reflexCommand_bind hWho]; rfl) (by decide) (bindLeash_ok h hTriad)
  · exact leashAnswered_does hTakes (by rw [← reflexCommand_bind hWho]; rfl) (bindCode_lt s n) (bindLeash_refused h)
  · exact leashAnswered_does hTakes (by rw [← reflexCommand_unbind hWho]; rfl) (by decide) (unbindLeash_ok hMode hLatch)
  · exact leashAnswered_does hTakes (by rw [← reflexCommand_unbind hWho]; rfl) (by decide) (unbindLeash_refused h)
  · exact leashAnswered_does hTakes (by rw [← reflexCommand_resume hWho]; rfl) (by decide)
      (resumeLeash_clears hMode hLatch h6 h9 hEarlier)
  · exact leashAnswered_does hTakes (by rw [← reflexCommand_resume hWho]; rfl) (by decide) (resumeLeash_keeps hMode hNow)
  · exact leashAnswered_does hTakes (by rw [← reflexCommand_stop hWho]; rfl) (by decide) (stopLeash_latches hMode hLatch h8)
  · exact leashAnswered_does hTakes (by rw [← reflexCommand_stop hWho]; rfl) (by decide) (stopLeash_overKill hMode h8 hNow)
  · simp only [List.mem_cons, List.not_mem_nil, or_false] at hc
    rcases hc with rfl | rfl
    · exact leashAnswered_does hTakes (by rw [← reflexCommand_resume hWho]; rfl) (by decide) (resumeLeash_unbound hMode)
    · exact leashAnswered_does hTakes (by rw [← reflexCommand_stop hWho]; rfl) (by decide) (stopLeash_unbound hMode)
  · exact leashAnswered_does hTakes (by rw [← reflexCommand_commit who]; rfl) (by decide) (commitLeash_ok hMode hCodes)
  · exact leashAnswered_does hTakes (by rw [← reflexCommand_commit who]; rfl)
      (lt_of_mem_commitCodes (List.mem_of_find?_eq_some hCode)) (commitLeash_refused hMode hCode)
  · exact leashAnswered_does hTakes (by rw [← reflexCommand_commit who]; rfl) (by decide) (commitLeash_unbound hMode)
  · have hBarred {c : Instr} {op : Nat} (hop : op ∈ [1, 2, 4, 5, 6])
        (e : exec c s = Act.outcome (command who .refxCmd who.val (reflexCommand who op n.val)) s) :
        s.does c fun t => t = { s with bus := t.bus } ∧ t.answered who Code.faultXlat := by
      rw [reflexCommand_barred hWho hop] at e
      exact State.does_of_run e (by simp [run_command hTakes]; rfl) ⟨rfl, by simp⟩
    simp only [List.mem_cons, List.not_mem_nil, or_false] at hc
    rcases hc with rfl | rfl | rfl | rfl | rfl
    · exact hBarred (op := 1) (by decide) rfl
    · exact hBarred (op := 2) (by decide) rfl
    · exact hBarred (op := 4) (by decide) rfl
    · exact hBarred (op := 6) (by decide) rfl
    · exact hBarred (op := 5) (by decide) rfl

end Sys2Proof.Machine

/-!
PROOF. Slots and the inputs that leashes hold (R249, R254 to R256).
-/
namespace Sys2Proof.Machine

/-- A property that one pass of a loop brings about, and every pass keeps, holds at its end. -/
theorem Act.Does.loop_of_mem {γ : Type} {f : γ → PUnit → Act (ForInStep PUnit)} {P : State → Prop} {c : γ}
    (hMake : ∀ t, (f c ⟨⟩).Does t fun r u => r = .yield ⟨⟩ ∧ P u)
    (hKeep : ∀ d t, P t → (f d ⟨⟩).Does t fun r u => r = .yield ⟨⟩ ∧ P u)
    (hGo : ∀ d t, (f d ⟨⟩).Does t fun r _ => r = .yield ⟨⟩) :
    ∀ (l : List γ) (s : State), c ∈ l → (forIn l PUnit.unit f : Act PUnit).Does s fun _ t => P t
  | [], _, h => absurd h List.not_mem_nil
  | d :: l, s, h => by
    have hRest (t : State) (ht : P t) : (forIn l PUnit.unit f : Act PUnit).Does t fun _ u => P u :=
      Act.Does.loop (I := fun _ u => P u) (fun e b u hu => (hKeep e u hu).mono fun r _ hr => by
        rw [hr.1]
        exact hr.2) l .unit t ht
    rw [List.forIn_cons]
    rcases List.mem_cons.mp h with rfl | hc
    · refine (hMake s).bind fun r t ht => ?_
      rw [ht.1]
      exact hRest t ht.2
    · refine (hGo d s).bind fun r t ht => ?_
      rw [ht]
      exact Act.Does.loop_of_mem hMake hKeep hGo l t hc

/-- A loop over one element does what its body does. -/
theorem Act.Does.loop_one {γ : Type} {f : γ → PUnit → Act (ForInStep PUnit)} {Q : State → Prop} {c : γ} {s : State}
    (h : (f c ⟨⟩).Does s fun r t => r = .yield ⟨⟩ ∧ Q t) :
    (forIn [c] PUnit.unit f : Act PUnit).Does s fun _ t => Q t := by
  rw [List.forIn_cons]
  refine h.bind fun r t ht => ?_
  rw [ht.1]
  exact Act.Does.pure ht.2

/-! ## Inputs -/

/-- What input `j` of leash `m` holds of an arrival in state `s`. -/
def State.heldOf (s : State) (payload : List Byte) (m j draw : Nat) : HeldInput :=
  { bytes := (s.leashInput m j).taken payload s.fullTime draw, arrival := s.ns }

/-- A pass of the arrival loop: input `j` of leash `m` holds the payload where it reads the source. -/
def arrivalPass (s : State) (src : ReflexSource) (payload : List Byte) (m j : Nat) : Act (ForInStep PUnit) := do
  if (s.leashInput m j).takes src then
    let draw ← if (s.leashInput m j).kind ≠ 4 && payload.length < (s.leashInput m j).off + (s.leashInput m j).len then Act.draw
      else pure 0
    Act.modLeash m fun l => { l with inputs := l.inputs.put j (s.heldOf payload m j draw) }
  return .yield ⟨⟩

theorem reflexArrival_eq (src : ReflexSource) (payload : List Byte) : reflexArrival src payload = (do
    let s ← Act.get
    for m in s.bound 0 ++ s.bound 1 do
      let _ ← forIn (List.range (s.leashOf m).nin) PUnit.unit fun j _ => arrivalPass s src payload m j) := rfl

/-- Leash `n` holds `x` for its input `k`. -/
def holdsInput (n k : Nat) (x : HeldInput) (t : State) : Prop := (t.leash n).inputs.find k = some x

theorem holdInput_does (m j : Nat) (x : HeldInput) (t : State) :
    (Act.modLeash m fun l => { l with inputs := l.inputs.put j x }).Does t fun _ u =>
      holdsInput m j x u ∧ ∀ n k y, (m, j) ≠ (n, k) → holdsInput n k y t → holdsInput n k y u := by
  refine Act.Does.get_bind (Act.Does.make ⟨by simp [holdsInput, State.leash], fun n k y hne hy => ?_⟩)
  by_cases hm : n = m
  · subst hm
    have hk : k ≠ j := fun h => hne (by rw [h])
    simpa [holdsInput, State.leash, Sparse.find_put_other _ _ hk] using hy
  · simpa [holdsInput, State.leash, Sparse.at_put_other _ _ _ hm] using hy

section
variable {s : State} {src : ReflexSource} {payload : List Byte}

/-- A pass sets its own input, if it reads the source, and keeps every other. -/
theorem arrivalPass_does (m j : Nat) (t : State) : (arrivalPass s src payload m j).Does t fun r u => r = .yield ⟨⟩ ∧
    ((s.leashInput m j).takes src = true → ∃ draw, holdsInput m j (s.heldOf payload m j draw) u) ∧
    ∀ n k y, ((s.leashInput n k).takes src = true → ∀ draw, s.heldOf payload n k draw = y) → holdsInput n k y t →
      holdsInput n k y u := by
  refine Act.Does.ite (fun hTakes => ?_) fun hNot => Act.Does.pure ⟨rfl, fun h => absurd h hNot, fun _ _ _ _ hy => hy⟩
  have hSet (draw : Nat) (t' : State) (ht : t'.reflex = t.reflex) : (do
      Act.modLeash m fun l => { l with inputs := l.inputs.put j (s.heldOf payload m j draw) }
      return .yield ⟨⟩ : Act (ForInStep PUnit)).Does t' fun r u => r = .yield ⟨⟩ ∧
        ((s.leashInput m j).takes src = true → ∃ draw, holdsInput m j (s.heldOf payload m j draw) u) ∧
        ∀ n k y, ((s.leashInput n k).takes src = true → ∀ draw, s.heldOf payload n k draw = y) → holdsInput n k y t →
          holdsInput n k y u := by
    refine (holdInput_does m j _ t').bind fun _ u hu => Act.Does.pure ⟨rfl, fun _ => ⟨draw, hu.1⟩, fun n k y hFix hy => ?_⟩
    by_cases hSame : (m, j) = (n, k)
    · cases hSame
      exact hFix hTakes draw ▸ hu.1
    · exact hu.2 n k y hSame (by simpa only [holdsInput, State.leash, ht] using hy)
  refine Act.Does.ite (fun _ => ?_) fun _ => ?_
  · exact Act.Does.get_bind (Act.Does.make_bind (hSet _ _ rfl))
  · exact hSet _ _ rfl

/-- An input that reads the source, and whose bytes the payload covers, is held once the payload has arrived. -/
theorem reflexArrival_holds {n k : Nat} {x : HeldInput} (hn : n ∈ s.bound 0 ++ s.bound 1) (hk : k < (s.leashOf n).nin)
    (hTakes : (s.leashInput n k).takes src = true) (hFix : ∀ draw, s.heldOf payload n k draw = x) :
    (reflexArrival src payload).Does s fun _ t => holdsInput n k x t := by
  have hPass (m j : Nat) (t : State) : (arrivalPass s src payload m j).Does t fun r u => r = .yield ⟨⟩ ∧
      (holdsInput n k x t → holdsInput n k x u) :=
    (arrivalPass_does m j t).mono fun r u hu => ⟨hu.1, hu.2.2 n k x fun _ => hFix⟩
  have hOwn (t : State) : (arrivalPass s src payload n k).Does t fun r u => r = .yield ⟨⟩ ∧ holdsInput n k x u :=
    (arrivalPass_does n k t).mono fun r u hu => by
      obtain ⟨draw, hHeld⟩ := hu.2.1 hTakes
      exact ⟨hu.1, hFix draw ▸ hHeld⟩
  have hInner (m : Nat) (t : State) (ht : holdsInput n k x t) :
      (forIn (List.range (s.leashOf m).nin) PUnit.unit fun j _ => arrivalPass s src payload m j : Act PUnit).Does t
        fun _ u => holdsInput n k x u :=
    Act.Does.loop (I := fun _ u => holdsInput n k x u) (fun j _ u hu => (hPass m j u).mono fun r v hv => by
      rw [hv.1]
      exact hv.2 hu) _ _ t ht
  rw [reflexArrival_eq]
  refine Act.Does.get_bind (Act.Does.bind (Act.Does.loop_of_mem (P := holdsInput n k x) (c := n) (fun t => ?_)
    (fun m t ht => ?_) (fun m t => ?_) _ s hn) fun _ t ht => Act.Does.pure ht)
  · refine Act.Does.bind (Act.Does.loop_of_mem (P := holdsInput n k x) (c := k) hOwn (fun j u hu => ?_) (fun j u => ?_) _ t
      (List.mem_range.mpr hk)) fun _ u hu => Act.Does.pure ⟨rfl, hu⟩
    · exact (hPass n j u).mono fun r v hv => ⟨hv.1, hv.2 hu⟩
    · exact (hPass n j u).mono fun r v hv => hv.1
  · exact (hInner m t ht).bind fun _ u hu => Act.Does.pure ⟨rfl, hu⟩
  · exact (Act.Does.loop (I := fun _ _ => True) (fun j _ u _ => (hPass m j u).mono fun r v hv => by
      rw [hv.1]
      trivial) _ _ t trivial).bind fun _ u _ => Act.Does.pure rfl

/-- An input whose bytes the payload covers takes no free byte. -/
theorem taken_of_covered {e : LeashEntry} (hKind : e.kind ≠ 4) (hLen : e.off + e.len ≤ payload.length) (time draw : Nat) :
    e.taken payload time draw = (payload.drop e.off).take e.len := by
  have hGot : ((payload.drop e.off).take e.len).length = e.len := by
    rw [List.length_take, List.length_drop]
    omega
  simp only [LeashEntry.taken, if_neg hKind, hGot, Nat.sub_self, List.range_zero, List.map_nil, List.append_nil]

theorem reflexInputArrival_does {n k : Nat} (hn : n ∈ s.bound 0 ++ s.bound 1) (hk : k < (s.leashOf n).nin)
    (hTakes : (s.leashInput n k).takes src = true) (hKind : (s.leashInput n k).kind ≠ 4)
    (hLen : (s.leashInput n k).off + (s.leashInput n k).len ≤ payload.length) :
    s.does (.reflexInputArrival src payload) fun t => t = { s with reflex := t.reflex, freeCount := t.freeCount } ∧
      (t.leash n).inputs.find k =
        some { bytes := (payload.drop (s.leashInput n k).off).take (s.leashInput n k).len, arrival := s.ns } := by
  refine State.does_of rfl (((writes_reflexArrival src payload).and (reflexArrival_holds hn hk hTakes fun draw => ?_)).mono
    fun _ t ht => ⟨State.ext_fld fun f => ?_, ht.2⟩)
  · rw [State.heldOf, taken_of_covered hKind hLen]
  · cases f with
    | reflex | freeCount => rfl
    | _ => exact ht.1 _ (by decide)

end

/-! ## Slots -/

section
variable {s : State} {n : Nat}

/-- The reflex lane once the slot counter has risen. -/
def State.nextSlot (s : State) : Reflex := { s.reflex with
  slot := (s.reflex.slot + 1) % 2 ^ 64
  slotTime := (s.nowLo + 2 ^ 32 - (s.ns - s.reflex.nextBoundary) % 2 ^ 32) % 2 ^ 32
  nextBoundary := s.reflex.nextBoundary + 1000 }

/-- Leash `x` is due `k` slots after slot `n`. -/
def State.due (t : State) (n x k : Nat) : Bool := (n + k) % (t.leashOf x).period = (t.leashOf x).phase

/-- What happens in the slot that has begun: outputs, then seals, then votes. -/
def slotWork (deviations : List (Nat × MemberFault)) (t : State) : Act Unit := do
  for x in t.bound 0 ++ t.bound 1 do
    if t.due t.nextSlot.slot x 0 then emitLeash x t.nextSlot.slot
  for x in t.bound 0 ++ t.bound 1 do
    if t.due t.nextSlot.slot x ((t.leashOf x).budget + 2) then
      sealLeash x (t.nextSlot.slot + (t.leashOf x).budget + 2) t.reflex.nextBoundary
  for x in t.bound 0 ++ t.bound 1 do
    let u ← Act.get
    if t.due t.nextSlot.slot x 1 && (u.leash x).mode ≠ 3 && (u.leash x).mode ≠ 0 &&
        ((u.leash x).sealed.map (·.1)) = some (t.nextSlot.slot + 1) then
      voteLeash deviations x (t.nextSlot.slot + 1)

theorem slotTick_does {post : State → Prop} (hAwake : s.awake = true) (hCalm : s.calm = true)
    (hDue : s.reflex.nextBoundary * nsUnit ≤ s.clock.elapsed) (deviations : List (Nat × MemberFault))
    (h : (slotWork deviations s).Does (s.upd (.reflex s.nextSlot)) fun _ t => post t ∧ t.quiet = true) :
    s.does (.slotTick deviations) post := by
  obtain ⟨hOnTime, -⟩ := State.calm_iff.mp hCalm
  refine State.does_of rfl (settled_does hOnTime (Act.Does.get_bind (Act.Does.ite (fun _ => ?_) fun hNot => absurd hAwake hNot)))
  have hReach : (reach s.reflex.nextBoundary).Does s fun _ t => t = s :=
    Act.does_of_run (a := ()) (fun k => run_reach_past hDue k) rfl
  exact hReach.bind fun _ t e => e ▸ Act.Does.get_bind (Act.Does.make_bind h)

/-- No leash is bound: a slot begins, and no more. -/
theorem slotTick_idle (hAwake : s.awake = true) (hCalm : s.calm = true)
    (hDue : s.reflex.nextBoundary * nsUnit ≤ s.clock.elapsed) (hNone : s.bound 0 ++ s.bound 1 = []) :
    s.does (.slotTick []) fun t => t = { s with reflex := t.reflex } ∧
      t.reflex = { s.reflex with slot := (s.reflex.slot + 1) % 2 ^ 64, slotTime := t.reflex.slotTime
                                 nextBoundary := s.reflex.nextBoundary + 1000 } := by
  have hQuiet : (s.upd (.reflex s.nextSlot)).quiet = true := (State.calm_iff.mp hCalm).2
  refine slotTick_does hAwake hCalm hDue [] ?_
  simp only [slotWork, hNone, List.forIn_nil]
  exact Act.Does.pure ⟨⟨rfl, rfl⟩, hQuiet⟩

/-- An output of kind 3 without a Lock is placed at its SPI port. -/
theorem emitOutput_spi {u : State} {payload : List Byte} (hKind : (u.leashOutput n 0).kind = 3)
    (hLock : (u.leashOf n).lockEn = false) : (emitOutput n 0 payload).Does u fun _ t =>
      t = { u with reflex := t.reflex } ∧ t.reflex.slot = u.reflex.slot ∧
      t.reflex.spiTx.find (u.leashOutput n 0).port = some payload ∧ (t.leash n).out = ((u.leash n).out + 1) % 2 ^ 32 := by
  refine Act.does_of_run (fun k => by simp [emitOutput, hKind, hLock, Act.modLeash]; rfl) ?_
  exact ⟨rfl, rfl, by simp, by simp [State.leash]⟩

/-- The one output of a leash in its output slot is the payload voted for it. -/
theorem emitLeash_spi {u : State} {slot : Nat} {payload : List Byte} (hKind : (u.leashOutput n 0).kind = 3)
    (hLock : (u.leashOf n).lockEn = false) (hOut : (u.leashOf n).nout = 1) (hMode : (u.leash n).mode ≠ 3)
    (hSealed : (u.leash n).sealed.map (·.1) = some slot) (hVoted : (u.leash n).voted = some (slot, [payload])) :
    (emitLeash n slot).Does u fun _ t => t = { u with reflex := t.reflex } ∧ t.reflex.slot = u.reflex.slot ∧
      t.reflex.spiTx.find (u.leashOutput n 0).port = some payload ∧ (t.leash n).out = ((u.leash n).out + 1) % 2 ^ 32 := by
  have hRange : List.range 1 = [0] := rfl
  refine Act.Does.get_bind ?_
  simp only [hSealed, if_true, hVoted, hMode, hOut, hRange, List.forIn_cons, List.forIn_nil, ne_eq, not_false_eq_true,
    decide_true, Bool.and_self, List.getD_cons_zero]
  exact ((emitOutput_spi hKind hLock).bind fun _ t ht => Act.Does.pure ht)

/-- A leash due in a slot is not due in the slots soon after it. -/
theorem not_due_soon {slot period phase k : Nat} (hDue : slot % period = phase) (hPeriod : 50 ≤ period) (hk : 0 < k)
    (hSoon : k < 50) : (slot + k) % period ≠ phase := by
  intro h
  have hMod : (slot + k) % period = (slot + 0) % period := by rw [h, Nat.add_zero, hDue]
  have hZero : k % period = 0 % period := Nat.ModEq.add_left_cancel' slot hMod
  rw [Nat.mod_eq_of_lt (by omega), Nat.zero_mod] at hZero
  omega

/-- In the output slot of the one bound leash its voted payload is placed, and nothing is sealed or voted. -/
theorem slotTick_emits {payload : List Byte} (hAwake : s.awake = true) (hCalm : s.calm = true)
    (hDue : s.reflex.nextBoundary * nsUnit ≤ s.clock.elapsed) (hOne : s.bound 0 ++ s.bound 1 = [n])
    (hSlot : s.nextSlot.slot % (s.leashOf n).period = (s.leashOf n).phase) (hPeriod : 50 ≤ (s.leashOf n).period)
    (hBudget : (s.leashOf n).budget ≤ 8) (hOut : (s.leashOf n).nout = 1) (hLock : (s.leashOf n).lockEn = false)
    (hMode : (s.leash n).mode ≠ 3) (hSealed : (s.leash n).sealed.map (·.1) = some s.nextSlot.slot)
    (hVoted : (s.leash n).voted = some (s.nextSlot.slot, [payload])) (hKind : (s.leashOutput n 0).kind = 3) :
    s.does (.slotTick []) fun t => t = { s with reflex := t.reflex } ∧ t.reflex.slot = s.nextSlot.slot ∧
      t.reflex.spiTx.find (s.leashOutput n 0).port = some payload ∧ (t.leash n).out = ((s.leash n).out + 1) % 2 ^ 32 := by
  have hEmit : s.due s.nextSlot.slot n 0 = true := by simpa [State.due] using hSlot
  have hSeal : s.due s.nextSlot.slot n ((s.leashOf n).budget + 2) = false := by
    simpa [State.due] using not_due_soon hSlot hPeriod (by omega) (by omega)
  have hVote : s.due s.nextSlot.slot n 1 = false := by
    simpa [State.due] using not_due_soon hSlot hPeriod (by decide) (by decide)
  have hDoes := emitLeash_spi (u := s.upd (.reflex s.nextSlot)) hKind hLock hOut hMode hSealed hVoted
  refine slotTick_does hAwake hCalm hDue [] ?_
  unfold slotWork
  rw [hOne]
  refine (Act.Does.loop_one (Act.Does.ite (fun _ => hDoes.bind fun _ t ht => Act.Does.pure ⟨rfl, ht⟩) fun h =>
    absurd hEmit h)).bind fun _ t ht => ?_
  refine (Act.Does.loop_one (Q := fun u => u = t) ?_).bind fun _ u hu => ?_
  · rw [hSeal]
    exact Act.Does.pure ⟨rfl, rfl⟩
  refine (Act.Does.loop_one (Q := fun v => v = t) (Act.Does.get_bind ?_)).bind fun _ v hv => ?_
  · rw [hVote]
    exact Act.Does.pure ⟨rfl, hu⟩
  rw [hv]
  obtain ⟨hState, hRest⟩ := ht
  refine Act.Does.pure ⟨⟨hState, hRest⟩, ?_⟩
  rw [hState]
  exact (State.calm_iff.mp hCalm).2

end

/-- Settles O44: the slot counter of a device without a leash, the one output of a voted leash, and the arrival loop,
whose passes set their own input and keep every other. -/
theorem slotsEmitAndInputsAreHeld : Obligations.SlotsEmitAndInputsAreHeld := by
  refine fun s hAwake hCalm => ⟨fun hDue => ⟨fun hNone => slotTick_idle hAwake hCalm hDue hNone, ?_⟩, ?_⟩
  · intro n payload port hOne d e slot hSlot hPeriod _ hBudget hOut hLock hMode hSealed hVoted hKind hPort
    subst hPort
    exact slotTick_emits hAwake hCalm hDue hOne hSlot hPeriod hBudget hOut hLock hMode hSealed hVoted hKind
  · exact fun src bs n k hn hk hTakes hKind hLen => reflexInputArrival_does hn hk hTakes hKind hLen

end Sys2Proof.Machine

/-!
PROOF. What the stores, fills and copies of physical memory do.
-/
namespace Sys2Proof.Machine

variable {α : Type}

/-! ## Memory -/

/-- A copy gives its destination the bytes of its source, and leaves every other. -/
theorem Memory.byteOr_copy (m : List Host.Cell) (a b n x : Nat) :
    Memory.byteOr 0 (Memory.copy m a b n) x =
      if b ≤ x ∧ x < b + n then Memory.byteOr 0 m (x - b + a) else Memory.byteOr 0 m x := by
  have hMoved : ∀ c ∈ (m.filter fun c => a ≤ c.1 && c.1 < a + n).map (fun c => (c.1 - a + b, c.2)),
      b ≤ c.1 ∧ c.1 < b + n := fun c hc => by
    obtain ⟨d, hd, rfl⟩ := List.mem_map.mp hc
    have hIn := List.of_mem_filter hd
    simp only [Bool.and_eq_true, decide_eq_true_eq] at hIn
    show b ≤ d.1 - a + b ∧ d.1 - a + b < b + n
    omega
  have hLow : ∀ c ∈ m.filter (fun c => c.1 < b), c.1 < b := fun c hc => by simpa using List.of_mem_filter hc
  have hHigh : ∀ c ∈ m.filter (fun c => b + n ≤ c.1), b + n ≤ c.1 := fun c hc => by simpa using List.of_mem_filter hc
  unfold Memory.copy
  by_cases hIn : b ≤ x ∧ x < b + n
  · rw [if_pos hIn, List.append_assoc, Memory.byteOr_append _ _ _ fun c hc => by have := hLow c hc; omega,
      Memory.byteOr_append_left _ _ _ fun c hc => by have := hHigh c hc; omega]
    clear hMoved hLow hHigh
    induction m with
    | nil => rfl
    | cons c m ih =>
      obtain ⟨j, v⟩ := c
      by_cases hj : a ≤ j ∧ j < a + n
      · have hKey : (j - a + b = x) ↔ j = x - b + a := by omega
        rw [List.filter_cons, if_pos (by simpa using hj)]
        simp only [List.map_cons, Memory.byteOr, hKey, ih]
      · have hKey : j ≠ x - b + a := by omega
        rw [List.filter_cons, if_neg (by simpa using hj), ih]
        simp [Memory.byteOr, hKey]
  · rw [if_neg hIn]
    have hNone : ∀ c ∈ (m.filter fun c => a ≤ c.1 && c.1 < a + n).map (fun c => (c.1 - a + b, c.2)), c.1 ≠ x :=
      fun c hc => by have := hMoved c hc; omega
    by_cases hBelow : x < b
    · rw [Memory.byteOr_append_left _ _ _ fun c hc => by have := hHigh c hc; omega,
        Memory.byteOr_append_left _ _ _ hNone]
      exact Memory.byteOr_filter m (fun j => j < b) x (by simpa using hBelow)
    · rw [List.append_assoc, Memory.byteOr_append _ _ _ fun c hc => by have := hLow c hc; omega,
        Memory.byteOr_append _ _ _ hNone]
      exact Memory.byteOr_filter m (fun j => b + n ≤ j) x (by simp; omega)

theorem State.keepsBut_refl (s : State) (l : List (Nat × Nat)) : s.keepsBut s l := fun _ _ => rfl

theorem State.keepsBut_trans {s t u : State} {l : List (Nat × Nat)} (h : s.keepsBut t l) (h' : t.keepsBut u l) :
    s.keepsBut u l := fun a ha => (h' a ha).trans (h a ha)

theorem State.keepsBut_mono {s t : State} {l m : List (Nat × Nat)} (h : s.keepsBut t l) (hl : ∀ r ∈ l, r ∈ m) : s.keepsBut t m :=
  fun a ha => h a fun r hr => ha r (hl r hr)

theorem State.keepsBut_store {s t : State} {pa : Nat} {bs : List Byte} {l : List (Nat × Nat)}
    (h : t.mem = Memory.store 0 s.mem pa bs) (hl : (pa, bs.length) ∈ l) : s.keepsBut t l := fun a ha => by
  rw [Memory.byte, h]
  exact Memory.byteOr_store_other _ _ _ _ (ha _ hl)

theorem State.keepsBut_clear {s t : State} {pa n : Nat} {l : List (Nat × Nat)}
    (h : t.mem = Memory.clear s.mem pa n) (hl : (pa, n) ∈ l) : s.keepsBut t l := fun a ha => by
  have hOut := ha _ hl
  rw [Memory.byte, h, Memory.byteOr_clear, if_neg (by simp only at hOut; omega)]
  rfl

theorem State.keepsBut_copy {s t : State} {src dst n : Nat} {l : List (Nat × Nat)}
    (h : t.mem = Memory.copy s.mem src dst n) (hl : (dst, n) ∈ l) : s.keepsBut t l := fun a ha => by
  have hOut := ha _ hl
  rw [Memory.byte, h, Memory.byteOr_copy, if_neg (by simp only at hOut; omega)]
  rfl

theorem State.holds_store {s t : State} {pa : Nat} {bs : List Byte} (h : t.mem = Memory.store 0 s.mem pa bs) : t.holds pa bs :=
  fun i hi => by
    rw [Memory.byte, h, Memory.byteOr_store_same _ _ _ _ hi, List.getD_eq_getElem?_getD, List.getElem?_eq_getElem hi]
    rfl

/-- What memory holds outside some ranges stays. -/
theorem State.holds_of_keepsBut {s t : State} {l : List (Nat × Nat)} {pa : Nat} {bs : List Byte} (h : s.holds pa bs)
    (hKeeps : s.keepsBut t l) (hApart : ∀ r ∈ l, pa + bs.length ≤ r.1 ∨ r.1 + r.2 ≤ pa) : t.holds pa bs := fun i hi => by
  rw [hKeeps _ fun r hr => by have := hApart r hr; omega]
  exact h i hi

/-! ## Stores -/

/-- Only memory, check bits and the armed injection have changed, and memory is `m`. -/
def State.MemTo (s : State) (m : List Host.Cell) (t : State) : Prop :=
  s.SameBut [.mem, .flips, .faults] t ∧ t.mem = m ∧ t.faults.seq = s.faults.seq

theorem freshCheck_does (pa n : Nat) (s : State) : (freshCheck pa n).Does s fun _ t => s.MemTo s.mem t := by
  have hWrites : (freshCheck pa n).Writes [.flips, .faults] := writes_freshCheck pa n (by decide) (by decide)
  have hSeq : (freshCheck pa n).Does s fun _ t => t.faults.seq = s.faults.seq := by
    refine Act.Does.get_bind (Act.Does.bind (Q := fun _ t => t.faults = s.faults) ?_ fun _ t ht => ?_)
    · exact Act.Frames.loop (g := State.faults) (fun x _ => Act.Frames.ite (Act.Frames.bind (Act.Frames.make fun _ => rfl)
        fun _ => Act.Frames.pure _) (Act.Frames.pure _)) _ _ s
    · split
      · exact Act.Does.ite (fun _ => Act.Does.make_bind (Act.Does.make rfl)) fun _ => Act.Does.pure (by rw [ht])
      · exact Act.Does.pure (by rw [ht])
  exact (hWrites.and hSeq).mono fun _ t ht =>
    ⟨ht.1.mono (by simp), ht.1 .mem (by decide), ht.2⟩

theorem State.MemTo.trans {s t u : State} {m m' : List Host.Cell} (h : s.MemTo m t) (h' : t.MemTo m' u) : s.MemTo m' u :=
  ⟨h.1.trans h'.1, h'.2.1, h'.2.2.trans h.2.2⟩

theorem memTo_upd {s : State} {u : Upd} (h : u.fields = [.mem]) (hFaults : (s.upd u).faults = s.faults) :
    s.MemTo (s.upd u).mem (s.upd u) :=
  ⟨fun f hf => s.fld_upd u f (Upd.writes_eq_false_of_not_mem (by rw [h]; simp_all)), rfl, by rw [hFaults]⟩

theorem writePhys_does (pa : Nat) (bs : List Byte) (s : State) :
    (writePhys pa bs).Does s fun _ t => s.MemTo (Memory.store 0 s.mem pa bs) t :=
  Act.Does.make_bind ((freshCheck_does _ _ _).mono fun _ _ ht => (memTo_upd rfl rfl).trans ht)

theorem zeroPhys_does (pa n : Nat) (s : State) : (zeroPhys pa n).Does s fun _ t => s.MemTo (Memory.clear s.mem pa n) t :=
  Act.Does.make_bind ((freshCheck_does _ _ _).mono fun _ _ ht => (memTo_upd rfl rfl).trans ht)

theorem copyPhys_does (src dst n : Nat) (s : State) :
    (copyPhys src dst n).Does s fun _ t => s.MemTo (Memory.copy s.mem src dst n) t := by
  refine Act.Does.get_bind (Act.Does.make_bind ((freshCheck_does dst n _).bind fun _ t ht => ?_))
  have hFlips := writes_forIn (l := [.flips]) (f := fun (x : Nat × BitVec 72) _ =>
    (if src ≤ x.1 ∧ x.1 < src + n then do
      Act.make (.flip (x.1 - src + dst) x.2)
      pure (ForInStep.yield PUnit.unit)
    else pure (ForInStep.yield PUnit.unit) : Act (ForInStep PUnit)))
    (fun x _ => writes_ite (writes_make_bind (by simp) (by simp)) (by simp)) s.flips .unit
  refine (hFlips.does t).bind fun _ u hu => Act.Does.pure ?_
  have hSame : t.MemTo t.mem u := ⟨hu.mono (by simp), hu .mem (by decide), congrArg FaultLog.seq (hu .faults (by decide))⟩
  have hCopied : s.MemTo (Memory.copy s.mem src dst n) t := (memTo_upd rfl rfl).trans ht
  exact ⟨hCopied.1.trans hSame.1, hSame.2.1.trans hCopied.2.1, hSame.2.2.trans hCopied.2.2⟩

theorem State.MemTo.keepsBut_store {s t : State} {pa : Nat} {bs : List Byte} (h : s.MemTo (Memory.store 0 s.mem pa bs) t) :
    s.keepsBut t [(pa, bs.length)] := State.keepsBut_store h.2.1 List.mem_cons_self

theorem State.MemTo.reflex {s t : State} {m : List Host.Cell} (h : s.MemTo m t) : t.reflex = s.reflex := h.1 .reflex (by decide)

theorem State.MemTo.regs {s t : State} {m : List Host.Cell} (h : s.MemTo m t) : t.regs = s.regs := h.1 .regs (by decide)

end Sys2Proof.Machine

/-!
PROOF. The rebuild of a triad (R265, R266).
-/
namespace Sys2Proof.Machine

/-! ## Fields of registers after a write -/

section
variable {s : State} {r r' : Reg} {i i' hi lo hi' lo' : Nat}

theorem State.rf_setField_same (v : Nat) (h : hi < 32) :
    (s.upd (.reg (r.off i 0) (setField (s.rg r i) hi lo v))).rf r i hi lo = v % 2 ^ (hi + 1 - lo) := by
  rw [State.rf, State.rg_upd_reg, field_setField_same _ _ h]

theorem State.rf_setField_other (v : Nat) (h : hi < lo' ∨ hi' < lo) :
    (s.upd (.reg (r.off i 0) (setField (s.rg r i) hi lo v))).rf r i hi' lo' = s.rf r i hi' lo' := by
  rw [State.rf, State.rg_upd_reg, field_setField_other _ _ h]
  rfl

theorem State.rf_upd_reg_other (w : Word) {o : Nat} (h : r'.off i' 0 ≠ o) :
    (s.upd (.reg o w)).rf r' i' hi' lo' = s.rf r' i' hi' lo' := by
  rw [State.rf, State.rg_upd_reg_other _ _ _ _ _ _ h]
  rfl

/-- What reads a register the record of a fault does not write. -/
theorem State.Recorded.rg {t : State} (h : s.Recorded t) (ho : r.off i 0 ∉ recordRegs) : t.rg r i = s.rg r i :=
  State.rg_eq_of_find (h.2.2 _ ho)

theorem State.Recorded.rf {t : State} (h : s.Recorded t) (ho : r.off i 0 ∉ recordRegs) : t.rf r i hi lo = s.rf r i hi lo := by
  rw [State.rf, h.rg ho]
  rfl

theorem State.Recorded.seq {t : State} (h : s.Recorded t) : t.faults.seq = (s.faults.seq + 1) % 2 ^ 32 := h.2.1

theorem State.Recorded.reflex {t : State} (h : s.Recorded t) : t.reflex = s.reflex := h.1 .reflex (by decide)

theorem State.Recorded.mem {t : State} (h : s.Recorded t) : t.mem = s.mem := h.1 .mem (by decide)

end

/-! ## Triads and roles -/

variable {s : State} {t x : Nat}

/-- The device with triad `t` replaced. -/
def State.triadSet (s : State) (t : Nat) (r : Triad) : State :=
  s.upd (.reflex { s.reflex with triads := s.reflex.triads.put t r })

@[simp] theorem triad_triadSet (s : State) (t : Nat) (r : Triad) : (s.triadSet t r).triad t = r := by
  simp [State.triad, State.triadSet]

theorem modTriad_does {f : Triad → Triad} {Q : Unit → State → Prop} (h : Q () (s.triadSet t (f (s.triad t)))) :
    (Act.modTriad t f).Does s Q := Act.Does.get_bind (Act.Does.make h)

@[simp] theorem triad_upd_reg (o : Nat) (w : Word) (t : Nat) : (s.upd (.reg o w)).triad t = s.triad t := rfl

@[simp] theorem role_triadSet (r : Triad) (y : Nat) : (s.triadSet t r).role y = s.role y := rfl

/-- The device once slice `x` has a role. -/
def State.roleSet (s : State) (x role : Nat) : State :=
  s.upd (.reg (Reg.off .refxSlice 0 0) (setField (s.rg .refxSlice 0) (2 * x + 1) (2 * x) role))

theorem role_roleSet_same (hx : x < 8) {role : Nat} (hRole : role < 4) : (s.roleSet x role).role x = role := by
  rw [State.role, State.roleSet, State.rf_setField_same _ (by omega),
    show 2 * x + 1 + 1 - 2 * x = 2 by omega]
  exact Nat.mod_eq_of_lt hRole

theorem role_roleSet_other {y : Nat} (h : y ≠ x) (role : Nat) : (s.roleSet x role).role y = s.role y := by
  rw [State.role, State.roleSet, State.rf_setField_other _ (by omega)]
  rfl

theorem rg_roleSet (role : Nat) {r : Reg} {i : Nat} (h : r.off i 0 ≠ Reg.off .refxSlice 0 0) : (s.roleSet x role).rg r i = s.rg r i :=
  State.rg_upd_reg_other _ _ _ _ _ _ h

/-! ## The stages -/

theorem spareDomainReady_does (u : Fin 2) (hStage : (s.triad u.val).rebuild = some (.wake, x)) :
    s.does (.spareDomainReady u) fun v => v = { s with regs := v.regs, reflex := v.reflex } ∧
      v.bitOf3 .pwrDom (42 + x) = true ∧ v.triad u.val = { s.triad u.val with rebuild := some (.selfTest, x) } := by
  refine State.does_of rfl (Act.Does.get_bind ?_)
  rw [hStage]
  refine Act.Does.regField_bind (modTriad_does ⟨rfl, ?_, by simp⟩)
  have hBit : (42 + x) % 32 < 32 := Nat.mod_lt _ (by decide)
  show flag ((s.upd (.reg (Reg.off .pwrDom ((42 + x) / 32) 0) _)).rg .pwrDom ((42 + x) / 32)) _ = true
  rw [State.rg_upd_reg, flag_setField_same _ _ hBit]
  rfl

theorem firstCopyComplete_does (u : Fin 2) (hStage : (s.triad u.val).rebuild = some (.copy, x)) :
    s.does (.firstCopyComplete u) fun v => v = { s with reflex := v.reflex } ∧
      v.triad u.val = { s.triad u.val with rebuild := some (.quiet, x) } := by
  refine State.does_of rfl (Act.Does.get_bind ?_)
  rw [hStage]
  exact modTriad_does ⟨rfl, by simp⟩

/-- The spare takes a copy of the first member's SRAM. -/
theorem selfTestPass_does (u : Fin 2) (hStage : (s.triad u.val).rebuild = some (.selfTest, x)) :
    s.does (.selfTestComplete u true) fun v => v.triad u.val = { s.triad u.val with rebuild := some (.copy, x) } ∧
      s.keepsBut v [(slicePa x 0, 0x20_0000)] ∧ (∀ i, i < 0x20_0000 →
        Memory.byte v.mem (slicePa x i) = Memory.byte s.mem (slicePa (s.firstMember u.val) i)) ∧ v.regs = s.regs := by
  refine State.does_of rfl (Act.Does.get_bind ?_)
  rw [hStage]
  refine Act.Does.ite (fun _ => ?_) fun h => absurd rfl h
  refine (copyPhys_does _ _ _ s).bind fun _ v hv => modTriad_does ⟨?_, State.keepsBut_copy hv.2.1 List.mem_cons_self, ?_, hv.regs⟩
  · rw [triad_triadSet, State.triad, hv.reflex]
    rfl
  · intro i hi
    have hTo : slicePa x i = slicePa x 0 + i := by simp only [slicePa]; omega
    show Memory.byte v.mem _ = _
    rw [Memory.byte, hv.2.1, Memory.byteOr_copy, if_pos (by omega)]
    exact congrArg (Memory.byteOr 0 s.mem) (by simp only [slicePa]; omega)

/-- A rebuild that starts leaves a slice that is no spare. -/
theorem startRebuild_does (hRole : s.role x ≠ 0) (hNone : (s.triad t).rebuild = none) :
    (startRebuild t).Does s fun _ u => s.SameBut [.regs, .reflex] u ∧ u.role x = s.role x ∧
      u.rg .faultRetUnits = s.rg .faultRetUnits ∧ (u.triad t).state = (s.triad t).state ∧
      ∀ k, (u.triad t).rebuild ≠ some (k, x) := by
  refine Act.Does.get_bind ?_
  split
  · next y hy =>
    have hOther : x ≠ y := fun e => hRole (e ▸ by simpa using List.find?_some hy)
    refine Act.Does.regField_bind (modTriad_does ⟨?_, role_roleSet_other hOther 3, ?_, by simp, fun k => ?_⟩)
    · intro f hf
      cases f with
      | regs | reflex => exact absurd hf (by decide)
      | _ => rfl
    · exact rg_roleSet (x := y) 3 (by simp [Reg.off, Reg.row])
    · simp only [triad_triadSet, ne_eq, Option.some.injEq, Prod.mk.injEq, not_and]
      exact fun _ => hOther.symm
  · exact Act.Does.pure ⟨.refl _ _, rfl, rfl, rfl, fun k => by simp [hNone]⟩

/-- A spare that fails its self-test is retired. -/
theorem selfTestFail_does (u : Fin 2) (hStage : (s.triad u.val).rebuild = some (.selfTest, x)) (hx : x < 8)
    (hRole : s.role x = 3) :
    s.does (.selfTestComplete u false) fun v => v.role x = 2 ∧ flag (v.rg .faultRetUnits) (8 + x) = true ∧
      v.faults.seq = (s.faults.seq + 1) % 2 ^ 32 ∧ v.mem = s.mem ∧ (v.triad u.val).state = (s.triad u.val).state ∧
      ∀ k, (v.triad u.val).rebuild ≠ some (k, x) := by
  have hOff : Reg.off .refxSlice 0 0 ≠ Reg.off .faultRetUnits 0 0 := by simp [Reg.off, Reg.row]
  have hRetire : (retireSlice x).Does s fun _ v => v.role x = 2 ∧ flag (v.rg .faultRetUnits) (8 + x) = true ∧
      v.faults.seq = (s.faults.seq + 1) % 2 ^ 32 ∧ v.mem = s.mem ∧ v.reflex = s.reflex := by
    refine Act.Does.get_bind (Act.Does.ite (fun _ => ?_) fun h => absurd (by rw [hRole]; decide) h)
    refine Act.Does.regField_bind (Act.Does.regField_bind ((fault_gives _ _).does.bind fun _ v hv => Act.Does.pure ?_))
    refine ⟨?_, ?_, hv.2.1, hv.mem, hv.reflex⟩
    · rw [State.role, hv.rf (by simp [recordRegs, Reg.off, Reg.row]), State.rf_upd_reg_other _ hOff]
      exact role_roleSet_same hx (by decide)
    · rw [hv.rg (by simp [recordRegs, Reg.off, Reg.row]), State.rg_upd_reg, flag_setField_same _ _ (by omega)]
      rfl
  refine State.does_of rfl (Act.Does.get_bind ?_)
  rw [hStage]
  refine Act.Does.ite (fun h => absurd h (by decide)) fun _ => hRetire.bind fun _ v hv => ?_
  obtain ⟨hGone, hFlag, hSeq, hMem, hReflex⟩ := hv
  refine Act.Does.bind (Q := fun _ w => w = v.triadSet u.val { v.triad u.val with rebuild := none }) (modTriad_does rfl)
    fun _ w hw => ?_
  subst hw
  refine (startRebuild_does (x := x) (by rw [role_triadSet, hGone]; decide) (by simp)).mono fun _ w hw => ?_
  obtain ⟨hSame, hRole', hUnits, hState, hRebuild⟩ := hw
  have hTriad : v.triad u.val = s.triad u.val := by rw [State.triad, hReflex]; rfl
  refine ⟨hRole'.trans hGone, hUnits ▸ hFlag, ?_, (hSame .mem (by decide)).trans hMem, ?_, hRebuild⟩
  · exact (congrArg FaultLog.seq (hSame .faults (by decide))).trans hSeq
  · rw [hState, triad_triadSet, hTriad]

/-! ## The join -/

theorem Reg.off_refxTriad_ne_refxSlice (ht : t < 2) : Reg.off .refxTriad t 0 ≠ Reg.off .refxSlice 0 0 := by
  simp [Reg.off, Reg.row]
  omega

theorem Reg.off_refxTriad_ne_refxRebuild : Reg.off .refxTriad t 0 ≠ Reg.off .refxRebuild t 0 := by simp [Reg.off, Reg.row]

theorem Reg.off_refxSlice_ne_refxRebuild : Reg.off .refxSlice 0 0 ≠ Reg.off .refxRebuild t 0 := by
  simp [Reg.off, Reg.row]
  omega

/-- Slice `x` is a member at position `gap` of triad `t`; roles and positions are else those of `s`. -/
def State.Joined (s : State) (t gap x : Nat) (u : State) : Prop :=
  (∀ y, u.role y = if y = x then 1 else s.role y) ∧ ∀ p, u.position t p = if p = gap then x else s.position t p

theorem joined_roleSet {gap : Nat} (ht : t < 2) (hx : x < 8) (hGap : gap < 3) :
    s.Joined t gap x
      ((s.upd (.reg (Reg.off .refxTriad t 0) (setField (s.rg .refxTriad t) (3 * gap + 2) (3 * gap) x))).roleSet x 1) := by
  refine ⟨fun y => ?_, fun p => ?_⟩
  · by_cases hy : y = x
    · rw [hy, if_pos rfl, role_roleSet_same hx (by decide)]
    · rw [if_neg hy, role_roleSet_other hy, State.role, State.rf_upd_reg_other _ (Reg.off_refxTriad_ne_refxSlice ht).symm]
      rfl
  · rw [State.position, State.roleSet, State.rf_upd_reg_other _ (Reg.off_refxTriad_ne_refxSlice ht)]
    by_cases hp : p = gap
    · rw [hp, if_pos rfl, State.rf_setField_same _ (by omega), show 3 * gap + 2 + 1 - 3 * gap = 3 by omega]
      exact Nat.mod_eq_of_lt hx
    · rw [if_neg hp, State.rf_setField_other _ (by omega)]
      rfl

theorem State.Joined.rebuildReg {gap : Nat} {u : State} (h : s.Joined t gap x u) (w : Word) :
    s.Joined t gap x (u.upd (.reg (Reg.off .refxRebuild t 0) w)) := by
  refine ⟨fun y => ?_, fun p => ?_⟩
  · rw [State.role, State.rf_upd_reg_other _ Reg.off_refxSlice_ne_refxRebuild]
    exact h.1 y
  · rw [State.position, State.rf_upd_reg_other _ Reg.off_refxTriad_ne_refxRebuild]
    exact h.2 p

theorem State.Joined.recorded {gap : Nat} {u v : State} (ht : t < 2) (h : s.Joined t gap x u) (hv : u.Recorded v) : s.Joined t gap x v := by
  refine ⟨fun y => ?_, fun p => ?_⟩
  · rw [State.role, hv.rf (by simp [recordRegs, Reg.off, Reg.row])]
    exact h.1 y
  · have hOff : Reg.off .refxTriad t 0 ∉ recordRegs := by
      simp [recordRegs, Reg.off, Reg.row]
      omega
    rw [State.position, hv.rf hOff]
    exact h.2 p

theorem State.Joined.triadSet {gap n : Nat} {u : State} (h : s.Joined t gap x u) (r : Triad) : s.Joined t gap x (u.triadSet n r) :=
  ⟨h.1, h.2⟩

theorem State.Joined.of_regs {gap : Nat} {r u : State} (h : s.Joined t gap x u) (hRegs : s.regs = r.regs) :
    r.Joined t gap x u := by
  have hRf (q : Reg) (i hi lo : Nat) : s.rf q i hi lo = r.rf q i hi lo := by simp only [State.rf, State.rg, hRegs]
  refine ⟨fun y => ?_, fun p => ?_⟩
  · rw [h.1, State.role, State.role, hRf]
  · rw [h.2, State.position, State.position, hRf]

/-- Every position of a triad whose spare has joined names a member. -/
theorem State.Joined.all_members {gap : Nat} {u : State} (h : s.Joined t gap x u)
    (hOthers : ∀ p, p < 3 → p ≠ gap → s.role (s.position t p) = 1) :
    ([0, 1, 2].find? fun p => u.role (u.position t p) ≠ 1) = none := by
  have hAll (p : Nat) (hp : p < 3) : u.role (u.position t p) = 1 := by
    rw [h.1, h.2]
    by_cases hg : p = gap
    · rw [if_pos hg, if_pos rfl]
    · rw [if_neg hg, hOthers p hp hg, ite_self]
  simp [List.find?, hAll]

theorem rebuildJoin_does (w : Fin 2) (hx : x < 8) (hStage : (s.triad w.val).rebuild = some (.quiet, x))
    (hQuiet : s.quietNow w.val = true) (hGap : (s.triad w.val).gap < 3)
    (hOthers : ∀ p, p < 3 → p ≠ (s.triad w.val).gap → s.role (s.position w.val p) = 1) :
    s.does (.rebuildJoin w) fun u => u.position w.val (s.triad w.val).gap = x ∧ u.role x = 1 ∧
      u.triad w.val = { s.triad w.val with state := 0, rebuild := none, fresh := true } ∧
      (∀ p, p < 3 → p ≠ (s.triad w.val).gap → u.position w.val p = s.position w.val p) ∧
      u.faults.seq = (s.faults.seq + 1) % 2 ^ 32 ∧
      s.keepsBut u [(slicePa x 0x5_0000, 0x1_0000), (slicePa x 0x7_0000, 0x1_0000)] := by
  refine State.does_of rfl (Act.Does.get_bind ?_)
  dsimp only
  rw [hStage]
  refine Act.Does.ite (fun _ => ?_) fun h => absurd hQuiet h
  refine (copyPhys_does _ _ _ s).bind fun _ c1 h1 => (copyPhys_does _ _ _ c1).bind fun _ c2 h2 => ?_
  have hKept : s.keepsBut c2 [(slicePa x 0x5_0000, 0x1_0000), (slicePa x 0x7_0000, 0x1_0000)] :=
    State.keepsBut_trans (State.keepsBut_copy h1.2.1 List.mem_cons_self)
      (State.keepsBut_copy h2.2.1 (List.mem_cons_of_mem _ List.mem_cons_self))
  have hJoin := ((joined_roleSet w.isLt hx hGap).of_regs (h2.regs.trans h1.regs) : s.Joined w.val _ x _)
  refine Act.Does.regField_bind (Act.Does.regField_bind (Act.Does.regField_bind (Act.Does.regField_bind ?_)))
  refine (fault_gives _ _).does.bind fun _ v hv => ?_
  replace hJoin := ((hJoin.rebuildReg _).rebuildReg _).recorded w.isLt hv
  have hReflex : v.reflex = s.reflex := hv.reflex.trans (h2.reflex.trans h1.reflex)
  refine Act.Does.bind (modTriad_does rfl) fun _ y (hy : y = v.triadSet w.val _) => Act.Does.get_bind ?_
  subst hy
  rw [(hJoin.triadSet _).all_members hOthers]
  refine Act.Does.pure ⟨(hJoin.2 _).trans (if_pos rfl), (hJoin.1 x).trans (if_pos rfl), ?_, fun p _ hp =>
    (hJoin.2 p).trans (if_neg hp), hv.seq.trans ?_, ?_⟩
  · rw [triad_triadSet, State.triad, hReflex]
    rfl
  · exact congrArg (fun n => (n + 1) % 2 ^ 32) (h2.2.2.trans h1.2.2)
  · intro a ha
    rw [show Memory.byte (v.triadSet w.val _).mem a = Memory.byte v.mem a from rfl, hv.mem]
    exact hKept a ha

/-- Settles O46: each stage of the rebuild by what its copies, register writes and records leave. -/
theorem triadsAreRebuilt : Obligations.TriadsAreRebuilt := by
  refine fun s t x hx => ⟨fun hStage => spareDomainReady_does t hStage, fun hStage => ⟨fun _ _ => selfTestPass_does t hStage,
    fun hRole => selfTestFail_does t hStage hx hRole⟩, fun hStage => firstCopyComplete_does t hStage, ?_⟩
  exact fun hStage hQuiet hGap hOthers => rebuildJoin_does t hx hStage hQuiet hGap fun p hp hg => (hOthers p hp hg).1

end Sys2Proof.Machine

/-!
PROOF. Writes to slice SRAM, and the triad that REINIT forms (R250, R251, R264).
-/
namespace Sys2Proof.Machine

variable {s : State} {t x : Nat}

/-! ## A triad formed of the members it has -/

/-- The device once position `p` of triad `t` names slice `x`. -/
def State.positionSet (s : State) (t p x : Nat) : State :=
  s.upd (.reg (Reg.off .refxTriad t 0) (setField (s.rg .refxTriad t) (3 * p + 2) (3 * p) x))

theorem position_roleSet (ht : t < 2) (y role p : Nat) : (s.roleSet y role).position t p = s.position t p := by
  rw [State.position, State.roleSet, State.rf_upd_reg_other _ (Reg.off_refxTriad_ne_refxSlice ht)]
  rfl

theorem role_positionSet (ht : t < 2) (p y z : Nat) : (s.positionSet t p y).role z = s.role z := by
  rw [State.role, State.positionSet, State.rf_upd_reg_other _ (Reg.off_refxTriad_ne_refxSlice ht).symm]
  rfl

theorem position_positionSet_same {p y : Nat} (hp : p < 3) (hy : y < 8) : (s.positionSet t p y).position t p = y := by
  rw [State.position, State.positionSet, State.rf_setField_same _ (by omega), show 3 * p + 2 + 1 - 3 * p = 3 by omega]
  exact Nat.mod_eq_of_lt hy

theorem position_positionSet_other {p q : Nat} (y : Nat) (hq : q ≠ p) : (s.positionSet t p y).position t q = s.position t q := by
  rw [State.position, State.positionSet, State.rf_setField_other _ (by omega)]
  rfl

@[simp] theorem position_triadSet (r : Triad) (n m p : Nat) : (s.triadSet n r).position m p = s.position m p := rfl

theorem writes_abandonRebuild (t : Nat) : (abandonRebuild t).Writes [.regs, .reflex] := by
  refine writes_get_bind fun s => ?_
  have hMod : (Act.modTriad t fun r => { r with rebuild := none }).Writes [.regs, .reflex] :=
    writes_get_bind fun u => by simp
  split
  · exact writes_ite (writes_bind (by simp [setRole]) fun _ => hMod) hMod
  · exact writes_bind writes_nothing fun _ => hMod

/-- A rebuild given up changes no role but that of the slice that was rebuilt. -/
theorem abandonRebuild_does (t : Nat) : (abandonRebuild t).Does s fun _ u =>
    (∀ y, s.role y ≠ 3 → u.role y = s.role y) ∧ ∀ t', t' < 2 → ∀ p, u.position t' p = s.position t' p := by
  refine Act.Does.get_bind ?_
  split
  · next y hy =>
    refine Act.Does.ite (fun hRole => Act.Does.regField_bind (modTriad_does ⟨fun z hz => ?_, fun t' ht' p => ?_⟩)) fun _ =>
      modTriad_does ⟨fun _ _ => rfl, fun _ _ _ => rfl⟩
    · exact role_roleSet_other (fun e => hz (by rw [e, hRole])) 0
    · exact position_roleSet ht' y 0 p
  · exact Act.Does.pure_bind (modTriad_does ⟨fun _ _ => rfl, fun _ _ _ => rfl⟩)

section
variable {f : Unit → Act Unit} {R : Unit → State → Prop}

theorem Act.Does.setRole_bind {y role : Nat} (h : (f ()).Does (s.roleSet y role) R) : (setRole y role >>= f).Does s R :=
  fun k => h k

theorem Act.Does.position_bind (p : Nat) {y : Nat} (h : (f ()).Does (s.positionSet t p y) R) :
    (Act.regField .refxTriad t (3 * p + 2) (3 * p) y >>= f).Does s R := fun k => h k

end

/-- The triad has three members, `a`, `b` and `c` by position, which the other triad does not name. -/
def State.Full (s : State) (t a b c : Nat) : Prop :=
  (s.position t 0 = a ∧ s.position t 1 = b ∧ s.position t 2 = c) ∧ (s.role a = 1 ∧ s.role b = 1 ∧ s.role c = 1) ∧
  (a < 8 ∧ b < 8 ∧ c < 8) ∧ a ≠ b ∧ a ≠ c ∧ b ≠ c ∧ ∀ p, p < 3 → s.position (1 - t) p ∉ [a, b, c]

/-- The device once slices `a`, `b` and `c` have taken the positions of triad `t` anew. -/
def State.seated (s : State) (t a b c : Nat) : State :=
  (((((((((s.roleSet a 0).roleSet b 0).roleSet c 0).roleSet a 1).positionSet t 0 a).roleSet b 1).positionSet t 1 b).roleSet
    c 1).positionSet t 2 c)

theorem position_seated {a b c : Nat} (ht : t < 2) (ha : a < 8) (hb : b < 8) (hc : c < 8) :
    (s.seated t a b c).position t 0 = a ∧ (s.seated t a b c).position t 1 = b ∧ (s.seated t a b c).position t 2 = c := by
  simp only [State.seated, position_roleSet ht, position_positionSet_other _ (by decide : (0 : Nat) ≠ 1),
    position_positionSet_other _ (by decide : (0 : Nat) ≠ 2), position_positionSet_other _ (by decide : (1 : Nat) ≠ 2),
    position_positionSet_same (by decide : 0 < 3) ha, position_positionSet_same (by decide : 1 < 3) hb,
    position_positionSet_same (by decide : 2 < 3) hc, and_self]

theorem role_seated {a b c : Nat} (ht : t < 2) (ha : a < 8) (hb : b < 8) (hc : c < 8) (hab : a ≠ b) (hac : a ≠ c)
    (hbc : b ≠ c) : (s.seated t a b c).role a = 1 ∧ (s.seated t a b c).role b = 1 ∧ (s.seated t a b c).role c = 1 := by
  have hOne : 1 < 4 := by decide
  simp only [State.seated, role_positionSet ht, role_roleSet_other hac, role_roleSet_other hab, role_roleSet_other hbc,
    role_roleSet_same ha hOne, role_roleSet_same hb hOne, role_roleSet_same hc hOne, and_self]

theorem writes_formTriad (t : Nat) (want : List Nat) : (formTriad t want).Writes [.regs, .reflex] := by
  refine writes_bind (writes_abandonRebuild t) fun _ => writes_get_bind fun u => ?_
  refine writes_bind (writes_forIn (fun y _ => writes_bind (by simp [setRole]) fun _ => writes_pure _) _ _) fun _ =>
    writes_bind (writes_forIn (fun p _ => ?_) _ _) fun _ => writes_get_bind fun v => by simp
  split
  · exact writes_bind (by simp [setRole]) fun _ => writes_bind (by simp) fun _ => writes_pure _
  · exact writes_bind (by simp) fun _ => writes_pure _

theorem formTriad_does {a b c : Nat} (ht : t < 2) (h : s.Full t a b c) : (formTriad t [a, b, c]).Does s fun _ u =>
    (u.position t 0 = a ∧ u.position t 1 = b ∧ u.position t 2 = c) ∧ (u.role a = 1 ∧ u.role b = 1 ∧ u.role c = 1) ∧
      (u.triad t).state = 0 := by
  obtain ⟨⟨h0, h1, h2⟩, ⟨hra, hrb, hrc⟩, ⟨ha, hb, hc⟩, hab, hac, hbc, hOther⟩ := h
  refine (abandonRebuild_does t).bind fun _ v hv => Act.Does.get_bind ?_
  obtain ⟨hRole, hPos⟩ := hv
  have hMembers : v.members t = [a, b, c] := by
    simp [State.members, hPos t ht, h0, h1, h2, hRole, hra, hrb, hrc]
  have hOthers (p : Nat) (hp : p < 3) : v.position (1 - t) p ∉ [a, b, c] := by
    rw [hPos (1 - t) (by omega)]
    exact hOther p hp
  have hv0 := hOthers 0 (by decide)
  have hv1 := hOthers 1 (by decide)
  have hv2 := hOthers 2 (by decide)
  simp only [List.mem_cons, List.not_mem_nil, or_false, not_or] at hv0 hv1 hv2
  simp [hMembers, hRole, hra, hrb, hrc, ha, hb, hc, hab, hac, hbc, hab.symm, hac.symm, hbc.symm, Ne.symm hv0.1,
    Ne.symm hv0.2.1, Ne.symm hv0.2.2, Ne.symm hv1.1, Ne.symm hv1.2.1, Ne.symm hv1.2.2, Ne.symm hv2.1, Ne.symm hv2.2.1,
    Ne.symm hv2.2.2, List.range_succ]
  have hSeat : (Act.modTriad t fun _ => {}).Does (v.seated t a b c) fun _ u =>
      (u.position t 0 = a ∧ u.position t 1 = b ∧ u.position t 2 = c) ∧ (u.role a = 1 ∧ u.role b = 1 ∧ u.role c = 1) ∧
        (u.triad t).state = 0 := by
    refine modTriad_does ?_
    simp only [position_triadSet, role_triadSet, triad_triadSet, and_true]
    exact ⟨position_seated ht ha hb hc, role_seated ht ha hb hc hab hac hbc⟩
  exact Act.Does.setRole_bind (Act.Does.setRole_bind (Act.Does.setRole_bind (Act.Does.setRole_bind
    (Act.Does.position_bind 0 (Act.Does.setRole_bind (Act.Does.position_bind 1 (Act.Does.setRole_bind
      (Act.Does.position_bind 2 hSeat))))))))

/-! ## Slices written alike -/

/-- Only memory and check bits have changed, and no record was made. -/
def State.OnlyMem (s t : State) : Prop := s.SameBut [.mem, .flips, .faults] t ∧ t.faults.seq = s.faults.seq

theorem State.OnlyMem.trans {s t u : State} (h : s.OnlyMem t) (h' : t.OnlyMem u) : s.OnlyMem u :=
  ⟨h.1.trans h'.1, h'.2.trans h.2⟩

theorem State.MemTo.onlyMem {s t : State} {m : List Host.Cell} (h : s.MemTo m t) : s.OnlyMem t := ⟨h.1, h.2.2⟩

/-- The `n` bytes from `off` on of every slice of `ms` are those of `val`, and no other byte of memory has changed. -/
def State.Filled (s : State) (off n : Nat) (val : Nat → Byte) (ms : List Nat) (t : State) : Prop :=
  s.OnlyMem t ∧ (∀ m ∈ ms, ∀ i, i < n → Memory.byte t.mem (slicePa m (off + i)) = val i) ∧
    s.keepsBut t (ms.map fun m => (slicePa m off, n))

/-- A loop that fills each slice fills them all. -/
theorem filled_forIn {f : Nat → Act Unit} {off n : Nat} {val : Nat → Byte} (hn : off + n ≤ 0x20_0000)
    (hf : ∀ m u, (f m).Does u fun _ v => u.Filled off n val [m] v) (ms : List Nat) (s : State) :
    (forIn ms PUnit.unit fun m _ => f m >>= fun _ => pure (ForInStep.yield PUnit.unit) : Act PUnit).Does s
      fun _ v => s.Filled off n val ms v := by
  induction ms generalizing s with
  | nil => exact Act.Does.pure ⟨⟨.refl _ _, rfl⟩, by simp, s.keepsBut_refl _⟩
  | cons m ms ih =>
    rw [List.forIn_cons]
    refine ((hf m s).bind fun _ u hu => Act.Does.pure (Q := fun r v => r = ForInStep.yield PUnit.unit ∧ s.Filled off n val [m] v)
      ⟨rfl, hu⟩).bind fun r u hu => ?_
    obtain ⟨rfl, hOnly, hHead, hKeep⟩ := hu
    refine (ih u).mono fun _ v hv => ?_
    obtain ⟨hOnly', hTail, hKeep'⟩ := hv
    refine ⟨hOnly.trans hOnly', fun k hk i hi => ?_, State.keepsBut_trans (State.keepsBut_mono hKeep (by simp))
      (State.keepsBut_mono hKeep' fun r hr => List.mem_cons_of_mem _ hr)⟩
    by_cases hIn : k ∈ ms
    · exact hTail k hIn i hi
    · obtain rfl : k = m := by simpa [hIn] using hk
      refine (hKeep' _ fun r hr => ?_).trans (hHead k List.mem_cons_self i hi)
      obtain ⟨j, hj, rfl⟩ := List.mem_map.mp hr
      have hne : k ≠ j := fun e => hIn (e ▸ hj)
      simp only [slicePa]
      omega

theorem filled_writePhys {m off : Nat} (bs : List Byte) (u : State) :
    (writePhys (slicePa m off) bs).Does u fun _ v => u.Filled off bs.length (fun i => bs.getD i 0) [m] v := by
  refine (writePhys_does _ _ u).mono fun _ v hv => ⟨hv.onlyMem, fun k hk i hi => ?_, State.keepsBut_store hv.2.1 (by simp)⟩
  obtain rfl : k = m := by simpa using hk
  rw [show slicePa k (off + i) = slicePa k off + i by simp only [slicePa]; omega]
  exact State.holds_store hv.2.1 i hi

theorem filled_zeroPhys {m off n : Nat} (u : State) :
    (zeroPhys (slicePa m off) n).Does u fun _ v => u.Filled off n (fun _ => 0) [m] v := by
  refine (zeroPhys_does _ _ u).mono fun _ v hv => ⟨hv.onlyMem, fun k hk i hi => ?_, State.keepsBut_clear hv.2.1 (by simp)⟩
  obtain rfl : k = m := by simpa using hk
  rw [Memory.byte, hv.2.1, Memory.byteOr_clear, if_pos (by simp only [slicePa]; omega)]

/-- Zeros, then `bs` at their beginning. -/
theorem filled_load {m n : Nat} {bs : List Byte} (hbs : bs.length ≤ n) (u : State) : (do
      zeroPhys (slicePa m 0) n
      writePhys (slicePa m 0) bs : Act Unit).Does u fun _ v => u.Filled 0 n (fun i => bs.getD i 0) [m] v := by
  refine (filled_zeroPhys u).bind fun _ v hv => (writePhys_does _ _ v).mono fun _ w hw => ?_
  obtain ⟨hOnly, hZero, hKeep⟩ := hv
  refine ⟨hOnly.trans hw.onlyMem, fun k hk i hi => ?_, State.keepsBut_trans hKeep fun a ha => ?_⟩
  · by_cases hb : i < bs.length
    · obtain rfl : k = m := by simpa using hk
      rw [show slicePa k (0 + i) = slicePa k 0 + i by simp only [slicePa]; omega]
      exact State.holds_store hw.2.1 i hb
    · obtain rfl : k = m := by simpa using hk
      rw [hw.keepsBut_store _ (by simp only [slicePa, List.mem_singleton, forall_eq]; omega), hZero k hk i hi]
      exact (List.getD_eq_default _ _ (by omega)).symm
  · have hOut := ha (slicePa m 0, n) (by simp)
    exact hw.keepsBut_store a (by simp only [List.mem_singleton, forall_eq] at hOut ⊢; omega)

/-! ## Writes to slice SRAM (R251) -/

theorem sliceAccepts_fits {off n : Nat} (h : s.sliceAccepts t off n = true) : off + n ≤ 0x20_0000 := by
  unfold State.sliceAccepts at h
  split at h
  · next hArea =>
    simp only [Bool.and_eq_true, decide_eq_true_eq] at hArea
    omega
  · obtain ⟨l, hl, hAccept⟩ := List.any_eq_true.mp h
    have hl : l < 8 := List.mem_range.mp hl
    simp only [Bool.and_eq_true, decide_eq_true_eq] at hAccept
    have hHigh : b2n (!(s.leash (t * 8 + l)).liveHigh) ≤ 1 := by cases (s.leash (t * 8 + l)).liveHigh <;> decide
    have hEnd := hAccept.2
    simp only [trajTile] at hEnd
    omega

theorem regionAt_slicePa {off : Nat} (hx : x < 8) (hOff : off < 0x20_0000) : regionAt (slicePa x off) = some .slice := by
  have hLow : ¬slicePa x off < 0x2000_0000 := by simp only [slicePa, sliceBase]; omega
  have hWeir : ¬(0x8000_0000 ≤ slicePa x off ∧ slicePa x off < 0x8100_0000) := by simp only [slicePa, sliceBase]; omega
  have hSlice : 0xA000_0000 ≤ slicePa x off ∧ slicePa x off < 0xA100_0000 := by simp only [slicePa, sliceBase]; omega
  rw [regionAt, if_neg hLow, if_neg hWeir, if_pos hSlice]

theorem sliceWrite_ok {off : Nat} {bs : List Byte} (hx : x < 8) (hOff : off < 0x20_0000) (ht : s.triadOf x = some t)
    (hAccepts : s.sliceAccepts t off bs.length = true) : (sliceWrite (slicePa x off) bs).Does s fun code u =>
      code = Code.ok ∧ s.Filled off bs.length (fun i => bs.getD i 0) (s.members t ++ s.copying t) u := by
  have hSlice : (slicePa x off - sliceBase) / 0x20_0000 = x := by simp only [slicePa]; omega
  have hIn : (slicePa x off - sliceBase) % 0x20_0000 = off := by simp only [slicePa]; omega
  refine Act.Does.get_bind ?_
  simp only [hSlice, hIn, ht, hAccepts, Bool.not_true, Bool.false_eq_true, if_false]
  exact (filled_forIn (sliceAccepts_fits hAccepts) (fun m u => filled_writePhys bs u) _ s).bind fun _ u hu =>
    Act.Does.pure ⟨rfl, hu⟩

theorem sliceWrite_refused {off : Nat} {bs : List Byte} (hx : x < 8) (hOff : off < 0x20_0000)
    (h : s.triadOf x = none ∨ ∃ t, s.triadOf x = some t ∧ s.sliceAccepts t off bs.length = false) :
    (sliceWrite (slicePa x off) bs).Does s fun code u => code = Code.faultXlat ∧ u = s := by
  have hSlice : (slicePa x off - sliceBase) / 0x20_0000 = x := by simp only [slicePa]; omega
  have hIn : (slicePa x off - sliceBase) % 0x20_0000 = off := by simp only [slicePa]; omega
  refine Act.Does.get_bind ?_
  rcases h with hNone | ⟨t, ht, hNot⟩
  · simp only [hSlice, hNone]
    exact Act.Does.pure ⟨rfl, rfl⟩
  · simp only [hSlice, hIn, ht, hNot, Bool.not_false, if_true]
    exact Act.Does.pure ⟨rfl, rfl⟩

/-- A barge of more than one tile. -/
def manyTiles : SliceWriter → Bool
  | .barge tiles => decide (1 < tiles)
  | .steward | .kernel => false

theorem sliceSramWrite_ok {w : SliceWriter} {off : Nat} {bs : List Byte} (hx : x < 8) (hOff : off < 0x20_0000)
    (ht : s.triadOf x = some t) (hAccepts : s.sliceAccepts t off bs.length = true) (hOne : ∀ m, w = .barge m → m ≤ 1) :
    s.does (.sliceSramWrite w (slicePa x off) bs) fun u => (∀ m ∈ s.members t, u.holds (slicePa m off) bs) ∧
      s.keepsBut u ((s.members t ++ s.copying t).map fun m => (slicePa m off, bs.length)) ∧ u.regs = s.regs := by
  have hMany : manyTiles w = false := by
    cases w with
    | barge m => simpa [manyTiles] using hOne m rfl
    | steward | kernel => rfl
  refine State.does_of rfl (Act.Does.ite (fun hBad => ?_) fun _ => (sliceWrite_ok hx hOff ht hAccepts).bind fun code u hu => ?_)
  · refine absurd hBad ?_
    show ¬(manyTiles w || decide (regionAt (slicePa x off) ≠ some Region.slice)) = true
    simp [hMany, regionAt_slicePa hx hOff]
  · obtain ⟨rfl, hOnly, hFilled, hKeep⟩ := hu
    refine Act.Does.pure ⟨fun m hm i hi => ?_, hKeep, hOnly.1 .regs (by decide)⟩
    rw [show slicePa m off + i = slicePa m (off + i) by simp only [slicePa]; omega]
    exact hFilled m (List.mem_append_left _ hm) i hi

theorem sliceSramWrite_refused {w : SliceWriter} {off : Nat} {bs : List Byte} (hx : x < 8) (hOff : off < 0x20_0000)
    (h : s.triadOf x = none ∨ (∃ t, s.triadOf x = some t ∧ s.sliceAccepts t off bs.length = false) ∨
      ∃ m, w = .barge m ∧ 1 < m) :
    s.does (.sliceSramWrite w (slicePa x off) bs) fun u => u.mem = s.mem ∧ u.faults.seq = (s.faults.seq + 1) % 2 ^ 32 := by
  have hRecord (r : FaultRec) : (do let _ ← fault r : Act Unit).Does s fun _ u =>
      u.mem = s.mem ∧ u.faults.seq = (s.faults.seq + 1) % 2 ^ 32 :=
    (fault_gives _ _).does.bind fun _ v hv => Act.Does.pure ⟨hv.mem, hv.seq⟩
  refine State.does_of rfl (Act.Does.ite (fun _ => Act.Does.pure_bind (hRecord _)) fun hGood => ?_)
  have hOne : manyTiles w ≠ true := fun hMany => hGood (by
    show (manyTiles w || _) = true
    rw [hMany, Bool.true_or])
  have hNot : s.triadOf x = none ∨ ∃ t, s.triadOf x = some t ∧ s.sliceAccepts t off bs.length = false := by
    rcases h with hNone | hNot | ⟨m, rfl, hm⟩
    · exact .inl hNone
    · exact .inr hNot
    · exact absurd (decide_eq_true hm) hOne
  refine (sliceWrite_refused hx hOff hNot).bind fun code u hu => ?_
  obtain ⟨rfl, rfl⟩ := hu
  exact hRecord _

/-! ## Rails and rings -/

theorem sliceRailLow_does (y : Fin 8) (hRole : s.role y.val = 1) (hLow : s.reflex.low.contains y.val = false) :
    s.does (.sliceRailLow y) fun u => u = { s with reflex := { s.reflex with low := s.reflex.low ++ [y.val] } } := by
  refine State.does_of rfl (Act.Does.get_bind ?_)
  simp only [hRole, hLow, decide_true, Bool.not_false, Bool.and_self, if_true]
  exact Act.Does.make rfl

theorem reflexRingLinkFailure_again (r : Fin 2) (h : flag (s.rg .faultRetLink) (6 + r.val) = true) :
    s.does (.reflexRingLinkFailure r) fun u => u = s := by
  refine State.does_of rfl (Act.Does.get_bind (Act.Does.ite (fun hNot => ?_) fun _ => Act.Does.pure rfl))
  simp [h] at hNot

theorem reflexRingLinkFailure_first (r : Fin 2) (h : flag (s.rg .faultRetLink) (6 + r.val) = false) :
    s.does (.reflexRingLinkFailure r) fun u => flag (u.rg .faultRetLink) (6 + r.val) = true ∧
      u.faults.seq = (s.faults.seq + 1) % 2 ^ 32 ∧ u.mem = s.mem ∧ u.reflex = s.reflex := by
  refine State.does_of rfl (Act.Does.get_bind (Act.Does.ite (fun _ => ?_) fun hNot => absurd (by rw [h]; rfl) hNot))
  refine Act.Does.regField_bind ((fault_gives _ _).does.bind fun _ v hv => Act.Does.pure ⟨?_, hv.seq, hv.mem, hv.reflex⟩)
  rw [hv.rg (by simp [recordRegs, Reg.off, Reg.row]), State.rg_upd_reg, flag_setField_same _ _ (by omega)]
  rfl

/-! ## REINIT (R264) -/

/-- What a triad's forming leaves: memory, which leash code is loaded, and how many free values have been drawn. -/
def State.laneKept (s : State) : List Host.Cell × Nat × Nat := (s.mem, s.reflex.code, s.freeCount)

theorem keepsLane_modTriad (n : Nat) (f : Triad → Triad) : (Act.modTriad n f).Frames State.laneKept :=
  fun _ => modTriad_does rfl

theorem keepsLane_regField (r : Reg) (i hi lo v : Nat) : (Act.regField r i hi lo v).Frames State.laneKept :=
  Act.Frames.bind Act.Frames.get fun _ => Act.Frames.make fun _ => rfl

theorem keepsLane_retireSlice (y : Nat) : (retireSlice y).Frames State.laneKept := by
  refine Act.Frames.bind Act.Frames.get fun _ => Act.Frames.ite ?_ (Act.Frames.pure _)
  refine Act.Frames.bind (keepsLane_regField _ _ _ _ _) fun _ => Act.Frames.bind (keepsLane_regField _ _ _ _ _) fun _ =>
    Act.Frames.bind (fun u => (fault_gives u _).does.mono fun _ v hv => ?_) fun _ => Act.Frames.pure _
  have hCount : v.freeCount = u.freeCount := hv.1 .freeCount (by decide)
  rw [State.laneKept, hv.mem, hv.reflex, hCount]
  rfl

theorem keepsLane_abandonRebuild (n : Nat) : (abandonRebuild n).Frames State.laneKept := by
  refine Act.Frames.bind Act.Frames.get fun _ => ?_
  split
  · exact Act.Frames.ite (Act.Frames.bind (keepsLane_regField _ _ _ _ _) fun _ => keepsLane_modTriad _ _) (keepsLane_modTriad _ _)
  · exact Act.Frames.bind (Act.Frames.pure _) fun _ => keepsLane_modTriad _ _

theorem keepsLane_formTriad (n : Nat) (want : List Nat) : (formTriad n want).Frames State.laneKept := by
  refine Act.Frames.bind (keepsLane_abandonRebuild n) fun _ => Act.Frames.bind Act.Frames.get fun u => ?_
  refine Act.Frames.bind (Act.Frames.loop (fun y _ => Act.Frames.bind (keepsLane_regField _ _ _ _ _) fun _ =>
    Act.Frames.pure _) _ _) fun _ => Act.Frames.bind (Act.Frames.loop (fun p _ => ?_) _ _) fun _ => keepsLane_modTriad _ _
  split
  · exact Act.Frames.bind (keepsLane_regField _ _ _ _ _) fun _ => Act.Frames.bind (keepsLane_regField _ _ _ _ _) fun _ =>
      Act.Frames.pure _
  · exact Act.Frames.bind (keepsLane_regField _ _ _ _ _) fun _ => Act.Frames.pure _

theorem keepsLane_testMembers (n d fuel : Nat) : (testMembers n d fuel).Frames State.laneKept := by
  induction fuel with
  | zero => exact Act.Frames.pure _
  | succ fuel ih =>
    refine Act.Frames.bind Act.Frames.get fun u => ?_
    split
    · exact Act.Frames.bind (keepsLane_retireSlice _) fun _ => Act.Frames.bind (keepsLane_formTriad _ _) fun _ => ih
    · exact Act.Frames.pure _

theorem State.OnlyMem.members {u : State} (h : s.OnlyMem u) (n : Nat) : u.members n = s.members n := by
  have hRegs : u.regs = s.regs := h.1 .regs (by decide)
  have hPosition : u.position n = s.position n := funext fun p => by simp only [State.position, State.rf, State.rg, hRegs]
  have hRole : u.role = s.role := funext fun y => by simp only [State.role, State.rf, State.rg, hRegs]
  simp only [State.members, hPosition, hRole]

theorem State.OnlyMem.reflex {u : State} (h : s.OnlyMem u) : u.reflex = s.reflex := h.1 .reflex (by decide)

/-- The leash code of triad `t`, which fills tiles 0 to 3. -/
def State.leashTiles (s : State) (t : Nat) : List Byte := (Config.leashCode s.reflex.code t).take 0x4_0000

theorem loadCode_does (t : Nat) (s : State) :
    (loadCode t).Does s fun _ u => s.Filled 0 0x4_0000 (fun i => (s.leashTiles t).getD i 0) (s.members t) u :=
  Act.Does.get_bind (filled_forIn (by decide) (fun m u => filled_load (List.length_take_le _ _) u) _ s)

/-- Every member of triad `t` holds the leash code and zeroes. -/
def State.Loaded (s : State) (t : Nat) (code : List Byte) : Prop :=
  ∀ m ∈ s.members t, s.holds (slicePa m 0) code ∧
    ∀ i, code.length ≤ i → i < 0x20_0000 → Memory.byte s.mem (slicePa m i) = 0

/-- Code loaded, then the other tiles cleared. -/
theorem State.Filled.loaded {v w : State} (hLoad : s.Filled 0 0x4_0000 (fun i => (s.leashTiles t).getD i 0) (s.members t) v)
    (hClear : v.Filled 0x4_0000 0x1C_0000 (fun _ => 0) (v.members t) w) :
    w.Loaded t (s.leashTiles t) ∧ s.keepsBut w ((w.members t).map fun m => (slicePa m 0, 0x20_0000)) := by
  obtain ⟨hOnly, hCode, hKeep⟩ := hLoad
  obtain ⟨hOnly', hZero, hKeep'⟩ := hClear
  have hMembers : v.members t = s.members t := hOnly.members t
  have hMembers' : w.members t = s.members t := (hOnly'.members t).trans hMembers
  rw [hMembers] at hZero hKeep'
  have hByte {m i : Nat} (hm : m ∈ s.members t) (hi : i < 0x4_0000) :
      Memory.byte w.mem (slicePa m i) = (s.leashTiles t).getD i 0 := by
    refine Eq.trans (hKeep' _ fun r hr => ?_) (by simpa using hCode m hm i hi)
    obtain ⟨k, hk, rfl⟩ := List.mem_map.mp hr
    have hSame : m = k ∨ m ≠ k := Decidable.em _
    simp only [slicePa]
    omega
  have hLength : (s.leashTiles t).length ≤ 0x4_0000 := List.length_take_le _ _
  refine ⟨fun m hm => ?_, fun a ha => ?_⟩
  · rw [hMembers'] at hm
    refine ⟨fun i hi => ?_, fun i hLow hHigh => ?_⟩
    · rw [show slicePa m 0 + i = slicePa m i by simp only [slicePa]; omega]
      exact hByte hm (by omega)
    · by_cases hi : i < 0x4_0000
      · rw [hByte hm hi, List.getD_eq_default _ _ hLow]
      · have := hZero m hm (i - 0x4_0000) (by omega)
        rwa [show 0x4_0000 + (i - 0x4_0000) = i by omega] at this
  · rw [hMembers'] at ha
    have hOut (m : Nat) (hm : m ∈ s.members t) : a < slicePa m 0 ∨ slicePa m 0 + 0x20_0000 ≤ a :=
      ha (slicePa m 0, 0x20_0000) (List.mem_map.mpr ⟨m, hm, rfl⟩)
    refine (hKeep' a fun r hr => ?_).trans (hKeep a fun r hr => ?_)
    all_goals
      obtain ⟨m, hm, rfl⟩ := List.mem_map.mp hr
      have := hOut m hm
      simp only [slicePa] at this ⊢
      omega

theorem reinitTriad_loads (hUnbound : s.bound t = []) : (reinitTriad t).Does s fun _ u =>
    u.Loaded t (s.leashTiles t) ∧ s.keepsBut u ((u.members t).map fun m => (slicePa m 0, 0x20_0000)) := by
  refine Act.Does.get_bind (Act.Does.ite (fun h => absurd h (by simp [hUnbound])) fun _ => ?_)
  refine (keepsLane_formTriad t _ s).bind fun _ v hv => Act.Does.get_bind (Act.Does.make_bind ?_)
  refine (keepsLane_testMembers t _ 8 _).bind fun _ w hw => ?_
  refine (loadCode_does t w).bind fun _ y hy => Act.Does.get_bind ?_
  refine (filled_forIn (by decide) (fun m u => filled_zeroPhys u) (y.members t) y).bind fun _ z hz => Act.Does.pure ?_
  have hMem : w.mem = s.mem := congrArg (·.1) hw |>.trans (congrArg (·.1) hv)
  have hCode : w.reflex.code = s.reflex.code := congrArg (·.2.1) hw |>.trans (congrArg (·.2.1) hv)
  obtain ⟨hLoaded, hKeep⟩ := hy.loaded hz
  rw [State.leashTiles, hCode] at hLoaded
  exact ⟨hLoaded, fun a ha => (hKeep a ha).trans (by rw [hMem])⟩

theorem position_lt (s : State) (t p : Nat) : s.position t p < 8 := by
  have h := field_lt (s.rg .refxTriad t) (3 * p + 2) (3 * p)
  rwa [show 3 * p + 2 + 1 - 3 * p = 3 by omega] at h

/-- Three members are a triad's three positions. -/
theorem full_of_members {a b c : Nat} (hMembers : s.members t = [a, b, c]) (hab : a ≠ b) (hac : a ≠ c) (hbc : b ≠ c)
    (hOther : ∀ p, p < 3 → s.position (1 - t) p ∉ [a, b, c]) : s.Full t a b c := by
  have hAll : s.members t = [0, 1, 2].map (s.position t) :=
    (List.filter_sublist (p := fun x => decide (s.role x = 1)) (l := [0, 1, 2].map (s.position t))).eq_of_length (by
      show (s.members t).length = _
      rw [hMembers]
      rfl)
  have hRole (m : Nat) (hm : m ∈ s.members t) : s.role m = 1 := by simpa using List.of_mem_filter hm
  have hPositions := hAll.symm.trans hMembers
  simp only [List.map_cons, List.map_nil, List.cons.injEq, and_true] at hPositions
  obtain ⟨h0, h1, h2⟩ := hPositions
  rw [hMembers] at hRole
  exact ⟨⟨h0, h1, h2⟩, ⟨hRole a (by simp), hRole b (by simp), hRole c (by simp)⟩,
    ⟨h0 ▸ position_lt s t 0, h1 ▸ position_lt s t 1, h2 ▸ position_lt s t 2⟩, hab, hac, hbc, hOther⟩

/-- A triad of three members whose self-tests pass is formed of them again. -/
theorem reinitTriad_full {a b c : Nat} (ht : t < 2) (hUnbound : s.bound t = []) (hFull : s.Full t a b c)
    (hPass : ∀ m ∈ [a, b, c], flag (Config.freeWord s.freeCount) m = false) : (reinitTriad t).Does s fun code u =>
    code = Code.ok ∧ (u.triad t).state = 0 ∧ u.members t = [a, b, c] := by
  obtain ⟨h0, h1, h2⟩ := hFull.1
  refine Act.Does.get_bind (Act.Does.ite (fun h => absurd h (by simp [hUnbound])) fun _ => ?_)
  have hWant : [0, 1, 2].map (s.position t) = [a, b, c] := by simp [h0, h1, h2]
  rw [hWant]
  refine ((writes_formTriad t _).and (formTriad_does ht hFull)).bind fun _ v hv => Act.Does.get_bind (Act.Does.make_bind ?_)
  obtain ⟨hSame, ⟨p0, p1, p2⟩, ⟨ra, rb, rc⟩, hState⟩ := hv
  have hCount : v.freeCount = s.freeCount := hSame .freeCount (by decide)
  have hMembers : (v.upd .draw).members t = [a, b, c] := by
    have hFormed : v.members t = [a, b, c] := by simp [State.members, p0, p1, p2, ra, rb, rc]
    exact hFormed
  have hTest : (testMembers t v.freeCount 8).Does (v.upd .draw) fun _ w => w = v.upd .draw := by
    refine Act.Does.get_bind ?_
    have hNone : ((v.upd .draw).members t).find? (fun x => flag (Config.freeWord v.freeCount) x) = none := by
      rw [hMembers, hCount]
      simpa using hPass
    rw [hNone]
    exact Act.Does.pure rfl
  refine hTest.bind fun _ w hw => (loadCode_does t w).bind fun _ y hy => Act.Does.get_bind ?_
  refine (filled_forIn (by decide) (fun m u => filled_zeroPhys u) (y.members t) y).bind fun _ z hz => Act.Does.pure ?_
  subst hw
  have hOnly := hy.1.trans hz.1
  have hLast : (z.triad t).state = 0 := by
    rw [State.triad, hOnly.reflex]
    exact hState
  have hFirst : (y.triad t).state = 0 := by
    rw [State.triad, hy.1.reflex]
    exact hState
  exact ⟨if_pos hFirst, hLast, (hOnly.members t).trans hMembers⟩

/-- Answering a leash command changes no position and no role. -/
theorem members_answered {who : Who} (ht : t < 2) (code : Nat) (b : BusResult) :
    ((s.upd (.reg (Reg.off .refxStatus who.val 0) (setField (s.rg .refxStatus who.val) 7 0 code))).upd
      (.bus who.val b)).members t = s.members t := by
  have hWho : who.val < 9 := who.isLt
  have hTriad : Reg.off .refxTriad t 0 ≠ Reg.off .refxStatus who.val 0 := by simp [Reg.off, Reg.row]; omega
  have hSlice : Reg.off .refxSlice 0 0 ≠ Reg.off .refxStatus who.val 0 := by simp [Reg.off, Reg.row]; omega
  have hPosition : ((s.upd (.reg (Reg.off .refxStatus who.val 0) (setField (s.rg .refxStatus who.val) 7 0 code))).upd
      (.bus who.val b)).position t = s.position t := funext fun p => State.rf_upd_reg_other _ hTriad
  have hRole : ((s.upd (.reg (Reg.off .refxStatus who.val 0) (setField (s.rg .refxStatus who.val) 7 0 code))).upd
      (.bus who.val b)).role = s.role := funext fun y => State.rf_upd_reg_other _ hSlice
  simp only [State.members, hPosition, hRole]

section
variable {who : Who} {n : Fin 16}

theorem triadReinit_does {P : Nat → State → Prop} {Q : State → Prop} (hTakes : s.takes who .refxCmd who.val)
    (hWho : privileged who = true) (h : (reinitTriad (n.val / 8)).Does s P)
    (hPost : ∀ code u, P code u → Q ((u.upd (.reg (Reg.off .refxStatus who.val 0)
      (setField (u.rg .refxStatus who.val) 7 0 code))).upd (.bus who.val ⟨Code.ok, 0⟩))) : s.does (.triadReinit who n) Q := by
  refine State.does_of (by rw [← reflexCommand_reinit hWho]; rfl) (command_does (body := leashAnswered who _) hTakes
    (h.bind fun a t ht => Act.Does.regField_bind (Act.Does.pure (hPost a t ht))))

theorem triadReinit_loads (hTakes : s.takes who .refxCmd who.val) (hWho : privileged who = true)
    (hUnbound : s.bound (n.val / 8) = []) : s.does (.triadReinit who n) fun u => u.answered who Code.ok ∧
      u.Loaded (n.val / 8) (s.leashTiles (n.val / 8)) ∧
      s.keepsBut u ((u.members (n.val / 8)).map fun m => (slicePa m 0, 0x20_0000)) := by
  refine triadReinit_does hTakes hWho (reinitTriad_loads hUnbound) fun code u hu => ⟨by simp, fun m hm => ?_, ?_⟩
  · rw [members_answered (by omega)] at hm
    exact hu.1 m hm
  · rw [members_answered (by omega)]
    exact hu.2

theorem triadReinit_full {a b c : Nat} (hTakes : s.takes who .refxCmd who.val) (hWho : privileged who = true)
    (hUnbound : s.bound (n.val / 8) = []) (hFull : s.Full (n.val / 8) a b c)
    (hPass : ∀ m ∈ [a, b, c], flag (Config.freeWord s.freeCount) m = false) : s.does (.triadReinit who n) fun u =>
      (u.triad (n.val / 8)).state = 0 ∧ u.members (n.val / 8) = [a, b, c] ∧ u.rf .refxStatus who.val 7 0 = Code.ok := by
  refine triadReinit_does hTakes hWho (reinitTriad_full (by omega) hUnbound hFull hPass) fun code u hu => ?_
  obtain ⟨rfl, hState, hMembers⟩ := hu
  refine ⟨hState, (members_answered (by omega) _ _).trans hMembers, ?_⟩
  exact State.rf_setField_same (s := u) (r := .refxStatus) (i := who.val) Code.ok (by decide : 7 < 32)

theorem triadReinit_bound (hTakes : s.takes who .refxCmd who.val) (hWho : privileged who = true)
    (hBound : s.bound (n.val / 8) ≠ []) : s.does (.triadReinit who n) fun u => u = { s with regs := u.regs, bus := u.bus } ∧
      u.rf .refxStatus who.val 7 0 = Code.faultXlat ∧ u.answered who Code.ok := by
  have hRefused : (reinitTriad (n.val / 8)).Does s fun code u => code = Code.faultXlat ∧ u = s :=
    Act.Does.get_bind (Act.Does.ite (fun _ => Act.Does.pure ⟨rfl, rfl⟩) fun h => absurd (by simpa using hBound) h)
  refine triadReinit_does hTakes hWho hRefused fun code u hu => ?_
  obtain ⟨rfl, rfl⟩ := hu
  exact ⟨rfl, State.rf_setField_same (s := u) (r := .refxStatus) (i := who.val) Code.faultXlat (by decide : 7 < 32), by simp⟩

end

/-- Settles O45: writes that reach every member, or are recorded, then REINIT by what its forming keeps, its loading
fills and its self-test passes, then rails and rings. -/
theorem sliceMemoryIsWrittenInEveryMember : Obligations.SliceMemoryIsWrittenInEveryMember := by
  refine fun s => ⟨fun w x off bs hx hOff => ⟨fun t ht hAccepts hOne => sliceSramWrite_ok hx hOff ht hAccepts hOne,
    fun h => sliceSramWrite_refused hx hOff h⟩, ?_, fun x => sliceRailLow_does x, fun r =>
    ⟨reflexRingLinkFailure_again r, reflexRingLinkFailure_first r⟩⟩
  refine fun who n a b c hTakes hWho => ⟨fun hUnbound => ?_, fun hBound => triadReinit_bound hTakes hWho hBound⟩
  by_cases h : (∀ m ∈ [a, b, c], flag (Config.freeWord s.freeCount) m = false) ∧ s.members (n.val / 8) = [a, b, c] ∧ a ≠ b ∧
    a ≠ c ∧ b ≠ c ∧ ∀ p, p < 3 → s.position (1 - n.val / 8) p ∉ [a, b, c]
  · obtain ⟨hPass, hMembers, hab, hac, hbc, hOther⟩ := h
    have hFull := full_of_members hMembers hab hac hbc hOther
    exact ((triadReinit_loads hTakes hWho hUnbound).and (triadReinit_full hTakes hWho hUnbound hFull hPass)).mono fun u hu =>
      ⟨hu.1.1, hu.1.2.1, hu.1.2.2, fun _ _ _ _ _ _ => hu.2⟩
  · exact (triadReinit_loads hTakes hWho hUnbound).mono fun u hu => ⟨hu.1, hu.2.1, hu.2.2,
      fun hPass hMembers hab hac hbc hOther => absurd ⟨hPass, hMembers, hab, hac, hbc, hOther⟩ h⟩

end Sys2Proof.Machine

/-!
PROOF. Doorbells, the consumer index and COL_SEL (R172, R174, R194).
-/
namespace Sys2Proof.Machine

/-- The entry put last stands. -/
theorem Sparse.put_put {α : Type} (t : Sparse α) (k : Nat) (a b : α) : (t.put k a).put k b = t.put k b := by
  induction t with
  | nil => simp [Sparse.put]
  | cons e t ih =>
    obtain ⟨j, x⟩ := e
    simp only [Sparse.put]
    split
    · next h => simp [Sparse.put, h, ih]
    · next h => split <;> simp [Sparse.put, *]

theorem State.upd_ctx_ctx (s : State) (c : Nat) (x y : Context) : (s.upd (.ctx c x)).upd (.ctx c y) = s.upd (.ctx c y) := by
  simp only [State.upd, Sparse.put_put]

section
variable {s : State} {who : Who} {c i : Nat}

/-- A doorbell that R174 discards. -/
def State.doorbellBad (s : State) (c i : Nat) : Prop :=
  (s.ctx c).st = .free ∨ (s.ctx c).desc.cls = 0 ∨ ((s.ctx c).desc.paired = true ∧ (s.ctx c).desc.primary = false) ∨
    (∃ h, s.home c = some h ∧ h ≠ s.casc.id) ∨ 2 ^ 15 ≤ (i + 65536 - (s.ctx c).prod) % 65536 ∨
    2 ^ (s.ctx c).desc.subqK < (i + 65536 - (s.ctx c).rd) % 65536

theorem doorbellBad_iff : (decide ((s.ctx c).st = .free) || decide ((s.ctx c).desc.cls = 0) ||
    ((s.ctx c).desc.paired && !(s.ctx c).desc.primary) || (s.home c).any (fun h => decide (h ≠ s.casc.id)) ||
    decide (2 ^ 15 ≤ (i + 65536 - (s.ctx c).prod) % 65536) ||
    decide (2 ^ (s.ctx c).desc.subqK < (i + 65536 - (s.ctx c).rd) % 65536)) = true ↔ s.doorbellBad c i := by
  cases hHome : s.home c <;> simp [State.doorbellBad, hHome, or_assoc]

/-- A counted drop. -/
theorem toNat_countSat (w : Word) : (setField w 31 0 (min (2 ^ (31 + 1 - 0) - 1) (field w 31 0 + 1))).toNat =
    min (2 ^ 32 - 1) (w.toNat + 1) := by
  have hField : ∀ x : Word, field x 31 0 = x.toNat := fun x => by
    rw [field, pow_zero, Nat.div_one]
    exact Nat.mod_eq_of_lt x.isLt
  rw [← hField (setField _ _ _ _), field_setField_same _ _ (by decide), hField]
  exact Nat.mod_eq_of_lt (by omega)

theorem doorbell_dropped (hc : c < 1024) (hi : i < 65536) (hTakes : s.takes who .colDoorbell 0) (hBad : s.doorbellBad c i) :
    s.does (.doorbell who c i) fun t => t = { s with regs := t.regs, bus := t.bus } ∧
      (t.rg .colDropped).toNat = min (2 ^ 32 - 1) ((s.rg .colDropped).toNat + 1) ∧ t.answered who Code.ok := by
  refine State.does_of rfl (command_does hTakes (Act.Does.get_bind ?_))
  rw [Nat.mod_eq_of_lt hc, Nat.mod_eq_of_lt hi]
  refine Act.Does.ite (fun _ => ?_) fun hNot => absurd (doorbellBad_iff.mpr hBad) hNot
  refine Act.Does.countSat_bind (Act.Does.pure ⟨rfl, ?_, by simp⟩)
  rw [State.rg_upd _ _ _ _ _ rfl, State.rg_upd_reg]
  exact toNat_countSat _

theorem doorbell_queued {tile : Nat} (hc : c < 1024) (hi : i < 65536) (hTakes : s.takes who .colDoorbell 0)
    (hGood : ¬s.doorbellBad c i) (hPair : (s.ctx c).desc.paired = false) (hModules : s.modules c = 0)
    (hNext : ((s.ctx c).rd + 1) % 65536 = i)
    (hTile : (s.ctx c).subqTiles[((s.ctx c).desc.subqVa % 65536 + (s.ctx c).rd % 2 ^ (s.ctx c).desc.subqK * 64) / 65536]? =
      some tile)
    (hSound : s.sound (tile + ((s.ctx c).desc.subqVa % 65536 + (s.ctx c).rd % 2 ^ (s.ctx c).desc.subqK * 64) % 65536) 64) :
    s.does (.doorbell who c i) fun t =>
      t = { s with ctxs := s.ctxs.put c { s.ctx c with prod := i, rd := i, jobs := (s.ctx c).jobs ++
                     [{ Job.ofBytes (s.peek (tile + ((s.ctx c).desc.subqVa % 65536 +
                        (s.ctx c).rd % 2 ^ (s.ctx c).desc.subqK * 64) % 65536) 64) (s.ctx c).rd with
                        excl := s.rg .gridExclHi ++ s.rg .gridExclLo }] }
                   bus := t.bus } ∧ t.answered who Code.ok := by
  refine State.does_of rfl (command_does hTakes (Act.Does.get_bind ?_))
  rw [Nat.mod_eq_of_lt hc, Nat.mod_eq_of_lt hi]
  refine Act.Does.ite (fun hBad => absurd (doorbellBad_iff.mp hBad) hGood) fun _ => ?_
  refine Act.Does.modCtx_bind ?_
  have hRd : (s.ctx c).rd ≠ i := by omega
  set x := s.ctx c with hx
  set pa := tile + (x.desc.subqVa % 65536 + x.rd % 2 ^ x.desc.subqK * 64) % 65536
  set j : Job := { Job.ofBytes (s.peek pa 64) x.rd with excl := s.rg .gridExclHi ++ s.rg .gridExclLo } with hj
  set u := s.upd (.ctx c { x with prod := i }) with hu
  have hCtx : u.ctx c = { x with prod := i } := State.ctx_upd_ctx s c _
  have hPairs : u.pairs c = false := by simp [State.pairs, hCtx, hPair]
  have hJob : (readJob c).Does u fun r v => r = true ∧ v = u.upd (.ctx c { x with prod := i, rd := i, jobs := x.jobs ++ [j] }) := by
    refine Act.Does.get_bind ?_
    simp only [hCtx, hTile, hPairs]
    refine (readTier_does (s := u) pa 64 hSound).bind ?_
    rintro _ v ⟨rfl, rfl⟩
    refine Act.Does.modCtx_bind ?_
    simp only [hCtx, hNext]
    refine Act.Does.ite (fun h => absurd h (by simp)) fun _ => ?_
    refine Act.Does.ite (fun h => absurd hModules h) fun _ => Act.Does.pure ⟨rfl, rfl⟩
  have hJobs : (readJobs c 4096).Does u fun _ v =>
      v = u.upd (.ctx c { x with prod := i, rd := i, jobs := x.jobs ++ [j] }) := by
    refine Act.Does.get_bind ?_
    simp only [hCtx]
    refine Act.Does.ite (fun _ => hJob.bind ?_) fun h => absurd hRd h
    rintro _ v ⟨rfl, rfl⟩
    refine Act.Does.ite (fun _ => Act.Does.get_bind ?_) fun h => absurd rfl h
    simp only [State.ctx_upd_ctx]
    exact Act.Does.ite (fun h => absurd rfl h) fun _ => Act.Does.pure rfl
  refine hJobs.bind fun _ v hv => Act.Does.pure ⟨?_, by simp⟩
  rw [hv, hu, State.upd_ctx_ctx]
  rfl

/-! ## Consumer indices and COL_SEL -/

theorem colCons_moves (hc : c < 1024) (hi : i < 65536) (hTakes : s.takes who .colCons 0)
    (h : (i + 65536 - (s.ctx c).ring.cons % 65536) % 65536 ≤ ((s.ctx c).ring.wr - (s.ctx c).ring.cons) % 65536) :
    s.does (.colCons who c i) fun t => t = { s with ctxs := s.ctxs.put c { s.ctx c with ring := { (s.ctx c).ring with
      cons := (s.ctx c).ring.cons + (i + 65536 - (s.ctx c).ring.cons % 65536) % 65536 } }, bus := t.bus } ∧
      t.answered who Code.ok := by
  refine State.does_of rfl (command_does hTakes (Act.Does.get_bind ?_))
  rw [Nat.mod_eq_of_lt hc, Nat.mod_eq_of_lt hi]
  exact Act.Does.ite (fun hPast => absurd h (by omega)) fun _ => Act.Does.modCtx_bind (Act.Does.pure ⟨rfl, by simp⟩)

theorem colCons_dropped (hc : c < 1024) (hi : i < 65536) (hTakes : s.takes who .colCons 0)
    (h : ((s.ctx c).ring.wr - (s.ctx c).ring.cons) % 65536 < (i + 65536 - (s.ctx c).ring.cons % 65536) % 65536) :
    s.does (.colCons who c i) fun t => t = { s with regs := t.regs, bus := t.bus } ∧
      (t.rg .colDropped).toNat = min (2 ^ 32 - 1) ((s.rg .colDropped).toNat + 1) ∧ t.answered who Code.ok := by
  refine State.does_of rfl (command_does hTakes (Act.Does.get_bind ?_))
  rw [Nat.mod_eq_of_lt hc, Nat.mod_eq_of_lt hi]
  refine Act.Does.ite (fun _ => ?_) fun hNot => absurd h hNot
  refine Act.Does.countSat_bind (Act.Does.pure ⟨rfl, ?_, by simp⟩)
  rw [State.rg_upd _ _ _ _ _ rfl, State.rg_upd_reg]
  exact toNat_countSat _

/-- What a write of COL_SEL leaves. -/
theorem colSel_does (v : Word) (hTakes : s.takes who .colSel 0) : s.does (.colSel who v) fun t =>
    t = { s with regs := t.regs, selState := t.selState, selAccts := t.selAccts, bus := t.bus } ∧ t.answered who Code.ok ∧
      (field v 10 0 < 1024 → t.selState = (s.ctx (field v 10 0)).stateWord ∧ t.selAccts = (s.ctx (field v 10 0)).accts) ∧
      (field v 10 0 = 1024 → t.selAccts = s.residual) := by
  refine State.does_of rfl (command_does hTakes (Act.Does.get_bind (Act.Does.reg_bind (Act.Does.ite (fun hCtx => ?_) fun hRest => ?_))))
  · exact Act.Does.make_bind (Act.Does.pure ⟨rfl, by simp, fun _ => ⟨rfl, rfl⟩, fun h => by omega⟩)
  · exact Act.Does.make_bind (Act.Does.pure ⟨rfl, by simp, fun h => absurd h hRest, fun h => if_pos h⟩)

theorem value_colCtxState (t : State) : t.value .colCtxState 0 0 = t.selState := rfl

theorem value_colAcctLo (t : State) (n : Nat) : t.value .colAcctLo n 0 = Word.ofNat (t.selAccts.at n 0) := rfl

end

/-- Settles O17: doorbells that are discarded or queue the job read, then consumer indices, then what COL_SEL latches. -/
theorem ringsAreServed : Obligations.RingsAreServed := by
  refine ⟨fun s who c i hc hi hTakes => ⟨doorbell_dropped hc hi hTakes, ?_⟩, fun s who hCons hSel => ⟨fun c i hc hi =>
    ⟨colCons_moves hc hi hCons, colCons_dropped hc hi hCons⟩, fun v hv => ?_, fun v hv => ?_⟩⟩
  · exact fun hGood hPair hModules hNext tile hTile hSound =>
      doorbell_queued hc hi hTakes hGood hPair hModules hNext hTile hSound
  · exact (colSel_does v hSel).mono fun t ⟨hSame, hBus, hCtx, _⟩ => ⟨hSame, (value_colCtxState t).trans (hCtx hv).1,
      fun n => by rw [value_colAcctLo, (hCtx hv).2], hBus⟩
  · exact (colSel_does v hSel).mono fun t ⟨_, hBus, _, hRes⟩ => ⟨fun n => by rw [value_colAcctLo, hRes hv], hBus⟩

end Sys2Proof.Machine

/-!
PROOF. A line arrives at its cell (R88).
-/
namespace Sys2Proof.Machine

variable {s : State} {c e d : Nat}

@[simp] theorem State.engine_upd_engine (s : State) (e : Nat) (x : Engine) : (s.upd (.engine e x)).engine e = x := by
  simp [State.engine]

theorem State.engine_upd_engine_other {f : Nat} (x : Engine) (h : f ≠ e) : (s.upd (.engine e x)).engine f = s.engine f := by
  simp [State.engine, Sparse.at_put_other _ _ _ h]

/-- The first line of a way stands behind lines of other ways. -/
theorem findIdx?_sameWay {g f : Flight} {pre post : List Flight} (hSame : f.sameWay g = true)
    (hPre : ∀ h ∈ pre, h.sameWay g = false) : (pre ++ f :: post).findIdx? (fun h => h.sameWay g) = some pre.length := by
  induction pre with
  | nil => simp [List.findIdx?_cons, hSame]
  | cons h pre ih =>
    have hTail := ih fun y hy => hPre y (List.mem_cons_of_mem _ hy)
    simp [List.findIdx?_cons, hPre h List.mem_cons_self] at hTail ⊢
    exact hTail

/-- A line goes behind what its channel holds. -/
theorem deliver_does {k : Kernel} {f : Flight} (hKern : (s.ctx c).kern = some k) (hPlace : f.place = none)
    (hCells : f.dstCells = [d]) (hEngine : k.engines[f.dst]? = some e) : (deliver c f).Does s fun _ t =>
      t = { s with engines := t.engines } ∧
      ((t.engine e).cell d).chan f.chan = ((s.engine e).cell d).chan f.chan ++ [.line f.line] ∧
      ∀ n, n ≠ e → t.engine n = s.engine n := by
  refine Act.does_of_run (fun k' => by
    simp [deliver, hKern, hEngine, hCells, hPlace, placeLine, Act.modEngine]
    rfl) ?_
  exact ⟨rfl, by simp [Engine.cell, Engine.setCell, Cell.chan], fun n hn => State.engine_upd_engine_other _ hn⟩

/-- Settles O21: the first line of the way is found by its place, delivered, and taken from those in flight. -/
theorem lineArrivesInOrder : Obligations.LineArrivesInOrder := by
  intro s c i k g f e d pre post hKern hNamed hFlights hSame hPre hPlace hCells hEngine
  have hFirst := findIdx?_sameWay (post := post) hSame hPre
  rw [← hFlights] at hFirst
  have hLine : k.flights.getD pre.length g = f := by simp [hFlights, List.getD]
  have hErase : k.flights.eraseIdx pre.length = pre ++ post := by simp [hFlights, List.eraseIdx_append_of_length_le]
  refine State.does_of rfl (Act.Does.get_bind ?_)
  simp only [hKern, Option.map_some, Option.getD_some, hNamed, hFirst, hLine]
  refine (deliver_does hKern hPlace hCells hEngine).bind fun _ t ht => ?_
  obtain ⟨hState, hChan, hOthers⟩ := ht
  have hCtx : t.ctx c = s.ctx c := by rw [hState]; rfl
  refine Act.Does.get_bind (Act.Does.make ⟨?_, ?_, hChan, hOthers⟩)
  · rw [hState]
    rfl
  · simp [hCtx, hKern, hErase]

end Sys2Proof.Machine

/-!
PROOF. Invalidations and the pin map (R214, R220, R222).
-/
namespace Sys2Proof.Machine

/-- The first pass of a loop, then the others. -/
theorem Act.Does.forIn_cons {γ : Type} {f : γ → PUnit → Act (ForInStep PUnit)} {c : γ} {l : List γ} {s : State} {P : State → Prop}
    {Q : PUnit → State → Prop} (hFirst : (f c ⟨⟩).Does s fun r t => r = .yield ⟨⟩ ∧ P t)
    (hRest : ∀ t, P t → (forIn l PUnit.unit f : Act PUnit).Does t Q) : (forIn (c :: l) PUnit.unit f : Act PUnit).Does s Q := by
  rw [List.forIn_cons]
  refine hFirst.bind fun r t ht => ?_
  rw [ht.1]
  exact hRest t ht.2

/-- A pass that goes on. -/
theorem Act.Does.yield {x : Act Unit} {s : State} {P : State → Prop} (h : x.Does s fun _ t => P t) :
    (x >>= fun _ => Pure.pure (.yield ⟨⟩) : Act (ForInStep PUnit)).Does s fun r t => r = .yield ⟨⟩ ∧ P t :=
  h.bind fun _ _ ht => Act.Does.pure ⟨rfl, ht⟩

variable {s : State} {who : Who}

/-! ## Invalidations -/

theorem value_xlatInvStatus (s : State) (n : Nat) :
    s.value .xlatInvStatus n 0 = Word.ofNat (b2n (s.xlat.invs.any fun e => e.1.val = n)) := rfl

theorem xlatInv_does {first value : Word} (hTakes : s.takes who .xlatInv who.val) :
    s.does (.xlatInv who first value) fun t => t = { s with xlat := t.xlat, regs := t.regs, bus := t.bus } ∧
      t.xlat.tlb = s.xlat.tlb ∧ t.value .xlatInvStatus who.val 0 = 1 ∧
      t.xlat.invs = s.xlat.invs ++ [(who, if flag value 11 then none else some (field value 9 0),
        if flag value 10 || flag value 11 then none else some (first.toNat, field value 31 16 + 1))] := by
  refine State.does_of rfl (command_does hTakes (Act.Does.reg_bind (Act.Does.get_bind (Act.Does.make_bind
    (Act.Does.pure ⟨rfl, rfl, ?_, ?_⟩)))))
  · simp [value_xlatInvStatus]
    rfl
  · simp

/-- The TLB entries left by invalidations dropped one after another. -/
theorem dropAll_does (l : List (Who × Option Nat × Option (Nat × Nat))) (s : State) :
    (forIn l PUnit.unit fun i _ => dropEntries i.2.1 i.2.2 >>= fun _ => pure (ForInStep.yield PUnit.unit) : Act PUnit).Does s
      fun _ t => t = { s with xlat := t.xlat } ∧ t.xlat.invs = s.xlat.invs ∧
        t.xlat.tlb = s.xlat.tlb.filter fun e => !(l.any fun i => invNames i.2.1 i.2.2 e.ctx e.page) := by
  induction l generalizing s with
  | nil => exact Act.Does.pure ⟨rfl, rfl, by simp⟩
  | cons i l ih =>
    have hDrop : (dropEntries i.2.1 i.2.2).Does s fun _ t => t = { s with xlat := t.xlat } ∧ t.xlat.invs = s.xlat.invs ∧
        t.xlat.tlb = s.xlat.tlb.filter fun e => !invNames i.2.1 i.2.2 e.ctx e.page :=
      Act.Does.get_bind (Act.Does.make ⟨rfl, rfl, rfl⟩)
    refine Act.Does.forIn_cons hDrop.yield fun t ht => ?_
    obtain ⟨hSame, hInvs, hTlb⟩ := ht
    refine (ih t).mono fun _ u hu => ?_
    obtain ⟨hSame', hInvs', hTlb'⟩ := hu
    refine ⟨?_, hInvs'.trans hInvs, ?_⟩
    · rw [hSame', hSame]
    · rw [hTlb', hTlb, List.filter_filter]
      exact List.filter_congr fun e _ => by simp [Bool.and_comm]

theorem invalidationComplete_does (who : Who) : s.does (.invalidationComplete who) fun t => t = { s with xlat := t.xlat } ∧
    t.value .xlatInvStatus who.val 0 = 0 ∧ (∀ i ∈ s.xlat.invs, i.1 ≠ who → i ∈ t.xlat.invs) ∧
    t.xlat.tlb = s.xlat.tlb.filter fun e =>
      !(s.xlat.invs.any fun i => i.1 = who && invNames i.2.1 i.2.2 e.ctx e.page) := by
  refine State.does_of rfl (Act.Does.get_bind ((dropAll_does _ s).bind fun _ t ht => Act.Does.get_bind (Act.Does.make ?_)))
  obtain ⟨hSame, hInvs, hTlb⟩ := ht
  refine ⟨?_, ?_, fun i hi hOther => ?_, ?_⟩
  · rw [hSame]
    rfl
  · have hNone : ((t.xlat.invs.filter (·.1 ≠ who)).any fun e => e.1.val = who.val) = false :=
      List.any_eq_false.mpr fun i hi => by simpa [Fin.ext_iff] using List.of_mem_filter hi
    rw [value_xlatInvStatus]
    exact congrArg (fun b => Word.ofNat (b2n b)) hNone
  · simp [hInvs, hi, hOther]
  · simp [hTlb]

/-! ## Pins -/

/-- PIN_SET (`op` 1) or PIN_CLEAR (`op` 2) changes the pin bit of tile `n`. -/
def State.pinMoves (s : State) (op n : Nat) : Prop := n < 401408 ∧ (op = 1 ∨ s.descriptorNames (tileBase n) = false)

/-- The pin bits of the tiles `n` of a list have been set or cleared, and no other. -/
def State.Pinned (s : State) (op : Nat) (l : List Nat) (t : State) : Prop :=
  t = { s with xlat := t.xlat, regs := t.regs } ∧
  (∀ n ∈ l, s.pinMoves op n → t.xlat.pins.at n false = decide (op = 1)) ∧
  ∀ n, n ∉ l ∨ ¬s.pinMoves op n → t.xlat.pins.at n false = s.xlat.pins.at n false

/-- A pass of PIN_SET or PIN_CLEAR. -/
def pinPass (op n : Nat) : Act (ForInStep PUnit) := do
  let t ← Act.get
  if n < 401408 then
    if op = 1 then Act.make (.xlat { t.xlat with pins := t.xlat.pins.put n true })
    else if t.descriptorNames (tileBase n) then Act.countSat .xlatStat 0 31 24
    else Act.make (.xlat { t.xlat with pins := t.xlat.pins.put n false })
  return .yield ⟨⟩

theorem pinned_put {op n : Nat} (h : s.pinMoves op n) :
    s.Pinned op [n] (s.upd (.xlat { s.xlat with pins := s.xlat.pins.put n (decide (op = 1)) })) := by
  refine ⟨rfl, fun m hm _ => ?_, fun m hm => ?_⟩
  · obtain rfl : m = n := by simpa using hm
    simp
  · have hne : m ≠ n := fun e => by simp [e, h] at hm
    simp [Sparse.at_put_other _ _ _ hne]

theorem pinPass_does (op n : Nat) (s : State) : (pinPass op n).Does s fun r t => r = .yield ⟨⟩ ∧ s.Pinned op [n] t := by
  have hStay (t : State) (ht : t = { s with xlat := s.xlat, regs := t.regs }) (hNot : ¬s.pinMoves op n) : s.Pinned op [n] t := by
    have hXlat : t.xlat = s.xlat := by rw [ht]
    refine ⟨by rw [hXlat]; exact ht, fun m hm hMoves => ?_, fun m _ => by rw [hXlat]⟩
    obtain rfl : m = n := by simpa using hm
    exact absurd hMoves hNot
  refine Act.Does.get_bind (Act.Does.ite (fun hn => Act.Does.ite (fun hOp => ?_) fun hOp => Act.Does.ite (fun hNamed => ?_)
    fun hFree => ?_) fun hn => ?_)
  · have hSet := pinned_put (s := s) (op := op) ⟨hn, .inl hOp⟩
    rw [decide_eq_true hOp] at hSet
    exact (Act.Does.make hSet).yield
  · exact Act.Does.countSat_bind (Act.Does.pure ⟨rfl, hStay _ rfl fun h => by simp [State.pinMoves, hOp, hNamed] at h⟩)
  · have hClear := pinned_put (s := s) (op := op) ⟨hn, .inr (by simpa using hFree)⟩
    rw [decide_eq_false hOp] at hClear
    exact (Act.Does.make hClear).yield
  · exact Act.Does.pure ⟨rfl, hStay s rfl fun h => hn h.1⟩

theorem State.Pinned.cons {op n : Nat} {l : List Nat} {t u : State} (h : s.Pinned op [n] t) (h' : t.Pinned op l u) :
    s.Pinned op (n :: l) u := by
  obtain ⟨hSame, hSet, hKeep⟩ := h
  obtain ⟨hSame', hSet', hKeep'⟩ := h'
  have hMoves (m : Nat) : t.pinMoves op m ↔ s.pinMoves op m := by rw [hSame]; rfl
  refine ⟨by rw [hSame', hSame], fun m hm hGo => ?_, fun m hm => ?_⟩
  · by_cases hIn : m ∈ l
    · exact hSet' m hIn ((hMoves m).mpr hGo)
    · obtain rfl : m = n := by simpa [hIn] using hm
      exact (hKeep' m (.inl hIn)).trans (hSet m List.mem_cons_self hGo)
  · rw [hKeep' m (by rw [hMoves]; simp only [List.mem_cons] at hm; tauto)]
    exact hKeep m (by simp only [List.mem_cons] at hm ⊢; tauto)

theorem pinRange_does (op : Nat) (s : State) : (pinRange op).Does s fun _ t => s.Pinned op
    ((List.range (s.rf .xlatPinTile 0 31 19 + 1)).map (s.rf .xlatPinTile 0 18 0 + ·)) t := by
  have hLoop (first : Nat) (l : List Nat) (s : State) :
      (forIn l PUnit.unit fun i _ => pinPass op (first + i) : Act PUnit).Does s fun _ t => s.Pinned op (l.map (first + ·)) t := by
    induction l generalizing s with
    | nil => exact Act.Does.pure ⟨rfl, by simp, fun _ _ => rfl⟩
    | cons i l ih => exact Act.Does.forIn_cons (pinPass_does op (first + i) s) fun t ht => (ih t).mono fun _ u hu => ht.cons hu
  exact Act.Does.get_bind ((hLoop _ _ s).bind fun _ t ht => Act.Does.pure ht)

/-- The tiles that a range names. -/
def rangeTiles (range : Word) : List Nat := (List.range (field range 31 19 + 1)).map (field range 18 0 + ·)

theorem mem_rangeTiles {range : Word} {n : Nat} :
    n ∈ rangeTiles range ↔ field range 18 0 ≤ n ∧ n < field range 18 0 + field range 31 19 + 1 := by
  simp only [rangeTiles, List.mem_map, List.mem_range]
  constructor
  · rintro ⟨i, hi, rfl⟩
    omega
  · exact fun h => ⟨n - field range 18 0, by omega, by omega⟩

/-- PIN_SET or PIN_CLEAR by an initiator that may give it. -/
theorem pin_does {c : Instr} {op : Nat} {range : Word} (hTakes : s.takes who .xlatPinOp 0)
    (e : exec c s = Act.outcome (command who .xlatPinOp 0 (do
      Act.reg .xlatPinTile 0 range
      pinRange op
      return Code.ok)) s) :
    s.does c fun t => t = { s with xlat := t.xlat, regs := t.regs, bus := t.bus } ∧
      (∀ n ∈ rangeTiles range, s.pinMoves op n → t.xlat.pins.at n false = decide (op = 1)) ∧
      ∀ n, n ∉ rangeTiles range ∨ ¬s.pinMoves op n → t.xlat.pins.at n false = s.xlat.pins.at n false := by
  refine State.does_of e (command_does hTakes (Act.Does.reg_bind ((pinRange_does op _).bind fun _ t ht => Act.Does.pure ?_)))
  obtain ⟨hSame, hSet, hKeep⟩ := ht
  have hRf (hi lo : Nat) : (s.upd (.reg (Reg.off .xlatPinTile 0 0) range)).rf .xlatPinTile 0 hi lo = field range hi lo := by
    rw [State.rf, State.rg_upd_reg]
  rw [hRf, hRf] at hSet hKeep
  exact ⟨by rw [hSame]; rfl, hSet, hKeep⟩

/-- S2–S7 may not write the pin map. -/
theorem accessCode_xlatPinOp (hWho : privileged who = false) :
    s.accessCode who true (controlBase + Reg.off .xlatPinOp 0 0) 4 = Code.faultXlat := by
  have hLookup : Reg.lookup (Reg.off .xlatPinOp 0 0) = some (.xlatPinOp, 0, 0) := by decide
  have hOff : controlBase + Reg.off .xlatPinOp 0 0 - controlBase = Reg.off .xlatPinOp 0 0 := Nat.add_sub_cancel_left ..
  have hHost : who ≠ Who.host := by
    rintro rfl
    exact absurd hWho (by decide)
  have hMay : s.mayAccess who true .xlatPinOp 0 = false := by
    simp [State.mayAccess, hWho, hHost, Reg.ofInitiator, State.stewardWrites]
  have hInside : controlBase ≤ controlBase + Reg.off .xlatPinOp 0 0 ∧ Reg.off .xlatPinOp 0 0 < 2 ^ 24 := by decide
  have hWord : ¬((4 : Nat) ≠ 4 ∨ (controlBase + Reg.off .xlatPinOp 0 0) % 4 ≠ 0) := by decide
  simp only [State.accessCode, hOff, hLookup, hMay, hInside, hWord, hWho, and_self, decide_true, Bool.not_true, Bool.false_eq_true,
    if_false, ite_self]

theorem barred_does {c : Instr} {body : Act Nat} (hReach : s.reachable = true) (hWho : privileged who = false)
    (e : exec c s = Act.outcome (command who .xlatPinOp 0 body) s) :
    s.does c fun t => t = { s with bus := s.bus.put who.val ⟨Code.faultXlat, 0⟩ } := by
  refine State.does_of e (Act.Does.get_bind ?_)
  simp only [hReach, accessCode_xlatPinOp hWho, Bool.not_true, Bool.false_eq_true, if_false]
  exact Act.Does.make rfl

/-- Settles O25: invalidations noted and carried out, pins set and cleared pass by pass, and the initiators that may not. -/
theorem invalidationAndPins : Obligations.InvalidationAndPins := by
  refine ⟨fun s who first value hTakes => ⟨xlatInv_does hTakes, invalidationComplete_does who⟩, fun s who range hTakes => ⟨?_, ?_⟩,
    fun s who range hWho hReach => ⟨?_, ?_⟩⟩
  · refine (pin_does hTakes rfl : s.does (.pinSet who range) _).mono fun t ⟨hSame, hSet, hKeep⟩ => ⟨hSame, ?_, ?_⟩
    · exact fun n ⟨hLow, hHigh, hLimit⟩ => hSet n (mem_rangeTiles.mpr ⟨hLow, hHigh⟩) ⟨hLimit, .inl rfl⟩
    · exact fun n hn => hKeep n (by simp only [mem_rangeTiles, State.pinMoves]; tauto)
  · refine (pin_does hTakes rfl : s.does (.pinClear who range) _).mono fun t ⟨hSame, hSet, hKeep⟩ => ⟨hSame, ?_, ?_, ?_⟩
    · exact fun n ⟨hLow, hHigh, hLimit⟩ hFree => hSet n (mem_rangeTiles.mpr ⟨hLow, hHigh⟩) ⟨hLimit, .inr hFree⟩
    · exact fun n _ hNamed => hKeep n (.inr fun h => by simp [State.pinMoves, hNamed] at h)
    · exact fun n hn => hKeep n (by simp only [mem_rangeTiles, State.pinMoves]; tauto)
  · exact barred_does hReach hWho rfl
  · exact barred_does hReach hWho rfl

end Sys2Proof.Machine

/-!
PROOF. What translation and reads of tiers depend on, and virtual reads of mapped pages.
-/
namespace Sys2Proof.Machine

/-- Two states in which addresses are backed, tagged and mapped alike. -/
structure State.SameReach (s t : State) : Prop where
  psram : t.psram = s.psram
  ftl : t.ftl = s.ftl
  xlat : t.xlat = s.xlat
  flips : t.flips = s.flips
  pscLive : ∀ i, i < 3 → t.rg .pscLive i = s.rg .pscLive i
  mirrorBase : t.rg .xlatMirrorBase = s.rg .xlatMirrorBase
  mirrorSize : t.rg .xlatMirrorSize = s.rg .xlatMirrorSize
  ftlStatus : t.rg .ftlStatus = s.rg .ftlStatus

namespace State.SameReach

variable {s t : State} (h : s.SameReach t)
include h

theorem channels : t.channels = s.channels := by
  refine List.filter_congr fun n hn => ?_
  have hn' : n < 96 := List.mem_range.mp hn
  simp only [State.bitOf3, h.pscLive (n / 32) (by omega), h.psram]

theorem channelOf (n : Nat) : t.channelOf n = s.channelOf n := by simp only [State.channelOf, h.channels]

theorem mirroredTiles : t.mirrorSize = s.mirrorSize := by
  have hSize := h.mirrorSize
  simp only [State.mirrorSize, State.rf, hSize]

theorem backed (pa : Nat) : t.backed pa = s.backed pa := by
  have hTiles : t.backedTiles = s.backedTiles := by simp only [State.backedTiles, h.channels, h.mirroredTiles]
  rw [State.backed, hTiles]
  rfl

theorem mirrored (pa : Nat) : t.mirrored pa = s.mirrored pa := by
  rw [State.mirrored, State.rf, h.mirrorBase, h.mirroredTiles]
  rfl

theorem lostTile (pa : Nat) : t.lostTile pa = s.lostTile pa := by simp only [State.lostTile, h.channelOf, h.psram]

theorem copyLives (pa : Nat) : t.copyLives pa = s.copyLives pa := by
  simp only [State.copyLives, State.copyChannel, h.mirrored, h.channels, h.psram]

theorem gone (pa : Nat) : t.gone pa = s.gone pa := by simp only [State.gone, h.lostTile, h.copyLives]

theorem retraining (pa : Nat) : t.retraining pa = s.retraining pa := by simp only [State.retraining, h.channelOf, h.psram]

theorem flashLost (pa : Nat) : t.flashLost pa = s.flashLost pa := by simp only [State.flashLost, h.ftl]

theorem eccBlock (pa : Nat) : t.eccBlock pa = s.eccBlock pa := by simp only [State.eccBlock, h.channelOf]

theorem tagAt (pa : Nat) : t.tagAt pa = s.tagAt pa := by simp only [State.tagAt, h.xlat]

theorem tagOutcome (v : Via) (pa : Nat) (write : Bool) : t.tagOutcome v pa write = s.tagOutcome v pa write := by
  rw [State.tagOutcome, State.tagOutcome, h.tagAt]

theorem leafOutcome (v : Via) (va leaf : Nat) (write : Bool) : t.leafOutcome v va leaf write = s.leafOutcome v va leaf write := by
  unfold State.leafOutcome
  dsimp only
  rw [h.backed, h.gone, h.eccBlock, h.tagOutcome, h.ftlStatus]

theorem mapped (stop c va : Nat) : t.mapped stop c va = s.mapped stop c va := by
  simp only [State.mapped, h.xlat, h.leafOutcome]

theorem sound {pa n : Nat} (hs : s.sound pa n) : t.sound pa n := by
  simpa only [State.sound, h.flips, h.gone, h.flashLost, h.lostTile] using hs

theorem sees {stop c va n : Nat} {bs : List Byte} (hMem : t.mem = s.mem) (hs : s.sees stop c va n bs) : t.sees stop c va n bs := by
  obtain ⟨hVa, hPage, pa, hMapped, hSound, hBytes⟩ := hs
  exact ⟨hVa, hPage, pa, (h.mapped stop c va).trans hMapped, h.sound hSound, by rw [State.peek, hMem]; exact hBytes⟩

end State.SameReach

/-- The registers that translation reads. -/
def reachRegs : List Nat :=
  [Reg.off .xlatMirrorBase 0 0, Reg.off .xlatMirrorSize 0 0, Reg.off .ftlStatus 0 0]

theorem State.sameReach_upd_reg (s : State) {o : Nat} (w : Word) (hLive : ∀ i, i < 3 → Reg.off .pscLive i 0 ≠ o) (h : o ∉ reachRegs) :
    s.SameReach (s.upd (.reg o w)) := by
  simp only [reachRegs, List.mem_cons, List.not_mem_nil, or_false, not_or] at h
  obtain ⟨hBase, hSize, hStatus⟩ := h
  exact ⟨rfl, rfl, rfl, rfl, fun i hi => State.rg_upd_reg_other _ _ _ _ _ _ (hLive i hi), State.rg_upd_reg_other _ _ _ _ _ _ (Ne.symm hBase),
    State.rg_upd_reg_other _ _ _ _ _ _ (Ne.symm hSize), State.rg_upd_reg_other _ _ _ _ _ _ (Ne.symm hStatus)⟩

theorem State.SameReach.trans {s t u : State} (h : s.SameReach t) (h' : t.SameReach u) : s.SameReach u :=
  ⟨h'.psram.trans h.psram, h'.ftl.trans h.ftl, h'.xlat.trans h.xlat, h'.flips.trans h.flips,
    fun i hi => (h'.pscLive i hi).trans (h.pscLive i hi), h'.mirrorBase.trans h.mirrorBase, h'.mirrorSize.trans h.mirrorSize,
    h'.ftlStatus.trans h.ftlStatus⟩

/-! ## Virtual reads -/

variable {s : State} {stop c va n pa : Nat} {bs : List Byte}

/-- A read that an entry lets proceed, for any outcomes of leaves: with those of the model in the place of `outcome` the kernel would
evaluate them. -/
theorem entry_of_mapped {o : Option TlbEntry} {outcome : Nat → Bool → Xl} (h : (match o with
    | some e =>
      match outcome e.leaf.toNat false with
      | .ok pa => some pa
      | _ => none
    | none => none) = some pa) : ∃ e, o = some e ∧ outcome e.leaf.toNat false = .ok pa := by
  split at h
  case h_2 => cases h
  case h_1 e =>
    split at h
    case h_2 => cases h
    case h_1 p hp => exact ⟨e, rfl, hp.trans (congrArg Xl.ok (Option.some.inj h))⟩

/-- What is mapped has an entry of the TLB, whose leaf lets a read proceed. -/
theorem State.mapped_entry (h : s.mapped stop c va = some pa) :
    ∃ e, s.xlat.tlb.find? (fun e => e.stop = stop && e.ctx = c && e.page = va / 65536) = some e ∧
      s.leafOutcome { ctx := c, stop } va e.leaf.toNat false = .ok pa :=
  entry_of_mapped (outcome := s.leafOutcome { ctx := c, stop } va) h

theorem translate_mapped (hVa : va < 2 ^ 48) (h : s.mapped stop c va = some pa) :
    (translate { ctx := c, stop } va false).Does s fun r t => r = .ok pa ∧ t = s := by
  obtain ⟨e, he, hp⟩ := State.mapped_entry h
  have hLeaf : (leafFor { ctx := c, stop } va).Does s fun r t => r = .leaf e.leaf.toNat e.entry ∧ t = s := by
    refine Act.Does.get_bind ?_
    simp only [he]
    exact Act.Does.pure ⟨rfl, rfl⟩
  unfold translate
  simp only [Via.viewOf, List.find?_nil]
  unfold translateFlat
  rw [if_neg (Nat.not_le.mpr hVa)]
  refine hLeaf.bind ?_
  rintro _ t ⟨rfl, rfl⟩
  refine Act.Does.get_bind ?_
  rw [hp]
  exact Act.Does.pure_bind (Act.Does.pure ⟨rfl, rfl⟩)

/-- A block that reads bytes it sees gets them without a wait. -/
theorem readVa_does (h : s.sees stop c va n bs) :
    (readVa { ctx := c, stop } va n).Does s fun r t => r = .bytes bs ∧ t = s := by
  obtain ⟨hVa, hPage, pa, hMapped, hSound, rfl⟩ := h
  have hFit : min n (65536 - va % 65536) = n := by omega
  have hRead : (readVaPage { ctx := c, stop } va n).Does s fun r t => r = .bytes (s.peek pa n) ∧ t = s := by
    refine (translate_mapped hVa hMapped).bind ?_
    rintro _ t ⟨rfl, rfl⟩
    refine (readTier_does pa n hSound).bind ?_
    rintro _ u ⟨rfl, rfl⟩
    exact Act.Does.pure ⟨rfl, rfl⟩
  unfold readVa
  rw [show n / 65536 + 2 = (n / 65536 + 1) + 1 from rfl, readVaFuel]
  simp only [hFit]
  refine hRead.bind ?_
  rintro _ u ⟨rfl, rfl⟩
  simp only [if_true]
  exact Act.Does.pure ⟨rfl, rfl⟩

end Sys2Proof.Machine

/-!
PROOF. Barges are submitted and issued (R228, R230, R232, R244).
-/
namespace Sys2Proof.Machine

variable {s : State} {who : Who} {c va : Nat}

theorem sameReach_bargeDesc (s : State) (who : Who) (v w : Word) :
    s.SameReach ((s.upd (.reg (Reg.off .bargeDescLo who.val 0) v)).upd (.reg (Reg.off .bargeDescHi who.val 0) w)) := by
  have hWho : who.val < 9 := who.isLt
  refine (s.sameReach_upd_reg v (fun i hi => ?_) ?_).trans (State.sameReach_upd_reg _ w (fun i hi => ?_) ?_)
  all_goals
    simp [Reg.off, Reg.row, reachRegs]
    omega

theorem State.upd_channel_eq (s : State) (n : Nat) (l : List Barge) :
    s.upd (.channel n l) = { s with chanQueues := s.chanQueues.put n l } := rfl

theorem State.upd_serve_eq (s : State) (n : Nat) : s.upd (.serve n) = { s with served := n } := rfl

theorem State.upd_fly_eq (s : State) (slot : Nat) (b : Barge) :
    s.upd (.fly slot b) = { s with flying := s.flying.put slot b } := rfl

theorem State.upd_waits_eq (s : State) (ws : List LWait) : s.upd (.waits ws) = { s with waits := ws } := rfl

theorem State.quiet_upd_waits (s : State) (ws : List LWait) : (s.upd (.waits ws)).quiet = s.quiet := rfl

/-- A wait that is neither poisoned nor over enters the table. -/
theorem issueWait_waits {w : LWait} (hPoison : (s.lockAt w.lock).poisoned = false)
    (hReached : reached (s.lockAt w.lock).level w.target = false) :
    (issueWait w).Does s fun r t => r = none ∧ t = s.upd (.waits (s.waits ++ [w])) := by
  refine Act.Does.get_bind (Act.Does.ite (fun h => absurd h (by simp [hPoison])) fun _ =>
    Act.Does.ite (fun h => absurd h (by simp [hReached])) fun _ => Act.Does.make_bind (Act.Does.pure ⟨rfl, rfl⟩))

theorem bargeSubmit_does {b : List Byte} (hc : c < 1024) (hTakes : s.takes who .bargeSubmit who.val)
    (hLive : (s.ctx c).st ≠ .free) (hLine : va % 64 = 0) (hSees : s.sees Stop.barge c va 64 b) :
    s.does (.bargeSubmit who c va) fun t => t = { s with chanQueues := t.chanQueues, regs := t.regs, bus := t.bus } ∧
      t.chanQueues.at (channelFor c) [] =
        s.chanQueues.at (channelFor c) [] ++ [{ ctx := c, desc := BDesc.ofBytes b, who := some who }] ∧
      t.rf .bargeStatus who.val 7 0 = Code.ok ∧ t.answered who Code.ok := by
  refine State.does_of rfl (command_does hTakes (Act.Does.reg_bind (Act.Does.reg_bind ?_)))
  rw [Nat.mod_eq_of_lt hc]
  set u := (s.upd (.reg (Reg.off .bargeDescLo who.val 0) (Word.ofNat va))).upd
    (.reg (Reg.off .bargeDescHi who.val 0) (Word.ofNat (va / 2 ^ 32 % 2 ^ 16)))
  have hAccept : (acceptBarge who c va).Does u fun r t => r = true ∧
      t = { u with chanQueues := t.chanQueues, regs := t.regs } ∧ t.chanQueues.at (channelFor c) [] =
        u.chanQueues.at (channelFor c) [] ++ [{ ctx := c, desc := BDesc.ofBytes b, who := some who }] ∧
      t.rf .bargeStatus who.val 7 0 = Code.ok := by
    refine (readVa_does ((sameReach_bargeDesc s who _ _).sees rfl hSees)).bind ?_
    rintro _ t ⟨rfl, rfl⟩
    refine Act.Does.get_bind (Act.Does.make_bind (Act.Does.regField_bind (Act.Does.pure ⟨rfl, rfl, ?_, ?_⟩)))
    · rw [State.upd_chanQueues _ _ rfl, State.upd_channel_chanQueues, Sparse.at_put_same]
    · exact State.rf_setField_same _ (by decide)
  have hOk : u.acceptable c va = true := by
    have hState : (u.ctx c).st ≠ .free := hLive
    simp [State.acceptable, hState, hLine]
  refine Act.Does.get_bind (Act.Does.ite (fun hNot => absurd hNot (by simp [hOk])) fun _ => hAccept.bind ?_)
  rintro _ t ⟨rfl, hSame, hQueue, hStatus⟩
  refine Act.Does.ite (fun h => absurd h (by decide)) fun _ => Act.Does.pure ⟨?_, hQueue, hStatus, by simp⟩
  rw [hSame]
  rfl

section
variable {n : Fin 64} {b : Barge} {rest : List Barge} {slot : Nat}

/-- Channel `n` serves `b` next, from a free slot. -/
theorem nextBarge_of_head (hServes : s.serves = true) (hQueue : s.chanQueues.at n.val [] = b :: rest)
    (hSlot : s.freeSlot n.val = some slot) (hRing : (s.ctx b.ctx).ring.isFull (s.ctx b.ctx).desc.ringK = false)
    (hHeld : (s.ctx b.ctx).ring.held = []) : s.nextBarge n.val = some (b, slot) := by
  simp [State.nextBarge, hQueue, hSlot, hServes, hRing, hHeld]

theorem remote_of_dkind {d : BDesc} (h : d.dkind ≠ 3) : s.remote d = false := by simp [State.remote, h]

/-- The device once channel `n` has been served. -/
def State.channelServed (s : State) (n : Nat) (rest : List Barge) : State := (s.upd (.channel n rest)).upd (.serve n)

theorem channelServed_waits (b b' : Barge) (ws : List LWait) :
    (((s.channelServed n.val rest).upd (.fly slot b)).upd (.fly slot b')).upd (.waits ws) =
      { s with chanQueues := s.chanQueues.put n.val rest, served := n.val, flying := (s.flying.put slot b).put slot b',
               waits := ws } := by
  rw [State.channelServed, State.upd_channel_eq, State.upd_serve_eq, State.upd_fly_eq, State.upd_fly_eq, State.upd_waits_eq]

theorem bargeIssue_does {Q : State → Prop} (hCalm : s.calm = true) (hNext : s.nextBarge n.val = some (b, slot))
    (hQueue : s.chanQueues.at n.val [] = b :: rest) (hFirst : s.servedFirst n.val b = true)
    (h : (issueBarge slot b).Does (s.channelServed n.val rest) fun _ t => Q t ∧ t.quiet = true) :
    s.does (.bargeIssue n) Q := by
  obtain ⟨hOnTime, -⟩ := State.calm_iff.mp hCalm
  refine State.does_of rfl (settled_does hOnTime (Act.Does.get_bind ?_))
  simp only [hNext, hFirst, if_true, hQueue, List.erase_cons_head]
  exact Act.Does.make_bind (Act.Does.make_bind h)

/-- A barge whose wait has not ended leaves nothing to settle in flight. -/
theorem quiet_issued {u : State} (hu : u.quiet = true) (hCode : b.waitCode = none) (d : Option Nat) :
    (u.upd (.fly slot { b with deadline := d })).quiet = true := by
  refine State.quiet_upd_fly hu ?_
  exact hCode

theorem quiet_waiting {u : State} (hu : u.quiet = true) (hCode : b.waitCode = none) (d : Option Nat) (ws : List LWait) :
    (((u.upd (.fly slot { b with deadline := d })).upd (.fly slot { b with deadline := d, waiting := true })).upd (.waits ws)).quiet
      = true := by
  have hIssued := quiet_issued (slot := slot) hu hCode d
  rw [State.quiet_upd_waits]
  refine State.quiet_upd_fly hIssued ?_
  exact hCode

theorem issueBarge_go {u : State} (hCheck : u.bargeCheck b = none) (hKind : b.desc.dkind ≠ 3) (hWait : b.desc.waitEn = false) :
    (issueBarge slot b).Does u fun _ t => t = u.upd (.fly slot { b with deadline := u.deadline b.desc.tmo }) := by
  have hCheck' : u.bargeCheck { b with deadline := u.deadline b.desc.tmo } = none := hCheck
  refine Act.Does.get_bind (Act.Does.make_bind ?_)
  simp only [hCheck', remote_of_dkind hKind, hWait, Bool.false_and, Bool.false_eq_true, if_false]
  exact Act.Does.pure rfl

theorem issueBarge_waits {u : State} (hCheck : u.bargeCheck b = none) (hKind : b.desc.dkind ≠ 3) (hWait : b.desc.waitEn = true)
    (hPoison : (u.lockAt b.desc.waitLock).poisoned = false)
    (hReached : reached (u.lockAt b.desc.waitLock).level b.desc.waitT = false) :
    (issueBarge slot b).Does u fun _ t =>
      t = ((u.upd (.fly slot { b with deadline := u.deadline b.desc.tmo })).upd
        (.fly slot { b with deadline := u.deadline b.desc.tmo, waiting := true })).upd
        (.waits (u.waits ++ [{ waiter := .barge slot, lock := b.desc.waitLock, target := b.desc.waitT,
                               deadline := u.deadline b.desc.tmo }])) := by
  have hCheck' : u.bargeCheck { b with deadline := u.deadline b.desc.tmo } = none := hCheck
  refine Act.Does.get_bind (Act.Does.make_bind ?_)
  simp only [hCheck', remote_of_dkind hKind, hWait, Bool.false_and, Bool.false_eq_true, if_false, if_true]
  refine Act.Does.make_bind ((issueWait_waits ?_ ?_).bind fun r t ht => ?_)
  · simpa using hPoison
  · simpa using hReached
  obtain ⟨rfl, rfl⟩ := ht
  exact Act.Does.pure rfl

end

/-- Settles O27: the descriptor read is queued; the head of a served channel goes in flight, or waits for its Lock. -/
theorem bargesAreSubmittedAndIssued : Obligations.BargesAreSubmittedAndIssued := by
  refine ⟨fun s who c va b hc hTakes hLive hLine hSees => bargeSubmit_does hc hTakes hLive hLine hSees, ?_⟩
  intro s n b rest slot hCalm hServes hQueue hSlot hRing hHeld hCheck hKind hCode
  have hNext := nextBarge_of_head hServes hQueue hSlot hRing hHeld
  obtain ⟨hOnTime, hQuiet⟩ := State.calm_iff.mp hCalm
  have hServed : (s.channelServed n.val rest).quiet = true := hQuiet
  have hCheck' : (s.channelServed n.val rest).bargeCheck b = none := hCheck
  refine ⟨fun hLater => ?_, fun hFirst hWait => ?_, fun hFirst hWait hPoison hReached => ?_⟩
  · refine State.does_of rfl (settled_does hOnTime (Act.Does.get_bind ?_))
    simp only [hNext, hLater, Bool.false_eq_true, if_false]
    exact Act.Does.pure ⟨rfl, hQuiet⟩
  · refine bargeIssue_does hCalm hNext hQueue hFirst ((issueBarge_go hCheck' hKind hWait).mono fun _ t ht => ?_)
    have hQuiet' := quiet_issued (slot := slot) hServed hCode ((s.channelServed n.val rest).deadline b.desc.tmo)
    subst ht
    exact ⟨rfl, hQuiet'⟩
  · refine bargeIssue_does hCalm hNext hQueue hFirst ((issueBarge_waits hCheck' hKind hWait hPoison hReached).mono fun _ t ht => ?_)
    have hQuiet' := quiet_waiting (slot := slot) hServed hCode ((s.channelServed n.val rest).deadline b.desc.tmo)
    simp only [channelServed_waits] at ht hQuiet'
    subst ht
    refine ⟨⟨rfl, ?_, rfl⟩, hQuiet' _⟩
    exact Sparse.find_put_same _ _ _

end Sys2Proof.Machine

/-!
PROOF. The SECDED code (R501): its syndrome is linear, each bit has a syndrome of its own, and each is of odd parity.
-/
namespace Sys2Proof.Machine

/-! ## Linearity -/

theorem foldl_bne (f g : Nat → Bool) (l : List Nat) (a b : Bool) :
    l.foldl (fun p i => p != (f i ^^ g i)) (a ^^ b) = ((l.foldl (fun p i => p != f i) a) ^^ l.foldl (fun p i => p != g i) b) := by
  induction l generalizing a b with
  | nil => rfl
  | cons i l ih =>
    have hStep : ((a ^^ b) != (f i ^^ g i)) = ((a != f i) ^^ (b != g i)) := by cases a <;> cases b <;> cases f i <;> cases g i <;> rfl
    rw [List.foldl_cons, List.foldl_cons, List.foldl_cons, hStep, ih]

theorem parity_xor {w : Nat} (x y : BitVec w) : parity (x ^^^ y) = (parity x ^^ parity y) := by
  simpa [parity, flag] using foldl_bne (flag x) (flag y) (List.range w) false false

theorem foldl_check (f g : Nat → Bool) (l : List Nat) (a b : BitVec 7) :
    l.foldl (fun c i => if (f i ^^ g i) = true then c ^^^ BitVec.ofNat 7 (Ecc.position i) else c) (a ^^^ b) =
      l.foldl (fun c i => if f i = true then c ^^^ BitVec.ofNat 7 (Ecc.position i) else c) a ^^^
      l.foldl (fun c i => if g i = true then c ^^^ BitVec.ofNat 7 (Ecc.position i) else c) b := by
  induction l generalizing a b with
  | nil => rfl
  | cons i l ih =>
    rw [List.foldl_cons, List.foldl_cons, List.foldl_cons, ← ih]
    congr 1
    generalize BitVec.ofNat 7 (Ecc.position i) = p
    cases f i <;> cases g i
    · simp
    · simp [BitVec.xor_assoc]
    · simp only [Bool.xor_false, Bool.false_eq_true, if_true, if_false]
      ac_rfl
    · have hTwice : a ^^^ p ^^^ (b ^^^ p) = a ^^^ b := by
        rw [BitVec.xor_assoc, BitVec.xor_comm b p, ← BitVec.xor_assoc p p b, BitVec.xor_self, BitVec.zero_xor]
      simp [hTwice]

theorem check_xor (x y : BitVec 64) : Ecc.check (x ^^^ y) = Ecc.check x ^^^ Ecc.check y := by
  simpa [Ecc.check, flag] using foldl_check (flag x) (flag y) (List.range 64) 0 0

theorem syndrome_xor (x y : BitVec 72) : Ecc.syndrome (x ^^^ y) = Ecc.syndrome x ^^^ Ecc.syndrome y := by
  simp only [Ecc.syndrome, parity_xor, BitVec.extractLsb'_xor, check_xor]
  generalize Ecc.check (x.extractLsb' 0 64) = a
  generalize Ecc.check (y.extractLsb' 0 64) = b
  generalize x.extractLsb' 64 7 = c
  generalize y.extractLsb' 64 7 = e
  have hLow : a ^^^ b ^^^ (c ^^^ e) = a ^^^ c ^^^ (b ^^^ e) := by ac_rfl
  have hTop : BitVec.ofBool (parity x ^^ parity y) = BitVec.ofBool (parity x) ^^^ BitVec.ofBool (parity y) := by
    cases parity x <;> cases parity y <;> rfl
  rw [hLow, hTop, BitVec.xor_append]

/-! ## Codewords -/

theorem flag_top (p : Bool) (c : BitVec 71) (i : Nat) :
    flag (BitVec.ofBool p ++ c : BitVec 72) i = if i < 71 then flag c i else (BitVec.ofBool p).getLsbD (i - 71) :=
  BitVec.getLsbD_append

theorem flag_encode (d : BitVec 64) {i : Nat} (hi : i < 71) :
    (Ecc.encode d).getLsbD i = if i < 64 then d.getLsbD i else (Ecc.check d).getLsbD (i - 64) :=
  (flag_top _ _ i).trans ((if_pos hi).trans BitVec.getLsbD_append)

theorem data_encode (d : BitVec 64) : (Ecc.encode d).extractLsb' 0 64 = d := by
  refine BitVec.eq_of_getLsbD_eq fun i hi => ?_
  rw [BitVec.getLsbD_extractLsb', flag_encode d (by omega), Nat.zero_add, if_pos hi, decide_eq_true hi, Bool.true_and]

theorem stored_encode (d : BitVec 64) : (Ecc.encode d).extractLsb' 64 7 = Ecc.check d := by
  refine BitVec.eq_of_getLsbD_eq fun i hi => ?_
  rw [BitVec.getLsbD_extractLsb', flag_encode d (by omega), if_neg (by omega), Nat.add_sub_cancel_left, decide_eq_true hi,
    Bool.true_and]

/-- The parity of a codeword, of its first 71 bits and its last. -/
theorem parity_of_bits {w : BitVec 72} {c : BitVec 71} (hLow : ∀ i < 71, flag w i = flag c i) :
    parity w = (parity c ^^ flag w 71) := by
  have hFold (l : List Nat) (hl : ∀ i ∈ l, i < 71) (b : Bool) :
      l.foldl (fun q i => q != flag w i) b = l.foldl (fun q i => q != flag c i) b := by
    induction l generalizing b with
    | nil => rfl
    | cons i l ih =>
      rw [List.foldl_cons, List.foldl_cons, hLow i (hl i List.mem_cons_self), ih fun j hj => hl j (List.mem_cons_of_mem _ hj)]
  unfold parity
  rw [List.range_succ, List.foldl_append, hFold _ (fun i hi => List.mem_range.mp hi), List.foldl_cons, List.foldl_nil]

theorem syndrome_encode (d : BitVec 64) : Ecc.syndrome (Ecc.encode d) = 0 := by
  have hParity : parity (Ecc.encode d) = false := by
    rw [parity_of_bits (w := Ecc.encode d) fun i hi => (flag_top _ _ i).trans (if_pos hi), Ecc.encode, flag_top,
      if_neg (by decide)]
    simp
  simp [Ecc.syndrome, hParity, data_encode, stored_encode]

/-! ## Single bits -/

/-- Each bit of the codeword is named by its syndrome, which has the parity bit set. -/
theorem decode_bit : ∀ b < 72, Ecc.decode (Ecc.syndrome (BitVec.ofNat 72 (2 ^ b))) = .corrected b ∧
    flag (Ecc.syndrome (BitVec.ofNat 72 (2 ^ b))) 7 = true := by
  decide +kernel

theorem syndrome_read (d : BitVec 64) (f : BitVec 72) : Ecc.syndrome (Ecc.encode d ^^^ f) = Ecc.syndrome f := by
  rw [syndrome_xor, syndrome_encode]
  exact BitVec.zero_xor

theorem read_found (d : BitVec 64) (f : BitVec 72) : (Ecc.read d f).2.1 = Ecc.decode (Ecc.syndrome f) := by
  simp only [Ecc.read, syndrome_read]
  split <;> simp [*]

theorem two_pow_add {a b : Nat} (h : a < b) : BitVec.ofNat 72 (2 ^ a + 2 ^ b) = BitVec.ofNat 72 (2 ^ a) ^^^ BitVec.ofNat 72 (2 ^ b) := by
  have hNat : 2 ^ a + 2 ^ b = 2 ^ a ^^^ 2 ^ b := by
    refine Nat.eq_of_testBit_eq fun i => ?_
    have hOr : 2 ^ a + 2 ^ b = 2 ^ b ||| 2 ^ a := by
      have := Nat.two_pow_add_eq_or_of_lt (Nat.pow_lt_pow_right (by decide) h : 2 ^ a < 2 ^ b) 1
      rw [Nat.mul_one] at this
      omega
    rw [hOr, Nat.testBit_or, Nat.testBit_xor, Nat.testBit_two_pow, Nat.testBit_two_pow]
    by_cases hi : a = i
    · have : b ≠ i := by omega
      simp [hi, this]
    · simp [hi]
  rw [hNat, BitVec.ofNat_xor]

/-- Two bits leave a syndrome that is not zero and whose parity bit is clear. -/
theorem decode_bits {a b : Nat} (h : a < b) (hb : b < 72) :
    Ecc.decode (Ecc.syndrome (BitVec.ofNat 72 (2 ^ a + 2 ^ b))) = .uncorrectable := by
  obtain ⟨hA, hFlagA⟩ := decode_bit a (by omega)
  obtain ⟨hB, hFlagB⟩ := decode_bit b hb
  rw [two_pow_add h, syndrome_xor]
  have hNe : Ecc.syndrome (BitVec.ofNat 72 (2 ^ a)) ^^^ Ecc.syndrome (BitVec.ofNat 72 (2 ^ b)) ≠ 0 := fun hZero => by
    have hSame := BitVec.xor_eq_zero_iff.mp hZero
    rw [hSame, hB] at hA
    cases hA
    omega
  have hEven : flag (Ecc.syndrome (BitVec.ofNat 72 (2 ^ a)) ^^^ Ecc.syndrome (BitVec.ofNat 72 (2 ^ b))) 7 = false := by
    rw [flag] at hFlagA hFlagB ⊢
    rw [BitVec.getLsbD_xor, hFlagA, hFlagB]
    rfl
  simp only [Ecc.decode, if_neg hNe, hEven, Bool.false_eq_true, if_false]

/-- The data bits of an inverted bit. -/
theorem data_bit : ∀ b < 72, (BitVec.ofNat 72 (2 ^ b)).extractLsb' 0 64 = if b < 64 then ((1 <<< b : Nat) : BitVec 64) else (0 : BitVec 64) := by
  decide +kernel

theorem read_bit (d : BitVec 64) {b : Nat} (hb : b < 72) : Ecc.read d (BitVec.ofNat 72 (2 ^ b)) =
    (d, .corrected b, Ecc.syndrome (BitVec.ofNat 72 (2 ^ b))) := by
  simp only [Ecc.read, syndrome_read, (decode_bit b hb).1, BitVec.extractLsb'_xor, data_encode, data_bit b hb]
  by_cases h : b < 64
  · simp only [if_pos h, BitVec.xor_assoc, BitVec.xor_self]
    rw [BitVec.xor_zero]
  · simp only [if_neg h]
    rw [BitVec.ofNat_eq_ofNat, BitVec.xor_zero]

theorem read_clean (d : BitVec 64) : (Ecc.read d 0).1 = d ∧ (Ecc.read d 0).2.1 = .clean := by
  have hFound : Ecc.decode (Ecc.syndrome 0) = .clean := by decide +kernel
  have hData : (Ecc.encode d ^^^ 0).extractLsb' 0 64 = d := by
    rw [BitVec.ofNat_eq_ofNat, BitVec.xor_zero, data_encode]
  refine ⟨?_, (read_found d 0).trans hFound⟩
  simp only [Ecc.read, syndrome_read, hFound, hData]

/-- Settles O56, by the linear syndrome and the syndrome of each bit. -/
theorem oneBitIsCorrectedAndTwoAreFound : Obligations.OneBitIsCorrectedAndTwoAreFound :=
  fun d => ⟨read_clean d, fun b hb => ⟨by rw [read_bit d hb], by rw [read_bit d hb]⟩,
    fun a b h hb => (read_found d _).trans (decode_bits h hb)⟩

end Sys2Proof.Machine

/-!
PROOF. The end of fabric work, the records of the host ring, and the retirement of links and units (R24, R25, R461 to R464).
-/
namespace Sys2Proof.Machine

variable {s t : State} {l : List Fld} {o : Nat}

/-! ## Only a record -/

/-- An update within the fields listed. -/
theorem State.SameBut.upd {u : Upd} (h : s.SameBut l t) (hu : ∀ f ∈ u.fields, f ∈ l) : s.SameBut l (t.upd u) :=
  fun f hf => (t.fld_upd u f (Upd.writes_eq_false_of_not_mem fun hIn => hf (hu f hIn))).trans (h f hf)

theorem State.SameBut.of_upd {u : Upd} (h : (s.upd u).SameBut l t) (hu : ∀ f ∈ u.fields, f ∈ l) : s.SameBut l t :=
  ((State.SameBut.refl l s).upd hu).trans h

theorem onlyRecorded_of_sameBut (h : s.SameBut [.faults, .regs, .sdio, .freeCount] t)
    (hSeq : t.faults.seq = (s.faults.seq + 1) % 2 ^ 32) : onlyRecorded s t := by
  refine ⟨State.ext_fld fun f => ?_, hSeq⟩
  cases f with
  | faults | regs | sdio | freeCount => rfl
  | _ => exact h _ (by decide)

/-- A register is written, then a record made. -/
theorem State.Recorded.onlyRecorded_of_reg {w : Word} (h : (s.upd (.reg o w)).Recorded t) : onlyRecorded s t := by
  refine onlyRecorded_of_sameBut (fun f hf => ?_) h.seq
  have hReg : f ∉ (Upd.reg o w).fields := fun hReg => hf (by simp [List.mem_singleton.mp hReg])
  exact (h.1 f fun hOld => hf (List.mem_append_left [.freeCount] hOld : f ∈ [.faults, .regs, .sdio] ++ [.freeCount])).trans
    (s.fld_upd _ f (Upd.writes_eq_false_of_not_mem hReg))

/-! ## The end of fabric work -/

theorem ctx_kern_none (h : noKernels s) (c : Nat) : (s.ctx c).kern = none := by
  cases hFind : s.ctxs.find c with
  | none => simp [State.ctx, Sparse.at, hFind]
  | some x => simpa [State.ctx, Sparse.at, hFind] using h _ (Sparse.mem_of_find hFind)

theorem noKernels_of_ctxs (h : noKernels s) (hCtxs : t.ctxs = s.ctxs) : noKernels t := fun x hx => h x (hCtxs ▸ hx)

theorem chargeStalls_idle {c : Nat} (h : (s.ctx c).kern = none) : (chargeStalls c).Does s fun _ t => t = s :=
  Act.Does.get_bind ((Act.Does.emptyLoop (by simp [h])).mono fun _ _ ht => ht.2)

/-- The fields in which an engine becomes free. -/
def freeFields : List Fld := [.engines, .therm, .regs]

theorem writes_setTarget (e n : Nat) (h : Fld.regs ∈ l) : (setTarget e n).Writes l :=
  writes_get_bind fun _ => writes_bind (writes_regField _ _ _ _ _ h) fun _ => writes_regField _ _ _ _ _ h

theorem writes_freeEngine (e : Nat) (h : freeFields ⊆ l) : (freeEngine e).Writes l := by
  have hRegs : Fld.regs ∈ l := h (by decide)
  have hEngines : Fld.engines ∈ l := h (by decide)
  have hTherm : Fld.therm ∈ l := h (by decide)
  exact writes_get_bind fun s => writes_make_bind (by simp [hEngines])
    (writes_ite (writes_make_bind (by simp [hTherm]) (writes_setTarget e _ hRegs)) writes_nothing)

theorem writes_leaveMask (c m : Nat) (h : Fld.casc ∈ l) : (leaveMask c m).Writes l :=
  writes_get_bind fun s => writes_ite (by simp [h]) writes_nothing

/-- The fields written at the end of fabric work where no kernel is held. -/
def fabricFields : List Fld := [.fabricEnded, .engines, .therm, .regs, .casc]

theorem keepsReg_setTarget (e n : Nat) (h : o ≠ Reg.off .engFclk e 0) : (setTarget e n).KeepsReg o :=
  keepsReg_get_bind fun _ => keepsReg_bind (keepsReg_regField _ _ _ h) fun _ => keepsReg_regField _ _ _ h

theorem keepsReg_freeEngine (e : Nat) (h : o ≠ Reg.off .engFclk e 0) : (freeEngine e).KeepsReg o :=
  keepsReg_get_bind fun _ => keepsReg_bind (keepsReg_make rfl) fun _ =>
    keepsReg_ite (keepsReg_bind (keepsReg_make rfl) fun _ => keepsReg_setTarget e _ h) keepsReg_nothing

/-- What the end of fabric work does where no kernel is held. -/
structure State.FabricEnd (s t : State) : Prop where
  ended : t.fabricEnded = true
  same : s.SameBut fabricFields t
  regs : ∀ o, (∀ e, o ≠ Reg.off .engFclk e 0) → t.regs.find o = s.regs.find o

theorem State.FabricEnd.quiet (h : s.FabricEnd t) (hs : s.quiet = true) : t.quiet = true :=
  (State.quiet_of_sameBut h.same (by decide)).trans hs

/-- A step that is no part of the end itself. -/
theorem State.FabricEnd.tail {α : Type} {x : Act α} {u : State} (h : s.FabricEnd t) (hWrites : x.Writes (freeFields ++ [.casc]))
    (hKeeps : ∀ o, (∀ e, o ≠ Reg.off .engFclk e 0) → x.KeepsReg o) (hRun : x.Gives t fun _ v => v = u) : s.FabricEnd u := by
  obtain ⟨a, v, rfl, hRun⟩ := hRun
  have hSame := (hWrites.does t).of_run hRun
  exact ⟨(hSame .fabricEnded (by decide)).trans h.ended, h.same.trans (hSame.mono (by decide)),
    fun o ho => ((hKeeps o ho t).of_run hRun).trans (h.regs o ho)⟩

theorem State.FabricEnd.tail_does {α : Type} {x : Act α} (h : s.FabricEnd t) (hWrites : x.Writes (freeFields ++ [.casc]))
    (hKeeps : ∀ o, (∀ e, o ≠ Reg.off .engFclk e 0) → x.KeepsReg o) : x.Does t fun _ u => s.FabricEnd u := by
  obtain ⟨a, u, _, hRun⟩ := hWrites t
  exact fun k => ⟨a, u, h.tail hWrites hKeeps ⟨a, u, rfl, hRun⟩, hRun k⟩

theorem endFabric_does (h : noKernels s) (block link : Nat) : (endFabric block link).Does s fun _ t => s.FabricEnd t := by
  refine Act.Does.get_bind (Act.Does.ite (fun _ => ?_) fun hEnded => Act.Does.pure ⟨by simpa using hEnded, .refl _ _, fun _ _ => rfl⟩)
  have hEnd : s.FabricEnd (s.upd .fabricEnd) := ⟨rfl, fun f hf => s.fld_upd _ f
    (Upd.writes_eq_false_of_not_mem fun hE => hf (List.mem_singleton.mp hE ▸ by decide)), fun _ _ => rfl⟩
  refine Act.Does.make_bind ((Act.Does.idleLoop _ fun x _ => ?_).bind fun _ t ht => ht.2 ▸ ?_)
  · have hKern : ((s.upd .fabricEnd).ctx x.1).kern = none := ctx_kern_none h x.1
    refine Act.Does.after_idle (chargeStalls_idle hKern) (Act.Does.get_bind ?_)
    rw [hKern]
    exact Act.Does.pure ⟨rfl, rfl⟩
  · have hFree : (forIn (List.range 8) PUnit.unit fun e _ => do freeEngine e; pure (ForInStep.yield PUnit.unit) : Act PUnit).Writes
        (freeFields ++ [.casc]) :=
      writes_forIn (fun e _ => writes_bind (writes_freeEngine e (by decide)) fun _ => writes_pure _) _ _
    refine (hEnd.tail_does hFree fun o ho =>
      keepsReg_forIn (fun e _ => keepsReg_bind (keepsReg_freeEngine e (ho e)) fun _ => keepsReg_pure _) _ _).bind fun _ u hu => ?_
    refine hu.tail_does ?_ fun o _ => ?_
    · exact writes_forIn (fun x _ => writes_ite (writes_bind (writes_leaveMask _ _ (by decide)) fun _ => writes_pure _) (writes_pure _)) _ _
    · refine keepsReg_forIn (fun x _ => keepsReg_ite (keepsReg_bind ?_ fun _ => keepsReg_pure _) (keepsReg_pure _)) _ _
      exact keepsReg_of_writes (writes_leaveMask _ _ (by decide : Fld.casc ∈ [Fld.casc])) (by decide)

/-! ## The records of the host ring -/

/-- The fields a record of the host ring, or of the fault logger, may write. -/
def hostFields : List Fld := [.sdio, .faults, .regs]

theorem writes_hostWrite (r : CRec) : (hostWrite r).Writes hostFields :=
  writes_get_bind fun _ => writes_make_bind (by simp [hostFields]) (writes_make_bind (by simp [hostFields])
    (writes_regField _ _ _ _ _ (by decide)))

theorem writes_hostComplete (slot : Nat) (r : CRec) : (hostComplete slot r).Writes hostFields :=
  writes_get_bind fun _ => writes_ite (writes_make (by simp [hostFields])) (writes_hostWrite r)

theorem keepsReg_hostWrite (r : CRec) (h : o ∉ recordRegs) : (hostWrite r).KeepsReg o :=
  keepsReg_get_bind fun _ => keepsReg_bind (keepsReg_make rfl) fun _ => keepsReg_bind (keepsReg_make rfl) fun _ =>
    keepsReg_regField _ _ _ fun e => h (e ▸ by simp [recordRegs])

theorem keepsReg_hostComplete (slot : Nat) (r : CRec) (h : o ∉ recordRegs) : (hostComplete slot r).KeepsReg o :=
  keepsReg_get_bind fun _ => keepsReg_ite (keepsReg_make rfl) (keepsReg_hostWrite r h)

/-- The code a command ends with. -/
def State.endCode (s : State) (slot : Nat) (r : Reply) : Nat :=
  if r.code = Code.ok && (match s.sdio.cmds.find? (fun (m : MbCmd) => m.slot = slot) with
    | some m => decide (m.deadline = some s.ns)
    | none => false) then Code.okAtDeadline else r.code

theorem State.endCode_ne_faultEcc {r : Reply} (h : r.code ≠ Code.faultEcc) (s : State) (slot : Nat) :
    s.endCode slot r ≠ Code.faultEcc := by
  unfold State.endCode
  by_cases hLate : (r.code = Code.ok && (match s.sdio.cmds.find? (fun (m : MbCmd) => m.slot = slot) with
    | some m => decide (m.deadline = some s.ns)
    | none => false)) = true
  · rw [if_pos hLate]
    decide
  · rw [if_neg hLate]
    exact h

theorem writes_ite_not {α : Type} {p : Prop} [Decidable p] {x y : Act α} (hp : ¬p) (hy : y.Writes l) :
    (if p then x else y).Writes l := by rwa [if_neg hp]

theorem keepsReg_ite_not {α : Type} {p : Prop} [Decidable p] {x y : Act α} (hp : ¬p) (hy : y.KeepsReg o) :
    (if p then x else y).KeepsReg o := by rwa [if_neg hp]

theorem writes_finish {r : Reply} (slot : Nat) (h : r.code ≠ Code.faultEcc) : (finish slot r).Writes hostFields := by
  refine writes_get_bind fun s => writes_make_bind (by simp [hostFields]) ?_
  extract_lets c tag idx record base done rest
  have hDone (i : Nat) : (done () i).Writes hostFields := writes_hostComplete _ _
  have hRest : (rest ()).Writes hostFields := by
    refine writes_ite (writes_bind (writes_fault _ (by decide) (by decide) (by decide)) fun seq => ?_) (hDone 0)
    exact writes_ite_not (fun hEcc => State.endCode_ne_faultEcc h s slot (of_decide_eq_true (Bool.and_eq_true_iff.mp hEcc).1)) (hDone _)
  exact writes_ite (writes_make_bind (by simp [hostFields]) hRest) hRest

theorem keepsReg_finish {r : Reply} (slot : Nat) (h : r.code ≠ Code.faultEcc) (ho : o ∉ recordRegs) :
    (finish slot r).KeepsReg o := by
  refine keepsReg_get_bind fun s => keepsReg_bind (keepsReg_make rfl) fun _ => ?_
  extract_lets c tag idx record base done rest
  have hDone (i : Nat) : (done () i).KeepsReg o := keepsReg_hostComplete _ _ ho
  have hRest : (rest ()).KeepsReg o := by
    refine keepsReg_ite (keepsReg_bind (keepsReg_fault ho _) fun seq => ?_) (hDone 0)
    exact keepsReg_ite_not (fun hEcc => State.endCode_ne_faultEcc h s slot (of_decide_eq_true (Bool.and_eq_true_iff.mp hEcc).1)) (hDone _)
  exact keepsReg_ite (keepsReg_bind (keepsReg_make rfl) fun _ => hRest) hRest

theorem writes_turnAway : ∀ n, (turnAway n).Writes hostFields
  | 0 => writes_nothing
  | n + 1 => by
    have hNext {x : Act Unit} (hx : x.Writes hostFields) : (x >>= fun _ => turnAway n).Writes hostFields :=
      writes_bind hx fun _ => writes_turnAway n
    refine writes_get_bind fun s => writes_ite ?_ writes_nothing
    split
    · refine writes_ite (hNext (writes_finish _ (by decide))) (writes_ite (hNext (writes_finish _ ?_)) (hNext (writes_finish _ ?_)))
      · decide
      · decide
    · exact writes_make (by simp [hostFields])

theorem keepsReg_turnAway (ho : o ∉ recordRegs) : ∀ n, (turnAway n).KeepsReg o
  | 0 => keepsReg_nothing
  | n + 1 => by
    have hNext {x : Act Unit} (hx : x.KeepsReg o) : (x >>= fun _ => turnAway n).KeepsReg o :=
      keepsReg_bind hx fun _ => keepsReg_turnAway ho n
    refine keepsReg_get_bind fun s => keepsReg_ite ?_ keepsReg_nothing
    split
    · refine keepsReg_ite (hNext (keepsReg_finish _ ?_ ho)) (keepsReg_ite (hNext (keepsReg_finish _ ?_ ho)) (hNext (keepsReg_finish _ ?_ ho)))
      · decide
      · decide
      · decide
    · exact keepsReg_make rfl

theorem writes_failCommitted (block : Nat) : (failCommitted block).Writes hostFields := by
  refine writes_get_bind fun s => writes_bind (writes_forIn (fun m _ => ?_) _ _) fun _ => writes_turnAway 16
  exact writes_ite (writes_bind (writes_finish _ (show Code.faultUnit ≠ Code.faultEcc by decide)) fun _ => writes_pure _) (writes_pure _)

theorem keepsReg_failCommitted (block : Nat) (ho : o ∉ recordRegs) : (failCommitted block).KeepsReg o := by
  refine keepsReg_get_bind fun s => keepsReg_bind (keepsReg_forIn (fun m _ => ?_) _ _) fun _ => keepsReg_turnAway ho 16
  exact keepsReg_ite (keepsReg_bind (keepsReg_finish _ (show Code.faultUnit ≠ Code.faultEcc by decide) ho) fun _ => keepsReg_pure _)
    (keepsReg_pure _)

/-! ## Links (R24, R25) -/

theorem LinkSt.setToward_self (link : LinkSt) (source stop : Nat) (h : link.toward source stop = 0) :
    link.setToward source stop 0 = link := by
  unfold LinkSt.toward at h
  unfold LinkSt.setToward
  split
  · next hLess =>
    rw [if_pos hLess] at h
    rw [← h]
  · next hLess =>
    rw [if_neg hLess] at h
    rw [← h]

/-- What the retirement of a link by its record leaves: the link marked, counted and recorded. -/
structure State.LinkRetired (s : State) (key : Nat) (t : State) : Prop where
  links : t.links = s.links.put key { retired := true }
  same : s.SameBut [.links, .faults, .regs, .sdio, .freeCount] t
  seq : t.faults.seq = (s.faults.seq + 1) % 2 ^ 32
  count : t.rf .faultRetLink 0 5 0 = min 63 (s.rf .faultRetLink 0 5 0 + 1)

theorem retireLink_does {key : Nat} {r : Nat → FaultRec} {f : Nat → Act Unit} {Q : State → Prop}
    (h : ∀ seq t, s.LinkRetired key t → (f seq).Does t fun _ => Q) :
    (do
      Act.make (.link key { retired := true })
      Act.countSat .faultRetLink 0 5 0
      let crc ← Act.draw
      let seq ← fault (r crc)
      f seq : Act Unit).Does s fun _ => Q := by
  refine Act.Does.make_bind (Act.Does.countSat_bind (Act.Does.get_bind (Act.Does.make_bind ?_)))
  refine (fault_gives _ _).does.bind fun seq t ht => h seq t ⟨?_, ?_, ht.seq, ?_⟩
  · exact (ht.1 .links (by decide)).trans rfl
  · refine fun f hf => (ht.1 f fun hOld => hf ?_).trans ?_
    · exact List.mem_cons_of_mem _ (List.mem_append_left [.freeCount] hOld : f ∈ [.faults, .regs, .sdio] ++ [.freeCount])
    · refine ((State.fld_upd _ _ f ?_).trans (State.fld_upd _ _ f ?_)).trans (State.fld_upd _ _ f ?_)
      all_goals
        refine Upd.writes_eq_false_of_not_mem fun hIn => hf ?_
        rw [List.mem_singleton.mp hIn]
        decide
  · rw [ht.rf (by simp [recordRegs, Reg.off, Reg.row])]
    exact (State.rf_setField_same _ (by decide)).trans (Nat.mod_eq_of_lt (by omega))

theorem State.LinkRetired.onlyRecorded {key : Nat} (h : s.LinkRetired key t) : onlyRecorded { s with links := t.links } t := by
  refine onlyRecorded_of_sameBut (fun f hf => ?_) h.seq
  by_cases hLinks : f = .links
  · subst hLinks
    rfl
  · refine (h.same f (by simp_all)).trans ?_
    cases f with
    | links => exact absurd rfl hLinks
    | _ => rfl

section
variable {stop source : Fin 40}

theorem flitGroupReceive_good {key : Nat} {link : LinkSt} (hKey : linkKey source.val stop.val = key)
    (hLink : s.links.at key {} = link) (hOnTime : s.onTime = true) (hQuiet : s.quiet = true)
    (hServes : (s.awake && neighbours source.val stop.val && !link.retired) = true) :
    s.does (.flitGroupReceive stop source true) fun t => t = { s with links := t.links } ∧
      t.links.at key {} = link.setToward source.val stop.val 0 ∧ ∀ k, k ≠ key → t.links.find k = s.links.find k := by
  subst hKey hLink
  refine State.does_of rfl (settled_does hOnTime (Act.Does.get_bind (Act.Does.ite (fun _ => ?_) fun hNot => absurd hServes hNot)))
  refine Act.Does.ite (fun _ => Act.Does.ite (fun _ => Act.Does.make ⟨⟨rfl, ?_, fun k hk => ?_⟩, hQuiet⟩) fun hZero => ?_)
    fun hNot => absurd rfl hNot
  · exact Sparse.at_put_same _ _ _ _
  · exact Sparse.find_put_other _ _ hk
  · exact Act.Does.pure ⟨⟨rfl, (LinkSt.setToward_self _ _ _ (by simpa using hZero)).symm, fun _ _ => rfl⟩, hQuiet⟩

theorem flitGroupReceive_bad {key failed : Nat} {link : LinkSt} (hKey : linkKey source.val stop.val = key)
    (hLink : s.links.at key {} = link) (hFailed : link.toward source.val stop.val = failed) (hOnTime : s.onTime = true)
    (hQuiet : s.quiet = true) (hServes : (s.awake && neighbours source.val stop.val && !link.retired) = true) (hLess : failed < 8) :
    s.does (.flitGroupReceive stop source false) fun t =>
      t = { s with links := s.links.put key (link.setToward source.val stop.val (failed + 1)) } := by
  subst hKey hLink hFailed
  refine State.does_of rfl (settled_does hOnTime (Act.Does.get_bind (Act.Does.ite (fun _ => ?_) fun hNot => absurd hServes hNot)))
  exact Act.Does.ite (fun h => absurd h (by decide)) fun _ => Act.Does.ite (fun _ => Act.Does.make ⟨rfl, hQuiet⟩) fun hNot => absurd hLess hNot

theorem flitGroupReceive_retires {Q : State → Prop} {key : Nat} {link : LinkSt} (hKey : linkKey source.val stop.val = key)
    (hLink : s.links.at key {} = link) (hOnTime : s.onTime = true)
    (hServes : (s.awake && neighbours source.val stop.val && !link.retired) = true)
    (hFailed : 8 ≤ link.toward source.val stop.val)
    (h : ∀ seq t, s.LinkRetired key t → (if cutsRoute key s.retiredLinks then endFabric (Block.stop stop.val) seq else pure ()).Does t
      fun _ u => Q u ∧ u.quiet = true) : s.does (.flitGroupReceive stop source false) Q := by
  subst hKey hLink
  refine State.does_of rfl (settled_does hOnTime (Act.Does.get_bind (Act.Does.ite (fun _ => ?_) fun hNot => absurd hServes hNot)))
  exact Act.Does.ite (fun h => absurd h (by decide)) fun _ => Act.Does.ite (fun hLess => absurd hLess (by omega)) fun _ =>
    retireLink_does h

end

/-! ## Voted and duplicated logic (R461) -/

section
variable {block bit : Nat}

/-- A record leaves the times of voted copies. -/
theorem fault_voted (s : State) (r : FaultRec) : (fault r).Does s fun _ t => t.faults.voted = s.faults.voted := by
  have hRest (w : List Byte) (seq : Nat) : (do Act.regField .sdioIntStat 0 1 1 1; telemetry 4 w; return seq : Act Nat).Writes
      [.regs, .sdio] := writes_bind (by simp) fun _ => by simp
  have hVoted {x : Act Nat} (hx : x.Writes [.regs, .sdio]) {u : State} (hu : u.faults.voted = s.faults.voted) :
      x.Does u fun _ t => t.faults.voted = s.faults.voted :=
    (hx.does u).mono fun _ t ht => (congrArg FaultLog.voted (ht .faults (by decide))).trans hu
  refine Act.Does.get_bind (Act.Does.make_bind (Act.Does.ite (fun _ => ?_) fun _ => ?_))
  · exact hVoted (writes_bind (by simp) fun _ => hRest _ _) rfl
  · exact hVoted (hRest _ _) rfl

theorem votedCopyFault_first (hOnTime : s.onTime = true) (hQuiet : s.quiet = true) (hVoted : votedBlock block = true)
    (hGrid : block ≠ Block.grid) (hPlan : block ≠ Block.plan) (hLate : ∀ x, s.faults.voted.find block = some x → x + 10000 ≤ s.ns) :
    s.does (.votedCopyFault block) fun t => onlyRecorded s t ∧ t.faults.voted.find block = some s.ns := by
  have hBlocks : ¬(block = Block.grid || block = Block.plan) = true := by simp [hGrid, hPlan]
  refine State.does_of rfl (settled_does hOnTime (Act.Does.get_bind (Act.Does.ite (fun h => absurd h hBlocks) fun _ =>
    Act.Does.ite (fun _ => Act.Does.make_bind (Act.Does.ite (fun hAgain => ?_) fun _ => ?_)) fun h => absurd hVoted h)))
  · cases hFind : s.faults.voted.find block with
    | none => simp [hFind] at hAgain
    | some x => simp [hFind, Nat.not_lt.mpr (hLate x hFind)] at hAgain
  · refine ((fault_gives _ _).and (fault_voted _ _)).does.bind fun _ t ht => Act.Does.pure ?_
    obtain ⟨hRecorded, hVoted⟩ := ht
    refine ⟨⟨onlyRecorded_of_sameBut (fun f hf => (hRecorded.1 f ?_).trans (s.fld_upd _ f ?_)) hRecorded.seq, ?_⟩, ?_⟩
    · exact fun hOld => hf (List.mem_append_left [.freeCount] hOld : f ∈ [.faults, .regs, .sdio] ++ [.freeCount])
    · exact Upd.writes_eq_false_of_not_mem fun hIn => hf (by simp [List.mem_singleton.mp hIn])
    · rw [hVoted]
      exact Sparse.find_put_same _ _ _
    · exact (State.quiet_of_sameBut hRecorded.1 (by decide)).trans hQuiet

theorem votedCopyFault_again {x : Nat} (hOnTime : s.onTime = true) (hQuiet : s.quiet = true) (hVoted : votedBlock block = true)
    (hGrid : block ≠ Block.grid) (hPlan : block ≠ Block.plan) (hFind : s.faults.voted.find block = some x) (hSoon : s.ns < x + 10000)
    (hKernels : noKernels s) : s.does (.votedCopyFault block) fun t => t.fabricEnded = true := by
  have hBlocks : ¬(block = Block.grid || block = Block.plan) = true := by simp [hGrid, hPlan]
  refine State.does_of rfl (settled_does hOnTime (Act.Does.get_bind (Act.Does.ite (fun h => absurd h hBlocks) fun _ =>
    Act.Does.ite (fun _ => Act.Does.make_bind ?_) fun h => absurd hVoted h)))
  simp only [hFind, hSoon, decide_true, if_true]
  refine (endFabric_does ?_ _ _).mono fun _ t ht => ⟨ht.ended, ht.quiet hQuiet⟩
  exact hKernels

theorem votedCopyFault_retires (hOnTime : s.onTime = true) (hQuiet : s.quiet = true)
    (hBlock : (block, bit) ∈ [(Block.grid, 8), (Block.plan, 9)]) (hClear : flag (s.rg .faultRetLink) bit = false) :
    s.does (.votedCopyFault block) fun t => onlyRecorded s t ∧ flag (t.rg .faultRetLink) bit = true := by
  have hBit : bit < 32 ∧ (if block = Block.grid then 8 else 9) = bit ∧ (block = Block.grid || block = Block.plan) = true := by
    simp only [List.mem_cons, Prod.mk.injEq, List.not_mem_nil, or_false] at hBlock
    rcases hBlock with ⟨rfl, rfl⟩ | ⟨rfl, rfl⟩ <;> decide
  obtain ⟨hLess, hBitOf, hBlocks⟩ := hBit
  refine State.does_of rfl (settled_does hOnTime (Act.Does.get_bind (Act.Does.ite (fun _ => ?_) fun h => absurd hBlocks h)))
  rw [hBitOf]
  refine Act.Does.ite (fun _ => Act.Does.regField_bind ?_) fun h => absurd hClear (by simpa using h)
  refine (fault_gives _ _).does.bind fun _ t ht => Act.Does.pure ⟨⟨ht.onlyRecorded_of_reg, ?_⟩, ?_⟩
  · rw [ht.rg (by simp [recordRegs, Reg.off, Reg.row]), State.rg_upd_reg, flag_setField_same _ _ hLess]
    rfl
  · exact (State.quiet_of_sameBut ht.1 (by decide)).trans hQuiet

theorem votedCopyFault_retired (hOnTime : s.onTime = true) (hQuiet : s.quiet = true)
    (hBlock : (block, bit) ∈ [(Block.grid, 8), (Block.plan, 9)]) (hSet : flag (s.rg .faultRetLink) bit = true) :
    s.does (.votedCopyFault block) fun t => t = s := by
  have hBit : (if block = Block.grid then 8 else 9) = bit ∧ (block = Block.grid || block = Block.plan) = true := by
    simp only [List.mem_cons, Prod.mk.injEq, List.not_mem_nil, or_false] at hBlock
    rcases hBlock with ⟨rfl, rfl⟩ | ⟨rfl, rfl⟩ <;> decide
  refine State.does_of rfl (settled_does hOnTime (Act.Does.get_bind (Act.Does.ite (fun _ => ?_) fun h => absurd hBit.2 h)))
  rw [hBit.1]
  exact Act.Does.ite (fun h => absurd hSet (by simpa using h)) fun _ => Act.Does.pure ⟨rfl, hQuiet⟩

end

/-! ## Stewards and NAND controllers -/

section
variable {n : Fin 4}

theorem nandControllerTimeout_early (hClear : flag (s.rg .faultRetUnits) (16 + n.val) = false)
    (hFew : ((s.ftl.timeouts.filter fun x => s.ns < x.2 + 10 ^ 9).filter fun x => x.1 = n.val).length < 2) :
    s.does (.nandControllerTimeout n) fun t =>
      t = { s with ftl := { s.ftl with timeouts := (s.ftl.timeouts.filter fun x => s.ns < x.2 + 10 ^ 9) ++ [(n.val, s.ns)] } } := by
  refine State.does_of rfl (Act.Does.get_bind (Act.Does.ite (fun _ => Act.Does.make_bind (Act.Does.ite (fun hThree => ?_) fun _ =>
    Act.Does.pure rfl)) fun h => absurd hClear (by simpa using h)))
  rw [List.filter_append, List.length_append] at hThree
  simp at hThree hFew
  omega

theorem nandControllerTimeout_third (hClear : flag (s.rg .faultRetUnits) (16 + n.val) = false)
    (hTwo : 2 ≤ ((s.ftl.timeouts.filter fun x => s.ns < x.2 + 10 ^ 9).filter fun x => x.1 = n.val).length) :
    s.does (.nandControllerTimeout n) fun t => onlyRecorded { s with ftl := t.ftl } t ∧
      t.ftl = { s.ftl with timeouts := (s.ftl.timeouts.filter fun x => s.ns < x.2 + 10 ^ 9) ++ [(n.val, s.ns)], degraded := true, fresh := [] } ∧
      flag (t.rg .faultRetUnits) (16 + n.val) = true := by
  refine State.does_of rfl (Act.Does.get_bind (Act.Does.ite (fun _ => Act.Does.make_bind (Act.Does.ite (fun _ => ?_) fun hNot =>
    ?_)) fun h => absurd hClear (by simpa using h)))
  · refine Act.Does.get_bind (Act.Does.ite (fun _ => Act.Does.regField_bind (Act.Does.make_bind ?_)) fun h => absurd hClear (by simpa using h))
    refine (fault_gives _ _).does.bind fun _ t ht => Act.Does.pure ?_
    have hFtl := ht.1 .ftl (by decide)
    refine ⟨onlyRecorded_of_sameBut (fun f hf => ?_) ht.seq, hFtl, ?_⟩
    · by_cases hIs : f = .ftl
      · subst hIs
        rfl
      · refine (ht.1 f fun hOld => hf (List.mem_append_left [.freeCount] hOld : f ∈ [.faults, .regs, .sdio] ++ [.freeCount])).trans ?_
        cases f with
        | ftl => exact absurd rfl hIs
        | regs => exact absurd (by decide) hf
        | _ => rfl
    · rw [ht.rg (by simp [recordRegs, Reg.off, Reg.row]), State.rg_upd _ _ _ _ _ rfl, State.rg_upd_reg, flag_setField_same _ _ (by omega)]
      rfl
  · rw [List.filter_append, List.length_append] at hNot
    simp at hNot hTwo
    omega

end

section
variable {n : Fin 8}

/-- The loss of the second of two cores leaves the field of both set. -/
theorem field_two_set {w : Word} {n : Nat} (hn : n < 2) (hOther : flag w (21 - n) = true) :
    field (setField w (20 + n) (20 + n) 1) 21 20 = 3 := by
  refine Nat.eq_of_testBit_eq fun i => ?_
  have hBits : ∀ m, m < 2 → flag (setField w (20 + n) (20 + n) 1) (m + 20) = true := fun m hm => by
    by_cases h : m = n
    · rw [h, Nat.add_comm, flag_setField_same _ _ (by omega)]
      rfl
    · rw [flag_setField_other _ _ (by omega), show m + 20 = 21 - n by omega]
      exact hOther
  rw [testBit_field, show (3 : Nat) = 2 ^ 2 - 1 from rfl, Nat.testBit_two_pow_sub_one]
  by_cases hi : i < 2
  · simp [hi, hBits i hi]
  · simp [hi]

/-- What the retirement of steward core `n` has done when its record is made. -/
structure State.StewardRetired (s : State) (n : Nat) (t : State) : Prop where
  same : s.SameBut [.faults, .regs, .sdio] t
  seq : t.faults.seq = (s.faults.seq + 1) % 2 ^ 32
  units : t.rg .faultRetUnits = setField (s.rg .faultRetUnits) (20 + n) (20 + n) 1
  domain : t.rg .pwrDom 1 = setField (s.rg .pwrDom 1) (18 + n) (18 + n) 0
  others : ∀ o, o ≠ Reg.off .faultRetUnits 0 0 → o ≠ Reg.off .pwrDom 1 0 → o ∉ recordRegs → t.regs.find o = s.regs.find o

theorem retireSteward_does {code link : Nat} {Q : State → Prop} (hClear : flag (s.rg .faultRetUnits) (20 + n.val) = false)
    (h : ∀ t, s.StewardRetired n.val t → (if n.val < 2 then do failCommitted (Block.steward n.val); checkUnits else checkUnits).Does t
      fun _ => Q) : (retireSteward n.val code link).Does s fun _ => Q := by
  have hWord : (50 + n.val) / 32 = 1 ∧ (50 + n.val) % 32 = 18 + n.val := by omega
  refine Act.Does.get_bind (Act.Does.ite (fun _ => Act.Does.regField_bind (Act.Does.regField_bind ?_)) fun h =>
    absurd hClear (by simpa using h))
  rw [hWord.1, hWord.2]
  refine (fault_gives _ _).does.bind fun _ t ht => h t ⟨fun f hf => (ht.1 f hf).trans ?_, ht.seq, ?_, ?_, fun o h1 h2 h3 => ?_⟩
  · cases f with
    | regs => exact absurd (by decide) hf
    | _ => rfl
  · rw [ht.rg (by simp [recordRegs, Reg.off, Reg.row]), State.rg_upd_reg_other _ _ _ _ _ _ (by simp [Reg.off, Reg.row]), State.rg_upd_reg]
  · rw [ht.rg (by simp [recordRegs, Reg.off, Reg.row]), State.rg_upd_reg, State.rg_upd_reg_other _ _ _ _ _ _ (by simp [Reg.off, Reg.row])]
    rfl
  · rw [ht.2.2 o h3, State.find_upd_reg_other _ _ h2, State.find_upd_reg_other _ _ h1]

/-- The loss of a core that is none of Rhoson's leaves units enough. -/
theorem State.StewardRetired.tooFew {n : Nat} (h : s.StewardRetired n t) (hn : 2 ≤ n) : t.tooFew = s.tooFew := by
  have hLive : t.live = s.live := by
    rw [State.live, State.live, State.rg_eq_of_find (h.others _ (by simp [Reg.off, Reg.row]) (by simp [Reg.off, Reg.row])
      (by simp [recordRegs, Reg.off, Reg.row]))]
  have hChannels : (List.range 96).filter (t.bitOf3 .pscLive) = (List.range 96).filter (s.bitOf3 .pscLive) := by
    refine List.filter_congr fun c hc => ?_
    have hc' : c < 96 := List.mem_range.mp hc
    rw [State.bitOf3, State.bitOf3, State.rg_eq_of_find (h.others _ ?_ ?_ ?_)]
    all_goals
      simp [recordRegs, Reg.off, Reg.row]
      omega
  rw [State.tooFew, hLive, hChannels, State.rf, h.units, field_setField_other _ _ (by omega)]
  rfl

theorem stewardWatchdogMiss_worker (hOnTime : s.onTime = true) (hQuiet : s.quiet = true) (hRuns : s.runs = true)
    (hClear : flag (s.rg .faultRetUnits) (20 + n.val) = false) (hWorker : 2 ≤ n.val) (hEnough : s.tooFew = false) :
    s.does (.stewardWatchdogMiss n) fun t => onlyRecorded s t ∧ flag (t.rg .faultRetUnits) (20 + n.val) = true ∧
      t.bitOf3 .pwrDom (50 + n.val) = false := by
  have hWord : (50 + n.val) / 32 = 1 ∧ (50 + n.val) % 32 = 18 + n.val := by omega
  refine State.does_of rfl (settled_does hOnTime (Act.Does.get_bind (Act.Does.ite (fun _ => retireSteward_does hClear fun t ht => ?_)
    fun h => absurd hRuns h)))
  refine Act.Does.ite (fun hRhoson => absurd hRhoson (by omega)) fun _ => Act.Does.get_bind (Act.Does.ite (fun hFew => ?_) fun _ => ?_)
  · rw [ht.tooFew hWorker, hEnough] at hFew
    cases hFew
  · refine Act.Does.pure ⟨⟨onlyRecorded_of_sameBut (ht.same.mono (by decide)) ht.seq, ?_, ?_⟩, ?_⟩
    · rw [ht.units, flag_setField_same _ _ (by omega)]
      rfl
    · rw [State.bitOf3, hWord.1, hWord.2, ht.domain, flag_setField_same _ _ (by omega)]
      rfl
    · exact (State.quiet_of_sameBut ht.same (by decide)).trans hQuiet

theorem stewardWatchdogMiss_last (hOnTime : s.onTime = true) (hQuiet : s.quiet = true) (hRuns : s.runs = true)
    (hClear : flag (s.rg .faultRetUnits) (20 + n.val) = false) (hRhoson : n.val < 2)
    (hOther : flag (s.rg .faultRetUnits) (21 - n.val) = true) (hKernels : noKernels s) :
    s.does (.stewardWatchdogMiss n) fun t => flag (t.rg .faultRetUnits) (20 + n.val) = true ∧ t.fabricEnded = true := by
  refine State.does_of rfl (settled_does hOnTime (Act.Does.get_bind (Act.Does.ite (fun _ => retireSteward_does hClear fun t ht => ?_)
    fun h => absurd hRuns h)))
  refine Act.Does.ite (fun _ => ?_) fun h => absurd hRhoson h
  obtain ⟨a, u, hSame, hRun⟩ := writes_failCommitted (Block.steward n.val) t
  have hUnits : u.rg .faultRetUnits = t.rg .faultRetUnits := State.rg_eq_of_find
    ((keepsReg_failCommitted (Block.steward n.val) (by simp [recordRegs, Reg.off, Reg.row]) t).of_run hRun)
  have hFew : u.tooFew = true := by
    rw [State.tooFew, State.rf, hUnits, ht.units, field_two_set hRhoson hOther]
    simp
  have hQuiet' : u.quiet = true := (State.quiet_of_sameBut hSame (by decide)).trans ((State.quiet_of_sameBut ht.same (by decide)).trans hQuiet)
  have hKernels' : noKernels u := noKernels_of_ctxs hKernels ((hSame .ctxs (by decide)).trans (ht.same .ctxs (by decide)))
  refine Act.Does.bind (fun k => ⟨a, u, rfl, hRun k⟩ : (failCommitted (Block.steward n.val)).Does t fun _ v => v = u) fun _ v hv => ?_
  subst hv
  refine Act.Does.get_bind (Act.Does.ite (fun _ => ?_) fun h => absurd hFew h)
  refine (endFabric_does hKernels' _ _).mono fun _ w hw => ⟨⟨?_, hw.ended⟩, hw.quiet hQuiet'⟩
  rw [State.rg_eq_of_find (hw.regs _ fun e => by simp [Reg.off, Reg.row]; omega), hUnits, ht.units, flag_setField_same _ _ (by omega)]
  rfl

end

/-- Settles O57: groups by what they do to their link, copies by what their block has seen, units by their retirement. -/
theorem linksAndUnitsRetire : Obligations.LinksAndUnitsRetire := by
  intro s hCalm
  obtain ⟨hOnTime, hQuiet⟩ := State.calm_iff.mp hCalm
  refine ⟨?_, fun block hVoted hGrid hPlan => votedCopyFault_first hOnTime hQuiet hVoted hGrid hPlan,
    fun block x hVoted hGrid hPlan => votedCopyFault_again hOnTime hQuiet hVoted hGrid hPlan,
    fun block bit hBlock => ⟨votedCopyFault_retires hOnTime hQuiet hBlock, votedCopyFault_retired hOnTime hQuiet hBlock⟩,
    fun n hRuns hClear => ⟨fun hWorker => stewardWatchdogMiss_worker hOnTime hQuiet hRuns hClear hWorker,
      fun hRhoson => stewardWatchdogMiss_last hOnTime hQuiet hRuns hClear hRhoson⟩,
    fun n hClear => ⟨nandControllerTimeout_early hClear, nandControllerTimeout_third hClear⟩⟩
  intro stop source ok key link failed hAwake hNeighbours hLink
  have hServes : (s.awake && neighbours source.val stop.val && !link.retired) = true := by simp [hAwake, hNeighbours, hLink]
  refine ⟨?_, ?_, ?_⟩
  · rintro rfl
    exact flitGroupReceive_good rfl rfl hOnTime hQuiet hServes
  · rintro rfl hLess
    exact flitGroupReceive_bad rfl rfl rfl hOnTime hQuiet hServes hLess
  · rintro rfl hEight
    refine ⟨fun hCut => ?_, fun hCut hKernels => ?_⟩
    · refine flitGroupReceive_retires rfl rfl hOnTime hServes hEight fun seq t ht => ?_
      have hCut' : ¬cutsRoute key s.retiredLinks = true := by simpa [State.retiredLinks] using hCut
      refine Act.Does.ite (fun h => absurd h hCut') fun _ => Act.Does.pure ⟨⟨ht.links, ?_, ht.count, ht.onlyRecorded⟩, ?_⟩
      · exact ht.same .fabricEnded (by decide)
      · exact (State.quiet_of_sameBut ht.same (by decide)).trans hQuiet
    · refine flitGroupReceive_retires rfl rfl hOnTime hServes hEight fun seq t ht => Act.Does.ite (fun _ => ?_) fun h => absurd hCut h
      have hKernels' : noKernels t := noKernels_of_ctxs hKernels (ht.same .ctxs (by decide))
      refine (endFabric_does hKernels' _ _).mono fun _ u hu => ⟨⟨?_, hu.ended⟩, hu.quiet ?_⟩
      · exact (hu.same .links (by decide)).trans ht.links
      · exact (State.quiet_of_sameBut ht.same (by decide)).trans hQuiet

end Sys2Proof.Machine

/-!
PROOF. Towlines, time messages and formation (R391 to R394, R396, R402).
-/
namespace Sys2Proof.Machine

variable {s t : State} {l : Nat}

/-! ## Lanes -/

/-- The lanes `p` names of those in `js` are retired. -/
structure State.LanesRetired (s : State) (l : Nat) (js : List Nat) (p : Nat → Bool) (t : State) : Prop where
  same : s.SameBut [.faults, .regs, .sdio] t
  flags : ∀ b, b < 32 → flag (t.rg .faultRetTow) b = (flag (s.rg .faultRetTow) b || js.any fun j => b = 8 * l + j && p j)
  others : ∀ o, o ≠ Reg.off .faultRetTow 0 0 → o ∉ recordRegs → t.regs.find o = s.regs.find o

theorem retireLanes_loop {p : Nat → Bool} {r : Nat → FaultRec} (hl : l < 3) : ∀ (js : List Nat) (s : State), (∀ j ∈ js, j < 8) →
    (forIn js PUnit.unit fun j _ => if p j then do
        Act.regField .faultRetTow 0 (8 * l + j) (8 * l + j) 1
        let _ ← fault (r j)
        pure (.yield ⟨⟩)
      else pure (.yield ⟨⟩) : Act PUnit).Does s fun _ t => s.LanesRetired l js p t
  | [], _, _ => Act.Does.pure ⟨.refl _ _, fun _ _ => by simp, fun _ _ _ => rfl⟩
  | j :: js, s, hjs => by
    have hj : 8 * l + j < 32 := by
      have := hjs j List.mem_cons_self
      omega
    have hRest (t : State) := retireLanes_loop (p := p) (r := r) hl js t fun k hk => hjs k (List.mem_cons_of_mem _ hk)
    cases hp : p j with
    | false =>
      refine Act.Does.forIn_cons (P := fun t => t = s) (Act.Does.ite (fun h => absurd h (by simp [hp])) fun _ =>
        Act.Does.pure ⟨rfl, rfl⟩) fun t ht => ?_
      subst ht
      refine (hRest t).mono fun _ u hu => ⟨hu.same, fun b hb => ?_, hu.others⟩
      rw [hu.flags b hb]
      simp [hp]
    | true =>
      refine Act.Does.forIn_cons (P := fun t => s.LanesRetired l [j] p t) (Act.Does.ite (fun _ => ?_) fun h => absurd hp h)
        fun t ht => (hRest t).mono fun _ u hu => ⟨ht.same.trans hu.same, fun b hb => ?_, fun o h1 h2 => ?_⟩
      · refine Act.Does.regField_bind ((fault_gives _ _).does.bind fun _ t ht => Act.Does.pure ⟨rfl, fun f hf => ?_, fun b hb => ?_,
          fun o h1 h2 => ?_⟩)
        · exact (ht.1 f hf).trans (s.fld_upd _ f (Upd.writes_eq_false_of_not_mem fun hIn => hf (by simp [List.mem_singleton.mp hIn])))
        · rw [ht.rg (by simp [recordRegs, Reg.off, Reg.row]), State.rg_upd_reg, flag_setField _ _ _ _ hb]
          by_cases h : b = 8 * l + j
          · subst h
            simp [hp]
          · rw [if_neg (by omega)]
            simp [h]
        · exact (ht.2.2 o h2).trans (s.find_upd_reg_other _ h1)
      · rw [hu.flags b hb, ht.flags b hb]
        simp [Bool.or_assoc]
      · exact (hu.others o h1 h2).trans (ht.others o h1 h2)

theorem State.getLsbD_retiredLanes (s : State) {i : Nat} (hi : i < 8) :
    (s.retiredLanes l).getLsbD i = flag (s.rg .faultRetTow) (8 * l + i) := by
  rw [State.retiredLanes, BitVec.getLsbD_ofNat, State.rf, testBit_field]
  rw [Nat.add_comm i]
  simp only [hi, decide_true, Bool.true_and]
  rw [decide_eq_true (by omega), Bool.true_and]

/-- Lanes are retired, each with its record. -/
theorem retireLanes_does (hl : l < 3) (lanes : BitVec 8) (code syn : Nat) : (retireLanes l lanes code syn).Does s fun _ t =>
    s.SameBut [.faults, .regs, .sdio] t ∧ t.retiredLanes l = s.retiredLanes l ||| lanes ∧
    ∀ o, o ≠ Reg.off .faultRetTow 0 0 → o ∉ recordRegs → t.regs.find o = s.regs.find o := by
  refine Act.Does.get_bind ((retireLanes_loop (p := fun j => flag lanes j && !flag (s.retiredLanes l) j) hl (List.range 8) s
    fun j hj => List.mem_range.mp hj).bind fun _ t ht => Act.Does.pure ⟨ht.same, ?_, ht.others⟩)
  refine BitVec.eq_of_getLsbD_eq fun i hi => ?_
  rw [BitVec.getLsbD_or, t.getLsbD_retiredLanes hi, s.getLsbD_retiredLanes hi, ht.flags _ (by omega)]
  have hAny : ((List.range 8).any fun j => decide (8 * l + i = 8 * l + j) && (flag lanes j && !flag (s.retiredLanes l) j)) =
      (flag lanes i && !flag (s.retiredLanes l) i) := by
    rw [Bool.eq_iff_iff, List.any_eq_true]
    refine ⟨fun ⟨j, _, hj⟩ => ?_, fun h => ⟨i, List.mem_range.mpr hi, by simpa using h⟩⟩
    obtain rfl : i = j := by simp at hj; omega
    simpa using hj
  rw [hAny, show flag (s.retiredLanes l) i = _ from s.getLsbD_retiredLanes hi]
  simp only [flag]
  cases (s.rg Reg.faultRetTow).getLsbD (8 * l + i) <;> simp

/-! ## Towlines (R391, R392) -/

/-- A change of one towline. -/
def State.towlineSet (s : State) (l : Nat) (x : Towline) : State := s.upd (.casc { s.casc with links := s.casc.links.put l x })

theorem modTowline_does {f : Towline → Towline} : (Act.modTowline l f).Does s fun _ t => t = s.towlineSet l (f (s.casc.links.at l {})) :=
  Act.Does.get_bind (Act.Does.make rfl)

theorem Act.Does.modTowline_bind {f : Towline → Towline} {α : Type} {g : Unit → Act α} {Q : α → State → Prop}
    (h : (g ()).Does (s.towlineSet l (f (s.casc.links.at l {}))) Q) : (Act.modTowline l f >>= g).Does s Q := fun k => h k

@[simp] theorem State.towline_towlineSet (s : State) (l : Nat) (x : Towline) : (s.towlineSet l x).casc.links.at l {} = x :=
  Sparse.at_put_same _ _ _ _

section
variable {n : Fin 3} {peer : Fin 4} {lanes failed : BitVec 8}

theorem towlineTraining_peer (hAwake : s.awake = true) (hPeer : peer.val = s.casc.id ^^^ (n.val + 1)) :
    s.does (.towlineTraining n peer lanes) fun t =>
      t = { s with casc := t.casc, regs := t.regs, faults := t.faults, sdio := t.sdio } ∧
      t.casc = { s.casc with links := s.casc.links.put n.val { s.casc.links.at n.val {} with
        lanes := lanes &&& ~~~(s.retiredLanes n.val), peer := peer.val, up := decide (lanes &&& ~~~(s.retiredLanes n.val) ≠ 0),
        failures := 0, lastBeat := s.ns } } ∧
      t.retiredLanes n.val = s.retiredLanes n.val ||| ~~~lanes := by
  refine State.does_of rfl (Act.Does.get_bind (Act.Does.ite (fun _ => Act.Does.ite (fun _ => ?_) fun h => absurd hPeer h) fun h =>
    absurd hAwake h))
  refine (retireLanes_does n.isLt (~~~lanes) Code.faultUnit 0).bind fun _ u hu => Act.Does.get_bind (modTowline_does.mono fun _ t ht => ?_)
  obtain ⟨hSame, hLanes, -⟩ := hu
  have hCasc : u.casc = s.casc := hSame .casc (by decide)
  have hNs : u.ns = s.ns := congrArg (fun c : Clock => c.elapsed / nsUnit) (hSame .clock (by decide))
  have hOn : lanes &&& ~~~(u.retiredLanes n.val) = lanes &&& ~~~(s.retiredLanes n.val) := by
    refine BitVec.eq_of_getLsbD_eq fun i hi => ?_
    simp only [hLanes, BitVec.getLsbD_and, BitVec.getLsbD_not, BitVec.getLsbD_or, hi]
    cases lanes.getLsbD i <;> simp
  obtain ⟨x, hx, rfl⟩ : ∃ x, x = _ ∧ t = u.towlineSet n.val x := ⟨_, rfl, ht⟩
  refine ⟨?_, ?_, hLanes⟩
  · refine State.ext_fld fun f => ?_
    have hAll : s.SameBut [.faults, .regs, .sdio, .casc] (u.towlineSet n.val x) :=
      (hSame.mono (by decide)).upd (by simp)
    cases f with
    | casc | regs | faults | sdio => rfl
    | _ => exact hAll _ (by decide)
  · rw [hx, hOn, hNs, State.towlineSet, State.upd_casc_casc, hCasc]

theorem towlineTraining_wrong (hAwake : s.awake = true) (hPeer : peer.val ≠ s.casc.id ^^^ (n.val + 1)) :
    s.does (.towlineTraining n peer lanes) fun t => onlyRecorded { s with casc := t.casc } t ∧
      (t.casc.links.at n.val {}).up = false ∧ (t.casc.links.at n.val {}).lanes = 0 := by
  refine State.does_of rfl (Act.Does.get_bind (Act.Does.ite (fun _ => Act.Does.ite (fun h => absurd h hPeer) fun _ =>
    Act.Does.modTowline_bind ((fault_gives _ _).does.bind fun _ t ht => Act.Does.pure ?_)) fun h => absurd hAwake h))
  have hCasc : t.casc = _ := ht.1 .casc (by decide)
  refine ⟨onlyRecorded_of_sameBut (fun f hf => ?_) ht.seq, ?_, ?_⟩
  · refine (ht.1 f fun hOld => hf (List.mem_append_left [.freeCount] hOld : f ∈ [.faults, .regs, .sdio] ++ [.freeCount])).trans ?_
    cases f with
    | casc => exact hCasc.symm
    | _ => rfl
  · rw [hCasc]
    exact congrArg Towline.up (s.towline_towlineSet n.val _)
  · rw [hCasc]
    exact congrArg Towline.lanes (s.towline_towlineSet n.val _)

theorem towlineFlitReceive_good (hAwake : s.awake = true) (hUp : (s.casc.links.at n.val {}).up = true) :
    s.does (.towlineFlitReceive n true failed) fun t => t = { s with casc := t.casc } ∧
      t.casc.links.at n.val {} = { s.casc.links.at n.val {} with failures := 0 } := by
  refine State.does_of rfl (Act.Does.get_bind (Act.Does.ite (fun _ => Act.Does.ite (fun _ => modTowline_does.mono fun _ t ht => ?_)
    fun h => absurd rfl h) fun h => absurd (Bool.and_eq_true_iff.mpr ⟨hAwake, hUp⟩) h))
  subst ht
  exact ⟨rfl, s.towline_towlineSet _ _⟩

theorem towlineFlitReceive_resent (hAwake : s.awake = true) (hUp : (s.casc.links.at n.val {}).up = true)
    (hFew : (s.casc.links.at n.val {}).failures < 8) : s.does (.towlineFlitReceive n false failed) fun t =>
      t = { s with casc := t.casc, regs := t.regs } ∧
      t.casc.links.at n.val {} = { s.casc.links.at n.val {} with failures := (s.casc.links.at n.val {}).failures + 1 } ∧
      t.rf .towErr n.val 15 0 = min 65535 (s.rf .towErr n.val 15 0 + 1) := by
  refine State.does_of rfl (Act.Does.get_bind (Act.Does.ite (fun _ => Act.Does.ite (fun h => absurd h (by decide)) fun _ =>
    Act.Does.ite (fun _ => Act.Does.countSat_bind (modTowline_does.mono fun _ t ht => ?_)) fun h => absurd hFew h)
    fun h => absurd (Bool.and_eq_true_iff.mpr ⟨hAwake, hUp⟩) h))
  subst ht
  refine ⟨rfl, State.towline_towlineSet _ _ _, ?_⟩
  exact (State.rf_setField_same _ (by decide)).trans (Nat.mod_eq_of_lt (by omega))

/-- What a towline that retrains shows. -/
structure State.Retrained (s : State) (n : Fin 3) (failed : BitVec 8) (t : State) : Prop where
  mem : t.mem = s.mem
  locks : t.locks = s.locks
  towline : t.casc.links.at n.val {} = { s.casc.links.at n.val {} with
    lanes := (s.casc.links.at n.val {}).lanes &&& ~~~failed, up := decide ((s.casc.links.at n.val {}).lanes &&& ~~~failed ≠ 0),
    failures := 0 }
  lanes : t.retiredLanes n.val = s.retiredLanes n.val ||| ((s.casc.links.at n.val {}).lanes &&& failed)
  count : t.rf .towErr n.val 31 16 = min 65535 (s.rf .towErr n.val 31 16 + 1)

/-- The resends of a retraining, and the record of it, leave what it shows. -/
theorem State.Retrained.recorded {u v : State} {k : Nat} (h : s.Retrained n failed u)
    (hv : (u.upd (.reg (Reg.off .towErr n.val 0) (setField (u.rg .towErr n.val) 15 0 k))).Recorded v) : s.Retrained n failed v := by
  refine ⟨hv.mem.trans h.mem, ?_, ?_, ?_, ?_⟩
  · exact (show v.locks = u.locks from hv.1 .locks (by decide)).trans h.locks
  · rw [show v.casc = u.casc from hv.1 .casc (by decide)]
    exact h.towline
  · rw [State.retiredLanes, hv.rf (by simp [recordRegs, Reg.off, Reg.row]), State.rf_upd_reg_other _ (by simp [Reg.off, Reg.row]; omega)]
    exact h.lanes
  · rw [hv.rf (by simp [recordRegs, Reg.off, Reg.row]; omega), State.rf_setField_other _ (by omega)]
    exact h.count

theorem towlineFlitReceive_retrains (hAwake : s.awake = true) (hUp : (s.casc.links.at n.val {}).up = true)
    (hMany : 8 ≤ (s.casc.links.at n.val {}).failures) : s.does (.towlineFlitReceive n false failed) fun t =>
      s.Retrained n failed t := by
  refine State.does_of rfl (Act.Does.get_bind (Act.Does.ite (fun _ => Act.Does.ite (fun h => absurd h (by decide)) fun _ =>
    Act.Does.ite (fun h => absurd h (by omega)) fun _ => Act.Does.countSat_bind (Act.Does.get_bind (Act.Does.make_bind ?_)))
    fun h => absurd (Bool.and_eq_true_iff.mpr ⟨hAwake, hUp⟩) h))
  refine (retireLanes_does n.isLt _ Code.faultLink _).bind fun _ u hu => Act.Does.modTowline_bind ?_
  obtain ⟨hSame, hLanes, hOthers⟩ := hu
  have hCasc : u.casc = s.casc := hSame .casc (by decide)
  have hu' : s.Retrained n failed (u.towlineSet n.val { u.casc.links.at n.val {} with
      lanes := (s.casc.links.at n.val {}).lanes &&& ~~~failed, up := decide ((s.casc.links.at n.val {}).lanes &&& ~~~failed ≠ 0),
      failures := 0 }) := by
    refine ⟨hSame .mem (by decide), hSame .locks (by decide), ?_, ?_, ?_⟩
    · rw [State.towline_towlineSet, hCasc]
    · rw [State.towlineSet, State.retiredLanes, State.rf, State.rg_upd _ _ _ _ _ rfl]
      refine hLanes.trans ?_
      rw [State.retiredLanes, State.rf, State.rg_upd _ _ _ _ _ rfl,
        State.rg_upd_reg_other _ _ _ _ _ _ (by simp [Reg.off, Reg.row]; omega)]
      rfl
    · rw [State.towlineSet, State.rf, State.rg_upd _ _ _ _ _ rfl, State.rg_eq_of_find (hOthers _ (by simp [Reg.off, Reg.row]; omega)
        (by simp [recordRegs, Reg.off, Reg.row]; omega)), State.rg_upd _ _ _ _ _ rfl, State.rg_upd_reg]
      exact (field_countSat _ _ (by decide)).trans (by omega)
  refine Act.Does.ite (fun _ => Act.Does.countSat_bind ?_) fun _ => Act.Does.pure hu'
  refine (fault_gives _ _).does.bind fun _ t ht => Act.Does.pure (hu'.recorded ht)

theorem delayMeasure_does (hAwake : s.awake = true) (hUp : (s.casc.links.at n.val {}).up = true) (ns : Nat) :
    s.does (.delayMeasure n ns) fun t => t = { s with regs := t.regs } ∧ regsBut s t [Reg.off .towDelay n.val 0] ∧
      t.rg .towDelay n.val = Word.ofNat (min 65535 ns) := by
  refine State.does_of rfl (Act.Does.get_bind (Act.Does.ite (fun _ => Act.Does.make ⟨rfl, fun o ho => ?_, ?_⟩) fun h =>
    absurd (Bool.and_eq_true_iff.mpr ⟨hAwake, hUp⟩) h))
  · exact s.find_upd_reg_other _ (by simpa using ho)
  · exact s.rg_upd_reg _ _ _ _

theorem heartbeat_does (hAwake : s.awake = true) (hUp : (s.casc.links.at n.val {}).up = true) :
    s.does (.heartbeat n) fun t => t = { s with casc := t.casc } ∧
      t.casc.links.at n.val {} = { s.casc.links.at n.val {} with lastBeat := s.ns } := by
  refine State.does_of rfl (Act.Does.get_bind (Act.Does.ite (fun _ => modTowline_does.mono fun _ t ht => ?_) fun h =>
    absurd (Bool.and_eq_true_iff.mpr ⟨hAwake, hUp⟩) h))
  subst ht
  exact ⟨rfl, s.towline_towlineSet _ _⟩

end

/-! ## Time messages (R396) -/

section
variable {n : Fin 3} {sent : Nat}

/-- The offset a time message shows. -/
def State.messageOffset (s : State) (n : Fin 3) (sent : Nat) : Int := (s.fullTime : Int) - (sent + s.rf .towDelay n.val 15 0 : Nat)

theorem timeMessageReceive_does {Q : State → Prop} (hAwake : s.awake = true) (hRole : s.casc.role = 2 ∨ s.casc.role = 3)
    (hUp : (s.casc.links.at n.val {}).up = true) (hSrc : s.rf .timeCfg 0 1 0 = 3)
    (h : (servo (max (-(2 ^ 31)) (min (2 ^ 31 - 1) (s.messageOffset n sent))) (some 125000)).Does s fun _ => Q) :
    s.does (.timeMessageReceive sent n) Q := by
  refine State.does_of rfl (Act.Does.get_bind (Act.Does.ite (fun _ => h) fun hNot => absurd ?_ hNot))
  simpa [hAwake, hSrc] using ⟨hRole, hUp⟩

theorem timeMessageReceive_near (hAwake : s.awake = true) (hRole : s.casc.role = 2 ∨ s.casc.role = 3)
    (hUp : (s.casc.links.at n.val {}).up = true) (hSrc : s.rf .timeCfg 0 1 0 = 3) (hStep : s.clock.justStepped = false)
    (hNear : (s.messageOffset n sent).natAbs < 1000000) : s.does (.timeMessageReceive sent n) fun t =>
      t = { s with clock := t.clock, regs := t.regs } ∧ t.rg .timeLastofs = BitVec.ofInt 32 (s.messageOffset n sent) ∧
      t.clock.integ = s.integAfter (s.messageOffset n sent) 125000 ∧ t.clock.acc = s.clock.acc ∧
      t.rg .timeAdj = s.adjAfter (s.messageOffset n sent) 125000 := by
  refine timeMessageReceive_does hAwake hRole hUp hSrc ?_
  rw [show max (-(2 ^ 31)) (min (2 ^ 31 - 1) (s.messageOffset n sent)) = s.messageOffset n sent by omega]
  refine (servo_near _ hStep hNear).mono fun _ t ht => ?_
  obtain ⟨hSame, hLast, hAdj, good, hClock⟩ := ht
  exact ⟨hSame, hLast, by rw [hClock], by rw [hClock], hAdj⟩

theorem timeMessageReceive_far (hAwake : s.awake = true) (hRole : s.casc.role = 2 ∨ s.casc.role = 3)
    (hUp : (s.casc.links.at n.val {}).up = true) (hSrc : s.rf .timeCfg 0 1 0 = 3) (hStep : s.clock.justStepped = false)
    (hFar : 1000000 ≤ (s.messageOffset n sent).natAbs) : s.does (.timeMessageReceive sent n) fun t =>
      t = { s with clock := t.clock, regs := t.regs } ∧ flag (t.rg .timeStat) 5 = true ∧ t.rg .timeAdj = s.rg .timeAdj := by
  refine timeMessageReceive_does hAwake hRole hUp hSrc ((servo_far _ hStep (by omega)).mono fun _ t ht => ?_)
  obtain ⟨hSame, -, hMark, -, hAdj, -⟩ := ht
  exact ⟨hSame, hMark, hAdj⟩

end

/-! ## Formation (R393, R394) -/

theorem foldl_bit4 (m : BitVec 4) : ((List.range 4).filter (flag m)).foldl (fun (b : BitVec 4) i => b ||| bit4 i) 0 = m := by
  revert m
  decide

/-- Of the modules that have answered, one that its strap selects, or the lowest. -/
theorem exists_master {l : List Nat} {sel : Nat → Bool} {i k : Nat} (hi : i ∈ l) :
    ((l.find? sel).orElse fun _ => l.head?).getD k ∈ l := by
  cases hFind : l.find? sel with
  | some m => simpa using List.mem_of_find?_eq_some hFind
  | none =>
    cases l with
    | nil => exact absurd hi List.not_mem_nil
    | cons a l => simp

/-- The roles a master gives, in the module's own view. -/
theorem setRoles_does (master : Nat) (standby : Option Nat) : (setRoles (some master) standby).Does s fun _ t =>
    t = s.upd (.casc { s.casc with master := some master, standby := standby
                                   role := if master = s.casc.id then 1 else if standby = some s.casc.id then 2 else 3 }) := by
  refine Act.Does.get_bind (Act.Does.make ?_)
  simp

theorem setRoles_rolesUnder (m : Nat) : (setRoles (some m) (s.casc.nextStandby m)).Does s fun _ t =>
    rolesUnder t m ∧ t = { s with casc := t.casc } ∧ t.casc.live = s.casc.live ∧ t.casc.formed = s.casc.formed ∧ t.casc.id = s.casc.id := by
  refine (setRoles_does m _).mono fun _ t ht => ?_
  subst ht
  exact ⟨⟨rfl, rfl, rfl⟩, rfl, rfl, rfl, rfl⟩

/-- SRC 3, the towline's time. -/
theorem field_timeCfg_src (w : Word) : field (setField w 1 0 3 &&& 0xFFFF3FFF) 1 0 = 3 := by
  have hThree (i : Nat) : Nat.testBit 3 i = decide (i < 2) := Nat.testBit_two_pow_sub_one 2 i
  refine Nat.eq_of_testBit_eq fun i => ?_
  rw [testBit_field, hThree]
  by_cases hi : i < 2
  · have hMask : flag (0xFFFF3FFF : Word) i = true := by
      obtain rfl | rfl : i = 0 ∨ i = 1 := by omega
      · rfl
      · rfl
    have hField := flag_setField w 1 0 3 (b := i) (by omega)
    rw [if_pos (by omega), Nat.sub_zero, hThree, decide_eq_true hi] at hField
    simp only [flag] at hMask hField
    simp only [flag, Nat.add_zero, BitVec.getLsbD_and, hMask, hField]
    simp [hi]
  · simp [hi]

theorem writeTimeCfg_src : (writeTimeCfg (setField (s.rg .timeCfg) 1 0 3)).Does s fun _ t =>
    t = { s with clock := t.clock, regs := t.regs } ∧ t.rf .timeCfg 0 1 0 = 3 := by
  have hField (u : State) : (u.upd (.reg (Reg.off .timeCfg 0 0) (setField (s.rg .timeCfg) 1 0 3 &&& 0xFFFF3FFF))).rf .timeCfg 0 1 0 = 3 := by
    rw [State.rf, State.rg_upd_reg]
    exact field_timeCfg_src _
  refine Act.Does.get_bind (Act.Does.ite (fun _ => Act.Does.make_bind ?_) fun _ => ?_)
  · exact Act.Does.reg_bind (Act.Does.pure ⟨rfl, hField _⟩)
  · exact Act.Does.reg_bind (Act.Does.pure ⟨rfl, hField _⟩)

theorem formationEnd_does (hAwake : s.awake = true) (hEnabled : s.casc.enabled = true) (hFormed : s.casc.formed = false)
    (hOwn : flag s.casc.expect s.casc.id = true) (hId : s.casc.id < 4)
    (hAll : ∀ i, i < 4 → flag s.casc.expect i = true → i = s.casc.id ∨ s.direct i = true) : s.does .formationEnd fun t =>
      t.casc.formed = true ∧ t.casc.id = s.casc.id ∧ t.casc.live = s.casc.expect ∧ t.mem = s.mem ∧ ∃ m, m < 4 ∧
        flag s.casc.expect m = true ∧ rolesUnder t m ∧ t.rf .timeCfg 0 1 0 = if m = s.casc.id then s.rf .timeCfg 0 1 0 else 3 := by
  have hAnswered : ((List.range 4).filter fun i => flag s.casc.expect i && (i = s.casc.id || s.direct i)) = modulesOf s.casc.expect := by
    refine List.filter_congr fun i hi => ?_
    cases h : flag s.casc.expect i with
    | false => rfl
    | true => simpa using hAll i (List.mem_range.mp hi) h
  have hMem : s.casc.id ∈ modulesOf s.casc.expect := List.mem_filter.mpr ⟨List.mem_range.mpr hId, hOwn⟩
  refine State.does_of rfl (Act.Does.get_bind (Act.Does.ite (fun _ => ?_) fun h => absurd (by simp [hAwake, hEnabled, hFormed]) h))
  simp only [hAnswered, Nat.lt_irrefl, if_false]
  refine Act.Does.get_bind (Act.Does.get_bind (Act.Does.make_bind (Act.Does.make_bind (Act.Does.get_bind ?_))))
  generalize hMaster : (((modulesOf s.casc.expect).find? _).orElse fun _ => (modulesOf s.casc.expect).head?).getD s.casc.id = m
  have hm : m ∈ modulesOf s.casc.expect := hMaster ▸ exists_master hMem
  obtain ⟨hm4, hmExpect⟩ := List.mem_filter.mp hm
  refine (setRoles_rolesUnder m).bind fun _ t ht => ?_
  obtain ⟨hRoles, hSame, hLive, hFormed', hId'⟩ := ht
  have hLive' : t.casc.live = s.casc.expect := hLive.trans (foldl_bit4 _)
  have hCfg : t.rg .timeCfg = s.rg .timeCfg := by
    rw [hSame]
    rfl
  have hMem' : t.mem = s.mem := by
    rw [hSame]
    rfl
  refine Act.Does.ite (fun hOther => ?_) fun hSelf => Act.Does.pure ?_
  · have hWrite := writeTimeCfg_src (s := t)
    rw [hCfg] at hWrite
    refine hWrite.bind fun _ u hu => Act.Does.pure ?_
    obtain ⟨hSame', hSrc⟩ := hu
    have hCasc : u.casc = t.casc := by
      rw [hSame']
    have hMem'' : u.mem = t.mem := by
      rw [hSame']
    refine ⟨hCasc ▸ hFormed', hCasc ▸ hId', hCasc ▸ hLive', hMem''.trans hMem', m, List.mem_range.mp hm4, hmExpect, ?_, ?_⟩
    · rw [rolesUnder, hCasc]
      exact hRoles
    · rw [if_neg (by simpa using hOther), hSrc]
  · refine ⟨hFormed', hId', hLive', hMem', m, List.mem_range.mp hm4, hmExpect, hRoles, ?_⟩
    rw [if_pos (by simpa using hSelf), State.rf, hCfg]
    rfl

/-- Settles O59: towlines by what trains, fails or beats on them, then time messages by their offset, then formation. -/
theorem towlinesCarryTimeAndRoles : Obligations.TowlinesCarryTimeAndRoles := by
  intro s hAwake
  refine ⟨fun n peer lanes => ⟨towlineTraining_peer hAwake, towlineTraining_wrong hAwake⟩, fun n failed => ?_,
    State.does_of rfl (Act.Does.get_bind (Act.Does.make rfl)),
    fun hMaster => State.does_of rfl (Act.Does.get_bind (Act.Does.ite (fun _ => Act.Does.make rfl) fun h =>
      absurd (by simp [hAwake, hMaster]) h)),
    fun hOther => State.does_of rfl (Act.Does.get_bind (Act.Does.ite (fun h => absurd (by simpa [hAwake] using h) hOther) fun _ =>
      Act.Does.pure rfl)),
    fun hEnabled hFormed hOwn hId hAll => formationEnd_does hAwake hEnabled hFormed hOwn hId hAll⟩
  intro x now hUp
  refine ⟨towlineFlitReceive_good hAwake hUp, fun hFew => ?_, fun hMany => ?_, delayMeasure_does hAwake hUp, heartbeat_does hAwake hUp,
    fun sent hRole hSrc hStep => ⟨timeMessageReceive_near hAwake hRole hUp hSrc hStep, timeMessageReceive_far hAwake hRole hUp hSrc hStep⟩⟩
  · exact towlineFlitReceive_resent hAwake hUp hFew
  · exact (towlineFlitReceive_retrains hAwake hUp hMany).mono fun t ht => ⟨ht.mem, ht.locks, ht.towline, ht.lanes, ht.count⟩

end Sys2Proof.Machine

/-!
PROOF. The shares of the power budget (R397, R425).
-/
namespace Sys2Proof.Machine

/-! ## Sums -/

theorem sum_filter_le {α : Type} (f : α → Rat) (p : α → Bool) : ∀ l : List α, (∀ x ∈ l, 0 ≤ f x) → ((l.filter p).map f).sum ≤ (l.map f).sum
  | [], _ => by simp
  | x :: l, h => by
    have hTail := sum_filter_le f p l fun y hy => h y (List.mem_cons_of_mem _ hy)
    have hx := h x List.mem_cons_self
    by_cases hp : p x = true
    · simp only [List.filter_cons_of_pos hp, List.map_cons, List.sum_cons]
      linarith
    · simp only [List.filter_cons_of_neg hp, List.map_cons, List.sum_cons]
      linarith

theorem sum_filter_add_not {α : Type} (f : α → Rat) (p : α → Bool) : ∀ l : List α,
    ((l.filter p).map f).sum + ((l.filter fun x => !p x).map f).sum = (l.map f).sum
  | [] => by simp
  | x :: l => by
    have hTail := sum_filter_add_not f p l
    cases hp : p x with
    | true =>
      simp only [List.filter_cons, hp, if_true, Bool.not_true, Bool.false_eq_true, if_false, List.map_cons, List.sum_cons]
      linarith
    | false =>
      simp only [List.filter_cons, hp, if_true, Bool.not_false, Bool.false_eq_true, if_false, List.map_cons, List.sum_cons]
      linarith

theorem sum_le_sum_of_le {α : Type} {f g : α → Rat} : ∀ {l : List α}, (∀ x ∈ l, f x ≤ g x) → (l.map f).sum ≤ (l.map g).sum :=
  fun h => List.sum_le_sum h

/-- What one member of a list is given over its share, the list is given. -/
theorem sum_map_add_if {α : Type} (f id : α → Nat) (low rest : Nat) : ∀ l : List α, (l.map id).Nodup →
    (l.map fun c => f c + if id c = low then rest else 0).sum ≤ (l.map f).sum + rest
  | [], _ => by simp
  | c :: l, h => by
    obtain ⟨hc, hl⟩ := List.nodup_cons.mp h
    simp only [List.map_cons, List.sum_cons]
    by_cases hLow : id c = low
    · have hNone : (l.map fun d => f d + if id d = low then rest else 0) = l.map f := List.map_congr_left fun d hd => by
        have hd' : id d ≠ low := fun e => hc ((hLow.trans e.symm) ▸ List.mem_map_of_mem hd)
        rw [if_neg hd', Nat.add_zero]
      rw [hNone, if_pos hLow]
      omega
    · have hTail := sum_map_add_if f id low rest l hl
      rw [if_neg hLow]
      omega

/-! ## The loop of R425 -/

/-- A claim that is not yet given more than the floor. -/
def Claim.Floor (c : Claim) : Prop := c.share = 40 ∧ 40 ≤ c.d

/-- The weight of a claim. -/
def Claim.weight (c : Claim) : Rat := (c.d - c.share) * 2 ^ c.k

theorem Claim.Floor.need {c : Claim} (h : c.Floor) : 0 ≤ (c.d : Rat) - c.share := by
  have : (40 : Rat) ≤ c.d := by exact_mod_cast h.2
  rw [h.1]
  linarith

theorem Claim.Floor.weight {c : Claim} (h : c.Floor) : 0 ≤ c.weight := mul_nonneg h.need (by positivity)

/-- What a round gives: no claim below the floor, those capped what they ask, and no more than is left. -/
structure Shared (cs : List Claim) (left : Rat) (o l : List Claim) : Prop where
  length : o.length + l.length = cs.length
  ids : (o.map Claim.id).Sublist (cs.map Claim.id)
  open_floor : ∀ c ∈ o, 40 ≤ c.share
  capped : ∀ c ∈ l, c.share = c.d ∧ 40 ≤ c.d
  within : (o.map Claim.share).sum + (l.map Claim.share).sum ≤ 40 * cs.length + left

theorem sum_floor {cs : List Claim} (h : ∀ c ∈ cs, c.Floor) : (cs.map Claim.share).sum = 40 * cs.length := by
  rw [List.map_congr_left (g := fun _ => (40 : Rat)) fun c hc => (h c hc).1]
  simp [mul_comm]

theorem shared_floor {cs : List Claim} {left : Rat} (h : ∀ c ∈ cs, c.Floor) (hLeft : 0 ≤ left) : Shared cs left cs [] := by
  refine ⟨by simp, .refl _, fun c hc => (h c hc).1.ge, by simp, ?_⟩
  rw [sum_floor h]
  simpa using hLeft

/-- What of `left` a claim is given by its weight. -/
def shareGiven (left : Rat) (cs : List Claim) (c : Claim) : Rat := left * c.weight / (cs.map Claim.weight).sum

/-- The claims that ask no more than they are given. -/
def cappedClaims (left : Rat) (cs : List Claim) : List Claim := cs.filter fun c => (c.d : Rat) ≤ c.share + shareGiven left cs c

theorem shareLoop_succ (fuel : Nat) (left : Rat) (cs : List Claim) : shareLoop (fuel + 1) left cs =
    if (cs.map Claim.weight).sum = 0 then (cs, [])
    else if (cappedClaims left cs).isEmpty then (cs.map fun c => { c with share := c.share + shareGiven left cs c }, [])
    else
      let taken := ((cappedClaims left cs).map fun c => (c.d : Rat) - c.share).sum
      let next := shareLoop fuel (left - taken) (cs.filter fun c => !(cappedClaims left cs).contains c)
      (next.1, (cappedClaims left cs).map (fun c => { c with share := (c.d : Rat) }) ++ next.2) := rfl

theorem sum_shareGiven {cs : List Claim} {left : Rat} (hSum : (cs.map Claim.weight).sum ≠ 0) :
    (cs.map (shareGiven left cs)).sum = left := by
  have hFactor : cs.map (shareGiven left cs) = cs.map fun c => left / (cs.map Claim.weight).sum * c.weight :=
    List.map_congr_left fun c _ => by
      rw [shareGiven]
      ring
  rw [hFactor, List.sum_map_mul_left]
  field_simp

theorem shareGiven_nonneg {cs : List Claim} {left : Rat} (h : ∀ c ∈ cs, c.Floor) (hLeft : 0 ≤ left) : ∀ c ∈ cs,
    0 ≤ shareGiven left cs c := fun c hc =>
  div_nonneg (mul_nonneg hLeft (h c hc).weight) (List.sum_nonneg (by simpa using fun a ha => (h a ha).weight))

/-- Every claim is given a part: the last round. -/
theorem shared_given {cs : List Claim} {left : Rat} (h : ∀ c ∈ cs, c.Floor) (hLeft : 0 ≤ left)
    (hSum : (cs.map Claim.weight).sum ≠ 0) : Shared cs left (cs.map fun c => { c with share := c.share + shareGiven left cs c }) [] := by
  refine ⟨by simp, by simp [Function.comp_def], fun c hc => ?_, by simp, ?_⟩
  · obtain ⟨d, hd, rfl⟩ := List.mem_map.mp hc
    have hGiven := shareGiven_nonneg h hLeft d hd
    have hFloor := (h d hd).1
    simp only
    linarith
  · rw [List.map_map, show (Claim.share ∘ fun c : Claim => { c with share := c.share + shareGiven left cs c }) =
      fun c => c.share + shareGiven left cs c from rfl, List.sum_map_add, sum_floor h, sum_shareGiven hSum]
    simp

theorem filter_not_contains_filter {cs : List Claim} (p : Claim → Bool) :
    (cs.filter fun c => !(cs.filter p).contains c) = cs.filter fun c => !p c :=
  List.filter_congr fun c hc => by simp [hc]

/-- The claims that are capped take no more than is left. -/
theorem taken_le_left {cs : List Claim} {left : Rat} (h : ∀ c ∈ cs, c.Floor) (hLeft : 0 ≤ left)
    (hSum : (cs.map Claim.weight).sum ≠ 0) : ((cappedClaims left cs).map fun c => (c.d : Rat) - c.share).sum ≤ left := by
  calc ((cappedClaims left cs).map fun c => (c.d : Rat) - c.share).sum
      ≤ ((cappedClaims left cs).map (shareGiven left cs)).sum := List.sum_le_sum fun c hc => by
        have := of_decide_eq_true (List.mem_filter.mp hc).2
        linarith
    _ ≤ (cs.map (shareGiven left cs)).sum := sum_filter_le _ _ _ (shareGiven_nonneg h hLeft)
    _ = left := sum_shareGiven hSum

/-- A round that caps claims, and what the next makes of the others. -/
theorem Shared.cap {cs : List Claim} {left : Rat} {p : Claim → Bool} {o l : List Claim} (h : ∀ c ∈ cs, c.Floor)
    (hNext : Shared (cs.filter fun c => !p c) (left - ((cs.filter p).map fun c => (c.d : Rat) - c.share).sum) o l) :
    Shared cs left o ((cs.filter p).map (fun c => { c with share := (c.d : Rat) }) ++ l) := by
  have hFilter : ∀ c ∈ cs.filter p, c.Floor := fun c hc => h c (List.mem_filter.mp hc).1
  have hLength := List.length_eq_length_filter_add (l := cs) p
  have hNextLength := hNext.length
  refine ⟨?_, hNext.ids.trans (List.filter_sublist.map _), hNext.open_floor, fun c hc => ?_, ?_⟩
  · simp only [List.length_append, List.length_map]
    omega
  · rcases List.mem_append.mp hc with hCapped | hRest
    · obtain ⟨d, hd, rfl⟩ := List.mem_map.mp hCapped
      exact ⟨rfl, (hFilter d hd).2⟩
    · exact hNext.capped c hRest
  · have hWithin := hNext.within
    have hTaken : ((cs.filter p).map fun c => (c.d : Rat) - c.share).sum = ((cs.filter p).map fun c => (c.d : Rat)).sum - 40 * (cs.filter p).length := by
      have hAdd : ((cs.filter p).map fun c => (c.d : Rat)).sum =
          ((cs.filter p).map fun c => (c.d : Rat) - c.share).sum + ((cs.filter p).map Claim.share).sum := by
        rw [← List.sum_map_add]
        simp
      rw [hAdd, sum_floor hFilter]
      ring
    have hLengthQ : (cs.length : Rat) = (cs.filter p).length + (cs.filter fun c => !p c).length := by exact_mod_cast hLength
    rw [hTaken] at hWithin
    rw [List.map_append, List.sum_append, List.map_map, hLengthQ,
      show (Claim.share ∘ fun c : Claim => { c with share := (c.d : Rat) }) = fun c => (c.d : Rat) from rfl]
    linarith

theorem shareLoop_shared : ∀ (fuel : Nat) (left : Rat) (cs : List Claim), (∀ c ∈ cs, c.Floor) → 0 ≤ left →
    Shared cs left (shareLoop fuel left cs).1 (shareLoop fuel left cs).2
  | 0, _, _, h, hLeft => shared_floor h hLeft
  | fuel + 1, left, cs, h, hLeft => by
    rw [shareLoop_succ]
    split
    · exact shared_floor h hLeft
    · next hSum =>
      split
      · exact shared_given h hLeft hSum
      · rw [show (cs.filter fun c => !(cappedClaims left cs).contains c) = _ from filter_not_contains_filter _]
        refine Shared.cap h (shareLoop_shared fuel _ _ (fun c hc => h c (List.mem_filter.mp hc).1) ?_)
        have := taken_le_left h hLeft hSum
        rw [cappedClaims] at this
        linarith

/-! ## Whole watts -/

/-- A share in whole W. -/
def Claim.whole (c : Claim) : Nat := c.share.floor.toNat

theorem Claim.whole_le {c : Claim} (h : 0 ≤ c.share) : (c.whole : Rat) ≤ c.share := by
  have hFloor : 0 ≤ c.share.floor := Rat.le_floor_iff.mpr (by simpa using h)
  have hCast : ((c.whole : Int) : Rat) = (c.share.floor : Rat) := by rw [Claim.whole, Int.toNat_of_nonneg hFloor]
  have hLe := Rat.floor_le c.share
  rw [← hCast] at hLe
  exact_mod_cast hLe

theorem Claim.le_whole {c : Claim} {n : Nat} (h : (n : Rat) ≤ c.share) : n ≤ c.whole := by
  have hFloor : (n : Int) ≤ c.share.floor := Rat.le_floor_iff.mpr (by exact_mod_cast h)
  rw [Claim.whole]
  omega

theorem sum_whole_le {cs : List Claim} (h : ∀ c ∈ cs, 0 ≤ c.share) : (((cs.map Claim.whole).sum : Nat) : Rat) ≤ (cs.map Claim.share).sum := by
  rw [Nat.cast_list_sum, List.map_map]
  exact List.sum_le_sum fun c hc => Claim.whole_le (h c hc)

/-- What whole W leave of the claims that are open. -/
def wholeRest (o : List Claim) : Nat := ((o.map Claim.share).sum).floor.toNat - (o.map Claim.whole).sum

/-- Whole W and what they leave stay within the shares. -/
theorem sum_whole_add_rest {o : List Claim} (h : ∀ c ∈ o, 0 ≤ c.share) :
    (((o.map Claim.whole).sum + wholeRest o : Nat) : Rat) ≤ (o.map Claim.share).sum := by
  have hSum := sum_whole_le h
  have hNonneg : 0 ≤ (o.map Claim.share).sum := List.sum_nonneg (by simpa using h)
  have hFloor : 0 ≤ ((o.map Claim.share).sum).floor := Rat.le_floor_iff.mpr (by simpa using hNonneg)
  have hLe : (o.map Claim.whole).sum ≤ ((o.map Claim.share).sum).floor.toNat := by
    generalize (o.map Claim.whole).sum = n at hSum ⊢
    have : (n : Int) ≤ ((o.map Claim.share).sum).floor := Rat.le_floor_iff.mpr (by exact_mod_cast hSum)
    omega
  have hTotal : (o.map Claim.whole).sum + wholeRest o = ((o.map Claim.share).sum).floor.toNat := by
    rw [wholeRest]
    omega
  have hCast : ((((o.map Claim.share).sum).floor.toNat : Int) : Rat) = (((o.map Claim.share).sum).floor : Rat) := by
    rw [Int.toNat_of_nonneg hFloor]
  have hLast := Rat.floor_le (o.map Claim.share).sum
  rw [← hCast] at hLast
  rw [hTotal]
  exact_mod_cast hLast

/-! ## The shares of a budget -/

/-- A claim of the floor, as the loop begins. -/
def claimOfReport (c : Nat × Nat × Nat) : Claim := { id := c.1, d := c.2.1, k := c.2.2, share := 40 }

/-- What the loop gives in whole W; the claim of the lowest ID takes what they leave. -/
def wholeShares (r : List Claim × List Claim) : List (Nat × Nat) :=
  (r.1.map fun c => (c.id, c.whole + if c.id = ((r.1.map Claim.id).min?).getD 4 then wholeRest r.1 else 0)) ++
    r.2.map fun c => (c.id, c.whole)

theorem sharesOf_eq (b : Nat) (claims : List (Nat × Nat × Nat)) : sharesOf b claims =
    if b < claims.length * 40 then (claims.map fun c => (c.1, 40), true)
    else (wholeShares (shareLoop ((claims.map claimOfReport).length + 1) (b - claims.length * 40 : Nat) (claims.map claimOfReport)), false) := rfl

section
variable {cs o l : List Claim} {left : Rat}

theorem Shared.wholeShares_length (h : Shared cs left o l) : (wholeShares (o, l)).length = cs.length := by
  simpa [wholeShares] using h.length

theorem Shared.le_wholeShares (h : Shared cs left o l) : ∀ x ∈ wholeShares (o, l), 40 ≤ x.2 := by
  intro x hx
  rcases List.mem_append.mp hx with hOpen | hCapped
  · obtain ⟨c, hc, rfl⟩ := List.mem_map.mp hOpen
    exact (Claim.le_whole (n := 40) (by exact_mod_cast h.open_floor c hc)).trans (Nat.le_add_right _ _)
  · obtain ⟨c, hc, rfl⟩ := List.mem_map.mp hCapped
    obtain ⟨hShare, hAsk⟩ := h.capped c hc
    exact Claim.le_whole (n := 40) (by rw [hShare]; exact_mod_cast hAsk)

theorem Shared.sum_wholeShares (h : Shared cs left o l) (hIds : (cs.map Claim.id).Nodup) :
    ((((wholeShares (o, l)).map fun x => x.2).sum : Nat) : Rat) ≤ 40 * cs.length + left := by
  have hOpen : ∀ c ∈ o, 0 ≤ c.share := fun c hc => le_trans (by norm_num) (h.open_floor c hc)
  have hCapped : ∀ c ∈ l, 0 ≤ c.share := fun c hc => by
    rw [(h.capped c hc).1]
    positivity
  have hGiven := sum_map_add_if Claim.whole Claim.id (((o.map Claim.id).min?).getD 4) (wholeRest o) o (h.ids.nodup hIds)
  have hSum : ((wholeShares (o, l)).map fun x => x.2).sum ≤ (o.map Claim.whole).sum + wholeRest o + (l.map Claim.whole).sum := by
    have hCapped' : (l.map fun c => c.whole) = l.map Claim.whole := rfl
    simp only [wholeShares, List.map_append, List.map_map, List.sum_append, Function.comp_def, hCapped']
    omega
  calc ((((wholeShares (o, l)).map fun x => x.2).sum : Nat) : Rat)
      ≤ (((o.map Claim.whole).sum + wholeRest o + (l.map Claim.whole).sum : Nat) : Rat) := Nat.cast_le.mpr hSum
    _ = (((o.map Claim.whole).sum + wholeRest o : Nat) : Rat) + ((l.map Claim.whole).sum : Nat) := Nat.cast_add _ _
    _ ≤ (o.map Claim.share).sum + (l.map Claim.share).sum := add_le_add (sum_whole_add_rest hOpen) (sum_whole_le hCapped)
    _ ≤ 40 * cs.length + left := h.within

end

theorem sharesOf_under {b : Nat} {claims : List (Nat × Nat × Nat)} (h : b < claims.length * 40) :
    sharesOf b claims = (claims.map fun c => (c.1, 40), true) := by rw [sharesOf_eq, if_pos h]

/-- Shares of a budget that covers the floor of each. -/
theorem sharesOf_covered {b : Nat} {claims : List (Nat × Nat × Nat)} (hAsk : ∀ c ∈ claims, 40 ≤ c.2.1)
    (hIds : (claims.map fun c => c.1).Nodup) (h : claims.length * 40 ≤ b) :
    (∀ x ∈ (sharesOf b claims).1, 40 ≤ x.2) ∧ (sharesOf b claims).1.length = claims.length ∧
    ((sharesOf b claims).1.map fun x => x.2).sum ≤ b ∧ (sharesOf b claims).2 = false := by
  have hFloor : ∀ c ∈ claims.map claimOfReport, c.Floor := fun c hc => by
    obtain ⟨d, hd, rfl⟩ := List.mem_map.mp hc
    exact ⟨rfl, hAsk d hd⟩
  have hShared := shareLoop_shared ((claims.map claimOfReport).length + 1) ((b - claims.length * 40 : Nat) : Rat) _ hFloor (by positivity)
  rw [sharesOf_eq, if_neg (by omega)]
  generalize shareLoop ((claims.map claimOfReport).length + 1) ((b - claims.length * 40 : Nat) : Rat) (claims.map claimOfReport) = r at hShared ⊢
  have hSum := hShared.sum_wholeShares (by simpa [Function.comp_def, claimOfReport] using hIds)
  have hBudget : (40 : Rat) * ((claims.map claimOfReport).length : Nat) + ((b - claims.length * 40 : Nat) : Rat) = (b : Nat) := by
    rw [List.length_map, Nat.cast_sub h]
    push_cast
    ring
  rw [hBudget] at hSum
  exact ⟨hShared.le_wholeShares, hShared.wholeShares_length.trans (by simp), Nat.cast_le.mp hSum, rfl⟩

end Sys2Proof.Machine

/-!
PROOF. The cascade: reports and shares, the loss of modules, hot swap and MASKs (R395, R397, R398, R402 to R404, R425, R475).
-/
namespace Sys2Proof.Machine

variable {s t : State} {who : Who}

theorem State.SameBut.rg {l : List Fld} (h : s.SameBut l t) (hl : Fld.regs ∉ l) (r : Reg) (i j : Nat) : t.rg r i j = s.rg r i j :=
  State.rg_eq_of_find (congrArg (fun w : Sparse Word => w.find (r.off i j)) (h .regs hl))

theorem State.SameBut.rf {l : List Fld} (h : s.SameBut l t) (hl : Fld.regs ∉ l) {r : Reg} {i hi lo : Nat} :
    t.rf r i hi lo = s.rf r i hi lo := by rw [State.rf, h.rg hl, State.rf]

/-! ## PWR_SHARE -/

/-- What PWR_SHARE reads. -/
def shareWord (w : Nat) (under : Bool) (urgency : Nat) : Word := Word.ofNat (pack [(min 4095 w, 0), (b2n under, 12), (urgency, 13)])

theorem pack_share (m b u : Nat) : pack [(m, 0), (b, 12), (u, 13)] = m + b * 4096 + u * 8192 := by simp [pack]

theorem field_shareWord (w : Nat) (under : Bool) (u : Nat) : field (shareWord w under u) 11 0 = min 4095 w := by
  have hUnder : b2n under ≤ 1 := by cases under <;> decide
  rw [shareWord, pack_share, field, Word.ofNat, BitVec.toNat_ofNat]
  omega

theorem flag_shareWord (w : Nat) (under : Bool) (u : Nat) : flag (shareWord w under u) 12 = under := by
  have hDiv : (min 4095 w + b2n under * 4096 + u * 8192) / 2 ^ 12 = b2n under + 2 * u := by omega
  have hMod : (b2n under + 2 * u) % 2 = b2n under := by cases under <;> simp
  rw [shareWord, pack_share, flag, Word.ofNat, BitVec.getLsbD_ofNat, Nat.testBit_eq_decide_div_mod_eq, hDiv, hMod]
  cases under <;> rfl

theorem takeShare_does (w : Nat) (under : Bool) : (takeShare w under).Does s fun _ t =>
    t = s.upd (.reg (Reg.off .pwrShare 0 0) (shareWord w under s.urgency)) := Act.Does.get_bind (Act.Does.make rfl)

/-- A share has been taken. -/
structure State.ShareTaken (s : State) (w : Nat) (under : Bool) (t : State) : Prop where
  same : t = { s with regs := t.regs }
  regs : regsBut s t [Reg.off .pwrShare 0 0]
  share : t.rf .pwrShare 0 11 0 = min 4095 w
  under : flag (t.rg .pwrShare) 12 = under

theorem State.ShareTaken.sameBut {w : Nat} {under : Bool} (h : s.ShareTaken w under t) : s.SameBut [.regs] t := fun f hf => by
  rw [h.same]
  cases f with
  | regs => exact absurd (by decide) hf
  | _ => rfl

theorem takeShare_taken (w : Nat) (under : Bool) : (takeShare w under).Does s fun _ t => s.ShareTaken w under t := by
  refine (takeShare_does w under).mono fun _ t ht => ?_
  subst ht
  refine ⟨rfl, fun o ho => s.find_upd_reg_other _ (by simpa using ho), ?_, ?_⟩
  · rw [State.rf, State.rg_upd_reg]
    exact field_shareWord w under s.urgency
  · rw [State.rg_upd_reg]
    exact flag_shareWord w under s.urgency

/-! ## Reports (R397, R425) -/

theorem powerReport_alone (hAwake : s.awake = true) (hAlone : s.casc.role = 0) (rs : List ModuleReport) :
    s.does (.powerReport rs) fun t => t = { s with regs := t.regs } ∧ regsBut s t [Reg.off .pwrShare 0 0] ∧
      t.rf .pwrShare 0 11 0 = min 4095 (min (s.rf .pwrBudget 0 11 0) (s.rf .pwrModmax 0 8 0)) :=
  State.does_of rfl (Act.Does.get_bind (Act.Does.ite (fun _ => Act.Does.ite (fun _ =>
    (takeShare_taken _ _).mono fun _ _ ht => ⟨ht.same, ht.regs, ht.share⟩) fun h => absurd hAlone h) fun h => absurd hAwake h))

theorem shareTimeout_does (hAwake : s.awake = true) (hRole : s.casc.role = 2 ∨ s.casc.role = 3)
    (hDue : (s.casc.lastShare + 3 * 10 ^ 6) * nsUnit ≤ s.clock.elapsed) : s.does .shareTimeout fun t => t = { s with regs := t.regs } ∧
      regsBut s t [Reg.off .pwrShare 0 0] ∧ t.rf .pwrShare 0 11 0 = min 4095 (s.rf .pwrBudget 0 11 0 / max 1 s.casc.liveAtShare) := by
  refine State.does_of rfl (Act.Does.get_bind (Act.Does.ite (fun _ => ?_) fun h => absurd (by simpa [hAwake] using hRole) h))
  refine Act.Does.bind (Act.does_of_run (Q := fun _ t => t = s) (fun k => run_reach_past hDue k) rfl) fun _ t ht => ?_
  subst ht
  exact (takeShare_taken _ _).mono fun _ _ ht => ⟨ht.same, ht.regs, ht.share⟩

/-- Every claim is the floor or more. -/
theorem le_claimOf {own : Nat} (h : 40 ≤ own) (i : Nat) : 40 ≤ (s.claimOf own i).2.1 := by
  unfold State.claimOf
  split
  · exact h
  · split
    · exact Nat.le_max_left _ _
    · exact Nat.le_refl _

theorem claimOf_id (own i : Nat) : (s.claimOf own i).1 = i := by
  unfold State.claimOf
  split
  · rfl
  · split <;> rfl

/-- The shares made of the claims of the modules live in `s`. -/
structure State.SharesMade (s t : State) : Prop where
  same : s.SameBut [.casc, .regs, .freeCount] t
  regs : regsBut s t [Reg.off .pwrShare 0 0]
  live : t.casc.live = s.casc.live
  joining : t.casc.joining = s.casc.joining
  time : t.casc.lastShare = s.ns
  shares : ∃ claims : List (Nat × Nat × Nat), (∀ c ∈ claims, 40 ≤ c.2.1) ∧ claims.map (fun c => c.1) = modulesOf s.casc.live ∧
    t.casc.shares = (sharesOf (s.rf .pwrBudget 0 11 0) claims).1 ∧
    flag (t.rg .pwrShare) 12 = (sharesOf (s.rf .pwrBudget 0 11 0) claims).2

/-- A module's own demand: what it reports of itself, or its own prediction. -/
def State.ownDemand (s : State) (d : Nat) : Nat :=
  match s.casc.reports.find? fun r => r.id.val = s.casc.id with
  | some r => max 40 (min (max 40 (s.rf .pwrModmax 0 8 0)) r.demand)
  | none => max 40 (min (max 40 (s.rf .pwrModmax 0 8 0)) (Config.freeWord d).toNat)

theorem State.le_ownDemand (s : State) (d : Nat) : 40 ≤ s.ownDemand d := by
  unfold State.ownDemand
  split
  · exact Nat.le_max_left _ _
  · exact Nat.le_max_left _ _

/-- The shares the master makes of the last reports. -/
def State.madeShares (s : State) (d : Nat) : List (Nat × Nat) × Bool :=
  sharesOf (s.rf .pwrBudget 0 11 0) ((modulesOf s.casc.live).map (s.claimOf (s.ownDemand d)))

theorem powerReport_does {P : State → Prop} {rs : List ModuleReport} (hAwake : s.awake = true) (hRole : s.casc.role ≠ 0)
    (hJoin : (finishJoin rs).Does s fun _ t => P t) : s.does (.powerReport rs) fun u => ∃ t, P t ∧ t.SharesMade u := by
  refine State.does_of rfl (Act.Does.get_bind (Act.Does.ite (fun _ => Act.Does.ite (fun h => absurd h hRole) fun _ => ?_)
    fun h => absurd hAwake h))
  refine hJoin.bind fun _ t ht => Act.Does.get_bind (Act.Does.make_bind (Act.Does.get_bind ?_))
  generalize hReports : t.upd (.casc { t.casc with reports := _ }) = u
  have hMade (d : Nat) : (do
      Act.make (.casc { u.casc with shares := (u.madeShares d).1, lastShare := u.ns, liveAtShare := (modulesOf u.casc.live).length })
      takeShare ((((u.madeShares d).1.find? fun x => x.1 = u.casc.id).map fun x => x.2).getD 40) (u.madeShares d).2 : Act Unit).Does
      (u.upd .draw) fun _ v => t.SharesMade v := by
    have hBudget : u.rf .pwrBudget 0 11 0 = t.rf .pwrBudget 0 11 0 := by rw [← hReports]; rfl
    have hLive : u.casc.live = t.casc.live := by rw [← hReports]; rfl
    have hNs : u.ns = t.ns := by rw [← hReports]; rfl
    have hJoining : u.casc.joining = t.casc.joining := by rw [← hReports]; rfl
    have hRegs : u.regs = t.regs := by rw [← hReports]; rfl
    have hSame : t.SameBut [.casc, .regs, .freeCount] u := by
      rw [← hReports]
      exact (State.SameBut.refl _ t).upd (by simp)
    refine Act.Does.make_bind ((takeShare_taken _ _).mono fun _ v hv => ?_)
    have hCasc : v.casc = { u.casc with shares := (u.madeShares d).1, lastShare := u.ns, liveAtShare := (modulesOf u.casc.live).length } := by
      rw [hv.same]
      rfl
    refine ⟨?_, fun o ho => (hv.regs o ho).trans (congrArg (fun w : Sparse Word => w.find o) hRegs), ?_, ?_, ?_,
      (modulesOf u.casc.live).map (u.claimOf (u.ownDemand d)), fun c hc => ?_, ?_, ?_, ?_⟩
    · refine State.SameBut.trans (State.SameBut.upd (hSame.upd (u := .draw) ?_) ?_) (hv.sameBut.mono (by decide))
      · simp
      · simp
    · rw [hCasc, ← hLive]
    · rw [hCasc, ← hJoining]
    · rw [hCasc, ← hNs]
    · obtain ⟨i, _, rfl⟩ := List.mem_map.mp hc
      exact le_claimOf (u.le_ownDemand d) i
    · rw [List.map_map, ← hLive]
      simp [Function.comp_def, claimOf_id]
    · rw [hCasc, ← hBudget]
      rfl
    · rw [hv.under, ← hBudget]
      rfl
  exact Act.Does.get_bind (Act.Does.make_bind ((hMade _).mono fun _ v hv => ⟨t, ht, hv⟩))

theorem powerReport_shares (hAwake : s.awake = true) (hRole : s.casc.role ≠ 0) (hNone : s.casc.joining = none) (rs : List ModuleReport) :
    s.does (.powerReport rs) fun t =>
      t.mem = s.mem ∧ t.ctxs = s.ctxs ∧ t.casc.live = s.casc.live ∧ t.casc.lastShare = s.ns ∧
      (∀ x ∈ t.casc.shares, 40 ≤ x.2) ∧ t.casc.shares.length = (modulesOf s.casc.live).length ∧
      ((modulesOf s.casc.live).length * 40 ≤ s.rf .pwrBudget 0 11 0 →
        (t.casc.shares.map fun x => x.2).sum ≤ s.rf .pwrBudget 0 11 0 ∧ flag (t.rg .pwrShare) 12 = false) ∧
      (s.rf .pwrBudget 0 11 0 < (modulesOf s.casc.live).length * 40 →
        (∀ x ∈ t.casc.shares, x.2 = 40) ∧ flag (t.rg .pwrShare) 12 = true) := by
  have hJoin : (finishJoin rs).Does s fun _ t => t = s := by
    refine Act.Does.get_bind ?_
    simp only [hNone]
    exact Act.Does.pure rfl
  refine (powerReport_does hAwake hRole hJoin).mono ?_
  rintro t ⟨u, hu, h⟩
  rw [hu] at h
  obtain ⟨claims, hAsk, hIds, hShares, hUnder⟩ := h.shares
  have hLength : claims.length = (modulesOf s.casc.live).length := by rw [← hIds, List.length_map]
  have hNodup : (claims.map fun c => c.1).Nodup := hIds ▸ List.nodup_range.filter _
  refine ⟨h.same .mem (by decide), h.same .ctxs (by decide), h.live, h.time, ?_⟩
  rw [hShares, hUnder, ← hLength]
  by_cases hCovered : claims.length * 40 ≤ s.rf .pwrBudget 0 11 0
  · obtain ⟨hFloor, hCount, hSum, hFlag⟩ := sharesOf_covered hAsk hNodup hCovered
    exact ⟨hFloor, hCount, fun _ => ⟨hSum, hFlag⟩, fun hLess => absurd hCovered (by omega)⟩
  · rw [sharesOf_under (by omega)]
    refine ⟨fun x hx => ?_, by simp, fun h => absurd h hCovered, fun _ => ⟨fun x hx => ?_, rfl⟩⟩
    · obtain ⟨c, _, rfl⟩ := List.mem_map.mp hx
      exact Nat.le_refl 40
    · obtain ⟨c, _, rfl⟩ := List.mem_map.mp hx
      rfl

theorem flag_or_bit4 (b : BitVec 4) (m : Fin 4) : flag (b ||| bit4 m.val) m.val = true := by
  revert b m
  decide

theorem finishJoin_joins {m : Fin 4} {r : ModuleReport} {rs : List ModuleReport} (hJoining : s.casc.joining = some m) (hr : r ∈ rs)
    (hId : r.id = m) : (finishJoin rs).Does s fun _ t => t.casc.joining = none ∧ flag t.casc.live m.val = true ∧ t.rg .towCmdStatus = 0 := by
  have hAny : (rs.any fun r => r.id = m) = true := List.any_eq_true.mpr ⟨r, hr, by simpa using hId⟩
  have hLive : flag (s.casc.live ||| bit4 m.val) m.val = true := flag_or_bit4 _ m
  refine Act.Does.get_bind ?_
  simp only [hJoining]
  refine Act.Does.ite (fun _ => Act.Does.make_bind (Act.Does.reg_bind (Act.Does.get_bind ?_))) fun h => absurd hAny h
  split
  · exact (setRoles_does _ _).mono fun _ t ht => by
      subst ht
      exact ⟨rfl, hLive, State.rg_upd_reg _ _ _ _ _⟩
  · exact Act.Does.pure ⟨rfl, hLive, State.rg_upd_reg _ _ _ _ _⟩

theorem powerReport_joins {m : Fin 4} {r : ModuleReport} {rs : List ModuleReport} (hAwake : s.awake = true) (hRole : s.casc.role ≠ 0)
    (hJoining : s.casc.joining = some m) (hr : r ∈ rs) (hId : r.id = m) : s.does (.powerReport rs) fun t =>
      t.casc.joining = none ∧ flag t.casc.live m.val = true ∧ t.rg .towCmdStatus = 0 := by
  refine (powerReport_does hAwake hRole (finishJoin_joins hJoining hr hId)).mono ?_
  rintro u ⟨t, ⟨hNone, hLive, hStatus⟩, h⟩
  refine ⟨h.joining.trans hNone, h.live ▸ hLive, (State.rg_eq_of_find (h.regs _ ?_)).trans hStatus⟩
  simp [Reg.off, Reg.row]

/-! ## Modules lost (R402, R403) -/

/-- The module alone. -/
def Casc.alone (k : Casc) : Casc :=
  { k with alive := false, role := 0, master := none, standby := none, enabled := false, formed := false, live := bit4 k.id,
           leaving := none, joining := none }

theorem heartbeatLoss_does {b : Nat} (hAwake : s.awake = true) (hCalm : s.calm = true) (hRole : s.casc.role ≠ 0)
    (hNone : s.openParts s.casc.id = []) (hBeat : ((s.casc.links.filter fun x => x.2.up).map fun x => x.2.lastBeat).max? = some b)
    (hDue : (b + 10 ^ 6) * nsUnit ≤ s.clock.elapsed) : s.does .heartbeatLoss fun t =>
      t = { s with regs := t.regs, casc := s.casc.alone } ∧ regsBut s t [Reg.off .towCmdStatus 0 0] ∧
      t.rg .towCmdStatus = if s.casc.leaving = none ∧ s.casc.joining = none then s.rg .towCmdStatus else Word.ofNat Code.faultLink := by
  obtain ⟨hOnTime, hQuiet⟩ := State.calm_iff.mp hCalm
  refine State.does_of rfl (settled_does hOnTime (Act.Does.get_bind (Act.Does.ite (fun _ => ?_) fun h => absurd (by simp [hAwake, hRole]) h)))
  simp only [hBeat, Option.getD_some]
  refine Act.Does.bind (Act.does_of_run (Q := fun _ t => t = s) (fun k => run_reach_past hDue k) rfl) fun _ t ht => ?_
  subst ht
  refine Act.Does.get_bind ?_
  rw [hNone]
  refine Act.Does.bind (Act.Does.pure rfl : Act.Does _ t fun _ u => u = t) fun _ u hu => ?_
  subst hu
  refine Act.Does.get_bind (Act.Does.ite (fun hSome => Act.Does.reg_bind (Act.Does.make ?_)) fun hOther => Act.Does.make ?_)
  · have hSome' : ¬(u.casc.leaving = none ∧ u.casc.joining = none) := fun h => by simp [h.1, h.2] at hSome
    refine ⟨⟨rfl, fun o ho => u.find_upd_reg_other _ (by simpa using ho), ?_⟩, hQuiet⟩
    rw [if_neg hSome', State.rg_upd _ _ _ _ _ rfl, State.rg_upd_reg]
  · have hNone' : u.casc.leaving = none ∧ u.casc.joining = none := by simpa using hOther
    exact ⟨⟨rfl, fun _ _ => rfl, by rw [if_pos hNone']; rfl⟩, hQuiet⟩

theorem takeHomes_idle (h : s.casc.copies = []) : takeHomes.Does s fun _ t => t = s := by
  refine Act.Does.get_bind ?_
  rw [h]
  exact Act.Does.pure rfl

/-- The roles of the module, of what is left alone. -/
theorem setRoles_keeps (m : Nat) : (setRoles (some m) (s.casc.nextStandby m)).Does s fun _ t => rolesUnder t m ∧ s.SameBut [.casc] t ∧
    t.casc.live = s.casc.live ∧ t.casc.copies = s.casc.copies := by
  refine (setRoles_does m _).mono fun _ t ht => ?_
  subst ht
  exact ⟨⟨rfl, rfl, rfl⟩, (State.SameBut.refl _ s).upd (by simp), rfl, rfl⟩

theorem cascPeerDeassert_does {i : Fin 4} (hAwake : s.awake = true) (hCalm : s.calm = true) (hRole : s.casc.role ≠ 0)
    (hOther : i.val ≠ s.casc.id) (hLive : flag s.casc.live i.val = true) (hNone : s.openParts i.val = []) (hCopies : s.casc.copies = [])
    (hJoining : s.casc.joining ≠ some i) : s.does (.cascPeerDeassert i) fun t =>
      t.mem = s.mem ∧ t.ctxs = s.ctxs ∧ t.casc.live = s.casc.live &&& ~~~(bit4 i.val) ∧
      (s.casc.master = some i.val → rolesUnder t (s.casc.standby.getD s.casc.id) ∧
        t.rf .towFailover 0 7 0 = min 255 (s.rf .towFailover 0 7 0 + 1) ∧ t.rf .towFailover 0 31 16 ≤ 100) ∧
      ∀ m, s.casc.master = some m → m ≠ i.val → rolesUnder t m ∧ t.regs = s.regs := by
  obtain ⟨hOnTime, hQuiet⟩ := State.calm_iff.mp hCalm
  refine State.does_of rfl (settled_does hOnTime (Act.Does.get_bind (Act.Does.ite (fun _ => ?_) fun h =>
    absurd (by simp [hAwake, hRole, hOther, hLive]) h)))
  rw [hNone]
  refine Act.Does.bind (Act.Does.pure rfl : Act.Does _ s fun _ u => u = s) fun _ u hu => ?_
  subst hu
  refine Act.Does.get_bind (Act.Does.make_bind (Act.Does.ite (fun h => absurd h hJoining) fun _ => Act.Does.get_bind ?_))
  generalize hLost : u.upd (.casc { u.casc with live := _, joining := _ }) = v
  have hLive' : v.casc.live = u.casc.live &&& ~~~(bit4 i.val) := by rw [← hLost]; rfl
  have hId : v.casc.id = u.casc.id := by rw [← hLost]; rfl
  have hCopies' : v.casc.copies = [] := by rw [← hLost]; exact hCopies
  have hSame : u.SameBut [.casc] v := by
    rw [← hLost]
    exact (State.SameBut.refl _ u).upd (by simp)
  refine Act.Does.ite (fun hMaster => ?_) fun hMaster => ?_
  · refine (setRoles_keeps _).bind fun _ w hw => Act.Does.get_bind (Act.Does.make_bind (Act.Does.countSat_bind
      (Act.Does.regField_bind ?_)))
    obtain ⟨hRoles, hKept, hLive'', hCopies''⟩ := hw
    have hw : u.SameBut [.casc] w := hSame.trans hKept
    have hCount : w.rf .towFailover 0 7 0 = u.rf .towFailover 0 7 0 := hw.rf (by decide)
    refine (takeHomes_idle ?_).mono fun _ t ht => ?_
    · exact hCopies''.trans hCopies'
    · subst ht
      refine ⟨⟨hw .mem (by decide), hw .ctxs (by decide), hLive''.trans hLive', fun _ => ⟨hId ▸ hRoles, ?_, ?_⟩, fun m hm hne => ?_⟩, ?_⟩
      · rw [State.rf_setField_other _ (by omega)]
        refine (State.rf_setField_same _ (by decide)).trans ?_
        rw [show (w.upd .draw).rf .towFailover 0 7 0 = _ from hCount]
        exact Nat.mod_eq_of_lt (by omega)
      · refine (State.rf_setField_same _ (by decide)).le.trans ((Nat.mod_le _ _).trans ?_)
        omega
      · exact absurd (Option.some.inj (hm.symm.trans hMaster)) hne
      · exact (State.quiet_of_sameBut hw (by decide)).trans hQuiet
  · split
    · next m hm =>
      refine (setRoles_keeps m).bind fun _ w hw => ?_
      obtain ⟨hRoles, hKept, hLive'', hCopies''⟩ := hw
      have hw : u.SameBut [.casc] w := hSame.trans hKept
      refine (takeHomes_idle (hCopies''.trans hCopies')).mono fun _ t ht => ?_
      · subst ht
        refine ⟨⟨hw .mem (by decide), hw .ctxs (by decide), hLive''.trans hLive', fun h => absurd h hMaster, fun n hn _ => ?_⟩, ?_⟩
        · cases hm.symm.trans hn
          exact ⟨hRoles, hw .regs (by decide)⟩
        · exact (State.quiet_of_sameBut hw (by decide)).trans hQuiet
    · next hm =>
      refine (takeHomes_idle hCopies').mono fun _ t ht => ?_
      subst ht
      refine ⟨⟨hSame .mem (by decide), hSame .ctxs (by decide), hLive', fun h => absurd h hMaster, fun n hn _ => ?_⟩, ?_⟩
      · cases hm.symm.trans hn
      · exact (State.quiet_of_sameBut hSame (by decide)).trans hQuiet

/-! ## Hot swap (R395, R404) -/

theorem towCommand_refused {body : Act Unit} (h : s.casc.role ≠ 1 ∨ s.casc.leaving ≠ none ∨ s.casc.joining ≠ none) :
    (towCommand body).Does s fun c t => c = Code.faultXlat ∧ t = s := by
  refine Act.Does.get_bind (Act.Does.ite (fun _ => Act.Does.pure ⟨rfl, rfl⟩) fun hNot => ?_)
  simp only [ne_eq, ← Option.isSome_iff_ne_none] at h
  exact absurd (by simpa [or_assoc] using h) hNot

theorem towCommand_refused_does {c : Instr} {body : Act Unit} (hExec : exec c s = Act.outcome (command who .towCmd 0 (towCommand body)) s)
    (hTakes : s.takes who .towCmd 0) (h : s.casc.role ≠ 1 ∨ s.casc.leaving ≠ none ∨ s.casc.joining ≠ none) :
    s.does c fun t => t = { s with bus := t.bus } ∧ t.answered who Code.faultXlat := by
  refine State.does_of hExec (command_does hTakes ((towCommand_refused h).mono fun c t ht => ?_))
  obtain ⟨rfl, rfl⟩ := ht
  exact ⟨rfl, by simp⟩

/-- A command of the master, where none is under way. -/
theorem towCommand_does {c : Instr} {body : Act Unit} {Q : State → Prop}
    (hExec : exec c s = Act.outcome (command who .towCmd 0 (towCommand body)) s) (hTakes : s.takes who .towCmd 0)
    (hMaster : s.casc.role = 1) (hLeaving : s.casc.leaving = none) (hJoining : s.casc.joining = none)
    (h : body.Does s fun _ t => Q (t.upd (.bus who.val ⟨Code.ok, 0⟩))) : s.does c Q := by
  refine State.does_of hExec (command_does hTakes (Act.Does.get_bind (Act.Does.ite (fun hBad => ?_) fun _ =>
    h.bind fun _ t ht => Act.Does.pure ht)))
  simp [hMaster, hLeaving, hJoining] at hBad

/-- What a command of TOW_CMD sets. -/
def State.TowSet (s : State) (who : Who) (w : Nat) (t : State) : Prop :=
  t = { s with casc := t.casc, regs := t.regs, bus := t.bus } ∧ t.rg .towCmdStatus = Word.ofNat w ∧
  regsBut s t [Reg.off .towCmdStatus 0 0] ∧ t.answered who Code.ok

theorem towSet_of_sameBut {w : Nat} (h : s.SameBut [.casc, .regs] t) (hStatus : t.rg .towCmdStatus = Word.ofNat w)
    (hRegs : regsBut s t [Reg.off .towCmdStatus 0 0]) : s.TowSet who w (t.upd (.bus who.val ⟨Code.ok, 0⟩)) := by
  have hAll : s.SameBut [.casc, .regs, .bus] (t.upd (.bus who.val ⟨Code.ok, 0⟩)) := (h.mono (by decide)).upd (by simp)
  refine ⟨State.ext_fld fun f => ?_, hStatus, hRegs, by simp⟩
  cases f with
  | casc | regs | bus => rfl
  | _ => exact hAll _ (by decide)

theorem towSet_of_reg {w : Nat} (h : t = s.upd (.reg (Reg.off .towCmdStatus 0 0) (Word.ofNat w))) :
    s.TowSet who w (t.upd (.bus who.val ⟨Code.ok, 0⟩)) := by
  subst h
  exact ⟨rfl, by simp, fun o ho => State.find_upd_reg_other _ _ (by simpa using ho), by simp⟩

theorem joinModule_live {m : Fin 4} (h : flag s.casc.live m.val = true) : (joinModule m).Does s fun _ t =>
    t = s.upd (.reg (Reg.off .towCmdStatus 0 0) 0) :=
  Act.Does.get_bind (Act.Does.ite (fun _ => Act.Does.make rfl) fun hNot => absurd h hNot)

theorem joinModule_absent {m : Fin 4} (h : flag s.casc.live m.val = false) : (joinModule m).Does s fun _ t =>
    t = (s.upd (.casc { s.casc with joining := some m })).upd (.reg (Reg.off .towCmdStatus 0 0) (Word.ofNat 0x100)) :=
  Act.Does.get_bind (Act.Does.ite (fun hIs => absurd hIs (by simp [h])) fun _ => Act.Does.make_bind (Act.Does.make rfl))

theorem handOver_standby {m : Nat} (h : s.casc.standby = some m) : handOver.Does s fun _ t => s.SameBut [.casc, .regs] t ∧
    rolesUnder t m ∧ t.casc.live = s.casc.live ∧ t.rg .towCmdStatus = 0 ∧ regsBut s t [Reg.off .towCmdStatus 0 0] := by
  refine Act.Does.get_bind ?_
  simp only [h]
  refine (setRoles_keeps m).bind fun _ t ht => Act.Does.make ?_
  obtain ⟨hRoles, hSame, hLive, -⟩ := ht
  refine ⟨(hSame.mono (by decide)).upd (by simp), hRoles, hLive, by simp, fun o ho => ?_⟩
  exact (State.find_upd_reg_other _ _ (by simpa using ho)).trans (congrArg (fun w : Sparse Word => w.find o) (hSame .regs (by decide)))

theorem handOver_none (h : s.casc.standby = none) : handOver.Does s fun _ t =>
    t = s.upd (.reg (Reg.off .towCmdStatus 0 0) (Word.ofNat Code.faultXlat)) := by
  refine Act.Does.get_bind ?_
  simp only [h]
  exact Act.Does.make rfl

/-- In a table whose keys rise, what is listed is found. -/
theorem Sparse.find_of_mem {α : Type} {t : Sparse α} (h : t.rising = true) {k : Nat} {a : α} (hMem : (k, a) ∈ t) : t.find k = some a := by
  induction t with
  | nil => exact absurd hMem List.not_mem_nil
  | cons e t ih =>
    obtain ⟨j, b⟩ := e
    obtain ⟨hLess, hRest⟩ := Sparse.rising_cons.mp h
    rw [Sparse.find]
    rcases List.mem_cons.mp hMem with hHead | hTail
    · cases hHead
      rw [if_pos rfl]
    · have hNe : j ≠ k := Nat.ne_of_lt (hLess _ hTail)
      rw [if_neg hNe]
      exact ih hRest hTail

theorem Sparse.find_of_not_mem {α : Type} {t : Sparse α} {k : Nat} (h : k ∉ t.map fun e => e.1) : t.find k = none := by
  cases hFind : t.find k with
  | none => rfl
  | some a => exact absurd (List.mem_map_of_mem (Sparse.mem_of_find hFind)) h

theorem and_not_bit4_of_clear {b : BitVec 4} {m : Fin 4} (h : flag b m.val = false) : b &&& ~~~(bit4 m.val) = b := by
  revert b m
  decide

theorem flag_and_not_bit4 (b : BitVec 4) (m : Fin 4) : flag (b &&& ~~~(bit4 m.val)) m.val = false := by
  revert b m
  decide

/-- Module `m` has left the MASKs of the contexts listed. -/
structure State.MasksLeft (s : State) (cs : List Nat) (m : Fin 4) (t : State) : Prop where
  same : s.SameBut [.casc] t
  leaving : t.casc.leaving = s.casc.leaving
  rising : s.casc.masks.rising = true → t.casc.masks.rising = true
  masks : ∀ c, t.casc.masks.at c 0 = if c ∈ cs then s.casc.masks.at c 0 &&& ~~~(bit4 m.val) else s.casc.masks.at c 0

theorem State.MasksLeft.trans {c : Nat} {cs : List Nat} {m : Fin 4} {u : State} (h : s.MasksLeft [c] m t) (h' : t.MasksLeft cs m u) :
    s.MasksLeft (c :: cs) m u := by
  refine ⟨h.same.trans h'.same, h'.leaving.trans h.leaving, fun hs => h'.rising (h.rising hs), fun d => ?_⟩
  rw [h'.masks d, h.masks d]
  by_cases hd : d = c <;> by_cases hIn : d ∈ cs <;> simp [hd, hIn] <;> simp [← hd, hIn, BitVec.and_assoc]

theorem leaveMask_left (c : Nat) (m : Fin 4) : (leaveMask c m.val).Does s fun _ t => s.MasksLeft [c] m t := by
  refine Act.Does.get_bind (Act.Does.ite (fun _ => Act.Does.make ⟨(State.SameBut.refl _ s).upd (by simp), rfl,
    fun h => Sparse.rising_put h _ _, fun d => ?_⟩) fun hClear => Act.Does.pure ⟨.refl _ _, rfl, id, fun d => ?_⟩)
  · by_cases hd : d = c
    · rw [hd, if_pos (by simp)]
      exact Sparse.at_put_same _ _ _ _
    · rw [if_neg (by simpa using hd)]
      exact Sparse.at_put_other _ _ _ hd
  · split
    · next hd =>
      rw [List.mem_singleton.mp hd, and_not_bit4_of_clear (by simpa using hClear)]
    · rfl

theorem leaveMask_loop {m : Fin 4} {r : Nat → Bool} : ∀ (cs : Sparse (BitVec 4)) (s : State), (∀ x ∈ cs, r x.1 = false) →
    (forIn cs PUnit.unit fun x _ => if !(r x.1) then do
        leaveMask x.1 m.val
        pure (.yield ⟨⟩)
      else pure (.yield ⟨⟩) : Act PUnit).Does s fun _ t => s.MasksLeft (cs.map fun x => x.1) m t
  | [], _, _ => Act.Does.pure ⟨.refl _ _, rfl, id, fun _ => by simp⟩
  | x :: cs, s, h => by
    refine Act.Does.forIn_cons (P := fun t => s.MasksLeft [x.1] m t) (Act.Does.ite (fun _ => (leaveMask_left x.1 m).yield)
      fun hNot => absurd (by simp [h x List.mem_cons_self]) hNot) fun t ht => ?_
    exact (leaveMask_loop cs t fun y hy => h y (List.mem_cons_of_mem _ hy)).mono fun _ u hu => ht.trans hu

theorem leaveModule_master {m : Fin 4} (h : s.casc.master = some m.val) : (leaveModule m).Does s fun _ t =>
    t = s.upd (.reg (Reg.off .towCmdStatus 0 0) (Word.ofNat Code.faultXlat)) :=
  Act.Does.get_bind (Act.Does.ite (fun _ => Act.Does.make rfl) fun hNot => absurd h hNot)

theorem leaveModule_leaves {m : Fin 4} (hMaster : s.casc.master ≠ some m.val) (hRising : s.casc.masks.rising = true)
    (hJobs : ∀ x ∈ s.casc.masks, (s.ctx x.1).inJob = false) : (leaveModule m).Does s fun _ t => s.SameBut [.casc, .regs] t ∧
      t.casc.leaving = none ∧ t.rg .towCmdStatus = 0 ∧ regsBut s t [Reg.off .towCmdStatus 0 0] ∧
      ∀ c, t.casc.masks.at c 0 = s.casc.masks.at c 0 &&& ~~~(bit4 m.val) := by
  refine Act.Does.get_bind (Act.Does.ite (fun h => absurd h hMaster) fun _ => Act.Does.make_bind (Act.Does.reg_bind
    ((leaveMask_loop (m := m) (r := fun c => (s.ctx c).inJob) s.casc.masks _ hJobs).bind fun _ t ht => ?_)))
  have hMasks (c : Nat) : t.casc.masks.at c 0 = s.casc.masks.at c 0 &&& ~~~(bit4 m.val) := by
    refine (ht.masks c).trans ?_
    split
    · rfl
    · next hc =>
      rw [show s.casc.masks.at c 0 = 0 by rw [Sparse.at, Sparse.find_of_not_mem hc]; rfl]
      exact (show s.casc.masks.at c 0 = 0 by rw [Sparse.at, Sparse.find_of_not_mem hc]; rfl).trans (by simp)
  have hLeaving : t.casc.leaving = some m := ht.leaving
  have hClear : (t.casc.masks.all fun x => !flag x.2 m.val) = true := by
    refine List.all_eq_true.mpr fun x hx => ?_
    have hAt : t.casc.masks.at x.1 0 = x.2 := by rw [Sparse.at, Sparse.find_of_mem (ht.rising hRising) hx]; rfl
    rw [← hAt, hMasks, flag_and_not_bit4]
    rfl
  refine Act.Does.get_bind ?_
  simp only [hLeaving]
  refine Act.Does.ite (fun _ => Act.Does.make_bind (Act.Does.make ?_)) fun hNot => absurd hClear hNot
  refine ⟨?_, rfl, by simp, fun o ho => ?_, hMasks⟩
  · have hStart := ((State.SameBut.refl [.casc, .regs] s).upd (u := .casc { s.casc with leaving := some m }) (by simp)).upd
      (u := .reg (Reg.off .towCmdStatus 0 0) (Word.ofNat 0x100)) (by simp)
    refine State.SameBut.upd (State.SameBut.upd (hStart.trans (ht.same.mono (by decide))) ?_) ?_
    · simp
    · simp
  · have ho : o ≠ Reg.off .towCmdStatus 0 0 := by simpa using ho
    refine (State.find_upd_reg_other _ _ ho).trans ?_
    refine (congrArg (fun w : Sparse Word => w.find o) (ht.same .regs (by decide))).trans ?_
    exact State.find_upd_reg_other _ _ ho

/-! ## MASKs (R398, R475) -/

theorem towCtxMaskWrite_barred {w : Word} (hTakes : s.takes who .towCtx 0)
    (h : 2 ≤ (modulesOf (BitVec.ofNat 4 (field w 3 0))).length ∧ (s.rf .towCtxSel 0 9 0 = 1023 ∨
      ((s.ctx (s.rf .towCtxSel 0 9 0)).st ≠ .free ∧
        ((s.ctx (s.rf .towCtxSel 0 9 0)).desc.cls = 0 ∨ (s.ctx (s.rf .towCtxSel 0 9 0)).desc.paired = true)))) :
    s.does (.towCtxMaskWrite who w) fun t => t = { s with regs := t.regs, bus := t.bus } ∧
      t.rf .towCmdStatus 0 7 0 = Code.faultXlat ∧ t.answered who Code.ok := by
  refine State.does_of rfl (command_does hTakes (Act.Does.get_bind (Act.Does.ite (fun _ => Act.Does.regField_bind (Act.Does.pure ?_))
    fun hNot => absurd (by simpa using h) hNot)))
  exact ⟨rfl, State.rf_setField_same (s := s) (r := .towCmdStatus) (i := 0) Code.faultXlat (by decide : 7 < 32), by simp⟩

theorem towCtxMaskWrite_taken {w : Word} (hTakes : s.takes who .towCtx 0)
    (h : ¬(2 ≤ (modulesOf (BitVec.ofNat 4 (field w 3 0))).length ∧ (s.rf .towCtxSel 0 9 0 = 1023 ∨
      ((s.ctx (s.rf .towCtxSel 0 9 0)).st ≠ .free ∧
        ((s.ctx (s.rf .towCtxSel 0 9 0)).desc.cls = 0 ∨ (s.ctx (s.rf .towCtxSel 0 9 0)).desc.paired = true))))) :
    s.does (.towCtxMaskWrite who w) fun t =>
      t = { s with casc := { s.casc with masks := s.casc.masks.put (s.rf .towCtxSel 0 9 0) (BitVec.ofNat 4 (field w 3 0)),
                                         left := s.casc.left.drop (s.rf .towCtxSel 0 9 0) }, bus := t.bus } ∧
        t.answered who Code.ok := by
  refine State.does_of rfl (command_does hTakes (Act.Does.get_bind (Act.Does.ite (fun hIs => absurd (by simpa using hIs) h)
    fun _ => Act.Does.make_bind (Act.Does.pure ⟨rfl, by simp⟩))))

/-- Settles O60: shares by the module's role and by what is joining, then the loss of modules, then TOW_CMD by who may give
it, then MASKs by R475. -/
theorem cascadesShareAndChange : Obligations.CascadesShareAndChange := by
  intro s hAwake hCalm
  refine ⟨fun rs => ⟨fun hAlone => powerReport_alone hAwake hAlone rs, fun hRole hNone => powerReport_shares hAwake hRole hNone rs,
      fun m r hRole hJoining hr hId => powerReport_joins hAwake hRole hJoining hr hId⟩,
    fun hRole hDue => shareTimeout_does hAwake hRole hDue,
    fun b hRole hNone hBeat hDue => heartbeatLoss_does hAwake hCalm hRole hNone hBeat hDue,
    fun i hRole hOther hLive hNone hCopies hJoining => cascPeerDeassert_does hAwake hCalm hRole hOther hLive hNone hCopies hJoining,
    fun who hTakes => ⟨fun hBad m c hc => ?_, fun hMaster hLeaving hJoining => ?_⟩,
    fun who w hTakes => ⟨towCtxMaskWrite_barred hTakes, towCtxMaskWrite_taken hTakes⟩⟩
  · simp only [List.mem_cons, List.not_mem_nil, or_false] at hc
    rcases hc with rfl | rfl | rfl
    · exact towCommand_refused_does rfl hTakes hBad
    · exact towCommand_refused_does rfl hTakes hBad
    · exact towCommand_refused_does rfl hTakes hBad
  · refine ⟨fun m hOther hRising hJobs => ?_, fun m hOwn => ?_, fun m => ⟨fun hLive => ?_, fun hAbsent => ?_⟩, fun m hStandby => ?_,
      fun hNone => ?_⟩
    · refine towCommand_does rfl hTakes hMaster hLeaving hJoining ((leaveModule_leaves hOther hRising hJobs).mono fun _ t ht => ?_)
      obtain ⟨hSame, hNone, hStatus, hRegs, hMasks⟩ := ht
      exact ⟨towSet_of_sameBut hSame hStatus hRegs, hNone, hMasks⟩
    · refine towCommand_does rfl hTakes hMaster hLeaving hJoining ((leaveModule_master hOwn).mono fun _ t ht => ?_)
      exact ⟨towSet_of_reg ht, by rw [ht]; rfl⟩
    · refine towCommand_does rfl hTakes hMaster hLeaving hJoining ((joinModule_live hLive).mono fun _ t ht => ?_)
      exact ⟨towSet_of_reg ht, by rw [ht]; rfl⟩
    · refine towCommand_does rfl hTakes hMaster hLeaving hJoining ((joinModule_absent hAbsent).mono fun _ t ht => ?_)
      subst ht
      exact ⟨towSet_of_sameBut (((State.SameBut.refl _ s).upd (by simp)).upd (by simp)) (by simp)
        fun o ho => State.find_upd_reg_other _ _ (by simpa using ho), rfl⟩
    · refine towCommand_does rfl hTakes hMaster hLeaving hJoining ((handOver_standby hStandby).mono fun _ t ht => ?_)
      obtain ⟨hSame, hRoles, hLive, hStatus, hRegs⟩ := ht
      exact ⟨towSet_of_sameBut hSame hStatus hRegs, hRoles, hLive⟩
    · refine towCommand_does rfl hTakes hMaster hLeaving hJoining ((handOver_none hNone).mono fun _ t ht => ?_)
      exact ⟨towSet_of_reg ht, by rw [ht]; rfl⟩

end Sys2Proof.Machine

/-!
PROOF. The SDIO bus commands and the CCCR (R355 to R358, Table 15.2).
-/
namespace Sys2Proof.Machine

variable {s t : State}

/-- A change of the host link. -/
theorem modSdio_does (f : Sdio → Sdio) : (Act.modSdio f).Does s fun _ t => t = s.upd (.sdio (f s.sdio)) :=
  Act.Does.get_bind (Act.Does.make rfl)

theorem Act.Does.modSdio_bind {f : Sdio → Sdio} {α : Type} {g : Unit → Act α} {Q : α → State → Prop}
    (h : (g ()).Does (s.upd (.sdio (f s.sdio))) Q) : (Act.modSdio f >>= g).Does s Q := fun k => h k

theorem Act.Does.freeBytes_bind {n : Nat} {α : Type} {g : List Byte → Act α} {Q : α → State → Prop}
    (h : ∀ bs, bs.length = n → (g bs).Does (s.upd .draw) Q) : (freeBytes n >>= g).Does s Q :=
  Act.Does.get_bind (Act.Does.make_bind (h _ (by simp)))

/-! ## Bus commands (R355, R356) -/

/-- The number R4 holds. -/
def r4Number (d : Nat) (ready : Bool) : Nat := pack [((Config.freeWord d).toNat % 2 ^ 24, 0), (1, 24), (3, 28), (b2n ready, 31)]

theorem pack_four (a b c d i j k : Nat) : pack [(a, 0), (b, i), (c, j), (d, k)] = a + b * 2 ^ i + c * 2 ^ j + d * 2 ^ k := by
  simp [pack]

theorem r4Number_eq (d : Nat) (ready : Bool) :
    r4Number d ready = (Config.freeWord d).toNat % 2 ^ 24 + 2 ^ 24 + 3 * 2 ^ 28 + b2n ready * 2 ^ 31 := by
  rw [r4Number, pack_four, Nat.one_mul]

theorem cmd5_does (hReach : s.reachable = true) : s.does .cmd5 fun t =>
    t = { s with sdio := t.sdio, freeCount := s.freeCount + 1 } ∧ t.sdio.s18a = true ∧
    ∃ n, t.sdio.reply = bytesOf 4 n ∧ n < 2 ^ 32 ∧ n / 2 ^ 24 % 2 = 1 ∧ n / 2 ^ 27 % 2 = 0 ∧ n / 2 ^ 28 % 8 = 3 ∧
      n / 2 ^ 31 = b2n s.sdio.ready := by
  have hOne : b2n s.sdio.ready ≤ 1 := by cases s.sdio.ready <;> decide
  refine State.does_of rfl (Act.Does.get_bind (Act.Does.ite (fun _ => Act.Does.get_bind (Act.Does.make_bind
    (Act.Does.modSdio_bind ((modSdio_does _).mono fun _ t ht => ?_)))) fun h => absurd (by simp [hReach]) h))
  subst ht
  refine ⟨rfl, rfl, r4Number s.freeCount (s.reachable && s.sdio.ready), rfl, ?_⟩
  rw [hReach, Bool.true_and, r4Number_eq]
  omega

theorem cmd11_does (hReach : s.reachable = true) : s.does .cmd11 fun t =>
    t = { s with sdio := t.sdio, freeCount := s.freeCount + 1 } ∧ t.sdio.reply.length = 4 ∧ t.sdio = { s.sdio with reply := t.sdio.reply } := by
  refine State.does_of rfl (Act.Does.get_bind (Act.Does.ite (fun _ => Act.Does.freeBytes_bind fun bs hbs =>
    (modSdio_does _).mono fun _ t ht => ?_) fun h => absurd hReach h))
  subst ht
  exact ⟨rfl, hbs, rfl⟩

theorem cmd19_does (hReach : s.reachable = true) (hSpeed : 2 ≤ s.sdio.speed) : s.does .cmd19 fun t =>
    t = { s with sdio := t.sdio, freeCount := s.freeCount + 1 } ∧ t.sdio.reply.length = 64 ∧
    t.sdio = { s.sdio with reply := t.sdio.reply, tuned := true } := by
  refine State.does_of rfl (Act.Does.get_bind (Act.Does.ite (fun _ => Act.Does.freeBytes_bind fun bs hbs =>
    Act.Does.modSdio_bind ((modSdio_does _).mono fun _ t ht => ?_)) fun h => absurd (by simp [hReach, hSpeed]) h))
  subst ht
  exact ⟨rfl, hbs, rfl⟩

theorem cmd52Win_write (hReach : s.reachable = true) (v : Byte) : s.does (.cmd52Win true v) fun t =>
    t = { s with regs := t.regs, sdio := { s.sdio with reply := [v] } } ∧ t.rg .sdioWin = Word.ofNat v.toNat ∧
    regsBut s t [Reg.off .sdioWin 0 0] := by
  have hField : BitVec.ofNat 8 (field (Word.ofNat v.toNat) 7 0) = v := by
    have := v.isLt
    refine BitVec.eq_of_toNat_eq ?_
    rw [BitVec.toNat_ofNat, field, Word.ofNat, BitVec.toNat_ofNat]
    omega
  refine State.does_of rfl (Act.Does.get_bind (Act.Does.ite (fun _ => Act.Does.ite (fun _ => Act.Does.reg_bind (Act.Does.get_bind
    ((modSdio_does _).mono fun _ t ht => ?_))) fun h => absurd rfl h) fun h => absurd hReach h))
  subst ht
  rw [State.rf, State.rg_upd_reg, hField]
  exact ⟨rfl, State.rg_upd_reg _ _ _ _ _, fun o ho => State.find_upd_reg_other _ _ (by simpa using ho)⟩

theorem cmd52Win_read (hReach : s.reachable = true) (v : Byte) : s.does (.cmd52Win false v) fun t =>
    t = { s with sdio := { s.sdio with reply := [BitVec.ofNat 8 (s.rf .sdioWin 0 7 0)] } } :=
  State.does_of rfl (Act.Does.get_bind (Act.Does.ite (fun _ => Act.Does.ite (fun h => absurd h (by decide)) fun _ =>
    Act.Does.get_bind (modSdio_does _)) fun h => absurd hReach h))

/-! ## The CCCR (Table 15.2) -/

theorem functionEnable_does (hReach : s.reachable = true) (v : Byte) : s.does (.functionEnable v) fun t =>
    t = { s with sdio := { s.sdio with ioe := v &&& 0x0E, ior := v &&& 0x0E } } :=
  State.does_of rfl (Act.Does.get_bind (Act.Does.ite (fun _ => modSdio_does _) fun h => absurd hReach h))

/-- A write of the CCCR that sets fields of the host link. -/
theorem cccrWrite_does {Q : State → Prop} {addr : Nat} {v : Byte} {x : Act Unit} (hReach : s.reachable = true) (hCalm : s.calm = true)
    (hExec : exec (.cccrWrite addr v) s = Act.outcome (settled (do
      let t ← Act.get
      if t.reachable then x)) s) (h : x.Does s fun _ t => Q t ∧ t.quiet = true) : s.does (.cccrWrite addr v) Q := by
  obtain ⟨hOnTime, -⟩ := State.calm_iff.mp hCalm
  exact State.does_of hExec (settled_does hOnTime (Act.Does.get_bind (Act.Does.ite (fun _ => h) fun h => absurd hReach h)))

theorem cccrWrite_ioe (hReach : s.reachable = true) (hCalm : s.calm = true) (v : Byte) : s.does (.cccrWrite 0x02 v) fun t =>
    t = { s with sdio := { s.sdio with ioe := v &&& 0x0E, ior := v &&& 0x0E } } :=
  cccrWrite_does hReach hCalm rfl ((modSdio_does _).mono fun _ _ ht => ⟨ht, ht ▸ (State.calm_iff.mp hCalm).2⟩)

theorem cccrWrite_ien (hReach : s.reachable = true) (hCalm : s.calm = true) (v : Byte) : s.does (.cccrWrite 0x04 v) fun t =>
    t = { s with sdio := { s.sdio with ien := v &&& 0x07 } } :=
  cccrWrite_does hReach hCalm rfl ((modSdio_does _).mono fun _ _ ht => ⟨ht, ht ▸ (State.calm_iff.mp hCalm).2⟩)

theorem cccrWrite_width (hReach : s.reachable = true) (hCalm : s.calm = true) {v : Byte} (h : field v 1 0 = 0 ∨ field v 1 0 = 2) :
    s.does (.cccrWrite 0x07 v) fun t => t = { s with sdio := { s.sdio with busWidth := field v 1 0 } } :=
  cccrWrite_does hReach hCalm rfl (Act.Does.ite (fun _ => (modSdio_does _).mono fun _ _ ht => ⟨ht, ht ▸ (State.calm_iff.mp hCalm).2⟩)
    fun hNot => absurd (by simpa using h) hNot)

theorem cccrWrite_width_other (hReach : s.reachable = true) (hCalm : s.calm = true) {v : Byte} (h : field v 1 0 = 1 ∨ field v 1 0 = 3) :
    s.does (.cccrWrite 0x07 v) fun t => t = s := by
  have hNone : ¬(field v 1 0 = 0 || field v 1 0 = 2) = true := by
    rcases h with h | h <;> simp [h]
  exact cccrWrite_does hReach hCalm rfl (Act.Does.ite (fun hIs => absurd hIs hNone) fun _ => Act.Does.pure
    ⟨rfl, (State.calm_iff.mp hCalm).2⟩)

theorem cccrWrite_speed (hReach : s.reachable = true) (hCalm : s.calm = true) {v : Byte} (h : field v 3 1 ≤ 3) :
    s.does (.cccrWrite 0x13 v) fun t => t = { s with sdio := { s.sdio with speed := field v 3 1 } } :=
  cccrWrite_does hReach hCalm rfl (Act.Does.ite (fun _ => (modSdio_does _).mono fun _ _ ht => ⟨ht, ht ▸ (State.calm_iff.mp hCalm).2⟩)
    fun hNot => absurd h hNot)

/-! ## RES (R357) -/

theorem releaseAll_idle (h : s.sdio.ring.held = []) : ∀ n, (releaseAll n).Does s fun _ t => t = s
  | 0 => Act.Does.pure rfl
  | n + 1 => by
    have hOne : releaseHost.Does s fun _ t => t = s := by
      refine Act.Does.get_bind ?_
      simp only [h]
      exact Act.Does.pure rfl
    exact Act.Does.after_idle hOne (releaseAll_idle h n)

/-- The host link as after start-up. -/
def Sdio.restarted (x : Sdio) (ram : List Host.Cell) : Sdio :=
  { x with ioe := 0, ior := 0, ien := 0, busWidth := 0, speed := 0, driverA := false, sai := false, tuned := false
           transfer := none, fifo := [], ring := {}, ram := ram }

theorem RingSt.restart {r : RingSt} (h : r.held = []) : ({ r with wr := 0, cons := 0 } : RingSt) = {} := by rw [h]

theorem byte_store_zeros (m : List Host.Cell) (a n : Nat) {i : Nat} (hi : i < n) :
    Memory.byte (Memory.store 0 m a (List.replicate n 0)) (a + i) = 0 := by
  rw [Memory.byte, Memory.byteOr_store_same _ _ _ _ (by simpa using hi), List.getElem_replicate]

theorem sdioRes_does (hReach : s.reachable = true) (hHeld : s.sdio.ring.held = []) : s.does .sdioRes fun t =>
    t = { s with sdio := t.sdio, regs := t.regs } ∧ t.sdio = s.sdio.restarted t.sdio.ram ∧ t.rf .sdioWin 0 7 0 = 0 ∧
    ∀ i, i < 2048 → Memory.byte t.sdio.ram (hostRing + i) = 0 := by
  refine State.does_of rfl (Act.Does.get_bind (Act.Does.ite (fun _ => Act.Does.make_bind (Act.Does.modSdio_bind
    (Act.Does.reg_bind ((releaseAll_idle ?_ 16).mono fun _ t ht => ?_)))) fun h => absurd hReach h))
  · exact hHeld
  · subst ht
    refine ⟨rfl, ?_, ?_, fun i hi => byte_store_zeros _ _ 2048 hi⟩
    · rw [Sdio.restarted, ← RingSt.restart hHeld]
      rfl
    · rw [State.rf, State.rg_upd_reg]
      rfl

/-- Settles O47: the bus commands, then the CCCR register by register, then RES. -/
theorem sdioBusCommandsAnswer : Obligations.SdioBusCommandsAnswer := by
  intro s hReach hCalm
  refine ⟨cmd5_does hReach, cmd11_does hReach, cmd19_does hReach, fun v => ⟨cmd52Win_write hReach v, cmd52Win_read hReach v,
    fun c hc => ?_, cccrWrite_ien hReach hCalm v, cccrWrite_width hReach hCalm, cccrWrite_width_other hReach hCalm,
    cccrWrite_speed hReach hCalm⟩, sdioRes_does hReach⟩
  simp only [List.mem_cons, List.not_mem_nil, or_false] at hc
  rcases hc with rfl | rfl
  · exact functionEnable_does hReach v
  · exact cccrWrite_ioe hReach hCalm v

end Sys2Proof.Machine

/-!
PROOF. The host completion ring and the mailbox (R360 to R364).
-/
namespace Sys2Proof.Machine

variable {s t u : State}

/-! ## What records leave of the host link -/

/-- The host link but for its telemetry FIFO. -/
def State.hostLink (s : State) : Sdio := { s.sdio with telSeq := 0, telDropped := 0, fifo := [] }

theorem State.hostLink_upd {w : Upd} (h : w.writes .sdio = false) : (s.upd w).hostLink = s.hostLink := by
  rw [State.hostLink, State.upd_sdio s w h, State.hostLink]

theorem frames_hostLink_of_writes {α : Type} {l : List Fld} {x : Act α} (h : x.Writes l) (hl : Fld.sdio ∉ l) :
    x.Frames State.hostLink := frames_of_writes h fun s t ht => by
  rw [State.hostLink, show t.sdio = s.sdio from ht .sdio hl, State.hostLink]

theorem hostLink_telDrop (s : State) : telDrop.Does s fun _ t => t.hostLink = s.hostLink :=
  Act.Does.get_bind (Act.Does.make_bind ((frames_hostLink_of_writes (l := [.regs]) (writes_countSat _ _ _ _ _ (by decide))
    (by decide) _).mono fun _ _ ht => ht))

theorem hostLink_telemetry (type : Nat) (payload : List Byte) (s : State) :
    (telemetry type payload).Does s fun _ t => t.hostLink = s.hostLink := by
  refine Act.Does.get_bind (Act.Does.make_bind (Act.Does.ite (fun _ => Act.Does.make rfl) fun _ => ?_))
  refine (hostLink_telDrop _).bind fun _ t ht => ?_
  split
  · exact Act.Does.get_bind (Act.Does.make ht)
  · exact Act.Does.pure ht

theorem hostLink_fault (r : FaultRec) : (fault r).Frames State.hostLink := by
  have hRest (w : List Byte) (seq : Nat) : (do Act.regField .sdioIntStat 0 1 1 1; telemetry 4 w; return seq : Act Nat).Frames
      State.hostLink :=
    Act.Frames.bind (frames_hostLink_of_writes (l := [.regs]) (writes_regField _ _ _ _ _ (by decide)) (by decide)) fun _ =>
      Act.Frames.bind (hostLink_telemetry 4 w) fun _ => Act.Frames.pure seq
  refine fun s => Act.Does.get_bind (Act.Does.make_bind (Act.Does.ite (fun _ => ?_) fun _ => ?_))
  · exact (Act.Frames.bind (frames_hostLink_of_writes (l := [.regs]) (writes_countSat _ _ _ _ _ (by decide)) (by decide))
      fun _ => hRest _ _) _
  · exact hRest _ _ _

/-! ## A record of the host ring (R364) -/

theorem pack_six (a b c d e f i j k l m : Nat) : pack [(a, 0), (b, i), (c, j), (d, k), (e, l), (f, m)] =
    a + b * 2 ^ i + c * 2 ^ j + d * 2 ^ k + e * 2 ^ l + f * 2 ^ m := by simp [pack]

theorem CRec.bytes_length (r : CRec) (k n : Nat) : (r.bytes k n).length = 32 := by simp [CRec.bytes]

theorem CRec.bytes_code (r : CRec) (k n : Nat) : (r.bytes k n)[0]'(by rw [CRec.bytes_length]; decide) = BitVec.ofNat 8 r.code := by
  simp only [CRec.bytes, pack_six, bytesOf, List.cons_append, List.getElem_cons_zero]
  refine BitVec.eq_of_toNat_eq ?_
  rw [BitVec.toNat_ofNat, BitVec.toNat_ofNat]
  omega

theorem CRec.detailed_code (r : CRec) (code addr idx detail aux : Nat) : (r.detailed code addr idx detail aux).code = r.code := by
  unfold CRec.detailed
  split <;> rfl

/-- A record has been written at the host ring's write index. -/
structure State.HostWritten (s : State) (r : CRec) (t : State) : Prop where
  same : s.SameBut [.sdio, .regs] t
  sdio : t.sdio = { s.sdio with
    ram := Memory.store 0 s.sdio.ram (hostRing + s.sdio.ring.wr % 64 * 32) (r.bytes 6 s.sdio.ring.wr)
    ring := { s.sdio.ring with wr := s.sdio.ring.wr + 1 } }
  int : flag (t.rg .sdioIntStat) 0 = true
  regs : regsBut s t [Reg.off .sdioIntStat 0 0]

theorem hostWrite_does (r : CRec) (s : State) : (hostWrite r).Does s fun _ t => s.HostWritten r t := by
  refine Act.Does.get_bind (Act.Does.make_bind (Act.Does.make_bind (Act.Does.get_bind (Act.Does.make ⟨?_, rfl, ?_, fun o ho => ?_⟩))))
  · exact ((((State.SameBut.refl _ s).upd (by simp)).upd (by simp)).upd (by simp))
  · rw [State.rg_upd_reg, flag_setField_same _ _ (by decide)]
    rfl
  · exact State.find_upd_reg_other _ _ (by simpa using ho)

/-! ## A command ends (R364) -/

/-- A command of `slot` has ended with a record of `code` and the reply `data`. -/
structure State.Finished (s : State) (slot code : Nat) (data : List Byte) (t : State) : Prop where
  same : s.SameBut hostFields t
  cmds : t.sdio.cmds = s.sdio.cmds.filter fun m => m.slot ≠ slot
  ring : t.sdio.ring = { s.sdio.ring with wr := s.sdio.ring.wr + 1 }
  code : Memory.byte t.sdio.ram (hostRing + s.sdio.ring.wr % 64 * 32) = BitVec.ofNat 8 code
  data : ramHolds t (replyBase slot) data
  int : flag (t.rg .sdioIntStat) 0 = true
  periods : t.sdio.periods = s.sdio.periods

/-- The command has left its slot, and its reply stands in its buffer. -/
structure State.Replied (s : State) (slot : Nat) (data : List Byte) (t : State) : Prop where
  same : s.SameBut hostFields t
  cmds : t.sdio.cmds = s.sdio.cmds.filter fun m => m.slot ≠ slot
  ring : t.sdio.ring = s.sdio.ring
  data : ramHolds t (replyBase slot) data
  periods : t.sdio.periods = s.sdio.periods

theorem State.Replied.of_hostLink {slot : Nat} {data : List Byte} (h : s.Replied slot data t) (hSame : t.SameBut hostFields u)
    (hLink : u.hostLink = t.hostLink) : s.Replied slot data u := by
  have hRam : u.sdio.ram = t.sdio.ram := (congrArg Sdio.ram hLink :)
  refine ⟨h.same.trans hSame, (congrArg Sdio.cmds hLink :).trans h.cmds, (congrArg Sdio.ring hLink :).trans h.ring, fun i hi => ?_,
    (congrArg Sdio.periods hLink :).trans h.periods⟩
  rw [hRam]
  exact h.data i hi

/-- The host ring lies below the reply buffers. -/
theorem byte_reply_store (m : List Host.Cell) (wr slot i : Nat) {bs : List Byte} (hbs : bs.length = 32) :
    Memory.byte (Memory.store 0 m (hostRing + wr % 64 * 32) bs) (replyBase slot + i) = Memory.byte m (replyBase slot + i) := by
  refine Memory.byteOr_store_other _ _ _ _ (.inr ?_)
  rw [hbs, hostRing, replyBase]
  omega

theorem hostComplete_finishes {slot code : Nat} {data : List Byte} {r : CRec} (h : s.Replied slot data t) (hCode : r.code = code)
    (hHeld : s.sdio.ring.held = []) (hRoom : s.sdio.ring.wr - s.sdio.ring.cons < 64) :
    (hostComplete slot r).Does t fun _ u => s.Finished slot code data u := by
  refine Act.Does.get_bind (Act.Does.ite (fun hFull => ?_) fun _ => (hostWrite_does r t).mono fun _ u hu => ?_)
  · rw [h.ring] at hFull
    simp [RingSt.isFull, hHeld] at hFull
    omega
  · refine ⟨h.same.trans (hu.same.mono (by decide)), ?_, ?_, ?_, fun i hi => ?_, hu.int, ?_⟩
    · rw [hu.sdio]
      exact h.cmds
    · rw [hu.sdio, h.ring]
    · rw [hu.sdio, h.ring, ← hCode, ← CRec.bytes_code r 6 s.sdio.ring.wr]
      exact Memory.byteOr_store_same _ _ _ 0 _
    · rw [hu.sdio, byte_reply_store _ _ _ _ (r.bytes_length 6 _)]
      exact h.data i hi
    · rw [hu.sdio]
      exact h.periods

theorem finish_does {slot : Nat} {r : Reply} (hEnd : s.endCode slot r = r.code) (hEcc : r.code ≠ Code.faultEcc)
    (hHeld : s.sdio.ring.held = []) (hRoom : s.sdio.ring.wr - s.sdio.ring.cons < 64) :
    (finish slot r).Does s fun _ t => s.Finished slot r.code r.data t := by
  refine Act.Does.get_bind (Act.Does.make_bind ?_)
  extract_lets c tag idx record base done rest
  have hCode (idx : Nat) : (base.detailed (s.endCode slot r) r.addr idx (replyBase slot) r.data.length).code = r.code :=
    (CRec.detailed_code _ _ _ _ _ _).trans hEnd
  have hDone {u : State} (hu : s.Replied slot r.data u) (idx : Nat) : (done () idx).Does u fun _ t => s.Finished slot r.code r.data t :=
    hostComplete_finishes hu (hCode idx) hHeld hRoom
  have hRest {u : State} (hu : s.Replied slot r.data u) : (rest ()).Does u fun _ t => s.Finished slot r.code r.data t := by
    refine Act.Does.ite (fun _ => ?_) fun _ => hDone hu 0
    refine ((fault_gives _ _).and (hostLink_fault _ _)).does.bind fun seq v hv => ?_
    refine Act.Does.ite (fun hIs => absurd (of_decide_eq_true (Bool.and_eq_true_iff.mp hIs).1) (State.endCode_ne_faultEcc hEcc s slot))
      fun _ => hDone (hu.of_hostLink (hv.1.1.mono (by decide)) hv.2) _
  refine Act.Does.ite (fun _ => Act.Does.make_bind (hRest ⟨?_, rfl, rfl, ?_, rfl⟩)) fun hEmpty => hRest ⟨?_, rfl, rfl, ?_, rfl⟩
  · exact ((State.SameBut.refl _ s).upd (by simp [hostFields])).upd (by simp [hostFields])
  · exact fun i hi => (Memory.byteOr_store_same _ _ _ i hi).trans (by rw [List.getD_eq_getElem?_getD, List.getElem?_eq_getElem hi]; rfl)
  · exact (State.SameBut.refl _ s).upd (by simp [hostFields])
  · intro i hi
    rw [show r.data = [] by simpa using hEmpty] at hi
    exact absurd hi (by simp)

end Sys2Proof.Machine

/-!
PROOF. Submission, the rings and the telemetry FIFO (R37, R360, R363 to R365).
-/
namespace Sys2Proof.Machine

variable {s t : State} {who : Who} {x : Fin 16}

/-! ## The mailbox with one command -/

theorem State.upd_sdio_self (s : State) : s.upd (.sdio s.sdio) = s := rfl

/-- With no command there is none to start or to turn away. -/
theorem turnAway_empty (h : s.sdio.cmds = []) (n : Nat) : (turnAway n).Does s fun _ t => t = s := by
  cases n with
  | zero => exact Act.Does.pure rfl
  | succ n =>
    have hNone : s.running.find? (fun (m : MbCmd) => (!m.begun && m.late s.ns) || !s.formed m.slot || !s.accepts m.slot) = none := by
      rw [State.running, h]
      rfl
    have hSame : ({ s.sdio with cmds := begin4 s.sdio.cmds } : Sdio) = s.sdio := by
      rw [show begin4 s.sdio.cmds = s.sdio.cmds by rw [h]; rfl]
    refine Act.Does.get_bind (Act.Does.ite (fun _ => ?_) fun _ => Act.Does.pure rfl)
    rw [hNone]
    exact Act.Does.make (by rw [hSame, State.upd_sdio_self])

/-- The one command ends. -/
theorem finish_turnAway {m : MbCmd} {r : Reply} (hCmds : s.sdio.cmds = [m]) (hEnd : s.endCode m.slot r = r.code)
    (hEcc : r.code ≠ Code.faultEcc) (hHeld : s.sdio.ring.held = []) (hRoom : s.sdio.ring.wr - s.sdio.ring.cons < 64) :
    (do finish m.slot r; turnAway 16 : Act Unit).Does s fun _ t => s.Finished m.slot r.code r.data t ∧ t.sdio.cmds = [] := by
  refine (finish_does hEnd hEcc hHeld hRoom).bind fun _ t ht => ?_
  have hEmpty : t.sdio.cmds = [] := by rw [ht.cmds, hCmds]; simp
  exact (turnAway_empty hEmpty 16).mono fun _ u hu => hu ▸ ⟨ht, hEmpty⟩

theorem State.Finished.ended {slot code : Nat} {data : List Byte} (h : s.Finished slot code data t) (hCmds : t.sdio.cmds = []) :
    commandEnded s t slot code data := ⟨hCmds, h.ring, h.code, h.data, h.int⟩

/-! ## Submission (R360, R363) -/

theorem deadline_not_late (s : State) (tmo : Nat) (slot : Nat) : ({ slot, deadline := s.deadline tmo } : MbCmd).late s.ns = false := by
  unfold MbCmd.late State.deadline
  split
  · rfl
  · simp

/-- Commands that have begun or have no deadline, or whose time begins, and that are in order, are not turned away. -/
def State.Stays (s : State) (m : MbCmd) : Prop :=
  s.formed m.slot = true ∧ s.accepts m.slot = true ∧ (m.begun = true ∨ m.late s.ns = false)

theorem turnAway_starts (h : ∀ m ∈ s.sdio.cmds, s.Stays m) (n : Nat) : (turnAway (n + 1)).Does s fun _ t =>
    t = s.upd (.sdio { s.sdio with cmds := if s.mailOn then begin4 s.sdio.cmds else s.sdio.cmds }) := by
  have hNone : s.running.find? (fun (m : MbCmd) => (!m.begun && m.late s.ns) || !s.formed m.slot || !s.accepts m.slot) = none := by
    refine List.find?_eq_none.mpr fun m hm => ?_
    obtain ⟨hFormed, hAccepts, hTime⟩ := h m (List.mem_of_mem_take hm)
    rcases hTime with hTime | hTime <;> simp [hFormed, hAccepts, hTime]
  refine Act.Does.get_bind (Act.Does.ite (fun hMail => ?_) fun hMail => Act.Does.pure ?_)
  · rw [hNone]
    exact Act.Does.make (by rw [if_pos hMail])
  · rw [if_neg hMail]
    rfl

theorem mbSubmit_busy (hTakes : s.takes who .sdioMbSubmit 0) (hBusy : x.val ∈ s.sdio.busy) : s.does (.mbSubmit who x) fun t =>
    t = { s with regs := t.regs, bus := t.bus } ∧ t.rf .sdioMbStat 0 23 16 = min 255 (s.rf .sdioMbStat 0 23 16 + 1) ∧
    t.answered who Code.ok := by
  refine State.does_of rfl (command_does hTakes (Act.Does.get_bind (Act.Does.ite (fun _ => Act.Does.countSat_bind (Act.Does.pure
    ⟨rfl, ?_, by simp⟩)) fun h => absurd (by simpa using hBusy) h)))
  exact (State.rf_setField_same (s := s) (r := .sdioMbStat) (i := 0) _ (by decide : 23 < 32)).trans (Nat.mod_eq_of_lt (by omega))

theorem mbSubmit_free (hTakes : s.takes who .sdioMbSubmit 0) (hFree : x.val ∉ s.sdio.busy) (hFormed : s.formed x.val = true)
    (hAccepts : s.accepts x.val = true)
    (hOthers : ∀ m ∈ s.sdio.cmds, s.formed m.slot = true ∧ s.accepts m.slot = true ∧ (m.begun = true ∨ m.deadline = none)) :
    s.does (.mbSubmit who x) fun t => t = { s with bus := t.bus, sdio := { s.sdio with
      cmds := let l := s.sdio.cmds ++ [{ slot := x.val, deadline := s.deadline (s.slotNat x.val 8 4) }]
              if s.mailOn then begin4 l else l } } ∧ t.answered who Code.ok := by
  refine State.does_of rfl (command_does hTakes (Act.Does.get_bind (Act.Does.ite (fun h => absurd (by simpa using h) hFree) fun _ =>
    Act.Does.make_bind ((turnAway_starts (fun m hm => ?_) 15).bind fun _ t ht => Act.Does.pure ?_))))
  · rcases List.mem_append.mp hm with hOld | hNew
    · obtain ⟨hFormed', hAccepts', hTime⟩ := hOthers m hOld
      refine ⟨hFormed', hAccepts', hTime.imp_right fun hNone => ?_⟩
      simp [MbCmd.late, hNone]
    · rw [List.mem_singleton.mp hNew]
      exact ⟨hFormed, hAccepts, .inr (deadline_not_late s _ _)⟩
  · subst ht
    exact ⟨rfl, by simp⟩

/-! ## MAILBOX_TIMEOUT (R363) -/

theorem mailboxTimeout_ends {op d : Nat} {begun : Bool} (hReady : commandReady s { slot := x.val, deadline := some d, begun } op)
    (hOpen : begun = false ∨ commitsAtStart op = false) (hDue : d * nsUnit ≤ s.clock.elapsed) :
    s.does (.mailboxTimeout x) fun t => commandEnded s t x.val Code.timeout [] ∧ t.mem = s.mem := by
  obtain ⟨hMail, hCmds, -, hOp, -, -, hHeld, hRoom⟩ := hReady
  have hFind : (s.sdio.cmds.find? fun (m : MbCmd) => m.slot = x.val && !s.committed m) = some { slot := x.val, deadline := some d, begun } := by
    have hOp' : s.slotOp x.val = op := hOp
    rw [hCmds]
    rcases hOpen with h | h <;> simp [State.committed, hOp', h]
  refine State.does_of rfl (Act.Does.get_bind ?_)
  simp only [hFind, Option.bind_some]
  refine Act.Does.ite (fun _ => ?_) fun h => absurd hMail h
  refine Act.Does.bind (Act.does_of_run (Q := fun _ t => t = s) (fun k => run_reach_past hDue k) rfl) fun _ t ht => ?_
  subst ht
  refine (finish_turnAway (r := { code := Code.timeout }) hCmds rfl (by decide) hHeld hRoom).mono fun _ t ht => ?_
  exact ⟨ht.1.ended ht.2, ht.1.same .mem (by decide)⟩

theorem mailboxTimeout_committed {op d : Nat} (hReady : commandReady s { slot := x.val, deadline := some d, begun := true } op)
    (hCommits : commitsAtStart op = true) : s.does (.mailboxTimeout x) fun t => t = s := by
  obtain ⟨-, hCmds, -, hOp, -⟩ := hReady
  have hFind : (s.sdio.cmds.find? fun (m : MbCmd) => m.slot = x.val && !s.committed m) = none := by
    have hOp' : s.slotOp x.val = op := hOp
    rw [hCmds]
    simp [State.committed, hOp', hCommits]
  refine State.does_of rfl (Act.Does.get_bind ?_)
  simp only [hFind, Option.bind_none]
  exact Act.Does.pure rfl

/-! ## The rings (R37, R364) -/

theorem mbCons_frees {i : Nat} (hTakes : s.takes who .sdioMbCons 0) (hHeld : s.sdio.ring.held = [])
    (h : (i % 64 + 64 - s.sdio.ring.cons % 64) % 64 ≤ s.sdio.ring.wr - s.sdio.ring.cons) : s.does (.mbCons who i) fun t =>
      t = { s with sdio := { s.sdio with ring := { s.sdio.ring with
        cons := s.sdio.ring.cons + (i % 64 + 64 - s.sdio.ring.cons % 64) % 64 } }, bus := t.bus } := by
  refine State.does_of rfl (command_does hTakes (Act.Does.get_bind (Act.Does.ite (fun _ => Act.Does.make_bind
    ((releaseAll_idle ?_ 64).bind fun _ t ht => Act.Does.pure ?_)) fun hNot => absurd h hNot)))
  · exact hHeld
  · subst ht
    rfl

theorem mbCons_past {i : Nat} (hTakes : s.takes who .sdioMbCons 0)
    (h : s.sdio.ring.wr - s.sdio.ring.cons < (i % 64 + 64 - s.sdio.ring.cons % 64) % 64) :
    s.does (.mbCons who i) fun t => t = { s with bus := t.bus } :=
  State.does_of rfl (command_does hTakes (Act.Does.get_bind (Act.Does.ite (fun hLe => absurd hLe (Nat.not_le.mpr h)) fun _ =>
    Act.Does.pure rfl)))

theorem getD_of_lt {α : Type} (l : List α) {i : Nat} (h : i < l.length) (d : α) : l.getD i d = l[i] := by
  rw [List.getD_eq_getElem?_getD, List.getElem?_eq_getElem h]
  rfl

theorem heldCompletionWrite_host {r : CRec} {rest : List CRec} (hHeld : s.sdio.ring.held = r :: rest) (hRoom : s.sdio.ring.isFull 6 = false) :
    s.does (.heldCompletionWrite .host) fun t => t = { s with sdio := t.sdio, regs := t.regs } ∧
      t.sdio.ring = { s.sdio.ring with wr := s.sdio.ring.wr + 1, held := rest } ∧ t.sdio.heldSlots = s.sdio.heldSlots.tail ∧
      ramHolds t (hostRing + s.sdio.ring.wr % 64 * 32) (r.bytes 6 s.sdio.ring.wr) := by
  refine State.does_of rfl (Act.Does.get_bind (Act.Does.get_bind ?_))
  simp only [hHeld]
  refine Act.Does.ite (fun _ => Act.Does.make_bind ((hostWrite_does r _).mono fun _ t ht => ?_)) fun h => absurd hRoom (by simpa using h)
  refine ⟨?_, ?_, ?_, fun i hi => ?_⟩
  · have hSame : s.SameBut [.sdio, .regs] t := State.SameBut.of_upd ht.same (by simp)
    refine State.ext_fld fun f => ?_
    cases f with
    | sdio | regs => rfl
    | _ => exact hSame _ (by decide)
  · rw [ht.sdio]
    rfl
  · rw [ht.sdio]
    rfl
  · rw [ht.sdio, getD_of_lt _ hi]
    exact Memory.byteOr_store_same _ _ _ i hi

/-- A record is written at the write index of a context's ring. -/
theorem ringWrite_does {c pa : Nat} (r : CRec) (hPlace : (s.ctx c).recordPa ((s.ctx c).ring.wr % 2 ^ (s.ctx c).desc.ringK) = some pa) :
    (ringWrite c r).Does s fun _ t => t.ctx c = { s.ctx c with ring := { (s.ctx c).ring with wr := (s.ctx c).ring.wr + 1 } } ∧
      t.holds pa (r.bytes (s.ctx c).desc.ringK (s.ctx c).ring.wr) ∧ s.keepsBut t [(pa, 32)] ∧ s.SameBut completeFields t := by
  refine Act.Does.get_bind ?_
  simp only [hPlace]
  refine (writePhys_does pa _ s).bind fun _ u hu => Act.Does.get_bind (Act.Does.make ?_)
  have hCtx : u.ctx c = s.ctx c := congrArg (fun x : Sparse Context => x.at c {}) (hu.1 .ctxs (by decide))
  refine ⟨by rw [hCtx]; exact State.ctx_upd_ctx _ _ _, ?_, ?_, (hu.1.mono (by decide)).upd (by simp [completeFields])⟩
  · exact State.holds_store (s := s) hu.2.1
  · have hKeeps := hu.keepsBut_store
    rw [CRec.bytes_length] at hKeeps
    exact hKeeps

theorem heldCompletionWrite_ctx {c pa : Nat} {r : CRec} {rest : List CRec} (hc : c < 1024) (hHeld : (s.ctx c).ring.held = r :: rest)
    (hRoom : (s.ctx c).ring.isFull (s.ctx c).desc.ringK = false)
    (hPlace : (s.ctx c).recordPa ((s.ctx c).ring.wr % 2 ^ (s.ctx c).desc.ringK) = some pa) :
    s.does (.heldCompletionWrite (.ctx c)) fun t =>
      t.ctx c = { s.ctx c with ring := { (s.ctx c).ring with wr := (s.ctx c).ring.wr + 1, held := rest } } ∧
      t.holds pa (r.bytes (s.ctx c).desc.ringK (s.ctx c).ring.wr) ∧ s.keepsBut t [(pa, 32)] ∧ t.locks = s.locks := by
  refine State.does_of rfl (Act.Does.get_bind ?_)
  simp only [Nat.mod_eq_of_lt hc, hHeld]
  refine Act.Does.ite (fun _ => Act.Does.modCtx_bind ((ringWrite_does (pa := pa) r ?_).mono fun _ t ht => ?_)) fun h =>
    absurd hRoom (by simpa using h)
  · rw [State.ctx_upd_ctx]
    exact hPlace
  · obtain ⟨hCtx, hHolds, hKeeps, hSame⟩ := ht
    rw [State.ctx_upd_ctx] at hCtx hHolds
    exact ⟨hCtx, hHolds, hKeeps, hSame .locks (by decide)⟩

/-! ## Telemetry (R365) -/

theorem fit_length (n : Nat) (bs : List Byte) : (fit n bs).length = n := by
  simp [fit]
  omega

/-- One record goes behind those of a FIFO that has room. -/
theorem telemetry_room (hRoom : s.sdio.fifo.length < 256) (type : Nat) (payload : List Byte) : (telemetry type payload).Does s fun _ t =>
    t = { s with sdio := t.sdio } ∧ ∃ r, t.sdio.fifo = s.sdio.fifo ++ [r] ∧ r.length = 128 ∧ r.head? = some (BitVec.ofNat 8 type) := by
  refine Act.Does.get_bind (Act.Does.make_bind (Act.Does.ite (fun _ => Act.Does.make ⟨rfl, _, rfl, ?_, ?_⟩) fun h => absurd hRoom h))
  · simp [fit_length]
  · simp only [bytesOf, List.cons_append, List.head?_cons]
    refine congrArg some (BitVec.eq_of_toNat_eq ?_)
    rw [BitVec.toNat_ofNat, BitVec.toNat_ofNat]
    omega

theorem telemetryTick_does {type : Fin 4} (hType : type.val ≠ 0) (hAwake : s.awake = true) (hRoom : s.sdio.fifo.length < 256)
    (hDue : s.sdio.telNext.getD (type.val - 1) 0 * nsUnit ≤ s.clock.elapsed) : s.does (.telemetryTick type) fun t =>
      t = { s with sdio := t.sdio } ∧ ∃ r, t.sdio.fifo = s.sdio.fifo ++ [r] ∧ r.length = 128 ∧
        r.head? = some (BitVec.ofNat 8 type.val) := by
  refine State.does_of rfl (Act.Does.get_bind (Act.Does.ite (fun _ => ?_) fun h => absurd (by simp [hAwake, hType]) h))
  refine Act.Does.bind (Act.does_of_run (Q := fun _ t => t = s) (fun k => run_reach_past hDue k) rfl) fun _ t ht => ?_
  subst ht
  refine Act.Does.get_bind ((telemetry_room hRoom type.val _).bind fun _ u hu => Act.Does.get_bind (Act.Does.make ⟨?_, ?_⟩))
  · rw [hu.1]
    rfl
  · exact hu.2

/-- Settles O50: submission by the slot, timeouts by the commit point, then the rings and the FIFO. -/
theorem ringsAndFifosMove : Obligations.RingsAndFifosMove := by
  intro s
  refine ⟨fun who x hTakes => ⟨mbSubmit_free hTakes, mbSubmit_busy hTakes⟩,
    fun x op d begun hReady => ⟨mailboxTimeout_ends hReady, fun hBegun hCommits => ?_⟩,
    fun who i hTakes hHeld => ⟨mbCons_frees hTakes hHeld, mbCons_past hTakes⟩,
    fun r rest => ⟨heldCompletionWrite_host, fun c pa => heldCompletionWrite_ctx⟩,
    fun type hType hAwake hRoom hDue => telemetryTick_does hType hAwake hRoom hDue⟩
  subst hBegun
  exact mailboxTimeout_committed hReady hCommits

end Sys2Proof.Machine

/-!
PROOF. The mailbox commands that succeed (R361, R362, R364, R450).
-/
namespace Sys2Proof.Machine

variable {s t u : State} {x : Fin 16} {begun : Bool}

/-! ## A command that runs -/

/-- What the body of a command leaves for the command to end with the reply `r`. -/
structure State.Body (s : State) (r : Reply) (t : State) : Prop where
  cmds : t.sdio.cmds = s.sdio.cmds
  ring : t.sdio.ring = s.sdio.ring
  code : r.code ≠ Code.faultEcc

theorem State.Body.refl {r : Reply} (h : r.code ≠ Code.faultEcc) : s.Body r s := ⟨rfl, rfl, h⟩

/-- The command of a slot is run, and ends with what its body answers. -/
theorem mailbox_does {op : Nat} {body : Act Reply} {P : Reply → State → Prop}
    (hReady : commandReady s { slot := x.val, deadline := none, begun } op) (h : body.Does s fun r t => s.Body r t ∧ P r t) :
    (mailbox x.val op body).Does s fun _ u => ∃ r t, P r t ∧ commandEnded s u x.val r.code r.data ∧ t.SameBut hostFields u ∧
      u.sdio.periods = t.sdio.periods := by
  obtain ⟨hMail, hCmds, -, hOp, hFormed, hAccepts, hHeld, hRoom⟩ := hReady
  have hFind : s.running.find? (fun (m : MbCmd) => m.slot = x.val) = some { slot := x.val, deadline := none, begun } := by
    rw [State.running, hCmds]
    simp
  refine Act.Does.get_bind ?_
  simp only [hFind]
  have hRuns : (s.mailOn && s.slotOp x.val = op && s.formed x.val && s.accepts x.val) = true := by
    have hOp' : s.slotOp x.val = op := hOp
    have hFormed' : s.formed x.val = true := hFormed
    have hAccepts' : s.accepts x.val = true := hAccepts
    simp [hMail, hOp', hFormed', hAccepts']
  refine Act.Does.ite (fun _ => Act.Does.ite (fun hLate => absurd hLate (by simp [MbCmd.late])) fun _ => ?_) fun hNot => absurd hRuns hNot
  refine h.bind fun r t ht => ?_
  obtain ⟨hBody, hP⟩ := ht
  have hCmds' : t.sdio.cmds = [{ slot := x.val, deadline := none, begun }] := hBody.cmds.trans hCmds
  have hEnd : t.endCode x.val r = r.code := by
    rw [State.endCode, hCmds']
    simp
  refine (finish_turnAway (m := { slot := x.val, deadline := none, begun }) hCmds' hEnd hBody.code (hBody.ring ▸ hHeld)
    (hBody.ring ▸ hRoom)).mono fun _ u hu => ?_
  obtain ⟨hFinished, hEmpty⟩ := hu
  exact ⟨r, t, hP, ⟨hEmpty, by rw [hFinished.ring, hBody.ring], by rw [← hBody.ring]; exact hFinished.code, hFinished.data, hFinished.int⟩,
    hFinished.same, hFinished.periods⟩

theorem mbNop_does (hReady : commandReady s { slot := x.val, deadline := none, begun } 0x0001) : s.does (.mbNop x) fun t =>
    commandEnded s t x.val Code.ok (Memory.load 0 s.sdio.ram (slotBase x.val + 0x10) (s.slotLen x.val)) ∧ t.mem = s.mem := by
  refine State.does_of rfl ((mailbox_does (P := fun r t => t = s ∧ r = { data := Memory.load 0 s.sdio.ram (slotBase x.val + 0x10) (s.slotLen x.val) })
    hReady (Act.Does.get_bind (Act.Does.pure ⟨.refl (show Code.ok ≠ Code.faultEcc by decide), rfl, rfl⟩))).mono ?_)
  rintro _ u ⟨_, _, ⟨rfl, rfl⟩, hEnded, hSame, -⟩
  exact ⟨hEnded, hSame .mem (by decide)⟩

theorem mbInfo_does (hReady : commandReady s { slot := x.val, deadline := none, begun } 0x0002) : s.does (.mbInfo x) fun t =>
    commandEnded s t x.val Code.ok s.info ∧ t.mem = s.mem := by
  refine State.does_of rfl ((mailbox_does (P := fun r t => t = s ∧ r = { data := s.info })
    hReady (Act.Does.get_bind (Act.Does.pure ⟨.refl (show Code.ok ≠ Code.faultEcc by decide), rfl, rfl⟩))).mono ?_)
  rintro _ u ⟨_, _, ⟨rfl, rfl⟩, hEnded, hSame, -⟩
  exact ⟨hEnded, hSame .mem (by decide)⟩

/-! ## Programs (R361, R450) -/

/-- Staged bytes that are sound are read as they stand. -/
theorem readStage_does {off n pa : Nat} (hPlace : s.stagePa off n = some pa) (hSound : s.sound pa n) :
    (readStage off n).Does s fun r t => r = .inl (s.peek pa n) ∧ t = s := by
  refine Act.Does.get_bind ?_
  simp only [hPlace]
  refine (readTier_does pa n hSound).bind ?_
  rintro _ t ⟨rfl, rfl⟩
  exact Act.Does.pure ⟨rfl, rfl⟩

/-- A program has been loaded. -/
structure State.Loaded' (s : State) (p : Program) (t : State) : Prop where
  same : s.SameBut [.progs, .nextHandle, .boot] t
  progs : t.progs = s.progs.put s.freeHandle p
  events : t.boot.events = (s.boot.events + 1) % 2 ^ 32

theorem loadProg_does {pa : Nat} {p : Program} (hReady : commandReady s { slot := x.val, deadline := none, begun } 0x0010)
    (hFew : s.loaded.length < 1024) (hPlace : s.stagePa (s.arg x.val 0 8) (s.arg x.val 8 4) = some pa)
    (hSound : s.sound pa (s.arg x.val 8 4))
    (hCheck : checkImage s.boot.certs (s.peek pa (s.arg x.val 8 4))
      ((List.range ((s.slotLen x.val - 12) / 2)).map fun i => s.arg x.val (12 + 2 * i) 2) = .inl p) :
    s.does (.loadProg x) fun t => commandEnded s t x.val Code.ok (loadReply s.freeHandle 0 0 0) ∧
      t.progs.find s.freeHandle = some p ∧ (∀ h, h ≠ s.freeHandle → t.progs.find h = s.progs.find h) ∧
      t.boot.events = (s.boot.events + 1) % 2 ^ 32 ∧ t.mem = s.mem := by
  refine State.does_of rfl ((mailbox_does (P := fun r t => s.Loaded' p t ∧ r = { data := loadReply s.freeHandle 0 0 0 }) hReady ?_).mono ?_)
  · refine Act.Does.get_bind (Act.Does.ite (fun h => absurd h (by omega)) fun _ => (readStage_does hPlace hSound).bind ?_)
    rintro _ t ⟨rfl, rfl⟩
    simp only [hCheck]
    refine Act.Does.bind (Q := fun h v => t.Loaded' p v ∧ h = t.freeHandle ∧ v.sdio = t.sdio)
      (Act.Does.get_bind (Act.Does.make_bind (Act.Does.make_bind (Act.Does.make_bind (Act.Does.pure ⟨⟨?_, rfl, rfl⟩, rfl, rfl⟩))))) ?_
    · exact (((State.SameBut.refl _ t).upd (by simp)).upd (by simp)).upd (by simp)
    · intro h v hv
      obtain ⟨hLoaded, hHandle, hSdio⟩ := hv
      exact Act.Does.pure ⟨⟨by rw [hSdio], by rw [hSdio], show Code.ok ≠ Code.faultEcc by decide⟩, hLoaded, by rw [hHandle]⟩
  · rintro _ u ⟨_, t, ⟨hLoaded, rfl⟩, hEnded, hSame, -⟩
    have hProgs : u.progs = s.progs.put s.freeHandle p := (hSame .progs (by decide)).trans hLoaded.progs
    have hBoot : u.boot = t.boot := hSame .boot (by decide)
    refine ⟨hEnded, ?_, fun h hne => ?_, ?_, ?_⟩
    · rw [hProgs, Sparse.find_put_same]
    · rw [hProgs, Sparse.find_put_other _ _ hne]
    · rw [hBoot]
      exact hLoaded.events
    · exact (hSame .mem (by decide)).trans (hLoaded.same .mem (by decide))

theorem program_put_gone (p : Program) {h : Nat} : (s.upd (.prog h { p with gone := true })).program h = none := by
  simp [State.program]

theorem program_drop {h : Nat} : (s.upd (.dropProg h)).program h = none := by
  simp [State.program]

/-- A program has been taken away. -/
structure State.Unloaded (s : State) (h : Nat) (t : State) : Prop where
  same : s.SameBut [.progs, .engines, .boot] t
  gone : t.program h = none
  others : ∀ k, k ≠ h → t.progs.find k = s.progs.find k

theorem State.Unloaded.of_progs {h : Nat} (hs : s.Unloaded h t) (hSame : t.SameBut [.engines, .boot] u) : s.Unloaded h u := by
  have hProgs : u.progs = t.progs := hSame .progs (by decide)
  refine ⟨hs.same.trans (hSame.mono (by decide)), ?_, fun k hk => ?_⟩
  · rw [State.program, hProgs]
    exact hs.gone
  · rw [hProgs]
    exact hs.others k hk

/-- The engines that do not run program `h` drop what they hold of it. -/
theorem writes_dropLoaded {es : Sparse Engine} {p : Nat × Engine → Bool} {f : Engine → Engine} :
    (forIn es PUnit.unit fun x _ => if !(p x) then do
        Act.modEngine x.1 f
        pure (.yield ⟨⟩)
      else pure (.yield ⟨⟩) : Act PUnit).Writes [.engines] :=
  writes_forIn (fun _ _ => writes_ite (writes_bind (writes_get_bind fun _ => writes_make (by simp)) fun _ => writes_pure _)
    (writes_pure _)) _ _

theorem unloadProg_does {p : Program} (hReady : commandReady s { slot := x.val, deadline := none, begun } 0x0011)
    (hProgram : s.program (s.arg x.val 0 2) = some p) : s.does (.unloadProg x) fun t =>
      commandEnded s t x.val Code.ok [] ∧ t.program (s.arg x.val 0 2) = none ∧
      (∀ h, h ≠ s.arg x.val 0 2 → t.progs.find h = s.progs.find h) ∧ t.ctxs = s.ctxs ∧ t.mem = s.mem := by
  refine State.does_of rfl ((mailbox_does (P := fun r t => s.Unloaded (s.arg x.val 0 2) t ∧ r = {}) hReady ?_).mono ?_)
  · refine Act.Does.get_bind ?_
    simp only [hProgram]
    have hEnd {t u : State} (ht : s.Unloaded (s.arg x.val 0 2) t) (hu : t.SameBut [.engines, .boot] u) :
        s.Body {} u ∧ s.Unloaded (s.arg x.val 0 2) u ∧ ({} : Reply) = {} := by
      have hu' := ht.of_progs hu
      have hSdio : u.sdio = s.sdio := hu'.same .sdio (by decide)
      exact ⟨⟨by rw [hSdio], by rw [hSdio], show Code.ok ≠ Code.faultEcc by decide⟩, hu', rfl⟩
    refine Act.Does.ite (fun _ => Act.Does.make_bind ?_) fun _ => Act.Does.make_bind ?_
    · refine (writes_dropLoaded.does _).bind fun _ u hu => Act.Does.make_bind (Act.Does.pure (hEnd (t := s.upd _) ⟨?_, ?_, fun k hk => ?_⟩
        ((hu.mono (by decide)).upd (by simp))))
      · exact (State.SameBut.refl _ s).upd (by simp)
      · exact program_put_gone p
      · exact Sparse.find_put_other _ _ hk
    · refine (writes_dropLoaded.does _).bind fun _ u hu => Act.Does.make_bind (Act.Does.pure (hEnd (t := s.upd _) ⟨?_, ?_, fun k hk => ?_⟩
        ((hu.mono (by decide)).upd (by simp))))
      · exact (State.SameBut.refl _ s).upd (by simp)
      · exact program_drop
      · exact Sparse.find_drop_other _ hk
  · rintro _ u ⟨_, t, ⟨hUnloaded, rfl⟩, hEnded, hSame, -⟩
    have hProgs : u.progs = t.progs := hSame .progs (by decide)
    refine ⟨hEnded, ?_, fun h hne => ?_, ?_, ?_⟩
    · rw [State.program, hProgs]
      exact hUnloaded.gone
    · rw [hProgs]
      exact hUnloaded.others h hne
    · exact (hSame .ctxs (by decide)).trans (hUnloaded.same .ctxs (by decide))
    · exact (hSame .mem (by decide)).trans (hUnloaded.same .mem (by decide))

/-! ## NOR_WRITE and TEL_CFG -/

theorem walk_length (d : Byte) : ∀ (n : Nat) (m : List Host.Cell) (a : Nat), (Memory.walk d n m a).length = n
  | 0, _, _ => rfl
  | n + 1, [], a => by simp [Memory.walk, walk_length d n]
  | n + 1, (j, b) :: m, a => by
    rw [Memory.walk]
    split
    · simp [walk_length d n]
    · simp [walk_length d n]

theorem peek_length (s : State) (pa n : Nat) : (s.peek pa n).length = n := walk_length _ _ _ _

theorem norWrite_does {pa : Nat} (hReady : commandReady s { slot := x.val, deadline := none, begun } 0x0030)
    (hPlace : s.stagePa (s.arg x.val 0 8) (s.arg x.val 12 4) = some pa) (hSound : s.sound pa (s.arg x.val 12 4)) :
    s.does (.norWrite x true) fun t => commandEnded s t x.val Code.ok [] ∧ t.mem = s.mem ∧
      ∀ i, i < s.arg x.val 12 4 → Memory.byteOr 0xFF t.nor (s.arg x.val 8 4 + i) = (s.peek pa (s.arg x.val 12 4)).getD i 0 := by
  refine State.does_of rfl ((mailbox_does (P := fun r t => t = s.upd (.nor (s.arg x.val 8 4) (s.peek pa (s.arg x.val 12 4))) ∧ r = {})
    hReady ?_).mono ?_)
  · refine Act.Does.get_bind ((readStage_does hPlace hSound).bind ?_)
    rintro _ t ⟨rfl, rfl⟩
    exact Act.Does.ite (fun _ => Act.Does.make_bind (Act.Does.pure ⟨⟨rfl, rfl, show Code.ok ≠ Code.faultEcc by decide⟩, rfl, rfl⟩))
      fun h => absurd rfl h
  · rintro _ u ⟨_, t, ⟨ht, rfl⟩, hEnded, hSame, -⟩
    refine ⟨hEnded, ?_, fun i hi => ?_⟩
    · rw [show u.mem = t.mem from hSame .mem (by decide), ht]
      rfl
    · have hi' : i < (s.peek pa (s.arg x.val 12 4)).length := by rwa [peek_length]
      rw [show u.nor = t.nor from hSame .nor (by decide), ht, getD_of_lt _ hi']
      exact Memory.byteOr_store_same _ _ _ i hi'

/-- The periods a TEL_CFG command names. -/
def State.namedPeriods (s : State) (slot : Nat) : List Nat :=
  Config.telPeriods (Memory.load 0 s.sdio.ram (slotBase slot + 0x10) (s.slotLen slot))

theorem telCfg_does (hReady : commandReady s { slot := x.val, deadline := none, begun } 0x0040) : s.does (.telCfg x) fun t =>
    (periodOk (s.namedPeriods x.val) = true → commandEnded s t x.val Code.ok [] ∧ t.sdio.periods = s.namedPeriods x.val) ∧
    (periodOk (s.namedPeriods x.val) = false → commandEnded s t x.val Code.unaligned [] ∧ t.sdio.periods = s.sdio.periods) := by
  refine State.does_of rfl ((mailbox_does (P := fun r t =>
    (periodOk (s.namedPeriods x.val) = true → r = {} ∧ t.sdio.periods = s.namedPeriods x.val) ∧
    (periodOk (s.namedPeriods x.val) = false → r = { code := Code.unaligned } ∧ t.sdio.periods = s.sdio.periods)) hReady ?_).mono ?_)
  · refine Act.Does.get_bind (Act.Does.ite (fun hOk => Act.Does.make_bind (Act.Does.pure ⟨⟨rfl, rfl, ?_⟩, fun _ => ⟨rfl, rfl⟩, fun hBad => ?_⟩))
      fun hBad => Act.Does.pure ⟨.refl ?_, fun hOk => absurd hOk hBad, fun _ => ⟨rfl, rfl⟩⟩)
    · exact (show Code.ok ≠ Code.faultEcc by decide)
    · exact absurd hOk (by simpa [State.namedPeriods] using hBad)
    · exact (show Code.unaligned ≠ Code.faultEcc by decide)
  · rintro _ u ⟨r, t, ⟨hOk, hBad⟩, hEnded, -, hPeriods⟩
    refine ⟨fun h => ?_, fun h => ?_⟩
    · obtain ⟨rfl, hNamed⟩ := hOk h
      exact ⟨hEnded, hPeriods.trans hNamed⟩
    · obtain ⟨rfl, hKept⟩ := hBad h
      exact ⟨hEnded, hPeriods.trans hKept⟩

/-! ## Attestation (R449, R450) -/

theorem quoteEntry_length (type handle key version : Nat) (digest : List Byte) : (quoteEntry type handle key version digest).length = 80 := by
  simp [quoteEntry, fit_length]

theorem flatten_length_of_all {α : Type} {n : Nat} : ∀ {ls : List (List α)}, (∀ l ∈ ls, l.length = n) → ls.flatten.length = n * ls.length
  | [], _ => rfl
  | l :: ls, h => by
    rw [List.flatten_cons, List.length_append, h l List.mem_cons_self, flatten_length_of_all fun m hm => h m (List.mem_cons_of_mem _ hm),
      List.length_cons]
    ring

theorem quote_length (s : State) (nonce : List Byte) : (s.quote nonce).length = 320 + 80 * (s.boot.entries.length + s.loaded.length) := by
  have hBoot : (s.boot.entries.map fun e => quoteEntry e.1 0 e.2.1 e.2.2.1 e.2.2.2).flatten.length = 80 * s.boot.entries.length := by
    rw [flatten_length_of_all (n := 80) fun l hl => ?_, List.length_map]
    obtain ⟨e, _, rfl⟩ := List.mem_map.mp hl
    exact quoteEntry_length _ _ _ _ _
  have hProgs : (s.loaded.map fun p => quoteEntry 0x10 p.1 p.2.keyId p.2.tool p.2.digest).flatten.length = 80 * s.loaded.length := by
    rw [flatten_length_of_all (n := 80) fun l hl => ?_, List.length_map]
    obtain ⟨e, _, rfl⟩ := List.mem_map.mp hl
    exact quoteEntry_length _ _ _ _ _
  unfold State.quote
  simp only [List.length_append, bytesOf_length, fit_length, List.length_replicate, hBoot, hProgs]
  omega

theorem encode_length (a : Ed448.Point) : (Ed448.encode a).length = 57 :=
  List.length_append.trans (congrArg (· + 1) (bytesOf_length 56 _))

theorem sign_length (seed msg : List Byte) : (Ed448.sign seed msg).length = 114 :=
  List.length_append.trans (congrArg₂ (· + ·) (encode_length _) (bytesOf_length 57 _))

/-- Bytes staged in tiles that are LIVE all go in. -/
theorem writeStaged_does {pa : Nat} {data : List Byte} (hRegion : regionAt pa = some .psram)
    (hLive : ∀ a, pa ≤ a → a < pa + max 1 data.length → (s.tagAt a).1 = Tag.live) :
    (writeStaged pa data).Does s fun r t => r = (data.length, Code.ok) ∧ s.MemTo (Memory.store 0 s.mem pa data) t := by
  unfold writeStaged
  refine Act.Does.get_bind ?_
  extract_lets refused
  have hNone : refused = none := by
    refine List.findSome?_eq_none_iff.mpr fun i hi => ?_
    have hi' : i < (pa % 65536 + data.length + 65535) / 65536 := List.mem_range.mp hi
    have hTag : (s.tagAt (max pa ((pa / 65536 + i) * 65536))).1 = Tag.live := hLive _ (Nat.le_max_left _ _) (by omega)
    have hGo : s.tagOutcome { ctx := 1023, stop := 0 } (max pa ((pa / 65536 + i) * 65536)) true = .go := by
      simp [State.tagOutcome, hTag]
    simp only [hGo]
  rw [hNone]
  refine Act.Does.bind (Q := fun c t => c = Code.ok ∧ s.MemTo (Memory.store 0 s.mem pa data) t) ?_ ?_
  · refine Act.Does.get_bind ?_
    simp only [hRegion]
    refine Act.Does.ite (fun h => by cases h) fun _ => Act.Does.ite (fun h => by cases h) fun _ => ?_
    exact (writePhys_does pa data s).bind fun _ t ht => Act.Does.pure ⟨rfl, ht⟩
  · rintro _ t ⟨rfl, ht⟩
    exact Act.Does.pure ⟨rfl, ht⟩

theorem attest_does {pa n : Nat} (hReady : commandReady s { slot := x.val, deadline := none, begun } 0x0020)
    (hn : n = 434 + 80 * (s.boot.entries.length + s.loaded.length)) (hKeys : flag (s.rg .secStat) 3 = true)
    (hAligned : s.arg x.val 32 8 % 64 = 0) (hPlace : s.stagePa (s.arg x.val 32 8) n = some pa) (hRegion : regionAt pa = some .psram)
    (hLive : ∀ a, pa ≤ a → a < pa + n → (s.tagAt a).1 = Tag.live) : s.does (.attest x) fun t =>
      commandEnded s t x.val Code.ok (bytesOf 4 n) ∧
      t.holds pa (s.quote (Memory.load 0 s.sdio.ram (slotBase x.val + 0x10) 32)) ∧ s.keepsBut t [(pa, n)] ∧
      t.boot.quotes = (s.boot.quotes + 1) % 2 ^ 32 := by
  have hQuote := quote_length s (Memory.load 0 s.sdio.ram (slotBase x.val + 0x10) 32)
  generalize hBody : s.quote (Memory.load 0 s.sdio.ram (slotBase x.val + 0x10) 32) = body at hQuote
  have hLen : body.length + 114 = n := by omega
  refine State.does_of rfl ((mailbox_does (P := fun r t => r = { data := bytesOf 4 n } ∧ t.holds pa body ∧ s.keepsBut t [(pa, n)] ∧
    t.boot.quotes = (s.boot.quotes + 1) % 2 ^ 32) hReady ?_).mono ?_)
  · refine Act.Does.get_bind ?_
    simp only [hBody, hLen, hPlace, hKeys, hAligned, Bool.not_true, Bool.false_eq_true, if_false, ne_eq, not_true_eq_false]
    have hSig := sign_length (Config.pufSeed s.boot.helper) (shake256 64 body)
    generalize Ed448.sign (Config.pufSeed s.boot.helper) (shake256 64 body) = sig at hSig ⊢
    have hData : (body ++ sig).length = n := by rw [List.length_append, hSig, hLen]
    refine (writeStaged_does hRegion (hData.symm ▸ fun a h h' => hLive a h (by omega))).bind ?_
    rintro _ t ⟨rfl, ht⟩
    refine Act.Does.ite (fun h => absurd rfl h) fun _ => Act.Does.get_bind (Act.Does.make_bind (Act.Does.pure ⟨⟨?_, ?_, ?_⟩, rfl, fun i hi => ?_,
      ?_, ?_⟩))
    · exact congrArg Sdio.cmds (ht.1 .sdio (by decide) : t.sdio = s.sdio)
    · exact congrArg Sdio.ring (ht.1 .sdio (by decide) : t.sdio = s.sdio)
    · exact (show Code.ok ≠ Code.faultEcc by decide)
    · have hStored := State.holds_store (s := s) ht.2.1 i (by rw [List.length_append]; omega)
      rw [getD_of_lt _ (by rw [List.length_append]; omega), List.getElem_append_left hi, ← getD_of_lt _ hi] at hStored
      exact hStored
    · exact hData ▸ ht.keepsBut_store
    · rw [show t.boot = s.boot from ht.1 .boot (by decide)]
      rfl
  · rintro _ u ⟨_, t, ⟨rfl, hHolds, hKeeps, hQuotes⟩, hEnded, hSame, -⟩
    have hMem : u.mem = t.mem := hSame .mem (by decide)
    refine ⟨hEnded, fun i hi => ?_, fun a ha => ?_, ?_⟩
    · rw [hMem]
      exact hHolds i hi
    · rw [hMem]
      exact hKeeps a ha
    · rw [show u.boot = t.boot from hSame .boot (by decide)]
      exact hQuotes

/-- Settles O49: each command's body, run in the frame of the mailbox. -/
theorem mailboxCommandsComplete : Obligations.MailboxCommandsComplete := by
  intro s x op begun hReady
  refine ⟨?_, ?_, ?_, ?_, ?_, ?_, ?_⟩
  · rintro rfl
    exact mbNop_does hReady
  · rintro rfl
    exact mbInfo_does hReady
  · rintro rfl pa p hFew hPlace hSound hCheck
    exact loadProg_does hReady hFew hPlace hSound hCheck
  · rintro rfl p hProgram
    exact unloadProg_does hReady hProgram
  · rintro rfl pa hKeys hAligned n hPlace hRegion hLive
    exact attest_does hReady rfl hKeys hAligned hPlace hRegion hLive
  · rintro rfl pa hPlace hSound
    exact norWrite_does hReady hPlace hSound
  · rintro rfl
    exact telCfg_does hReady

end Sys2Proof.Machine

/-!
PROOF. What the three SDIO functions transfer (R358, R359, R365, R367, R370).
-/
namespace Sys2Proof.Machine

variable {s t u : State}

/-! ## Loops over a range -/

theorem Act.Does.forIn_range' {β : Type} {f : Nat → β → Act (ForInStep β)} {I : Nat → β → State → Prop} : ∀ (n j : Nat) {b : β} {s : State},
    (∀ k, j ≤ k → k < j + n → ∀ b t, I k b t → (f k b).Does t fun r u => ∃ b', r = .yield b' ∧ I (k + 1) b' u) → I j b s →
    (forIn (List.range' j n) b f : Act β).Does s (I (j + n))
  | 0, _, _, _, _, h => Act.Does.pure h
  | n + 1, j, b, s, hf, h => by
    rw [List.range'_succ, List.forIn_cons]
    refine (hf j (Nat.le_refl j) (by omega) b s h).bind ?_
    rintro _ t ⟨b', rfl, ht⟩
    have hRest := Act.Does.forIn_range' n (j + 1) (fun k hk hk' => hf k (by omega) (by omega)) ht
    rwa [Nat.add_right_comm] at hRest

/-- A loop over a range, with an invariant that counts its passes. -/
theorem Act.Does.forIn_range {β : Type} {f : Nat → β → Act (ForInStep β)} {I : Nat → β → State → Prop} {n : Nat} {b : β} (h : I 0 b s)
    (hf : ∀ k, k < n → ∀ b t, I k b t → (f k b).Does t fun r u => ∃ b', r = .yield b' ∧ I (k + 1) b' u) :
    (forIn (List.range n) b f : Act β).Does s (I n) := by
  have hLoop := Act.Does.forIn_range' n 0 (fun k _ hk => hf k (by omega)) h
  rwa [Nat.zero_add, ← List.range_eq_range'] at hLoop

/-- A loop over one element, whose body answers a value. -/
theorem Act.Does.forIn_one {β γ : Type} {f : γ → β → Act (ForInStep β)} {Q : β → State → Prop} {c : γ} {b : β}
    (h : (f c b).Does s fun r t => ∃ b', r = .yield b' ∧ Q b' t) : (forIn [c] b f : Act β).Does s Q := by
  rw [List.forIn_cons]
  refine h.bind ?_
  rintro _ t ⟨b', rfl, ht⟩
  exact Act.Does.pure ht

/-! ## Words and bytes -/

theorem bytesOf_natOf : ∀ bs : List Byte, bytesOf bs.length (natOf bs) = bs
  | [] => rfl
  | b :: bs => by
    have hLow : BitVec.ofNat 8 (b.toNat + 256 * natOf bs) = b :=
      BitVec.eq_of_toNat_eq (by rw [BitVec.toNat_ofNat, Nat.add_mul_mod_self_left, Nat.mod_eq_of_lt b.isLt])
    have hRest : (b.toNat + 256 * natOf bs) / 256 = natOf bs := by
      have := b.isLt
      omega
    rw [List.length_cons, natOf, bytesOf, hLow, hRest, bytesOf_natOf bs]

theorem natOf_lt : ∀ bs : List Byte, natOf bs < 256 ^ bs.length
  | [] => by simp [natOf]
  | b :: bs => by
    have := natOf_lt bs
    have := b.isLt
    rw [natOf, List.length_cons, pow_succ]
    omega

/-- The bytes of a word that holds four bytes. -/
theorem bytesOf_word {bs : List Byte} (h : bs.length = 4) : bytesOf 4 (Word.ofNat (natOf bs)).toNat = bs := by
  have hLt := natOf_lt bs
  rw [h] at hLt
  have hMod : natOf bs % 2 ^ 32 = natOf bs := Nat.mod_eq_of_lt hLt
  rw [Word.ofNat, BitVec.toNat_ofNat, hMod, ← h, bytesOf_natOf]

theorem load_length (d : Byte) (m : List Host.Cell) (a n : Nat) : (Memory.load d m a n).length = n := walk_length _ _ _ _

theorem load_append {m : List Host.Cell} (h : Memory.wf m = true) (a n k : Nat) :
    Memory.load 0 m a n ++ Memory.load 0 m (a + n) k = Memory.load 0 m a (n + k) := by
  have hWf : Memory.wfOr 0 m = true := h
  simp only [Memory.load_eq hWf, List.range_add, List.map_append, List.map_map, Function.comp_def, Nat.add_assoc]

/-! ## Function 1 (R358, R359, R370) -/

theorem controlOf_ram {a : Nat} (h : 0x100 ≤ a) (h' : a < 0x1_0000) (win : Nat) : controlOf a win = none := by
  rw [controlOf, if_neg (by omega), if_neg (by omega)]

theorem controlOf_aperture {a : Nat} (h : 0x1_0000 ≤ a) (win : Nat) :
    controlOf a win = some (controlBase + win * 0x1_0000 + (a - 0x1_0000)) := by
  rw [controlOf, if_neg (by omega), if_pos h]

theorem wordAddr_rising {a k : Nat} (h : a + 4 * k < 0x2_0000) : wordAddr false a k = a + 4 * k := Nat.mod_eq_of_lt h

/-- Of the bytes sent to address `a`, `n` stand in function 1 memory. -/
structure State.Received (s : State) (a : Nat) (bs : List Byte) (n : Nat) (t : State) : Prop where
  same : t = { s with sdio := { s.sdio with ram := t.sdio.ram } }
  bytes : ∀ i, i < n → Memory.byte t.sdio.ram (a + i) = bs.getD i 0

theorem State.Received.store {a k : Nat} {bs : List Byte} (h : s.Received a bs (4 * k) t) (hk : 4 * k + 4 ≤ bs.length) :
    s.Received a bs (4 * (k + 1)) (t.upd (.ram (a + 4 * k) (bytesOf 4 (Word.ofNat (natAt bs (4 * k) 4)).toNat))) := by
  have hWord : ((bs.drop (4 * k)).take 4).length = 4 := by
    rw [List.length_take, List.length_drop]
    omega
  rw [natAt, bytesOf_word hWord]
  generalize hData : (bs.drop (4 * k)).take 4 = data at hWord
  refine ⟨by rw [h.same]; rfl, fun i hi => ?_⟩
  change Memory.byteOr 0 (Memory.store 0 t.sdio.ram (a + 4 * k) data) (a + i) = _
  by_cases hNew : 4 * k ≤ i
  · obtain ⟨j, rfl⟩ := Nat.exists_eq_add_of_le hNew
    rw [← Nat.add_assoc, Memory.byteOr_store_same _ _ _ j (by omega), getD_of_lt _ (by omega)]
    subst hData
    simp
  · rw [Memory.byteOr_store_other _ _ _ _ (by omega)]
    exact h.bytes i (by omega)

/-- Whole words sent to the command slots are stored there. -/
theorem writeWords_does {a : Nat} {bs : List Byte} (win : Nat) (hLow : 0x1000 ≤ a) (hHigh : a + bs.length ≤ 0x5000)
    (hWhole : bs.length % 4 = 0) : (writeWords false a win bs).Does s fun _ t => s.Received a bs bs.length t := by
  have hCount : 4 * (bs.length / 4) = bs.length := by omega
  refine Act.Does.bind (Act.Does.forIn_range (I := fun k _ t => s.Received a bs (4 * k) t) ⟨rfl, fun i hi => absurd hi (by omega)⟩
    fun k hk b t ht => ?_) fun _ t ht => Act.Does.pure (hCount ▸ ht)
  refine Act.Does.bind (Q := fun _ u => s.Received a bs (4 * (k + 1)) u) ?_ fun _ u hu => Act.Does.pure ⟨_, rfl, hu⟩
  rw [wordAddr_rising (by omega), writeWord, controlOf_ram (by omega) (by omega)]
  exact Act.Does.ite (fun _ => Act.Does.make (ht.store (by omega))) fun h => absurd (by omega) h

theorem cmd53_write_does {a : Nat} {bs : List Byte} (hReach : s.reachable = true) (hCalm : s.calm = true) (hAligned : a % 4 = 0)
    (hWhole : bs.length % 4 = 0) (hLow : 0x1000 ≤ a) (hHigh : a + bs.length ≤ 0x5000) :
    s.does (.cmd53 true false a bs.length bs) fun t => t = { s with sdio := t.sdio } ∧ ramHolds t a bs ∧
      t.sdio.reply = [] ∧ t.sdio.transfer = none := by
  obtain ⟨hOnTime, hQuiet⟩ := State.calm_iff.mp hCalm
  refine State.does_of rfl (settled_does hOnTime (Act.Does.get_bind (Act.Does.ite (fun _ => Act.Does.modSdio_bind ?_) fun h =>
    absurd (by simp [hReach]; omega) h)))
  refine Act.Does.ite (fun h => absurd h (by simp [hAligned, hWhole])) fun _ => Act.Does.ite (fun _ => ?_) fun h => absurd rfl h
  rw [List.take_length]
  refine (writeWords_does _ hLow hHigh hWhole).bind fun _ t ht => Act.Does.ite (fun h => absurd h (by omega)) fun _ => ?_
  refine (modSdio_does _).mono ?_
  rintro _ _ rfl
  refine ⟨⟨by rw [ht.same]; rfl, ht.bytes, rfl, by rw [ht.same]; rfl⟩, ?_⟩
  rw [ht.same]
  exact hQuiet

theorem sdioAbort_does {a win : Nat} {bs : List Byte} (hReach : s.reachable = true) (hCalm : s.calm = true)
    (hWhole : bs.length % 4 = 0) (hLow : 0x1000 ≤ a) (hHigh : a + bs.length ≤ 0x5000) (hOpen : s.sdio.transfer = some (1, false, a, win)) :
    s.does (.sdioAbort 1 bs) fun t => t = { s with sdio := t.sdio } ∧ ramHolds t a bs ∧ t.sdio.transfer = none := by
  obtain ⟨hOnTime, hQuiet⟩ := State.calm_iff.mp hCalm
  refine State.does_of rfl (settled_does hOnTime (Act.Does.get_bind (Act.Does.ite (fun _ => Act.Does.get_bind ?_) fun h =>
    absurd hReach h)))
  simp only [hOpen]
  refine Act.Does.ite (fun _ => Act.Does.modSdio_bind (Act.Does.ite (fun _ => ?_) fun h => absurd rfl h)) fun h => absurd rfl h
  refine (writeWords_does _ hLow hHigh hWhole).mono fun _ t ht => ⟨⟨by rw [ht.same]; rfl, ht.bytes, by rw [ht.same]; rfl⟩, ?_⟩
  rw [ht.same]
  exact hQuiet

/-- One word of function 1 memory. -/
theorem readWord_ram {a : Nat} (win : Nat) (hLow : 0x800 ≤ a) (hHigh : a < 0x5000) :
    (readWord a win).Does s fun w t => bytesOf 4 w.toNat = Memory.load 0 s.sdio.ram a 4 ∧ t = s := by
  rw [readWord, controlOf_ram (by omega) (by omega)]
  refine Act.Does.get_bind (Act.Does.pure ⟨?_, rfl⟩)
  rw [if_pos (by simp [inRam, hLow, hHigh]), bytesOf_word (load_length _ _ _ _)]

theorem cmd53_read_does {a n : Nat} (hReach : s.reachable = true) (hCalm : s.calm = true) (hAligned : a % 4 = 0) (hWhole : n % 4 = 0)
    (hLow : 0x800 ≤ a) (hHigh : a + n ≤ 0x5000) (hWf : Memory.wf s.sdio.ram = true) : s.does (.cmd53 false false a n []) fun t =>
      t = { s with sdio := { s.sdio with transfer := none, reply := Memory.load 0 s.sdio.ram a n } } := by
  obtain ⟨hOnTime, hQuiet⟩ := State.calm_iff.mp hCalm
  refine State.does_of rfl (settled_does hOnTime (Act.Does.get_bind (Act.Does.ite (fun _ => Act.Does.modSdio_bind ?_) fun h =>
    absurd (by simp [hReach]; omega) h)))
  refine Act.Does.ite (fun h => absurd h (by simp [hAligned, hWhole])) fun _ => Act.Does.ite (fun h => by cases h) fun _ => ?_
  refine Act.Does.bind (Act.Does.forIn_range (I := fun k out t => out = Memory.load 0 s.sdio.ram a (4 * k) ∧
    t = s.upd (.sdio { s.sdio with transfer := none })) ⟨?_, rfl⟩ ?_) ?_
  · rfl
  · rintro k hk _ _ ⟨rfl, rfl⟩
    rw [wordAddr_rising (by omega)]
    refine (readWord_ram _ (by omega) (by omega)).bind ?_
    rintro w _ ⟨hWord, rfl⟩
    exact Act.Does.pure ⟨_, rfl, by rw [hWord]; exact load_append hWf a (4 * k) 4, rfl⟩
  · rintro _ _ ⟨rfl, rfl⟩
    refine (modSdio_does _).mono ?_
    rintro _ _ rfl
    exact ⟨by rw [show 4 * (n / 4) = n by omega]; rfl, hQuiet⟩

/-- A read without an effect of its own. -/
theorem readRegister_plain {who : Who} {r : Reg} (i j : Nat) (hw : Word) (hClear : r.row.rc = 0) (hHigh : r.high = none) (hSeeds : r ≠ .bootSeeds) :
    (readRegister who r i j hw).Does s fun w t => w = s.readBy who r i j ∧ t = s := by
  have hLatched : r.latched = [] := by
    rw [Reg.latched, hHigh, if_neg (by rintro rfl; cases hHigh)]
    rfl
  refine (readRegister_does s who i j hw hSeeds (by rintro rfl; cases hClear) (by rintro rfl; cases hClear)).mono fun w t ht => ?_
  rw [State.regsCleared_of_rc_eq_zero _ _ _ _ hClear, hLatched] at ht
  exact ht

theorem readAt_plain {who : Who} {r : Reg} {i j off : Nat} (hReg : Reg.lookup off = some (r, i, j)) (hClear : r.row.rc = 0)
    (hHigh : r.high = none) (hSeeds : r ≠ .bootSeeds) (hMay : s.accessCode who false (controlBase + off) 4 = Code.ok) :
    (readAt who (controlBase + off) 4 0).Does s fun x t => x.2 = s.readBy who r i j ∧ t = s := by
  refine Act.Does.get_bind (Act.Does.ite (fun _ => ?_) fun h => absurd hMay h)
  rw [Nat.add_sub_cancel_left, hReg]
  refine (readRegister_plain i j 0 hClear hHigh hSeeds).bind ?_
  rintro _ _ ⟨rfl, rfl⟩
  exact Act.Does.pure ⟨rfl, rfl⟩

theorem readWord_aperture {r : Reg} {i j a win : Nat} (hLow : 0x1_0000 ≤ a) (hReg : Reg.lookup (win * 0x1_0000 + (a - 0x1_0000)) = some (r, i, j))
    (hClear : r.row.rc = 0) (hHigh : r.high = none) (hSeeds : r ≠ .bootSeeds)
    (hMay : s.accessCode Who.host false (controlBase + win * 0x1_0000 + (a - 0x1_0000)) 4 = Code.ok) :
    (readWord a win).Does s fun w t => w = s.readBy Who.host r i j ∧ t = s := by
  rw [readWord, controlOf_aperture hLow]
  rw [Nat.add_assoc] at hMay ⊢
  refine (readAt_plain hReg hClear hHigh hSeeds hMay).bind ?_
  rintro _ _ ⟨hWord, rfl⟩
  exact Act.Does.pure ⟨hWord, rfl⟩

theorem wordAddr_zero {a : Nat} (fixed : Bool) (h : a < 0x2_0000) : wordAddr fixed a 0 = a := by
  cases fixed
  · exact Nat.mod_eq_of_lt h
  · exact Nat.mod_eq_of_lt h

theorem accessCode_upd_sdio (x : Sdio) (who : Who) (w : Bool) (addr size : Nat) :
    (s.upd (.sdio x)).accessCode who w addr size = s.accessCode who w addr size := by
  have hGranted : ∀ n, (s.upd (.sdio x)).granted n = s.granted n := fun _ => rfl
  have hMay : ∀ r i, (s.upd (.sdio x)).mayAccess who w r i = s.mayAccess who w r i := fun _ _ => rfl
  simp only [State.accessCode, hGranted, hMay]

theorem readBy_upd_transfer (x : Option (Nat × Bool × Nat × Nat)) (who : Who) (r : Reg) (i j : Nat) :
    (s.upd (.sdio { s.sdio with transfer := x })).readBy who r i j = s.readBy who r i j := rfl

theorem cmd53_aperture_does {fixed : Bool} {a : Nat} {r : Reg} {i j : Nat} (hReach : s.reachable = true) (hCalm : s.calm = true)
    (hAligned : a % 4 = 0) (hLow : 0x1_0000 ≤ a) (hHigh : a < 0x2_0000)
    (hReg : Reg.lookup (s.rf .sdioWin 0 7 0 * 0x1_0000 + (a - 0x1_0000)) = some (r, i, j)) (hClear : r.row.rc = 0) (hNone : r.high = none)
    (hSeeds : r ≠ .bootSeeds)
    (hMay : s.accessCode Who.host false (controlBase + s.rf .sdioWin 0 7 0 * 0x1_0000 + (a - 0x1_0000)) 4 = Code.ok) :
    s.does (.cmd53 false fixed a 4 []) fun t => t.sdio.reply = bytesOf 4 (s.readBy Who.host r i j).toNat ∧
      t.regs = s.regs ∧ t.mem = s.mem := by
  obtain ⟨hOnTime, hQuiet⟩ := State.calm_iff.mp hCalm
  refine State.does_of rfl (settled_does hOnTime (Act.Does.get_bind (Act.Does.ite (fun _ => Act.Does.modSdio_bind ?_) fun h =>
    absurd (by simp [hReach]) h)))
  refine Act.Does.ite (fun h => absurd h (by simp [hAligned])) fun _ => Act.Does.ite (fun h => by cases h) fun _ => ?_
  rw [← accessCode_upd_sdio { s.sdio with transfer := none }] at hMay
  rw [← readBy_upd_transfer none]
  have hQuiet' : (s.upd (.sdio { s.sdio with transfer := none })).quiet = true := hQuiet
  have hRegs : (s.upd (.sdio { s.sdio with transfer := none })).regs = s.regs := rfl
  have hMem : (s.upd (.sdio { s.sdio with transfer := none })).mem = s.mem := rfl
  generalize s.upd (.sdio { s.sdio with transfer := none }) = u at *
  refine Act.Does.bind (Q := fun out t => out = bytesOf 4 (u.readBy Who.host r i j).toNat ∧ t = u)
    (Act.Does.forIn_one (c := 0) ?_) ?_
  · rw [wordAddr_zero fixed hHigh]
    refine (readWord_aperture hLow hReg hClear hNone hSeeds hMay).bind ?_
    rintro _ _ ⟨rfl, rfl⟩
    exact Act.Does.pure ⟨_, rfl, rfl, rfl⟩
  · rintro _ _ ⟨rfl, rfl⟩
    refine (modSdio_does _).mono ?_
    rintro _ _ rfl
    exact ⟨⟨rfl, hRegs, hMem⟩, hQuiet'⟩

/-- What an access fault of the host link leaves. -/
theorem linkFault_does : linkFault.Does s fun _ t => t = { s with regs := t.regs } ∧ t.rf .sdioWinStatus 0 7 0 = Code.unaligned ∧
    flag (t.rg .sdioIntStat) 2 = true ∧ t.rf .sdioWinStatus 0 15 8 = min 255 (s.rf .sdioWinStatus 0 15 8 + 1) := by
  have hNe : Reg.sdioIntStat.off 0 0 ≠ Reg.sdioWinStatus.off 0 0 := by decide
  refine Act.Does.regField_bind (Act.Does.countSat_bind (Act.Does.make ⟨rfl, ?_, ?_, ?_⟩))
  · rw [State.rf_upd_reg_other _ hNe.symm, State.rf_setField_other _ (.inr (by decide)), State.rf_setField_same _ (by decide)]
    rfl
  · rw [State.rg_upd_reg, flag_setField_same _ _ (by decide)]
    rfl
  · rw [State.rf_upd_reg_other _ hNe.symm, State.rf_setField_same _ (by decide), State.rf_setField_other _ (.inl (by decide))]
    omega

theorem cmd53_unaligned_does {w fixed : Bool} {a n : Nat} {bs : List Byte} (hReach : s.reachable = true) (hCalm : s.calm = true)
    (hFits : n ≤ 511 * 512) (hOdd : a % 4 ≠ 0 ∨ n % 4 ≠ 0) :
    s.does (.cmd53 w fixed a n bs) fun t => t = { s with sdio := t.sdio, regs := t.regs } ∧
      t.rf .sdioWinStatus 0 7 0 = Code.unaligned ∧ flag (t.rg .sdioIntStat) 2 = true ∧ t.sdio.ram = s.sdio.ram ∧
      t.rf .sdioWinStatus 0 15 8 = min 255 (s.rf .sdioWinStatus 0 15 8 + 1) := by
  obtain ⟨hOnTime, hQuiet⟩ := State.calm_iff.mp hCalm
  refine State.does_of rfl (settled_does hOnTime (Act.Does.get_bind (Act.Does.ite (fun _ => Act.Does.modSdio_bind ?_) fun h =>
    absurd (by simp [hReach]; omega) h)))
  refine Act.Does.ite (fun _ => ?_) fun h => absurd (by simpa using hOdd) h
  refine linkFault_does.bind fun _ t ht => ?_
  obtain ⟨hSame, hCode, hInt, hCount⟩ := ht
  refine (modSdio_does _).mono ?_
  rintro _ _ rfl
  refine ⟨⟨by rw [hSame]; rfl, hCode, hInt, by rw [hSame]; rfl, hCount⟩, ?_⟩
  rw [hSame]
  exact hQuiet

/-! ## Functions 2 and 3 (R365, R367) -/

theorem telemetryRead_does {n : Nat} (hReach : s.reachable = true) (hHolds : n ≤ s.sdio.fifo.length) (hFits : n ≤ 2044) :
    s.does (.telemetryRead (128 * n)) fun t => t = { s with sdio := t.sdio, freeCount := s.freeCount + 1 } ∧
      t.sdio = { s.sdio with fifo := s.sdio.fifo.drop n, reply := (s.sdio.fifo.take n).flatten } := by
  refine State.does_of rfl (Act.Does.get_bind (Act.Does.ite (fun _ => ?_) fun h => absurd (by simp [hReach]; omega) h))
  refine Act.Does.ite (fun h => absurd (Nat.mul_mod_right 128 n) h) fun _ => ?_
  have hLen : (s.sdio.fifo.take (128 * n / 128)).length = n := by
    rw [Nat.mul_div_cancel_left n (by decide), List.length_take]
    omega
  rw [Nat.mul_div_cancel_left n (by decide)] at hLen ⊢
  refine Act.Does.freeBytes_bind fun fill _ => Act.Does.modSdio_bind ?_
  rw [hLen, Nat.sub_self, List.replicate_zero, List.flatten_nil, List.append_nil]
  generalize (s.sdio.fifo.take n).flatten = out
  refine (modSdio_does _).mono ?_
  rintro _ _ rfl
  exact ⟨rfl, rfl⟩

/-- A staging offset written to STAGE_PTR. -/
theorem rf_stagePtr (o : Nat) : (s.upd (.reg (Reg.off .sdioStagePtr 0 0) (Word.ofNat (o % 2 ^ 28)))).rf .sdioStagePtr 0 27 0 = o % 2 ^ 28 := by
  rw [State.rf, State.rg_upd_reg]
  rw [field, Word.ofNat, BitVec.toNat_ofNat, pow_zero, Nat.div_one, Nat.mod_eq_of_lt (show o % 2 ^ 28 < 2 ^ 32 by omega)]
  exact Nat.mod_mod _ _

/-- What a read of memory finds is the same whatever STAGE_PTR holds. -/
theorem sameReach_stagePtr (w : Word) : s.SameReach (s.upd (.reg (Reg.off .sdioStagePtr 0 0) w)) := by
  refine State.sameReach_upd_reg s w (fun i hi => ?_) (by simp [reachRegs, Reg.off, Reg.row])
  simp [Reg.off, Reg.row]
  omega

theorem stageBytes_does {pa : Nat} {bs : List Byte} (hPlace : s.stagePa (s.rf .sdioStagePtr 0 27 0) bs.length = some pa)
    (hRegion : regionAt pa = some .psram) (hLive : ∀ a, pa ≤ a → a < pa + max 1 bs.length → (s.tagAt a).1 = Tag.live) :
    (stageBytes bs).Does s fun _ t => s.SameBut [.mem, .flips, .faults, .regs] t ∧ t.mem = Memory.store 0 s.mem pa bs ∧
      t.rf .sdioStagePtr 0 27 0 = (s.rf .sdioStagePtr 0 27 0 + bs.length) % 2 ^ 28 := by
  refine Act.Does.get_bind ?_
  simp only [hPlace]
  refine (writeStaged_does hRegion hLive).bind ?_
  rintro _ t ⟨rfl, ht⟩
  exact Act.Does.make ⟨(ht.1.mono (by simp)).upd (by simp), ht.2.1, rf_stagePtr _⟩

theorem stagingWrite_does {n pa : Nat} {bs : List Byte} (hReach : s.reachable = true) (hCalm : s.calm = true) (hFits : n ≤ 511 * 512)
    (hPlace : s.stagePa (s.rf .sdioStagePtr 0 27 0) n = some pa) (hRegion : regionAt pa = some .psram) (hLen : bs.length = n)
    (hLive : ∀ a, pa ≤ a → a < pa + max 1 n → (s.tagAt a).1 = Tag.live) : s.does (.stagingTransfer true n bs) fun t =>
      t.holds pa bs ∧ s.keepsBut t [(pa, n)] ∧ t.rf .sdioStagePtr 0 27 0 = (s.rf .sdioStagePtr 0 27 0 + n) % 2 ^ 28 ∧
      t.sdio.reply = [] := by
  obtain ⟨hOnTime, hQuiet⟩ := State.calm_iff.mp hCalm
  refine State.does_of rfl (settled_does hOnTime (Act.Does.get_bind (Act.Does.ite (fun _ => Act.Does.modSdio_bind ?_) fun h =>
    absurd (by simp [hReach]; omega) h)))
  subst hLen
  simp only [hPlace, List.take_length]
  generalize hU : s.upd (.sdio { s.sdio with transfer := none }) = u
  have hPlace' : u.stagePa (u.rf .sdioStagePtr 0 27 0) bs.length = some pa := hU ▸ hPlace
  have hLive' : ∀ a, pa ≤ a → a < pa + max 1 bs.length → (u.tagAt a).1 = Tag.live := hU ▸ hLive
  refine Act.Does.ite (fun _ => ?_) fun h => absurd trivial h
  refine (stageBytes_does hPlace' hRegion hLive').bind fun _ t ht => Act.Does.ite (fun h => absurd h (Nat.lt_irrefl _)) fun _ => ?_
  obtain ⟨hSame, hMem, hPtr⟩ := ht
  refine (modSdio_does _).mono ?_
  rintro _ _ rfl
  subst hU
  have hQuiet' : t.quiet = s.quiet := State.quiet_of_sameBut (l := [.sdio, .mem, .flips, .faults, .regs])
    ((((State.SameBut.refl _ s).upd (by simp)).trans (hSame.mono (by simp)))) (by decide)
  exact ⟨⟨State.holds_store (s := s) hMem, State.keepsBut_store hMem List.mem_cons_self, hPtr, rfl⟩, hQuiet'.trans hQuiet⟩

theorem stagingRead_does {n pa : Nat} (hReach : s.reachable = true) (hCalm : s.calm = true) (hFits : n ≤ 511 * 512)
    (hPlace : s.stagePa (s.rf .sdioStagePtr 0 27 0) n = some pa) (hSound : s.sound pa n) : s.does (.stagingTransfer false n []) fun t =>
      t = { s with sdio := t.sdio, regs := t.regs } ∧ t.sdio.reply = s.peek pa n ∧
      t.rf .sdioStagePtr 0 27 0 = (s.rf .sdioStagePtr 0 27 0 + n) % 2 ^ 28 := by
  obtain ⟨hOnTime, hQuiet⟩ := State.calm_iff.mp hCalm
  refine State.does_of rfl (settled_does hOnTime (Act.Does.get_bind (Act.Does.ite (fun _ => Act.Does.modSdio_bind ?_) fun h =>
    absurd (by simp [hReach]; omega) h)))
  simp only [hPlace]
  refine Act.Does.ite (fun h => by cases h) fun _ => Act.Does.reg_bind ?_
  have hSound' : (s.upd (.sdio { s.sdio with transfer := none })).sound pa n := hSound
  refine (readTier_does pa n ((sameReach_stagePtr _).sound hSound')).bind ?_
  rintro _ _ ⟨rfl, rfl⟩
  refine (modSdio_does _).mono ?_
  rintro _ _ rfl
  exact ⟨⟨rfl, rfl, rf_stagePtr _⟩, hQuiet⟩

/-- Settles O48: each function's transfer runs as its own lemma says. -/
theorem sdioFunctionsTransfer : Obligations.SdioFunctionsTransfer := by
  intro s hReach hCalm
  refine ⟨fun a bs hAligned hWhole hLow hHigh => ⟨?_, fun win hOpen => ?_⟩, fun a n hAligned hWhole hLow hHigh hWf => ?_,
    fun fixed a r i j hAligned hLow hHigh hReg hClear hNone hSeeds hMay => ?_, fun w fixed a n bs hFits hOdd => ?_,
    fun n hHolds hFits => ?_, fun n pa bs hFits hPlace hRegion => ⟨fun hLen hLive => ?_, fun hSound => ?_⟩⟩
  · exact cmd53_write_does hReach hCalm hAligned hWhole hLow hHigh
  · exact sdioAbort_does hReach hCalm hWhole hLow hHigh hOpen
  · exact cmd53_read_does hReach hCalm hAligned hWhole hLow hHigh hWf
  · exact cmd53_aperture_does hReach hCalm hAligned hLow hHigh hReg hClear hNone hSeeds hMay
  · exact cmd53_unaligned_does hReach hCalm hFits hOdd
  · exact telemetryRead_does hReach hHolds hFits
  · exact stagingWrite_does hReach hCalm hFits hPlace hRegion hLen hLive
  · exact stagingRead_does hReach hCalm hFits hPlace hSound

end Sys2Proof.Machine

/-!
PROOF. Clock steps, the governor and the budget (R45, R423, R424, R426, Table 21.6).
-/
namespace Sys2Proof.Machine

variable {s t u : State} {e : Nat}

/-- What an action does, with the fields and the registers it leaves. -/
theorem Act.Writes.keeping {α : Type} {x : Act α} {l : List Fld} {p : Nat → Prop} {Q : α → State → Prop} (h : x.Writes l)
    (hKeeps : ∀ o, p o → x.KeepsReg o) (hQ : x.Does s Q) :
    x.Does s fun a t => s.SameBut l t ∧ (∀ o, p o → t.regs.find o = s.regs.find o) ∧ Q a t := by
  obtain ⟨a, t, hSame, hRun⟩ := h s
  exact fun k => ⟨a, t, ⟨hSame, fun o ho => (hKeeps o ho s).of_run hRun, hQ.of_run hRun⟩, hRun k⟩

/-- A state that differs in its registers only. -/
theorem State.SameBut.eq_regs (h : s.SameBut [.regs] t) : t = { s with regs := t.regs } :=
  State.ext_fld fun f => by
    cases f with
    | regs => rfl
    | _ => exact h _ (by decide)

/-! ## Clock steps (R45, R427) -/

theorem target_lt (s : State) (e : Nat) : s.target e < 32 := field_lt _ 12 8

theorem cap_lt (s : State) (e : Nat) : s.cap e < 32 := by
  have hLt := field_lt (s.rg .thermCap (e / 6)) (5 * (e % 6) + 4) (5 * (e % 6))
  rwa [show 5 * (e % 6) + 4 + 1 - 5 * (e % 6) = 5 by omega] at hLt

theorem engFclk_off_ne {e e' : Nat} (h : e' ≠ e) : Reg.off .engFclk e' 0 ≠ Reg.off .engFclk e 0 := by
  simp only [Reg.off, Reg.row]
  omega

/-- A step has been asked for of one engine. -/
structure State.Targeted (s : State) (e m : Nat) (t : State) : Prop where
  same : s.SameBut [.regs] t
  others : ∀ o, o ≠ Reg.off .engFclk e 0 → t.regs.find o = s.regs.find o
  target : s.raised e = false → t.target e = m

theorem setTarget_does (e n : Nat) : (setTarget e n).Does s fun _ t => s.Targeted e (min n (s.cap e)) t := by
  have hCap := cap_lt s e
  have hTarget : (setTarget e n).Does s fun _ t => s.raised e = false → t.target e = min n (s.cap e) := by
    refine Act.Does.get_bind (Act.Does.regField_bind (Act.Does.get_bind (Act.Does.make fun h => ?_)))
    rw [State.target, State.rf_setField_other _ (.inr (by decide)), State.rf_setField_same _ (by decide), h]
    exact Nat.mod_eq_of_lt (by simp only [Bool.false_eq_true, if_false]; omega)
  exact ((writes_setTarget e n (l := [.regs]) (by simp)).keeping (fun o ho => keepsReg_setTarget e n ho) hTarget).mono
    fun _ _ ht => ⟨ht.1, ht.2.1, ht.2.2⟩

theorem State.cap_of_find (h : t.regs.find (Reg.off .thermCap (e / 6) 0) = s.regs.find (Reg.off .thermCap (e / 6) 0)) :
    t.cap e = s.cap e := by rw [State.cap, State.rf, State.rg_eq_of_find h]; rfl

theorem State.target_of_find (h : t.regs.find (Reg.off .engFclk e 0) = s.regs.find (Reg.off .engFclk e 0)) :
    t.target e = s.target e := by rw [State.target, State.rf, State.rg_eq_of_find h]; rfl

theorem State.raised_of_sameBut {l : List Fld} (h : s.SameBut l t) (hl : Fld.therm ∉ l) : t.raised e = s.raised e := by
  rw [State.raised, show t.therm = s.therm from h .therm hl]; rfl

/-- The clock of an engine is set to step `m`. -/
theorem clockStep_does (e : Nat) {m : Nat} (h : m < 32) :
    (do Act.regField .engFclk e 4 0 m; Act.regField .engFclk e 16 16 (b2n (m ≠ s.target e))).Does s fun _ t =>
      t = { s with regs := t.regs } ∧ regsBut s t [Reg.off .engFclk e 0] ∧ t.target e = s.target e ∧ t.rf .engFclk e 4 0 = m ∧
      (flag (t.rg .engFclk e) 16 = true ↔ t.rf .engFclk e 4 0 ≠ s.target e) := by
  refine Act.Does.regField_bind (Act.Does.get_bind (Act.Does.make ?_))
  have hNew : ((s.upd (.reg (Reg.off .engFclk e 0) (setField (s.rg .engFclk e) 4 0 m))).upd (.reg (Reg.off .engFclk e 0)
      (setField ((s.upd (.reg (Reg.off .engFclk e 0) (setField (s.rg .engFclk e) 4 0 m))).rg .engFclk e) 16 16
        (b2n (m ≠ s.target e))))).rf .engFclk e 4 0 = m := by
    rw [State.rf_setField_other _ (.inr (by decide)), State.rf_setField_same _ (by decide)]
    exact Nat.mod_eq_of_lt h
  refine ⟨rfl, fun o ho => ?_, ?_, hNew, ?_⟩
  · have ho' : o ≠ Reg.off .engFclk e 0 := by simpa using ho
    rw [State.find_upd_reg_other _ _ ho', State.find_upd_reg_other _ _ ho']
  · rw [State.target, State.rf_setField_other _ (.inr (by decide)), State.rf_setField_other _ (.inl (by decide))]
    rfl
  · rw [hNew, State.rg_upd_reg, flag_setField_same _ _ (by decide)]
    by_cases hEq : m = s.target e
    · simp [hEq, b2n]
    · simp [hEq, b2n]

theorem engineStepChange_does (e : Fin 8) : s.does (.engineStepChange e) fun t => t = { s with regs := t.regs } ∧
    regsBut s t [Reg.off .engFclk e.val 0] ∧ t.target e.val = s.target e.val ∧
    let n := s.rf .engFclk e.val 4 0
    t.rf .engFclk e.val 4 0 = (if n < s.target e.val then n + 1 else if s.target e.val < n then n - 1 else n) ∧
    (flag (t.rg .engFclk e.val) 16 = true ↔ t.rf .engFclk e.val 4 0 ≠ s.target e.val) := by
  have hTarget := target_lt s e.val
  have hNow : s.rf .engFclk e.val 4 0 < 32 := field_lt _ 4 0
  exact State.does_of rfl (Act.Does.get_bind (clockStep_does e.val (by split_ifs <;> omega)))

/-! ## The governor (R426) -/

theorem insertUrgent_perm (s : State) (a : Nat) : ∀ l, (s.insertUrgent a l).Perm (a :: l)
  | [] => .refl _
  | b :: l => by
    rw [State.insertUrgent]
    split
    · exact .refl _
    · exact ((insertUrgent_perm s a l).cons b).trans (.swap a b l)

theorem governed_perm (s : State) : s.governed.Perm s.live := by
  rw [State.governed]
  generalize s.live = l
  induction l with
  | nil => exact .refl _
  | cons a l ih => exact (insertUrgent_perm s a _).trans (ih.cons a)

theorem nodup_governed (s : State) : s.governed.Nodup := (governed_perm s).nodup_iff.mpr (List.nodup_range.filter _)

theorem mem_governed {s : State} : e ∈ s.governed ↔ e ∈ s.live := (governed_perm s).mem_iff

/-- Engines have been lowered by 4 steps. -/
structure State.Lowered (s : State) (es : List Nat) (t : State) : Prop where
  same : s.SameBut [.regs] t
  others : ∀ o, (∀ e, o ≠ Reg.off .engFclk e 0) → o ≠ Reg.off .pwrGov 0 0 → t.regs.find o = s.regs.find o
  overs : t.rf .pwrGov 0 31 16 = s.rf .pwrGov 0 31 16
  target : ∀ e, e < 8 → s.raised e = false → t.target e = if e ∈ es then min (s.target e - 4) (s.cap e) else s.target e

theorem lowerEngine_does (e : Nat) : (lowerEngine e 4).Does s fun _ t => s.Lowered [e] t := by
  refine Act.Does.get_bind ((setTarget_does e (s.target e - 4)).bind fun _ t ht => Act.Does.get_bind (Act.Does.make ?_))
  have hNe (e' : Nat) : Reg.off .engFclk e' 0 ≠ Reg.off .pwrGov 0 0 := by
    simp only [Reg.off, Reg.row]
    omega
  have hTarget (e' : Nat) (w : Word) : (t.upd (.reg (Reg.off .pwrGov 0 0) w)).target e' = t.target e' :=
    State.target_of_find (State.find_upd_reg_other _ _ (hNe e'))
  refine ⟨ht.same.upd (by simp), fun o ho hGov => ?_, ?_, fun e' he' hRaised => ?_⟩
  · rw [State.find_upd_reg_other _ _ hGov]
    exact ht.others o (ho e)
  · rw [State.rf_setField_other _ (.inl (by decide)), State.rf, State.rg_eq_of_find (ht.others _ (hNe e).symm)]
    rfl
  · rw [hTarget]
    by_cases he : e' = e
    · subst he
      rw [if_pos List.mem_cons_self]
      exact ht.target hRaised
    · rw [if_neg (by simpa using he)]
      exact State.target_of_find (ht.others _ (engFclk_off_ne he))

theorem State.Lowered.trans {es : List Nat} (h : s.Lowered [e] t) (h' : t.Lowered es u) (hNew : e ∉ es) : s.Lowered (e :: es) u := by
  have hCap (e' : Nat) (he' : e' < 8) : t.cap e' = s.cap e' := State.cap_of_find (h.others _ (fun k => by simp only [Reg.off, Reg.row]; omega)
    (by simp only [Reg.off, Reg.row]; omega))
  refine ⟨h.same.trans h'.same, fun o ho hGov => (h'.others o ho hGov).trans (h.others o ho hGov), h'.overs.trans h.overs,
    fun e' he' hRaised => ?_⟩
  rw [h'.target e' he' ((State.raised_of_sameBut h.same (by simp)).trans hRaised), hCap e' he', h.target e' he' hRaised]
  by_cases he : e' = e
  · subst he
    rw [if_neg hNew, if_pos List.mem_cons_self, if_pos List.mem_cons_self]
  · simp [he]

theorem lowerEngines_does : ∀ (es : List Nat) (s : State), es.Nodup →
    (forIn es PUnit.unit fun e _ => do
      lowerEngine e 4
      pure (ForInStep.yield PUnit.unit) : Act PUnit).Does s fun _ t => s.Lowered es t
  | [], s, _ => Act.Does.pure ⟨.refl _ s, fun _ _ _ => rfl, rfl, fun _ _ _ => by simp⟩
  | e :: es, s, hNodup => by
    obtain ⟨hNew, hRest⟩ := List.nodup_cons.mp hNodup
    exact Act.Does.forIn_cons (P := fun t => s.Lowered [e] t) (Act.Does.yield (lowerEngine_does e)) fun t ht =>
      (lowerEngines_does es t hRest).mono fun _ u hu => ht.trans hu hNew

/-- A sample more than 1.1 times the target. -/
theorem governor_lowers {p : Nat} (h : 11 * s.powerTarget < 10 * p) : (governor p).Does s fun _ t => s.SameBut [.regs] t ∧
    (∀ o, (∀ e, o ≠ Reg.off .engFclk e 0) → o ≠ Reg.off .pwrGov 0 0 → t.regs.find o = s.regs.find o) ∧
    t.rf .pwrGov 0 31 16 = min 65535 (s.rf .pwrGov 0 31 16 + 1) ∧
    ∀ e ∈ s.live, s.raised e = false → t.target e = min (s.target e - 4) (s.cap e) := by
  refine Act.Does.get_bind (Act.Does.ite (fun _ => ?_) fun hNot => absurd h hNot)
  refine (lowerEngines_does _ s (nodup_governed s)).bind fun _ t ht => Act.Does.get_bind (Act.Does.make ⟨ht.same.upd (by simp), ?_, ?_, ?_⟩)
  · intro o ho hGov
    rw [State.find_upd_reg_other _ _ hGov]
    exact ht.others o ho hGov
  · rw [State.rf_setField_same _ (by decide), ht.overs]
    omega
  · intro e he hRaised
    rw [State.target_of_find (State.find_upd_reg_other _ _ (by simp only [Reg.off, Reg.row]; omega)), ht.target e (List.mem_range.mp (List.mem_filter.mp he).1) hRaised,
      if_pos (mem_governed.mpr he)]

/-- A sample within the band. -/
theorem governor_rests {p : Nat} (hLow : s.powerTarget - s.therm.hyst * 1000 ≤ p) (hHigh : p ≤ s.powerTarget) :
    (governor p).Does s fun _ t => t = s :=
  Act.Does.get_bind (Act.Does.ite (fun h => absurd h (by omega)) fun _ => Act.Does.ite (fun h => absurd h (by omega)) fun _ =>
    Act.Does.ite (fun h => absurd h (by omega)) fun _ => Act.Does.pure rfl)

/-! ## Samples of the regulator (R423) -/

/-- The registers a sample fills. -/
def sampleRegs : List Nat := [Reg.off .pwrMeas 0 0, Reg.off .pwrVin 0 0, Reg.off .pwrIin 0 0]

/-- A sample of `p` dW, `v` mV and `i` mA has been held. -/
structure State.Sampled (s : State) (p v i : Nat) (t : State) : Prop where
  same : s.SameBut [.regs] t
  others : regsBut s t sampleRegs
  meas : t.rg .pwrMeas = Word.ofNat (min 65535 p)
  vin : t.rg .pwrVin = Word.ofNat (min 65535 v)
  iin : t.rg .pwrIin = Word.ofNat (min 65535 i)

theorem State.Sampled.powerTarget {p v i : Nat} (h : s.Sampled p v i t) : t.powerTarget = s.powerTarget := by
  rw [State.powerTarget, State.rf, State.rf, State.rg_eq_of_find (h.others _ (by simp [sampleRegs, Reg.off, Reg.row])),
    State.rg_eq_of_find (h.others (Reg.off .pwrModmax 0 0) (by simp [sampleRegs, Reg.off, Reg.row]))]
  rfl

theorem regulatorSample_does {p v i : Nat} {Q : State → Prop} (hOn : s.power.state ≠ .off)
    (h : ∀ t, s.Sampled p v i t → (if s.runs then governor (p * 100) else pure () : Act Unit).Does t fun _ u => Q u) :
    s.does (.regulatorSample p v i) Q := by
  refine State.does_of rfl (Act.Does.get_bind (Act.Does.ite (fun _ => Act.Does.reg_bind (Act.Does.reg_bind (Act.Does.reg_bind (h _ ?_))))
    fun hNot => absurd hOn hNot))
  have hMeasVin : Reg.off .pwrMeas 0 0 ≠ Reg.off .pwrVin 0 0 := by decide
  have hMeasIin : Reg.off .pwrMeas 0 0 ≠ Reg.off .pwrIin 0 0 := by decide
  have hVinIin : Reg.off .pwrVin 0 0 ≠ Reg.off .pwrIin 0 0 := by decide
  refine ⟨?_, fun o ho => ?_, ?_, ?_, State.rg_upd_reg _ _ _ _ _⟩
  · exact (((State.SameBut.refl _ s).upd (by simp)).upd (by simp)).upd (by simp)
  · simp only [sampleRegs, List.mem_cons, List.not_mem_nil, or_false, not_or] at ho
    rw [State.find_upd_reg_other _ _ ho.2.2, State.find_upd_reg_other _ _ ho.2.1, State.find_upd_reg_other _ _ ho.1]
  · rw [State.rg_upd_reg_other _ _ _ _ _ _ hMeasIin, State.rg_upd_reg_other _ _ _ _ _ _ hMeasVin, State.rg_upd_reg]
  · rw [State.rg_upd_reg_other _ _ _ _ _ _ hVinIin, State.rg_upd_reg]

/-- Settles O54: the sample by what the governor then does, then the step, the phase failure and the budget. -/
theorem powerIsGoverned : Obligations.PowerIsGoverned := by
  intro s
  refine ⟨fun p v i hOn => ⟨fun hBand => ?_, fun hRuns hOver => ?_⟩, fun e => engineStepChange_does e, fun hOn hDead => ?_,
    fun who w hTakes => ⟨fun hRole hLow hHigh => ?_, fun hBad => ?_⟩⟩
  · refine regulatorSample_does hOn fun t ht => ?_
    have hRests : (if s.runs then governor (p * 100) else pure () : Act Unit).Does t fun _ u => u = t := by
      refine Act.Does.ite (fun hRuns => ?_) fun _ => Act.Does.pure rfl
      rcases hBand with hStill | ⟨hLow, hHigh⟩
      · exact absurd hRuns (by simp [hStill])
      · refine governor_rests ?_ (ht.powerTarget ▸ hHigh)
        rw [ht.powerTarget, show t.therm = s.therm from ht.same .therm (by decide)]
        exact hLow
    refine hRests.mono ?_
    rintro _ _ rfl
    exact ⟨⟨ht.same .mem (by decide), ht.same .ctxs (by decide), ht.meas, ht.vin, ht.iin⟩, ht.same.eq_regs, ht.others⟩
  · refine regulatorSample_does hOn fun t ht => Act.Does.ite (fun _ => ?_) fun h => absurd hRuns h
    refine (governor_lowers (by rw [ht.powerTarget]; omega)).mono fun _ u hu => ?_
    obtain ⟨hSame, hOthers, hCount, hTarget⟩ := hu
    have hSame' : s.SameBut [.regs] u := ht.same.trans hSame
    have hRf : t.rf .pwrGov 0 31 16 = s.rf .pwrGov 0 31 16 := by
      rw [State.rf, State.rg_eq_of_find (ht.others _ (by simp [sampleRegs, Reg.off, Reg.row]))]
      rfl
    have hKept {r : Reg} (hFclk : ∀ e, r.off 0 0 ≠ Reg.off .engFclk e 0) (hGov : r.off 0 0 ≠ Reg.off .pwrGov 0 0) : u.rg r = t.rg r :=
      State.rg_eq_of_find (hOthers _ hFclk hGov)
    refine ⟨⟨hSame' .mem (by decide), hSame' .ctxs (by decide), ?_, ?_, ?_⟩, hSame'.eq_regs, by rw [hCount, hRf], fun e he hRaised => ?_⟩
    · rw [hKept (fun e => by simp only [Reg.off, Reg.row]; omega) (by decide), ht.meas]
    · rw [hKept (fun e => by simp only [Reg.off, Reg.row]; omega) (by decide), ht.vin]
    · rw [hKept (fun e => by simp only [Reg.off, Reg.row]; omega) (by decide), ht.iin]
    · have hEng : ∀ {r : Reg} {i : Nat}, r.off i 0 ∉ sampleRegs → t.regs.find (r.off i 0) = s.regs.find (r.off i 0) := fun h => ht.others _ h
      have he8 : e < 8 := List.mem_range.mp (List.mem_filter.mp he).1
      have hLive : t.live = s.live := by
        rw [State.live, State.rg_eq_of_find (hEng (by simp [sampleRegs, Reg.off, Reg.row]))]
        rfl
      rw [hTarget e (hLive ▸ he) ((State.raised_of_sameBut ht.same (by simp)).trans hRaised),
        State.target_of_find (hEng (by simp only [sampleRegs, Reg.off, Reg.row]; simp; omega)),
        State.cap_of_find (hEng (by simp only [sampleRegs, Reg.off, Reg.row]; simp; omega))]
  · refine State.does_of rfl (Act.Does.get_bind (Act.Does.ite (fun _ => Act.Does.make_bind (Act.Does.make ⟨rfl, ?_⟩)) fun hNot =>
      absurd (by simp [hOn, hDead]) hNot))
    rw [State.rg_upd_reg]
  · refine State.does_of rfl (command_does hTakes (Act.Does.get_bind (Act.Does.ite (fun _ => Act.Does.reg_bind (Act.Does.pure ?_)) fun hNot =>
      absurd (by simp; omega) hNot)))
    refine ⟨rfl, State.rg_upd_reg (s := s) .pwrBudget 0 0 _, by simp, fun o ho => ?_⟩
    exact State.find_upd_reg_other s _ (by simpa using ho)
  · refine State.does_of rfl (command_does hTakes (Act.Does.get_bind (Act.Does.ite (fun hGood => absurd hGood (by simp; omega)) fun _ =>
      Act.Does.pure ⟨rfl, by simp⟩)))

end Sys2Proof.Machine

/-!
PROOF. Droop, caps and the 115 °C trip (R428, R430 to R432, Table 19.3).
-/
namespace Sys2Proof.Machine

variable {s t u : State}

/-! ## Droop (R428) -/

section
variable {e : Fin 8}

theorem droopDetect_does (hRuns : s.runs = true) (hLive : e.val ∈ s.live) (hFree : s.therm.stretching.at e.val false = false) :
    s.does (.droopDetect e) fun t =>
      t = { s with regs := t.regs, therm := { s.therm with stretching := s.therm.stretching.put e.val true } } ∧
      t.rf .engDroop e.val 15 0 = min 65535 (s.rf .engDroop e.val 15 0 + 1) := by
  refine State.does_of rfl (Act.Does.get_bind (Act.Does.ite (fun _ => Act.Does.make_bind (Act.Does.get_bind (Act.Does.get_bind
    (Act.Does.make ⟨rfl, ?_⟩)))) fun hNot => absurd (by simp [hRuns, hLive, hFree]) hNot))
  rw [State.rf_setField_same _ (by decide)]
  show min 65535 (s.rf .engDroop e.val 15 0 + 1) % 65536 = _
  omega

/-- A forced step that is not held back. -/
theorem forceStep_does (hRaised : s.raised e.val = false) (hAbove : 0 < s.target e.val) : (forceStep e.val).Does s fun _ t =>
    s.SameBut [.regs] t ∧ t.target e.val = min (s.target e.val - 1) (s.cap e.val) ∧
    t.rf .engDroop e.val 31 16 = min 65535 (s.rf .engDroop e.val 31 16 + 1) := by
  have hNe : Reg.off .engFclk e.val 0 ≠ Reg.off .engDroop e.val 0 := by simp [Reg.off, Reg.row]
  refine Act.Does.get_bind (Act.Does.ite (fun _ => ?_) fun hNot => absurd (by simpa [hRaised] using hAbove) hNot)
  refine (setTarget_does _ _).bind fun _ t ht => Act.Does.get_bind (Act.Does.get_bind (Act.Does.make ⟨ht.same.upd (by simp), ?_, ?_⟩))
  · rw [State.target_of_find (State.find_upd_reg_other _ _ hNe), ht.target hRaised]
  · rw [State.rf_setField_same _ (by decide), State.rf, State.rg_eq_of_find (ht.others _ hNe.symm)]
    show min 65535 (s.rf .engDroop e.val 31 16 + 1) % 65536 = _
    omega

/-- A state that differs in its registers and in what THERM keeps only. -/
theorem State.SameBut.eq_therm (h : s.SameBut [.therm, .regs] t) : t = { s with therm := t.therm, regs := t.regs } :=
  State.ext_fld fun f => by
    cases f with
    | therm => rfl
    | regs => rfl
    | _ => exact h _ (by decide)

section
variable {n total : Nat} {old : List (Nat × Nat)} (hOn : s.therm.stretching.at e.val false = true)
  (hOld : ((s.therm.stretched.at e.val []).filter fun x => s.ns < x.1 + s.droopWindow e.val) = old) (hTotal : (old.map (·.2)).sum + n = total)
include hOn hOld hTotal

theorem stretchEnd_few (hFew : total < 256) : s.does (.stretchEnd e n) fun t => t = { s with therm := t.therm } ∧
    t.therm.stretching.at e.val false = false ∧ t.therm.stretched.at e.val [] = old ++ [(s.ns, n)] := by
  subst hOld hTotal
  refine State.does_of rfl (Act.Does.get_bind (Act.Does.ite (fun _ => Act.Does.make_bind ?_) fun hNot => absurd hOn hNot))
  rw [Nat.div_eq_of_lt hFew, if_pos hFew]
  exact Act.Does.pure ⟨rfl, Sparse.at_put_same _ _ _ _, Sparse.at_put_same _ _ _ _⟩

theorem stretchEnd_forces (hMany : 256 ≤ total) (hFew : total < 512) (hRaised : s.raised e.val = false) (hAbove : 0 < s.target e.val) :
    s.does (.stretchEnd e n) fun t => t = { s with therm := t.therm, regs := t.regs } ∧ t.therm.stretching.at e.val false = false ∧
      t.therm.stretched.at e.val [] = [(s.ns, total - 256)] ∧ t.target e.val = min (s.target e.val - 1) (s.cap e.val) ∧
      t.rf .engDroop e.val 31 16 = min 65535 (s.rf .engDroop e.val 31 16 + 1) := by
  refine State.does_of rfl (Act.Does.get_bind (Act.Does.ite (fun _ => ?_) fun hNot => absurd hOn hNot))
  simp only [hOld, hTotal]
  rw [if_neg (Nat.not_lt.mpr hMany), show total % 256 = total - 256 by omega, show min 20 (total / 256) = 1 by omega]
  refine Act.Does.make_bind ((Act.Does.loop_one (c := 0) ((forceStep_does (by exact hRaised) (by exact hAbove)).bind fun _ t ht =>
    Act.Does.pure ⟨rfl, ht⟩)).bind fun _ t ht => Act.Does.pure ?_)
  obtain ⟨hRegs, hTarget, hCount⟩ := ht
  have hAll : s.SameBut [.therm, .regs] t := ((State.SameBut.refl _ s).upd (by simp)).trans (hRegs.mono (by decide))
  have hTherm := hRegs .therm (by decide)
  change t.therm = _ at hTherm
  refine ⟨hAll.eq_therm, ?_, ?_, hTarget, hCount⟩
  · rw [hTherm]
    exact Sparse.at_put_same _ _ _ _
  · rw [hTherm]
    exact Sparse.at_put_same _ _ _ _

end

end

/-! ## Caps (R430, R431) -/

theorem thermCap_off_ne {e e' : Nat} (h : e' / 6 ≠ e / 6) : Reg.off .thermCap (e' / 6) 0 ≠ Reg.off .thermCap (e / 6) 0 := by
  simp only [Reg.off, Reg.row]
  omega

theorem cap_setField_same (e : Nat) {n : Nat} (h : n < 32) :
    (s.upd (.reg (Reg.off .thermCap (e / 6) 0) (setField (s.rg .thermCap (e / 6)) (5 * (e % 6) + 4) (5 * (e % 6)) n))).cap e = n := by
  rw [State.cap, State.rf_setField_same _ (by omega), show 5 * (e % 6) + 4 + 1 - 5 * (e % 6) = 5 by omega]
  exact Nat.mod_eq_of_lt h

theorem cap_setField_other {e e' : Nat} (n : Nat) (h : e' ≠ e) :
    (s.upd (.reg (Reg.off .thermCap (e / 6) 0) (setField (s.rg .thermCap (e / 6)) (5 * (e % 6) + 4) (5 * (e % 6)) n))).cap e' = s.cap e' := by
  by_cases hReg : e' / 6 = e / 6
  · rw [State.cap, hReg, State.rf_setField_other _ (by omega), State.cap, hReg]
  · exact State.cap_of_find (State.find_upd_reg_other _ _ (thermCap_off_ne hReg))

/-- The cap of one engine has been stored. -/
structure State.CapSet (s : State) (e n : Nat) (t : State) : Prop where
  same : s.SameBut [.regs] t
  cap : t.cap e = n
  others : ∀ e', e' < 8 → e' ≠ e → t.cap e' = s.cap e'

theorem setCap_does {e n : Nat} (he : e < 8) (hn : n < 32) : (setCap e n).Does s fun _ t => s.CapSet e n t := by
  refine Act.Does.regField_bind (Act.Does.regField_bind (Act.Does.get_bind ?_))
  have hKept (e' : Nat) (he' : e' < 8) (v : State) (w : Word) : (v.upd (.reg (Reg.off .thermStat 0 0) w)).cap e' = v.cap e' :=
    State.cap_of_find (State.find_upd_reg_other _ _ (by simp only [Reg.off, Reg.row]; omega))
  have hSet (w : Word) : s.CapSet e n ((s.upd (.reg (Reg.off .thermCap (e / 6) 0) (setField (s.rg .thermCap (e / 6)) (5 * (e % 6) + 4)
      (5 * (e % 6)) n))).upd (.reg (Reg.off .thermStat 0 0) w)) :=
    ⟨((State.SameBut.refl _ s).upd (by simp)).upd (by simp), by rw [hKept e he, cap_setField_same e hn],
      fun e' he' hne => by rw [hKept e' he', cap_setField_other n hne]⟩
  refine Act.Does.ite (fun _ => (setTarget_does _ _).mono fun _ t ht => ?_) fun _ => Act.Does.pure (hSet _)
  have hTarget (e' : Nat) (he' : e' < 8) := State.cap_of_find (e := e') (ht.others (Reg.off .thermCap (e' / 6) 0) (by simp only [Reg.off, Reg.row]; omega))
  exact ⟨(hSet _).same.trans ht.same, (hTarget e he).trans (hSet _).cap, fun e' he' hne => (hTarget e' he').trans ((hSet _).others e' he' hne)⟩

theorem capRise_does {e : Fin 8} (hOn : s.thermOn = true) (hBelow : s.allBelow (4 * e.val) 4 = true) (hCap : s.cap e.val < 20) :
    s.does (.capRise e) fun t => t = { s with regs := t.regs } ∧ t.cap e.val = s.cap e.val + 1 :=
  State.does_of rfl (Act.Does.get_bind (Act.Does.ite (fun _ => (setCap_does e.isLt (by omega)).mono fun _ _ ht =>
    ⟨ht.same.eq_regs, ht.cap⟩) fun hNot => absurd (by simp [hOn, hBelow, hCap]) hNot))

theorem capRise_rests {e : Fin 8} (h : s.allBelow (4 * e.val) 4 = false ∨ 20 ≤ s.cap e.val) : s.does (.capRise e) fun t => t = s :=
  State.does_of rfl (Act.Does.get_bind (Act.Does.ite (fun hDo => by
    simp only [Bool.and_eq_true, decide_eq_true_eq] at hDo
    rcases h with h | h
    · simp [h] at hDo
    · omega) fun _ => Act.Does.pure rfl))

/-- The sensors have been read and the caps of hot engines lowered. -/
structure State.Throttled (s : State) (n : Nat) (t : State) : Prop where
  same : s.SameBut [.regs, .freeCount] t
  cap : ∀ e, e < 8 → t.cap e = if e < n ∧ s.anyAbove (4 * e) 4 = true then s.cap e - 1 else s.cap e

theorem State.Throttled.upd_reg {n o : Nat} (w : Word) (h : s.Throttled n t) (ho : ∀ i, i < 2 → Reg.off .thermCap i 0 ≠ o) :
    s.Throttled n (t.upd (.reg o w)) :=
  ⟨h.same.upd (by simp), fun e he => by rw [State.cap_of_find (State.find_upd_reg_other _ _ (ho _ (by omega))), h.cap e he]⟩

theorem throttle_does {n : Nat} (hn : n < 8) (h : s.Throttled n t) :
    (if s.anyAbove (4 * n) 4 && 0 < s.cap n then do
        setCap n (s.cap n - 1)
        Act.countSat .thermThrot 0 31 0
        pure (ForInStep.yield PUnit.unit)
      else pure (ForInStep.yield PUnit.unit) : Act (ForInStep PUnit)).Does t fun r u => ∃ b, r = .yield b ∧ s.Throttled (n + 1) u := by
  have hCapLt := cap_lt s n
  refine Act.Does.ite (fun hHot => ?_) fun hCool => Act.Does.pure ⟨_, rfl, h.same, fun e he => ?_⟩
  · simp only [Bool.and_eq_true, decide_eq_true_eq] at hHot
    refine (setCap_does hn (by omega)).bind fun _ u hu => Act.Does.countSat_bind (Act.Does.pure ⟨_, rfl, ?_⟩)
    refine State.Throttled.upd_reg _ ⟨h.same.trans (hu.same.mono (by decide)), fun e he => ?_⟩ fun i hi => by simp only [Reg.off, Reg.row]; omega
    by_cases hEq : e = n
    · subst hEq
      rw [hu.cap, if_pos ⟨Nat.lt_succ_self _, hHot.1⟩]
    · rw [hu.others e he hEq, h.cap e he]
      simp only [show e < n + 1 ↔ e < n by omega]
  · rw [h.cap e he]
    by_cases hEq : e = n
    · subst hEq
      simp only [Bool.and_eq_true, decide_eq_true_eq, not_and, Nat.not_lt] at hCool
      by_cases hAny : s.anyAbove (4 * e) 4 = true
      · have := hCool hAny
        simp [hAny]
        omega
      · simp [hAny]
    · simp only [show e < n + 1 ↔ e < n by omega]

/-- The caps are lowered, and WARN reads `w`. -/
def State.Warned (s : State) (w : Bool) (t : State) : Prop := s.Throttled 8 t ∧ flag (t.rg .thermStat) 9 = w

theorem State.Warned.upd_stat {w : Bool} (h : s.Warned w t) {b : Nat} (v : Nat) (hb : b ≠ 9) :
    s.Warned w (t.upd (.reg (Reg.off .thermStat 0 0) (setField (t.rg .thermStat) b b v))) :=
  ⟨h.1.upd_reg _ fun i hi => by simp only [Reg.off, Reg.row]; omega, by
    rw [State.rg_upd_reg, flag_setField_other _ _ (by omega)]
    exact h.2⟩

theorem State.Warned.upd_reg {w : Bool} (h : s.Warned w t) {o : Nat} (v : Word) (hStat : Reg.off .thermStat 0 0 ≠ o)
    (ho : ∀ i, i < 2 → Reg.off .thermCap i 0 ≠ o) : s.Warned w (t.upd (.reg o v)) :=
  ⟨h.1.upd_reg _ ho, by rw [State.rg_upd_reg_other _ _ _ _ _ _ hStat]; exact h.2⟩

theorem State.Warned.draw {w : Bool} (h : s.Warned w t) : s.Warned w (t.upd .draw) := ⟨⟨h.1.same.upd (by simp), h.1.cap⟩, h.2⟩

/-- What a thermal sample does with the readings `t` holds. -/
theorem thermalSample_does {xs : List Int} {Q : State → Prop} (h : s.thermOn = true)
    (hQ : ∀ t u, t = s.upd (.therm { s.therm with sensors := (xs.take 51).zipIdx.foldl (fun (m : Sparse Int) x => m.put x.2 x.1) s.therm.sensors }) →
      t.Warned (t.anyAbove 0 48) u → Q u) : s.does (.thermalSample xs) Q := by
  refine State.does_of rfl (Act.Does.get_bind (Act.Does.ite (fun _ => ?_) fun hNot => absurd h hNot))
  extract_lets read
  refine Act.Does.make_bind (Act.Does.get_bind ?_)
  replace hQ := fun u => hQ _ u rfl
  change ∀ u, (s.upd (.therm { s.therm with sensors := read })).Warned _ u → Q u at hQ
  generalize s.upd (.therm { s.therm with sensors := read }) = t at hQ ⊢
  refine Act.Does.bind (Act.Does.forIn_range (I := fun n _ u => t.Throttled n u) ⟨.refl _ t, fun e _ => by simp⟩
    fun n hn _ u hu => throttle_does hn hu) fun _ u hu => ?_
  extract_lets watts outlet flowed warned
  have hOutlet {v : State} (hv : t.Warned (t.anyAbove 0 48) v) : (outlet ()).Does v fun _ w => Q w :=
    Act.Does.ite (fun _ => Act.Does.get_bind (Act.Does.make (hQ _ (hv.upd_stat _ (by decide))))) fun _ => Act.Does.pure (hQ _ hv)
  have hFlow {v : State} (w : Word) (hv : t.Warned (t.anyAbove 0 48) v) :
      t.Warned (t.anyAbove 0 48) (v.upd (.reg (Reg.off .thermFlow 0 0) w)) :=
    hv.upd_reg w (by decide) fun i hi => by simp only [Reg.off, Reg.row]; omega
  have hFlowed {v : State} (f : Nat) (hv : t.Warned (t.anyAbove 0 48) v) : (flowed f).Does v fun _ w => Q w :=
    Act.Does.reg_bind (Act.Does.ite (fun _ => Act.Does.regField_bind (hOutlet ((hFlow _ hv).upd_stat _ (by decide)))) fun _ =>
      hOutlet (hFlow _ hv))
  have hWarned {v : State} (hv : t.Throttled 8 v) : (warned ()).Does v fun _ w => Q w := by
    refine Act.Does.regField_bind (Act.Does.reg_bind (Act.Does.reg_bind ?_))
    have hSet : t.Warned (t.anyAbove 0 48) (v.upd (.reg (Reg.off .thermStat 0 0)
        (setField (v.rg .thermStat) 9 9 (b2n (t.anyAbove 0 48))))) :=
      ⟨hv.upd_reg _ fun i hi => by simp only [Reg.off, Reg.row]; omega, by
        rw [State.rg_upd_reg, flag_setField_same _ _ (by decide)]
        cases t.anyAbove 0 48 <;> rfl⟩
    have hShown := (hSet.upd_reg (o := Reg.off .thermHot 0 0) (Word.ofNat (pack [(centi (t.sensor t.hottest), 0), (t.hottest, 16)]))
      (by decide) fun i hi => by simp only [Reg.off, Reg.row]; omega).upd_reg (o := Reg.off .thermCool 0 0)
      (Word.ofNat (pack [(centi (t.sensor 48), 0), (centi (t.sensor 49), 16)])) (by decide) fun i hi => by simp only [Reg.off, Reg.row]; omega
    refine Act.Does.ite (fun _ => ?_) fun _ => Act.Does.reg_bind (hOutlet (hFlow _ hShown))
    split
    · exact Act.Does.pure_bind (hFlowed _ hShown)
    · exact Act.Does.get_bind (Act.Does.make_bind (Act.Does.pure_bind (hFlowed _ hShown.draw)))
  have hStat (v : Nat) : t.Throttled 8 (u.upd (.reg (Reg.off .thermStat 0 0) (setField (u.rg .thermStat) 8 8 v))) :=
    hu.upd_reg _ fun i hi => by simp only [Reg.off, Reg.row]; omega
  exact Act.Does.ite (fun _ => Act.Does.regField_bind (hWarned (hStat 1))) fun _ =>
    Act.Does.ite (fun _ => Act.Does.regField_bind (hWarned (hStat 0))) fun _ => hWarned hu

theorem at_foldl_put_below : ∀ (xs : List Int) (k : Nat) (m : Sparse Int) {i : Nat}, i < k →
    ((xs.zipIdx k).foldl (fun (m : Sparse Int) x => m.put x.2 x.1) m).at i 0 = m.at i 0
  | [], _, _, _, _ => rfl
  | x :: xs, k, m, i, hi => by
    rw [List.zipIdx_cons, List.foldl_cons, at_foldl_put_below xs (k + 1) _ (by omega), Sparse.at_put_other _ _ _ (by omega)]

/-- Readings stored from sensor `k` on. -/
theorem at_foldl_put : ∀ (xs : List Int) (k : Nat) (m : Sparse Int) {i : Nat}, i < xs.length →
    ((xs.zipIdx k).foldl (fun (m : Sparse Int) x => m.put x.2 x.1) m).at (k + i) 0 = xs.getD i 0
  | x :: xs, k, m, 0, _ => by
    rw [List.zipIdx_cons, List.foldl_cons, at_foldl_put_below xs (k + 1) _ (by omega)]
    exact Sparse.at_put_same _ _ _ _
  | x :: xs, k, m, i + 1, hi => by
    rw [List.zipIdx_cons, List.foldl_cons, show k + (i + 1) = k + 1 + i by omega]
    exact at_foldl_put xs (k + 1) _ (Nat.lt_of_succ_lt_succ hi)

theorem anyAbove_eq {first n : Nat} {f : Nat → Int} (h : ∀ i, i < n → s.sensor (first + i) = f (first + i)) :
    s.anyAbove first n = (List.range n).any fun i => 10000 ≤ f (first + i) := by
  rw [State.anyAbove, Bool.eq_iff_iff, List.any_eq_true, List.any_eq_true]
  exact exists_congr fun i => and_congr_right fun hi => by rw [h i (List.mem_range.mp hi)]

/-! ## The trip at 115 °C (R432) -/

theorem bitOf3_upd_pwrDom (n : Nat) {m : Nat} (v : Bool) :
    (s.upd (.reg (Reg.off .pwrDom (n / 32) 0) (setField (s.rg .pwrDom (n / 32)) (n % 32) (n % 32) (b2n v)))).bitOf3 .pwrDom m =
      if m = n then v else s.bitOf3 .pwrDom m := by
  rw [State.bitOf3]
  by_cases hReg : m / 32 = n / 32
  · rw [hReg, State.rg_upd_reg]
    split
    · next hEq =>
      rw [hEq, flag_setField_same _ _ (by omega)]
      cases v <;> rfl
    · rw [flag_setField_other _ _ (by omega), State.bitOf3, hReg]
  · rw [State.rg_upd_reg_other _ _ _ _ _ _ (by simp only [Reg.off, Reg.row]; omega), if_neg (by omega)]
    rfl

/-- The domains of `n` engines and stewards are gated. -/
structure State.Gated (s : State) (n : Nat) (t : State) : Prop where
  same : s.SameBut [.regs] t
  gated : ∀ i, i < n → t.bitOf3 .pwrDom (2 + i) = false ∧ t.bitOf3 .pwrDom (50 + i) = false

theorem gate_does {n : Nat} (h : s.Gated n t) : (do
      Act.setBit3 .pwrDom (2 + n) false
      Act.setBit3 .pwrDom (50 + n) false
      pure (ForInStep.yield PUnit.unit) : Act (ForInStep PUnit)).Does t fun r u => ∃ b, r = .yield b ∧ s.Gated (n + 1) u := by
  refine Act.Does.regField_bind (Act.Does.regField_bind (Act.Does.pure ⟨_, rfl, (h.same.upd (by simp)).upd (by simp), fun i hi => ?_⟩))
  have hBit (m : Nat) : (((t.upd (.reg (Reg.off .pwrDom ((2 + n) / 32) 0) (setField (t.rg .pwrDom ((2 + n) / 32)) ((2 + n) % 32)
      ((2 + n) % 32) (b2n false)))).upd _)).bitOf3 .pwrDom m = if m = 50 + n then false else if m = 2 + n then false else t.bitOf3 .pwrDom m :=
    (bitOf3_upd_pwrDom (50 + n) false).trans (by rw [bitOf3_upd_pwrDom])
  rw [hBit, hBit]
  by_cases hEq : i = n
  · simp [hEq]
  · have hOld := h.gated i (by omega)
    simp [hOld]

/-- The first `n` leashes are latched into their stop branch under cause 7. -/
structure State.Stopped (s : State) (n : Nat) (t : State) : Prop where
  same : s.SameBut [.reflex] t
  stopped : ∀ i, i < n → (s.leash i).mode ≠ 0 → (s.leash i).latch = false →
    t.leash i = { s.leash i with mode := 2, cause := 7, latch := true, causeNs := s.ns }
  rest : ∀ i, n ≤ i → t.leash i = s.leash i

theorem leash_upd_leashes (n : Nat) (x : Leash) {i : Nat} :
    (s.upd (.reflex { s.reflex with leashes := s.reflex.leashes.put n x })).leash i = if i = n then x else s.leash i := by
  split
  · next hEq => exact hEq ▸ Sparse.at_put_same _ _ _ _
  · next hNe => exact Sparse.at_put_other _ _ _ hNe

theorem stop_does {n : Nat} (h : s.Stopped n t) : (leaveMain n 2 7 true).Does t fun _ u => s.Stopped (n + 1) u := by
  have hOld : t.leash n = s.leash n := h.rest n (Nat.le_refl n)
  have hNs : t.ns = s.ns := congrArg (fun c : Clock => c.elapsed / nsUnit) (h.same .clock (by decide))
  refine Act.Does.get_bind (Act.Does.ite (fun _ => Act.Does.get_bind (Act.Does.make ⟨h.same.upd (by simp), fun i hi hMode hLatch => ?_,
    fun i hi => ?_⟩)) fun hNot => Act.Does.pure ⟨h.same, fun i hi hMode hLatch => ?_, fun i hi => h.rest i (by omega)⟩)
  · rw [leash_upd_leashes]
    split
    · next hEq =>
      subst hEq
      simp [hOld, hNs, hLatch]
    · exact h.stopped i (by omega) hMode hLatch
  · rw [leash_upd_leashes, if_neg (by omega), h.rest i (by omega)]
  · by_cases hEq : i = n
    · subst hEq
      exact absurd (by simp [hOld, hMode, hLatch]) hNot
    · exact h.stopped i (by omega) hMode hLatch

/-- What the trip leaves: gated engines and stewards, latched leashes, one record and the run-on. -/
theorem trip115_does (hOn : s.power.state ≠ .off) (hDead : s.boot.dead = false) (hFirst : s.power.runOn = none)
    (hStill : s.power.entering = none) : s.does .trip115 fun t => t.power.runOn = some (s.ns + 2 * 10 ^ 9) ∧ t.mem = s.mem ∧
      t.locks = s.locks ∧ t.faults.seq = (s.faults.seq + 1) % 2 ^ 32 ∧ flag (t.rg .thermStat) 10 = true ∧
      (∀ n, n < 8 → t.bitOf3 .pwrDom (2 + n) = false ∧ t.bitOf3 .pwrDom (50 + n) = false) ∧
      ∀ n, n < 16 → (s.leash n).mode ≠ 0 → (s.leash n).latch = false →
        t.leash n = { s.leash n with mode := 2, cause := 7, latch := true, causeNs := s.ns } := by
  refine State.does_of rfl (Act.Does.get_bind (Act.Does.ite (fun _ => ?_) fun hNot => absurd (by simp [hOn, hDead, hFirst]) hNot))
  refine Act.Does.bind (Q := fun _ t => t = s) (Act.Does.get_bind (by rw [hStill]; exact Act.Does.pure rfl)) ?_
  rintro _ s rfl
  refine Act.Does.get_bind (Act.Does.make_bind ?_)
  have hRunOn : (s.upd (.power { s.power with runOn := some (s.ns + 2 * 10 ^ 9) })).power.runOn = some (s.ns + 2 * 10 ^ 9) := rfl
  have hSame : s.SameBut [.power] (s.upd (.power { s.power with runOn := some (s.ns + 2 * 10 ^ 9) })) := (State.SameBut.refl _ s).upd (by simp)
  generalize s.upd (.power { s.power with runOn := some (s.ns + 2 * 10 ^ 9) }) = t at hRunOn hSame ⊢
  refine Act.Does.bind (Act.Does.forIn_range (I := fun n _ u => t.Gated n u) ⟨.refl _ t, fun i hi => absurd hi (Nat.not_lt_zero i)⟩
    fun n _ _ u hu => gate_does hu) fun _ u hu => ?_
  refine Act.Does.bind (Act.Does.forIn_range (I := fun n _ v => u.Stopped n v) ⟨.refl _ u, fun i hi => absurd hi (Nat.not_lt_zero i), fun _ _ => rfl⟩
    fun n _ _ v hv => (stop_does hv).bind fun _ w hw => Act.Does.pure ⟨_, rfl, hw⟩) fun _ v hv => ?_
  refine (fault_gives v _).does.bind fun _ w hw => Act.Does.get_bind (Act.Does.make ?_)
  have hAll : s.SameBut [.power, .regs, .reflex, .faults, .sdio] w := (((hSame.mono (by decide)).trans (hu.same.mono (by decide))).trans
    (hv.same.mono (by decide))).trans (hw.1.mono (by decide))
  have hBit {m : Nat} (hm : m < 96) (x : Word) : (w.upd (.reg (Reg.off .thermStat 0 0) x)).bitOf3 .pwrDom m = u.bitOf3 .pwrDom m := by
    rw [State.bitOf3, State.rg_upd_reg_other _ _ _ _ _ _ (by simp only [Reg.off, Reg.row]; omega),
      hw.rg (by simp [recordRegs, Reg.off, Reg.row]; omega), State.rg_eq_of_find (s := u) (by rw [show v.regs = u.regs from hv.same .regs (by decide)])]
    rfl
  have hLeash (n : Nat) (x : Word) : (w.upd (.reg (Reg.off .thermStat 0 0) x)).leash n = v.leash n := congrArg (fun r : Reflex => r.leashes.at n {}) hw.reflex
  have hFirst' (n : Nat) : u.leash n = s.leash n := congrArg (fun r : Reflex => r.leashes.at n {})
    ((hu.same .reflex (by decide)).trans (hSame .reflex (by decide)))
  have hNs : u.ns = s.ns := congrArg (fun c : Clock => c.elapsed / nsUnit) ((hu.same .clock (by decide)).trans (hSame .clock (by decide)))
  have hPower : w.power = t.power := ((hw.1 .power (by decide)).trans (hv.same .power (by decide))).trans (hu.same .power (by decide))
  have hSeq : v.faults = s.faults := ((hv.same .faults (by decide)).trans (hu.same .faults (by decide))).trans (hSame .faults (by decide))
  refine ⟨(congrArg Power.runOn hPower).trans hRunOn, hAll .mem (by decide), hAll .locks (by decide), ?_, ?_, fun n hn => ?_,
    fun n hn hMode hLatch => ?_⟩
  · exact hw.seq.trans (by rw [hSeq])
  · rw [State.rg_upd_reg, flag_setField_same _ _ (by decide)]
    rfl
  · rw [hBit (by omega), hBit (by omega)]
    exact hu.gated n hn
  · rw [hLeash, hv.stopped n hn (by rw [hFirst']; exact hMode) (by rw [hFirst']; exact hLatch), hFirst', hNs]

/-- Settles O55: droop, then a sample by its readings, then the trip. -/
theorem droopAndHeatSlowTheEngines : Obligations.DroopAndHeatSlowTheEngines := by
  intro s
  refine ⟨fun e => ⟨droopDetect_does, fun hOn n => ⟨stretchEnd_few hOn rfl rfl, stretchEnd_forces hOn rfl rfl⟩⟩,
    fun hOn => ⟨fun xs hLen => ?_, fun e => capRise_does hOn, fun e => capRise_rests⟩, trip115_does⟩
  · refine thermalSample_does hOn fun t u ht hu => ?_
    have hSensor (i : Nat) (hi : i < 51) : t.sensor i = xs.getD i 0 := by
      subst ht
      have hAt := at_foldl_put xs 0 s.therm.sensors (i := i) (by omega)
      rw [Nat.zero_add] at hAt
      rw [← hAt, ← hLen, List.take_length]
      rfl
    have hSame : s.SameBut [.therm] t := ht ▸ (State.SameBut.refl _ s).upd (by simp)
    have hAll : s.SameBut [.therm, .regs, .freeCount] u := (hSame.mono (by decide)).trans (hu.1.same.mono (by decide))
    have hCap (e : Nat) : t.cap e = s.cap e := State.cap_of_find (by rw [show t.regs = s.regs from hSame .regs (by decide)])
    refine ⟨hAll .mem (by decide), hAll .ctxs (by decide), fun i hi => ?_, fun e he => ?_, ?_⟩
    · rw [State.sensor, show u.therm = t.therm from hu.1.same .therm (by decide)]
      exact hSensor i hi
    · rw [hu.1.cap e he, anyAbove_eq (f := fun i => xs.getD i 0) fun i hi => hSensor _ (by omega), hCap]
      simp only [he, true_and]
    · rw [hu.2, anyAbove_eq (f := fun i => xs.getD i 0) fun i hi => hSensor _ (by omega)]
      simp only [Nat.zero_add]

end Sys2Proof.Machine

/-!
PROOF. Exits from Idle and Sleep, and the cut to Off (R409, R410, R413, R415, R418).
-/
namespace Sys2Proof.Machine

variable {s t u : State} {l : List Fld} {o : Nat}

/-! ## Time that passes -/

/-- The fields, and the registers, that the passing of time may write. -/
def timeFields : List Fld := [.clock, .faults, .regs, .sdio]

def timeRegs : List Nat := Reg.off .timeStat 0 0 :: recordRegs

theorem writes_wrapCounter : wrapCounter.Writes timeFields :=
  writes_get_bind fun _ => writes_ite (writes_make (by simp [timeFields])) (writes_ite (writes_make (by simp [timeFields]))
    (writes_bind (writes_regField _ _ _ _ _ (by decide)) fun _ => writes_bind (writes_fault _ (by decide) (by decide) (by decide)) fun _ =>
      writes_pure _))

theorem keepsReg_wrapCounter (h : o ∉ timeRegs) : wrapCounter.KeepsReg o := by
  have hStat : o ≠ Reg.off .timeStat 0 0 := fun e => h (e ▸ List.mem_cons_self)
  have hRecord : o ∉ recordRegs := fun hIn => h (List.mem_cons_of_mem _ hIn)
  exact keepsReg_get_bind fun _ => keepsReg_ite (keepsReg_make rfl) (keepsReg_ite (keepsReg_make rfl)
    (keepsReg_bind (keepsReg_regField _ _ _ hStat) fun _ => keepsReg_bind (keepsReg_fault hRecord _) fun _ => keepsReg_pure _))

theorem writes_passUnits (n : Nat) : (passUnits n).Writes timeFields :=
  writes_get_bind fun _ => writes_make_bind (by simp [timeFields]) (writes_ite (writes_make_bind (by simp [timeFields])
    (writes_bind (writes_forIn (fun _ _ => writes_bind writes_wrapCounter fun _ => writes_pure _) _ _) fun _ => writes_pure _))
    writes_nothing)

theorem keepsReg_passUnits (n : Nat) (h : o ∉ timeRegs) : (passUnits n).KeepsReg o :=
  keepsReg_get_bind fun _ => keepsReg_bind (keepsReg_make rfl) fun _ => keepsReg_ite (keepsReg_bind (keepsReg_make rfl) fun _ =>
    keepsReg_bind (keepsReg_forIn (fun _ _ => keepsReg_bind (keepsReg_wrapCounter h) fun _ => keepsReg_pure _) _ _) fun _ =>
      keepsReg_pure _) keepsReg_nothing

/-! ## The exit to Run -/

/-- The domains are set as they were before the entry, from PWR_DOM_k on. -/
structure State.DomsSet (s : State) (ws : List Word) (k : Nat) (t : State) : Prop where
  same : s.SameBut [.regs] t
  others : ∀ o, (∀ i, k ≤ i → i < k + ws.length → o ≠ Reg.off .pwrDom i 0) → t.regs.find o = s.regs.find o
  set : ∀ i, i < ws.length → t.rg .pwrDom (k + i) = ws.getD i 0

theorem setDoms_does : ∀ (ws : List Word) (k : Nat) (s : State),
    (forIn (ws.zipIdx k) PUnit.unit fun x _ => do
      Act.reg .pwrDom x.2 x.1
      pure (ForInStep.yield PUnit.unit) : Act PUnit).Does s fun _ t => s.DomsSet ws k t
  | [], _, s => Act.Does.pure ⟨.refl _ s, fun _ _ => rfl, fun i hi => absurd hi (Nat.not_lt_zero i)⟩
  | w :: ws, k, s => by
    rw [List.zipIdx_cons]
    refine Act.Does.forIn_cons (P := fun t => t = s.upd (.reg (Reg.off .pwrDom k 0) w)) (Act.Does.yield (Act.Does.make rfl)) ?_
    rintro _ rfl
    refine (setDoms_does ws (k + 1) _).mono fun _ t ht => ⟨((State.SameBut.refl _ s).upd (by simp)).trans ht.same, fun o ho => ?_, ?_⟩
    · rw [ht.others o fun i hi hi' => ho i (by omega) (by simp only [List.length_cons]; omega),
        State.find_upd_reg_other _ _ (ho k (Nat.le_refl k) (by simp only [List.length_cons]; omega))]
    · rintro (_ | i) hi
      · rw [State.rg_eq_of_find (ht.others _ fun i hi _ => by simp only [Reg.off, Reg.row]; omega)]
        exact State.rg_upd_reg _ _ _ _ _
      · rw [show k + (i + 1) = k + 1 + i by omega, ht.set i (Nat.lt_of_succ_lt_succ hi)]
        rfl

/-- The fields an exit may write. -/
def exitFields : List Fld := [.clock, .faults, .regs, .sdio, .freeCount, .power, .reflex, .mem, .flips]

/-- The device has left a state of power. -/
structure State.Exited (s t : State) : Prop where
  same : s.SameBut exitFields t
  state : t.power.state = .run
  alarm : t.power.alarm = none
  mem : s.keepsBut t ((s.members 0 ++ s.members 1).map fun x => (slicePa x 0, 0x4_0000))
  us : ∃ us, us ≤ s.power.state.exitBound ∧ t.rg .pwrExitUs = Word.ofNat us
  doms : ∀ i, i < s.power.doms.length → t.rg .pwrDom i = s.power.doms.getD i 0
  cause : t.rg .pwrWakeCause = s.rg .pwrWakeCause

theorem loadCodes_does : (forIn [0, 1] PUnit.unit fun t _ => do
      loadCode t
      pure (ForInStep.yield PUnit.unit) : Act PUnit).Does s fun _ u => s.SameBut [.mem, .flips, .faults] u ∧
    s.keepsBut u ((s.members 0 ++ s.members 1).map fun x => (slicePa x 0, 0x4_0000)) := by
  refine Act.Does.forIn_cons (Act.Does.yield (loadCode_does 0 s)) fun t ht => Act.Does.loop_one ?_
  refine (loadCode_does 1 t).bind fun _ u hu => Act.Does.pure ⟨rfl, ht.1.1.trans hu.1.1, fun a ha => ?_⟩
  have hOut {ms : List Nat} (hms : ms ⊆ s.members 0 ++ s.members 1) : ∀ r ∈ ms.map fun m => (slicePa m 0, 0x4_0000), a < r.1 ∨ r.1 + r.2 ≤ a := by
    intro r hr
    obtain ⟨m, hm, rfl⟩ := List.mem_map.mp hr
    exact ha _ (List.mem_map.mpr ⟨m, hms hm, rfl⟩)
  rw [ht.1.members] at hu
  exact (hu.2.2 a (hOut (List.subset_append_right _ _))).trans (ht.2.2 a (hOut (List.subset_append_left _ _)))

theorem advanceSlots_does : advanceSlots.Does s fun _ t => s.SameBut [.reflex] t :=
  Act.Does.get_bind (Act.Does.make ((State.SameBut.refl _ s).upd (by simp)))

theorem Act.Does.draw_bind {α : Type} {f : Nat → Act α} {Q : α → State → Prop} (h : (f s.freeCount).Does (s.upd .draw) Q) :
    (Act.draw >>= f).Does s Q := fun k => h k

/-- The device is in Run, with its domains still to be set. -/
structure State.Leaving (s t : State) : Prop where
  same : s.SameBut exitFields t
  regs : ∀ o, o ∉ timeRegs → t.regs.find o = s.regs.find o
  state : t.power.state = .run
  alarm : t.power.alarm = none
  mem : s.keepsBut t ((s.members 0 ++ s.members 1).map fun x => (slicePa x 0, 0x4_0000))

/-- The domains are set, the duration is shown, and the commands that waited are looked at. -/
theorem State.Leaving.ends {us : Nat} (h : s.Leaving t) (hDoms : s.power.doms.length ≤ 3) (hUs : us ≤ s.power.state.exitBound) :
    (do
      for (w, i) in s.power.doms.zipIdx do Act.reg .pwrDom i w
      Act.reg .pwrExitUs 0 (Word.ofNat us)
      turnAway 16 : Act Unit).Does t fun _ u => s.Exited u := by
  refine (setDoms_does s.power.doms 0 t).bind fun _ v hv => Act.Does.reg_bind ?_
  have hTurn := (writes_turnAway 16).keeping (s := v.upd (.reg (Reg.off .pwrExitUs 0 0) (Word.ofNat us))) (p := fun o => o ∉ recordRegs)
    (Q := fun _ _ => True) (fun o ho => keepsReg_turnAway ho 16) (((writes_turnAway 16).does _).mono fun _ _ _ => trivial)
  refine hTurn.mono fun _ u hu => ?_
  obtain ⟨hSame, hRegs, -⟩ := hu
  have hSame' : v.SameBut hostFields u := ((State.SameBut.refl _ v).upd (by simp [hostFields])).trans hSame
  have hAll : t.SameBut [.sdio, .faults, .regs] u := (hv.same.mono (by decide)).trans (hSame'.mono (by decide))
  have hPower : u.power = t.power := hAll .power (by decide)
  have hDom (i : Nat) (hi : i < 3) : u.rg .pwrDom i = v.rg .pwrDom i :=
    State.rg_eq_of_find ((hRegs _ (by simp only [recordRegs, Reg.off, Reg.row]; simp; omega)).trans
      (State.find_upd_reg_other _ _ (by simp only [Reg.off, Reg.row]; omega)))
  refine ⟨h.same.trans (hAll.mono (by decide)), by rw [hPower, h.state], by rw [hPower, h.alarm], fun a ha => ?_, ⟨us, hUs, ?_⟩, fun i hi => ?_, ?_⟩
  · rw [show u.mem = t.mem from hAll .mem (by decide)]
    exact h.mem a ha
  · rw [State.rg_eq_of_find (hRegs _ (by simp [recordRegs, Reg.off, Reg.row])), State.rg_upd_reg]
  · rw [hDom i (by omega), ← Nat.zero_add i]
    exact (hv.set i hi).trans (by rw [Nat.zero_add])
  · refine State.rg_eq_of_find ((hRegs _ (by simp [recordRegs, Reg.off, Reg.row])).trans ((State.find_upd_reg_other _ _
      (by decide)).trans ((hv.others _ fun i _ _ => ?_).trans (h.regs _ (by simp [timeRegs, recordRegs, Reg.off, Reg.row])))))
    simp only [Reg.off, Reg.row]
    omega

theorem members_of_find {n : Nat} (hTriad : t.regs.find (Reg.off .refxTriad n 0) = s.regs.find (Reg.off .refxTriad n 0))
    (hSlice : t.regs.find (Reg.off .refxSlice 0 0) = s.regs.find (Reg.off .refxSlice 0 0)) : t.members n = s.members n := by
  have hPosition (p : Nat) : t.position n p = s.position n p := by simp only [State.position, State.rf, State.rg_eq_of_find hTriad]
  have hRole (x : Nat) : t.role x = s.role x := by simp only [State.role, State.rf, State.rg_eq_of_find hSlice]
  simp only [State.members, funext hPosition, hRole]

theorem members_of_regs (h : ∀ o, o ∉ timeRegs → t.regs.find o = s.regs.find o) {n : Nat} (hn : n < 2) : t.members n = s.members n :=
  members_of_find (h _ (by simp [timeRegs, recordRegs, Reg.off, Reg.row]; omega)) (h _ (by simp [timeRegs, recordRegs, Reg.off, Reg.row]))

theorem exitState_does {ticks : Nat} (hState : s.power.state = .idle ∨ s.power.state = .sleep) (hDoms : s.power.doms.length ≤ 3) :
    (exitState ticks).Does s fun _ t => s.Exited t := by
  refine Act.Does.get_bind ?_
  extract_lets st
  refine Act.Does.draw_bind ?_
  extract_lets us ends toRun
  have hUs : us ≤ s.power.state.exitBound := Nat.le_of_lt_succ (Nat.mod_lt _ (Nat.succ_pos _))
  clear_value us
  refine ((writes_passUnits _).keeping (p := fun o => o ∉ timeRegs) (Q := fun _ _ => True) (fun o ho => keepsReg_passUnits _ ho)
    (((writes_passUnits _).does _).mono fun _ _ _ => trivial)).bind fun _ v hv => Act.Does.make_bind ?_
  obtain ⟨hSame, hRegs, -⟩ := hv
  have hLeaving : s.Leaving (v.upd (.power { s.power with
      state := .run, entering := none, wake := false, rails := true, alarm := none, doms := [] })) := by
    have hAll : s.SameBut exitFields v := ((State.SameBut.refl _ s).upd (by simp [exitFields])).trans (hSame.mono (by decide))
    exact ⟨hAll.upd (by simp [exitFields]), hRegs, rfl, rfl, fun a _ => by rw [State.upd_mem _ _ (by rfl), show v.mem = s.mem from hSame .mem (by decide)]⟩
  generalize v.upd (.power { s.power with
      state := .run, entering := none, wake := false, rails := true, alarm := none, doms := [] }) = w at hLeaving ⊢
  refine Act.Does.ite (fun h => ?_) fun _ => Act.Does.ite (fun _ => ?_) fun _ => hLeaving.ends hDoms hUs
  · rcases hState with hIs | hIs <;> simp [st, hIs] at h
  · refine advanceSlots_does.bind fun _ x hx => loadCodes_does.bind fun _ y hy => ?_
    have hRegs' : ∀ o, o ∉ timeRegs → x.regs.find o = s.regs.find o := fun o ho => by
      rw [show x.regs = w.regs from hx .regs (by decide)]
      exact hLeaving.regs o ho
    have hPower : y.power = w.power := (hy.1 .power (by decide)).trans (hx .power (by decide))
    refine State.Leaving.ends (us := us) ⟨?_, fun o ho => ?_, hPower ▸ hLeaving.state, hPower ▸ hLeaving.alarm, fun a ha => ?_⟩ hDoms hUs
    · exact (hLeaving.same.trans (hx.mono (by decide))).trans (hy.1.mono (by decide))
    · rw [show y.regs = x.regs from hy.1 .regs (by decide)]
      exact hRegs' o ho
    · rw [← members_of_regs hRegs' (n := 0) (by decide), ← members_of_regs hRegs' (n := 1) (by decide)] at ha
      rw [hy.2 a ha, show x.mem = w.mem from hx .mem (by decide)]
      rw [members_of_regs hRegs' (n := 0) (by decide), members_of_regs hRegs' (n := 1) (by decide)] at ha
      exact hLeaving.mem a ha

/-! ## Wake events (R410, R413) -/

/-- A source that may wake the device. -/
def State.wakes (s : State) (source : Nat) : Prop := source = 0 ∨ flag (s.rg .pwrWakeEn) source = true

/-- The cause register once `source` is latched. -/
theorem latchWake_does {source : Nat} (h : s.wakes source) : (latchWake source).Does s fun a t => a = true ∧
    t = s.upd (.reg (Reg.off .pwrWakeCause 0 0) (setField (s.rg .pwrWakeCause) source source 1)) :=
  Act.Does.get_bind (Act.Does.ite (fun _ => Act.Does.regField_bind (Act.Does.pure ⟨rfl, rfl⟩)) fun hNot => absurd (by simpa [State.wakes] using h) hNot)

theorem latchWake_not {source : Nat} (hSource : source ≠ 0) (h : flag (s.rg .pwrWakeEn) source = false) :
    (latchWake source).Does s fun a t => a = false ∧ t = s :=
  Act.Does.get_bind (Act.Does.ite (fun hDo => absurd hDo (by simp [hSource, h])) fun _ => Act.Does.pure ⟨rfl, rfl⟩)

/-- A wake event in Idle or Sleep. -/
theorem wake_does {source ticks : Nat} (hDead : s.boot.dead = false) (hState : s.power.state = .idle ∨ s.power.state = .sleep)
    (hStill : s.power.entering = none) (hMask : flag s.power.state.wakeMask source = true) (h : s.wakes source) (hSource : source < 32)
    (hDoms : s.power.doms.length ≤ 3) : (wake source ticks).Does s fun _ t => wokenBy s t source ∧ s.SameBut exitFields t := by
  have hNotOff : s.power.state ≠ .off := by rcases hState with hIs | hIs <;> simp [hIs]
  have hNotRun : s.power.state ≠ .run := by rcases hState with hIs | hIs <;> simp [hIs]
  refine Act.Does.get_bind (Act.Does.ite (fun hIs => absurd hIs (by simp [hDead])) fun _ => Act.Does.ite (fun hIs => absurd hIs hNotOff) fun _ => ?_)
  refine Act.Does.ite (fun hIs => absurd hIs (by simp [hStill])) fun _ => Act.Does.ite (fun hIs => absurd hIs hNotRun) fun _ =>
    Act.Does.ite (fun _ => (latchWake_does h).bind ?_) fun hNot => absurd hMask hNot
  rintro _ t ⟨rfl, ht⟩
  have hSame : s.SameBut [.regs] t := ht ▸ (State.SameBut.refl _ s).upd (by simp)
  have hPower : t.power = s.power := hSame .power (by decide)
  refine Act.Does.ite (fun _ => (exitState_does (hPower ▸ hState) (hPower ▸ hDoms)).mono fun _ u hu => ?_) fun hNot => absurd rfl hNot
  have hAll : s.SameBut exitFields u := (hSame.mono (by decide)).trans hu.same
  refine ⟨⟨hu.state, hu.alarm, ?_, hAll .ctxs (by decide), ?_, hAll .locks (by decide), hPower ▸ hu.us, hPower ▸ hu.doms⟩, hAll⟩
  · rw [hu.cause, ht, State.rg_upd_reg, flag_setField_same _ _ hSource]
    rfl
  · have hFind {o : Nat} (ho : o ≠ Reg.off .pwrWakeCause 0 0) : t.regs.find o = s.regs.find o := ht ▸ State.find_upd_reg_other _ _ ho
    have hMembers {n : Nat} (hn : n < 2) : t.members n = s.members n :=
      members_of_find (hFind (by simp only [Reg.off, Reg.row]; omega)) (hFind (by decide))
    intro a ha
    rw [← hMembers (n := 0) (by decide), ← hMembers (n := 1) (by decide)] at ha
    rw [hu.mem a ha, show t.mem = s.mem from hSame .mem (by decide)]

/-! ## The cut to Off (R415) -/

/-- The domains that a state switches off. -/
structure State.DomsOff (s : State) (st : PState) (n : Nat) (t : State) : Prop where
  same : s.SameBut [.regs] t
  others : ∀ o, (∀ i, o ≠ Reg.off .pwrDom i 0) → t.regs.find o = s.regs.find o
  off : ∀ m, t.bitOf3 .pwrDom m = if m < n ∧ s.domainOff st m = true then false else s.bitOf3 .pwrDom m

theorem setDomains_does (st : PState) (s : State) : (setDomains st).Does s fun _ t => s.DomsOff st 96 t := by
  refine Act.Does.get_bind (Act.Does.bind (Act.Does.forIn_range (I := fun n _ t => s.DomsOff st n t) ⟨.refl _ s, fun _ _ => rfl, fun m => by simp⟩
    fun n hn _ t ht => Act.Does.ite (fun hOff => Act.Does.regField_bind (Act.Does.pure ⟨_, rfl, ht.same.upd (by simp), fun o ho => ?_, fun m => ?_⟩))
      fun hOn => Act.Does.pure ⟨_, rfl, ht.same, ht.others, fun m => ?_⟩) fun _ t ht => Act.Does.pure ht)
  · rw [State.find_upd_reg_other _ _ (ho _)]
    exact ht.others o ho
  · rw [bitOf3_upd_pwrDom, ht.off]
    by_cases hEq : m = n
    · simp [hEq, hOff]
    · simp [hEq, show m < n + 1 ↔ m < n by omega]
  · rw [ht.off]
    by_cases hEq : m = n
    · simp [hEq, hOn]
    · simp [show m < n + 1 ↔ m < n by omega]

/-- What the cut leaves of the supply and of the mask ROM's verdict. -/
structure State.CutOff (s t : State) : Prop where
  off : isOff s t
  vinGood : t.power.vinGood = s.power.vinGood
  thermtrip : t.power.thermtrip = s.power.thermtrip

theorem enterOff_does : enterOff.Does s fun _ t => s.CutOff t := by
  refine Act.Does.get_bind (Act.Does.make_bind (Act.Does.get_bind (Act.Does.make_bind (Act.Does.make_bind (Act.Does.make_bind
    (Act.Does.make_bind ((setDomains_does .off _).mono fun _ t ht => ?_)))))))
  have hPower := ht.same .power (by decide)
  have hCasc := ht.same .casc (by decide)
  have hSdio := ht.same .sdio (by decide)
  have hBoot := ht.same .boot (by decide)
  change t.power = _ at hPower
  change t.casc = _ at hCasc
  change t.sdio = _ at hSdio
  change t.boot = _ at hBoot
  refine ⟨⟨by rw [hPower]; rfl, by rw [hBoot]; rfl, ht.same .mem (by decide), ht.same .ctxs (by decide), ht.same .locks (by decide),
    ht.same .nor (by decide), by rw [hCasc]; rfl, by rw [hSdio]; rfl, fun n hn => ?_⟩, by rw [hPower]; rfl, by rw [hPower]; rfl⟩
  have hAlways : State.reset.bitOf3 .pwrDom 0 = true := by decide
  rw [ht.off]
  by_cases hZero : n = 0
  · subst hZero
    rw [if_neg (by simp [State.domainOff])]
    exact hAlways
  · rw [if_pos ⟨hn, by simp [State.domainOff, hZero]⟩]
    simp [hZero]

end Sys2Proof.Machine

/-!
PROOF. Power events (R411 to R413, R416, R417, R432, R433, R489).
-/
namespace Sys2Proof.Machine

variable {s t u : State}

/-! ## Refusals and aborts are logged (R414, R416) -/

/-- What names a refuser in the log. -/
def Refuser.logged : Refuser → Nat × Nat
  | .block b => (0, b)
  | .context c => (1, c)

/-- A log entry has been made. -/
structure State.Logged (s : State) (target : PState) (abort : Bool) (by' : Refuser) (t : State) : Prop where
  same : s.SameBut [.regs] t
  count : t.rf .pwrRefused (target.code - 1) 31 0 = min (2 ^ 32 - 1) (s.rf .pwrRefused (target.code - 1) 31 0 + 1)
  entry : t.rg .pwrLog (s.rf .pwrLogHead 0 3 0) =
    Word.ofNat (pack [(target.code, 0), (b2n abort, 3), (by'.logged.1, 4), (by'.logged.2, 5)])
  head : t.rf .pwrLogHead 0 3 0 = (s.rf .pwrLogHead 0 3 0 + 1) % 16

theorem code_le (target : PState) : target.code ≤ 4 := by cases target <;> decide

theorem pack_two (a b i : Nat) : pack [(a, 0), (b, i)] = a + b * 2 ^ i := by simp [pack]

theorem field_logHead (a b : Nat) : field (Word.ofNat (pack [(a % 16, 0), (b % 65536, 16)])) 3 0 = a % 16 := by
  rw [pack_two, field, Word.ofNat, BitVec.toNat_ofNat, pow_zero, Nat.div_one,
    Nat.mod_eq_of_lt (show a % 16 + b % 65536 * 2 ^ 16 < 2 ^ 32 by omega)]
  exact show (a % 16 + b % 65536 * 2 ^ 16) % 16 = a % 16 by omega

theorem logRefusal_does (target : PState) (abort : Bool) (by' : Refuser) :
    (logRefusal target abort by').Does s fun _ t => s.Logged target abort by' t := by
  have hCode := code_le target
  have hHead : s.rf .pwrLogHead 0 3 0 < 16 := field_lt _ 3 0
  have hAct : logRefusal target abort by' = (do
      let s ← Act.get
      Act.countSat .pwrRefused (target.code - 1) 31 0
      let n := s.rf .pwrLogHead 0 3 0
      Act.reg .pwrLog n (Word.ofNat (pack [(target.code, 0), (b2n abort, 3), (by'.logged.1, 4), (by'.logged.2, 5)]))
      Act.reg .pwrLogTime n (Word.ofNat s.nowLo)
      Act.reg .pwrLogHead 0 (Word.ofNat (pack [((n + 1) % 16, 0), ((s.rf .pwrLogHead 0 31 16 + 1) % 65536, 16)]))) := by
    cases by' <;> rfl
  rw [hAct]
  refine Act.Does.get_bind (Act.Does.countSat_bind (Act.Does.reg_bind (Act.Does.reg_bind (Act.Does.make ?_))))
  have hLogTime {n : Nat} : Reg.off .pwrLog n 0 ≠ Reg.off .pwrLogTime n 0 := by simp only [Reg.off, Reg.row]; omega
  have hLogHead {n : Nat} : Reg.off .pwrLog n 0 ≠ Reg.off .pwrLogHead 0 0 := by simp only [Reg.off, Reg.row]; omega
  refine ⟨?_, ?_, ?_, ?_⟩
  · exact ((((State.SameBut.refl _ s).upd (by simp)).upd (by simp)).upd (by simp)).upd (by simp)
  · rw [State.rf_upd_reg_other _ (by simp only [Reg.off, Reg.row]; omega), State.rf_upd_reg_other _ (by simp only [Reg.off, Reg.row]; omega),
      State.rf_upd_reg_other _ (by simp only [Reg.off, Reg.row]; omega), State.rf_setField_same _ (by decide)]
    exact Nat.mod_eq_of_lt (by omega)
  · rw [State.rg_upd_reg_other _ _ _ _ _ _ hLogHead, State.rg_upd_reg_other _ _ _ _ _ _ hLogTime, State.rg_upd_reg]
  · rw [State.rf, State.rg_upd_reg]
    exact field_logHead _ _

theorem entryAbort_does {block : Nat} {target : PState} (hEntering : s.power.entering = some target)
    (hTime : block ≠ Block.barge ∨ s.power.entryLimit * nsUnit ≤ s.clock.elapsed) : s.does (.entryAbort block) fun t =>
      t = { s with regs := t.regs, power := { s.power with entering := none, wake := false } } ∧
      t.rf .pwrRefused (target.code - 1) 31 0 = min (2 ^ 32 - 1) (s.rf .pwrRefused (target.code - 1) 31 0 + 1) ∧
      t.rf .pwrLogHead 0 3 0 = (s.rf .pwrLogHead 0 3 0 + 1) % 16 := by
  have hAbort (b : Nat) : (abortEntry b).Does s fun _ t =>
      t = { s with regs := t.regs, power := { s.power with entering := none, wake := false } } ∧
      t.rf .pwrRefused (target.code - 1) 31 0 = min (2 ^ 32 - 1) (s.rf .pwrRefused (target.code - 1) 31 0 + 1) ∧
      t.rf .pwrLogHead 0 3 0 = (s.rf .pwrLogHead 0 3 0 + 1) % 16 := by
    refine Act.Does.get_bind ?_
    rw [hEntering]
    refine Act.Does.make_bind ((logRefusal_does _ _ _).mono fun _ t ht => ⟨?_, ht.count, ht.head⟩)
    exact ht.same.eq_regs
  refine State.does_of rfl (Act.Does.get_bind (Act.Does.ite (fun _ => Act.Does.ite (fun hBarge => ?_) fun _ => hAbort _) fun hNot =>
    absurd (by simp [hEntering]) hNot))
  rcases hTime with hOther | hDue
  · exact absurd hBarge hOther
  · refine Act.Does.bind (Act.does_of_run (Q := fun _ t => t = s) (fun k => run_reach_past hDue k) rfl) ?_
    rintro _ _ rfl
    exact hAbort _

/-! ## Wake events (R413, R417) -/

section
variable {source : Fin 9} {ticks : Nat} (hCalm : s.calm = true)
include hCalm

theorem wakeEvent_wakes (hDead : s.boot.dead = false) (hStill : s.power.entering = none) (hState : s.power.state = .idle ∨ s.power.state = .sleep)
    (hMask : flag s.power.state.wakeMask source.val = true) (h : s.wakes source.val) (hDoms : s.power.doms.length ≤ 3) :
    s.does (.wakeEvent source ticks) fun t => wokenBy s t source.val := by
  obtain ⟨hOnTime, hQuiet⟩ := State.calm_iff.mp hCalm
  refine State.does_of rfl (settled_does hOnTime ((wake_does hDead hState hStill hMask h (by omega) hDoms).mono fun _ t ht => ⟨ht.1, ?_⟩))
  rw [State.quiet_of_sameBut ht.2 (by decide)]
  exact hQuiet

theorem wakeEvent_latches (hDead : s.boot.dead = false) (hStill : s.power.entering = none) (hRun : s.power.state = .run) (h : s.wakes source.val) :
    s.does (.wakeEvent source ticks) fun t => t = { s with regs := t.regs } ∧ regsBut s t [Reg.off .pwrWakeCause 0 0] ∧
      flag (t.rg .pwrWakeCause) source.val = true := by
  obtain ⟨hOnTime, hQuiet⟩ := State.calm_iff.mp hCalm
  refine State.does_of rfl (settled_does hOnTime (Act.Does.get_bind (Act.Does.ite (fun hIs => absurd hIs (by simp [hDead])) fun _ =>
    Act.Does.ite (fun hIs => absurd hIs (by simp [hRun])) fun _ => Act.Does.ite (fun hIs => absurd hIs (by simp [hStill])) fun _ =>
    Act.Does.ite (fun _ => (latchWake_does h).bind ?_) fun hNot => absurd hRun hNot)))
  rintro _ _ ⟨rfl, rfl⟩
  refine Act.Does.pure ⟨⟨rfl, fun o ho => State.find_upd_reg_other _ _ (by simpa using ho), ?_⟩, hQuiet⟩
  rw [State.rg_upd_reg, flag_setField_same _ _ (by omega)]
  rfl

theorem wakeEvent_not (hDead : s.boot.dead = false) (hStill : s.power.entering = none) (hOn : s.power.state ≠ .off) (hSource : source.val ≠ 0)
    (h : flag (s.rg .pwrWakeEn) source.val = false) : s.does (.wakeEvent source ticks) fun t => t = s := by
  obtain ⟨hOnTime, hQuiet⟩ := State.calm_iff.mp hCalm
  refine State.does_of rfl (settled_does hOnTime (Act.Does.get_bind (Act.Does.ite (fun hIs => absurd hIs (by simp [hDead])) fun _ =>
    Act.Does.ite (fun hIs => absurd hIs hOn) fun _ => Act.Does.ite (fun hIs => absurd hIs (by simp [hStill])) fun _ =>
    Act.Does.ite (fun _ => (latchWake_not hSource h).bind ?_) fun _ => Act.Does.ite (fun _ => (latchWake_not hSource h).bind ?_) fun _ =>
      Act.Does.pure ⟨rfl, hQuiet⟩)))
  · rintro _ _ ⟨rfl, rfl⟩
    exact Act.Does.pure ⟨rfl, hQuiet⟩
  · rintro _ _ ⟨rfl, rfl⟩
    exact Act.Does.ite (fun hIs => absurd hIs (by decide)) fun _ => Act.Does.pure ⟨rfl, hQuiet⟩

theorem wakeEvent_starts (hDead : s.boot.dead = false) (hOff : s.power.state = .off) (hVin : s.power.vinGood = true) :
    s.does (.wakeEvent 0 ticks) fun t => t = { s with boot := { s.boot with startDue := true } } := by
  obtain ⟨hOnTime, hQuiet⟩ := State.calm_iff.mp hCalm
  exact State.does_of rfl (settled_does hOnTime (Act.Does.get_bind (Act.Does.ite (fun hIs => absurd hIs (by simp [hDead])) fun _ =>
    Act.Does.ite (fun _ => Act.Does.ite (fun _ => Act.Does.make ⟨rfl, hQuiet⟩) fun hNot => absurd (by simp [hVin]) hNot) fun hNot => absurd hOff hNot)))

theorem slowClockAlarm_wakes {a : Nat} (hDead : s.boot.dead = false) (hStill : s.power.entering = none) (hState : s.power.state = .sleep)
    (hAlarm : s.power.alarm = some a) (hDue : a * nsUnit ≤ s.clock.elapsed) (h : flag (s.rg .pwrWakeEn) 2 = true)
    (hDoms : s.power.doms.length ≤ 3) : s.does (.slowClockAlarm ticks) fun t => wokenBy s t 2 := by
  obtain ⟨hOnTime, hQuiet⟩ := State.calm_iff.mp hCalm
  refine State.does_of rfl (settled_does hOnTime (Act.Does.get_bind ?_))
  rw [hAlarm]
  refine Act.Does.bind (Act.does_of_run (Q := fun _ t => t = s) (fun k => run_reach_past hDue k) rfl) ?_
  rintro _ _ rfl
  refine (wake_does hDead (.inr hState) hStill (by rw [hState]; decide) (.inr h) (by decide) hDoms).mono fun _ t ht => ⟨ht.1, ?_⟩
  rw [State.quiet_of_sameBut ht.2 (by decide)]
  exact hQuiet

end

/-- Settles O53: each event by the state it meets. -/
theorem powerEventsMoveTheState : Obligations.PowerEventsMoveTheState := by
  intro s
  refine ⟨fun hRuns hAuto hFree => ?_, fun hAuto => ?_, fun block target hEntering _ hTime => entryAbort_does hEntering hTime,
    fun hCalm hDead hStill source ticks => ⟨fun hState hMask h hDoms => wakeEvent_wakes hCalm hDead hStill hState hMask h hDoms,
      fun hRun h => wakeEvent_latches hCalm hDead hStill hRun h, fun hOn hSource h => wakeEvent_not hCalm hDead hStill hOn hSource h,
      fun hOff hVin => wakeEvent_starts hCalm hDead hOff hVin,
      fun a hState hAlarm hDue h hDoms => slowClockAlarm_wakes hCalm hDead hStill hState hAlarm hDue h hDoms⟩,
    fun d hAwake hGate => ⟨fun hMay => ?_, fun hMay => ?_⟩, fun at' hRunOn hDue => ?_, fun hOn => ?_, ?_⟩
  · exact State.does_of rfl (Act.Does.get_bind (Act.Does.ite (fun _ => Act.Does.ite (fun _ => Act.Does.get_bind (Act.Does.ite (fun _ =>
      Act.Does.make rfl) fun hNot => absurd rfl hNot)) fun hNot => absurd (by exact hFree ▸ rfl) hNot) fun hNot => absurd (by simp [hRuns, hAuto]) hNot))
  · exact State.does_of rfl (Act.Does.get_bind (Act.Does.ite (fun hDo => absurd hDo (by simp [hAuto])) fun _ => Act.Does.pure rfl))
  · refine State.does_of rfl (Act.Does.get_bind (Act.Does.ite (fun _ => Act.Does.get_bind (Act.Does.make ⟨rfl, fun n _ => ?_⟩)) fun hNot =>
      absurd (by simp [hAwake, hGate, hMay]) hNot))
    rw [bitOf3_upd_pwrDom]
    by_cases hEq : n = d.val
    · simp [hEq]
    · simp [hEq]
  · exact State.does_of rfl (Act.Does.get_bind (Act.Does.ite (fun hDo => absurd hDo (by simp [hMay])) fun _ => Act.Does.pure rfl))
  · refine State.does_of rfl (Act.Does.get_bind ?_)
    rw [hRunOn]
    refine Act.Does.bind (Act.does_of_run (Q := fun _ t => t = s) (fun k => run_reach_past hDue k) rfl) ?_
    rintro _ _ rfl
    exact enterOff_does.mono fun _ _ ht => ht.off
  · refine State.does_of rfl (Act.Does.get_bind (Act.Does.ite (fun _ => Act.Does.make_bind (enterOff_does.mono fun _ t ht => ⟨ht.off, ht.thermtrip⟩))
      fun hNot => absurd (by simp [hOn]) hNot))
  · exact State.does_of rfl (Act.Does.get_bind (Act.Does.make_bind (enterOff_does.mono fun _ t ht => ⟨ht.off, ht.vinGood⟩)))

end Sys2Proof.Machine

/-!
PROOF. Requests written to PWR_REQ (R407, R408, R414, R415, R419, Tables 18.4 and 18.7).
-/
namespace Sys2Proof.Machine

variable {s t u : State} {who : Who} {busy : BitVec 8}

/-! ## What an entry stores (R415) -/

theorem State.keepsBut_of_mem {l : List (Nat × Nat)} (h : t.mem = s.mem) : s.keepsBut t l := fun a _ => by rw [h]

theorem State.keepsBut_widen {pa k n : Nat} (h : s.keepsBut t [(pa, k)]) (hk : k ≤ n) : s.keepsBut t [(pa, n)] := fun a ha =>
  h a (by simp only [List.mem_singleton, forall_eq] at ha ⊢; omega)

/-- The fields a memory that loses its contents, or takes an image, may write. -/
def imageFields : List Fld := [.freeCount, .mem, .flips, .faults]

theorem loseBytes_does (pa n : Nat) : (loseBytes pa n).Does s fun _ t => s.SameBut imageFields t ∧ s.keepsBut t [(pa, n)] := by
  refine Act.Does.draw_bind ((zeroPhys_does pa n _).bind fun _ t ht => (writePhys_does pa _ t).mono fun _ u hu => ⟨?_, ?_⟩)
  · exact (((State.SameBut.refl _ s).upd (by simp [imageFields])).trans (ht.1.mono (by decide))).trans (hu.1.mono (by decide))
  · exact State.keepsBut_trans (State.keepsBut_clear (s := s) ht.2.1 List.mem_cons_self)
      (State.keepsBut_widen hu.keepsBut_store (List.length_take_le _ _))

/-- The ranges of the eight slices. -/
def sliceRanges : List (Nat × Nat) := (List.range 8).map fun x => (slicePa x 0, 0x20_0000)

theorem loseSlices_does : loseSlices.Does s fun _ t => s.SameBut (.reflex :: imageFields) t ∧ s.keepsBut t sliceRanges := by
  have hTriads : (forIn [0, 1] PUnit.unit fun t _ => do
      Act.modTriad t fun r => { r with rebuild := r.rebuild.map fun p => (.wake, p.2) }
      pure (ForInStep.yield PUnit.unit) : Act PUnit).Writes [.reflex] :=
    writes_forIn (fun _ _ => writes_bind (writes_get_bind fun _ => writes_make (by simp)) fun _ => writes_pure _) _ _
  refine (hTriads.does s).bind fun _ t ht => Act.Does.bind (Act.Does.forIn_range
    (I := fun _ _ u => t.SameBut imageFields u ∧ t.keepsBut u sliceRanges) ⟨.refl _ t, State.keepsBut_refl t _⟩ fun x hx _ u hu => ?_)
    fun _ u hu => Act.Does.pure ⟨(ht.mono (by decide)).trans (hu.1.mono (by decide)), fun a ha => ?_⟩
  · refine (loseBytes_does _ _).bind fun _ v hv => Act.Does.pure ⟨_, rfl, hu.1.trans hv.1, State.keepsBut_trans hu.2
      (State.keepsBut_mono hv.2 fun r hr => ?_)⟩
    rw [List.mem_singleton.mp hr]
    exact List.mem_map.mpr ⟨x, List.mem_range.mpr hx, rfl⟩
  · rw [hu.2 a ha, show t.mem = s.mem from ht .mem (by decide)]

/-- Where the settings are saved. -/
def State.savePa (s : State) : Nat := tileBase (s.rf .pwrSave 0 18 0)

/-- The save area lies in backed PSRAM. -/
def State.saves (s : State) : Prop :=
  regionAt s.savePa = some .psram ∧ s.backed s.savePa = true ∧ s.backed (s.savePa + 32 * 65536 - 1) = true

theorem writeSaveArea_does (h : s.saves) : writeSaveArea.Does s fun a t => a = true ∧ s.SameBut imageFields t ∧
    s.keepsBut t [(s.savePa, 32 * 65536)] := by
  obtain ⟨hRegion, hFirst, hLast⟩ := h
  refine Act.Does.get_bind (Act.Does.ite (fun _ => Act.Does.draw_bind ((writePhys_does _ _ _).bind fun _ t ht => Act.Does.pure ⟨rfl, ?_, ?_⟩))
    fun hNot => absurd (Bool.and_eq_true_iff.mpr ⟨Bool.and_eq_true_iff.mpr ⟨decide_eq_true hRegion, hFirst⟩, hLast⟩) hNot)
  · exact ((State.SameBut.refl _ s).upd (by simp [imageFields])).trans (ht.1.mono (by decide))
  · exact State.keepsBut_widen (fun a ha => ht.keepsBut_store a ha) (List.length_take_le _ _)

/-! ## The steps of an entry -/

/-- Nothing of a kernel, a barge or a packet is under way. -/
def State.atRest (s : State) : Prop := s.collieBusy = false ∧ (∀ b ∈ s.flying, b.2.waiting = true) ∧ s.ports.uart = []

/-- No kernel of a device at rest is dispatched. -/
theorem dispatched_of_atRest (h : s.collieBusy = false) (c : Nat) {k : Kernel} (hKern : (s.ctx c).kern = some k) : k.dispatched = false := by
  cases hFind : s.ctxs.find c with
  | none => simp [State.ctx, Sparse.at, hFind] at hKern
  | some x =>
    have hx : x.kern = some k := by simpa [State.ctx, Sparse.at, hFind] using hKern
    simp only [State.collieBusy, Bool.or_eq_false_iff, List.any_eq_false] at h
    simpa [hx] using h.1 _ (Sparse.mem_of_find hFind)

theorem heelKernel_idle (h : s.collieBusy = false) (c : Nat) : (heelKernel c).Does s fun _ t => t = s := by
  refine Act.Does.get_bind ?_
  split
  · next k hKern =>
    have hPhase := dispatched_of_atRest h c hKern
    simp only [Kernel.dispatched, Bool.or_eq_false_iff, decide_eq_false_iff_not] at hPhase
    exact Act.Does.ite (fun hIs => absurd hIs hPhase.2) fun _ => Act.Does.ite (fun hIs => absurd hIs hPhase.1) fun _ => Act.Does.pure rfl
  · exact Act.Does.pure rfl

theorem stopIngress_does (h : s.ports.uart = []) : stopIngress.Does s fun _ t => t = s.upd (.ports { s.ports with uart := [], spiBusy := [] }) := by
  refine Act.Does.get_bind ?_
  rw [h]
  refine Act.Does.bind (Q := fun _ t => t = s) (Act.Does.pure rfl) ?_
  rintro _ s rfl
  exact Act.Does.get_bind (Act.Does.make rfl)

/-- The fields that the last steps of an entry may write. -/
def entryFields : List Fld := [.ports, .reflex, .freeCount, .mem, .flips, .faults, .power, .regs]

/-- The device has entered a state, as it stood at `s`. -/
structure State.Entered (s : State) (target : PState) (t : State) : Prop where
  same : s.SameBut entryFields t
  state : t.power.state = target
  entering : t.power.entering = none
  time : t.power.entryTime = s.fullTime
  doms : t.power.doms = (List.range 3).map fun i => s.rg .pwrDom i
  off : ∀ n, n < 96 → t.bitOf3 .pwrDom n = if s.domainOff target n then false else s.bitOf3 .pwrDom n
  mem : s.keepsBut t ((s.savePa, 32 * 65536) :: sliceRanges)

theorem finishEntry_does {target : PState} (hUart : s.ports.uart = []) (hStray : target = .deep → s.strayTiles = []) (hSaves : s.saves)
    (hWake : s.power.wake = false) : (finishEntry target).Does s fun _ t => s.Entered target t := by
  refine (stopIngress_does hUart).bind ?_
  rintro _ _ rfl
  have hStray' : target = .deep → (s.upd (.ports { s.ports with uart := [], spiBusy := [] })).strayTiles = [] := hStray
  have hSaves' : (s.upd (.ports { s.ports with uart := [], spiBusy := [] })).saves := hSaves
  have hSame : s.SameBut [.ports] (s.upd (.ports { s.ports with uart := [], spiBusy := [] })) := (State.SameBut.refl _ s).upd (by simp)
  generalize s.upd (.ports { s.ports with uart := [], spiBusy := [] }) = t at hStray' hSaves' hSame ⊢
  extract_lets cleared
  have hDone : (cleared .done).Does t fun _ w => s.Entered target w := by
    refine (writeSaveArea_does hSaves').bind ?_
    rintro _ u ⟨rfl, hSaved, hKept⟩
    refine Act.Does.ite (fun h => by cases h) fun _ => loseSlices_does.bind fun _ v hv => Act.Does.get_bind (Act.Does.make_bind ?_)
    have hAll : s.SameBut [.ports, .reflex, .freeCount, .mem, .flips, .faults] v :=
      ((hSame.mono (by decide)).trans (hSaved.mono (by decide))).trans (hv.1.mono (by decide))
    have hRegs : v.regs = s.regs := hAll .regs (by decide)
    have hClock : v.clock = s.clock := hAll .clock (by decide)
    have hAsleep : v.power.wake = false := (congrArg Power.wake (hAll .power (by decide))).trans hWake
    have hDoms (n : Nat) : v.domainOff target n = s.domainOff target n := by simp only [State.domainOff, State.rg, hRegs]
    refine (setDomains_does target _).bind fun _ w hw => Act.Does.ite (fun h => absurd h (by simp [hAsleep])) fun _ => Act.Does.pure ?_
    have hPower := hw.same .power (by decide)
    change w.power = _ at hPower
    refine ⟨((hAll.mono (by decide)).upd (by simp [entryFields])).trans (hw.same.mono (by decide)), by rw [hPower]; rfl, by rw [hPower]; rfl, ?_, ?_,
      fun n hn => ?_, fun a ha => ?_⟩
    · rw [hPower]
      show v.fullTime = s.fullTime
      simp only [State.fullTime, State.nowHi, State.nowLo, hClock]
    · rw [hPower]
      show ((List.range 3).map fun i => v.rg .pwrDom i) = _
      simp only [State.rg, hRegs]
    · rw [hw.off, ← hDoms n]
      simp only [hn, true_and]
      rw [show s.bitOf3 .pwrDom n = v.bitOf3 .pwrDom n by simp only [State.bitOf3, State.rg, hRegs]]
      rfl
    · have hSave : t.savePa = s.savePa := by
        simp only [State.savePa, State.rf, State.rg, show t.regs = s.regs from hSame .regs (by decide)]
      rw [show w.mem = v.mem from hw.same .mem (by decide), hv.2 a fun r hr => ha r (List.mem_cons_of_mem _ hr),
        hKept a fun r hr => ha r (by rw [hSave] at hr; exact List.mem_cons.mpr (.inl (List.mem_singleton.mp hr))),
        show t.mem = s.mem from hSame .mem (by decide)]
  refine Act.Does.ite (fun hDeep => Act.Does.bind (Q := fun c u => c = Cleared.done ∧ u = t) (Act.Does.get_bind ?_) ?_) fun _ =>
    Act.Does.pure_bind hDone
  · rw [hStray' hDeep]
    exact Act.Does.pure ⟨rfl, rfl⟩
  · rintro _ _ ⟨rfl, rfl⟩
    exact hDone

theorem State.Entered.of_power {target : PState} {x : Power} (h : (s.upd (.power x)).Entered target t) : s.Entered target t :=
  ⟨((State.SameBut.refl _ s).upd (by simp [entryFields])).trans h.same, h.state, h.entering, h.time, h.doms, h.off, h.mem⟩

/-- The device with an entry in progress. -/
def State.accepting (s : State) (target : PState) : State :=
  s.upd (.power { s.power with entering := some target, wake := false, entryLimit := s.ns + 2 * 10 ^ 6 })

/-- An entry is accepted, and nothing holds it up. -/
theorem acceptEntry_does {target : PState} (hDeeper : target ≠ .idle) (hRest : s.atRest) (hStray : target = .deep → s.strayTiles = [])
    (hSaves : s.saves) : (acceptEntry target).Does s fun _ t => s.Entered target t := by
  obtain ⟨hBusy, hWaiting, hUart⟩ := hRest
  refine Act.Does.get_bind (Act.Does.ite (fun hIdle => absurd hIdle hDeeper) fun _ => Act.Does.make_bind ?_)
  rw [← State.accepting]
  have hBusy' : (s.accepting target).collieBusy = false := hBusy
  have hEnd {u : State} (hu : (s.accepting target).Entered
    target u) : s.Entered target u := hu.of_power
  have hStray' : target = .deep → (s.accepting target).strayTiles = [] :=
    hStray
  have hSaves' : (s.accepting target).saves := hSaves
  have hPower : (s.accepting target).power =
    { s.power with entering := some target, wake := false, entryLimit := s.ns + 2 * 10 ^ 6 } := rfl
  have hFlying : (s.accepting target).flying = s.flying := rfl
  have hPorts : (s.accepting target).ports = s.ports := rfl
  generalize s.accepting target = t at *
  refine (Act.Does.idleLoop _ fun x _ => (heelKernel_idle hBusy' x.1).bind fun _ u hu => Act.Does.pure ⟨rfl, hu⟩).bind fun _ u hu => ?_
  obtain ⟨-, rfl⟩ := hu
  have hMoving : (u.flying.any fun b => !b.2.waiting) = false := by
    rw [hFlying, List.any_eq_false]
    exact fun b hb => by simp [hWaiting b hb]
  refine Act.Does.get_bind ?_
  rw [hPower]
  refine Act.Does.ite (fun _ => ?_) fun hNot => absurd ?_ hNot
  · exact (finishEntry_does (hPorts ▸ hUart) hStray' hSaves' (by rw [hPower])).mono fun _ _ hv => hEnd hv
  · rw [hBusy', hMoving]
    rfl

/-! ## Requests (R408, R414) -/

/-- What an accepted request for Sleep or Deep sleep leaves. -/
def State.enters (s : State) (who : Who) (target : PState) (t : State) : Prop :=
  t.power.state = target ∧ t.power.entering = none ∧ t.power.entryTime = s.fullTime ∧ t.answered who Code.ok ∧
  t.ctxs = s.ctxs ∧ t.locks = s.locks ∧ t.clock = s.clock ∧ t.power.doms = (List.range 3).map (fun i => s.rg .pwrDom i) ∧
  (∀ n, n < 96 → t.bitOf3 .pwrDom n = if s.domainOff target n then false else s.bitOf3 .pwrDom n) ∧
  s.keepsBut t ((s.savePa, 32 * 65536) :: sliceRanges)

theorem request_enters {c : Instr} {target : PState} (hTakes : s.takes who .pwrReq 0) (hCalm : s.calm = true)
    (hExec : exec c s = Act.outcome (settled (command who .pwrReq 0 (requestState target 0))) s) (hDeeper : target ≠ .idle)
    (hCode : s.power.state.code < target.code) (hFree : s.refuser target 0 = none) (hRest : s.atRest)
    (hStray : target = .deep → s.strayTiles = []) (hSaves : s.saves) : s.does c (s.enters who target) := by
  obtain ⟨hOnTime, hQuiet⟩ := State.calm_iff.mp hCalm
  refine State.does_of hExec (settled_does hOnTime (command_does hTakes (Act.Does.get_bind (Act.Does.ite (fun h => absurd h (by omega)) fun _ => ?_))))
  rw [hFree]
  refine (acceptEntry_does hDeeper hRest hStray hSaves).bind fun _ t ht => Act.Does.pure ⟨⟨ht.state, ht.entering, ht.time, by simp, ?_⟩, ?_⟩
  · exact ⟨ht.same .ctxs (by decide), ht.same .locks (by decide), ht.same .clock (by decide), ht.doms, ht.off, ht.mem⟩
  · exact (State.quiet_of_sameBut ht.same (by decide)).trans hQuiet

theorem powerRequestRun_wakes (hTakes : s.takes who .pwrReq 0) (hCalm : s.calm = true)
    (hState : s.power.state = .idle ∨ s.power.state = .sleep) (hStill : s.power.entering = none) (hDead : s.boot.dead = false)
    (h : flag (s.rg .pwrWakeEn) 6 = true) (hDoms : s.power.doms.length ≤ 3) :
    s.does (.powerRequestRun who) fun t => wokenBy s t 6 ∧ t.answered who Code.ok := by
  obtain ⟨hOnTime, hQuiet⟩ := State.calm_iff.mp hCalm
  have hMask : flag s.power.state.wakeMask 6 = true := by
    rcases hState with hIs | hIs
    · rw [hIs]; decide
    · rw [hIs]; decide
  refine State.does_of rfl (settled_does hOnTime (command_does hTakes (Act.Does.get_bind (Act.Does.ite (fun _ => ?_) fun hNot =>
    absurd (by simpa using .inl hState) hNot))))
  refine (wake_does hDead hState hStill hMask (.inr h) (by decide) hDoms).bind fun _ t ht => Act.Does.pure ⟨⟨ht.1, by simp⟩, ?_⟩
  exact (State.quiet_of_sameBut ht.2 (by decide)).trans hQuiet

/-- A request that changes nothing. -/
theorem requestState_rests {target : PState} (h : target.code ≤ s.power.state.code) :
    (requestState target busy).Does s fun c t => c = Code.ok ∧ t = s :=
  Act.Does.get_bind (Act.Does.ite (fun _ => Act.Does.pure ⟨rfl, rfl⟩) fun hNot => absurd h hNot)

theorem requestState_refused {target : PState} {r : Refuser} (hCode : s.power.state.code < target.code) (hRefused : s.refuser target busy = some r) :
    (requestState target busy).Does s fun c t => c = Code.ok ∧ s.Logged target false r t := by
  refine Act.Does.get_bind (Act.Does.ite (fun h => absurd h (by omega)) fun _ => ?_)
  rw [hRefused]
  exact (logRefusal_does target false r).bind fun _ t ht => Act.Does.pure ⟨rfl, ht⟩

/-- What a refused request leaves, by Table 18.7. -/
def State.refusedBy (s : State) (who : Who) (target : PState) (r : Refuser) (t : State) : Prop :=
  t = { s with regs := t.regs, bus := t.bus } ∧ t.answered who Code.ok ∧
  t.rf .pwrRefused (target.code - 1) 31 0 = min (2 ^ 32 - 1) (s.rf .pwrRefused (target.code - 1) 31 0 + 1) ∧
  t.rg .pwrLog (s.rf .pwrLogHead 0 3 0) = Word.ofNat (match r with
    | .block b => pack [(target.code, 0), (b, 5)]
    | .context n => pack [(target.code, 0), (1, 4), (n, 5)]) ∧
  t.rf .pwrLogHead 0 3 0 = (s.rf .pwrLogHead 0 3 0 + 1) % 16

theorem State.Logged.refused {target : PState} {r : Refuser} (h : s.Logged target false r t) :
    s.refusedBy who target r (t.upd (.bus who.val ⟨Code.ok, 0⟩)) := by
  refine ⟨by rw [h.same.eq_regs]; rfl, by simp, h.count, h.entry.trans ?_, h.head⟩
  cases r with
  | block b => simp [pack, Refuser.logged, b2n]
  | context n => simp [pack, Refuser.logged, b2n]

/-- A request for Idle, Sleep or Deep sleep, by what it then does. -/
theorem request_does {c : Instr} {target : PState} {Q : State → Prop} (hTakes : s.takes who .pwrReq 0) (hCalm : s.calm = true)
    (hc : (c, target) ∈ [(Instr.powerRequestIdle { who, busy }, PState.idle), (.powerRequestSleep who, .sleep), (.powerRequestDeepSleep who, .deep)])
    (h : ∀ b, s.refuser target b = s.refuser target busy → (requestState target b).Does s fun x t =>
      Q (t.upd (.bus who.val ⟨x, 0⟩)) ∧ t.quiet = true) : s.does c Q := by
  obtain ⟨hOnTime, -⟩ := State.calm_iff.mp hCalm
  simp only [List.mem_cons, Prod.mk.injEq, List.not_mem_nil, or_false] at hc
  obtain ⟨rfl, rfl⟩ | ⟨rfl, rfl⟩ | ⟨rfl, rfl⟩ := hc
  · exact State.does_of rfl (command_does hTakes ((h busy rfl).mono fun _ _ ht => ht.1))
  · exact State.does_of rfl (settled_does hOnTime (command_does hTakes ((h 0 rfl).mono fun _ _ ht => ht)))
  · exact State.does_of rfl (settled_does hOnTime (command_does hTakes ((h 0 rfl).mono fun _ _ ht => ht)))

/-- Settles O52: each request by the state it meets and by what refuses it. -/
theorem powerRequestsSetTheState : Obligations.PowerRequestsSetTheState := by
  intro s who busy hTakes hCalm
  obtain ⟨hOnTime, hQuiet⟩ := State.calm_iff.mp hCalm
  refine ⟨fun hState hStill hDead h hDoms => powerRequestRun_wakes hTakes hCalm hState hStill hDead h hDoms, fun hRun hFree => ?_,
    fun hState hFree hRest hSaves => ?_, fun hDeep hOff hFree hRest hStray hSaves => ?_, fun hFree => ?_, fun hStill hRun => ?_, fun key hKey => ?_,
    fun c target hc => ⟨fun hCode => ?_, fun r hCode hRefused => ?_⟩⟩
  · refine State.does_of rfl (command_does hTakes (Act.Does.get_bind (Act.Does.ite (fun h => absurd h (by rw [hRun]; decide)) fun _ => ?_)))
    rw [hFree]
    exact Act.Does.bind (Act.Does.get_bind (Act.Does.ite (fun _ => Act.Does.make (Q := fun _ t => t = s.upd (.power { s.power with
      state := .idle, entryTime := s.fullTime, entryNs := s.ns, doms := [] })) rfl) fun hNot => absurd rfl hNot)) fun _ t ht =>
      Act.Does.pure ⟨by rw [ht]; rfl, by simp, by rw [ht]; rfl⟩
  · refine request_enters hTakes hCalm rfl (by decide) ?_ hFree hRest (fun h => by cases h) hSaves
    rcases hState with hIs | hIs
    · rw [hIs]; decide
    · rw [hIs]; decide
  · refine request_enters hTakes hCalm rfl (by decide) ?_ hFree hRest (fun _ => hStray) hSaves
    revert hDeep hOff
    cases s.power.state <;> decide
  · refine State.does_of rfl (command_does hTakes (Act.Does.get_bind (Act.Does.ite (fun _ => ?_) fun hNot => absurd rfl hNot)))
    rw [hFree]
    exact enterOff_does.bind fun _ t ht => Act.Does.pure ⟨ht.off, by simp⟩
  · refine State.does_of rfl (settled_does hOnTime (command_does hTakes (Act.Does.get_bind (Act.Does.ite (fun h => absurd h (by
      simp [hStill, hRun])) fun _ => Act.Does.pure ⟨⟨rfl, by simp⟩, hQuiet⟩))))
  · have hKey' : key.toNat ≠ 0x0FF0 := fun h => hKey (BitVec.eq_of_toNat_eq h)
    exact State.does_of rfl (command_does hTakes (Act.Does.get_bind (Act.Does.ite (fun h => absurd h hKey') fun _ => Act.Does.pure ⟨rfl, by simp⟩)))
  · refine request_does hTakes hCalm hc fun b _ => (requestState_rests hCode).mono ?_
    rintro _ _ ⟨rfl, rfl⟩
    exact ⟨⟨rfl, by simp⟩, hQuiet⟩
  · refine request_does hTakes hCalm hc fun b hb => (requestState_refused hCode (hb.trans hRefused)).mono ?_
    rintro _ t ⟨rfl, ht⟩
    exact ⟨ht.refused, (State.quiet_of_sameBut ht.same (by decide)).trans hQuiet⟩

end Sys2Proof.Machine

/-!
PROOF. Transform tables are loaded and committed; alignment excludes streams (R296, R297, R305, R307).
-/
namespace Sys2Proof.Machine

variable {s t u : State} {who : Who} {va n : Nat}

/-! ## LOAD -/

/-- The address that two words hold. -/
theorem address_of_words (h : va < 2 ^ 48) : (Word.ofNat va).toNat + va / 2 ^ 32 % 2 ^ 16 * 2 ^ 32 = va := by
  have hLow : (Word.ofNat va).toNat = va % 2 ^ 32 := by simp [Word.ofNat, BitVec.toNat_ofNat]
  rw [hLow]
  omega

theorem lt_of_regionAt (h : regionAt va = some .basin ∨ regionAt va = some .psram) : va < 2 ^ 48 := by
  by_contra hNot
  have h1 : ¬va < 0x2000_0000 := by omega
  have h2 : ¬va < 0x8100_0000 := by omega
  have h3 : ¬va < 0xA100_0000 := by omega
  have h4 : ¬va < 0x16_0000_0000 := by omega
  have h5 : ¬va < 0x180_0000_0000 := by omega
  have h6 : ¬va < 0x7F00_0100_0000 := by omega
  simp [regionAt, h1, h2, h3, h4, h5, h6] at h

theorem Act.Does.modGrid_bind {β : Type} {f : Unit → Act β} {R : β → State → Prop} {g : Grid → Grid}
    (h : (f ()).Does (s.upd (.grid (g s.grid))) R) : (Act.modGrid g >>= f).Does s R := fun k => h k

/-- A table read from tier memory while context 1,023 has no page tables (log entry 12). -/
theorem readTable_does (hMapped : (s.ctx 1023).mapped = false) (hRegion : regionAt va = some .basin ∨ regionAt va = some .psram)
    (hSound : s.sound va 128) : (readTable va).Does s fun r t => r = .bytes (s.peek va 128) ∧ t = s := by
  refine Act.Does.get_bind (Act.Does.ite (fun h => absurd h (by simp [hMapped])) fun _ => ?_)
  rcases hRegion with hRegion | hRegion
  all_goals
    rw [hRegion]
    refine (readTier_does va 128 hSound).bind ?_
    rintro _ t ⟨rfl, rfl⟩
    exact Act.Does.pure ⟨rfl, rfl⟩

theorem sameReach_gridTab (s : State) (who : Who) (v w : Word) :
    s.SameReach ((s.upd (.reg (Reg.off .gridTabLo who.val 0) v)).upd (.reg (Reg.off .gridTabHi who.val 0) w)) := by
  have hWho : who.val < 9 := who.isLt
  refine (s.sameReach_upd_reg v (fun i hi => ?_) ?_).trans (State.sameReach_upd_reg _ w (fun i hi => ?_) ?_)
  all_goals
    simp [Reg.off, Reg.row, reachRegs]
    omega

theorem gridLoad_does (hTakes : s.takes who .gridTabCmd who.val) (hn : n < 256) (hMapped : (s.ctx 1023).mapped = false)
    (hRegion : regionAt va = some .basin ∨ regionAt va = some .psram) (hSound : s.sound va 128) :
    s.does (.gridLoad who n va) fun t => t = { s with grid := t.grid, regs := t.regs, bus := t.bus } ∧
      t.grid = { s.grid with tables := s.grid.tables.put n { s.grid.tables.at n {} with shadow := s.peek va 128 } } ∧
      t.rf .gridTabStatus who.val 7 0 = Code.ok ∧ t.answered who Code.ok := by
  refine State.does_of rfl (command_does hTakes (Act.Does.reg_bind (Act.Does.reg_bind ?_)))
  rw [Nat.mod_eq_of_lt hn]
  have hReach := sameReach_gridTab s who (Word.ofNat va) (Word.ofNat (va / 2 ^ 32 % 2 ^ 16))
  have hAddr : (((s.upd (.reg (Reg.off .gridTabLo who.val 0) (Word.ofNat va))).upd (.reg (Reg.off .gridTabHi who.val 0)
      (Word.ofNat (va / 2 ^ 32 % 2 ^ 16)))).rg .gridTabLo who.val).toNat + ((s.upd (.reg (Reg.off .gridTabLo who.val 0) (Word.ofNat va))).upd
      (.reg (Reg.off .gridTabHi who.val 0) (Word.ofNat (va / 2 ^ 32 % 2 ^ 16)))).rf .gridTabHi who.val 15 0 * 2 ^ 32 = va := by
    have hOther : Reg.off .gridTabLo who.val 0 ≠ Reg.off .gridTabHi who.val 0 := by
      simp only [Reg.off, Reg.row]
      omega
    rw [State.rg_upd_reg_other _ _ _ _ _ _ hOther, State.rg_upd_reg, State.rf, State.rg_upd_reg]
    have hHigh : field (Word.ofNat (va / 2 ^ 32 % 2 ^ 16)) 15 0 = va / 2 ^ 32 % 2 ^ 16 := by
      simp only [field, Word.ofNat, BitVec.toNat_ofNat]
      omega
    rw [hHigh]
    exact address_of_words (lt_of_regionAt hRegion)
  generalize hu : (s.upd (.reg (Reg.off .gridTabLo who.val 0) (Word.ofNat va))).upd (.reg (Reg.off .gridTabHi who.val 0)
      (Word.ofNat (va / 2 ^ 32 % 2 ^ 16))) = u at hReach hAddr ⊢
  have hSame : u = { s with regs := u.regs } := hu ▸ rfl
  refine Act.Does.get_bind ?_
  rw [hAddr]
  refine Act.Does.bind (Q := fun r t => r = true ∧ t = { s with grid := t.grid, regs := t.regs } ∧
    t.grid = { s.grid with tables := s.grid.tables.put n { s.grid.tables.at n {} with shadow := s.peek va 128 } } ∧
    t.rf .gridTabStatus who.val 7 0 = Code.ok) ?_ ?_
  · have hRead : (readTable va).Does u fun r t => r = .bytes (s.peek va 128) ∧ t = u := by
      have hPeek : s.peek va 128 = u.peek va 128 := by rw [hSame]; rfl
      have hMapped' : (u.ctx 1023).mapped = false := by rw [hSame]; exact hMapped
      rw [hPeek]
      exact readTable_does hMapped' hRegion (hReach.sound hSound)
    refine hRead.bind ?_
    rintro _ t ⟨rfl, rfl⟩
    refine Act.Does.modGrid_bind (Act.Does.regField_bind (Act.Does.pure ⟨rfl, ?_, ?_, State.rf_setField_same _ (by decide)⟩))
    · rw [hSame]
      rfl
    · rw [hSame]
      rfl
  · rintro _ t ⟨rfl, hState, hGrid, hStatus⟩
    refine Act.Does.ite (fun h => absurd h (by decide)) fun _ => Act.Does.pure ⟨?_, hGrid, hStatus, by simp⟩
    rw [hState]
    rfl

/-! ## COMMIT -/

/-- A table once its shadow is committed. -/
def GridTable.committed (x : GridTable) : GridTable := { x with active := x.shadow, gen := (x.gen + 1) % 65536, valid := true }

/-- The tables once `k` of them, from `n` on, are committed. -/
def committedTo (g : Grid) (n k i : Nat) : GridTable :=
  if n ≤ i ∧ i < n + k then (g.tables.at i {}).committed else g.tables.at i {}

theorem committedTo_succ (g : Grid) (n k i : Nat) : committedTo g n (k + 1) i =
    if i = n + k then (committedTo g n k i).committed else committedTo g n k i := by
  by_cases hi : i = n + k
  · rw [if_pos hi, committedTo, committedTo, if_pos (by omega), if_neg (by omega)]
  · have hIff : (n ≤ i ∧ i < n + (k + 1)) ↔ (n ≤ i ∧ i < n + k) := by omega
    simp only [committedTo, hIff, if_neg hi]

theorem commitLoop_does (s : State) (n k : Nat) : (forIn ((List.range k).map (n + ·)) PUnit.unit fun i _ => do
      Act.modGrid fun g =>
        let x := g.tables.at i {}
        { g with tables := g.tables.put i { x with active := x.shadow, gen := (x.gen + 1) % 65536, valid := true } }
      pure (ForInStep.yield PUnit.unit) : Act PUnit).Does s fun _ t => t = { s with grid := t.grid } ∧
        t.grid.queue = s.grid.queue ∧ t.grid.running = s.grid.running ∧ ∀ i, t.grid.tables.at i {} = committedTo s.grid n k i := by
  rw [List.forIn_map]
  refine (Act.Does.forIn_range (I := fun j _ t => t = { s with grid := t.grid } ∧
    t.grid.queue = s.grid.queue ∧ t.grid.running = s.grid.running ∧ ∀ i, t.grid.tables.at i {} = committedTo s.grid n j i)
    ⟨rfl, rfl, rfl, fun i => ?_⟩ fun j hj _ t ht => ?_).mono fun _ _ h => h
  · rw [committedTo, if_neg (by omega)]
  · obtain ⟨hState, hQueue, hRunning, hTables⟩ := ht
    refine Act.Does.modGrid_bind (Act.Does.pure ⟨_, rfl, ?_, hQueue, hRunning, fun i => ?_⟩)
    · rw [hState]
      rfl
    · change (t.grid.tables.put (n + j) (t.grid.tables.at (n + j) {}).committed).at i {} = _
      rw [committedTo_succ]
      split
      · next h => rw [h, Sparse.at_put_same, hTables]
      · next h => rw [Sparse.at_put_other _ _ _ h, hTables]

theorem gridCommit_does {m : Nat} (hTakes : s.takes who .gridTabCmd who.val) (hn : n < 256) (hm : m < 256)
    (hFit : n + (m + 1) ≤ 256) (hOk : ∀ i, i ≤ m → tableOk (s.grid.tables.at (n + i) {}).shadow = true) :
    s.does (.gridCommit who n m) fun t => t = { s with grid := t.grid, regs := t.regs, bus := t.bus } ∧
      (∀ i, t.grid.tables.at i {} = if n ≤ i ∧ i ≤ n + m then (s.grid.tables.at i {}).committed else s.grid.tables.at i {}) ∧
      t.grid.queue = s.grid.queue ∧ t.grid.running = s.grid.running ∧
      t.rf .gridTabStatus who.val 7 0 = Code.ok ∧ t.answered who Code.ok := by
  refine State.does_of rfl (command_does hTakes (Act.Does.get_bind ?_))
  rw [Nat.mod_eq_of_lt hn, Nat.mod_eq_of_lt hm]
  refine Act.Does.ite (fun hNot => ?_) fun _ => (commitLoop_does s n (m + 1)).bind ?_
  · refine absurd hNot ?_
    simp only [Bool.or_eq_true, decide_eq_true_eq, Bool.not_eq_true', List.all_eq_false, not_or, not_lt, not_exists, not_and]
    refine ⟨hFit, fun i hi => ?_⟩
    obtain ⟨j, hj, rfl⟩ := List.mem_map.mp hi
    exact not_not.mpr (hOk j (Nat.lt_succ_iff.mp (List.mem_range.mp hj)))
  · rintro _ t ⟨hState, hQueue, hRunning, hTables⟩
    refine Act.Does.regField_bind (Act.Does.pure ⟨?_, fun i => (hTables i).trans ?_, hQueue, hRunning, ?_, by simp⟩)
    · rw [hState]
      rfl
    · simp only [committedTo, Nat.lt_succ_iff, ← Nat.add_assoc]
    · exact State.rf_setField_same _ (by decide)

theorem gridCommit_refused {m : Nat} (hTakes : s.takes who .gridTabCmd who.val) (hn : n < 256) (hm : m < 256)
    (hNot : ¬(n + (m + 1) ≤ 256 ∧ ∀ i, i ≤ m → tableOk (s.grid.tables.at (n + i) {}).shadow = true)) :
    s.does (.gridCommit who n m) fun t => t = { s with regs := t.regs, bus := t.bus } ∧
      t.rf .gridTabStatus who.val 7 0 = Code.faultXlat ∧ t.answered who Code.ok := by
  refine State.does_of rfl (command_does hTakes (Act.Does.get_bind ?_))
  rw [Nat.mod_eq_of_lt hn, Nat.mod_eq_of_lt hm]
  refine Act.Does.ite (fun _ => Act.Does.regField_bind (Act.Does.pure ⟨rfl, State.rf_setField_same _ (by decide), by simp⟩)) fun hOk => ?_
  refine absurd ?_ hNot
  simp only [Bool.or_eq_true, decide_eq_true_eq, Bool.not_eq_true', List.all_eq_false, not_or, not_lt, not_exists, not_and, not_not] at hOk
  obtain ⟨hFit, hAll⟩ := hOk
  exact ⟨hFit, fun i hi => hAll _ (List.mem_map.mpr ⟨i, List.mem_range.mpr (Nat.lt_succ_of_le hi), rfl⟩)⟩

/-! ## Alignment -/

/-- A delta of less than 2^30 ns is its own word. -/
theorem alignWord_self {v : Word} (h : (signed 31 (field v 30 0)).natAbs < 2 ^ 30) :
    alignWord (signed 31 (field v 30 0)) (flag v 31) = v := by
  have hClamp : max (-(2 ^ 30 - 1)) (min (2 ^ 30 - 1) (signed 31 (field v 30 0))) = signed 31 (field v 30 0) := by omega
  rw [alignWord]
  simp only [hClamp]
  refine BitVec.eq_of_getLsbD_eq fun i hi => ?_
  change flag _ i = flag v i
  rw [flag_setField _ _ _ _ hi]
  split
  · next hIs =>
    obtain rfl : i = 31 := by omega
    exact testBit_b2n _
  · next hIs =>
    have hLow : i < 31 := by omega
    have hWord : BitVec.ofInt 32 (signed 31 (field v 30 0)) = (BitVec.ofNat 31 (field v 30 0)).signExtend 32 := rfl
    rw [hWord, flag, BitVec.getLsbD_signExtend]
    simp only [hLow, hi, if_true, decide_true, Bool.true_and, BitVec.getLsbD_ofNat, testBit_field, Nat.add_zero]

theorem alignDelta_trig {q : Fin 64} {v : Word} (hTakes : s.takes who .gridAlignDelta q.val)
    (hTrig : flag (s.rg .gridAlignCfg q.val) 1 = true) :
    s.does (.alignDeltaWrite who q v) fun t => t = { s with bus := t.bus } ∧ t.answered who Code.ok := by
  refine State.does_of rfl (command_does hTakes (Act.Does.get_bind (Act.Does.ite (fun h => absurd h (by simp [hTrig])) fun _ => ?_)))
  exact Act.Does.pure ⟨rfl, by simp⟩

theorem Reg.off_gridAlignCfg_ne (q : Fin 64) : Reg.off .gridAlignCfg q.val 0 ≠ Reg.off .gridAlignDelta q.val 0 := by
  simp only [Reg.off, Reg.row]
  omega

theorem Reg.off_gridAlignPeriod_ne (q : Fin 64) : Reg.off .gridAlignPeriod q.val 0 ≠ Reg.off .gridAlignDelta q.val 0 := by
  simp only [Reg.off, Reg.row]
  omega

theorem excluded_of_rg {q : Nat} (hLo : t.rg .gridExclLo = s.rg .gridExclLo) (hHi : t.rg .gridExclHi = s.rg .gridExclHi) :
    t.excluded q = s.excluded q := by
  simp only [State.excluded, hLo, hHi]

theorem excluded_upd_reg {q o : Nat} (w : Word) (hLo : Reg.off .gridExclLo 0 0 ≠ o) (hHi : Reg.off .gridExclHi 0 0 ≠ o) :
    (s.upd (.reg o w)).excluded q = s.excluded q :=
  excluded_of_rg (State.rg_upd_reg_other _ _ _ _ _ _ hLo) (State.rg_upd_reg_other _ _ _ _ _ _ hHi)

/-- What a write of a delta comes to in SOFT mode. -/
theorem alignDelta_does {q : Fin 64} {v : Word} {Q : State → Prop} (hTakes : s.takes who .gridAlignDelta q.val)
    (hSoft : flag (s.rg .gridAlignCfg q.val) 1 = false) (hNear : (signed 31 (field v 30 0)).natAbs < 2 ^ 30)
    (h : ∀ u, u = s.upd (.reg (Reg.off .gridAlignDelta q.val 0) v) → u.rg .gridAlignDelta q.val = v →
      u.rg .gridAlignCfg q.val = s.rg .gridAlignCfg q.val → u.rg .gridAlignPeriod q.val = s.rg .gridAlignPeriod q.val →
      u.excluded q.val = s.excluded q.val → (alignCheck q.val).Does u fun _ t => Q (t.upd (.bus who.val ⟨Code.ok, 0⟩))) :
    s.does (.alignDeltaWrite who q v) Q := by
  have hq : q.val < 64 := q.isLt
  refine State.does_of rfl (command_does hTakes (Act.Does.get_bind (Act.Does.ite (fun _ => ?_) fun hNot => absurd (by simp [hSoft]) hNot)))
  refine Act.Does.reg_bind ?_
  rw [alignWord_self hNear]
  refine (h _ rfl (State.rg_upd_reg _ _ _ _ _) (State.rg_upd_reg_other _ _ _ _ _ _ (Reg.off_gridAlignCfg_ne q))
    (State.rg_upd_reg_other _ _ _ _ _ _ (Reg.off_gridAlignPeriod_ne q)) (excluded_upd_reg v ?_ ?_)).bind fun _ t ht => Act.Does.pure ht
  all_goals
    simp only [Reg.off, Reg.row]
    omega

theorem alignDelta_kept {q : Fin 64} {v : Word} (hTakes : s.takes who .gridAlignDelta q.val)
    (hSoft : flag (s.rg .gridAlignCfg q.val) 1 = false) (hNear : (signed 31 (field v 30 0)).natAbs < 2 ^ 30)
    (hIn : flag (s.rg .gridAlignCfg q.val) 0 = false ∨ (s.excluded q.val = false ∧
      (signed 31 (field v 30 0)).natAbs ≤ (s.rg .gridAlignPeriod q.val).toNat ∧ flag v 31 = true)) :
    s.does (.alignDeltaWrite who q v) fun t => t = { s with regs := t.regs, bus := t.bus } ∧ t.rg .gridAlignDelta q.val = v ∧
      regsBut s t [Reg.off .gridAlignDelta q.val 0] ∧ t.answered who Code.ok := by
  refine alignDelta_does hTakes hSoft hNear fun u hu hDelta hCfg hPeriod hExcl => ?_
  have hDone : (alignCheck q.val).Does u fun _ t => t = u := by
    refine Act.Does.get_bind ?_
    rw [hCfg, hDelta, hPeriod, hExcl]
    refine Act.Does.ite (fun hOn => ?_) fun _ => Act.Does.pure rfl
    obtain ⟨hNotExcl, hPer, hLocked⟩ := hIn.resolve_left (by simp [hOn])
    refine Act.Does.ite (fun hOut => absurd hOut ?_) fun _ => Act.Does.ite (fun h => absurd h (by simp [hNotExcl])) fun _ =>
      Act.Does.pure rfl
    simp [hLocked, hPer]
  refine hDone.mono ?_
  rintro _ t rfl
  refine ⟨?_, hDelta, fun o ho => ?_, by simp⟩
  · rw [hu]
    rfl
  · rw [hu]
    exact State.find_upd_reg_other s v (by simpa using ho)

theorem setExcluded_does (q : Fin 64) : (setExcluded q.val true).Does s fun _ t => t = { s with regs := t.regs } ∧
    t.excluded q.val = true ∧ ∀ o, o ≠ Reg.off .gridExclLo 0 0 → o ≠ Reg.off .gridExclHi 0 0 → t.regs.find o = s.regs.find o := by
  have hq : q.val < 64 := q.isLt
  refine Act.Does.ite (fun hLow => ?_) fun hHigh => ?_
  · refine fun k => ⟨(), _, ⟨rfl, ?_, fun o hLo _ => State.find_upd_reg_other s _ hLo⟩, rfl⟩
    rw [State.excluded, if_pos hLow, State.rg_upd_reg]
    exact flag_setField_same _ _ hLow
  · refine fun k => ⟨(), _, ⟨rfl, ?_, fun o _ hHi => State.find_upd_reg_other s _ hHi⟩, rfl⟩
    rw [State.excluded, if_neg hHigh, State.rg_upd_reg]
    exact flag_setField_same _ _ (by omega)

theorem alignDelta_out {q : Fin 64} {v : Word} (hTakes : s.takes who .gridAlignDelta q.val)
    (hSoft : flag (s.rg .gridAlignCfg q.val) 1 = false) (hNear : (signed 31 (field v 30 0)).natAbs < 2 ^ 30)
    (hOn : flag (s.rg .gridAlignCfg q.val) 0 = true) (hIn : s.excluded q.val = false)
    (hOut : (s.rg .gridAlignPeriod q.val).toNat < (signed 31 (field v 30 0)).natAbs ∨ flag v 31 = false) :
    s.does (.alignDeltaWrite who q v) fun t => t.rg .gridAlignDelta q.val = v ∧ t.excluded q.val = true ∧
      (t.rg .gridStat).toNat = min (2 ^ 32 - 1) ((s.rg .gridStat).toNat + 1) ∧
      t.faults.seq = (s.faults.seq + 1) % 2 ^ 32 ∧ t.mem = s.mem ∧ t.answered who Code.ok := by
  have hq : q.val < 64 := q.isLt
  refine alignDelta_does hTakes hSoft hNear fun u hu hDelta hCfg hPeriod hExcl => ?_
  refine Act.Does.get_bind ?_
  rw [hCfg, hDelta, hPeriod, hExcl]
  refine Act.Does.ite (fun _ => ?_) fun h => absurd hOn h
  refine Act.Does.ite (fun _ => ?_) fun hNot => absurd (by simpa [hIn] using hOut) hNot
  refine (setExcluded_does q).bind fun _ x hx => ?_
  obtain ⟨hState, hMarked, hRegs⟩ := hx
  refine Act.Does.countSat_bind (Act.Does.modGrid_bind ((fault_gives _ _).does.bind fun _ t ht => Act.Does.pure ?_))
  have hStat : x.rg .gridStat = s.rg .gridStat := by
    refine (State.rg_eq_of_find (hRegs _ (by simp [Reg.off, Reg.row]) (by simp [Reg.off, Reg.row]))).trans ?_
    rw [hu]
    refine State.rg_upd_reg_other _ _ _ _ _ _ ?_
    simp only [Reg.off, Reg.row]
    omega
  have hDeltaOff : Reg.off .gridAlignDelta q.val 0 ∉ recordRegs ∧ Reg.off .gridAlignDelta q.val 0 ∉ [Reg.off .gridStat 0 0,
      Reg.off .gridExclLo 0 0, Reg.off .gridExclHi 0 0] := by
    simp [Reg.off, Reg.row, recordRegs]
    omega
  simp only [List.mem_cons, List.not_mem_nil, or_false, not_or] at hDeltaOff
  obtain ⟨hNoRecord, hNoStat, hNoLo, hNoHi⟩ := hDeltaOff
  refine ⟨?_, ?_, ?_, ?_, ?_, by simp⟩
  · exact (ht.rg hNoRecord).trans ((State.rg_upd_reg_other _ _ _ _ _ _ hNoStat).trans ((State.rg_eq_of_find (hRegs _ hNoLo hNoHi)).trans hDelta))
  · refine (excluded_of_rg (ht.rg (by decide)) (ht.rg (by decide))).trans ((excluded_upd_reg _ (by decide) (by decide)).trans hMarked)
  · have hCount : t.rg .gridStat = _ := (ht.rg (by decide)).trans (State.rg_upd_reg x _ _ _ _)
    change (t.rg .gridStat).toNat = _
    rw [hCount, ← hStat]
    exact toNat_countSat _
  · refine ht.seq.trans ?_
    change (x.faults.seq + 1) % 2 ^ 32 = _
    rw [hState, hu]
    rfl
  · refine ht.mem.trans ?_
    change x.mem = _
    rw [hState, hu]
    rfl

/-- Settles O36: a shadow takes the 128 bytes read, tables are committed all or none, and a delta out of step excludes its stream. -/
theorem tablesAndAlignment : Obligations.TablesAndAlignment := by
  refine ⟨fun s who hTakes => ⟨fun n va hn hMapped hRegion hSound => gridLoad_does hTakes hn hMapped hRegion hSound, fun n m hn hm => ⟨?_, ?_⟩⟩,
    fun s who q v hTakes => ⟨alignDelta_trig hTakes, fun hSoft hNear => ⟨alignDelta_kept hTakes hSoft hNear, alignDelta_out hTakes hSoft hNear⟩⟩⟩
  · rintro ⟨hFit, hOk⟩
    exact gridCommit_does hTakes hn hm hFit hOk
  · exact gridCommit_refused hTakes hn hm

end Sys2Proof.Machine

/-!
PROOF. The Gridder's requests: a state in which one does not complete (R294, R295, R470).
-/
namespace Sys2Proof.Machine

/-- The PSRAM tile that holds the level-2 table of context 1, and the output of its request. -/
def tableBase : Nat := psramBase + 301 * 65536

/-- The page-table entry of PSRAM tile `n`, which may be written. -/
def entryOf (n : Nat) : Nat := psramBase + n * 65536 + 3

/-- A SCATTER of one point, which is not a number, from page 1 into one element of page 2, with its result in page 4. The
element ends where the entry of page 4 begins. -/
def onePoint : GridReq :=
  { who := 1, ctx := 1, started := true, desc := bytesOf 128 (pack [(0x1_0000, 64), (0x2_001C, 128), (0x4_0000, 192), (1, 256)]) }

/-- The TLB entry of a page at the Gridder's stop. -/
def gridPage (page n : Nat) : TlbEntry :=
  { stop := Stop.grid, ctx := 1, page, leaf := BitVec.ofNat 64 (entryOf n), dirtied := true }

/-- Memory with the point and the entries of pages 1, 2 and 4. -/
def pointMemory : List Host.Cell :=
  [(psramBase + 300 * 65536, bytesOf 4 0x7FC00000), (tableBase + 8, bytesOf 8 (entryOf 300)), (tableBase + 16, bytesOf 8 (entryOf 301)),
    (tableBase + 32, bytesOf 8 (entryOf 302))].foldl (fun m x => Memory.store 0 m x.1 x.2) []

/-- The request runs, and an inversion is armed for the word that holds the element and the low half of the entry of page 4:
three bits, which the code takes for one, so that the entry reads as one that a migration holds (R216). -/
def armedAcross : State :=
  { State.reset with
    grid := { running := some onePoint }
    mem := pointMemory
    xlat := { tlb := [gridPage 1 300, gridPage 2 301, gridPage 4 302], walk := [(1, 0, tableBase)] }
    faults := { inject := some (tableBase + 28, BitVec.ofNat 72 (2 ^ 36 + 2 + 1)) } }

/-- The request ends still running: its result word waits. -/
def stillRuns : Host.Outcome State Fault Refusal → Bool
  | .next t => t.grid.running.isSome
  | _ => false

theorem armedAcross_stillRuns : stillRuns (exec (.gridRequestComplete false) armedAcross) = true := by decide +kernel

theorem armedAcross_sound {pa n : Nat} (h : armedAcross.gone pa = false ∧ armedAcross.flashLost pa = false ∧ armedAcross.lostTile pa = false) :
    armedAcross.sound pa n := ⟨fun _ hf => absurd hf List.not_mem_nil, h⟩

/-- An access of page `p` of `armedAcross`, in tile `n`, passes at the Gridder's stop. -/
theorem armedAcross_passes (p n : Nat) {va pa : Nat} {write : Bool} (hPage : va / 65536 = p ∧ va / 2 ^ 29 = 0)
    (hFind : armedAcross.xlat.tlb.find? (fun e => e.stop = Stop.grid && e.ctx = 1 && e.page = va / 65536) = some (gridPage p n))
    (hOut : armedAcross.leafOutcome (gridVia 1) va (entryOf n) write = .ok pa)
    (hEntry : (gridPage p n).leaf.toNat = entryOf n ∧ armedAcross.peekNat (tableBase + p * 8) 8 = entryOf n ∧
      leafOk (entryOf n) = true ∧ flag (BitVec.ofNat 64 (entryOf n)) 2 = false)
    (hPlace : p < 8192 ∧ regionAt (tableBase + p * 8) = some .psram ∧ armedAcross.backed (tableBase + p * 8) = true)
    (hSound : armedAcross.sound (tableBase + p * 8) 8) : armedAcross.passes (gridVia 1) va write pa (tableBase + p * 8) := by
  obtain ⟨hIs, hRoot⟩ := hPage
  obtain ⟨hLeaf, hPeek, hOk, hNotPinned⟩ := hEntry
  obtain ⟨hLow, hRegion, hBacked⟩ := hPlace
  have hTag : (armedAcross.tagAt pa).1 = Tag.live := by
    simp only [State.tagAt, armedAcross, Sparse.at, Sparse.find]
    split <;> simp [field]
  refine ⟨⟨by omega, rfl, _, hFind, by rw [hLeaf]; exact hOut, fun _ => ⟨rfl, by rw [hTag]; decide, fun _ => rfl⟩⟩, _,
    ⟨(1, 0, tableBase), ?_, ?_, .inr ⟨hRegion, hBacked⟩, hSound, hPeek, hOk, hNotPinned⟩, hOut, ?_⟩
  · rw [hRoot]
    rfl
  · rw [hIs, Nat.mod_eq_of_lt hLow]
  · simp [State.retraining, armedAcross, State.reset, Sparse.at]

/-- Refutes O35: nothing in the statement keeps an armed inversion to a word that lies within one entry. -/
theorem not_gridRequestsRun : ¬ Obligations.GridRequestsRun := by
  intro h
  have hPoint : armedAcross.sees Stop.grid 1 (daddr onePoint.desc 8) (16 * onePoint.total) (armedAcross.peek (psramBase + 300 * 65536) 16) :=
    ⟨by decide +kernel, by decide +kernel, psramBase + 300 * 65536, by decide +kernel, armedAcross_sound (by decide +kernel), by decide +kernel⟩
  obtain ⟨t, hExec, hGrid, -⟩ := (h armedAcross (by decide +kernel)).2.2 onePoint (armedAcross.peek (psramBase + 300 * 65536) 16)
    (psramBase + 300 * 65536) (tableBase + 28) (psramBase + 302 * 65536) (tableBase + 8) (tableBase + 16) (tableBase + 32)
    rfl (by decide +kernel) rfl (by decide +kernel) hPoint
    (armedAcross_passes 1 300 (by decide) (by decide +kernel) (by decide +kernel) (by decide +kernel) (by decide +kernel) (armedAcross_sound (by decide +kernel)))
    (armedAcross_passes 2 301 (by decide) (by decide +kernel) (by decide +kernel) (by decide +kernel) (by decide +kernel) (armedAcross_sound (by decide +kernel)))
    (armedAcross_passes 4 302 (by decide) (by decide +kernel) (by decide +kernel) (by decide +kernel) (by decide +kernel) (armedAcross_sound (by decide +kernel)))
    (by decide +kernel) (by decide +kernel) (by decide +kernel) (by decide +kernel)
    (by unfold apart; decide +kernel) (by unfold apart; decide +kernel)
  have hRuns := armedAcross_stillRuns
  rw [hExec] at hRuns
  simp [stillRuns, hGrid] at hRuns

end Sys2Proof.Machine

/-!
PROOF. The levels of Locks, and the waits that they end (R196 to R203).
-/
namespace Sys2Proof.Machine

variable {s t : State} {who : Who} {n : Nat}

/-! ## Waits that end together -/

/-- The elements erased one by one. -/
theorem foldl_erase_filter {α : Type} [DecidableEq α] (p : α → Bool) : ∀ l : List α, (l.filter p).foldl List.erase l = l.filter fun x => !p x
  | [] => rfl
  | x :: l => by
    have hKept (m : List α) (hm : ∀ y ∈ m, p y = true) (hx : p x = false) : ∀ l' : List α, m.foldl List.erase (x :: l') = x :: m.foldl List.erase l' := by
      induction m with
      | nil => exact fun _ => rfl
      | cons y m ih =>
        intro l'
        have hy : x ≠ y := fun e => by simp [← e, hx] at hm
        rw [List.foldl_cons, List.foldl_cons, List.erase_cons_tail (by simpa using hy)]
        exact ih (fun z hz => hm z (List.mem_cons_of_mem _ hz)) _
    cases hp : p x with
    | true =>
      rw [List.filter_cons_of_pos hp, List.foldl_cons, List.erase_cons_head, List.filter_cons_of_neg (by simp [hp])]
      exact foldl_erase_filter p l
    | false =>
      rw [List.filter_cons_of_neg (by simp [hp]), List.filter_cons_of_pos (by simp [hp]), hKept _ (fun y hy => List.of_mem_filter hy) hp]
      exact congrArg (x :: ·) (foldl_erase_filter p l)

/-- What waits that end well leave: of the wait table those that did not end, and a quiet device. -/
structure State.WaitsEnded (s : State) (ws : List LWait) (t : State) : Prop where
  waits : t.waits = ws
  same : s.SameBut waitFields t
  quiet : t.quiet = true

theorem writes_endWait (w : LWait) (code : Nat) (torn : Option Nat) : (endWait w code torn).Writes waitFields := by
  refine writes_get_bind fun s => writes_make_bind (by simp [waitFields]) ?_
  split
  · exact (writes_endArmed _ w code torn).mono (by decide)
  · exact writes_bind (by simp [waitFields, outcomeFields]) fun _ => (writes_copyOutcome _ code).mono (by decide)
  · split
    · simp [waitFields, outcomeFields]
    · simp

theorem endWait_ended (w : LWait) {code : Nat} (hGood : Code.good code = true) (hQuiet : s.quiet = true) :
    (endWait w code).Does s fun _ t => s.WaitsEnded (s.waits.erase w) t :=
  (((writes_endWait w code none s).and (endWait_does w code none s)).and (staysQuiet_endWait w none hGood s hQuiet)).does.mono
    fun _ _ ht => ⟨ht.1.2.1, ht.1.1, ht.2⟩

/-- Of some waits those end that a condition names. -/
theorem endSome_does (p : LWait → Prop) [DecidablePred p] (code : LWait → Nat) : ∀ (l : List LWait) (s : State), s.quiet = true →
    (∀ w ∈ l, p w → Code.good (code w) = true) → (forIn l PUnit.unit fun w _ => do
      if p w then endWait w (code w)
      pure (ForInStep.yield PUnit.unit) : Act PUnit).Does s fun _ t =>
        s.WaitsEnded ((l.filter fun w => p w).foldl List.erase s.waits) t
  | [], s, hQuiet, _ => Act.Does.pure ⟨rfl, .refl _ s, hQuiet⟩
  | w :: l, s, hQuiet, hGood => by
    have hRest {t : State} {ws : List LWait} (ht : s.WaitsEnded ws t) := (endSome_does p code l t ht.quiet fun v hv =>
      hGood v (List.mem_cons_of_mem _ hv)).mono fun _ u hu => (⟨hu.waits, ht.same.trans hu.same, hu.quiet⟩ :
        s.WaitsEnded ((l.filter fun w => p w).foldl List.erase t.waits) u)
    by_cases hw : p w
    · rw [List.filter_cons_of_pos (by simpa using hw), List.foldl_cons]
      refine Act.Does.forIn_cons (P := s.WaitsEnded (s.waits.erase w)) ?_ fun t ht => ht.waits ▸ hRest ht
      refine Act.Does.ite (fun _ => ?_) fun h => absurd hw h
      exact (endWait_ended w (hGood w List.mem_cons_self hw) hQuiet).bind fun _ t ht => Act.Does.pure ⟨rfl, ht⟩
    · rw [List.filter_cons_of_neg (by simpa using hw)]
      refine Act.Does.forIn_cons (P := s.WaitsEnded s.waits) ?_ fun t ht => ht.waits ▸ hRest ht
      exact Act.Does.ite (fun h => absurd h hw) fun _ => Act.Does.pure ⟨rfl, rfl, .refl _ s, hQuiet⟩

/-! ## A Lock is settled -/

theorem good_arrival {d : Option Nat} (h : s.late d = false) : Code.good (s.arrival d) = true := by
  simp only [State.arrival, h, Bool.false_eq_true, if_false]
  split <;> rfl

theorem settle_does (n : Nat) (hQuiet : s.quiet = true) (hOnTime : ∀ w ∈ s.waits, s.late w.deadline = false) :
    (settle n).Does s fun _ t =>
      s.WaitsEnded (s.waits.filter fun w => !(w.lock = n && reached (s.lockAt n).level w.target)) t := by
  refine Act.Does.get_bind ((endSome_does (fun w => reached (s.lockAt n).level w.target = true) (fun w => s.arrival w.deadline)
    (s.waits.filter fun w => w.lock = n) s hQuiet fun w hw _ => good_arrival (hOnTime w (List.mem_of_mem_filter hw))).mono fun _ t ht => ?_)
  rw [List.filter_filter] at ht
  refine ⟨ht.waits.trans ((congrArg (List.foldl List.erase s.waits) (List.filter_congr fun w _ => ?_)).trans (foldl_erase_filter
    (fun w => decide (w.lock = n) && reached (s.lockAt n).level w.target) s.waits)), ht.same, ht.quiet⟩
  simp [Bool.and_comm]

theorem settle_idle (h : ∀ w ∈ s.waits, w.lock ≠ n) : (settle n).Does s fun _ t => t = s := by
  refine Act.Does.get_bind ?_
  rw [List.filter_eq_nil_iff.mpr fun w hw => by simpa using h w hw]
  exact Act.Does.pure rfl

/-! ## Operations on a Lock -/

/-- The level that an operation leaves. -/
def levelAfter : LockOp → Word → Word
  | .add _ _ v, l => l + v
  | .set _ _ v, _ => v

theorem lookup_lockCmd (who : Who) : Reg.lookup (Reg.off .lockCmd who.val 0) = some (.lockCmd, who.val, 0) := by
  revert who
  decide

/-- Whether an initiator may give Lock commands is for SYS_GRANT to say. -/
theorem lockAccess_of_grant (h : t.rg .sysGrant = s.rg .sysGrant) (who : Who) : t.lockAccess who = s.lockAccess who := by
  have hGranted (w : Nat) : t.granted w = s.granted w := by simp only [State.granted, h]
  have hOff : controlBase + Reg.off .lockCmd who.val 0 - controlBase = Reg.off .lockCmd who.val 0 := Nat.add_sub_cancel_left ..
  simp only [State.lockAccess, State.accessCode, hOff, lookup_lockCmd, hGranted]
  rfl

/-- What an accepted operation on an allocated Lock leaves. -/
structure State.Operated (s : State) (o : LockOp) (t : State) : Prop where
  state : t = { s with regs := t.regs, bus := t.bus, locks := t.locks }
  locks : t.locks = s.locks.put o.lock { s.lockAt o.lock with level := levelAfter o (s.lockAt o.lock).level }
  grant : t.rg .sysGrant = s.rg .sysGrant
  answered : t.answered o.who Code.ok

theorem sysGrant_lockRegs (who : Who) : Reg.off .sysGrant 0 0 ≠ Reg.off .lockStatus who.val 0 ∧ Reg.off .sysGrant 0 0 ≠ Reg.off .lockArg who.val 0 := by
  constructor <;> simp only [Reg.off, Reg.row] <;> omega

theorem lockOp_does (o : LockOp) (hAccess : s.lockAccess o.who = true) (hAlloc : (s.lockAt o.lock).alloc = true) :
    (lockOp o).Does s fun _ t => s.Operated o t := by
  obtain ⟨hStatus, hArg⟩ := sysGrant_lockRegs o.who
  refine Act.Does.get_bind (Act.Does.ite (fun _ => ?_) fun h => absurd hAccess h)
  rw [hAlloc]
  refine Act.Does.make_bind (Act.Does.regField_bind ?_)
  cases o with
  | add w m v =>
    refine Act.Does.reg_bind (Act.Does.ite (fun _ => ?_) fun h => absurd rfl h)
    refine fun k => ⟨(), _, ⟨rfl, rfl, ?_, by simp [State.answered, LockOp.who]⟩, rfl⟩
    exact (State.rg_upd_reg_other _ _ _ _ _ _ hArg).trans (State.rg_upd_reg_other _ _ _ _ _ _ hStatus)
  | set w m v =>
    refine Act.Does.reg_bind (Act.Does.ite (fun _ => ?_) fun h => absurd rfl h)
    refine fun k => ⟨(), _, ⟨rfl, rfl, ?_, by simp [State.answered, LockOp.who]⟩, rfl⟩
    exact (State.rg_upd_reg_other _ _ _ _ _ _ hArg).trans (State.rg_upd_reg_other _ _ _ _ _ _ hStatus)

/-- An operation on a Lock that is not allocated is refused. -/
theorem lockOp_refused (o : LockOp) (hAccess : s.lockAccess o.who = true) (hAlloc : (s.lockAt o.lock).alloc = false) :
    (lockOp o).Does s fun _ t => t = { s with regs := t.regs, bus := t.bus } ∧
      t.rg .lockStatus o.who.val = lockStatusAfter s o.who Code.faultXlat ∧ t.answered o.who Code.ok := by
  have hOther := Reg.off_lockStatus_ne_lockArg o.who.val
  refine Act.Does.get_bind (Act.Does.ite (fun _ => ?_) fun h => absurd hAccess h)
  rw [hAlloc]
  refine Act.Does.make_bind (Act.Does.regField_bind ?_)
  cases o with
  | add w m v =>
    refine Act.Does.reg_bind (Act.Does.ite (fun h => absurd h (by decide)) fun _ => ?_)
    refine Act.Does.pure ⟨rfl, (State.rg_upd_reg_other _ _ _ _ _ _ hOther).trans (State.rg_upd_reg _ _ _ _ _), by simp [State.answered, LockOp.who]⟩
  | set w m v =>
    refine Act.Does.reg_bind (Act.Does.ite (fun h => absurd h (by decide)) fun _ => ?_)
    refine Act.Does.pure ⟨rfl, (State.rg_upd_reg_other _ _ _ _ _ _ hOther).trans (State.rg_upd_reg _ _ _ _ _), by simp [State.answered, LockOp.who]⟩

/-- Up to four operations are one cycle. -/
theorem lockOps_cycle {Q : State → Prop} {ops : List LockOp} (hOne : (ops.length + 3) / 4 = 1) (hFour : ops.length ≤ 4)
    (h : (lockCycle ops).Does s fun _ t => Q t) : (lockOps ops).Does s fun _ t => Q t := by
  have hTake : (ops.drop (4 * 0)).take 4 = ops := List.take_of_length_le hFour
  unfold lockOps
  rw [hOne]
  refine Act.Does.forIn_one (c := 0) (b := PUnit.unit) (Q := fun _ t => Q t)
    (f := fun i _ => do lockCycle ((ops.drop (4 * i)).take 4); pure (.yield PUnit.unit)) ?_
  rw [hTake]
  exact h.bind fun _ t ht => Act.Does.pure ⟨_, rfl, ht⟩

/-- A cycle of one operation. -/
theorem lockOps_one {Q : State → Prop} (o : LockOp) (h : (do lockOp o; settle o.lock : Act Unit).Does s fun _ t => Q t) :
    (lockOps [o]).Does s fun _ t => Q t := by
  refine lockOps_cycle (by simp) (by simp) ?_
  cases o with
  | add w m v => exact h
  | set w m v => exact h

/-- A SET and two ADDs of one Lock that meet. -/
theorem lockOps_meet {Q : State → Prop} (a b c : Who) (m : Nat) (v x y : Word)
    (h : (do lockOp (.set b m v); lockOp (.add a m x); lockOp (.add c m y); settle (m % 8192) : Act Unit).Does s fun _ t => Q t) :
    (lockOps [.add a m x, .set b m v, .add c m y]).Does s fun _ t => Q t := by
  have hDedup : ([LockOp.add a m x, .set b m v, .add c m y].map LockOp.lock).dedup = [m % 8192] := by simp [LockOp.lock]
  refine lockOps_cycle (by simp) (by simp) ?_
  unfold lockCycle
  rw [hDedup]
  exact h

/-! ## ADD and SET -/

/-- On a calm device an operation alone in its cycle changes its Lock, and ends the waits that the new level reaches. -/
theorem lockOp_alone {i : Instr} (o : LockOp) (hExec : exec i s = Act.outcome (settled (lockOps [o])) s) (hCalm : s.calm = true)
    (hAccess : s.lockAccess o.who = true) (hAlloc : (s.lockAt o.lock).alloc = true) :
    s.does i fun t => t.locks = s.locks.put o.lock { s.lockAt o.lock with level := levelAfter o (s.lockAt o.lock).level } ∧
      t.waits = s.waits.filter (fun w => !(w.lock = o.lock && reached (levelAfter o (s.lockAt o.lock).level) w.target)) ∧
      t.answered o.who Code.ok := by
  obtain ⟨hOnTime, hQuiet⟩ := State.calm_iff.mp hCalm
  refine State.does_of hExec (settled_does hOnTime (lockOps_one o ((lockOp_does o hAccess hAlloc).bind fun _ t ht => ?_)))
  have hState := ht.state
  have hQuiet' : t.quiet = true := by rw [hState]; exact hQuiet
  have hLate : ∀ w ∈ t.waits, t.late w.deadline = false := by
    rw [hState]
    simp only [State.onTime, Bool.and_eq_true, List.all_eq_true, Bool.not_eq_true'] at hOnTime
    exact hOnTime.1
  have hLock : t.lockAt o.lock = { s.lockAt o.lock with level := levelAfter o (s.lockAt o.lock).level } := by
    rw [State.lockAt, ht.locks, Sparse.at_put_same]
  refine (settle_does o.lock hQuiet' hLate).mono fun _ u hu => ⟨⟨?_, ?_, ?_⟩, hu.quiet⟩
  · exact (hu.same .locks (by decide)).trans ht.locks
  · rw [hu.waits, hLock]
    rw [hState]
  · have hBus : u.bus = t.bus := hu.same .bus (by decide)
    simpa only [State.answered, hBus] using ht.answered

theorem lockOp_alone_refused {i : Instr} (o : LockOp) (hExec : exec i s = Act.outcome (settled (lockOps [o])) s) (hCalm : s.calm = true)
    (hAccess : s.lockAccess o.who = true) (hAlloc : (s.lockAt o.lock).alloc = false) (hIdle : ∀ w ∈ s.waits, w.lock ≠ o.lock) :
    s.does i fun t => t = { s with regs := t.regs, bus := t.bus } ∧ t.rg .lockStatus o.who.val = lockStatusAfter s o.who Code.faultXlat ∧
      t.answered o.who Code.ok := by
  obtain ⟨hOnTime, hQuiet⟩ := State.calm_iff.mp hCalm
  refine State.does_of hExec (settled_does hOnTime (lockOps_one o ((lockOp_refused o hAccess hAlloc).bind fun _ t ht => ?_)))
  obtain ⟨hState, hStatus, hAnswered⟩ := ht
  refine (settle_idle (by rw [hState]; exact hIdle)).mono ?_
  rintro _ u rfl
  exact ⟨⟨hState, hStatus, hAnswered⟩, by rw [hState]; exact hQuiet⟩

/-- A further operation on the Lock in the cycle. -/
theorem lockOp_again {n : Nat} {l : Lock} {o : LockOp} (hState : t = { s with regs := t.regs, bus := t.bus, locks := t.locks })
    (hLocks : t.locks = s.locks.put n l) (hGrant : t.rg .sysGrant = s.rg .sysGrant) (hLock : o.lock = n) (hAlloc : l.alloc = true)
    (hAccess : s.lockAccess o.who = true) : (lockOp o).Does t fun _ u => u = { s with regs := u.regs, bus := u.bus, locks := u.locks } ∧
      u.locks = s.locks.put n { l with level := levelAfter o l.level } ∧ u.rg .sysGrant = s.rg .sysGrant := by
  have hIs : t.lockAt o.lock = l := by rw [State.lockAt, hLocks, hLock, Sparse.at_put_same]
  refine (lockOp_does o (by rw [lockAccess_of_grant hGrant]; exact hAccess) (by rw [hIs]; exact hAlloc)).mono fun _ u hu => ⟨?_, ?_, hu.grant.trans hGrant⟩
  · rw [hu.state, hState]
  · rw [hu.locks, hIs, hLock, hLocks, Sparse.put_put]

theorem ops_meet {a b c : Who} {v x y : Word} (hn : n < 8192) (hCalm : s.calm = true) (ha : s.lockAccess a = true) (hb : s.lockAccess b = true)
    (hc : s.lockAccess c = true) (hAlloc : (s.lockAt n).alloc = true) :
    s.does (.lockAdd a n x [.set b n v, .add c n y]) fun t => t.locks.find n = some { s.lockAt n with level := v + x + y } ∧
      t.waits = s.waits.filter (fun w => !(w.lock = n && reached (v + x + y) w.target)) := by
  obtain ⟨hOnTime, hQuiet⟩ := State.calm_iff.mp hCalm
  have hMod : n % 8192 = n := Nat.mod_eq_of_lt hn
  refine State.does_of rfl (settled_does hOnTime (lockOps_meet a b c n v x y ?_))
  rw [hMod]
  refine (lockOp_does (.set b n v) hb (by simpa only [LockOp.lock, hMod] using hAlloc)).bind fun _ t ht => ?_
  have hSet : t.locks = s.locks.put n { s.lockAt n with level := v } := by simpa only [LockOp.lock, hMod, levelAfter] using ht.locks
  refine (lockOp_again (o := .add a n x) ht.state hSet ht.grant hMod hAlloc ha).bind fun _ t₁ ht₁ => ?_
  obtain ⟨hState₁, hLocks₁, hGrant₁⟩ := ht₁
  refine (lockOp_again (o := .add c n y) hState₁ hLocks₁ hGrant₁ hMod hAlloc hc).bind fun _ u hu => ?_
  obtain ⟨hState, hLocks, -⟩ := hu
  have hLock : (u.lockAt n).level = v + x + y := by rw [State.lockAt, hLocks, Sparse.at_put_same]; rfl
  have hLate : ∀ w ∈ u.waits, u.late w.deadline = false := by
    rw [hState]
    simp only [State.onTime, Bool.and_eq_true, List.all_eq_true, Bool.not_eq_true'] at hOnTime
    exact hOnTime.1
  refine (settle_does n (by rw [hState]; exact hQuiet) hLate).mono fun _ z hz => ⟨⟨?_, ?_⟩, hz.quiet⟩
  · rw [show z.locks = u.locks from hz.same .locks (by decide), hLocks, Sparse.find_put_same]
    rfl
  · rw [hz.waits, hLock, hState]

/-- Settles O11: an operation changes the level of its Lock, and the waits that the level reaches end. -/
theorem levelsChangeByAddAndSet : Obligations.LevelsChangeByAddAndSet := by
  refine ⟨fun s who n v hn hCalm hAccess hAlloc => ?_, fun s who n v hn hCalm hAccess hAlloc hIdle => ?_,
    fun s a b c n v x y hn hCalm ha hb hc hAlloc _ _ _ => ops_meet hn hCalm ha hb hc hAlloc⟩
  · have hMod : n % 8192 = n := Nat.mod_eq_of_lt hn
    have hAdd := lockOp_alone (i := .lockAdd who n v []) (.add who n v) rfl hCalm hAccess (by simpa only [LockOp.lock, hMod] using hAlloc)
    have hSet := lockOp_alone (i := .lockSet who n v []) (.set who n v) rfl hCalm hAccess (by simpa only [LockOp.lock, hMod] using hAlloc)
    simp only [LockOp.lock, hMod] at hAdd hSet
    exact ⟨hAdd, hSet⟩
  · have hMod : n % 8192 = n := Nat.mod_eq_of_lt hn
    have hAdd := lockOp_alone_refused (i := .lockAdd who n v []) (.add who n v) rfl hCalm hAccess (by simpa only [LockOp.lock, hMod] using hAlloc)
      (by simpa only [LockOp.lock, hMod] using hIdle)
    have hSet := lockOp_alone_refused (i := .lockSet who n v []) (.set who n v) rfl hCalm hAccess (by simpa only [LockOp.lock, hMod] using hAlloc)
      (by simpa only [LockOp.lock, hMod] using hIdle)
    exact ⟨hAdd, hSet⟩

end Sys2Proof.Machine

/-!
PROOF. Armed waits enter and leave the wait table (R198, R200 to R202).
-/
namespace Sys2Proof.Machine

variable {s t : State} {who : Who} {n ring tmo : Nat} {target tag : Word}

/-! ## What the end of an armed wait leaves -/

/-- A wait that ends without a record, and whose ring's context is FREE, leaves its outcome in LOCK_s_LAST only. -/
theorem endWait_armed_free {w : LWait} {code : Nat} (hArmed : w.waiter = .armed who) (hCode : Code.recorded code = false)
    (hFree : (s.ctx w.ring).st = .free) : (endWait w code).Does s fun _ t => t = (s.upd (.waits (s.waits.erase w))).upd
      (.reg (Reg.off .lockLast who.val 0) (Word.ofNat (pack [(code, 0), (w.lock, 8)]))) := by
  refine Act.Does.get_bind (Act.Does.make_bind ?_)
  rw [hArmed]
  refine Act.Does.get_bind (Act.Does.reg_bind (Act.Does.ite (fun h => absurd h (by simp [hCode])) fun _ => ?_))
  exact Act.Does.ite (fun h => absurd hFree h.1) fun _ => Act.Does.pure rfl

theorem keepsReg_endArmed {o : Nat} (hLast : o ≠ Reg.off .lockLast who.val 0) (hRecord : o ∉ recordRegs) (w : LWait) (code : Nat)
    (torn : Option Nat) : (endArmed who w code torn).KeepsReg o := by
  have hComplete (c : Nat) (r : CRec) : (complete c r).KeepsReg o :=
    keepsReg_of_writes (l := completeFields) (writes_complete c r (by simp)) (by decide)
  refine keepsReg_get_bind fun s => keepsReg_bind (keepsReg_reg _ hLast) fun _ => ?_
  refine keepsReg_ite (keepsReg_bind (keepsReg_fault hRecord _) fun _ => ?_) ?_
  · exact keepsReg_ite (hComplete _ _) (keepsReg_pure _)
  · exact keepsReg_ite (hComplete _ _) (keepsReg_pure _)

theorem endWait_armed {w : LWait} (code : Nat) (hArmed : w.waiter = .armed who) (s : State) : (endWait w code).Does s fun _ t =>
    t.waits = s.waits.erase w ∧ s.SameBut waitFields t ∧ t.rg .lockStatus who.val = s.rg .lockStatus who.val := by
  have hLast : Reg.off .lockStatus who.val 0 ≠ Reg.off .lockLast who.val 0 := by simp [Reg.off, Reg.row]
  have hRecord : Reg.off .lockStatus who.val 0 ∉ recordRegs := by
    simp [Reg.off, Reg.row, recordRegs]
    omega
  have hKeeps : (endWait w code).KeepsReg (Reg.off .lockStatus who.val 0) := by
    refine keepsReg_get_bind fun s => keepsReg_bind (keepsReg_make rfl) fun _ => ?_
    rw [hArmed]
    exact keepsReg_endArmed hLast hRecord w code none
  exact (((writes_endWait w code none s).and (endWait_does w code none s)).and (hKeeps s)).does.mono fun _ t ht =>
    ⟨ht.1.2.1, ht.1.1, State.rg_eq_of_find ht.2⟩

/-- Armed waits that end leave the table, and the status register as it was. -/
theorem endArmed_all (code : Nat) : ∀ (l : List LWait) (s : State), (∀ w ∈ l, w.waiter = .armed who) → (forIn l PUnit.unit fun w _ => do
      endWait w code
      pure (ForInStep.yield PUnit.unit) : Act PUnit).Does s fun _ t => t.waits = l.foldl List.erase s.waits ∧ s.SameBut waitFields t ∧
        t.rg .lockStatus who.val = s.rg .lockStatus who.val
  | [], s, _ => Act.Does.pure ⟨rfl, .refl _ s, rfl⟩
  | w :: l, s, hArmed => by
    refine Act.Does.forIn_cons ((endWait_armed code (hArmed w List.mem_cons_self) s).bind fun _ t ht => Act.Does.pure ⟨rfl, ht⟩) ?_
    rintro t ⟨hWaits, hSame, hStatus⟩
    refine (endArmed_all code l t fun v hv => hArmed v (List.mem_cons_of_mem _ hv)).mono fun _ u hu => ?_
    obtain ⟨hWaits', hSame', hStatus'⟩ := hu
    exact ⟨by rw [hWaits', hWaits, List.foldl_cons], hSame.trans hSame', hStatus'.trans hStatus⟩

/-! ## ARM -/

/-- The wait that an ARM enters. -/
def State.armedWait (s : State) (who : Who) (n : Nat) (target : Word) (ring tmo : Nat) (tag : Word) : LWait :=
  { waiter := .armed who, lock := n, target, tag, ring, deadline := if tmo = 0 then none else some (s.ns + tmo * 1000) }

/-- The device once the operands of an ARM and its status stand in their registers. -/
theorem lockArm_does {Q : State → Prop} (hn : n < 8192) (hRing : ring < 1024) (hTmo : tmo < 2 ^ 22) (hTakes : s.takes who .lockCmd who.val)
    (hAlloc : (s.lockAt n).alloc = true) (hRoom : (s.armedBy who.val).length < 256)
    (h : ∀ u, u = { s with regs := u.regs } → u.rg .lockStatus who.val = lockStatusAfter s who Code.ok →
      (issueWait (s.armedWait who n target ring tmo tag)).Does u fun r t =>
        (r = none ∧ Q (t.upd (.bus who.val ⟨Code.ok, 0⟩))) ∨ ∃ code, r = some code ∧
          (endWait (s.armedWait who n target ring tmo tag) code).Does t fun _ v => Q (v.upd (.bus who.val ⟨Code.ok, 0⟩))) :
    s.does (.lockArm who n target ring tmo tag) Q := by
  refine State.does_of rfl (command_does hTakes (Act.Does.reg_bind (Act.Does.reg_bind (Act.Does.reg_bind ?_))))
  rw [Nat.mod_eq_of_lt hn, Nat.mod_eq_of_lt hRing, Nat.mod_eq_of_lt hTmo]
  refine Act.Does.get_bind (Act.Does.ite (fun hNot => absurd hNot ?_) fun _ => Act.Does.regField_bind ?_)
  · have hRoom' : ¬256 ≤ (s.armedBy who.val).length := by omega
    change ¬((!(s.lockAt n).alloc || decide (256 ≤ (s.armedBy who.val).length)) = true)
    simp [hAlloc, hRoom']
  · have hArg : Reg.off .lockStatus who.val 0 ≠ Reg.off .lockArg who.val 0 := by simp [Reg.off, Reg.row]
    have hArg2 : Reg.off .lockStatus who.val 0 ≠ Reg.off .lockArg2 who.val 0 := by simp [Reg.off, Reg.row]
    have hTag : Reg.off .lockStatus who.val 0 ≠ Reg.off .lockTag who.val 0 := by simp [Reg.off, Reg.row]
    rw [State.rg_upd_reg_other _ _ _ _ _ _ hTag, State.rg_upd_reg_other _ _ _ _ _ _ hArg2, State.rg_upd_reg_other _ _ _ _ _ _ hArg]
    refine (h _ rfl (State.rg_upd_reg _ _ _ _ _)).bind ?_
    rintro _ t (⟨rfl, hQ⟩ | ⟨code, rfl, hEnd⟩)
    · exact Act.Does.bind (Act.Does.pure hQ) fun _ _ hQ => Act.Does.pure hQ
    · exact hEnd.bind fun _ v hQ => Act.Does.pure hQ

theorem lockArm_enters (hn : n < 8192) (hRing : ring < 1024) (hTmo : tmo < 2 ^ 22) (hTakes : s.takes who .lockCmd who.val)
    (hAlloc : (s.lockAt n).alloc = true) (hRoom : (s.armedBy who.val).length < 256) (hPoison : (s.lockAt n).poisoned = false)
    (hNot : reached (s.lockAt n).level target = false) : s.does (.lockArm who n target ring tmo tag) fun t =>
      t = { s with regs := t.regs, bus := t.bus, waits := t.waits } ∧ t.waits = s.waits ++ [s.armedWait who n target ring tmo tag] ∧
      t.rg .lockStatus who.val = lockStatusAfter s who Code.ok ∧ t.answered who Code.ok := by
  refine lockArm_does hn hRing hTmo hTakes hAlloc hRoom fun u hu hStatus => ?_
  have hLock : u.lockAt n = s.lockAt n := by rw [hu]; rfl
  refine (issueWait_waits (by rw [← hLock] at hPoison; exact hPoison) (by rw [← hLock] at hNot; exact hNot)).mono ?_
  rintro _ t ⟨rfl, rfl⟩
  refine .inl ⟨rfl, ?_, ?_, hStatus, by simp⟩
  · rw [hu]
    rfl
  · rw [hu]
    rfl

theorem lockArm_ends (hn : n < 8192) (hRing : ring < 1024) (hTmo : tmo < 2 ^ 22) (hTakes : s.takes who .lockCmd who.val)
    (hAlloc : (s.lockAt n).alloc = true) (hRoom : (s.armedBy who.val).length < 256) (hPoison : (s.lockAt n).poisoned = false)
    (hReached : reached (s.lockAt n).level target = true) (hFree : (s.ctx ring).st = .free) :
    s.does (.lockArm who n target ring tmo tag) fun t => t = { s with regs := t.regs, bus := t.bus, waits := t.waits } ∧
      (∀ w ∈ t.waits, w ∈ s.waits) ∧ t.rg .lockLast who.val = Word.ofNat (n * 256) := by
  refine lockArm_does hn hRing hTmo hTakes hAlloc hRoom fun u hu _ => ?_
  have hLock : u.lockAt n = s.lockAt n := by rw [hu]; rfl
  have hRingFree : (u.ctx (s.armedWait who n target ring tmo tag).ring).st = .free := by rw [hu]; exact hFree
  have hOver : (issueWait (s.armedWait who n target ring tmo tag)).Does u fun r t => r = some Code.ok ∧ t = u := by
    refine Act.Does.get_bind (Act.Does.ite (fun h => absurd h ?_) fun _ => Act.Does.ite (fun _ => Act.Does.pure ⟨rfl, rfl⟩) fun h => absurd ?_ h)
    · change ¬(u.lockAt n).poisoned = true
      simp [hLock, hPoison]
    · change reached (u.lockAt n).level target = true
      rw [hLock, hReached]
  refine hOver.mono ?_
  rintro _ t ⟨rfl, rfl⟩
  refine .inr ⟨_, rfl, (endWait_armed_free rfl rfl hRingFree).mono ?_⟩
  rintro _ v rfl
  refine ⟨?_, fun w hw => ?_, ?_⟩
  · rw [hu]
    rfl
  · have hOld : w ∈ t.waits := List.mem_of_mem_erase hw
    rw [hu] at hOld
    exact hOld
  · refine (State.rg_upd_reg _ _ _ _ _).trans ?_
    simp [pack, State.armedWait]

/-! ## CANCEL -/

theorem armedBy_waiter {w : LWait} (h : w ∈ s.armedBy who.val) : w ∈ s.waits ∧ w.waiter = .armed who := by
  obtain ⟨hMem, hIs⟩ := List.mem_filter.mp h
  refine ⟨hMem, ?_⟩
  split at hIs
  · next x hx => rw [hx, Fin.ext (of_decide_eq_true hIs)]
  · exact absurd hIs (by decide)

/-- The armed waits of an initiator that an operation names. -/
theorem armedBy_filter (p : LWait → Bool) : (s.armedBy who.val).filter p = s.waits.filter fun w => decide (w.waiter = .armed who) && p w := by
  rw [State.armedBy, List.filter_filter]
  refine List.filter_congr fun w _ => ?_
  rw [Bool.and_comm]
  congr 1
  split
  · next x hx => simp [hx, Fin.ext_iff]
  · next h => exact (decide_eq_false fun e => h who e).symm

theorem lockCancel_does (hn : n < 8192) (hTakes : s.takes who .lockCmd who.val) (hAlloc : (s.lockAt n).alloc = true) :
    s.does (.lockCancel who n tag) fun t => t.locks = s.locks ∧
      t.waits = s.waits.filter (fun w => !(w.waiter = .armed who && w.lock = n && w.tag = tag)) ∧
      t.rg .lockStatus who.val = lockStatusAfter s who Code.ok ∧ t.answered who Code.ok := by
  have hTag : Reg.off .lockStatus who.val 0 ≠ Reg.off .lockTag who.val 0 := by simp [Reg.off, Reg.row]
  refine State.does_of rfl (command_does hTakes (Act.Does.reg_bind (Act.Does.get_bind ?_)))
  rw [Nat.mod_eq_of_lt hn]
  refine Act.Does.ite (fun hNot => absurd hNot ?_) fun _ => Act.Does.regField_bind ?_
  · change ¬(!(s.lockAt n).alloc) = true
    simp [hAlloc]
  · rw [State.rg_upd_reg_other _ _ _ _ _ _ hTag]
    refine (endArmed_all (who := who) Code.cancelled _ _ fun w hw => (armedBy_waiter (List.mem_of_mem_filter hw)).2).bind fun _ t ht => Act.Does.pure ?_
    obtain ⟨hWaits, hSame, hStatus⟩ := ht
    rw [armedBy_filter] at hWaits
    refine ⟨hSame .locks (by decide), hWaits.trans ((foldl_erase_filter _ _).trans (List.filter_congr fun w _ => ?_)),
      hStatus.trans (State.rg_upd_reg _ _ _ _ _), by simp⟩
    simp [Bool.and_assoc]

/-! ## A timeout -/

theorem waitTimeout_does {k d : Nat} {w : LWait} (hWait : (s.armedBy who.val)[k]? = some w) (hDeadline : w.deadline = some d)
    (hDue : d * nsUnit ≤ s.clock.elapsed) (hCalm : s.calm = true) (hFree : (s.ctx w.ring).st = .free) :
    s.does (.waitTimeout (.armed who k)) fun t => t = { s with regs := t.regs, waits := t.waits } ∧ t.waits = s.waits.erase w ∧
      t.rg .lockLast who.val = Word.ofNat (pack [(Code.timeout, 0), (w.lock, 8)]) := by
  obtain ⟨hOnTime, hQuiet⟩ := State.calm_iff.mp hCalm
  refine State.does_of rfl (settled_does hOnTime (Act.Does.get_bind ?_))
  have hIs : s.waitOf (.armed who k) = some w := hWait
  simp only [hIs, hDeadline]
  refine Act.Does.bind (Act.does_of_run (Q := fun _ t => t = s) (fun k => run_reach_past hDue k) rfl) ?_
  rintro _ _ rfl
  refine (endWait_armed_free (armedBy_waiter (List.mem_of_getElem? hWait)).2 rfl hFree).mono ?_
  rintro _ t rfl
  exact ⟨⟨rfl, rfl, State.rg_upd_reg _ _ _ _ _⟩, hQuiet⟩

/-- Settles O13: an armed wait enters the table, or ends at once; CANCEL and a timeout take it away. -/
theorem waitsEnterAndLeaveTheTable : Obligations.WaitsEnterAndLeaveTheTable := by
  refine ⟨fun s who n target ring tmo tag hn hRing hTmo hTakes hAlloc hRoom hPoison => ⟨?_, ?_⟩, ?_, ?_⟩
  · exact lockArm_enters hn hRing hTmo hTakes hAlloc hRoom hPoison
  · exact lockArm_ends hn hRing hTmo hTakes hAlloc hRoom hPoison
  · exact fun s who n tag hn hTakes hAlloc => lockCancel_does hn hTakes hAlloc
  · exact fun s who k w d hWait hDeadline hDue hCalm hFree => waitTimeout_does hWait hDeadline hDue hCalm hFree

end Sys2Proof.Machine

/-!
PROOF. Which fields reads of memory, walks and the end of a context's barges, requests and queues may write.
-/
namespace Sys2Proof.Machine

variable {l : List Fld}

/-- The fields a read of memory may write, where it counts an error. -/
def readFields : List Fld := [.faults, .psram, .regs]

/-- The fields a walk may write. -/
def walkFields : List Fld := .xlat :: readFields

theorem writes_countCorrected (pa : Nat) (h : readFields ⊆ l) : (countCorrected pa).Writes l := by
  have hFaults : Fld.faults ∈ l := h (by decide)
  have hPsram : Fld.psram ∈ l := h (by decide)
  have hRegs : Fld.regs ∈ l := h (by decide)
  refine writes_get_bind fun s => ?_
  split
  · exact writes_make_bind (by simp [hFaults]) (writes_make (by simp [hPsram]))
  · exact writes_make_bind (by simp [hFaults]) (writes_ite (by simp [hRegs]) (writes_pure _))

theorem writes_readPhys (pa n : Nat) (h : readFields ⊆ l) : (readPhys pa n).Writes l := by
  have hRegs : Fld.regs ∈ l := h (by decide)
  refine writes_get_bind fun s => writes_bind (writes_forIn (fun x b => ?_) _ _) fun _ => writes_pure _
  refine writes_ite ?_ (writes_pure _)
  dsimp only
  split
  · exact writes_bind writes_nothing fun _ => writes_pure _
  · exact writes_bind (writes_countCorrected _ h) fun _ => writes_pure _
  · refine writes_ite (writes_bind (by simp [hRegs]) fun _ => ?_) ?_
    · exact writes_ite (writes_pure _) (writes_pure _)
    · exact writes_ite (writes_pure _) (writes_pure _)

theorem writes_readTier (pa n : Nat) (h : readFields ⊆ l) : (readTier pa n).Writes l := by
  refine writes_bind (writes_get_bind fun s => writes_ite (writes_pure _) ?_) fun _ => writes_pure _
  exact writes_bind (writes_readPhys pa n h) fun _ => writes_ite (writes_bind (writes_countCorrected pa h) fun _ => writes_pure _) (writes_pure _)

theorem writes_readEntry (pa : Nat) (h : readFields ⊆ l) : (readEntry pa).Writes l :=
  writes_get_bind fun _ => writes_ite (writes_pure _) (writes_bind (writes_readTier pa 8 h) fun _ => writes_pure _)

theorem writes_walkTable (va pa : Nat) (h : readFields ⊆ l) : (walkTable va pa).Writes l := by
  refine writes_bind (writes_readEntry pa h) fun r => ?_
  split
  · exact writes_get_bind fun _ => writes_pure _
  · exact writes_pure _
  · exact writes_pure _

theorem writes_level2Table (c va : Nat) (h : walkFields ⊆ l) : (level2Table c va).Writes l := by
  have hRead : readFields ⊆ l := fun f hf => h (List.mem_cons_of_mem _ hf)
  have hXlat : Fld.xlat ∈ l := h (by decide)
  refine writes_get_bind fun s => ?_
  split
  · exact writes_pure _
  · refine writes_bind (writes_walkTable _ _ hRead) fun r => ?_
    split
    · exact writes_pure _
    · refine writes_bind (writes_walkTable _ _ hRead) fun r => ?_
      split
      · exact writes_pure _
      · exact writes_get_bind fun _ => writes_make_bind (by simp [hXlat]) (writes_pure _)

theorem writes_walkLeaf (c va : Nat) (h : walkFields ⊆ l) : (walkLeaf c va).Writes l := by
  have hRead : readFields ⊆ l := fun f hf => h (List.mem_cons_of_mem _ hf)
  refine writes_bind (writes_level2Table c va h) fun r => ?_
  split
  · exact writes_pure _
  · refine writes_bind (writes_readEntry _ hRead) fun r => ?_
    split
    · exact writes_get_bind fun _ => writes_pure _
    · exact writes_pure _
    · exact writes_get_bind fun _ => writes_ite (writes_pure _) (writes_pure _)

theorem writes_reachesPa (v : Via) (va : Nat) (write : Bool) (h : walkFields ⊆ l) : (reachesPa v va write).Writes l := by
  refine writes_get_bind fun s => ?_
  split
  · exact writes_pure _
  · refine writes_ite (writes_pure _) (writes_bind (writes_walkLeaf _ _ h) fun r => ?_)
    split
    · exact writes_pure _
    · exact writes_pure _

theorem writes_setTag (pa state slot : Nat) (h : Fld.xlat ∈ l) : (setTag pa state slot).Writes l := by
  refine writes_get_bind fun s => ?_
  split
  · exact writes_make (by simp [h])
  · exact writes_ite (writes_make (by simp [h])) (writes_pure _)

theorem writes_dropEntries (ctx : Option Nat) (pages : Option (Nat × Nat)) (h : Fld.xlat ∈ l) : (dropEntries ctx pages).Writes l :=
  writes_get_bind fun _ => writes_make (by simp [h])

/-! ## Barges -/

theorem writes_bargeDst (slot : Nat) (b : Barge) (i : Nat) (h : walkFields ⊆ l) : (bargeDst slot b i).Writes l :=
  writes_get_bind fun _ => writes_ite (writes_pure _) (writes_ite (writes_pure _) (writes_map _ (writes_reachesPa _ _ _ h)))

theorem writes_closeBarge (slot : Nat) (b : Barge) (success : Bool) (h : walkFields ⊆ l) : (closeBarge slot b success).Writes l := by
  have hXlat : Fld.xlat ∈ l := h (by decide)
  refine writes_get_bind fun s => writes_bind (writes_forIn (fun pa _ => writes_bind (writes_setTag _ _ _ hXlat) fun _ => writes_pure _) _ _)
    fun _ => writes_ite (writes_bind (writes_forIn (fun i _ => writes_bind (writes_bargeDst slot b i h) fun r => ?_) _ _) fun _ => writes_pure _) (writes_pure _)
  split
  · refine writes_bind (writes_forIn (fun pa _ => writes_get_bind fun t => ?_) _ _) fun _ => writes_pure _
    exact writes_ite (writes_bind (writes_setTag _ _ _ hXlat) fun _ => writes_pure _) (writes_pure _)
  · exact writes_bind writes_nothing fun _ => writes_pure _

/-- The fields the cancellation of barges may write. -/
def bargeFields : List Fld := .waits :: .flying :: .chanQueues :: walkFields

theorem writes_dropBargeWait (slot : Nat) (h : Fld.waits ∈ l) : (dropBargeWait slot).Writes l :=
  writes_get_bind fun _ => writes_make (by simp [h])

theorem writes_cancelBarges (c : Nat) : (cancelBarges c).Writes bargeFields := by
  refine writes_get_bind fun s => writes_bind (writes_forIn (fun x _ => ?_) _ _) fun _ =>
    writes_bind (writes_forIn (fun x _ => ?_) _ _) fun _ => writes_pure _
  · exact writes_bind (writes_closeBarge _ _ _ (by decide)) fun _ => writes_bind (writes_dropBargeWait _ (by decide)) fun _ =>
      writes_make_bind (by simp [bargeFields]) (writes_pure _)
  · exact writes_ite (writes_make_bind (by simp [bargeFields]) (writes_pure _)) (writes_pure _)

end Sys2Proof.Machine

/-!
PROOF. DESTROY, KILL and REOPEN (R171, R186, R191, R204, R206).
-/
namespace Sys2Proof.Machine

variable {l : List Fld} {s t : State} {who : Who} {c : Nat}

/-! ## Accepted context commands -/

theorem colCommand_accepted {op : Nat} {Q : State → Prop} (hTakes : s.takes who .colCmd 0) (hOp : op ≠ 0)
    (h : (contextCommand op c).Does s fun code t => code = Code.ok ∧ Q (t.colAnswered who Code.ok c)) :
    (command who .colCmd 0 (colCommand op c)).Does s fun _ t => Q t := by
  refine command_does hTakes (Act.Does.ite (fun _ => h.bind ?_) fun hNot => absurd hOp hNot)
  rintro _ t ⟨rfl, hQ⟩
  exact Act.Does.reg_bind (Act.Does.pure hQ)

theorem answered_colAnswered (code : Nat) : (s.colAnswered who code c).answered who Code.ok := by simp [State.colAnswered]

/-! ## What the blocks hold for a context -/

theorem writes_modPlan (f : Plan → Plan) (h : Fld.plan ∈ l) : (Act.modPlan f).Writes l := writes_get_bind fun _ => writes_make (by simp [h])

theorem writes_releaseEpochs (h : Fld.plan ∈ l) (h' : Fld.regs ∈ l) : releaseEpochs.Writes l := by
  refine writes_get_bind fun s => ?_
  dsimp only
  refine writes_bind (writes_modPlan _ h) fun _ => ?_
  split
  · refine writes_ite (writes_bind (writes_modPlan _ h) fun _ => ?_) (writes_pure _)
    exact writes_bind (writes_get_bind fun _ => writes_modPlan _ h) fun _ => by simp [h']
  · exact writes_pure _

theorem writes_dropHold (n : Nat) (h : Fld.plan ∈ l) (h' : Fld.regs ∈ l) : (dropHold n).Writes l :=
  writes_bind (writes_modPlan _ h) fun _ => writes_releaseEpochs h h'

theorem writes_cancelPlans (c : Nat) (h : Fld.plan ∈ l) (h' : Fld.regs ∈ l) : (cancelPlans c).Writes l := by
  refine writes_get_bind fun s => writes_bind (writes_forIn (fun r _ => ?_) _ _) fun _ => writes_bind (writes_forIn (fun u _ => ?_) _ _) fun _ =>
    writes_modPlan _ h
  · have hRest : (do Act.modPlan fun p => { p with requests := p.requests.filter (· ≠ r) }; dropHold r.held; pure (ForInStep.yield PUnit.unit) :
        Act (ForInStep PUnit)).Writes l := writes_bind (writes_modPlan _ h) fun _ => writes_bind (writes_dropHold _ h h') fun _ => writes_pure _
    dsimp only
    split
    · exact writes_bind (writes_modPlan _ h) fun _ => hRest
    · exact writes_bind writes_nothing fun _ => hRest
  · exact writes_bind (writes_dropHold _ h h') fun _ => writes_pure _

theorem writes_cancelGrids (c : Nat) (h : Fld.grid ∈ l) : (cancelGrids c).Writes l := writes_get_bind fun _ => writes_make (by simp [h])

theorem writes_disownQueues (c : Nat) : (disownQueues c).Writes releaseFields := by
  refine writes_get_bind fun s => writes_bind (writes_forIn (fun q _ => writes_bind ?_ fun _ => ?_) _ _) fun _ => writes_pure _
  · refine writes_get_bind fun s => writes_bind (by simp [releaseFields]) fun _ => writes_bind (by simp [releaseFields]) fun _ =>
      writes_bind (by simp [releaseFields]) fun _ => writes_bind (writes_dropReleased q) fun _ => writes_watermarkNow q
  · exact writes_bind (by simp [releaseFields]) fun _ => writes_pure _

theorem writes_rewindQueues (c : Nat) : (rewindQueues c).Writes [.regs] :=
  writes_get_bind fun s => writes_bind (writes_forIn (fun q _ => writes_bind (writes_get_bind fun _ => by simp) fun _ => writes_pure _) _ _)
    fun _ => writes_pure _

/-! ## DESTROY -/

/-- The fields the end of a context may write beside its own. -/
def destroyFields : List Fld := .grid :: .plan :: .ports :: bargeFields

theorem ctxDestroy_does (hc : c < 1024) (hTakes : s.takes who .colCmd 0) (hState : (s.ctx c).st = .ready ∨ (s.ctx c).st = .torn)
    (hJobs : (s.ctx c).jobs = []) : s.does (.ctxDestroy who c) fun t =>
      t.ctx c = { accts := (s.ctx c).accts, activity := (s.ctx c).activity } ∧ t.value .colCmdStatus 0 0 = colStatus Code.ok c ∧
      t.answered who Code.ok := by
  refine State.does_of rfl (colCommand_accepted hTakes (by decide) ?_)
  rw [Nat.mod_eq_of_lt hc]
  refine Act.Does.get_bind (Act.Does.ite (fun _ => ?_) fun hNot => absurd hState hNot)
  have hEnd : (destroyContext c).Does s fun _ t => t.ctx c = { accts := (s.ctx c).accts, activity := (s.ctx c).activity } := by
    unfold destroyContext
    refine Act.Does.get_bind ?_
    rw [hJobs]
    have hSame {t : State} (ht : s.SameBut destroyFields t) : t.ctx c = s.ctx c := by
      rw [State.ctx, show t.ctxs = s.ctxs from ht .ctxs (by decide)]
      rfl
    refine ((writes_cancelBarges c).does s).bind fun _ t₁ ht₁ => ?_
    refine ((writes_cancelGrids c (l := destroyFields) (by decide)).does t₁).bind fun _ t₂ ht₂ => ?_
    refine ((writes_cancelPlans c (l := destroyFields) (by decide) (by decide)).does t₂).bind fun _ t₃ ht₃ => ?_
    refine ((writes_disownQueues c).does t₃).bind fun _ t₄ ht₄ => ?_
    refine Act.Does.bind (Act.Does.pure (Q := fun _ u => u = t₄) rfl) ?_
    rintro _ t₄ rfl
    refine ((writes_dropEntries (some c) none (l := destroyFields) (by decide)).does t₄).bind fun _ t₅ ht₅ => ?_
    refine Act.Does.get_bind (Act.Does.make ?_)
    have hCtx := hSame ((ht₁.mono (by decide)).trans (ht₂.trans (ht₃.trans ((ht₄.mono (by decide)).trans ht₅))))
    rw [State.ctx_upd_ctx, hCtx]
  refine hEnd.bind fun _ t ht => Act.Does.pure ⟨rfl, ?_, State.colStatus_colAnswered t who _ c, answered_colAnswered _⟩
  exact ht

/-! ## The Locks that a context owns -/

theorem Sparse.keys_nodup {α : Type} : ∀ {m : Sparse α}, m.rising = true → (m.map (·.1)).Nodup
  | [], _ => List.nodup_nil
  | (k, a) :: m, h => by
    obtain ⟨hLess, hRest⟩ := Sparse.rising_cons.mp h
    refine List.nodup_cons.mpr ⟨fun hIn => ?_, Sparse.keys_nodup hRest⟩
    obtain ⟨e, he, hEq⟩ := List.mem_map.mp hIn
    exact absurd (hLess e he) (by rw [hEq]; exact lt_irrefl k)

theorem owned_nodup (h : s.locks.rising = true) (c : Nat) : (s.owned c).Nodup :=
  List.Nodup.sublist (List.Sublist.map _ List.filter_sublist) (Sparse.keys_nodup h)

/-- Each Lock of a list is changed, and nothing that follows does more. -/
theorem modLocks_does (f : Lock → Lock) (g : Nat → Act (ForInStep PUnit)) : ∀ (ns : List Nat) (s : State), ns.Nodup →
    (∀ n ∈ ns, ∀ t : State, t.waits = s.waits → (g n).Does t fun r u => r = .yield .unit ∧ u = t) →
    (forIn ns PUnit.unit fun n _ => do Act.modLock n f; g n : Act PUnit).Does s fun _ t => t = { s with locks := t.locks } ∧
      ∀ n, t.lockAt n = if n ∈ ns then f (s.lockAt n) else s.lockAt n
  | [], s, _, _ => Act.Does.pure ⟨rfl, fun n => by simp⟩
  | m :: ns, s, hNodup, hIdle => by
    obtain ⟨hOut, hNodup⟩ := List.nodup_cons.mp hNodup
    refine Act.Does.forIn_cons (P := fun t => t = s.upd (.lock m (f (s.lockAt m)))) (Act.Does.modLock_bind ?_) ?_
    · exact hIdle m List.mem_cons_self _ rfl
    · rintro _ rfl
      refine (modLocks_does f g ns (s.upd (.lock m (f (s.lockAt m)))) hNodup fun n hn t ht => hIdle n (List.mem_cons_of_mem _ hn) t ht).mono fun _ u hu => ?_
      obtain ⟨hState, hLocks⟩ := hu
      refine ⟨by rw [hState]; rfl, fun n => ?_⟩
      rw [hLocks]
      by_cases hn : n = m
      · rw [if_neg (hn ▸ hOut), if_pos (by simp [hn]), hn, State.lockAt_upd_lock]
      · rw [State.lockAt_upd_lock_other s _ hn]
        simp [hn]

theorem poisonLocks_does (hRising : s.locks.rising = true) (hIdle : ∀ w ∈ s.waits, w.lock ∉ s.owned c) : (poisonLocks c).Does s fun _ t =>
    t = { s with locks := t.locks } ∧ ∀ n, t.lockAt n = if n ∈ s.owned c then { s.lockAt n with poisoned := true } else s.lockAt n := by
  refine Act.Does.get_bind ((modLocks_does (fun l => { l with poisoned := true }) _ (s.owned c) s (owned_nodup hRising c) fun n hn t ht => ?_).mono fun _ t ht => ht)
  rw [List.filter_eq_nil_iff.mpr fun w hw => by simpa using fun e : w.lock = n => hIdle w hw (e ▸ hn)]
  exact Act.Does.bind (Act.Does.pure (Q := fun _ u => u = t) rfl) fun _ u hu => Act.Does.pure ⟨rfl, hu⟩

theorem clearPoison_does (hRising : s.locks.rising = true) : (clearPoison c).Does s fun _ t => t = { s with locks := t.locks } ∧
    ∀ n, t.lockAt n = if n ∈ s.owned c then { s.lockAt n with poisoned := false } else s.lockAt n :=
  Act.Does.get_bind ((modLocks_does (fun l => { l with poisoned := false }) (fun _ => pure (.yield .unit)) (s.owned c) s (owned_nodup hRising c)
    fun _ _ _ _ => Act.Does.pure ⟨rfl, rfl⟩).mono fun _ _ ht => ht)

/-! ## REOPEN -/

/-- A member that comes back keeps the jobs of no pair. -/
theorem rejoin_does : (rejoin c).Does s fun _ t => ∃ p : Job → Bool, (∀ j : Job, j.pair = none → p j = true) ∧
    t = s.upd (.ctx c { s.ctx c with jobs := (s.ctx c).jobs.filter p }) :=
  Act.Does.get_bind fun _ => ⟨(), _, ⟨_, fun _ hj => by simp [hj], rfl⟩, rfl⟩

theorem ctxReopen_does (hc : c < 1024) (hTakes : s.takes who .colCmd 0) (hTorn : (s.ctx c).st = .torn) (hRising : s.locks.rising = true) :
    s.does (.ctxReopen who c) fun t => t = { s with ctxs := t.ctxs, locks := t.locks, regs := t.regs, bus := t.bus } ∧
      t.ctx c = { s.ctx c with st := .ready, jobs := (t.ctx c).jobs } ∧ (∀ x, x ≠ c → t.ctx x = s.ctx x) ∧
      (t.ctx c).jobs.Sublist (s.ctx c).jobs ∧ (∀ j ∈ (s.ctx c).jobs, j.pair = none → j ∈ (t.ctx c).jobs) ∧
      (∀ n, t.lockAt n = if n ∈ s.owned c then { s.lockAt n with poisoned := false } else s.lockAt n) ∧
      t.value .colCmdStatus 0 0 = colStatus Code.ok c ∧ t.answered who Code.ok := by
  refine State.does_of rfl (colCommand_accepted hTakes (by decide) ?_)
  rw [Nat.mod_eq_of_lt hc]
  refine Act.Does.get_bind (Act.Does.ite (fun _ => (clearPoison_does hRising).bind fun _ t ht => ?_) fun hNot => absurd hTorn hNot)
  obtain ⟨hState, hLocks⟩ := ht
  have hCtx (x : Nat) : t.ctx x = s.ctx x := by rw [hState]; rfl
  refine rejoin_does.bind ?_
  rintro _ _ ⟨p, hp, rfl⟩
  refine Act.Does.modCtx_bind ?_
  rw [State.ctx_upd_ctx, hCtx]
  generalize hu : State.upd _ (.ctx c _) = u
  have hNew : u.ctx c = { s.ctx c with st := .ready, jobs := (s.ctx c).jobs.filter p } := by rw [← hu, State.ctx_upd_ctx]
  have hOther (x : Nat) (hx : x ≠ c) : u.ctx x = s.ctx x := by
    rw [← hu, State.ctx_upd_ctx_other _ _ hx, State.ctx_upd_ctx_other _ _ hx, hCtx]
  have hLocks' (n : Nat) : u.lockAt n = t.lockAt n := by
    rw [← hu]
    rfl
  refine Act.Does.pure ⟨rfl, ?_, ?_, hOther, ?_, fun j hj hPair => ?_, fun n => (hLocks' n).trans (hLocks n), State.colStatus_colAnswered u who _ c,
    answered_colAnswered _⟩
  · rw [← hu, hState]
    rfl
  · change u.ctx c = { s.ctx c with st := .ready, jobs := (u.ctx c).jobs }
    rw [hNew]
  · change (u.ctx c).jobs.Sublist _
    rw [hNew]
    exact List.filter_sublist
  · change j ∈ (u.ctx c).jobs
    rw [hNew]
    exact List.mem_filter.mpr ⟨hj, hp j hPair⟩

/-! ## KILL -/

/-- What a step of an idle context's teardown leaves: its context and the Locks as they are, and a quiet device. -/
structure State.TornBy (s t : State) : Prop where
  ctxs : t.ctxs = s.ctxs
  locks : t.locks = s.locks
  requests : t.plan.requests = s.plan.requests
  quiet : t.quiet = true

theorem tornBy_of_writes {x : Act Unit} (h : x.Writes l) (hl : Fld.ctxs ∉ l ∧ Fld.locks ∉ l ∧ Fld.plan ∉ l) (hStays : x.StaysQuiet) (hQuiet : s.quiet = true) :
    x.Does s fun _ t => s.TornBy t :=
  (h.and (hStays s hQuiet)).mono fun _ _ ht => ⟨ht.1 .ctxs hl.1, ht.1 .locks hl.2.1, congrArg Plan.requests (ht.1 .plan hl.2.2), ht.2⟩

theorem cancelBarges_idle (hFlying : ∀ e ∈ s.flying, e.2.ctx ≠ c) (hQueued : ∀ q ∈ s.chanQueues, ∀ b ∈ q.2, b.ctx ≠ c) :
    (cancelBarges c).Does s fun _ t => t = s := by
  refine Act.Does.get_bind ?_
  rw [List.filter_eq_nil_iff.mpr fun e he => by simpa using hFlying e he]
  refine Act.Does.bind (Act.Does.pure (Q := fun _ u => u = s) rfl) ?_
  rintro _ _ rfl
  refine (Act.Does.idleLoop _ fun q hq => ?_).mono fun _ t ht => ht.2
  exact Act.Does.ite (fun h => absurd h (by simpa using hQueued q hq)) fun _ => Act.Does.pure ⟨rfl, rfl⟩

theorem staysQuiet_dropEntries (ctx : Option Nat) (pages : Option (Nat × Nat)) : (dropEntries ctx pages).StaysQuiet := fun _ hs =>
  Act.Does.get_bind (Act.Does.make hs)

theorem staysQuiet_releasePages (c : Nat) : (releasePages c).StaysQuiet := by
  refine fun s hs => Act.Does.get_bind (staysQuiet_bind (staysQuiet_dropEntries _ _) (fun _ => staysQuiet_bind (staysQuiet_forIn (fun x _ => ?_) _ _)
    fun _ => staysQuiet_pure _) s hs)
  exact staysQuiet_ite (staysQuiet_bind (staysQuiet_writePhys _ _) fun _ => staysQuiet_pure _) (staysQuiet_pure _)

theorem writes_releasePages (c : Nat) : (releasePages c).Writes [.xlat, .mem, .flips, .faults] :=
  writes_get_bind fun s => writes_bind (writes_dropEntries _ _ (by simp)) fun _ => writes_bind (writes_forIn (fun x _ =>
    writes_ite (writes_bind (writes_writePhys _ _ (by simp) (by simp) (by simp)) fun _ => writes_pure _) (writes_pure _)) _ _) fun _ => writes_pure _

/-- The planner holds nothing of the context on a quiet device without its requests. -/
theorem cancelPlans_idle (hQuiet : s.quiet = true) (hNone : ∀ r ∈ s.plan.requests, r.ctx ≠ c) :
    (cancelPlans c).Does s fun _ t => s.TornBy t := by
  have hParts := hQuiet
  simp only [State.quiet, Bool.and_eq_true, List.isEmpty_iff] at hParts
  obtain ⟨⟨⟨⟨⟨⟨⟨⟨⟨⟨⟨-, -⟩, -⟩, hSubs⟩, hUpdates⟩, -⟩, -⟩, -⟩, -⟩, -⟩, -⟩, -⟩ := hParts
  refine Act.Does.get_bind ?_
  rw [List.filter_eq_nil_iff.mpr fun r hr => by simpa using hNone r hr, hUpdates]
  refine Act.Does.after_idle (Act.Does.pure rfl) (Act.Does.after_idle (Act.Does.pure rfl) (Act.Does.get_bind (Act.Does.make ⟨rfl, rfl, rfl, ?_⟩)))
  simpa [State.quiet, hSubs, hUpdates] using hQuiet

theorem cancelGrids_does (hQuiet : s.quiet = true) : (cancelGrids c).Does s fun _ t => s.TornBy t := by
  refine Act.Does.get_bind (Act.Does.make ⟨rfl, rfl, rfl, ?_⟩)
  simp only [State.quiet, Bool.and_eq_true, List.isEmpty_iff] at hQuiet ⊢
  obtain ⟨⟨⟨⟨h, hSubs⟩, hLoads⟩, hXlatSubs⟩, hWaiting⟩ := hQuiet
  exact ⟨⟨⟨⟨h, by simp [hSubs]⟩, hLoads⟩, hXlatSubs⟩, hWaiting⟩

/-- The teardown of a context without kernel, barges, plan requests or waiters. -/
theorem teardownSteps_idle (hQuiet : s.quiet = true) (hKern : (s.ctx c).kern = none) (hFlying : ∀ e ∈ s.flying, e.2.ctx ≠ c)
    (hQueued : ∀ q ∈ s.chanQueues, ∀ b ∈ q.2, b.ctx ≠ c) (hPlan : ∀ r ∈ s.plan.requests, r.ctx ≠ c) (hWaits : ∀ w ∈ s.waits, w.lock ∉ s.owned c)
    (hRising : s.locks.rising = true) : (teardownSteps c).Does s fun _ t => t.quiet = true ∧ t.ctx c = { s.ctx c with swapped := [] } ∧
      ∀ n, t.lockAt n = if n ∈ s.owned c then { s.lockAt n with poisoned := true } else s.lockAt n := by
  unfold teardownSteps
  refine Act.Does.get_bind ?_
  have hTiles : (closeKernelTiles c false).Does s fun _ t => t = s := by
    refine Act.Does.get_bind ?_
    simp only [hKern]
    exact Act.Does.pure rfl
  have hStop : (stopKernel c).Does s fun _ t => t = s := by
    refine Act.Does.get_bind ?_
    simp only [hKern]
    exact Act.Does.pure rfl
  refine Act.Does.after_idle hTiles (Act.Does.after_idle hStop (Act.Does.after_idle (cancelBarges_idle hFlying hQueued) ?_))
  refine (poisonLocks_does hRising hWaits).bind fun _ t ht => ?_
  obtain ⟨hState, hLocks⟩ := ht
  have hQuiet' : t.quiet = true := by rw [hState]; exact hQuiet
  have hRequests : t.plan.requests = s.plan.requests := by rw [hState]
  have hCtxs : t.ctxs = s.ctxs := by rw [hState]
  rw [hKern]
  refine Act.Does.after_idle (Act.Does.pure rfl) ?_
  refine (tornBy_of_writes (writes_rewindQueues c) (by decide) (staysQuiet_of_writes (writes_rewindQueues c) (by decide)) hQuiet').bind fun _ t₁ h₁ => ?_
  refine (cancelGrids_does h₁.quiet).bind fun _ t₂ h₂ => ?_
  refine (cancelPlans_idle h₂.quiet (by rw [h₂.requests, h₁.requests, hRequests]; exact hPlan)).bind fun _ t₃ h₃ => ?_
  refine (tornBy_of_writes (writes_releasePages c) (by decide) (staysQuiet_releasePages c) h₃.quiet).bind fun _ t₄ h₄ => ?_
  have hCtx : t₄.ctx c = s.ctx c := by rw [State.ctx, h₄.ctxs, h₃.ctxs, h₂.ctxs, h₁.ctxs, hCtxs]; rfl
  refine Act.Does.get_bind (Act.Does.make ⟨State.quiet_upd_ctx h₄.quiet ?_, by rw [State.ctx_upd_ctx, hCtx], fun n => ?_⟩)
  · rw [hCtx]
    change (s.ctx c).kern.any Kernel.settles = false
    rw [hKern]
    rfl
  · rw [State.lockAt_upd _ _ _ rfl, ← hLocks, State.lockAt, h₄.locks, h₃.locks, h₂.locks, h₁.locks]
    rfl

theorem endJob_none (hJobs : (s.ctx c).jobs = []) (code block addr idx : Nat) : (endJob c code block addr idx).Does s fun _ t => t = s := by
  refine Act.Does.get_bind ?_
  simp only [hJobs]
  exact Act.Does.pure rfl

/-- A context without jobs has none to cancel. -/
theorem cancelQueued_none (hQuiet : s.quiet = true) (hKern : (s.ctx c).kern = none) (hJobs : (s.ctx c).jobs = []) :
    (cancelQueued c).Does s fun _ t => t.quiet = true ∧ t.ctx c = s.ctx c ∧ t.locks = s.locks := by
  refine Act.Does.get_bind ?_
  rw [hJobs]
  refine Act.Does.modCtx_bind (Act.Does.after_idle (Act.Does.pure rfl) (Act.Does.get_bind (Act.Does.make ⟨?_, ?_, rfl⟩)))
  · refine State.quiet_upd_ctx (State.quiet_upd_ctx hQuiet ?_) ?_
    · change (s.ctx c).kern.any Kernel.settles = false
      rw [hKern]
      rfl
    · rw [State.ctx_upd_ctx]
      change (s.ctx c).kern.any Kernel.settles = false
      rw [hKern]
      rfl
  · rw [State.ctx_upd_ctx, State.ctx_upd_ctx]
    change { s.ctx c with jobs := [] } = s.ctx c
    rw [← hJobs]

theorem ctxKill_does (hc : c < 1024) (hTakes : s.takes who .colCmd 0) (hCalm : s.calm = true) (hState : (s.ctx c).st ≠ .free)
    (hKern : (s.ctx c).kern = none) (hJobs : (s.ctx c).jobs = []) (hClass : (s.ctx c).desc.cls ≠ 0) (hFlying : ∀ e ∈ s.flying, e.2.ctx ≠ c)
    (hQueued : ∀ q ∈ s.chanQueues, ∀ b ∈ q.2, b.ctx ≠ c) (hPlan : ∀ r ∈ s.plan.requests, r.ctx ≠ c) (hWaits : ∀ w ∈ s.waits, w.lock ∉ s.owned c)
    (hRising : s.locks.rising = true) : s.does (.ctxKill who c) fun t => (t.ctx c).st = .torn ∧
      (∀ n ∈ s.owned c, t.lockAt n = { s.lockAt n with poisoned := true }) ∧ t.value .colCmdStatus 0 0 = colStatus Code.ok c ∧
      t.answered who Code.ok := by
  obtain ⟨hOnTime, hQuiet⟩ := State.calm_iff.mp hCalm
  refine State.does_of rfl (settled_does hOnTime (colCommand_accepted (Q := fun t => ((t.ctx c).st = .torn ∧
    (∀ n ∈ s.owned c, t.lockAt n = { s.lockAt n with poisoned := true }) ∧ t.value .colCmdStatus 0 0 = colStatus Code.ok c ∧
    t.answered who Code.ok) ∧ t.quiet = true) hTakes (by decide) ?_))
  rw [Nat.mod_eq_of_lt hc]
  refine Act.Does.get_bind (Act.Does.ite (fun h => absurd h hState) fun _ => Act.Does.ite (fun h => absurd h hClass) fun _ => ?_)
  have hKill : (killContext c).Does s fun _ t => t.quiet = true ∧ (t.ctx c).st = .torn ∧
      ∀ n ∈ s.owned c, t.lockAt n = { s.lockAt n with poisoned := true } := by
    refine Act.Does.get_bind ((teardownSteps_idle hQuiet hKern hFlying hQueued hPlan hWaits hRising).bind fun _ t ht => Act.Does.modCtx_bind ?_)
    obtain ⟨hTorn, hCtx, hLocks⟩ := ht
    rw [hCtx]
    generalize hu : t.upd (.ctx c _) = u
    have hNew : u.ctx c = { s.ctx c with swapped := [], st := .torn } := by rw [← hu, State.ctx_upd_ctx]
    have hQuiet' : u.quiet = true := by
      rw [← hu]
      refine State.quiet_upd_ctx hTorn ?_
      change (s.ctx c).kern.any Kernel.settles = false
      rw [hKern]
      rfl
    have hLocks' (n : Nat) : u.lockAt n = t.lockAt n := by
      rw [← hu]
      rfl
    have hRest : (cancelQueued c).Does u fun _ v => v.quiet = true ∧ (v.ctx c).st = .torn ∧
        ∀ n ∈ s.owned c, v.lockAt n = { s.lockAt n with poisoned := true } := by
      refine (cancelQueued_none hQuiet' (by rw [hNew]; exact hKern) (by rw [hNew]; exact hJobs)).mono fun _ v hv => ⟨hv.1, by rw [hv.2.1, hNew], fun n hn => ?_⟩
      rw [State.lockAt, hv.2.2]
      exact (hLocks' n).trans ((hLocks n).trans (if_pos hn))
    refine Act.Does.ite (fun _ => Act.Does.after_idle (endJob_none (by rw [hNew]; exact hJobs) _ _ _ _) hRest) fun _ => hRest
  refine hKill.bind fun _ t ht => Act.Does.pure ⟨rfl, ⟨?_, ?_, State.colStatus_colAnswered t who _ c, answered_colAnswered _⟩, ?_⟩
  · exact ht.2.1
  · exact ht.2.2
  · rw [State.quiet_colAnswered]
    exact ht.1

/-- Settles O16: a context that ends is FREE or TORN, and one that reopens finds its Locks without poison. -/
theorem contextsEndAndReopen : Obligations.ContextsEndAndReopen :=
  ⟨fun _ _ _ hc hTakes hState hJobs => ctxDestroy_does hc hTakes hState hJobs,
    fun _ _ _ hc hTakes hCalm hState hKern hJobs hClass hFlying hQueued hPlan hWaits hRising =>
      ctxKill_does hc hTakes hCalm hState hKern hJobs hClass hFlying hQueued hPlan hWaits hRising,
    fun _ _ _ hc hTakes hTorn hRising => ctxReopen_does hc hTakes hTorn hRising⟩

end Sys2Proof.Machine

/-!
PROOF. A job that restarts, and the energy accounts (R188, R193, R206, R286).
-/
namespace Sys2Proof.Machine

variable {s t : State} {c : Nat}

/-! ## JOB_RESTART -/

/-- A Lock after its context's restart. -/
def Lock.rolledBack (l : Lock) : Lock :=
  { l with level := if l.jobzero then l.level else l.level - l.jobadd, jobadd := 0, poisoned := false }

theorem rollbackLocks_does (hRising : s.locks.rising = true) (hIdle : ∀ w ∈ s.waits, w.lock ∉ s.owned c) : (rollbackLocks c).Does s fun _ t =>
    t = { s with locks := t.locks } ∧ ∀ n, t.lockAt n = if n ∈ s.owned c then (s.lockAt n).rolledBack else s.lockAt n := by
  refine Act.Does.get_bind ((modLocks_does Lock.rolledBack _ (s.owned c) s (owned_nodup hRising c) fun n hn t ht => ?_).mono fun _ t ht => ht)
  refine (settle_idle fun w hw e => hIdle w (ht ▸ hw) (e ▸ hn)).bind ?_
  rintro _ _ rfl
  exact Act.Does.pure ⟨rfl, rfl⟩

/-- RD returns to MK on each queue of a list. -/
theorem rewindAll_does (s : State) : ∀ (qs : List Nat) (t : State), (∀ q ∈ qs, q < 64) → (∀ q, t.rg .weirQMk q = s.rg .weirQMk q) →
    (forIn qs PUnit.unit fun q _ => do weirRewind q; pure (ForInStep.yield PUnit.unit) : Act PUnit).Does t fun _ u =>
      u = { t with regs := u.regs } ∧ (∀ q ∈ qs, u.rg .weirQRd q = s.rg .weirQMk q) ∧
      ∀ q < 64, t.rg .weirQRd q = s.rg .weirQMk q → u.rg .weirQRd q = s.rg .weirQMk q
  | [], t, _, _ => Act.Does.pure ⟨rfl, by simp, fun _ _ h => h⟩
  | q :: qs, t, hLow, hMark => by
    have hq : q < 64 := hLow q List.mem_cons_self
    refine Act.Does.forIn_cons (P := fun u => u = t.upd (.reg (Reg.off .weirQRd q 0) (t.rg .weirQMk q)))
      (Act.Does.get_bind (Act.Does.reg_bind (Act.Does.pure ⟨rfl, rfl⟩))) ?_
    rintro _ rfl
    generalize hu : t.upd (.reg (Reg.off .weirQRd q 0) (t.rg .weirQMk q)) = u
    have hRd : u.rg .weirQRd q = s.rg .weirQMk q := by rw [← hu, State.rg_upd_reg, hMark]
    have hMark' (x : Nat) : u.rg .weirQMk x = s.rg .weirQMk x := by
      rw [← hu, ← hMark x]
      exact State.rg_upd_reg_other _ _ _ _ _ _ fun e => absurd (Reg.off_pointer_inj (by decide) (by decide) e).1 (by decide)
    refine (rewindAll_does s qs u (fun x hx => hLow x (List.mem_cons_of_mem _ hx)) hMark').mono fun _ v hv => ?_
    obtain ⟨hState, hAll, hKept⟩ := hv
    refine ⟨by rw [hState, ← hu]; rfl, fun x hx => ?_, fun x hx hOld => hKept x hx ?_⟩
    · rcases List.mem_cons.mp hx with rfl | hx
      · exact hKept x hq hRd
      · exact hAll x hx
    · by_cases he : x = q
      · rw [he, hRd]
      · rw [← hu, State.rg_upd_reg_other _ _ _ _ _ _ fun e => he (Reg.off_pointer_inj (by decide) (by decide) e).2, hOld]

theorem rewindQueues_does : (rewindQueues c).Does s fun _ t => t = { s with regs := t.regs } ∧
    ∀ q < 64, s.qOwner q = some c → t.rg .weirQRd q = s.rg .weirQMk q := by
  have hMem {q : Nat} : q ∈ s.queuesOf c ↔ q < 64 ∧ s.qOwner q = some c := by simp [State.queuesOf]
  refine Act.Does.get_bind ((rewindAll_does s (s.queuesOf c) s (fun q hq => (hMem.mp hq).1) fun _ => rfl).mono fun _ t ht => ?_)
  exact ⟨ht.1, fun q hq hOwner => ht.2.1 q (hMem.mpr ⟨hq, hOwner⟩)⟩

theorem jobRestart_does (hState : (s.ctx c).st = .restarting) (hRising : s.locks.rising = true) (hIdle : ∀ w ∈ s.waits, w.lock ∉ s.owned c) :
    s.does (.jobRestart c) fun t => t = { s with ctxs := t.ctxs, locks := t.locks, regs := t.regs } ∧
      (∀ q < 64, s.qOwner q = some c → t.rg .weirQRd q = s.rg .weirQMk q) ∧
      (t.ctx c).st = .ready ∧ (t.ctx c).nextKern = 0 ∧ (t.ctx c).started = false ∧
      (t.ctx c).restarts = (if (s.ctx c).started then (s.ctx c).restarts + 1 else (s.ctx c).restarts) ∧
      ∀ n, t.lockAt n = if n ∈ s.owned c then (s.lockAt n).rolledBack else s.lockAt n := by
  refine State.does_of rfl (Act.Does.get_bind (Act.Does.ite (fun _ => ?_) fun h => absurd hState h))
  refine (rollbackLocks_does hRising hIdle).bind fun _ t ht => rewindQueues_does.bind fun _ u hu => Act.Does.get_bind ?_
  obtain ⟨hLocked, hLocks⟩ := ht
  obtain ⟨hRewound, hQueues⟩ := hu
  have hCtx : u.ctx c = s.ctx c := by rw [hRewound, hLocked]; rfl
  have hOwner (q : Nat) : t.qOwner q = s.qOwner q := by rw [hLocked]; rfl
  have hMark (q : Nat) : t.rg .weirQMk q = s.rg .weirQMk q := by rw [hLocked]; rfl
  rw [hCtx]
  refine Act.Does.make ⟨?_, fun q hq h => ?_, ?_, ?_, ?_, ?_, fun n => ?_⟩
  · rw [hRewound, hLocked]
    rfl
  · exact (hQueues q hq ((hOwner q).trans h)).trans (hMark q)
  · rw [State.ctx_upd_ctx]
  · rw [State.ctx_upd_ctx]
  · rw [State.ctx_upd_ctx]
  · rw [State.ctx_upd_ctx]
  · rw [← hLocks n, State.lockAt_upd _ _ _ rfl, hRewound]
    rfl

/-! ## ENERGY_RESCALE -/

/-- What an entry adds to a sum, when it takes the place of another. -/
theorem Sparse.sum_put {α : Type} (f : Nat × α → Nat) : ∀ {m : Sparse α}, m.rising = true → ∀ {k : Nat} {a : α}, m.find k = some a → ∀ b,
    ((m.put k b).map f).sum + f (k, a) = (m.map f).sum + f (k, b)
  | [], _, _, _, h, _ => by cases h
  | (j, x) :: m, hRising, k, a, h, b => by
    obtain ⟨hLess, hRest⟩ := Sparse.rising_cons.mp hRising
    rw [Sparse.find] at h
    split at h
    · next hj =>
      cases h
      subst hj
      rw [Sparse.put, if_neg (lt_irrefl j), if_pos rfl]
      simp only [List.map_cons, List.sum_cons]
      omega
    · next hj =>
      have hMem := Sparse.mem_of_find h
      have hLow : j < k := hLess _ hMem
      have ih := Sparse.sum_put f hRest h b
      simp only [Sparse.put, hj, hLow, if_true, if_false, List.map_cons, List.sum_cons]
      omega

/-- Account 13 of all contexts together. -/
def energyOf (m : Sparse Context) : Nat := (m.map fun e => e.2.accts.at 13 0).sum

/-- A context after it has been charged the energy `e`. -/
def Context.charged (x : Context) (e : Nat) : Context :=
  { x with accts := x.accts.put 13 ((x.accts.at 13 0 + e) % 2 ^ 64), activity := [] }

theorem charge_does {β : Type} {e : Nat} {x : Context} {f : Unit → Act β} {Q : β → State → Prop} (hx : s.ctx c = x)
    (h : (f ()).Does { s with ctxs := s.ctxs.put c (x.charged e) } Q) :
    (do account c 13 e; Act.modCtx c fun x => { x with activity := [] }; f ()).Does s Q := by
  subst hx
  refine Act.Does.bind (Q := fun _ t => t = s.upd (.ctx c { s.ctx c with accts := (s.ctx c).accts.put 13 (((s.ctx c).accts.at 13 0 + e) % 2 ^ 64) })) ?_ ?_
  · exact Act.Does.modCtx_bind (Act.Does.ite (fun h => absurd h (by decide)) fun _ => Act.Does.pure rfl)
  · rintro _ _ rfl
    refine Act.Does.modCtx_bind ?_
    rw [State.ctx_upd_ctx, State.upd_ctx_ctx]
    exact h

/-- What the contexts charged so far and the energy left come to. -/
structure State.Charging (s : State) (m : Nat) (left : Nat) (rest : Sparse Context) (t : State) : Prop where
  state : t = { s with ctxs := t.ctxs }
  rising : t.ctxs.rising = true
  total : (energyOf t.ctxs + left) % 2 ^ 64 = (energyOf s.ctxs + m) % 2 ^ 64
  idle : ∀ c, (s.ctx c).activity = [] → t.ctx c = s.ctx c
  found : ∀ e ∈ rest, t.ctxs.find e.1 = some e.2

theorem chargeAll_does (s : State) (m i : Nat) : ∀ (rest : Sparse Context) (left : Nat) (t : State), (rest.map (·.1)).Nodup → rest ⊆ s.ctxs →
    s.ctxs.rising = true → s.Charging m left rest t → (forIn rest left fun (p : Nat × Context) left => do
      if !p.2.activity.isEmpty then
        account p.1 13 (min left (p.2.energy i))
        Act.modCtx p.1 fun x => { x with activity := [] }
        pure (ForInStep.yield (left - min left (p.2.energy i)))
      else pure (ForInStep.yield left) : Act Nat).Does t fun left u => s.Charging m left [] u
  | [], _, _, _, _, _, h => Act.Does.pure h
  | (c, x) :: rest, left, t, hNodup, hIn, hRising, h => by
    obtain ⟨hOut, hNodup⟩ := List.nodup_cons.mp hNodup
    have hSub : rest ⊆ s.ctxs := fun e he => hIn (List.mem_cons_of_mem _ he)
    have hFind : t.ctxs.find c = some x := h.found _ List.mem_cons_self
    have hCtx : t.ctx c = x := by rw [State.ctx, Sparse.at, hFind]; rfl
    have hOld : s.ctx c = x := by rw [State.ctx, Sparse.at, Sparse.find_of_mem hRising (hIn List.mem_cons_self)]; rfl
    have hRest (left : Nat) (u : State) (hu : s.Charging m left rest u) := chargeAll_does s m i rest left u hNodup hSub hRising hu
    rw [List.forIn_cons]
    by_cases hx : x.activity = []
    · refine Act.Does.bind (Q := fun r u => r = .yield left ∧ u = t) ?_ ?_
      · exact Act.Does.ite (fun h => absurd h (by simp [hx])) fun _ => Act.Does.pure ⟨rfl, rfl⟩
      · rintro _ u ⟨rfl, rfl⟩
        exact hRest left u ⟨h.state, h.rising, h.total, h.idle, fun e he => h.found e (List.mem_cons_of_mem _ he)⟩
    · let e := min left (x.energy i)
      have hLeft : e ≤ left := Nat.min_le_left _ _
      refine Act.Does.bind (Q := fun r u => r = .yield (left - e) ∧ u = { t with ctxs := t.ctxs.put c (x.charged e) }) ?_ ?_
      · refine Act.Does.ite (fun _ => ?_) fun hNot => absurd (by simpa using hx) hNot
        exact charge_does (f := fun _ => pure _) hCtx (Act.Does.pure ⟨rfl, rfl⟩)
      · rintro _ u ⟨rfl, rfl⟩
        refine hRest (left - e) _ ⟨?_, Sparse.rising_put h.rising _ _, ?_, fun d hd => ?_, fun y hy => ?_⟩
        · rw [h.state]
        · have hSum := Sparse.sum_put (fun e => e.2.accts.at 13 0) h.rising hFind (x.charged e)
          have hNew : (x.charged e).accts.at 13 0 = (x.accts.at 13 0 + e) % 2 ^ 64 := Sparse.at_put_same _ _ _ _
          have hTotal := h.total
          simp only [energyOf, hNew] at hSum hTotal ⊢
          omega
        · have hd' : d ≠ c := fun eq => hx (by rw [← hOld, ← eq]; exact hd)
          rw [← h.idle d hd]
          exact Sparse.at_put_other _ _ _ hd'
        · have hy' : y.1 ≠ c := fun eq => hOut (List.mem_map.mpr ⟨y, hy, eq⟩)
          rw [Sparse.find_put_other _ _ hy']
          exact h.found y (List.mem_cons_of_mem _ hy)

theorem energyRescale_does {m : Nat} (h : s.Canonical) : s.does (.energyRescale m) fun t =>
    t = { s with ctxs := t.ctxs, residual := t.residual, therm := t.therm } ∧
      (energyOf t.ctxs + t.residual.at 13 0) % 2 ^ 64 = (energyOf s.ctxs + s.residual.at 13 0 + m) % 2 ^ 64 ∧
      ∀ c, (s.ctx c).activity = [] → t.ctx c = s.ctx c := by
  refine State.does_of rfl (Act.Does.get_bind ((chargeAll_does s m s.therm.interval s.ctxs m s (Sparse.keys_nodup h.ctxs) (List.Subset.refl _) h.ctxs
    ⟨rfl, h.ctxs, rfl, fun _ _ => rfl, fun e he => Sparse.find_of_mem h.ctxs he⟩).bind fun left t ht => ?_))
  refine Act.Does.get_bind (Act.Does.make_bind (Act.Does.make ⟨?_, ?_, ht.idle⟩))
  · rw [ht.state]
    rfl
  · have hResidual : t.residual = s.residual := by rw [ht.state]
    have hTotal := ht.total
    have hNew : ∀ v, (s.residual.put 13 v).at 13 0 = v := fun v => Sparse.at_put_same _ _ _ _
    change (energyOf t.ctxs + (t.residual.put 13 ((t.residual.at 13 0 + left) % 2 ^ 64)).at 13 0) % 2 ^ 64 = _
    rw [hResidual, hNew]
    omega

/-- Settles O18: a restart takes the Locks and queues of a context back; what a calibration measured is charged in full. -/
theorem restartAndEnergy : Obligations.RestartAndEnergy :=
  ⟨fun _ _ hState hRising hIdle => jobRestart_does hState hRising hIdle, fun _ _ h => energyRescale_does h⟩

end Sys2Proof.Machine

/-!
PROOF. An engine issues a bundle without accesses, sends or Lock acts (R79, R85, R94).
-/
namespace Sys2Proof.Machine

variable {s t : State} {c e : Nat} {α : Type}

/-! ## Where an engine stands -/

/-- What an issue moves of an engine: its place in the program, its cycle and its pointers. -/
def Engine.place (x : Engine) : Nat × Nat × List Nat × Bool × Nat × Nat × Nat :=
  (x.pc, x.rep, x.lc, x.ended, x.cyc, x.ap, x.vp)

/-- No result of the engine lands in Basin. -/
def Engine.landsInCells (x : Engine) : Prop := ∀ l ∈ x.landings, ∀ pa bytes, l.target ≠ .basin pa bytes

/-- The fields an issue of an engine writes that makes no access. -/
def issueFields : List Fld := [.regs, .freeCount, .engines, .ctxs]

/-- A device in the middle of an issue of engine `e` of context `c` that began at `s`: the engine stands at `p`, and its
account at `a`. -/
structure State.Issuing (s : State) (e c : Nat) (p : Nat × Nat × List Nat × Bool × Nat × Nat × Nat) (a : Nat) (t : State) :
    Prop where
  same : s.SameBut issueFields t
  others : ∀ f, f ≠ e → t.engine f = s.engine f
  place : (t.engine e).place = p
  lands : (t.engine e).landsInCells
  account : (t.ctx c).accts.at e 0 = a
  kern : (t.ctx c).kern.isSome = true
  quiet : t.quiet = true

variable {p q : Nat × Nat × List Nat × Bool × Nat × Nat × Nat} {a : Nat}

theorem State.Issuing.upd_engine (h : s.Issuing e c p a t) {x : Engine} (hPlace : x.place = q) (hLands : x.landsInCells) :
    s.Issuing e c q a (t.upd (.engine e x)) where
  same := h.same.upd (by simp [Upd.fields, issueFields])
  others f hf := by rw [State.engine_upd_engine_other x hf, h.others f hf]
  place := by rw [State.engine_upd_engine, hPlace]
  lands := by rw [State.engine_upd_engine]; exact hLands
  account := h.account
  kern := h.kern
  quiet := h.quiet

theorem State.Issuing.upd_reg (h : s.Issuing e c p a t) (n : Nat) (w : Word) : s.Issuing e c p a (t.upd (.reg n w)) where
  same := h.same.upd (by simp [Upd.fields, issueFields])
  others := h.others
  place := h.place
  lands := h.lands
  account := h.account
  kern := h.kern
  quiet := h.quiet

theorem State.Issuing.upd_draw (h : s.Issuing e c p a t) : s.Issuing e c p a (t.upd .draw) where
  same := h.same.upd (by simp [Upd.fields, issueFields])
  others := h.others
  place := h.place
  lands := h.lands
  account := h.account
  kern := h.kern
  quiet := h.quiet

/-- A change of the context that keeps its kernel waiting for nothing that failed. -/
theorem State.Issuing.upd_ctx {b : Nat} (h : s.Issuing e c p a t) {x : Context} (hAccount : x.accts.at e 0 = b)
    (hKern : x.kern.isSome = true) (hSettles : x.kern.any Kernel.settles = (t.ctx c).kern.any Kernel.settles) :
    s.Issuing e c p b (t.upd (.ctx c x)) where
  same := h.same.upd (by simp [Upd.fields, issueFields])
  others := h.others
  place := h.place
  lands := h.lands
  account := by rw [State.ctx_upd_ctx, hAccount]
  kern := by rw [State.ctx_upd_ctx, hKern]
  quiet := State.quiet_upd_ctx h.quiet (hSettles.trans (t.not_settles_of_quiet h.quiet c))

/-! ## Actions that keep a predicate -/

/-- An action that keeps a predicate of the device. -/
def Act.Keeps (P : State → Prop) (x : Act α) : Prop := ∀ t, P t → x.Does t fun _ u => P u

variable {P : State → Prop} {β : Type}

theorem keeps_pure (b : α) : (pure b : Act α).Keeps P := fun _ h => Act.Does.pure h

theorem keeps_bind {x : Act α} {f : α → Act β} (hx : x.Keeps P) (hf : ∀ b, (f b).Keeps P) : (x >>= f).Keeps P :=
  fun t h => (hx t h).bind fun b u hu => hf b u hu

theorem keeps_get_bind {f : State → Act β} (hf : ∀ u, (f u).Keeps P) : (Act.get >>= f).Keeps P :=
  fun t h => Act.Does.get_bind (hf t t h)

theorem keeps_ite {b : Prop} [Decidable b] {x y : Act α} (hx : x.Keeps P) (hy : y.Keeps P) : (if b then x else y).Keeps P :=
  fun t h => Act.Does.ite (fun _ => hx t h) fun _ => hy t h

/-! ## The parts of an issue -/

/-- Writing cells moves nothing else of an engine. -/
theorem Engine.foldl_cells {γ : Type} {f : Engine → γ → Engine}
    (hf : ∀ z o, (f z o).place = z.place ∧ (f z o).landings = z.landings) (l : List γ) (x : Engine) :
    (l.foldl f x).place = x.place ∧ (l.foldl f x).landings = x.landings := by
  induction l generalizing x with
  | nil => exact ⟨rfl, rfl⟩
  | cons o l ih =>
    obtain ⟨hPlace, hLandings⟩ := ih (f x o)
    exact ⟨hPlace.trans (hf x o).1, hLandings.trans (hf x o).2⟩

/-- Results of the dot unit, the vector unit and a POP land in the cell. -/
theorem Engine.cellIssue_lands (x : Engine) (n : Nat) (w : EW) (past : Nat → Byte) :
    ∀ l ∈ (x.cellIssue n w past).landings, ∀ pa bytes, l.target ≠ .basin pa bytes := by
  intro l hl pa bytes hTarget
  simp only [Engine.cellIssue, List.mem_append] at hl
  rcases hl with (hDot | hVector) | hPop
  · split at hDot <;> simp_all
  · split at hVector <;> [skip; split at hVector] <;> simp_all
  · split at hPop <;> [split at hPop; skip] <;> simp_all

/-- The results due land, none of them in Basin. -/
theorem land_issuing : (land e).Keeps (s.Issuing e c p a) := fun t h => by
  refine Act.Does.get_bind (Act.Does.ite (fun _ => ?_) fun _ => Act.Does.pure h)
  have hCells := Engine.foldl_cells (f := fun y (l : Landing) => match l.target with
    | .basin _ _ => y
    | t => y.setCell l.cell ((y.cell l.cell).land t)) (fun z l => by
      cases l.target <;> exact ⟨rfl, rfl⟩)
    ((t.engine e).landings.filter fun l => l.due ≤ (t.engine e).cyc) (t.engine e)
  refine Act.Does.make_bind ((Act.Does.idleLoop _ fun l hl => ?_).mono fun _ u hu => hu.2 ▸ ?_)
  · have hCell := h.lands l (List.mem_of_mem_filter hl)
    cases hTarget : l.target
    case basin pa bytes => exact absurd hTarget (hCell pa bytes)
    all_goals exact Act.Does.pure ⟨rfl, rfl⟩
  · exact h.upd_engine (hCells.1.trans h.place) fun l hl => h.lands l (List.mem_of_mem_filter hl)

theorem account_issuing {n : Nat} (hn : n < 9) (h : s.Issuing e c p a t) : (account c n 1).Does t fun _ u =>
    s.Issuing e c p (if n = e then (a + 1) % 2 ^ 64 else a) u := by
  refine Act.Does.modCtx_bind (Act.Does.ite (fun hTier => absurd hTier.1 (by omega)) fun _ => Act.Does.pure ?_)
  refine h.upd_ctx ?_ h.kern rfl
  by_cases hSame : n = e
  · simp [hSame, h.account]
  · rw [if_neg hSame, Sparse.at_put_other _ _ _ (Ne.symm hSame), h.account]

theorem modKernel_issuing {f : Kernel → Kernel} (hf : ∀ k, (f k).settles = k.settles) :
    (Act.modKernel c f).Keeps (s.Issuing e c p a) := fun t h => by
  refine Act.Does.get_bind (Act.Does.make (h.upd_ctx h.account ?_ ?_))
  · simpa using h.kern
  · show ((t.ctx c).kern.map f).any Kernel.settles = _
    cases (t.ctx c).kern with
    | none => rfl
    | some k => exact hf k

theorem engineCycles_issuing (he : e < 8) (h : s.Issuing e c p a t) : (engineCycles c e 1).Does t fun _ u =>
    s.Issuing e c p ((a + 1) % 2 ^ 64) u := by
  refine (account_issuing (by omega) h).bind fun _ u hu => ?_
  rw [if_pos rfl] at hu
  exact modKernel_issuing (f := fun k => { k with cycles := k.cycles + 1 }) (fun _ => rfl) u hu

theorem active_issuing (n v : Nat) : (active c n v).Keeps (s.Issuing e c p a) := fun _ h =>
  Act.Does.get_bind (Act.Does.make (h.upd_ctx h.account h.kern rfl))

theorem countActivity_issuing (w : EW) (cells lines : Nat) : (countActivity c w cells lines).Keeps (s.Issuing e c p a) := by
  have hVector : (if w.vop ≠ 0 then active c 17 (cells * (if w.half && w.vop ≤ 6 then 64 else 32)) else pure ()).Keeps
      (s.Issuing e c p a) := keeps_ite (active_issuing 17 _) (keeps_pure ())
  have hLines := keeps_ite (b := lines ≠ 0) (keeps_bind (active_issuing 16 lines) fun _ => hVector) hVector
  exact keeps_ite (keeps_bind (active_issuing _ _) fun _ => hLines) hLines

theorem modEngine_issuing {f : Engine → Engine} (hPlace : ∀ z : Engine, z.place = p → (f z).place = q)
    (hLands : ∀ z : Engine, z.landsInCells → (f z).landsInCells) (h : s.Issuing e c p a t) :
    (Act.modEngine e f).Does t fun _ u => s.Issuing e c q a u :=
  Act.Does.get_bind (Act.Does.make (h.upd_engine (hPlace _ h.place) (hLands _ h.lands)))

/-- LOOP_SET. -/
def Engine.loopSet (x : Engine) (cw : CW) : Engine :=
  if cw.loop = 1 then { x with lc := x.lc.set cw.loopId cw.count } else x

theorem Engine.place_eq_iff {x y : Engine} : x.place = y.place ↔ x.pc = y.pc ∧ x.rep = y.rep ∧ x.lc = y.lc ∧
    x.ended = y.ended ∧ x.cyc = y.cyc ∧ x.ap = y.ap ∧ x.vp = y.vp := by
  simp [Engine.place]

theorem Engine.place_afterIssue {x y : Engine} (cw : CW) (h : y.place = x.place) :
    (y.afterIssue cw).place = (x.afterIssue cw).place := by
  obtain ⟨hPc, hRep, hLc, hEnded, hCyc, hAp, hVp⟩ := Engine.place_eq_iff.mp h
  unfold Engine.afterIssue
  rw [hRep, hLc, hPc]
  split_ifs <;> simp [Engine.place, *]

theorem Engine.landings_afterIssue (x : Engine) (cw : CW) : (x.afterIssue cw).landings = x.landings := by
  unfold Engine.afterIssue
  split_ifs <;> rfl

/-- The control word of a bundle without Lock acts and barges is its LOOP_SET. -/
theorem controlActs_issuing {cw : CW} (hGo : cw.go = false) (hOp : cw.lockOp = 0) {x : Engine}
    (h : s.Issuing e c x.place a t) : (controlActs c e cw).Does t fun r u => r = none ∧ s.Issuing e c (x.loopSet cw).place a u := by
  refine Act.Does.get_bind ?_
  obtain ⟨k, hKern⟩ := Option.isSome_iff_exists.mp h.kern
  simp only [hKern, hGo, hOp, Bool.false_and, Bool.false_eq_true, if_false, show ¬ 0 = 2 by decide, decide_false]
  unfold Engine.loopSet
  refine Act.Does.ite (fun hLoop => ?_) fun hLoop => ?_
  · rw [if_pos hLoop]
    refine (modEngine_issuing (f := fun z => { z with lc := z.lc.set cw.loopId cw.count }) (fun z hz => ?_) (fun z hz => hz)
      h).bind fun _ u hu => Act.Does.pure ⟨rfl, hu⟩
    obtain ⟨hPc, hRep, hLc, hEnded, hCyc, hAp, hVp⟩ := Engine.place_eq_iff.mp hz
    simp [Engine.place, *]
  · rw [if_neg hLoop]
    exact Act.Does.pure ⟨rfl, h⟩

/-- The pointers and the cycle after an issue. -/
def Engine.stepped (x : Engine) (w : EW) : Engine := { x with ap := w.nextAp x.ap, vp := w.nextVp x.vp, cyc := x.cyc + 1 }

/-- Where the engine stands after an issue. -/
def Engine.issued (x : Engine) (cw : CW) (w : EW) : Engine :=
  (if x.rep = 0 then (x.stepped w).loopSet cw else x.stepped w).afterIssue cw

theorem keeps_get {P : State → Prop} : Act.get.Keeps P := fun _ h => Act.Does.get h

theorem countSat_issuing (r : Reg) (i hi lo n : Nat) : (Act.countSat r i hi lo n).Keeps (s.Issuing e c p a) :=
  fun _ h => Act.Does.get_bind (Act.Does.get_bind (Act.Does.make (h.upd_reg _ _)))

/-- An issue that makes no access and sends nothing. -/
theorem performIssue_issuing {k : Kernel} {cw : CW} {w : EW} {cells : List Nat} (he : e < 8) (hSop : w.sop = 0)
    (hGo : cw.go = false) (hOp : cw.lockOp = 0) {x : Engine} (hx : t.engine e = x)
    (h : s.Issuing e c x.place a t) : (performIssue c e k cw w cells [] []).Does t fun r u => r = none ∧
      s.Issuing e c (x.issued cw w).place ((a + 1) % 2 ^ 64) u := by
  unfold performIssue
  refine Act.Does.get_bind ?_
  extract_lets y consts v failed reads finish
  obtain rfl : y = x := hx
  refine (Act.Does.emptyLoop (f := _) rfl).bind fun r u hr => ?_
  obtain ⟨rfl, rfl⟩ := hr
  refine Act.Does.ite (fun hFailed => absurd hFailed (by simp [failed])) fun _ => ?_
  have hFinish (r : Unit) (z : Engine) (v : State) (b : Nat) (hv : s.Issuing e c z.place b v) : (finish r none).Does v fun r t =>
      r = none ∧ s.Issuing e c (z.afterIssue cw).place b t := by
    refine (modEngine_issuing (fun z hz => ?_) (fun z hz => ?_) hv).bind fun _ t ht => Act.Does.pure ⟨rfl, ht⟩
    · exact Engine.place_afterIssue cw hz
    · exact fun l hl => hz l (Engine.landings_afterIssue z cw ▸ hl)
  clear_value finish
  extract_lets perform
  have hPerform (draw : Nat) (v : State) (hv : s.Issuing e c y.place a v) : (perform draw).Does v fun r t =>
      r = none ∧ s.Issuing e c (y.issued cw w).place ((a + 1) % 2 ^ 64) t := by
    unfold perform
    extract_lets outs sat nan compute counted
    have hOuts : ∀ l ∈ outs.flatMap fun o => o.2.landings, ∀ pa bytes, l.target ≠ .basin pa bytes := by
      intro l hl
      obtain ⟨o, ho, hl⟩ := List.mem_flatMap.mp hl
      simp only [outs] at ho
      split_ifs at ho
      · exact absurd ho List.not_mem_nil
      · obtain ⟨n, _, rfl⟩ := List.mem_map.mp ho
        exact Engine.cellIssue_lands y n w _ l hl
    have hCompute (r : Unit) (v : State) (hv : s.Issuing e c y.place a v) : (compute r).Does v fun r t =>
        r = none ∧ s.Issuing e c (y.issued cw w).place ((a + 1) % 2 ^ 64) t := by
      refine (modEngine_issuing (q := y.place) (fun z hz => ?_) (fun z hz => ?_) hv).bind fun _ v hv => ?_
      · exact (Engine.foldl_cells (f := fun z (o : Nat × CellOut) => z.setCell o.1 o.2.cell) (fun _ _ => ⟨rfl, rfl⟩) outs z).1.trans hz
      · intro l hl
        simp only [reads, List.append_nil, List.mem_append] at hl
        exact hl.elim (hz l) (hOuts l)
      refine Act.Does.bind (Act.Does.idleLoop _ fun n _ => ?_) ?_
      · exact Act.Does.ite (fun hSend => absurd hSend (by simp [hSop])) fun _ => Act.Does.pure ⟨rfl, rfl⟩
      rintro _ _ ⟨rfl, rfl⟩
      refine Act.Does.ite (fun hFailed => absurd hFailed (by simp [failed])) fun _ => ?_
      refine Act.Does.ite (fun hWeir => absurd hWeir (by simp [hSop])) fun _ => ?_
      refine (Act.Does.emptyLoop (f := _) rfl).bind ?_
      rintro _ v ⟨rfl, rfl⟩
      extract_lets moved
      have hMoved (r : Unit) (v : State) (hv : s.Issuing e c y.place a v) : (moved r).Does v fun r t =>
          r = none ∧ s.Issuing e c (y.issued cw w).place ((a + 1) % 2 ^ 64) t := by
        refine (modEngine_issuing (q := (y.stepped w).place) (fun z hz => ?_) (fun z hz => ?_) hv).bind fun _ v hv => ?_
        · obtain ⟨hPc, hRep, hLc, hEnded, _, _, _⟩ := Engine.place_eq_iff.mp hz
          exact Engine.place_eq_iff.mpr ⟨hPc, hRep, hLc, hEnded, rfl, rfl, rfl⟩
        · exact hz
        refine (engineCycles_issuing he hv).bind fun _ v hv => ?_
        refine (countActivity_issuing _ _ _ v hv).bind fun _ v hv => (land_issuing v hv).bind fun _ v hv => ?_
        refine Act.Does.ite (fun hRep => (controlActs_issuing hGo hOp hv).bind fun r v hr => ?_) fun hRep => ?_
        · obtain ⟨rfl, hv⟩ := hr
          rw [Engine.issued, if_pos hRep]
          exact hFinish () _ _ _ hv
        · rw [Engine.issued, if_neg hRep]
          exact hFinish () _ _ _ hv
      refine Act.Does.ite (fun _ => ?_) fun _ => hMoved () _ hv
      have hCells (z : Engine) := Engine.foldl_cells (f := fun z n => z.setCell n ((z.cell n).update w consts))
        (fun _ _ => ⟨rfl, rfl⟩) cells z
      refine (modEngine_issuing (q := y.place) (fun z hz => (hCells z).1.trans hz) (fun z hz => ?_) hv).bind
        fun r v hv => hMoved r v hv
      exact fun l hl => hz l ((hCells z).2 ▸ hl)
    clear_value compute
    have hCounted (r : Unit) (v : State) (hv : s.Issuing e c y.place a v) : (counted r).Does v fun r t =>
        r = none ∧ s.Issuing e c (y.issued cw w).place ((a + 1) % 2 ^ 64) t :=
      Act.Does.ite (fun _ => (countSat_issuing _ _ _ _ _ v hv).bind fun r v hv => hCompute r v hv) fun _ => hCompute () v hv
    exact Act.Does.ite (fun _ => (countSat_issuing _ _ _ _ _ v hv).bind fun r v hv => hCounted r v hv) fun _ => hCounted () v hv
  exact Act.Does.ite (fun _ => Act.Does.get_bind (Act.Does.make_bind (Act.Does.pure_bind (hPerform _ _ h.upd_draw)))) fun _ =>
    Act.Does.pure_bind (hPerform 0 _ h)

/-- No cell makes an access where neither port has an operation. -/
theorem portAccesses_none {v : Via} {x : Engine} {w : EW} {cells : List Nat} (hFirst : (w.port 0).bop = 0)
    (hSecond : (w.port 1).bop = 0) : (portAccesses v e x w cells).Does t fun r u => r = .inl [] ∧ u = t := by
  refine Act.Does.bind (Act.Does.idleLoop _ fun n _ => ?_) ?_
  · refine Act.Does.bind (Act.Does.idleLoop _ fun i hi => ?_) ?_
    · refine Act.Does.ite (fun hAccess => absurd hAccess ?_) fun _ => Act.Does.pure ⟨rfl, rfl⟩
      rcases List.mem_pair.mp hi with rfl | rfl <;> simp [hFirst, hSecond]
    · rintro _ _ ⟨rfl, rfl⟩
      exact Act.Does.pure ⟨rfl, rfl⟩
  · rintro _ _ ⟨rfl, rfl⟩
    exact Act.Does.pure ⟨rfl, rfl⟩

theorem towpathStall_none {k : Kernel} {x : Engine} {w : EW} {cells : List Nat} (hFirst : (w.port 0).bop = 0)
    (hSecond : (w.port 1).bop = 0) (hSop : w.sop = 0) (hRop : w.rop = 0) : s.towpathStall k x w cells = false := by
  simp [State.towpathStall, hFirst, hSecond, hSop, hRop]

/-- An engine that nothing holds issues. -/
theorem tryIssue_issuing {k : Kernel} {cw : CW} {w : EW} (he : e < 8) {x : Engine} (hx : t.engine e = x)
    (hReady : w.readyAt x.board x.ap x.vp x.vbusy x.cyc ≤ x.cyc) (hLandings : x.landings = [])
    (hDrains : t.drains.at e [] = []) (hFirst : (w.port 0).bop = 0) (hSecond : (w.port 1).bop = 0) (hSop : w.sop = 0)
    (hRop : w.rop = 0) (hGo : cw.go = false) (hOp : cw.lockOp = 0) (h : s.Issuing e c x.place a t) :
    (tryIssue c e k cw w).Does t fun _ u => s.Issuing e c (x.issued cw w).place ((a + 1) % 2 ^ 64) u := by
  subst hx
  refine Act.Does.get_bind (Act.Does.ite (fun hHeld => absurd hHeld (by omega)) fun _ => ?_)
  refine Act.Does.bind (Q := fun _ u => u = t) (Act.Does.get_bind (Act.Does.ite (fun hDue => absurd hDue (by simp [hLandings]))
    fun _ => Act.Does.pure rfl)) ?_
  rintro _ t rfl
  refine Act.Does.get_bind ?_
  refine Act.Does.ite (fun hStall => absurd hStall ?_) fun _ => ?_
  · simp [hGo, hDrains, towpathStall_none hFirst hSecond hSop hRop]
  refine Act.Does.ite (fun hWeir => absurd hWeir (by simp [hSop])) fun _ => ?_
  refine (portAccesses_none hFirst hSecond).bind ?_
  rintro _ t ⟨rfl, rfl⟩
  refine Act.Does.ite (fun hSend => absurd hSend (by simp [hSop])) fun _ => Act.Does.pure_bind ?_
  refine (performIssue_issuing he hSop hGo hOp rfl h).bind ?_
  rintro _ u ⟨rfl, hu⟩
  exact Act.Does.pure hu

end Sys2Proof.Machine

/-!
PROOF. Engines issue, and pass a barrier or begin a WAIT (R80, R94, R95).
-/
namespace Sys2Proof.Machine

variable {s t : State} {c e : Nat}

/-! ## The engine's place -/

theorem place_issued (x : Engine) (cw : CW) (w : EW) :
    (x.issued cw w).place = { placeAfter x cw with ap := w.nextAp x.ap, vp := w.nextVp x.vp, cyc := x.cyc + 1 }.place := by
  unfold Engine.issued placeAfter Engine.loopSet
  by_cases hRep : x.rep = 0 <;> by_cases hLoop : cw.loop = 1 <;>
    simp only [hRep, hLoop, if_true, if_false, true_and, false_and, and_false] <;>
    (unfold Engine.afterIssue; split_ifs <;> simp_all [Engine.stepped, Engine.place])

theorem bundleIssue_issuing {k : Kernel} {cw : CW} {ws : List EW} {x : Engine} (hx : s.engine e = x)
    (hCtx : x.ctx = some c) (hKern : (s.ctx c).kern = some k) (hIn : e ∈ k.engines) (hPhase : k.phase = .running)
    (hWait : k.wait = none) (hEnded : x.ended = false) (hMode : x.mode = .issuing) (hWaitFrom : x.waitFrom = none)
    (hBundle : s.bundleAt k x.pc = some (cw, ws)) (hPassed : cw.yield = true → x.passed = true) (hRuns : s.runs = true)
    {Q : State → Prop}
    (hTry : (tryIssue c e k cw (ws.getD x.logical 0)).Does (s.upd (.ctx c { s.ctx c with kern := some { k with wait := none } }))
      fun _ t => Q t) : (bundleIssue e).Does s fun _ t => Q t := by
  subst hx
  refine Act.Does.get_bind ?_
  simp only [hCtx, hKern, hBundle]
  refine Act.Does.ite (fun hIdle => absurd hIdle (by simp [hRuns, hIn, hPhase, hEnded, hMode])) fun _ => ?_
  refine Act.Does.ite (fun hBarrier => absurd hBarrier (by simpa using hPassed)) fun _ => ?_
  refine Act.Does.ite (fun hHolds => absurd hHolds (by simp [hWait])) fun _ => ?_
  refine Act.Does.bind (Q := fun _ t => t = s) (Act.Does.get_bind ?_) ?_
  · simp only [hWaitFrom]
    exact Act.Does.pure rfl
  rintro _ s rfl
  refine Act.Does.modCtx_bind ?_
  rw [hKern]
  exact hTry

/-! ## The barrier -/

/-- An engine that has passed its barrier. -/
def Engine.pastBarrier (x : Engine) : Prop := x.passed = true ∧ x.atYield = false ∧ x.sinceJoin = 0

/-- Engines `l` have passed their barrier, and nothing else has changed but registers. -/
structure State.Passed (s : State) (l : List Nat) (t : State) : Prop where
  state : t = { s with engines := t.engines, regs := t.regs }
  past : ∀ f ∈ l, (t.engine f).pastBarrier
  keeps : ∀ f, (s.engine f).pastBarrier → (t.engine f).pastBarrier
  pc : ∀ f, (t.engine f).pc = (s.engine f).pc

theorem State.Passed.refl (s : State) : s.Passed [] s := ⟨rfl, fun _ h => absurd h List.not_mem_nil, fun _ h => h, fun _ => rfl⟩

theorem State.Passed.cons {l : List Nat} {t u : State} (h : s.Passed [e] t) (h' : t.Passed l u) : s.Passed (e :: l) u where
  state := by rw [h'.state, h.state]
  past f hf := by
    rcases List.mem_cons.mp hf with rfl | hf
    · exact h'.keeps f (h.past f List.mem_cons_self)
    · exact h'.past f hf
  keeps f hf := h'.keeps f (h.keeps f hf)
  pc f := (h'.pc f).trans (h.pc f)

theorem State.Passed.of_engine (hState : t = { s with engines := t.engines, regs := t.regs })
    (hPast : (t.engine e).pastBarrier) (hPc : (t.engine e).pc = (s.engine e).pc)
    (hOthers : ∀ f, f ≠ e → t.engine f = s.engine f) : s.Passed [e] t where
  state := hState
  past f hf := List.mem_singleton.mp hf ▸ hPast
  keeps f hf := by
    by_cases hSame : f = e
    · exact hSame ▸ hPast
    · exact (hOthers f hSame).symm ▸ hf
  pc f := by
    by_cases hSame : f = e
    · exact hSame ▸ hPc
    · rw [hOthers f hSame]

/-- The interval up to a join is noted in registers, and the next begins. -/
theorem noteJoin_does (e : Nat) (yield : Bool) (s : State) : (noteJoin e yield).Does s fun _ t =>
    ∃ r, t = { s with regs := r }.upd (.engine e { s.engine e with sinceJoin := 0 }) := by
  have hClear (r : Sparse Word) : (Act.modEngine e fun x => { x with sinceJoin := 0 }).Does { s with regs := r } fun _ t =>
      ∃ r, t = { s with regs := r }.upd (.engine e { s.engine e with sinceJoin := 0 }) :=
    Act.Does.get_bind (Act.Does.make ⟨r, rfl⟩)
  have hCount (r : Sparse Word) : (if yield = true then do
        Act.regField .engYield e 31 16 (s.rf .engYield e 31 16 + 1)
        Act.modEngine e fun x => { x with sinceJoin := 0 }
      else Act.modEngine e fun x => { x with sinceJoin := 0 } : Act Unit).Does { s with regs := r } fun _ t =>
      ∃ r, t = { s with regs := r }.upd (.engine e { s.engine e with sinceJoin := 0 }) :=
    Act.Does.ite (fun _ => Act.Does.regField_bind (hClear _)) fun _ => hClear r
  exact Act.Does.get_bind (Act.Does.ite (fun _ => Act.Does.regField_bind (hCount _)) fun _ => hCount s.regs)

/-- One engine of a kernel passes the barrier. -/
def passBarrier (e : Nat) : Act Unit := do
  noteJoin e true
  Act.modEngine e fun x => { x with atYield := false, passed := true }

theorem passBarrier_does (e : Nat) (s : State) : (passBarrier e).Does s fun _ t => s.Passed [e] t := by
  refine (noteJoin_does e true s).bind fun _ t ht => ?_
  obtain ⟨r, rfl⟩ := ht
  refine Act.Does.get_bind (Act.Does.make (State.Passed.of_engine rfl ?_ ?_ fun f hf => ?_))
  · rw [State.engine_upd_engine, State.engine_upd_engine]
    exact ⟨rfl, rfl, rfl⟩
  · rw [State.engine_upd_engine, State.engine_upd_engine]
  · rw [State.engine_upd_engine_other _ hf, State.engine_upd_engine_other _ hf]
    rfl

/-- The kernel's engines pass the barrier. -/
theorem passBarriers_does (l : List Nat) (s : State) :
    (forIn l PUnit.unit (fun e _ => do
      noteJoin e true
      Act.modEngine e fun x => { x with atYield := false, passed := true }
      pure (ForInStep.yield PUnit.unit)) : Act PUnit).Does s fun _ t => s.Passed l t := by
  induction l generalizing s with
  | nil => exact Act.Does.pure (.refl s)
  | cons e l ih =>
    refine Act.Does.forIn_cons (P := s.Passed [e]) ?_ fun t ht => (ih t).mono fun _ u hu => ht.cons hu
    exact Act.Does.yield (x := passBarrier e) (passBarrier_does e s)

/-- An engine past its barrier is marked so again after it. -/
theorem markPassed_does (l : List Nat) (s : State) (h : ∀ f ∈ l, (s.engine f).pastBarrier) :
    (forIn l PUnit.unit (fun e _ => do
      Act.modEngine e fun x => { x with atYield := false, passed := true }
      pure (ForInStep.yield PUnit.unit)) : Act PUnit).Does s fun _ t => s.Passed l t := by
  induction l generalizing s with
  | nil => exact Act.Does.pure (.refl s)
  | cons e l ih =>
    have hFirst := h e List.mem_cons_self
    refine Act.Does.forIn_cons (P := s.Passed [e]) ?_ fun t ht =>
      (ih t fun f hf => ht.keeps f (h f (List.mem_cons_of_mem _ hf))).mono fun _ u hu => ht.cons hu
    refine Act.Does.yield (Act.Does.get_bind (Act.Does.make (State.Passed.of_engine rfl ?_ ?_ fun f hf => ?_)))
    · rw [State.engine_upd_engine]
      exact ⟨rfl, rfl, hFirst.2.2⟩
    · rw [State.engine_upd_engine]
    · rw [State.engine_upd_engine_other _ hf]

/-! ## A kernel's WAIT -/

/-- Engines `l` stall from elapsed time `n` on, and nothing else has changed. -/
structure State.StallsFrom (s : State) (n : Nat) (l : List Nat) (t : State) : Prop where
  state : t = { s with engines := t.engines }
  stalls : ∀ f ∈ l, (t.engine f).mode = .stalled ∧ (t.engine f).waitFrom = some n
  keeps : ∀ f, (s.engine f).mode = .stalled ∧ (s.engine f).waitFrom = some n →
    (t.engine f).mode = .stalled ∧ (t.engine f).waitFrom = some n

theorem stallEngines_does (n : Nat) (l : List Nat) (s : State) :
    (forIn l PUnit.unit (fun e _ => do
      Act.modEngine e fun x => { x with mode := .stalled, waitFrom := some n }
      pure (ForInStep.yield PUnit.unit)) : Act PUnit).Does s fun _ t => s.StallsFrom n l t := by
  induction l generalizing s with
  | nil => exact Act.Does.pure ⟨rfl, fun _ h => absurd h List.not_mem_nil, fun _ h => h⟩
  | cons e l ih =>
    refine Act.Does.forIn_cons (P := fun t => t = s.upd (.engine e { s.engine e with mode := .stalled, waitFrom := some n }))
      (Act.Does.yield (Act.Does.get_bind (Act.Does.make rfl))) fun t ht => (ih t).mono fun _ u hu => ?_
    have hKeeps (f : Nat) (hf : f = e ∨ (s.engine f).mode = .stalled ∧ (s.engine f).waitFrom = some n) :
        (t.engine f).mode = .stalled ∧ (t.engine f).waitFrom = some n := by
      rw [ht]
      by_cases hSame : f = e
      · rw [hSame, State.engine_upd_engine]
        exact ⟨rfl, rfl⟩
      · rw [State.engine_upd_engine_other _ hSame]
        exact hf.resolve_left hSame
    refine ⟨by rw [hu.state, ht]; rfl, fun f hf => ?_, fun f hf => hu.keeps f (hKeeps f (.inr hf))⟩
    rcases List.mem_cons.mp hf with rfl | hf
    · exact hu.keeps f (hKeeps f (.inl rfl))
    · exact hu.stalls f hf

theorem issueKernelWait_does {k : Kernel} {cw : CW} {n : Nat} (hLock : s.slotLock k cw.lockSlot = n)
    (hOwns : s.ownsLock c n = true) (hKern : (s.ctx c).kern = some k) (hWait : k.wait = none) (hPoison : (s.lockAt n).poisoned = false)
    (hReached : reached (s.lockAt n).level (Word.ofNat cw.lockVal) = false) : (issueKernelWait c k cw).Does s fun _ t =>
      t = { s with engines := t.engines, ctxs := t.ctxs, waits := t.waits } ∧
      t.waits = s.waits ++ [{ waiter := .kernel c, lock := n, target := Word.ofNat cw.lockVal, deadline := s.deadline cw.tmo }] ∧
      (t.ctx c).kern = some { k with waitOn := n, wait := some 0xFF } ∧
      (∀ f ∈ k.engines, (t.engine f).mode = .stalled ∧ (t.engine f).waitFrom = some s.ns) ∧
      (s.quiet = true → t.quiet = true) := by
  refine Act.Does.get_bind ?_
  simp only [hLock]
  refine Act.Does.ite (fun hFree => absurd hFree (by simp [hOwns])) fun _ => Act.Does.modCtx_bind ?_
  generalize hu : s.upd (.ctx c { s.ctx c with kern := (s.ctx c).kern.map fun k => { k with waitOn := n } }) = u
  have hLocks : u.lockAt n = s.lockAt n := by rw [← hu]; rfl
  have hCtx : (u.ctx c).kern = some { k with waitOn := n } := by rw [← hu, State.ctx_upd_ctx, hKern]; rfl
  have hState : u = { s with ctxs := u.ctxs } := by rw [← hu]; rfl
  have hQuiet (h : s.quiet = true) : u.quiet = true := by
    rw [← hu, hKern]
    exact State.quiet_upd_ctx h (by simp [Kernel.settles, hWait])
  clear hu
  refine (issueWait_waits (s := u) (hLocks.symm ▸ hPoison) (hLocks.symm ▸ hReached)).bind ?_
  rintro _ _ ⟨rfl, rfl⟩
  refine Act.Does.modCtx_bind ?_
  generalize hv : (u.upd (.waits _)).upd _ = v
  have hCtxV : (v.ctx c).kern = some { k with waitOn := n, wait := some 0xFF } := by
    rw [← hv, State.ctx_upd_ctx]
    exact congrArg (Option.map _) hCtx
  have hStateV : v = { s with ctxs := v.ctxs, waits := v.waits } := by rw [← hv, hState]; rfl
  have hWaits : v.waits = s.waits ++
      [({ waiter := .kernel c, lock := n, target := Word.ofNat cw.lockVal, deadline := s.deadline cw.tmo } : LWait)] := by rw [← hv, hState]; rfl
  have hQuietV (h : s.quiet = true) : v.quiet = true := by
    rw [← hv]
    refine State.quiet_upd_ctx (hQuiet h) ?_
    show ((u.ctx c).kern.map _).any Kernel.settles = false
    rw [hCtx]
    simp [Kernel.settles]
  clear hv
  refine (stallEngines_does s.ns k.engines v).mono fun _ t ht => ?_
  obtain ⟨hStateT, hStalls, _⟩ := ht
  refine ⟨?_, ?_, ?_, hStalls, fun h => ?_⟩
  · rw [hStateT, hStateV]
  · rw [hStateT]
    exact hWaits
  · rw [hStateT]
    exact hCtxV
  · rw [hStateT]
    exact hQuietV h

/-- After the barrier: the engines are past it, and the bundle's WAIT, if it has one, is issued. -/
theorem afterBarrier_does {k : Kernel} {cw : CW} {ws : List EW} {R : State → Prop} (hKern : (s.ctx c).kern = some k)
    (hPast : ∀ f ∈ k.engines, (s.engine f).pastBarrier) (hHead : k.engines.head? = some e)
    (hBundle : s.bundleAt k (s.engine e).pc = some (cw, ws))
    (hWait : ∀ t, s.Passed k.engines t → cw.lockOp = 1 → (issueKernelWait c k cw).Does t fun _ u => R u)
    (hDone : ∀ t, s.Passed k.engines t → cw.lockOp ≠ 1 → R t) : (afterBarrier c).Does s fun _ t => R t := by
  refine Act.Does.get_bind ?_
  simp only [hKern]
  refine (markPassed_does k.engines s hPast).bind fun _ t ht => ?_
  simp only [hHead, Option.bind_some, hBundle]
  exact Act.Does.ite (fun hOp => hWait t ht hOp) fun hOp => Act.Does.pure (hDone t ht hOp)

/-- YIELD_BARRIER_COMPLETE without a heel: the engines pass, and what follows the barrier follows. -/
theorem yieldBarrierComplete_does {k : Kernel} {cw : CW} {ws : List EW} {R : State → Prop} (hCalm : s.calm = true)
    (hKern : (s.ctx c).kern = some k) (hPhase : k.phase = .running) (hBarrier : s.atBarrier k = true)
    (hHeel : k.heelAt = none) (hHead : k.engines.head? = some e) (hBundle : s.bundleAt k (s.engine e).pc = some (cw, ws))
    (hWait : ∀ t, s.Passed k.engines t → cw.lockOp = 1 → (issueKernelWait c k cw).Does t fun _ u => R u ∧ u.quiet = true)
    (hDone : ∀ t, s.Passed k.engines t → cw.lockOp ≠ 1 → R t) : s.does (.yieldBarrierComplete c) R := by
  obtain ⟨hOnTime, hQuiet⟩ := State.calm_iff.mp hCalm
  refine State.does_of rfl (settled_does hOnTime (Act.Does.get_bind ?_))
  simp only [hKern]
  refine Act.Does.ite (fun _ => ?_) fun hNot => absurd hNot (by simp [hPhase, hBarrier])
  refine (passBarriers_does k.engines s).bind fun _ t ht => ?_
  refine Act.Does.ite (fun hAsked => absurd hAsked (by simp [hHeel])) fun _ => ?_
  have hKern' : (t.ctx c).kern = some k := by rw [ht.state]; exact hKern
  have hBundle' : t.bundleAt k (t.engine e).pc = some (cw, ws) := by
    rw [ht.pc, ht.state]
    exact hBundle
  have hBoth {u : State} (hu : t.Passed k.engines u) : s.Passed k.engines u :=
    ⟨by rw [hu.state, ht.state], hu.past, fun f hf => hu.keeps f (ht.keeps f hf), fun f => (hu.pc f).trans (ht.pc f)⟩
  refine afterBarrier_does hKern' ht.past hHead hBundle' (fun u hu hOp => hWait u (hBoth hu) hOp) fun u hu hOp =>
    ⟨hDone u (hBoth hu) hOp, ?_⟩
  rw [(hBoth hu).state]
  exact hQuiet

/-- Settles O19: an issue without accesses, sends or Lock acts keeps `State.Issuing`; at a barrier every engine passes,
and a WAIT whose Lock is short of its target enters the wait table once. -/
theorem issueAdvancesTheEngine : Obligations.IssueAdvancesTheEngine := by
  refine ⟨?_, ?_⟩
  · intro s e c k cw ws hCalm hRuns x w hCtx hKern hIn hPhase hWait hEnded hMode hWaitFrom hLandings hBundle hPassed hReady
      hDrains hFirst hSecond hSop hRop hGo hOp
    obtain ⟨hOnTime, hQuiet⟩ := State.calm_iff.mp hCalm
    have hStart : s.Issuing e.val c x.place ((s.ctx c).accts.at e.val 0)
        (s.upd (.ctx c { s.ctx c with kern := some { k with wait := none } })) := by
      have hSelf : s.Issuing e.val c x.place ((s.ctx c).accts.at e.val 0) s :=
        ⟨.refl _ s, fun _ _ => rfl, rfl, fun l hl => by simp [hLandings, x] at hl, rfl, by rw [hKern]; rfl, hQuiet⟩
      exact hSelf.upd_ctx rfl rfl (by simp [hKern, Kernel.settles, hWait])
    refine State.does_of rfl (settled_does hOnTime ?_)
    refine Act.Does.get_bind ?_
    simp only [show (s.engine e.val).ctx = some c from hCtx]
    refine Act.Does.ite (fun hRestore => absurd hRestore (by simp [hKern, hPhase])) fun _ => ?_
    refine bundleIssue_issuing (x := x) rfl hCtx hKern hIn hPhase hWait hEnded hMode hWaitFrom hBundle hPassed hRuns ?_
    refine (tryIssue_issuing (t := s.upd (.ctx c { s.ctx c with kern := some { k with wait := none } })) e.isLt (x := x) rfl hReady hLandings hDrains hFirst hSecond hSop hRop hGo hOp hStart).mono fun _ t ht => ?_
    have hPlace := ht.place.trans (place_issued x cw w)
    obtain ⟨hPc, hRep, hLc, hEnd, hCyc, hAp, hVp⟩ := Engine.place_eq_iff.mp hPlace
    exact ⟨⟨hPc, hRep, hLc, hEnd, hCyc, hAp, hVp, ht.account, ht.same .mem (by decide), ht.same .locks (by decide), ht.others⟩,
      ht.quiet⟩
  · intro s c k e cw ws hCalm hKern hPhase hBarrier hHeel hHead hBundle
    refine ⟨fun hOp => ?_, ?_⟩
    · refine yieldBarrierComplete_does hCalm hKern hPhase hBarrier hHeel hHead hBundle (fun t _ hWaits => absurd hWaits hOp)
        fun t ht _ => ⟨ht.state, ht.past⟩
    · intro hOp n hOwns hPoison hReached hWait
      refine yieldBarrierComplete_does hCalm hKern hPhase hBarrier hHeel hHead hBundle (fun t ht _ => ?_)
        fun t _ hNot => absurd hOp hNot
      obtain ⟨_, hQuiet⟩ := State.calm_iff.mp hCalm
      have hState := ht.state
      generalize t.engines = es, t.regs = rs at hState
      subst hState
      refine (issueKernelWait_does (s := { s with engines := es, regs := rs }) rfl hOwns hKern hWait hPoison hReached).mono fun _ u hu => ?_
      obtain ⟨hStateU, hWaits, hKernU, hStalls, hQuietU⟩ := hu
      exact ⟨⟨by rw [hStateU], hWaits, hKernU, hStalls⟩, hQuietU hQuiet⟩

end Sys2Proof.Machine

/-!
PROOF. A heel is asked for (R171, R180).
-/
namespace Sys2Proof.Machine

variable {s t u : State} {c e : Nat} {who : Who}

/-- The step a heel holds an engine at. -/
def State.heelStep (s : State) (e : Nat) : Nat := max (min (s.target e) (s.cap e)) 8

/-- An engine held at the step that state `s` gives it under a heel. -/
def State.heldAt (s : State) (e : Nat) (t : State) : Prop := t.target e = s.heelStep e ∧ flag t.therm.heelRaise e = true

/-- The engines of `es` below step 8 are raised to it, as state `s` has their steps; only clock requests change. -/
structure State.RaisedTo (s : State) (es : List Nat) (t u : State) : Prop where
  same : t.SameBut [.regs, .therm] u
  others : ∀ o, (∀ e < 8, o ≠ Reg.off .engFclk e 0) → u.regs.find o = t.regs.find o
  raised : ∀ e ∈ es, s.rf .engFclk e 4 0 < 8 → s.heldAt e u
  keeps : ∀ e, s.heldAt e t → s.heldAt e u

theorem State.RaisedTo.nil (s t : State) : s.RaisedTo [] t t :=
  ⟨.refl _ t, fun _ _ => rfl, fun _ h => absurd h List.not_mem_nil, fun _ h => h⟩

theorem State.RaisedTo.cons {v : State} {es : List Nat} (h : s.RaisedTo [e] t u) (h' : s.RaisedTo es u v) : s.RaisedTo (e :: es) t v where
  same := h.same.trans h'.same
  others o ho := (h'.others o ho).trans (h.others o ho)
  raised f hf hLow := by
    rcases List.mem_cons.mp hf with rfl | hf
    · exact h'.keeps f (h.raised f List.mem_cons_self hLow)
    · exact h'.raised f hf hLow
  keeps f hf := h'.keeps f (h.keeps f hf)

theorem flag_raise {m : BitVec 8} {f : Nat} (he : e < 8) : flag (m ||| engineMask [e]) f = (flag m f || decide (f = e)) := by
  simp only [flag, engineMask, List.foldl_cons, List.foldl_nil, BitVec.getLsbD_or, BitVec.getLsbD_ofNat,
    Nat.testBit_two_pow]
  by_cases hSame : f = e
  · simp [hSame, he]
  · simp [hSame, Ne.symm hSame]

/-- Under a heel an engine is asked for step 8 at least. -/
theorem setTarget_raised (n : Nat) (h : t.raised e = true) : (setTarget e n).Does t fun _ u => t.SameBut [.regs] u ∧
    (∀ o, o ≠ Reg.off .engFclk e 0 → u.regs.find o = t.regs.find o) ∧ u.target e = max (min n (t.cap e)) 8 := by
  have hCap := cap_lt t e
  refine (writes_setTarget e n (l := [.regs]) (by simp)).keeping (fun o ho => keepsReg_setTarget e n ho) ?_
  refine Act.Does.get_bind (Act.Does.regField_bind (Act.Does.get_bind (Act.Does.make ?_)))
  rw [State.target, State.rf_setField_other _ (.inr (by decide)), State.rf_setField_same _ (by decide), h]
  exact Nat.mod_eq_of_lt (by simp only [if_true]; omega)

/-- One engine is raised, under the cap that it has. -/
theorem raiseEngine_does (he : e < 8) (hCap : t.cap e = s.cap e) : (do
      let t ← Act.get
      Act.make (.therm { t.therm with heelRaise := t.therm.heelRaise ||| engineMask [e] })
      setTarget e (s.target e) : Act Unit).Does t fun _ u => s.RaisedTo [e] t u := by
  refine Act.Does.get_bind (Act.Does.make_bind ?_)
  refine (setTarget_raised (s.target e) ?_).mono fun _ u hu => ?_
  · exact (flag_raise he).trans (by simp)
  obtain ⟨hSame, hOthers, hTarget⟩ := hu
  have hTherm : u.therm = { t.therm with heelRaise := t.therm.heelRaise ||| engineMask [e] } := hSame .therm (by decide)
  have hHeld : s.heldAt e u := by
    refine ⟨hTarget.trans ?_, ?_⟩
    · rw [State.heelStep, ← hCap]
      rfl
    · rw [hTherm, flag_raise he]
      simp
  refine ⟨(hSame.mono (by simp)).of_upd (by simp [Upd.fields]), fun o ho => hOthers o (ho e he), fun f hf _ => List.mem_singleton.mp hf ▸ hHeld,
    fun f hf => ?_⟩
  by_cases hOther : f = e
  · exact hOther ▸ hHeld
  · obtain ⟨hAt, hRaise⟩ := hf
    refine ⟨?_, ?_⟩
    · rw [← hAt]
      exact State.target_of_find (hOthers _ (engFclk_off_ne hOther))
    · rw [hTherm, flag_raise he, hRaise]
      rfl

theorem raiseEngines_does : ∀ (es : List Nat) (t : State), (∀ e ∈ es, e < 8) → (∀ e < 8, t.cap e = s.cap e) →
    (forIn es PUnit.unit (fun e _ => if (decide (s.rf .engFclk e 4 0 < 8) || decide (s.target e < 8)) = true then do
        let t ← Act.get
        Act.make (.therm { t.therm with heelRaise := t.therm.heelRaise ||| engineMask [e] })
        setTarget e (s.target e)
        pure (ForInStep.yield PUnit.unit)
      else pure (ForInStep.yield PUnit.unit)) : Act PUnit).Does t fun _ u => s.RaisedTo es t u
  | [], t, _, _ => Act.Does.pure (.nil s t)
  | e :: es, t, hEs, hCap => by
    have he := hEs e List.mem_cons_self
    refine Act.Does.forIn_cons (P := s.RaisedTo [e] t) ?_ fun u hu =>
      (raiseEngines_does es u (fun f hf => hEs f (List.mem_cons_of_mem _ hf)) fun f hf => ?_).mono fun _ v hv => hu.cons hv
    · refine Act.Does.ite (fun _ => Act.Does.yield (raiseEngine_does he (hCap e he))) fun hHigh => Act.Does.pure ⟨rfl, ?_⟩
      simp only [Bool.or_eq_true, decide_eq_true_eq, not_or] at hHigh
      exact ⟨.refl _ t, fun _ _ => rfl, fun f hf hLow => absurd (List.mem_singleton.mp hf ▸ hLow) hHigh.1, fun _ h => h⟩
    · rw [State.cap_of_find (hu.others _ fun o ho => by simp only [Reg.off, Reg.row]; omega), hCap f hf]

/-- HEEL of a running context. -/
theorem ctxHeel_does {k : Kernel} (hc : c < 1024) (hTakes : s.takes who .colCmd 0) (hState : (s.ctx c).st = .running)
    (hKern : (s.ctx c).kern = some k) (hHeel : k.heelAt = none) (hEngines : ∀ e ∈ k.engines, e < 8) :
    s.does (.ctxHeel who c) fun t =>
       t = { s with ctxs := s.ctxs.put c { s.ctx c with kern := some { k with heelAt := some s.ns } }
                    regs := t.regs, therm := t.therm, bus := t.bus } ∧
       (∀ e ∈ k.engines, s.rf .engFclk e 4 0 < 8 → t.target e = max (min (s.target e) (s.cap e)) 8 ∧
         flag t.therm.heelRaise e = true) ∧
       t.value .colCmdStatus 0 0 = colStatus Code.ok c ∧ t.answered who Code.ok := by
  refine State.does_of rfl ?_
  rw [show c % 1024 = c from Nat.mod_eq_of_lt hc]
  refine colCommand_accepted hTakes (by decide) ?_
  refine Act.Does.get_bind (Act.Does.ite (fun _ => Act.Does.bind (Q := fun _ t => s.RaisedTo k.engines
    (s.upd (.ctx c { s.ctx c with kern := some { k with heelAt := some s.ns } })) t) ?_ ?_) fun hNot => absurd hState hNot)
  · refine Act.Does.get_bind ?_
    simp only [hKern]
    refine Act.Does.ite (fun _ => Act.Does.modCtx_bind ?_) fun hNot => absurd hNot (by simp [hHeel])
    rw [hKern]
    exact raiseEngines_does k.engines _ hEngines fun _ _ => rfl
  · rintro _ t ht
    refine Act.Does.pure ⟨rfl, ?_, fun e he hLow => ?_, ?_, answered_colAnswered _⟩
    · have hState : t = { s with
          ctxs := s.ctxs.put c { s.ctx c with kern := some { k with heelAt := some s.ns } }, regs := t.regs, therm := t.therm } :=
        State.ext_fld fun f => by
          cases f with
          | regs | therm => rfl
          | _ => exact ht.same _ (by decide)
      rw [hState]
      rfl
    · obtain ⟨hTarget, hRaise⟩ := ht.raised e he hLow
      refine ⟨?_, hRaise⟩
      have hKept : (t.colAnswered who Code.ok c).target e = t.target e := State.target_of_find
        (State.find_upd_reg_other t _ (by simp only [Reg.off, Reg.row]; omega))
      exact hKept.trans hTarget
    · exact t.colStatus_colAnswered who _ c

end Sys2Proof.Machine

/-!
PROOF. Moving pages changes no kernel, no engine and nothing that is left to settle (R147, R224).
-/
namespace Sys2Proof.Machine

variable {s t u : State} {c e : Nat} {α β : Type} {l : List Fld}

/-! ## What a move of pages leaves as it is -/

/-- The fields in which memory moves. -/
def moveFields : List Fld := [.mem, .flips, .faults, .psram, .regs, .xlat, .freeCount, .ctxs, .ftl, .sdio]

/-- Memory has moved between two states: every context keeps its state and its kernel, and nothing is left to settle. -/
structure State.sameWork (s t : State) : Prop where
  same : s.SameBut moveFields t
  ctx : ∀ c, (t.ctx c).st = (s.ctx c).st ∧ (t.ctx c).kern = (s.ctx c).kern
  quiet : s.quiet = true → t.quiet = true

theorem State.sameWork.refl (s : State) : s.sameWork s := ⟨.refl _ s, fun _ => ⟨rfl, rfl⟩, fun h => h⟩

theorem State.sameWork.trans (h : s.sameWork t) (h' : t.sameWork u) : s.sameWork u :=
  ⟨h.same.trans h'.same, fun c => ⟨(h'.ctx c).1.trans (h.ctx c).1, (h'.ctx c).2.trans (h.ctx c).2⟩, fun hq => h'.quiet (h.quiet hq)⟩

/-- An action that moves memory only. -/
def Act.MovesOnly (x : Act α) : Prop := ∀ s, x.Does s fun _ t => s.sameWork t

theorem movesOnly_pure (a : α) : (pure a : Act α).MovesOnly := fun s => Act.Does.pure (.refl s)

theorem movesOnly_nothing : nothing.MovesOnly := movesOnly_pure ()

theorem movesOnly_bind {x : Act α} {f : α → Act β} (hx : x.MovesOnly) (hf : ∀ a, (f a).MovesOnly) : (x >>= f).MovesOnly :=
  fun s => (hx s).bind fun a t ht => (hf a t).mono fun _ _ hu => ht.trans hu

theorem movesOnly_get_bind {f : State → Act β} (hf : ∀ u, (f u).MovesOnly) : (Act.get >>= f).MovesOnly :=
  fun s => Act.Does.get_bind (hf s s)

theorem movesOnly_ite {p : Prop} [Decidable p] {x y : Act α} (hx : x.MovesOnly) (hy : y.MovesOnly) :
    (if p then x else y).MovesOnly := fun s => Act.Does.ite (fun _ => hx s) fun _ => hy s

theorem movesOnly_forIn {γ : Type} {f : γ → β → Act (ForInStep β)} (hf : ∀ a b, (f a b).MovesOnly) (as : List γ) (b : β) :
    (forIn as b f : Act β).MovesOnly := fun s =>
  Act.Does.loop (I := fun _ t => s.sameWork t) (fun a b t ht => (hf a b t).mono fun r u hu => by
    cases r <;> exact ht.trans hu) as b s (.refl s)

theorem movesOnly_of_writes {x : Act α} (h : x.Writes l) (hl : ∀ f ∈ l, f ∈ moveFields ∧ f ≠ .ctxs ∧ f ≠ .xlat) : x.MovesOnly := by
  refine fun s => (h.does s).mono fun _ t ht => ⟨ht.mono fun f hf => (hl f hf).1, fun c => ?_, fun hq => ?_⟩
  · have hCtxs : t.ctxs = s.ctxs := ht .ctxs fun hIn => (hl _ hIn).2.1 rfl
    simp only [State.ctx, hCtxs, and_self]
  · rw [State.quiet_of_sameBut ht fun f hf hIn => ?_, hq]
    have hMoved := hl f hIn
    fin_cases hf <;> simp_all [moveFields]

theorem movesOnly_modCtx (c : Nat) {f : Context → Context} (h : ∀ x, (f x).st = x.st ∧ (f x).kern = x.kern) :
    (Act.modCtx c f).MovesOnly := fun s => Act.Does.get_bind (Act.Does.make ⟨(State.SameBut.refl _ s).upd (by simp [Upd.fields, moveFields]), fun d => by
  by_cases hd : d = c
  · rw [hd, State.ctx_upd_ctx]
    exact h _
  · rw [State.ctx_upd_ctx_other _ _ hd]
    exact ⟨rfl, rfl⟩, fun hq => State.quiet_upd_ctx hq (by rw [(h _).2]; exact s.not_settles_of_quiet hq c)⟩)

/-- A change of translation that leaves what waits for a page. -/
theorem State.sameWork_upd_xlat {x : Xlat} (hSubs : x.subs = s.xlat.subs) (hWaiting : x.waiting = s.xlat.waiting) :
    s.sameWork (s.upd (.xlat x)) where
  same := (State.SameBut.refl _ s).upd (by simp [Upd.fields, moveFields])
  ctx _ := ⟨rfl, rfl⟩
  quiet hq := by
    simp only [State.quiet, State.upd, hSubs, hWaiting] at hq ⊢
    exact hq

/-! ## Memory -/

theorem movesOnly_walkTable (va pa : Nat) : (walkTable va pa).MovesOnly :=
  movesOnly_of_writes (l := readFields) (writes_walkTable va pa (List.Subset.refl _)) (by decide)

theorem movesOnly_level2Table (c va : Nat) : (level2Table c va).MovesOnly := by
  refine movesOnly_get_bind fun s => ?_
  split
  · exact movesOnly_pure _
  · refine movesOnly_bind (movesOnly_walkTable _ _) fun r => ?_
    split
    · exact movesOnly_pure _
    · refine movesOnly_bind (movesOnly_walkTable _ _) fun r => ?_
      split
      · exact movesOnly_pure _
      · exact fun t => Act.Does.get_bind (Act.Does.make_bind (Act.Does.pure (State.sameWork_upd_xlat rfl rfl)))

theorem movesOnly_walkLeaf (c va : Nat) : (walkLeaf c va).MovesOnly := by
  refine movesOnly_bind (movesOnly_level2Table c va) fun r => ?_
  split
  · exact movesOnly_pure _
  · refine movesOnly_bind (movesOnly_of_writes (l := readFields) (writes_readEntry _ (List.Subset.refl _)) (by decide)) fun r => ?_
    split
    · exact movesOnly_get_bind fun _ => movesOnly_pure _
    · exact movesOnly_pure _
    · exact movesOnly_get_bind fun _ => movesOnly_ite (movesOnly_pure _) (movesOnly_pure _)

theorem movesOnly_pinnedTile (c va : Nat) : (pinnedTile c va).MovesOnly := by
  refine movesOnly_bind (movesOnly_walkLeaf c va) fun r => ?_
  split
  · exact movesOnly_pure _
  · exact movesOnly_get_bind fun _ => movesOnly_pure _

theorem movesOnly_pinnedPa (c va : Nat) : (pinnedPa c va).MovesOnly := by
  refine movesOnly_bind (movesOnly_pinnedTile c va) fun r => ?_
  split <;> exact movesOnly_pure _

theorem movesOnly_poolAt (i : Nat) : (poolAt i).MovesOnly := by
  refine movesOnly_bind (movesOnly_get_bind fun s => movesOnly_ite (movesOnly_pinnedPa _ _) (movesOnly_pure _)) fun r => ?_
  split
  · exact movesOnly_pure _
  · exact movesOnly_get_bind fun _ => movesOnly_ite (movesOnly_pure _) (movesOnly_pure _)

theorem movesOnly_writePhys (pa : Nat) (bs : List Byte) : (writePhys pa bs).MovesOnly :=
  movesOnly_of_writes (l := [.mem, .flips, .faults]) (by simp) (by decide)

theorem movesOnly_setTag (pa state slot : Nat) : (setTag pa state slot).MovesOnly := by
  refine fun s => Act.Does.get_bind ?_
  dsimp only
  split
  · exact Act.Does.make (State.sameWork_upd_xlat rfl rfl)
  · exact Act.Does.ite (fun _ => Act.Does.make (State.sameWork_upd_xlat rfl rfl)) fun _ => Act.Does.pure (.refl s)

theorem movesOnly_account (c n v : Nat) : (account c n v).MovesOnly :=
  movesOnly_bind (movesOnly_modCtx c fun _ => ⟨rfl, rfl⟩) fun _ =>
    movesOnly_ite (movesOnly_modCtx c fun _ => ⟨rfl, rfl⟩) movesOnly_nothing

theorem movesOnly_accountBytes (c pa n : Nat) : (accountBytes c pa n).MovesOnly := by
  unfold accountBytes
  split
  · exact movesOnly_account c _ n
  · exact movesOnly_nothing

theorem movesOnly_draw : Act.draw.MovesOnly := movesOnly_of_writes (l := [.freeCount]) (by simp) (by decide)

theorem movesOnly_wearFlash : wearFlash.MovesOnly := by
  refine movesOnly_bind movesOnly_draw fun n => movesOnly_bind movesOnly_draw fun m => ?_
  refine movesOnly_of_writes (l := [.ftl, .regs]) (writes_get_bind fun s => ?_) (by decide)
  split
  exact writes_make_bind (by simp) (writes_ite (writes_bind (by simp) fun _ => writes_bind (by simp) fun _ => by simp) writes_nothing)

theorem movesOnly_sliceWrite (pa : Nat) (bs : List Byte) : (sliceWrite pa bs).MovesOnly := by
  refine movesOnly_get_bind fun s => ?_
  dsimp only
  split
  · exact movesOnly_pure _
  · refine movesOnly_ite (movesOnly_pure _) (movesOnly_bind (movesOnly_forIn (fun m _ => ?_) _ _) fun _ => movesOnly_pure _)
    exact movesOnly_bind (movesOnly_writePhys _ _) fun _ => movesOnly_pure _

theorem movesOnly_writeTier (pa : Nat) (bs : List Byte) : (writeTier pa bs).MovesOnly := by
  refine movesOnly_get_bind fun s => movesOnly_ite (movesOnly_sliceWrite pa bs) ?_
  have hStore : (writePhys pa bs >>= fun _ => pure Code.ok).MovesOnly :=
    movesOnly_bind (movesOnly_writePhys pa bs) fun _ => movesOnly_pure _
  have hFresh (x : Ftl) : (Act.make (.ftl x)).MovesOnly := movesOnly_of_writes (l := [.ftl]) (by simp) (by decide)
  refine movesOnly_ite (movesOnly_ite (movesOnly_pure _) (movesOnly_ite ?_ ?_)) hStore
  · exact movesOnly_bind (hFresh _) fun _ => movesOnly_bind movesOnly_wearFlash fun _ => hStore
  · exact movesOnly_bind movesOnly_wearFlash fun _ => hStore

theorem movesOnly_readCopy (pa n : Nat) : (readCopy pa n).MovesOnly :=
  movesOnly_of_writes (l := readFields) (writes_get_bind fun s => writes_ite (writes_pure _) (writes_bind (writes_readPhys pa n (List.Subset.refl _))
    fun _ => writes_ite (writes_bind (writes_countCorrected pa (List.Subset.refl _)) fun _ => writes_pure _) (writes_pure _))) (by decide)

theorem movesOnly_copyPhys (src dst n : Nat) : (copyPhys src dst n).MovesOnly := by
  refine movesOnly_of_writes (l := [.mem, .flips, .faults]) (writes_get_bind fun s => writes_make_bind (by simp)
    (writes_bind (by simp) fun _ => writes_bind (writes_forIn (fun x _ => ?_) _ _) fun _ => writes_pure _)) (by decide)
  exact writes_ite (writes_make_bind (by simp) (by simp)) (by simp)

theorem movesOnly_moveTile (src dst : Nat) : (moveTile src dst).MovesOnly := by
  refine movesOnly_get_bind fun s => ?_
  split
  · exact movesOnly_pure _
  · refine movesOnly_bind (movesOnly_accountBytes _ _ _) fun _ => movesOnly_bind (movesOnly_readCopy _ _) fun r => ?_
    obtain ⟨bytes, hit, copied⟩ := r
    dsimp only
    split
    · exact movesOnly_get_bind fun _ => movesOnly_pure _
    · have hDone (code : Nat) : (if code ≠ Code.ok then pure (some { code, block := Block.ftl, atype := 0, addr := dst })
          else if (s.tagAt dst).1 = Tag.dead then do
            setTag dst Tag.live 0
            pure none
          else pure none : Act (Option Failure)).MovesOnly :=
        movesOnly_ite (movesOnly_pure _) (movesOnly_ite (movesOnly_bind (movesOnly_setTag _ _ _) fun _ => movesOnly_pure _) (movesOnly_pure _))
      refine movesOnly_bind (movesOnly_accountBytes _ _ _) fun _ => movesOnly_ite ?_ ?_
      · exact movesOnly_bind (movesOnly_copyPhys _ _ _) fun _ => hDone Code.ok
      · exact movesOnly_bind (movesOnly_writeTier _ _) fun code => hDone code

/-- A page that moves leaves every mapping its kernel's work. -/
theorem movesOnly_moveMapped (old new : Nat) : (moveMapped old new).MovesOnly := by
  refine movesOnly_get_bind fun s => movesOnly_bind (movesOnly_forIn (fun m _ => ?_) _ _) fun _ =>
    movesOnly_bind (movesOnly_moveTile old new) fun hit => movesOnly_bind (movesOnly_forIn (fun m _ => ?_) _ _) fun _ => ?_
  · exact movesOnly_bind (movesOnly_writePhys _ _) fun _ => movesOnly_pure _
  · exact movesOnly_bind (movesOnly_writePhys _ _) fun _ => movesOnly_pure _
  · exact fun t => Act.Does.get_bind (Act.Does.make_bind (Act.Does.pure (State.sameWork_upd_xlat rfl rfl)))

def recordFields : List Fld := [.faults, .regs, .sdio, .psram, .ftl]

theorem movesOnly_fault (r : FaultRec) : (fault r).MovesOnly :=
  movesOnly_of_writes (l := [.faults, .regs, .sdio]) (by simp) (by decide)

theorem writes_retireChannel (ch code link : Nat) : (retireChannel ch code link).Writes recordFields := by
  refine writes_get_bind fun s => writes_ite (writes_make_bind (by simp [recordFields]) ?_) writes_nothing
  exact writes_bind (by simp [recordFields]) fun _ => writes_bind (by simp [recordFields]) fun _ =>
    writes_bind (writes_fault _ (by decide) (by decide) (by decide)) fun _ => writes_pure _

theorem writes_retireNand (n code link : Nat) : (retireNand n code link).Writes recordFields := by
  refine writes_get_bind fun s => writes_ite (writes_bind (by simp [recordFields]) fun _ => writes_make_bind (by simp [recordFields]) ?_) writes_nothing
  exact writes_bind (writes_fault _ (by decide) (by decide) (by decide)) fun _ => writes_pure _

theorem writes_countUncorrectable (pa link : Nat) : (countUncorrectable pa link).Writes recordFields := by
  refine writes_get_bind fun s => ?_
  split
  · exact writes_make_bind (by simp [recordFields]) (writes_ite (writes_retireChannel _ _ _) writes_nothing)
  · exact writes_make_bind (by simp [recordFields]) (writes_ite (writes_retireNand _ _ _) writes_nothing)
  · exact writes_nothing

theorem writes_failureRecord (f : Failure) (c slot job : Nat) (tag : Word) : (failureRecord f c slot job tag).Writes recordFields :=
  writes_ite (writes_bind (writes_fault _ (by decide) (by decide) (by decide)) fun _ =>
    writes_ite (writes_bind (writes_countUncorrectable _ _) fun _ => writes_pure _) (writes_pure _)) (writes_pure _)

theorem movesOnly_failureRecord (f : Failure) (c slot job : Nat) (tag : Word) : (failureRecord f c slot job tag).MovesOnly :=
  movesOnly_of_writes (writes_failureRecord f c slot job tag) (by decide)

theorem movesOnly_swapPage (old new : Nat) : (swapPage old new).MovesOnly := by
  refine movesOnly_get_bind fun s => movesOnly_ite (movesOnly_pure _) (movesOnly_bind (movesOnly_moveMapped old new) fun r => ?_)
  split
  · exact movesOnly_pure _
  · exact movesOnly_bind (movesOnly_bind (movesOnly_failureRecord _ _ _ _ _) fun _ => movesOnly_pure _) fun _ => movesOnly_pure _

theorem movesOnly_poolsOf (c : Nat) : (poolsOf c).MovesOnly := by
  refine movesOnly_bind (movesOnly_forIn (fun i _ => movesOnly_bind (movesOnly_poolAt i) fun r => ?_) _ _) fun _ => movesOnly_pure _
  split
  · exact movesOnly_ite (movesOnly_pure _) (movesOnly_pure _)
  · exact movesOnly_bind movesOnly_nothing fun _ => movesOnly_pure _

/-- Frames that leave Basin at a heel move memory only (R147). -/
theorem movesOnly_swapOut (c : Nat) : (swapOut c).MovesOnly := by
  refine movesOnly_bind (movesOnly_poolsOf c) fun pools => movesOnly_get_bind fun s => movesOnly_ite ?_ movesOnly_nothing
  refine movesOnly_bind movesOnly_draw fun need => movesOnly_ite (movesOnly_bind (movesOnly_forIn (fun p _ => ?_) _ _) fun _ =>
    movesOnly_pure _) movesOnly_nothing
  refine movesOnly_get_bind fun t => movesOnly_bind (movesOnly_swapPage _ _) fun moved => ?_
  exact movesOnly_ite (movesOnly_bind (movesOnly_modCtx c fun _ => ⟨rfl, rfl⟩) fun _ => movesOnly_pure _) (movesOnly_pure _)

end Sys2Proof.Machine

/-!
PROOF. A heel takes a kernel's engines (R97, R180, R181).
-/
namespace Sys2Proof.Machine

variable {s t u : State} {c e : Nat} {es : List Nat} {α β : Type} {l : List Fld}

/-! ## A kernel that is being heeled -/

/-- A context holds a kernel on engines `es`, and nothing is left to settle. -/
def State.holding (c : Nat) (es : List Nat) (t : State) : Prop := t.quiet = true ∧ (t.ctx c).kern.map (·.engines) = some es

theorem keeps_nothing {P : State → Prop} : nothing.Keeps P := keeps_pure ()

theorem keeps_forIn {P : State → Prop} {γ : Type} {f : γ → β → Act (ForInStep β)} (hf : ∀ a b, (f a b).Keeps P) (as : List γ) (b : β) :
    (forIn as b f : Act β).Keeps P := fun s hs =>
  Act.Does.loop (I := fun _ t => P t) (fun a b t ht => (hf a b t ht).mono fun r u hu => by cases r <;> exact hu) as b s hs

theorem holding_of_writes {x : Act α} (h : x.Writes l) (hl : ∀ f ∈ quietFields, f ∉ l) : x.Keeps (State.holding c es) := by
  refine fun s hs => (h.does s).mono fun _ t ht => ?_
  have hCtxs : t.ctxs = s.ctxs := ht .ctxs (hl .ctxs (by decide))
  exact ⟨(State.quiet_of_sameBut ht hl).trans hs.1, by simpa only [State.ctx, hCtxs] using hs.2⟩

theorem holding_modCtx {f : Context → Context} (hSome : ∀ x : Context, (f x).kern.map (·.engines) = x.kern.map (·.engines))
    (hSettles : ∀ x : Context, x.kern.any Kernel.settles = false → (f x).kern.any Kernel.settles = false) :
    (Act.modCtx c f).Keeps (State.holding c es) := fun s hs => Act.Does.get_bind (Act.Does.make
  ⟨State.quiet_upd_ctx hs.1 (hSettles _ (s.not_settles_of_quiet hs.1 c)), by rw [State.ctx_upd_ctx, hSome, hs.2]⟩)

theorem holding_modKernel {f : Kernel → Kernel} (hf : ∀ k, (f k).settles = k.settles ∧ (f k).engines = k.engines) :
    (Act.modKernel c f).Keeps (State.holding c es) :=
  holding_modCtx (fun x => by cases hKern : x.kern <;> simp [hf]) fun x hx => by
    show (x.kern.map f).any Kernel.settles = false
    cases hKern : x.kern with
    | none => rfl
    | some k =>
      rw [hKern] at hx
      exact (hf k).1.trans hx

theorem holding_account (n v : Nat) : (account c n v).Keeps (State.holding c es) :=
  keeps_bind (holding_modCtx (fun _ => rfl) fun _ h => h) fun _ =>
    keeps_ite (holding_modCtx (fun _ => rfl) fun _ h => h) keeps_nothing

theorem holding_engineCycles (e n : Nat) : (engineCycles c e n).Keeps (State.holding c es) :=
  keeps_bind (holding_account e n) fun _ => holding_modKernel fun _ => ⟨rfl, rfl⟩

theorem writes_modEngine (e : Nat) (f : Engine → Engine) (h : Fld.engines ∈ l) : (Act.modEngine e f).Writes l :=
  writes_get_bind fun _ => writes_make (by simp [h])

theorem holding_endStall (e : Nat) : (endStall c e).Keeps (State.holding c es) := by
  refine keeps_get_bind fun s => ?_
  dsimp only
  split
  · exact keeps_nothing
  · exact keeps_bind (holding_of_writes (l := [.engines]) (writes_make (by simp)) (by decide)) fun _ =>
      keeps_bind (holding_engineCycles _ _) fun _ => holding_account _ _

theorem holding_endHold (e : Nat) : (endHold c e).Keeps (State.holding c es) := by
  refine keeps_get_bind fun s => ?_
  dsimp only
  split
  · exact keeps_nothing
  · exact keeps_bind (holding_of_writes (l := [.engines]) (writes_make (by simp)) (by decide)) fun _ => holding_engineCycles _ _

theorem holding_chargeStalls : (chargeStalls c).Keeps (State.holding c es) := by
  refine keeps_get_bind fun s => keeps_bind (keeps_forIn (fun e _ => ?_) _ _) fun _ => keeps_pure _
  exact keeps_ite (keeps_bind (holding_endStall e) fun _ => keeps_bind (holding_endHold e) fun _ => keeps_pure _) (keeps_pure _)

theorem writes_placeLine (e cell chan : Nat) (x : Line) (h : Fld.engines ∈ l) : (placeLine e cell chan x).Writes l := writes_modEngine e _ h

theorem writes_deliver (f : Flight) : (deliver c f).Writes [.engines] := by
  refine writes_get_bind fun s => ?_
  split
  · exact writes_nothing
  · split
    · exact writes_nothing
    · refine writes_bind (writes_forIn (fun d _ => ?_) _ _) fun _ => writes_pure _
      split
      · exact writes_bind (writes_placeLine _ _ _ _ (by simp)) fun _ => writes_pure _
      · exact writes_bind (writes_modEngine _ _ (by simp)) fun _ => writes_pure _

theorem holding_deliverAll : (deliverAll c).Keeps (State.holding c es) :=
  keeps_get_bind fun _ => keeps_bind (holding_of_writes (l := [.engines]) (writes_forIn (fun f _ =>
    writes_bind (writes_deliver f) fun _ => writes_pure _) _ _) (by decide)) fun _ => holding_modKernel fun _ => ⟨rfl, rfl⟩

theorem writes_land (e : Nat) : (land e).Writes [.engines, .mem, .flips, .faults] := by
  refine writes_get_bind fun s => writes_ite (writes_make_bind (by simp) (writes_bind (writes_forIn (fun x _ => ?_) _ _) fun _ =>
    writes_pure _)) writes_nothing
  split
  · exact writes_bind (by simp) fun _ => writes_pure _
  · exact writes_bind writes_nothing fun _ => writes_pure _

theorem writes_landAll (e : Nat) : (landAll e).Writes [.engines, .mem, .flips, .faults] :=
  writes_bind (writes_modEngine _ _ (by simp)) fun _ => writes_bind (writes_land e) fun _ => writes_modEngine _ _ (by simp)

/-! ## The engines are released -/

/-- The engines of `l`, each with its place, hold no kernel and have the context's kennel of that place to drain. -/
structure State.Drained (t : State) (c : Nat) (es : List Nat) (l : List (Nat × Nat)) : Prop where
  holding : t.holding c es
  drained : ∀ p ∈ l, (t.engine p.1).ctx = none ∧ (c, p.2) ∈ t.drains.at p.1 []

theorem State.Drained.keep {l : List (Nat × Nat)} (h : s.Drained c es l) (hHolding : t.holding c es)
    (hEngines : ∀ f, (t.engine f).ctx = (s.engine f).ctx ∨ (t.engine f).ctx = none)
    (hDrains : ∀ f d, d ∈ s.drains.at f [] → d ∈ t.drains.at f []) : t.Drained c es l :=
  ⟨hHolding, fun p hp => ⟨(hEngines p.1).elim (fun hSame => hSame.trans (h.drained p hp).1) id, hDrains _ _ (h.drained p hp).2⟩⟩

theorem State.Drained.of_sameBut {l : List (Nat × Nat)} {m : List Fld} (h : s.Drained c es l) (hSame : s.SameBut m t)
    (hm : Fld.engines ∉ m ∧ Fld.drains ∉ m) (hHolding : t.holding c es) : t.Drained c es l := by
  have hEngines : t.engines = s.engines := hSame .engines hm.1
  have hDrains : t.drains = s.drains := hSame .drains hm.2
  exact h.keep hHolding (fun f => .inl (by simp only [State.engine, hEngines])) fun f d hd => by rwa [hDrains]

theorem freeEngine_does (e : Nat) (s : State) : (freeEngine e).Does s fun _ t => s.SameBut freeFields t ∧
    (t.engine e).ctx = none ∧ ∀ f, f ≠ e → t.engine f = s.engine f := by
  refine (writes_freeEngine e (List.Subset.refl _)).and ?_
  have hFreed (x : Engine) (hx : x.ctx = none) : ((s.upd (.engine e x)).engine e).ctx = none ∧
      ∀ f, f ≠ e → (s.upd (.engine e x)).engine f = s.engine f :=
    ⟨by rw [State.engine_upd_engine, hx], fun f hf => State.engine_upd_engine_other x hf⟩
  refine Act.Does.get_bind (Act.Does.make_bind (Act.Does.ite (fun _ => Act.Does.make_bind ?_) fun _ => Act.Does.pure (hFreed _ rfl)))
  refine ((writes_setTarget e _ (l := [.regs]) (by simp)).does _).mono fun _ t ht => ?_
  have hEngines : t.engines = _ := ht .engines (by decide)
  simp only [State.engine, hEngines]
  exact hFreed _ rfl

/-- One engine is released, with a kennel to drain. -/
def releaseEngine (c : Nat) (p : Nat × Nat) : Act Unit := do
  freeEngine p.1
  let u ← Act.get
  Act.make (.drains p.1 (u.drains.at p.1 [] ++ [(c, p.2)]))

theorem releaseEngine_does {l : List (Nat × Nat)} (p : Nat × Nat) (h : s.Drained c es l) :
    (releaseEngine c p).Does s fun _ t => t.Drained c es (l ++ [p]) := by
  refine (freeEngine_does p.1 s).bind fun _ t ht => Act.Does.get_bind (Act.Does.make ?_)
  obtain ⟨hSame, hFree, hOthers⟩ := ht
  have hCtxs : t.ctxs = s.ctxs := hSame .ctxs (by decide)
  have hDrains : t.drains = s.drains := hSame .drains (by decide)
  have hHolding : t.holding c es := ⟨(State.quiet_of_sameBut hSame (by decide)).trans h.holding.1, by
    simpa only [State.ctx, hCtxs] using h.holding.2⟩
  have hMember (f : Nat) (d : Nat × Nat) (hd : d ∈ s.drains.at f []) :
      d ∈ (t.upd (.drains p.1 (t.drains.at p.1 [] ++ [(c, p.2)]))).drains.at f [] := by
    by_cases hf : f = p.1
    · subst hf
      simp [State.upd, hDrains, hd]
    · rw [← hDrains] at hd
      simpa [State.upd, Sparse.at_put_other _ _ _ hf] using hd
  have hKept : (t.upd (.drains p.1 (t.drains.at p.1 [] ++ [(c, p.2)]))).Drained c es l := by
    refine h.keep hHolding (fun f => ?_) hMember
    by_cases hf : f = p.1
    · exact .inr (hf ▸ hFree)
    · exact .inl (congrArg Engine.ctx (hOthers f hf))
  refine ⟨hKept.holding, fun q hq => ?_⟩
  rcases List.mem_append.mp hq with hq | hq
  · exact hKept.drained q hq
  · rw [List.mem_singleton.mp hq]
    exact ⟨hFree, by simp [State.upd]⟩

theorem releaseEngines_does : ∀ (as l : List (Nat × Nat)) (s : State), s.Drained c es l →
    (forIn as PUnit.unit (fun p _ => do
      freeEngine p.1
      let u ← Act.get
      Act.make (.drains p.1 (u.drains.at p.1 [] ++ [(c, p.2)]))
      pure (ForInStep.yield PUnit.unit)) : Act PUnit).Does s fun _ t => t.Drained c es (l ++ as)
  | [], l, s, h => Act.Does.pure (by rwa [List.append_nil])
  | p :: as, l, s, h => by
    refine Act.Does.forIn_cons (P := fun t => t.Drained c es (l ++ [p])) (Act.Does.yield (x := releaseEngine c p) (releaseEngine_does p h))
      fun t ht => (releaseEngines_does as (l ++ [p]) t ht).mono fun _ u hu => ?_
    rwa [List.append_assoc] at hu

theorem drained_of_writes {l : List (Nat × Nat)} {x : Act α} {m : List Fld} (hx : x.Writes m) (hm : ∀ f ∈ quietFields, f ∉ m)
    (hOther : Fld.engines ∉ m ∧ Fld.drains ∉ m) : x.Keeps fun t => t.Drained c es l := fun t ht =>
  (hx.and (holding_of_writes (c := c) (es := es) hx hm t ht.holding)).mono fun _ _ hu => ht.of_sameBut hu.1 hOther hu.2

/-- A heel is counted in registers and accounts only. -/
theorem drained_countHeel {l : List (Nat × Nat)} (at' : Option Nat) : (countHeel c at').Keeps fun t => t.Drained c es l := by
  have hCount : (Act.count .colHeelCount).Keeps fun t => t.Drained c es l :=
    drained_of_writes (m := [.regs]) (by simp) (by decide) (by decide)
  have hLast (f : Context → Context) (hf : ∀ x, (f x).kern = x.kern) : (Act.modCtx c f).Keeps fun t => t.Drained c es l := fun t ht =>
    ((writes_modCtx c f (l := [.ctxs]) (by simp)).and (holding_modCtx (fun x => by rw [hf]) (fun x hx => by rw [hf, hx]) t ht.holding)).mono
      fun _ _ hu => ht.of_sameBut hu.1 (by decide) hu.2
  have hRest := keeps_bind hCount fun _ => hLast (fun x => let a := x.accts.at 14 0
    { x with accts := x.accts.put 14 (a / 2 ^ 32 * 2 ^ 32 + (a + 1) % 2 ^ 32) }) fun _ => rfl
  exact keeps_get_bind fun s => keeps_ite (keeps_bind (drained_of_writes (m := [.regs]) (by simp) (by decide) (by decide))
    fun _ => hRest) hRest

/-- What a heel leaves (R180). -/
def State.heeledFrom (t : State) (c : Nat) (k : Kernel) : Prop :=
  (t.ctx c).st = .heeled ∧
  (∃ q, (t.ctx c).kern = some q ∧ q.phase = .heeled ∧ q.engines = [] ∧ q.heelAt = none ∧
    q.saved.length = k.engines.length ∧ q.drained = k.engines.map fun _ => false) ∧
  ∀ e ∈ k.engines, (t.engine e).ctx = none ∧ ∃ j, (c, j) ∈ t.drains.at e []

/-- Lines in flight are placed, and the kernel has none. -/
theorem deliverAll_does {k : Kernel} (hQuiet : s.quiet = true) (hKern : (s.ctx c).kern = some k) :
    (deliverAll c).Does s fun _ t => t.holding c k.engines ∧ (t.ctx c).kern = some { k with flights := [] } := by
  refine Act.Does.get_bind (Act.Does.bind (Act.Writes.does (l := [.engines]) (writes_forIn (fun f _ =>
    writes_bind (writes_deliver f) fun _ => writes_pure _) _ _) s) fun _ t ht => Act.Does.get_bind (Act.Does.make ?_))
  have hCtxs : t.ctxs = s.ctxs := ht .ctxs (by decide)
  have hQuiet' : t.quiet = true := (State.quiet_of_sameBut ht (by decide)).trans hQuiet
  have hKern' : (t.ctx c).kern = some k := by simpa only [State.ctx, hCtxs] using hKern
  have hSettles := t.not_settles_of_quiet hQuiet' c
  rw [hKern'] at hSettles
  rw [State.holding, State.ctx_upd_ctx]
  beta_reduce
  rw [hKern']
  exact ⟨⟨State.quiet_upd_ctx hQuiet' hSettles, rfl⟩, rfl⟩

theorem exists_place {e : Nat} {l : List Nat} (h : e ∈ l) : ∃ j, (e, j) ∈ l.zipIdx := by
  obtain ⟨j, hj, rfl⟩ := List.getElem_of_mem h
  exact ⟨j, by simp [List.mk_mem_zipIdx_iff_getElem?, hj]⟩

/-- A heel takes the kernel's engines and leaves nothing to settle. -/
theorem heelNow_does {k : Kernel} (hQuiet : s.quiet = true) (hKern : (s.ctx c).kern = some k) (kind : Nat) :
    (heelNow c kind).Does s fun _ t => t.heeledFrom c k ∧ t.quiet = true := by
  refine (deliverAll_does hQuiet hKern).bind fun _ t ht => ?_
  obtain ⟨hHolding, hKern'⟩ := ht
  refine Act.Does.get_bind ?_
  simp only [hKern']
  refine (holding_chargeStalls t hHolding).bind fun _ t ht => ?_
  refine (keeps_forIn (P := State.holding c k.engines) (fun e _ => keeps_bind (holding_of_writes (writes_landAll e) (by decide)) fun _ =>
    keeps_pure _) k.engines PUnit.unit t ht).bind fun _ t ht => Act.Does.get_bind ?_
  refine (keeps_forIn (P := State.holding c k.engines) (fun e _ => keeps_bind (holding_of_writes (writes_freeEngine e (List.Subset.refl _))
    (by decide)) fun _ => keeps_pure _) k.spare PUnit.unit t ht).bind fun _ t ht => ?_
  refine (releaseEngines_does k.engines.zipIdx [] t ⟨ht, fun p hp => absurd hp List.not_mem_nil⟩).bind fun _ t ht => ?_
  refine (drained_countHeel _ t ht).bind fun _ t ht => Act.Does.modCtx_bind ?_
  refine (movesOnly_swapOut c _).mono fun _ u hu => ?_
  obtain ⟨q, hq, hOn⟩ := Option.map_eq_some_iff.mp ht.holding.2
  have hEngines : u.engines = t.engines := hu.same .engines (by decide)
  have hDrains : u.drains = t.drains := hu.same .drains (by decide)
  have hCtx := hu.ctx c
  simp only [State.ctx_upd_ctx, hq, Option.map_some] at hCtx
  refine ⟨⟨hCtx.1, ⟨_, hCtx.2, rfl, rfl, rfl, List.length_map _, by rw [← hOn]⟩, fun e he => ?_⟩,
    hu.quiet (State.quiet_upd_ctx ht.holding.1 ?_)⟩
  · obtain ⟨j, hj⟩ := exists_place he
    have hDrained := ht.drained (e, j) hj
    simp only [State.engine, hEngines, hDrains]
    exact ⟨hDrained.1, j, hDrained.2⟩
  · rw [hq]
    simp only [Option.map_some, Option.any_some, Kernel.settles]
    split <;> simp


/-! ## What brings a heel about -/

/-- HEEL_RELEASE where an engine is parked or the kernel waits at a WAIT. -/
theorem heelRelease_does {k : Kernel} (hQuiet : s.quiet = true) (hKern : (s.ctx c).kern = some k) (hPhase : k.phase = .running)
    (hAsked : k.heelAt.isSome = true) (hNow : s.hasParked k = true ∨ k.wait.isSome = true) :
    s.does (.heelRelease c) fun t => t.heeledFrom c k := by
  refine State.does_of rfl (Act.Does.get_bind ?_)
  simp only [hKern]
  have hHeel (kind : Nat) : (heelNow c kind).Does s fun _ t => t.heeledFrom c k := (heelNow_does hQuiet hKern kind).mono fun _ _ h => h.1
  refine Act.Does.ite (fun _ => Act.Does.ite (fun _ => hHeel 1) fun hParked => Act.Does.ite (fun _ => hHeel 3) fun hWait => ?_)
    fun hNot => absurd hNot (by simp [hPhase, hAsked])
  exact absurd hNow (by simp [hParked, hWait])

/-- Time passes, and kernels stay as they are. -/
theorem holding_reach (n : Nat) : (reach n).Keeps (State.holding c es) :=
  keeps_get_bind fun _ => keeps_ite (holding_of_writes (writes_passUnits _) (by decide)) keeps_nothing

theorem heeledFrom_of_holding {k : Kernel} (h : t.holding c k.engines) (kind : Nat) : (heelNow c kind).Does t fun _ u =>
    u.heeledFrom c k ∧ u.quiet = true := by
  obtain ⟨q, hq, hOn⟩ := Option.map_eq_some_iff.mp h.2
  exact (heelNow_does h.1 hq kind).mono fun _ u hu => ⟨by rw [State.heeledFrom, ← hOn]; exact hu.1, hu.2⟩

/-- STALL_CUTOFF of a stalled engine of the kernel. -/
theorem stallCutoff_does {k : Kernel} {e : Fin 8} (hQuiet : s.quiet = true) (hKern : (s.ctx c).kern = some k) (hPhase : k.phase = .running)
    (hAsked : k.heelAt.isSome = true) (hWait : k.wait = none) (hCtx : (s.engine e.val).ctx = some c)
    (hMode : (s.engine e.val).mode = .stalled) : s.does (.stallCutoff e) fun t => t.heeledFrom c k := by
  obtain ⟨at', hAt⟩ := Option.isSome_iff_exists.mp hAsked
  refine State.does_of rfl (Act.Does.get_bind ?_)
  simp only [hCtx, hKern, hAt]
  refine Act.Does.ite (fun _ => ?_) fun hNot => absurd hNot (by simp [hPhase, hMode, hWait])
  have hHolding : s.holding c k.engines := ⟨hQuiet, by rw [hKern]; rfl⟩
  refine (holding_engineCycles _ _ s hHolding).bind fun _ t ht => (holding_account _ _ t ht).bind fun _ t ht => ?_
  exact (holding_reach _ t ht).bind fun _ t ht => (heeledFrom_of_holding ht 2).mono fun _ _ h => h.1

theorem holding_requestHeel : (requestHeel c).Keeps (State.holding c es) := by
  refine keeps_get_bind fun s => ?_
  split
  · refine keeps_ite (keeps_bind (holding_modKernel fun _ => ⟨rfl, rfl⟩) fun _ => keeps_bind (keeps_forIn (fun e _ => ?_) _ _) fun _ =>
      keeps_pure _) keeps_nothing
    refine keeps_ite (holding_of_writes (l := [.therm, .regs]) (writes_get_bind fun t => ?_) (by decide)) (keeps_pure _)
    exact writes_make_bind (by simp) (writes_bind (writes_setTarget _ _ (by simp)) fun _ => writes_pure _)
  · exact keeps_nothing

/-- STALL_THRESHOLD of a kernel with a parked engine, and nothing it waits for. -/
theorem stallThreshold_does {k : Kernel} (hCalm : s.calm = true) (hKern : (s.ctx c).kern = some k) (hPhase : k.phase = .running)
    (hWait : k.wait = none) (hParked : ∃ e ∈ k.engines, (s.engine e).mode = .parked ∧ (s.engine e).waitFrom.isSome = true) :
    s.does (.stallThreshold c) fun t => t.heeledFrom c k := by
  obtain ⟨hOnTime, hQuiet⟩ := State.calm_iff.mp hCalm
  refine State.does_of rfl (settled_does hOnTime (Act.Does.get_bind ?_))
  simp only [hKern, hWait]
  split
  · next hNone =>
    obtain ⟨e, he, hMode, hFrom⟩ := hParked
    obtain ⟨f, hf⟩ := Option.isSome_iff_exists.mp hFrom
    have hMem := List.mem_filterMap (f := fun e => if (decide (none = some 255) || decide ((s.engine e).mode = .parked)) = true then
      (s.engine e).waitFrom.map fun n => n + (s.ctx c).desc.stallNs - (s.engine e).waited else none).mpr ⟨e, he, by simp [hMode, hf]; rfl⟩
    rw [List.min?_eq_none_iff.mp hNone] at hMem
    exact absurd hMem List.not_mem_nil
  · next n _ =>
    refine Act.Does.ite (fun _ => ?_) fun hNot => absurd hPhase hNot
    refine (holding_reach n s ⟨hQuiet, by rw [hKern]; rfl⟩).bind fun _ t ht => Act.Does.get_bind ?_
    exact (holding_requestHeel t ht).bind fun _ t ht => heeledFrom_of_holding ht 1

end Sys2Proof.Machine

/-!
PROOF. An engine's state drains into its kennel (R181, R192, Table 7.7).
-/
namespace Sys2Proof.Machine

variable {s t u : State} {c : Nat} {α β : Type}

/-! ## Writes within a range -/

/-- The fields a store writes. -/
def storeFields : List Fld := [.mem, .flips, .faults]

/-- Memory has changed within `n` bytes from `pa` on only, with its check bits. -/
structure State.Within (s : State) (pa n : Nat) (t : State) : Prop where
  same : s.SameBut storeFields t
  keeps : s.keepsBut t [(pa, n)]

theorem State.Within.refl (s : State) (pa n : Nat) : s.Within pa n s := ⟨.refl _ s, State.keepsBut_refl s _⟩

theorem State.Within.trans {pa n : Nat} (h : s.Within pa n t) (h' : t.Within pa n u) : s.Within pa n u :=
  ⟨h.same.trans h'.same, State.keepsBut_trans h.keeps h'.keeps⟩

/-- A range within a wider one. -/
theorem State.Within.widen {pa n qa m : Nat} (h : s.Within qa m t) (hLow : pa ≤ qa) (hHigh : qa + m ≤ pa + n) : s.Within pa n t :=
  ⟨h.same, fun a ha => h.keeps a (by simp only [List.mem_singleton, forall_eq] at ha ⊢; omega)⟩

theorem State.MemTo.within_store {pa : Nat} {bs : List Byte} (h : s.MemTo (Memory.store 0 s.mem pa bs) t) : s.Within pa bs.length t :=
  ⟨h.1, h.keepsBut_store⟩

theorem State.MemTo.within_clear {pa n : Nat} (h : s.MemTo (Memory.clear s.mem pa n) t) : s.Within pa n t :=
  ⟨h.1, State.keepsBut_clear h.2.1 List.mem_cons_self⟩

/-- An action that writes memory within `n` bytes from `pa` on. -/
def Act.WritesWithin (pa n : Nat) (x : Act Unit) : Prop := ∀ s, x.Does s fun _ t => s.Within pa n t

theorem writesWithin_nothing (pa n : Nat) : nothing.WritesWithin pa n := fun s => Act.Does.pure (.refl s pa n)

theorem writesWithin_bind {pa n : Nat} {x : Act Unit} {f : Unit → Act Unit} (hx : x.WritesWithin pa n) (hf : ∀ a, (f a).WritesWithin pa n) :
    (x >>= f).WritesWithin pa n := fun s => (hx s).bind fun a t ht => (hf a t).mono fun _ _ hu => ht.trans hu

theorem writesWithin_ite {pa n : Nat} {p : Prop} [Decidable p] {x y : Act Unit} (hx : x.WritesWithin pa n) (hy : y.WritesWithin pa n) :
    (if p then x else y).WritesWithin pa n := fun s => Act.Does.ite (fun _ => hx s) fun _ => hy s

theorem writesWithin_forIn {pa n : Nat} {γ : Type} (f : γ → Act Unit) (as : List γ) (hf : ∀ a ∈ as, (f a).WritesWithin pa n) :
    (forIn as PUnit.unit (fun a _ => do
      f a
      pure (ForInStep.yield PUnit.unit)) : Act PUnit).WritesWithin pa n := by
  induction as with
  | nil => exact fun s => Act.Does.pure (.refl s pa n)
  | cons a as ih =>
    exact fun s => Act.Does.forIn_cons (P := s.Within pa n) (Act.Does.yield (hf a List.mem_cons_self s)) fun t ht =>
      (ih (fun b hb => hf b (List.mem_cons_of_mem _ hb)) t).mono fun _ _ hu => ht.trans hu

theorem writesWithin_zeroPhys {pa n qa m : Nat} (hLow : pa ≤ qa) (hHigh : qa + m ≤ pa + n) : (zeroPhys qa m).WritesWithin pa n :=
  fun s => (zeroPhys_does qa m s).mono fun _ _ ht => ht.within_clear.widen hLow hHigh

theorem writesWithin_writePhys {pa n qa : Nat} {bs : List Byte} (hLow : pa ≤ qa) (hHigh : qa + bs.length ≤ pa + n) :
    (writePhys qa bs).WritesWithin pa n := fun s => (writePhys_does qa bs s).mono fun _ _ ht => ht.within_store.widen hLow hHigh

/-- `m` bytes at most, from `off` on in the range. -/
theorem writesWithin_writeNonzero {pa n : Nat} (off : Nat) {m : Nat} {bs : List Byte} (hLength : bs.length ≤ m) (hFits : off + m ≤ n) :
    (writeNonzero (pa + off) bs).WritesWithin pa n :=
  writesWithin_ite (writesWithin_nothing pa n) (writesWithin_writePhys (by omega) (by omega))

/-! ## The layout of a kennel -/

theorem length_flatMap_const {γ : Type} (f : γ → List Byte) {m : Nat} (hf : ∀ a, (f a).length = m) (as : List γ) :
    (as.flatMap f).length = as.length * m := by
  simp [List.length_flatMap, hf]

theorem length_lineBytes (x : Line) : (lineBytes x).length = 64 := bytesOf_length 64 _

theorem length_streamBytes (g : Stream) : g.bytes.length = 48 := by simp [Stream.bytes]

/-- A cell drains into its own 24 KiB of the kennel. -/
theorem writesWithin_drainCell (pa : Nat) (y : Cell) : (drainCell pa y).WritesWithin pa 0x6000 := by
  have hLines (m : Sparse Line) : ((List.range 6).flatMap fun i => lineBytes (m.at i 0)).length = 384 := by
    rw [length_flatMap_const _ fun i => length_lineBytes _]
    rfl
  have hWords (m : Sparse Word) (n : Nat) : ((List.range n).flatMap fun i => bytesOf 4 (m.at i 0).toNat).length = n * 4 := by
    rw [length_flatMap_const _ fun i => bytesOf_length 4 _, List.length_range]
  have hStreams : ((List.range 8).flatMap fun i => (y.stream i).bytes).length = 0x180 := by
    rw [length_flatMap_const _ fun i => length_streamBytes _]
    rfl
  have hVas : ((List.range 8).flatMap fun i => (y.vas.at i {}).bytes).length = 0x40 := by
    rw [length_flatMap_const (fun i => VaReg.bytes (y.vas.at i {})) fun i => bytesOf_length 8 _]
    rfl
  have hBegin : (writeNonzero (pa + 0) ((List.range 8).flatMap fun i => (y.stream i).bytes)).WritesWithin pa 0x6000 :=
    writesWithin_writeNonzero 0 hStreams.le (by decide)
  refine writesWithin_bind hBegin fun _ => ?_
  refine writesWithin_bind (writesWithin_writeNonzero 0x180 hVas.le (by decide)) fun _ => ?_
  refine writesWithin_bind (writesWithin_writeNonzero 0x1C0 (m := 16) (by simp) (by decide)) fun _ => ?_
  refine writesWithin_bind (writesWithin_writeNonzero 0x200 (m := 256) (by simp) (by decide)) fun _ => ?_
  refine writesWithin_bind (writesWithin_writeNonzero 0x300 (m := 896) ?_ (by decide)) fun _ => ?_
  · simp only [List.length_append, hLines, length_lineBytes]
    decide
  refine writesWithin_bind (writesWithin_writeNonzero 0x680 (length_lineBytes _).le (by decide)) fun _ => ?_
  have hChans := writesWithin_forIn (pa := pa) (n := 0x6000) (fun i => writeNonzero (pa + 0x5000 + i * 512) (channelBytes (y.chan i)))
    (List.range 8) fun i hi => by
      have hLt := List.mem_range.mp hi
      rw [Nat.add_assoc]
      exact writesWithin_writeNonzero (0x5000 + i * 512) (fit_length 512 _).le (by omega)
  have hTail := writesWithin_bind hChans fun _ => writesWithin_nothing pa 0x6000
  have hV := writesWithin_bind (writesWithin_writeNonzero (pa := pa) (n := 0x6000) 0x4700 (hWords y.v 512).le (by decide)) fun _ => hTail
  have hAcc := writesWithin_bind (writesWithin_writeNonzero (pa := pa) (n := 0x6000) 0x700 (hWords y.acc 4096).le (by decide)) fun _ =>
    writesWithin_ite (p := (!y.v.isEmpty) = true) hV hTail
  exact writesWithin_ite hAcc (writesWithin_ite hV hTail)

theorem length_kennelHeader (k : Kernel) (x : Engine) (repeats : Nat) (drained : Bool) (h : x.lc.length = 4) :
    (kennelHeader k x repeats drained).length = 52 := by
  simp only [kennelHeader, List.length_append, bytesOf_length, length_flatMap_const _ (bytesOf_length 4), h, List.length_cons,
    List.length_nil, List.length_replicate]

/-- Bytes of a tier are counted in an account of the context. -/
theorem account_does (n v : Nat) : (account c n v).Does s fun _ t => s.SameBut [.ctxs] t ∧ (t.ctx c).kern = (s.ctx c).kern ∧
    (t.ctx c).accts.at n 0 = ((s.ctx c).accts.at n 0 + v) % 2 ^ 64 := by
  refine Act.Does.modCtx_bind (Act.Does.ite (fun _ => Act.Does.get_bind (Act.Does.make ?_)) fun _ => Act.Does.pure ?_)
  · refine ⟨((State.SameBut.refl _ s).upd (by simp [Upd.fields])).upd (by simp [Upd.fields]), ?_, ?_⟩
    · simp only [State.ctx_upd_ctx]
    · simp only [State.ctx_upd_ctx, Sparse.at_put_same]
  · refine ⟨(State.SameBut.refl _ s).upd (by simp [Upd.fields]), ?_, ?_⟩
    · simp only [State.ctx_upd_ctx]
    · simp only [State.ctx_upd_ctx, Sparse.at_put_same]

/-- What a kennel of header, masks and cells changes of memory. -/
def kennelRanges (base : Nat) : List (Nat × Nat) := [(base, 0x400), (base + 0x1_0000, 256 * 0x6000)]

theorem State.Within.keepsKennel {base pa n : Nat} (h : s.Within pa n t) (hIn : (base ≤ pa ∧ pa + n ≤ base + 0x400) ∨
    (base + 0x1_0000 ≤ pa ∧ pa + n ≤ base + 0x1_0000 + 256 * 0x6000)) : s.keepsBut t (kennelRanges base) := fun a ha =>
  h.keeps a (by
    simp only [kennelRanges, List.mem_cons, List.not_mem_nil, or_false, forall_eq_or_imp, forall_eq] at ha ⊢
    omega)

/-- What draining an engine leaves: the header, and memory as it was outside header, masks and cells. -/
theorem drainEngine_does {j : Nat} {k : Kernel} {x : Engine} (hx : k.saved.getD j {} = x) (hLoops : x.lc.length = 4)
    (hMasks : x.masks.length ≤ 15) {base : Nat} (hBase : (s.ctx c).desc.kennel + j * 0x61_0000 = base) :
    (drainEngine c j k).Does s fun _ t => s.SameBut (.ctxs :: storeFields) t ∧
      t.holds base (kennelHeader k x (s.repeatOf k x) true) ∧ s.keepsBut t (kennelRanges base) ∧
      (t.ctx c).kern = (s.ctx c).kern ∧ (t.ctx c).accts.at 10 0 = ((s.ctx c).accts.at 10 0 + 6292480) % 2 ^ 64 := by
  have hHeader := length_kennelHeader k x (s.repeatOf k x) true hLoops
  refine Act.Does.get_bind ?_
  simp only [hx, hBase]
  refine (writesWithin_zeroPhys (pa := base) (n := 0x400) le_rfl le_rfl s).bind fun _ a ha => ?_
  refine (writesWithin_zeroPhys (pa := base + 0x1_0000) (n := 256 * 0x6000) le_rfl le_rfl a).bind fun _ b hb => ?_
  refine (writePhys_does base _ b).bind fun _ d hd => ?_
  refine (writesWithin_writeNonzero (pa := base + 0x40) (n := 480) 0 (m := 480) ?_ (by decide) d).bind fun _ e he => ?_
  · rw [length_flatMap_const _ fun m => bytesOf_length 32 _]
    omega
  refine (writesWithin_forIn (pa := base + 0x1_0000) (n := 256 * 0x6000)
    (fun n => drainCell (base + 0x1_0000 + n * 0x6000) (x.cell n)) (List.range 256) (fun n hn t => ?_) e).bind fun _ f hf => ?_
  · have hLt := List.mem_range.mp hn
    exact (writesWithin_drainCell _ _ t).mono fun _ _ h => h.widen (by omega) (by omega)
  refine (account_does 10 6292480).mono fun _ t ht => ?_
  obtain ⟨hSame, hKern, hAccount⟩ := ht
  have hStored : d.holds base (kennelHeader k x (s.repeatOf k x) true) := State.holds_store hd.2.1
  have hStores : s.SameBut storeFields f := ((((ha.same.trans hb.same).trans hd.1).trans he.same).trans hf.same)
  have hCtxs : f.ctxs = s.ctxs := hStores .ctxs (by decide)
  have hMem : t.mem = f.mem := hSame .mem (by decide)
  have hCtx : f.ctx c = s.ctx c := by simp only [State.ctx, hCtxs]
  have hLast : d.keepsBut t [(base + 0x40, 480), (base + 0x1_0000, 256 * 0x6000)] := fun a ha => by
    rw [hMem, hf.keeps a (by simp_all), he.keeps a (by simp_all)]
  refine ⟨(hStores.mono (by simp [storeFields])).trans (hSame.mono (by simp)), ?_, ?_, ?_, ?_⟩
  · refine State.holds_of_keepsBut hStored hLast fun r hr => ?_
    simp only [List.mem_cons, List.not_mem_nil, or_false] at hr
    rcases hr with rfl | rfl <;> simp only [hHeader] <;> omega
  · refine State.keepsBut_trans (ha.keepsKennel (.inl ⟨le_rfl, le_rfl⟩)) (State.keepsBut_trans (hb.keepsKennel (.inr ⟨le_rfl, le_rfl⟩)) ?_)
    refine State.keepsBut_trans (hd.within_store.keepsKennel (.inl ⟨le_rfl, by omega⟩)) (State.keepsBut_trans
      (he.keepsKennel (.inl ⟨by omega, by omega⟩)) (State.keepsBut_trans (hf.keepsKennel (.inr ⟨le_rfl, le_rfl⟩)) ?_))
    exact State.keepsBut_of_mem hMem
  · rw [hKern, hCtx]
  · rw [hAccount, hCtx]

/-- KENNEL_DRAIN of the first kennel of engine `i`. -/
theorem kennelDrain_does {e : Fin 8} {i j : Nat} {rest : List (Nat × Nat)} {k : Kernel} (hFirst : i = s.drainsFirst e.val)
    (hDrains : s.drains.at i [] = (c, j) :: rest) (hKern : (s.ctx c).kern = some k) (hLoops : (k.saved.getD j {}).lc.length = 4)
    (hMasks : (k.saved.getD j {}).masks.length ≤ 15) :
    s.does (.kennelDrain e) fun t => t.drains.at i [] = rest ∧
       (t.ctx c).kern = some { k with drained := k.drained.set j true } ∧
       (t.ctx c).accts.at 10 0 = ((s.ctx c).accts.at 10 0 + 6292480) % 2 ^ 64 ∧
       let base := (s.ctx c).desc.kennel + j * 0x61_0000
       (∀ i < 52, Memory.byte t.mem (base + i) =
         (kennelHeader k (k.saved.getD j {}) (s.repeatOf k (k.saved.getD j {})) true).getD i 0) ∧
       ∀ a, a < base ∨ (base + 0x400 ≤ a ∧ a < base + 65536) ∨ base + 97 * 65536 ≤ a →
         Memory.byte t.mem a = Memory.byte s.mem a := by
  have hHeader := length_kennelHeader k (k.saved.getD j {}) (s.repeatOf k (k.saved.getD j {})) true hLoops
  refine State.does_of rfl (Act.Does.get_bind ?_)
  simp only [← hFirst, hDrains]
  refine Act.Does.make_bind ?_
  simp only [hKern]
  refine (drainEngine_does (s := s.upd (.drains i rest)) rfl hLoops hMasks rfl).bind fun _ t ht => Act.Does.get_bind (Act.Does.make ?_)
  obtain ⟨hSame, hHolds, hKeeps, hKern', hAccount⟩ := ht
  have hDrains' : t.drains = _ := hSame .drains (by decide)
  refine ⟨?_, ?_, ?_, fun n hn => hHolds n (hHeader.symm ▸ hn), fun a ha => hKeeps a ?_⟩
  · rw [show (t.upd _).drains = t.drains from rfl, hDrains']
    simp [State.fld, State.upd]
  · rw [State.ctx_upd_ctx]
    show (t.ctx c).kern.map _ = _
    rw [hKern', show (s.upd (.drains i rest)).ctx c = s.ctx c from rfl, hKern]
    rfl
  · rw [State.ctx_upd_ctx]
    exact hAccount
  · simp only [kennelRanges, List.mem_cons, List.not_mem_nil, or_false, forall_eq_or_imp, forall_eq]
    simp only [show (s.upd (.drains i rest)).ctx c = s.ctx c from rfl]
    omega

/-- Settles O22: a request raises the engines; a heel keeps `State.holding` until the engines are released; a kennel is
zeroed, written header first, and left as it was between masks and cells. -/
theorem heelsFreeEnginesAndKennels : Obligations.HeelsFreeEnginesAndKennels := by
  refine ⟨fun s who c k hc hTakes hState hKern hHeel hEngines => ctxHeel_does hc hTakes hState hKern hHeel hEngines, ?_, ?_⟩
  · intro s c k hKern hPhase _ _ _ hCalm heeled
    have hQuiet := (State.calm_iff.mp hCalm).2
    exact ⟨heelRelease_does hQuiet hKern hPhase, fun e hAsked hWait hCtx hMode => stallCutoff_does hQuiet hKern hPhase hAsked hWait hCtx hMode,
      fun hWait _ hParked => stallThreshold_does hCalm hKern hPhase hWait hParked⟩
  · intro s e i c j rest k hFirst _ hDrains hKern hLoops hMasks
    exact kennelDrain_does hFirst hDrains hKern hLoops hMasks

end Sys2Proof.Machine

/-!
PROOF. An engine without work retires (R189, R463).
-/
namespace Sys2Proof.Machine

variable {s t u : State} {e : Nat}

/-- The fields in which an engine without work retires. -/
def retireFields : List Fld := [.faults, .regs, .sdio, .ctxs, .drains, .engines]

/-- An engine retires in registers, with a record: what the retirement of an engine leaves of the registers. -/
structure State.EngineRetired (s : State) (e : Nat) (t : State) : Prop where
  same : s.SameBut retireFields t
  seq : t.faults.seq = (s.faults.seq + 1) % 2 ^ 32
  units : t.rg .faultRetUnits = setField (s.rg .faultRetUnits) e e 1
  live : t.rg .colEngLive = setField (s.rg .colEngLive) e e 0
  channels : ∀ n < 96, t.bitOf3 .pscLive n = s.bitOf3 .pscLive n
  ctx : ∀ c, t.ctx c = s.ctx c
  quiet : s.quiet = true → t.quiet = true

/-- The engine left the live ones, and no other. -/
theorem State.EngineRetired.mem_live (h : s.EngineRetired e t) (he : e < 32) {f : Nat} : f ∈ t.live ↔ f ∈ s.live ∧ f ≠ e := by
  simp only [State.live, List.mem_filter, List.mem_range, h.live]
  by_cases hf : f = e
  · rw [hf, flag_setField_same _ _ he]
    simp
  · rw [flag_setField_other _ _ (by omega)]
    simp [hf]

theorem exists_mem_ne {l : List Nat} (hNodup : l.Nodup) (hLength : 2 ≤ l.length) (e : Nat) : ∃ f ∈ l, f ≠ e := by
  match l, hNodup, hLength with
  | a :: b :: _, hNodup, _ =>
    have hNe : a ≠ b := fun h => (List.nodup_cons.mp hNodup).1 (h ▸ List.mem_cons_self)
    by_cases ha : a = e
    · exact ⟨b, by simp, fun hb => hNe (ha.trans hb.symm)⟩
    · exact ⟨a, by simp, ha⟩

/-- Units enough are left where two engines lived. -/
theorem State.EngineRetired.not_tooFew (h : s.EngineRetired e t) (he : e < 8) (hLive : 2 ≤ s.live.length)
    (hChannels : 8 ≤ ((List.range 96).filter (s.bitOf3 .pscLive)).length) (hStewards : s.rf .faultRetUnits 0 21 20 ≠ 3) :
    t.tooFew = false := by
  obtain ⟨f, hf, hNe⟩ := exists_mem_ne (List.nodup_range.filter _) hLive e
  have hLiveLeft : t.live.isEmpty = false := List.isEmpty_eq_false_iff.mpr (List.ne_nil_of_mem ((h.mem_live (by omega)).mpr ⟨hf, hNe⟩))
  have hChannelsLeft : (List.range 96).filter (t.bitOf3 .pscLive) = (List.range 96).filter (s.bitOf3 .pscLive) :=
    List.filter_congr fun n hn => h.channels n (List.mem_range.mp hn)
  have hStewardsLeft : t.rf .faultRetUnits 0 21 20 = s.rf .faultRetUnits 0 21 20 := by
    simp only [State.rf, h.units]
    exact field_setField_other _ _ (.inl (by omega))
  simp [State.tooFew, hLiveLeft, hChannelsLeft, hStewardsLeft, hStewards]
  omega

/-- A kernel that has the engine not beyond its span keeps every engine. -/
theorem State.EngineRetired.upd_spare {c : Nat} (h : s.EngineRetired e t) {f : Kernel → Kernel}
    (hf : ∀ k, (s.ctx c).kern = some k → f k = k) :
    s.EngineRetired e (t.upd (.ctx c { t.ctx c with kern := (t.ctx c).kern.map f })) := by
  have hSame : { t.ctx c with kern := (t.ctx c).kern.map f } = s.ctx c := by
    rw [h.ctx c]
    cases hKern : (s.ctx c).kern with
    | none => rw [Option.map_none, ← hKern]
    | some k => rw [Option.map_some, hf k hKern, ← hKern]
  refine ⟨h.same.upd (by simp [Upd.fields, retireFields]), h.seq, h.units, h.live, h.channels, fun d => ?_, fun hq => ?_⟩
  · by_cases hd : d = c
    · rw [hd, State.ctx_upd_ctx, hSame]
    · rw [State.ctx_upd_ctx_other _ _ hd, h.ctx d]
  · rw [hSame]
    exact State.quiet_upd_ctx (h.quiet hq) (s.not_settles_of_quiet hq c)

/-- The registers and the record of a retirement. -/
theorem engineRetired_of_recorded {a b d : State}
    (ha : a = s.upd (.reg (Reg.off .faultRetUnits 0 0) (setField (s.rg .faultRetUnits) e e 1)))
    (hb : b = a.upd (.reg (Reg.off .colEngLive 0 0) (setField (a.rg .colEngLive) e e 0)))
    (hd : ∃ w, d = b.upd (.reg (Reg.off .pwrDom 0 0) w)) (h : d.Recorded t) : s.EngineRetired e t := by
  obtain ⟨w, hd⟩ := hd
  have hSame : s.SameBut [.faults, .regs, .sdio] t := by
    refine State.SameBut.trans ?_ h.1
    rw [hd, hb, ha]
    exact (((State.SameBut.refl _ s).upd (by simp [Upd.fields])).upd (by simp [Upd.fields])).upd (by simp [Upd.fields])
  have hKept {r : Reg} {n : Nat} (hRecord : r.off n 0 ∉ recordRegs) (hDom : r.off n 0 ≠ Reg.off .pwrDom 0 0) : t.rg r n = b.rg r n := by
    rw [h.rg hRecord, hd, State.rg_upd_reg_other _ _ _ _ _ _ hDom]
  refine ⟨hSame.mono (by simp [retireFields]), ?_, ?_, ?_, fun n hn => ?_, fun c => ?_, fun hq => ?_⟩
  · rw [h.seq, hd, hb, ha]
    rfl
  · rw [hKept (by decide) (by decide), hb, State.rg_upd_reg_other _ _ _ _ _ _ (by decide), ha, State.rg_upd_reg]
  · rw [hKept (by decide) (by decide), hb, State.rg_upd_reg, ha, State.rg_upd_reg_other _ _ _ _ _ _ (by decide)]
  · have hWord : n / 32 < 3 := by omega
    simp only [State.bitOf3]
    rw [hKept (by simp only [recordRegs, List.mem_cons, List.not_mem_nil, or_false, Reg.off, Reg.row]; omega)
      (by simp only [Reg.off, Reg.row]; omega), hb,
      State.rg_upd_reg_other _ _ _ _ _ _ (by simp only [Reg.off, Reg.row]; omega), ha,
      State.rg_upd_reg_other _ _ _ _ _ _ (by simp only [Reg.off, Reg.row]; omega)]
  · simp only [State.ctx, show t.ctxs = s.ctxs from hSame .ctxs (by decide)]
  · exact (State.quiet_of_sameBut hSame (by decide)).trans hq

/-- An engine that no kernel is on retires. -/
theorem retireEngine_does {code link : Nat} (he : e < 8) (hClear : flag (s.rg .faultRetUnits) e = false)
    (hIdle : ∀ c, s.onEngine c e = false) (hSpare : ∀ c k, (s.ctx c).kern = some k → e ∉ k.spare) (hLive : 2 ≤ s.live.length)
    (hChannels : 8 ≤ ((List.range 96).filter (s.bitOf3 .pscLive)).length) (hStewards : s.rf .faultRetUnits 0 21 20 ≠ 3) :
    (retireEngine e code link).Does s fun _ t => s.EngineRetired e t ∧ (t.engine e).mode = .retired := by
  refine Act.Does.get_bind (Act.Does.ite (fun _ => Act.Does.regField_bind (Act.Does.regField_bind (Act.Does.regField_bind ?_))) fun h =>
    absurd hClear (by simpa using h))
  refine (fault_gives _ _).does.bind fun seq t ht => ?_
  rw [show (2 + e) / 32 = 0 by omega] at ht
  have hRetired : s.EngineRetired e t := engineRetired_of_recorded rfl rfl ⟨_, rfl⟩ ht
  refine Act.Does.bind (Act.Does.loop (I := fun _ t => s.EngineRetired e t) (fun x _ t ht => ?_) _ _ t hRetired) fun _ t ht => ?_
  · refine Act.Does.ite (fun hOn => absurd hOn (by simp [hIdle])) fun _ => Act.Does.modCtx_bind (Act.Does.pure (ht.upd_spare fun k hk => ?_))
    have hKeep : k.spare.filter (· ≠ e) = k.spare := List.filter_eq_self.mpr fun f hf => by
      simpa using fun h : f = e => hSpare _ k hk (h ▸ hf)
    simp only [hKeep]
  have hDone {x : Engine} : s.EngineRetired e ((t.upd (.drains e [])).upd (.engine e x)) :=
    ⟨(ht.same.upd (by simp [Upd.fields, retireFields])).upd (by simp [Upd.fields, retireFields]), ht.seq, ht.units, ht.live,
      ht.channels, ht.ctx, ht.quiet⟩
  refine Act.Does.make_bind (Act.Does.get_bind (Act.Does.make_bind ?_))
  refine Act.Does.get_bind (Act.Does.ite (fun hFew => ?_) fun _ => Act.Does.pure ⟨hDone, by rw [State.engine_upd_engine]⟩)
  exact absurd hFew (by rw [hDone.not_tooFew he hLive hChannels hStewards]; decide)

/-- At most one record has been made. -/
structure State.MayRecord (s t : State) : Prop where
  same : s.SameBut [.faults, .regs, .sdio] t
  regs : ∀ o, o ∉ recordRegs → t.regs.find o = s.regs.find o
  seq : t.faults.seq = s.faults.seq ∨ t.faults.seq = (s.faults.seq + 1) % 2 ^ 32

theorem State.MayRecord.refl (s : State) : s.MayRecord s := ⟨.refl _ s, fun _ _ => rfl, .inl rfl⟩

theorem State.Recorded.mayRecord (h : s.Recorded t) : s.MayRecord t := ⟨h.1, h.2.2, .inr h.2.1⟩

/-- An engine retires, with its condition's record before it or not. -/
theorem retireEngine_after {code link : Nat} (he : e < 8) (hBefore : s.MayRecord u) (hQuiet : s.quiet = true)
    (hClear : flag (s.rg .faultRetUnits) e = false) (hIdle : ∀ c, s.onEngine c e = false)
    (hSpare : ∀ c k, (s.ctx c).kern = some k → e ∉ k.spare) (hLive : 2 ≤ s.live.length)
    (hChannels : 8 ≤ ((List.range 96).filter (s.bitOf3 .pscLive)).length) (hStewards : s.rf .faultRetUnits 0 21 20 ≠ 3) :
    (retireEngine e code link).Does u fun _ t => (flag (t.rg .faultRetUnits) e = true ∧ e ∉ t.live ∧
      (t.engine e).mode = .retired ∧ (∀ c, t.ctx c = s.ctx c) ∧ t.locks = s.locks ∧ t.mem = s.mem ∧
      s.faults.seq ≠ t.faults.seq) ∧ t.quiet = true := by
  have hRg {r : Reg} {n : Nat} (ho : r.off n 0 ∉ recordRegs) : u.rg r n = s.rg r n := State.rg_eq_of_find (hBefore.regs _ ho)
  have hCtx (c : Nat) : u.ctx c = s.ctx c := by simp only [State.ctx, show u.ctxs = s.ctxs from hBefore.same .ctxs (by decide)]
  have hDrains : u.drains = s.drains := hBefore.same .drains (by decide)
  have hUnits := hRg (r := .faultRetUnits) (n := 0) (by decide)
  have hOn (c : Nat) : u.onEngine c e = false := by
    have hNot := hIdle c
    simp only [State.onEngine, hCtx, hDrains] at hNot ⊢
    exact hNot
  have hLive' : u.live = s.live := by rw [State.live, hRg (by decide)]; rfl
  have hChannels' : (List.range 96).filter (u.bitOf3 .pscLive) = (List.range 96).filter (s.bitOf3 .pscLive) :=
    List.filter_congr fun n hn => by
      have hLt := List.mem_range.mp hn
      simp only [State.bitOf3]
      rw [hRg (by simp only [recordRegs, List.mem_cons, List.not_mem_nil, or_false, Reg.off, Reg.row]; omega)]
  refine (retireEngine_does he (hUnits ▸ hClear) hOn (fun c k hk => hSpare c k (hCtx c ▸ hk)) (hLive' ▸ hLive)
    (hChannels' ▸ hChannels) (by rwa [State.rf, hUnits])).mono fun _ t ht => ?_
  obtain ⟨hRetired, hMode⟩ := ht
  refine ⟨⟨?_, fun hIn => ((hRetired.mem_live (by omega)).mp hIn).2 rfl, hMode, fun c => (hRetired.ctx c).trans (hCtx c),
    (hRetired.same .locks (by decide)).trans (hBefore.same .locks (by decide)),
    (hRetired.same .mem (by decide)).trans (hBefore.same .mem (by decide)), ?_⟩,
    hRetired.quiet ((State.quiet_of_sameBut hBefore.same (by decide)).trans hQuiet)⟩
  · rw [hRetired.units, flag_setField_same _ _ (by omega)]
    decide
  · rw [hRetired.seq]
    rcases hBefore.seq with h | h <;> rw [h] <;> omega

/-- Settles O23: no context has work on the engine, so that its retirement is one of registers with a record. -/
theorem engineFaultRetires : Obligations.EngineFaultRetires := by
  intro s e cause hCalm hClear hIdle hSpare hLive hChannels hStewards
  obtain ⟨hOnTime, hQuiet⟩ := State.calm_iff.mp hCalm
  have hRetire {u : State} (hu : s.MayRecord u) (code link : Nat) := retireEngine_after (code := code) (link := link) e.isLt hu hQuiet
    hClear hIdle hSpare hLive hChannels hStewards
  refine State.does_of rfl (settled_does hOnTime (Act.Does.get_bind (Act.Does.ite (fun _ => ?_) fun hNot =>
    absurd hClear (by simpa using hNot))))
  cases cause with
  | bundleStoreEcc => exact (fault_gives s _).does.bind fun seq u hu => hRetire hu.mayRecord Code.faultEcc seq
  | sparesExhausted => exact (fault_gives s _).does.bind fun seq u hu => hRetire hu.mayRecord Code.faultUnit seq
  | controlParity => exact hRetire (.refl s) Code.faultUnit noLink
  | noIssue => exact hRetire (.refl s) Code.faultUnit noLink

end Sys2Proof.Machine

/-!
PROOF. A kernel ends, and with its last its job (R81, R95, R173).
-/
namespace Sys2Proof.Machine

variable {s t u : State} {c e : Nat} {es : List Nat} {α β : Type} {l : List Fld}

/-! ## A kernel that ends -/

/-- The fields in which a kernel ends. -/
def endFields : List Fld := [.engines, .regs, .ctxs, .therm, .drains, .waits, .flying, .chanQueues]

/-- Two contexts agree in state, descriptor, jobs and ring. -/
def Context.sameJob (x y : Context) : Prop :=
  x.st = y.st ∧ x.desc = y.desc ∧ x.jobs = y.jobs ∧ x.nextKern = y.nextKern ∧ x.ring = y.ring

/-- The kernel of context `c` on engines `es` is being ended, since state `s`: its job stands where it stood. -/
structure State.Ending (s : State) (c : Nat) (es : List Nat) (t : State) : Prop where
  same : s.SameBut endFields t
  job : (t.ctx c).sameJob (s.ctx c)
  live : ∀ f ∈ es, (t.engine f).mode ≠ .retired
  quiet : t.quiet = true

theorem ending_of_writes {x : Act α} (h : x.Writes l) (hl : ∀ f ∈ l, f ∈ endFields ∧ f ≠ .engines ∧ f ≠ .ctxs ∧ f ≠ .flying) :
    x.Keeps (s.Ending c es) := by
  refine fun t ht => (h.does t).mono fun _ u hu => ?_
  have hEngines : u.engines = t.engines := hu .engines fun hIn => (hl _ hIn).2.1 rfl
  have hCtxs : u.ctxs = t.ctxs := hu .ctxs fun hIn => (hl _ hIn).2.2.1 rfl
  refine ⟨ht.same.trans (hu.mono fun f hf => (hl f hf).1), ?_, fun f hf => ?_, ?_⟩
  · simpa only [State.ctx, hCtxs] using ht.job
  · simpa only [State.engine, hEngines] using ht.live f hf
  · rw [State.quiet_of_sameBut hu fun f hf hIn => ?_, ht.quiet]
    have hMoved := hl f hIn
    fin_cases hf <;> simp_all [endFields]

theorem State.Ending.upd_ctx (h : s.Ending c es t) {x : Context} (hJob : x.sameJob (t.ctx c)) (hSettles : x.kern.any Kernel.settles = false) :
    s.Ending c es (t.upd (.ctx c x)) where
  same := h.same.upd (by simp [Upd.fields, endFields])
  job := by
    rw [State.ctx_upd_ctx]
    obtain ⟨hSt, hDesc, hJobs, hNext, hRing⟩ := hJob
    obtain ⟨hSt', hDesc', hJobs', hNext', hRing'⟩ := h.job
    exact ⟨hSt.trans hSt', hDesc.trans hDesc', hJobs.trans hJobs', hNext.trans hNext', hRing.trans hRing'⟩
  live := h.live
  quiet := State.quiet_upd_ctx h.quiet hSettles

theorem ending_modCtx {f : Context → Context} (hJob : ∀ x, (f x).sameJob x)
    (hSettles : ∀ x : Context, x.kern.any Kernel.settles = false → (f x).kern.any Kernel.settles = false) :
    (Act.modCtx c f).Keeps (s.Ending c es) := fun t ht => Act.Does.get_bind (Act.Does.make
  (ht.upd_ctx (hJob _) (hSettles _ (t.not_settles_of_quiet ht.quiet c))))

theorem ending_modKernel {f : Kernel → Kernel} (hf : ∀ k, (f k).settles = k.settles) :
    (Act.modKernel c f).Keeps (s.Ending c es) :=
  ending_modCtx (fun _ => ⟨rfl, rfl, rfl, rfl, rfl⟩) fun x hx => by
    show (x.kern.map f).any Kernel.settles = false
    cases hKern : x.kern with
    | none => rfl
    | some k =>
      rw [hKern] at hx
      exact (hf k).trans hx

/-- A change of an engine that does not retire it. -/
theorem State.Ending.upd_engine (h : s.Ending c es t) {x : Engine} (hx : e ∈ es → x.mode ≠ .retired) :
    s.Ending c es (t.upd (.engine e x)) where
  same := h.same.upd (by simp [Upd.fields, endFields])
  job := h.job
  live f hf := by
    by_cases hSame : f = e
    · rw [hSame, State.engine_upd_engine]
      exact hx (hSame ▸ hf)
    · rw [State.engine_upd_engine_other x hSame]
      exact h.live f hf
  quiet := h.quiet

theorem ending_modEngine {f : Engine → Engine} (hf : ∀ x, (f x).mode = x.mode) : (Act.modEngine e f).Keeps (s.Ending c es) :=
  fun t ht => Act.Does.get_bind (Act.Does.make (ht.upd_engine fun he => by rw [hf]; exact ht.live e he))

theorem ending_account (n v : Nat) : (account c n v).Keeps (s.Ending c es) :=
  keeps_bind (ending_modCtx (fun _ => ⟨rfl, rfl, rfl, rfl, rfl⟩) fun _ h => h) fun _ =>
    keeps_ite (ending_modCtx (fun _ => ⟨rfl, rfl, rfl, rfl, rfl⟩) fun _ h => h) keeps_nothing

theorem ending_engineCycles (e n : Nat) : (engineCycles c e n).Keeps (s.Ending c es) :=
  keeps_bind (ending_account e n) fun _ => ending_modKernel fun _ => rfl

theorem ending_endStall (e : Nat) : (endStall c e).Keeps (s.Ending c es) := fun t ht => by
  refine Act.Does.get_bind ?_
  dsimp only
  split
  · exact Act.Does.pure ht
  · refine Act.Does.make_bind ?_
    exact keeps_bind (ending_engineCycles _ _) (fun _ => ending_account _ _) _ (ht.upd_engine fun he => ht.live e he)

theorem ending_endHold (e : Nat) : (endHold c e).Keeps (s.Ending c es) := fun t ht => by
  refine Act.Does.get_bind ?_
  dsimp only
  split
  · exact Act.Does.pure ht
  · exact Act.Does.make_bind (ending_engineCycles _ _ _ (ht.upd_engine fun he => ht.live e he))

theorem ending_chargeStalls : (chargeStalls c).Keeps (s.Ending c es) := by
  refine keeps_get_bind fun s => keeps_bind (keeps_forIn (fun e _ => ?_) _ _) fun _ => keeps_pure _
  exact keeps_ite (keeps_bind (ending_endStall e) fun _ => keeps_bind (ending_endHold e) fun _ => keeps_pure _) (keeps_pure _)

/-- An engine is released. -/
def Engine.released (x : Engine) : Prop := x.ctx = none ∧ x.mode = .idle

theorem freeEngine_released (e : Nat) (h : s.Ending c es t) : (freeEngine e).Does t fun _ u => s.Ending c es u ∧
    (e ∈ es → (u.engine e).released) ∧ ∀ f, f ≠ e → u.engine f = t.engine f := by
  have hMode (he : e ∈ es) : (if (t.engine e).mode = .retired then EngMode.retired else .idle) = .idle := if_neg (h.live e he)
  refine Act.Does.get_bind (Act.Does.make_bind ?_)
  have hFreed {x : Engine} (hCtx : x.ctx = none) (hIdle : e ∈ es → x.mode = .idle) : s.Ending c es (t.upd (.engine e x)) ∧
      (e ∈ es → ((t.upd (.engine e x)).engine e).released) ∧ ∀ f, f ≠ e → (t.upd (.engine e x)).engine f = t.engine f :=
    ⟨h.upd_engine fun he => by rw [hIdle he]; decide, fun he => by rw [State.engine_upd_engine]; exact ⟨hCtx, hIdle he⟩,
      fun f hf => State.engine_upd_engine_other x hf⟩
  refine Act.Does.ite (fun _ => Act.Does.make_bind ?_) fun _ => Act.Does.pure (hFreed rfl hMode)
  obtain ⟨hEnding, hReleased, hOthers⟩ := hFreed (x := {
    half := (t.engine e).half, storeA := (t.engine e).storeA, storeB := (t.engine e).storeB
    mode := if (t.engine e).mode = .retired then .retired else .idle }) rfl hMode
  generalize t.upd _ = v at hEnding hReleased hOthers ⊢
  have hTherm (x : Thermal) : s.Ending c es (v.upd (.therm x)) := ⟨hEnding.same.upd (by simp [Upd.fields, endFields]), hEnding.job,
    hEnding.live, hEnding.quiet⟩
  have hWrites (n : Nat) : (setTarget e n).Writes [.regs] := writes_setTarget e n (by simp)
  refine Act.Does.mono (Act.Writes.and (hWrites _) (ending_of_writes (hWrites _) (by decide) _ (hTherm _))) fun _ u hu => ?_
  have hEngines : u.engines = v.engines := hu.1 .engines (by decide)
  simp only [State.engine, hEngines]
  exact ⟨hu.2, hReleased, hOthers⟩

/-- The engines of `l` that hold the context's kernel are released. -/
theorem freeEngines_does (p : Nat → Prop) [DecidablePred p] : ∀ (l : List Nat) (t : State), s.Ending c es t →
    (forIn l PUnit.unit (fun e _ => if p e then do
        freeEngine e
        pure (ForInStep.yield PUnit.unit)
      else pure (ForInStep.yield PUnit.unit)) : Act PUnit).Does t fun _ u => s.Ending c es u ∧
      ∀ f ∈ es, (f ∈ l ∧ p f) ∨ (t.engine f).released → (u.engine f).released
  | [], t, h => Act.Does.pure ⟨h, fun f _ hf => hf.resolve_left fun hIn => absurd hIn.1 List.not_mem_nil⟩
  | e :: l, t, h => by
    refine Act.Does.forIn_cons (P := fun u => s.Ending c es u ∧ (e ∈ es → p e → (u.engine e).released) ∧
      ∀ f ∈ es, (t.engine f).released → (u.engine f).released) ?_ fun u hu => ?_
    · refine Act.Does.ite (fun _ => Act.Does.yield ((freeEngine_released e h).mono fun _ u hu => ⟨hu.1, fun he _ => hu.2.1 he, fun f hf hFree => ?_⟩))
        fun hNot => Act.Does.pure ⟨rfl, h, fun _ hp => absurd hp hNot, fun _ _ hFree => hFree⟩
      by_cases hSame : f = e
      · exact hSame ▸ hu.2.1 (hSame ▸ hf)
      · rwa [hu.2.2 f hSame]
    · obtain ⟨hEnding, hFirst, hKeeps⟩ := hu
      refine (freeEngines_does p l u hEnding).mono fun _ v hv => ⟨hv.1, fun f hf hFree => hv.2 f hf ?_⟩
      rcases hFree with ⟨hIn, hp⟩ | hFree
      · rcases List.mem_cons.mp hIn with rfl | hIn
        · exact .inr (hFirst hf hp)
        · exact .inl ⟨hIn, hp⟩
      · exact .inr (hKeeps f hf hFree)

/-- The kernel's engines are released. -/
def State.Ended (s : State) (c : Nat) (es : List Nat) (t : State) : Prop := s.Ending c es t ∧ ∀ f ∈ es, (t.engine f).released

theorem ended_of_writes {x : Act α} (h : x.Writes l) (hl : ∀ f ∈ l, f ∈ endFields ∧ f ≠ .engines ∧ f ≠ .ctxs ∧ f ≠ .flying) :
    x.Keeps (s.Ended c es) := fun t ht => (h.and (ending_of_writes h hl t ht.1)).mono fun _ u hu => ⟨hu.2, fun f hf => by
  simpa only [State.engine, show u.engines = t.engines from hu.1 .engines fun hIn => (hl _ hIn).2.1 rfl] using ht.2 f hf⟩

theorem writes_dropDrains : (dropDrains c).Writes [.drains] :=
  writes_get_bind fun s => writes_bind (writes_forIn (fun x _ => by
    obtain ⟨e, d⟩ := x
    exact writes_ite (writes_make_bind (by simp) (by simp)) (by simp)) _ _) fun _ => writes_pure _

theorem writes_dropKernelWaits : (dropKernelWaits c).Writes [.waits] := writes_get_bind fun _ => writes_make (by simp)

/-- A kernel stops: its context holds none, and the engines it had are released. -/
theorem stopKernel_does {k : Kernel} (h : s.Ending c es t) (hKern : (t.ctx c).kern = some k)
    (hOn : ∀ f ∈ es, f ∈ k.engines ∧ (t.engine f).ctx = some c) : (stopKernel c).Does t fun _ u => s.Ended c es u ∧ (u.ctx c).kern = none := by
  refine Act.Does.get_bind ?_
  simp only [hKern]
  refine (ending_chargeStalls t h).bind fun _ u hu => ?_
  refine (freeEngines_does (fun e => (t.engine e).ctx = some c) k.granted u hu).bind fun _ v hv => ?_
  have hEnded : s.Ended c es v := ⟨hv.1, fun f hf => hv.2 f hf (.inl ⟨List.mem_append_left _ (hOn f hf).1, (hOn f hf).2⟩)⟩
  refine (ended_of_writes writes_dropDrains (by decide) v hEnded).bind fun _ w hw => ?_
  refine (ended_of_writes writes_dropKernelWaits (by decide) w hw).bind fun _ x hx => ?_
  exact Act.Does.get_bind (Act.Does.make ⟨⟨hx.1.upd_ctx ⟨rfl, rfl, rfl, rfl, rfl⟩ rfl, hx.2⟩, by rw [State.ctx_upd_ctx]⟩)

/-- A loop whose passes keep a predicate, each for an element of the list. -/
theorem keeps_forIn_mem {P : State → Prop} {γ : Type} {f : γ → β → Act (ForInStep β)} : ∀ (as : List γ) (b : β),
    (∀ a ∈ as, ∀ b, (f a b).Keeps P) → (forIn as b f : Act β).Keeps P
  | [], b, _ => fun _ h => Act.Does.pure h
  | a :: as, b, hf => fun s hs => by
    rw [List.forIn_cons]
    refine (hf a List.mem_cons_self b s hs).bind fun r t ht => ?_
    cases r with
    | done b => exact Act.Does.pure ht
    | yield b => exact keeps_forIn_mem as b (fun d hd => hf d (List.mem_cons_of_mem _ hd)) t ht

/-- Barges become those of a kernel that has completed, and nothing is left to settle. -/
theorem orphanBarges_does (h : s.Ended c es t) (hKern : (t.ctx c).kern = none) : (orphanBarges c).Does t fun _ u =>
    s.Ended c es u ∧ (u.ctx c).kern = none := by
  have hFly (u : State) (hu : s.Ended c es u ∧ (u.ctx c).kern = none) (slot : Nat) (b : Barge) (hb : b.waitCode = none) :
      s.Ended c es (u.upd (.fly slot b)) ∧ ((u.upd (.fly slot b)).ctx c).kern = none :=
    ⟨⟨⟨hu.1.1.same.upd (by simp [Upd.fields, endFields]), hu.1.1.job, hu.1.1.live, State.quiet_upd_fly hu.1.1.quiet hb⟩, hu.1.2⟩, hu.2⟩
  have hChannel (u : State) (hu : s.Ended c es u ∧ (u.ctx c).kern = none) (n : Nat) (q : List Barge) :
      s.Ended c es (u.upd (.channel n q)) ∧ ((u.upd (.channel n q)).ctx c).kern = none :=
    ⟨⟨⟨hu.1.1.same.upd (by simp [Upd.fields, endFields]), hu.1.1.job, hu.1.1.live, hu.1.1.quiet⟩, hu.1.2⟩, hu.2⟩
  refine Act.Does.get_bind (Act.Does.bind (keeps_forIn_mem (P := fun u => s.Ended c es u ∧ (u.ctx c).kern = none) t.flying PUnit.unit
    (fun b hb _ => ?_) t ⟨h, hKern⟩) fun _ u hu => (keeps_forIn (P := fun u => s.Ended c es u ∧ (u.ctx c).kern = none) (fun q _ => ?_) _ _ u hu).bind
      fun _ v hv => Act.Does.pure hv)
  · have hCode : b.2.waitCode = none := by
      have hQuiet := h.1.quiet
      simp only [State.quiet, Bool.and_eq_true, List.all_eq_true, Option.isNone_iff_eq_none] at hQuiet
      exact hQuiet.1.1.1.1.1.1.1.1.1.1.1 b hb
    obtain ⟨slot, b⟩ := b
    exact keeps_ite (fun u hu => Act.Does.make_bind (Act.Does.pure (hFly u hu slot _ hCode))) (keeps_pure _)
  · obtain ⟨n, q⟩ := q
    exact keeps_ite (fun u hu => Act.Does.make_bind (Act.Does.pure (hChannel u hu n _))) (keeps_pure _)

/-- A kernel with no tile opened closes none. -/
theorem closeKernelTiles_idle {k : Kernel} (hKern : (s.ctx c).kern = some k) (hOpened : k.opened = [])
    (hTiles : s.openTiles (512 + c) [] = []) (success : Bool) : (closeKernelTiles c success).Does s fun _ t =>
    t = s.upd (.ctx c (s.ctx c)) := by
  refine Act.Does.get_bind ?_
  simp only [hKern, hOpened]
  refine Act.Does.bind (Q := fun _ t => t = s) (Act.Does.get_bind ((Act.Does.emptyLoop (by rw [hTiles]; rfl)).mono fun _ _ h => h.2)) ?_
  rintro _ t rfl
  refine Act.Does.bind (Act.Does.emptyLoop (f := _) rfl) ?_
  rintro _ t ⟨_, rfl⟩
  refine Act.Does.get_bind (Act.Does.make ?_)
  have hSame : { k with opened := [] } = k := by rw [← hOpened]
  simp only [hKern, Option.map_some, hSame]
  rw [← hKern]

/-- A completion is written or held: the ring's records are one more. -/
theorem complete_counts (r : CRec) (hQuiet : s.quiet = true) (hState : (s.ctx c).st ≠ .free) (hHome : s.home c = none) :
    (complete c r).Does s fun _ t => (s.SameBut completeFields t ∧ t.quiet = true) ∧ ∃ ring, t.ctx c = { s.ctx c with ring } ∧
      ring.wr + ring.held.length = (s.ctx c).ring.wr + (s.ctx c).ring.held.length + 1 := by
  refine (((writes_complete c r (List.Subset.refl _) s).and (staysQuiet_complete c r s hQuiet)).and (Act.Does.get_bind ?_)).does
  simp only [hHome]
  refine Act.Does.ite (fun hFree => absurd hFree (by simp [hState])) fun _ => Act.Does.ite (fun _ => ?_) fun hRoom => ?_
  · exact Act.Does.get_bind (Act.Does.make ⟨_, State.ctx_upd_ctx _ _ _, by simp only [List.length_append, List.length_singleton]; omega⟩)
  · have hWritten (t : State) (ht : t.ctx c = s.ctx c) : (Act.modCtx c fun x => { x with ring := { x.ring with wr := x.ring.wr + 1 } }).Does t
        fun _ u => ∃ ring, u.ctx c = { s.ctx c with ring } ∧
          ring.wr + ring.held.length = (s.ctx c).ring.wr + (s.ctx c).ring.held.length + 1 :=
      Act.Does.get_bind (Act.Does.make ⟨{ (s.ctx c).ring with wr := (s.ctx c).ring.wr + 1 }, by rw [State.ctx_upd_ctx, ht], by simp only; omega⟩)
    refine Act.Does.get_bind ?_
    dsimp only
    split
    · exact ((writes_writePhys _ _ (l := storeFields) (by decide) (by decide) (by decide)).does s).bind fun _ t ht => hWritten t (by
        simp only [State.ctx, show t.ctxs = s.ctxs from ht .ctxs (by decide)])
    · exact Act.Does.pure_bind (hWritten s rfl)

/-- The current job ends with one record: it leaves its context. -/
theorem endJob_record {j : Job} {rest : List Job} (code block addr idx : Nat) (hQuiet : s.quiet = true) (hJobs : (s.ctx c).jobs = j :: rest)
    (hState : (s.ctx c).st ≠ .free) (hMasks : s.casc.masks = []) (hOptimiser : j.optimiser = none) (hPair : j.pair = none) :
    (endJob c code block addr idx).Does s fun _ t => (s.SameBut completeFields t ∧ t.quiet = true) ∧ (t.ctx c).jobs = rest ∧ (t.ctx c).nextKern = 0 ∧
      (t.ctx c).kern = (s.ctx c).kern ∧ (t.ctx c).st = (s.ctx c).st ∧
      (t.ctx c).ring.wr + (t.ctx c).ring.held.length = (s.ctx c).ring.wr + (s.ctx c).ring.held.length + 1 := by
  refine Act.Does.get_bind ?_
  simp only [hJobs, hOptimiser, hPair]
  refine Act.Does.modCtx_bind ?_
  generalize hu : s.upd (.ctx c _) = u
  have hSame : s.SameBut completeFields u := hu ▸ (State.SameBut.refl _ s).upd (by simp [Upd.fields, completeFields])
  have hModules : u.modules c = 0 := by
    rw [State.modules, show u.casc = s.casc from hSame .casc (by decide), hMasks]
    rfl
  have hHome : u.home c = none := by
    simp only [State.home, show u.casc = s.casc from hSame .casc (by decide), hMasks]
    exact if_neg (show ¬ 2 ≤ ((List.range 4).filter (flag (0 : BitVec 4))).length by decide)
  have hCtx : u.ctx c = { s.ctx c with
      jobs := (s.ctx c).jobs.tail, nextKern := 0, started := false, restarts := 0, jobCycles := 0, jobRan := 0
      jobEngines := 0, jobParks := 0, jobHeels := 0, jobRetried := false, jobOkDl := false, bargeFault := none } := by
    rw [← hu, State.ctx_upd_ctx]
  have hQuiet' : u.quiet = true := hu ▸ State.quiet_upd_ctx hQuiet (s.not_settles_of_quiet hQuiet c)
  clear hu
  refine Act.Does.bind (Q := fun _ v => v = u) (Act.Does.get_bind (Act.Does.ite (fun hAway => absurd hModules hAway) fun _ =>
    Act.Does.pure rfl)) ?_
  rintro _ v rfl
  refine Act.Does.ite (fun hSome => absurd hSome (by simp)) fun _ => ?_
  refine (complete_counts _ hQuiet' (by rw [hCtx]; exact hState) hHome).mono fun _ t ht => ?_
  obtain ⟨⟨hSame', hStays⟩, ring, hCtx', hCount⟩ := ht
  rw [hCtx] at hCtx' hCount
  rw [hCtx']
  exact ⟨⟨hSame.trans hSame', hStays⟩, by rw [hJobs]; rfl, rfl, rfl, rfl, hCount⟩

/-- What the end of a kernel without failure leaves of its context and its engines: the next kernel, or the next job. -/
structure State.KernelEnded (s : State) (c : Nat) (es : List Nat) (j : Job) (rest : List Job) (t : State) : Prop where
  kern : (t.ctx c).kern = none
  st : (t.ctx c).st = .ready
  released : ∀ f ∈ es, (t.engine f).released
  next : (s.ctx c).nextKern + 1 < j.nkern → (t.ctx c).jobs = j :: rest ∧ (t.ctx c).nextKern = (s.ctx c).nextKern + 1 ∧
    (t.ctx c).ring = (s.ctx c).ring ∧ t.mem = s.mem
  last : j.nkern ≤ (s.ctx c).nextKern + 1 → (t.ctx c).jobs = rest ∧ (t.ctx c).nextKern = 0 ∧
    (t.ctx c).ring.wr + (t.ctx c).ring.held.length = (s.ctx c).ring.wr + (s.ctx c).ring.held.length + 1

/-- After its kernel a job goes on, or ends with its record. -/
theorem goOn_does {j : Job} {rest : List Job} {x : Context} (h : s.Ended c es t)
    (hMasks : s.casc.masks = []) (hOptimiser : j.optimiser = none) (hPair : j.pair = none)
    (hx : x.kern = none ∧ x.st = .ready ∧ x.jobs = j :: rest ∧ x.nextKern = (s.ctx c).nextKern + 1 ∧ x.ring = (s.ctx c).ring) (code : Nat) :
    (if j.nkern ≤ x.nextKern then endJob c code Block.col 0 0 else nothing : Act Unit).Does (t.upd (.ctx c x)) fun _ u =>
      s.KernelEnded c es j rest u ∧ u.quiet = true := by
  obtain ⟨hKern, hReady, hJobsX, hNext, hRing⟩ := hx
  have hQuiet : (t.upd (.ctx c x)).quiet = true := State.quiet_upd_ctx h.1.quiet (by rw [hKern]; rfl)
  have hSame : s.SameBut endFields (t.upd (.ctx c x)) := h.1.same.upd (by simp [Upd.fields, endFields])
  rw [hNext]
  refine Act.Does.ite (fun hLast => ?_) fun hMore => Act.Does.pure ⟨⟨?_, ?_, h.2, fun _ => ?_, fun hLast => absurd hLast hMore⟩, hQuiet⟩
  · have hRecord := endJob_record (s := t.upd (.ctx c x)) (c := c) code Block.col 0 0 hQuiet (by rw [State.ctx_upd_ctx, hJobsX])
      (by rw [State.ctx_upd_ctx, hReady]; decide) (by rw [show (t.upd (.ctx c x)).casc = s.casc from hSame .casc (by decide), hMasks])
      hOptimiser hPair
    refine hRecord.mono fun _ u hu => ?_
    obtain ⟨⟨hSameU, hQuietU⟩, hJobsU, hNextU, hKernU, hStU, hCount⟩ := hu
    simp only [State.ctx_upd_ctx, hKern, hReady, hRing] at hKernU hStU hCount
    refine ⟨⟨hKernU, hStU, fun f hf => ?_, fun hMore => absurd hLast (by omega), fun _ => ⟨hJobsU, hNextU, hCount⟩⟩, hQuietU⟩
    simpa only [State.engine, show u.engines = t.engines from hSameU .engines (by decide)] using h.2 f hf
  · rw [State.ctx_upd_ctx, hKern]
  · rw [State.ctx_upd_ctx, hReady]
  · rw [State.ctx_upd_ctx]
    exact ⟨hJobsX, hNext, hRing, hSame .mem (by decide)⟩

/-- What a kernel whose END bundle has no ADD, and that has nothing to close, asks of the device to end so. -/
structure State.EndsPlainly (s : State) (c : Nat) (k : Kernel) (j : Job) (rest : List Job) : Prop where
  jobs : (s.ctx c).jobs = j :: rest
  opened : k.opened = []
  tiles : s.openTiles (512 + c) [] = []
  pins : k.pins = []
  krec : j.krec = false
  optimiser : j.optimiser = none
  pair : j.pair = none
  masks : s.casc.masks = []

theorem openTiles_of_xlat (h : t.xlat = s.xlat) (slot : Nat) (listed : List Nat) : t.openTiles slot listed = s.openTiles slot listed := by
  simp only [State.openTiles, State.tagAt, h]
  rfl

/-- A kernel completes without failure. -/
theorem kernelOk_does {k : Kernel} {j : Job} {rest : List Job} (hPlain : s.EndsPlainly c k j rest) (h : s.Ending c k.engines t)
    (hKern : (t.ctx c).kern = some k) (hOn : ∀ f ∈ k.engines, (t.engine f).ctx = some c) :
    (kernelOk c).Does t fun _ u => s.KernelEnded c k.engines j rest u ∧ u.quiet = true := by
  obtain ⟨hJobs, hOpened, hTiles, hPins, hKrec, hOptimiser, hPair, hMasks⟩ := hPlain
  have hJobsT : (t.ctx c).jobs = j :: rest := h.job.2.2.1.trans hJobs
  have hTilesT : t.openTiles (512 + c) [] = [] := by
    exact (openTiles_of_xlat (h.same .xlat (by decide)) _ _).trans hTiles
  refine Act.Does.get_bind ?_
  simp only [hKern, hJobsT, List.head?_cons]
  refine (closeKernelTiles_idle hKern hOpened hTilesT true).bind ?_
  rintro _ _ rfl
  have hEnding : s.Ending c k.engines (t.upd (.ctx c (t.ctx c))) :=
    h.upd_ctx ⟨rfl, rfl, rfl, rfl, rfl⟩ (t.not_settles_of_quiet h.quiet c)
  have hCtx : (t.upd (.ctx c (t.ctx c))).ctx c = t.ctx c := State.ctx_upd_ctx _ _ _
  have hOnU : ∀ f ∈ k.engines, ((t.upd (.ctx c (t.ctx c))).engine f).ctx = some c := hOn
  generalize t.upd (.ctx c (t.ctx c)) = u at hEnding hCtx hOnU ⊢
  refine Act.Does.bind (Q := fun _ v => v = u) (Act.Does.get_bind ?_) ?_
  · simp only [hCtx, hJobsT, List.head?_cons]
    exact Act.Does.ite (fun hAsked => absurd hAsked (by simp [hKrec])) fun _ => Act.Does.pure rfl
  rintro _ u rfl
  refine (stopKernel_does hEnding (by rw [hCtx, hKern]) fun f hf => ⟨hf, hOnU f hf⟩).bind fun _ v hv => ?_
  refine (orphanBarges_does hv.1 hv.2).bind fun _ v hv => ?_
  obtain ⟨hEnded, hNone⟩ := hv
  refine Act.Does.bind (Act.Does.emptyLoop (f := _) (by rw [hPins]; rfl)) ?_
  rintro _ v ⟨_, rfl⟩
  refine Act.Does.modCtx_bind (Act.Does.get_bind ?_)
  obtain ⟨_, _, hJobsV, hNextV, hRingV⟩ := hEnded.1.job
  have hGo := fun code => goOn_does (j := j) (rest := rest) (x := { v.ctx c with
    st := .ready, nextKern := (v.ctx c).nextKern + 1, jobOkDl := (v.ctx c).jobOkDl || k.okAtDeadline }) hEnded hMasks hOptimiser hPair
    ⟨hNone, rfl, hJobsV.trans hJobs, congrArg (· + 1) hNextV, hRingV⟩ code
  simp only [State.ctx_upd_ctx]
  exact hGo _

/-! ## The end of a kernel's program -/

/-- Only the figures of engines and registers have moved: every engine keeps its context, its mode and what is due. -/
structure State.Settling (s t : State) : Prop where
  same : s.SameBut [.engines, .regs] t
  core : ∀ f, (t.engine f).ctx = (s.engine f).ctx ∧ (t.engine f).mode = (s.engine f).mode ∧ (t.engine f).landings = (s.engine f).landings

theorem settling_modEngine {e : Nat} {f : Engine → Engine} (hf : ∀ x, (f x).ctx = x.ctx ∧ (f x).mode = x.mode ∧ (f x).landings = x.landings) :
    (Act.modEngine e f).Keeps s.Settling := fun t ht => Act.Does.get_bind (Act.Does.make ⟨ht.same.upd (by simp [Upd.fields]), fun g => by
  by_cases hSame : g = e
  · rw [hSame, State.engine_upd_engine]
    obtain ⟨hCtx, hMode, hLandings⟩ := hf (t.engine e)
    obtain ⟨hCtx', hMode', hLandings'⟩ := ht.core e
    exact ⟨hCtx.trans hCtx', hMode.trans hMode', hLandings.trans hLandings'⟩
  · rw [State.engine_upd_engine_other _ hSame]
    exact ht.core g⟩)

theorem settling_regField (r : Reg) (i hi lo v : Nat) : (Act.regField r i hi lo v).Keeps s.Settling := fun t ht =>
  ((writes_regField r i hi lo v (l := [.regs]) (by simp)).does t).mono fun _ u hu => ⟨ht.same.trans (hu.mono (by simp)), fun f => by
    simpa only [State.engine, show u.engines = t.engines from hu .engines (by decide)] using ht.core f⟩

theorem settling_noteJoin (e : Nat) (yield : Bool) : (noteJoin e yield).Keeps s.Settling := by
  have hClear := settling_modEngine (s := s) (e := e) (f := fun x => { x with sinceJoin := 0 }) fun _ => ⟨rfl, rfl, rfl⟩
  have hYield (v : Nat) := keeps_ite (b := yield = true) (keeps_bind (settling_regField .engYield e 31 16 v) fun _ => hClear) hClear
  exact keeps_get_bind fun t => keeps_ite (keeps_bind (settling_regField _ _ _ _ _) fun _ => hYield _) (hYield _)

/-- Nothing lands where nothing is due. -/
theorem settling_landAll {e : Nat} (hNone : (s.engine e).landings = []) : (landAll e).Keeps s.Settling := by
  refine keeps_bind (settling_modEngine fun _ => ⟨rfl, rfl, rfl⟩) fun _ => keeps_bind (fun t ht => ?_) fun _ =>
    settling_modEngine fun _ => ⟨rfl, rfl, rfl⟩
  exact Act.Does.get_bind (Act.Does.ite (fun hDue => absurd hDue (by simp [ht.core e, hNone])) fun _ => Act.Does.pure ht)

/-- KERNEL_COMPLETE of a kernel without ADD, pair, tiles or kernel record. -/
theorem kernelComplete_does {k : Kernel} {j : Job} {rest : List Job} {e : Nat} {cw : CW} {ws : List EW} (hPlain : s.EndsPlainly c k j rest)
    (hCalm : s.calm = true) (hKern : (s.ctx c).kern = some k) (hMay : s.mayComplete k = true) (hPair : (s.ctx c).desc.paired = false)
    (hHead : k.engines.head? = some e) (hBundle : s.bundleAt k (s.engine e).pc = some (cw, ws)) (hOp : cw.lockOp ≠ 2)
    (hEngines : ∀ f ∈ k.engines, (s.engine f).landings = [] ∧ (s.engine f).ctx = some c ∧ (s.engine f).mode ≠ .retired) :
    s.does (.kernelComplete c) (s.KernelEnded c k.engines j rest) := by
  obtain ⟨hOnTime, hQuiet⟩ := State.calm_iff.mp hCalm
  refine State.does_of rfl (settled_does hOnTime (Act.Does.get_bind ?_))
  simp only [hKern]
  refine Act.Does.ite (fun _ => ?_) fun hNot => absurd hMay hNot
  simp only [hPair, Bool.false_and, Bool.false_eq_true, if_false]
  refine Act.Does.get_bind ?_
  simp only [hKern, hHead, Option.bind_some, hBundle]
  refine Act.Does.bind (keeps_forIn_mem (P := s.Settling) k.engines PUnit.unit (fun f hf _ => keeps_bind (settling_landAll (hEngines f hf).1)
    fun _ => keeps_bind (settling_noteJoin f false) fun _ => keeps_pure _) s ⟨.refl _ s, fun _ => ⟨rfl, rfl, rfl⟩⟩) fun _ t ht => ?_
  refine Act.Does.ite (fun hAdd => absurd hAdd (by simp [hOp])) fun _ => ?_
  have hCtxs : t.ctxs = s.ctxs := ht.same .ctxs (by decide)
  have hCtx : t.ctx c = s.ctx c := by simp only [State.ctx, hCtxs]
  have hTiles : t.openTiles (512 + c) [] = [] := by
    exact (openTiles_of_xlat (ht.same .xlat (by decide)) _ _).trans hPlain.tiles
  have hQuietT : t.quiet = true := (State.quiet_of_sameBut ht.same (by decide)).trans hQuiet
  have hEnding : s.Ending c k.engines t := ⟨ht.same.mono (by simp [endFields]), by rw [hCtx]; exact ⟨rfl, rfl, rfl, rfl, rfl⟩,
    fun f hf => (ht.core f).2.1 ▸ (hEngines f hf).2.2, hQuietT⟩
  refine (closeKernelTiles_idle (hCtx ▸ hKern) hPlain.opened hTiles true).bind ?_
  rintro _ _ rfl
  refine Act.Does.ite (fun hAdd => absurd hAdd hOp) fun _ => ?_
  refine kernelOk_does hPlain (hEnding.upd_ctx ⟨rfl, rfl, rfl, rfl, rfl⟩ (t.not_settles_of_quiet hQuietT c)) ?_ fun f hf => ?_
  · rw [State.ctx_upd_ctx, hCtx, hKern]
  · exact (ht.core f).1.trans (hEngines f hf).2.1

end Sys2Proof.Machine

/-!
PROOF. The Collie dispatches the next kernel of a job (R172, R176, R177), and a kernel ends (R81, R95, R173).
-/
namespace Sys2Proof.Machine

variable {s t u : State} {c e n : Nat} {es : List Nat} {α β : Type} {l : List Fld}

/-! ## Who is ready -/

/-- The one context that may dispatch is the one that is ready. -/
theorem readyContexts_loop (hNone : (s.ctx c).kern = none) (hPair : s.pairReady c = true) (l : List (Nat × Context)) (out : List Nat)
    (hl : ∀ e ∈ l, e.2 = s.ctx e.1 ∧ (e.2.mayDispatch = true ↔ e.1 = c)) (hKeys : (l.map (·.1)).Nodup) :
    (forIn l out (fun e out => match e with
      | (d, x) => if (x.mayDispatch && s.pairReady d) = true then do
          let resident ← match x.kern with
            | some k => if k.phase = .heeled then parksResident d k else pure true
            | none => pure true
          if resident = true then pure (ForInStep.yield (s.insertReady d out)) else pure (ForInStep.yield out)
        else pure (ForInStep.yield out)) : Act (List Nat)).Does s fun r t =>
      r = (if c ∈ l.map (·.1) then s.insertReady c out else out) ∧ t = s := by
  induction l generalizing out with
  | nil => exact Act.Does.pure ⟨by simp, rfl⟩
  | cons e l ih =>
    obtain ⟨d, x⟩ := e
    obtain ⟨hOut, hRest⟩ := List.nodup_cons.mp hKeys
    obtain ⟨hCtx, hMay⟩ := hl _ List.mem_cons_self
    have ih (out : List Nat) := ih out (fun e he => hl e (List.mem_cons_of_mem _ he)) hRest
    simp only at hCtx hMay hOut
    subst hCtx
    rw [List.forIn_cons]
    by_cases hd : d = c
    · subst hd
      refine Act.Does.bind (Q := fun r t => r = .yield (s.insertReady d out) ∧ t = s) ?_ ?_
      · simp only [hMay.mpr rfl, hPair, hNone, Bool.and_self, if_true]
        exact Act.Does.pure_bind (Act.Does.pure ⟨rfl, rfl⟩)
      · rintro _ t ⟨rfl, rfl⟩
        refine (ih _).mono fun r t h => ?_
        rw [h.1, if_neg hOut]
        exact ⟨by simp, h.2⟩
    · refine Act.Does.bind (Q := fun r t => r = .yield out ∧ t = s) ?_ ?_
      · simp only [Bool.and_eq_true, hMay, hd, false_and, if_false]
        exact Act.Does.pure ⟨rfl, rfl⟩
      · rintro _ t ⟨rfl, rfl⟩
        refine (ih _).mono fun r t h => ?_
        rw [h.1]
        exact ⟨by simp only [List.map_cons, List.mem_cons, Ne.symm hd, false_or], h.2⟩

theorem readyContexts_does (hMay : ∀ e ∈ s.ctxs, e.2.mayDispatch = true ↔ e.1 = c) (hFound : (s.ctxs.find c).isSome = true)
    (hCtxs : s.ctxs.rising = true) (hNone : (s.ctx c).kern = none) (hStarted : (s.ctx c).started = true) :
    readyContexts.Does s fun r t => r = [c] ∧ t = s := by
  obtain ⟨x, hx⟩ := Option.isSome_iff_exists.mp hFound
  have hIn : c ∈ s.ctxs.map (·.1) := List.mem_map.mpr ⟨_, Sparse.mem_of_find hx, rfl⟩
  have hPair : s.pairReady c = true := by simp [State.pairReady, Context.inJob, hStarted]
  have hLoop := readyContexts_loop hNone hPair s.ctxs [] (fun e he => ⟨by
    simp [State.ctx, Sparse.at, Sparse.find_of_mem hCtxs he], hMay e he⟩) (Sparse.keys_nodup hCtxs)
  refine Act.Does.get_bind (hLoop.bind fun r t h => ?_)
  rw [if_pos hIn] at h
  exact Act.Does.pure h

/-! ## The engines taken -/

/-- A loop over engines that gives each a property, and takes it from none. -/
theorem engines_forIn {P : Engine → Prop} {f : Nat × Nat → PUnit → Act (ForInStep PUnit)}
    (hf : ∀ p t, (f p ⟨⟩).Does t fun r u => r = .yield ⟨⟩ ∧ P (u.engine p.1) ∧ ∀ g, P (t.engine g) → P (u.engine g)) :
    ∀ (l : List (Nat × Nat)) (t : State), (forIn l PUnit.unit f : Act PUnit).Does t fun _ u =>
      ∀ g, g ∈ l.map (·.1) ∨ P (t.engine g) → P (u.engine g)
  | [], _ => Act.Does.pure fun g hg => hg.resolve_left (by simp)
  | p :: l, t => by
    refine Act.Does.forIn_cons (P := fun u => P (u.engine p.1) ∧ ∀ g, P (t.engine g) → P (u.engine g)) ?_ fun u hu => ?_
    · exact (hf p t).mono fun _ _ h => h
    · refine (engines_forIn hf l u).mono fun _ v hv g hg => hv g ?_
      rcases hg with hIn | hHad
      · rcases List.mem_cons.mp hIn with rfl | hIn
        · exact .inr hu.1
        · exact .inl hIn
      · exact .inr (hu.2 g hHad)

theorem modEngine_gives {P : Engine → Prop} {f : Engine → Engine} (hf : ∀ x, P (f x)) : (Act.modEngine e f).Does t fun _ u =>
    P (u.engine e) ∧ ∀ g, P (t.engine g) → P (u.engine g) := by
  refine Act.Does.get_bind (Act.Does.make ⟨by rw [State.engine_upd_engine]; exact hf _, fun g hg => ?_⟩)
  by_cases hSame : g = e
  · rw [hSame, State.engine_upd_engine]
    exact hf _
  · rwa [State.engine_upd_engine_other _ hSame]

/-- Every engine of `es` has the property. -/
def State.eachEngine (P : Engine → Prop) (es : List Nat) (s : State) : Prop := ∀ f ∈ es, P (s.engine f)

theorem eachEngine_modEngine {P : Engine → Prop} {f : Engine → Engine} (hf : ∀ x, P x → P (f x)) :
    (Act.modEngine e f).Keeps (State.eachEngine P es) := fun t ht => Act.Does.get_bind (Act.Does.make fun g hg => by
  by_cases hSame : g = e
  · rw [hSame, State.engine_upd_engine]
    exact hf _ (ht e (hSame ▸ hg))
  · rw [State.engine_upd_engine_other _ hSame]
    exact ht g hg)

theorem engine_of_writes {x : Act α} (h : x.Writes l) (hl : Fld.engines ∉ l) (s : State) : x.Does s fun _ t => ∀ f, t.engine f = s.engine f :=
  (h.does s).mono fun _ t ht f => by simp only [State.engine, show t.engines = s.engines from ht .engines hl]

theorem eachEngine_of_writes {P : Engine → Prop} {x : Act α} (h : x.Writes l) (hl : Fld.engines ∉ l) : x.Keeps (State.eachEngine P es) :=
  fun t ht => (engine_of_writes h hl t).mono fun _ u hu f hf => by rw [hu f]; exact ht f hf

/-- The engine issues for context `c`. -/
def Engine.issuesFor (c : Nat) (x : Engine) : Prop := x.ctx = some c ∧ x.mode = .issuing

theorem writes_takeEngines (prog : Nat) : (takeEngines c prog es).Writes [.claims, .regs, .engines] := by
  refine writes_get_bind fun s => writes_make_bind (by simp) (writes_bind (writes_forIn (fun p _ => ?_) _ _) fun _ => writes_pure _)
  obtain ⟨e, j⟩ := p
  exact writes_bind (writes_setBit3 _ _ _ (by simp)) fun _ => writes_bind (writes_modEngine _ _ (by simp)) fun _ =>
    writes_bind (by simp) fun _ => writes_bind (by simp) fun _ => writes_pure _

theorem takeEngines_does (prog : Nat) : (takeEngines c prog es).Does s fun _ t => t.eachEngine (Engine.issuesFor c) es := by
  refine Act.Does.get_bind (Act.Does.make_bind ((engines_forIn (P := Engine.issuesFor c) (fun p t => ?_) es.zipIdx _).bind
    fun _ u hu => Act.Does.pure fun f hf => hu f (.inl ?_)))
  · obtain ⟨e, j⟩ := p
    refine (engine_of_writes (writes_setBit3 .pwrDom (2 + e) true (l := [.regs]) (by simp)) (by decide) t).bind fun _ u hu => ?_
    have hIssues : ∀ x : Engine, Engine.issuesFor c { x.resident { prog, span := es.length, logical := j } with
        ctx := some c, mode := .issuing } := fun _ => ⟨rfl, rfl⟩
    refine (modEngine_gives hIssues).bind fun _ v hv => ?_
    refine (engine_of_writes (writes_reg .engReloc e (relocWord es j) (l := [.regs]) (by simp)) (by decide) v).bind fun _ w hw => ?_
    refine (engine_of_writes (writes_regField .engYield e 31 16 0 (l := [.regs]) (by simp)) (by decide) w).bind fun _ x hx => ?_
    exact Act.Does.pure ⟨rfl, by rw [hx, hw]; exact hv.1, fun g hg => by rw [hx, hw]; exact hv.2 g (by rwa [hu])⟩
  · rw [List.zipIdx_map_fst]
    exact hf

/-! ## A kernel begins -/

/-- A kernel of context `c` has begun on engines `es`, and nothing is left to settle. -/
structure State.Begun (c prog : Nat) (es : List Nat) (t : State) : Prop where
  st : (t.ctx c).st = .running
  kern : ∃ k, (t.ctx c).kern = some k ∧ k.prog = prog ∧ k.span = es.length ∧ k.engines = es ∧ k.phase = .running ∧ k.wait = none
  quiet : t.quiet = true

variable {prog : Nat}

theorem movesOnly_nextProgram : (nextProgram c).MovesOnly := by
  refine movesOnly_get_bind fun s => ?_
  dsimp only
  split
  · exact movesOnly_pure _
  · split
    · exact movesOnly_pure _
    · refine movesOnly_bind (movesOnly_walkLeaf _ _) fun r => ?_
      split
      · exact movesOnly_get_bind fun _ => movesOnly_pure _
      · exact movesOnly_pure _

/-- The kernel expected next is only loaded into the idle half of the stores. -/
theorem Engine.expects_core (x : Engine) (l : Loaded) :
    (x.expects l).ctx = x.ctx ∧ (x.expects l).mode = x.mode ∧ (x.expects l).span = x.span := by
  unfold Engine.expects
  split
  · exact ⟨rfl, rfl, rfl⟩
  · split <;> exact ⟨rfl, rfl, rfl⟩

/-- The engine issues for context `c`, as one of `n`. -/
def Engine.issuesAs (c n : Nat) (x : Engine) : Prop := x.ctx = some c ∧ x.mode = .issuing ∧ x.span = n

/-- What the dispatch of a kernel leaves: the kernel has begun, and its engines issue. -/
def State.Dispatched (c prog : Nat) (es : List Nat) (t : State) : Prop :=
  t.Begun c prog es ∧ t.eachEngine (Engine.issuesAs c es.length) es

theorem dispatched_of_movesOnly {x : Act α} (h : x.MovesOnly) : x.Keeps (State.Dispatched c prog es) := fun t ht =>
  (h t).mono fun _ u hu => ⟨⟨(hu.ctx c).1.trans ht.1.st, by rw [(hu.ctx c).2]; exact ht.1.kern, hu.quiet ht.1.quiet⟩, fun f hf => by
    simpa only [State.engine, show u.engines = t.engines from hu.same .engines (by decide)] using ht.2 f hf⟩

theorem State.Begun.upd_engine (h : t.Begun c prog es) (e : Nat) (x : Engine) : (t.upd (.engine e x)).Begun c prog es :=
  ⟨h.st, h.kern, h.quiet⟩

theorem dispatched_modEngine (e : Nat) {f : Engine → Engine} (hf : ∀ x, (f x).ctx = x.ctx ∧ (f x).mode = x.mode ∧ (f x).span = x.span) :
    (Act.modEngine e f).Keeps (State.Dispatched c prog es) := fun t ht => Act.Does.get_bind (Act.Does.make ⟨ht.1.upd_engine e _, fun g hg => by
  obtain ⟨hCtx, hMode, hSpan⟩ := hf (t.engine g)
  obtain ⟨hCtx', hMode', hSpan'⟩ := ht.2 g hg
  by_cases hSame : g = e
  · rw [hSame, State.engine_upd_engine, ← hSame]
    exact ⟨hCtx.trans hCtx', hMode.trans hMode', hSpan.trans hSpan'⟩
  · rw [State.engine_upd_engine_other _ hSame]
    exact ht.2 g hg⟩)

theorem dispatched_loadNext (gs : List Nat) : (loadNext c gs).Keeps (State.Dispatched c prog es) := by
  refine keeps_bind (dispatched_of_movesOnly movesOnly_nextProgram) fun r => ?_
  split
  · exact keeps_nothing
  · refine keeps_get_bind fun s => ?_
    split
    · exact keeps_nothing
    · refine keeps_bind (keeps_forIn (fun p _ => ?_) _ _) fun _ => keeps_pure _
      obtain ⟨e, j⟩ := p
      exact keeps_ite (keeps_bind (dispatched_modEngine e fun x => x.expects_core _) fun _ => keeps_pure _) (keeps_pure _)

theorem writes_holdSpare (gs : List Nat) : (holdSpare c gs).Writes [.regs, .engines] :=
  writes_get_bind fun _ => writes_bind (writes_forIn (fun _ _ => writes_bind (writes_setBit3 _ _ _ (by simp)) fun _ =>
    writes_bind (writes_modEngine _ _ (by simp)) fun _ => writes_pure _) _ _) fun _ => writes_pure _

theorem eachEngine_holdSpare (gs : List Nat) : (holdSpare c gs).Keeps (State.eachEngine (Engine.issuesFor c) es) :=
  keeps_get_bind fun _ => keeps_bind (keeps_forIn (fun _ _ => keeps_bind
    (eachEngine_of_writes (writes_setBit3 _ _ _ (l := [.regs]) (by simp)) (by decide)) fun _ =>
      keeps_bind (eachEngine_modEngine fun _ hx => ⟨rfl, hx.2⟩) fun _ => keeps_pure _) _ _) fun _ => keeps_pure _

/-- The engines of a kernel take their places in it. -/
theorem placed_does {f : Nat × Nat → PUnit → Act (ForInStep PUnit)} (hBegun : u.Begun c prog es) (hIssues : u.eachEngine (Engine.issuesFor c) es)
    (hf : ∀ p, ∃ g : Engine → Engine, (∀ x, (g x).ctx = x.ctx ∧ (g x).mode = x.mode ∧ (g x).span = es.length) ∧
      f p ⟨⟩ = Act.modEngine p.1 g >>= fun _ => pure (.yield ⟨⟩)) :
    (forIn es.zipIdx PUnit.unit f : Act PUnit).Does u fun _ v => v.Dispatched c prog es := by
  have hWrites : (forIn es.zipIdx PUnit.unit f : Act PUnit).Writes [.engines] := writes_forIn (fun p _ => by
    obtain ⟨g, _, hBody⟩ := hf p
    rw [hBody]
    exact writes_bind (writes_modEngine _ _ (by simp)) fun _ => writes_pure _) _ _
  have hSpan := engines_forIn (P := fun x => x.span = es.length) (f := f) (fun p t => by
    obtain ⟨g, hg, hBody⟩ := hf p
    rw [hBody]
    exact Act.Does.yield (modEngine_gives (P := fun x => x.span = es.length) fun x => (hg x).2.2)) es.zipIdx u
  have hKept : (forIn es.zipIdx PUnit.unit f : Act PUnit).Keeps (State.eachEngine (Engine.issuesFor c) es) := keeps_forIn (fun p _ => by
    obtain ⟨g, hg, hBody⟩ := hf p
    rw [hBody]
    exact keeps_bind (eachEngine_modEngine fun x hx => ⟨(hg x).1.trans hx.1, (hg x).2.1.trans hx.2⟩) fun _ => keeps_pure _) _ _
  refine (((hWrites u).and hSpan).and (hKept u hIssues)).does.mono fun _ v hv => ?_
  obtain ⟨⟨hSame, hSpans⟩, hEach⟩ := hv
  have hCtxs : v.ctxs = u.ctxs := hSame .ctxs (by decide)
  have hCtx : v.ctx c = u.ctx c := by simp only [State.ctx, hCtxs]
  refine ⟨⟨hCtx ▸ hBegun.st, hCtx ▸ hBegun.kern, (State.quiet_of_sameBut hSame (by decide)).trans hBegun.quiet⟩, fun g hg =>
    ⟨(hEach g hg).1, (hEach g hg).2, hSpans g (.inl ?_)⟩⟩
  rw [List.zipIdx_map_fst]
  exact hg

/-- A kernel begins from its first bundle. -/
theorem startKernel_does (prog : Nat) (p : Program) (spare : List Nat) (hQuiet : s.quiet = true) (hNone : (s.ctx c).kern = none)
    (hHome : s.home c = none) : (startKernel c prog p es spare).Does s fun _ t => t.Dispatched c prog es := by
  refine Act.Does.bind (Q := fun _ t => t = s) (Act.Does.get_bind (Act.Does.ite (fun h => absurd h (by simp [hHome])) fun _ => Act.Does.pure rfl)) ?_
  rintro _ s rfl
  refine ((writes_takeEngines prog).and (takeEngines_does prog)).bind fun _ t ht => ?_
  refine ((writes_holdSpare spare).and (eachEngine_holdSpare spare t ht.2)).bind fun _ u hu => ?_
  have hSame := (ht.1.mono (m := [.claims, .regs, .engines]) (by simp)).trans (hu.1.mono (by simp))
  have hCtxs : u.ctxs = s.ctxs := hSame .ctxs (by decide)
  have hKern : (u.ctx c).kern = none := by simpa only [State.ctx, hCtxs] using hNone
  have hQuietU : u.quiet = true := (State.quiet_of_sameBut hSame (by decide)).trans hQuiet
  refine Act.Does.get_bind ?_
  simp only [hKern, Option.getD_none]
  refine Act.Does.modCtx_bind ?_
  have hBegan {x : Context} (hSt : x.st = .running) {k : Kernel} (hK : x.kern = some k) (hFields : k.prog = prog ∧ k.span = es.length ∧
      k.engines = es ∧ k.phase = .running ∧ k.wait = none) : (u.upd (.ctx c x)).Begun c prog es := by
    obtain ⟨hProg, hSpan, hEngines, hPhase, hWait⟩ := hFields
    refine ⟨by rw [State.ctx_upd_ctx, hSt], ⟨k, by rw [State.ctx_upd_ctx, hK], hProg, hSpan, hEngines, hPhase, hWait⟩,
      State.quiet_upd_ctx hQuietU ?_⟩
    simp [hK, Kernel.settles, hWait]
  refine Act.Does.bind (placed_does (hBegan rfl rfl ⟨rfl, rfl, rfl, rfl, rfl⟩) hu.2 fun p => ?_) fun _ v hv => dispatched_loadNext es v hv
  refine ⟨_, ?_, rfl⟩
  exact fun _ => ⟨rfl, rfl, rfl⟩

/-! ## Its entry in the kernel list -/

/-- A kernel of which the Collie can grant the engines of a variant is granted them. -/
theorem grantEngines_does {p : Program} (hMin : p.minSpan ≤ (s.available c false).length)
    (hSpan : p.spanFor (min (s.ctx c).desc.kspan (min p.maxSpan (s.available c false).length)) = some n) :
    (grantEngines c p).Does s fun r t => (∃ spare, r = some ((s.available c false).take n, spare)) ∧ t = s := by
  refine Act.Does.get_bind (Act.Does.ite (fun h => absurd h (by omega)) fun _ => Act.Does.pure ⟨?_, rfl⟩)
  rw [hSpan]
  exact ⟨_, rfl⟩

theorem snapshot_nil : (snapshot c []).Does s fun r t => r = some ([], []) ∧ t = s := by
  refine Act.Does.get_bind (Act.Does.bind (Q := fun r t => r = some [] ∧ t = s) (Act.Does.pure ⟨rfl, rfl⟩) ?_)
  rintro _ t ⟨rfl, rfl⟩
  exact Act.Does.bind (Q := fun _ u => u = t) (Act.Does.pure rfl) (by rintro _ _ rfl; exact Act.Does.pure ⟨rfl, rfl⟩)

theorem startAttempt_does (h : (s.ctx c).started = true) : (startAttempt c).Does s fun _ t => t = s :=
  Act.Does.get_bind (Act.Does.ite (fun hNot => absurd hNot (by simp [h])) fun _ => Act.Does.pure rfl)

/-- What the dispatch of a context's next kernel asks of the device: its entry can be read, and the engines can be granted. -/
structure State.CanBegin (s : State) (c : Nat) (j : Job) (b : List Byte) (p : Program) (n : Nat) : Prop where
  kern : (s.ctx c).kern = none
  optimiser : j.optimiser = none
  bargeFault : (s.ctx c).bargeFault = none
  started : (s.ctx c).started = true
  entry : s.sees 18 c (j.klist + (s.ctx c).nextKern * 16) 16 b
  good : (KEntry.ofBytes b).bad = false
  views : (KEntry.ofBytes b).views = []
  prog : s.program (KEntry.ofBytes b).prog = some p
  masks : s.casc.masks = []
  kspan : p.minSpan ≤ (s.ctx c).desc.kspan
  room : p.minSpan ≤ (s.available c false).length
  span : p.spanFor (min (s.ctx c).desc.kspan (min p.maxSpan (s.available c false).length)) = some n

theorem insertEngine_length (pages : List Nat) (a : Nat) (l : List Nat) : (s.insertEngine pages a l).length = l.length + 1 := by
  induction l with
  | nil => rfl
  | cons b l ih =>
    simp only [State.insertEngine]
    split <;> simp [ih]

theorem available_length_le (c : Nat) (restore : Bool) : (s.available c restore).length ≤ s.live.length := by
  have hFold (pages l : List Nat) : (l.foldr (s.insertEngine pages) []).length = l.length := by
    induction l with
    | nil => rfl
    | cons a l ih => rw [List.foldr_cons, insertEngine_length, ih, List.length_cons]
  exact (hFold _ _).trans_le (List.length_filter_le _ _)

theorem spanFor_le {p : Program} {m : Nat} (h : p.spanFor m = some n) : n ≤ m := by
  have hMem := List.max?_mem h
  simpa using (List.mem_filter.mp hMem).2

theorem dispatchNext_does {j : Job} {b : List Byte} {p : Program} (h : s.CanBegin c j b p n) (hQuiet : s.quiet = true) :
    (dispatchNext c j).Does s fun _ t => t.Dispatched c (KEntry.ofBytes b).prog ((s.available c false).take n) := by
  have hHome : s.home c = none := by simp [State.home, h.masks, Sparse.at, flag]
  refine Act.Does.get_bind ?_
  simp only [h.bargeFault, h.optimiser]
  refine (readVa_does h.entry).bind ?_
  rintro _ s ⟨rfl, rfl⟩
  refine Act.Does.get_bind ?_
  simp only [h.prog, h.good, Bool.false_or, decide_eq_true_eq]
  refine Act.Does.ite (fun hSmall => absurd h.kspan (by omega)) fun _ => Act.Does.ite (fun hFew => ?_) fun _ => ?_
  · have hLess := available_length_le (s := s) c false
    have hRoom := h.room
    omega
  refine (grantEngines_does h.room h.span).bind ?_
  rintro _ s ⟨⟨spare, rfl⟩, rfl⟩
  refine (startAttempt_does h.started).bind ?_
  rintro _ s rfl
  rw [h.views]
  refine snapshot_nil.bind ?_
  rintro _ s ⟨rfl, rfl⟩
  refine (startKernel_does _ p spare hQuiet h.kern hHome).bind fun _ t ht => ?_
  refine Act.Does.modCtx_bind (Act.Does.pure ?_)
  obtain ⟨k, hKern, hFields⟩ := ht.1.kern
  refine ⟨⟨?_, ⟨{ k with views := [], pins := [] }, ?_, hFields⟩, State.quiet_upd_ctx ht.1.quiet ?_⟩, ht.2⟩
  · rw [State.ctx_upd_ctx, ht.1.st]
  · rw [State.ctx_upd_ctx, hKern]
    rfl
  · simp [hKern, Kernel.settles, hFields]

/-- KERNEL_DISPATCH with one context ready. -/
theorem kernelDispatch_does {j : Job} {rest : List Job} {b : List Byte} {p : Program} (h : s.CanBegin c j b p n) (hCalm : s.calm = true)
    (hEnded : s.fabricEnded = false) (hDispatches : s.dispatches = true) (hClaims : s.claims = [])
    (hMay : ∀ e ∈ s.ctxs, e.2.mayDispatch = true ↔ e.1 = c) (hFound : (s.ctxs.find c).isSome = true) (hCtxs : s.ctxs.rising = true)
    (hJobs : (s.ctx c).jobs = j :: rest) :
    s.does .kernelDispatch (State.Dispatched c (KEntry.ofBytes b).prog ((s.available c false).take n)) := by
  obtain ⟨hOnTime, hQuiet⟩ := State.calm_iff.mp hCalm
  refine State.does_of rfl (settled_does hOnTime (Act.Does.get_bind (Act.Does.ite (fun _ => ?_) fun hNot => absurd hNot (by
    simp [hEnded, hDispatches]))))
  refine (readyContexts_does hMay hFound hCtxs h.kern h.started).bind ?_
  rintro _ s ⟨rfl, rfl⟩
  have hSame : s.upd (.claims (s.claims.filter fun x => [c].contains x.2)) = s := by
    rw [hClaims, List.filter_nil, ← hClaims]
    rfl
  refine Act.Does.make_bind ?_
  rw [hSame]
  have hTurn : (dispatchOf c).Does s fun _ t => t.Dispatched c (KEntry.ofBytes b).prog ((s.available c false).take n) := by
    refine Act.Does.get_bind ?_
    simp only [h.kern, hJobs, List.head?_cons]
    exact dispatchNext_does h hQuiet
  refine Act.Does.bind (Q := fun _ t => t.Dispatched c (KEntry.ofBytes b).prog ((s.available c false).take n)) ?_ fun _ t ht => Act.Does.pure ⟨ht, ht.1.quiet⟩
  rw [List.forIn_cons]
  refine Act.Does.bind (Q := fun r t => (∃ d, r = .yield d) ∧ t.Dispatched c (KEntry.ofBytes b).prog ((s.available c false).take n)) ?_ ?_
  · exact Act.Does.ite (fun _ => hTurn.bind fun d t ht => Act.Does.pure ⟨⟨d, rfl⟩, ht⟩) fun hDone => absurd rfl hDone
  · rintro _ t ⟨⟨d, rfl⟩, ht⟩
    exact Act.Does.pure ht

/-- Settles O20: the ready context's kernel entry is read and the engines of its variant are taken in order; a kernel that ends
releases its engines, and its job goes on or ends with one record. -/
theorem kernelsStartAndComplete : Obligations.KernelsStartAndComplete := by
  refine ⟨?_, ?_⟩
  · intro s c j rest b p n hCalm hEnded hDispatches hClaims hMay hFound hCanonical hNone hJobs hOptimiser hFault _ hStarted hEntry
      hGood hViews hProg hMasks hSpanned hRoom hSpan _
    have hCan : s.CanBegin c j b p n := ⟨hNone, hOptimiser, hFault, hStarted, hEntry, hGood, hViews, hProg, hMasks, hSpanned, hRoom, hSpan⟩
    have hLength : ((s.available c false).take n).length = n := by
      have hLe := spanFor_le hSpan
      rw [List.length_take]
      omega
    refine (kernelDispatch_does hCan hCalm hEnded hDispatches hClaims hMay hFound hCanonical.ctxs hJobs).mono fun t ht => ?_
    obtain ⟨⟨hSt, hKern, _⟩, hEach⟩ := ht
    rw [hLength] at hKern hEach
    exact ⟨hSt, hKern, hEach⟩
  · intro s c k j rest e cw ws hCalm hKern hJobs hMay hPair hHead _ hBundle hOp hEngines hPins hOpened hKrec hOptimiser hJobPair hMasks
      hTiles _
    have hPlain : s.EndsPlainly c k j rest := ⟨hJobs, hOpened, hTiles, hPins, hKrec, hOptimiser, hJobPair, hMasks⟩
    refine (kernelComplete_does hPlain hCalm hKern hMay hPair hHead hBundle hOp fun f hf => ?_).mono fun t ht => ?_
    · obtain ⟨hLandings, _, hCtx, hMode⟩ := hEngines f hf
      exact ⟨hLandings, hCtx, hMode⟩
    · exact ⟨ht.kern, ht.st, ht.released, ht.next, ht.last⟩

end Sys2Proof.Machine

/-!
PROOF. What the Weir checks by itself: the age of packets and the repeated PAUSE (R280, R281).
-/
namespace Sys2Proof.Machine

variable {s t u : State} {o : Nat}

/-! ## Time that is reached -/

theorem keeps_elapsed_wrapCounter (n : Nat) : wrapCounter.Keeps fun t => n ≤ t.clock.elapsed := by
  have hClock (t : State) (c : Clock) (ht : n ≤ t.clock.elapsed) : n ≤ (t.upd (.clock c)).clock.elapsed :=
    ht.trans (t.clock_elapsed_le_upd (.clock c))
  refine keeps_get_bind fun _ => keeps_ite (fun t ht => Act.Does.make (hClock t _ ht)) (keeps_ite (fun t ht => Act.Does.make (hClock t _ ht)) ?_)
  have hRecord : (do Act.regField .timeStat 0 2 2 1; let _ ← fault { code := Code.faultUnit, block := Block.time } : Act Unit).Writes
      [.regs, .faults, .sdio] := writes_bind (writes_regField _ _ _ _ _ (by decide)) fun _ =>
    writes_bind (writes_fault _ (by decide) (by decide) (by decide)) fun _ => writes_pure _
  refine fun t ht => (hRecord.does t).mono fun _ u hu => ?_
  have hClock : u.clock = t.clock := hu .clock (by decide)
  simpa only [hClock] using ht

theorem passUnits_elapsed (n : Nat) : (passUnits n).Does s fun _ t => s.clock.elapsed + n ≤ t.clock.elapsed := by
  refine Act.Does.get_bind (Act.Does.make_bind (Act.Does.ite (fun _ => Act.Does.make_bind ?_) fun _ => Act.Does.pure (Nat.le_refl _)))
  refine keeps_bind (keeps_forIn (fun _ _ => keeps_bind (keeps_elapsed_wrapCounter _) fun _ => keeps_pure _) _ _) (fun _ => keeps_pure _) _ ?_
  exact Nat.le_refl _

/-- The time `n` has come. -/
theorem reach_does (n : Nat) : (reach n).Does s fun _ t => s.SameBut timeFields t ∧
    (∀ o, o ∉ timeRegs → t.regs.find o = s.regs.find o) ∧ n ≤ t.ns ∧ (n * nsUnit ≤ s.clock.elapsed → t = s) := by
  have hNs {t : State} (h : n * nsUnit ≤ t.clock.elapsed) : n ≤ t.ns := (Nat.le_div_iff_mul_le (by decide)).mpr h
  refine Act.Does.get_bind (Act.Does.ite (fun hLess => ?_) fun hPast => Act.Does.pure ⟨.refl _ s, fun _ _ => rfl, hNs (Nat.not_lt.mp hPast), fun _ => rfl⟩)
  refine ((writes_passUnits _).keeping (p := fun o => o ∉ timeRegs) (fun o ho => keepsReg_passUnits _ ho) (passUnits_elapsed _)).mono
    fun _ t ht => ⟨ht.1, ht.2.1, hNs ?_, fun hPast => absurd hLess (Nat.not_lt.mpr hPast)⟩
  have hElapsed := ht.2.2
  omega

/-! ## What feeds a queue -/

/-- The registers that say what feeds the queues. -/
def sourceRegs : List Reg := [.csiRoute, .ethRuleLo, .ethRuleHi, .ethIng, .spiIng, .uartIng]

/-- Two states agree in what feeds the queues and in their flow control. -/
def State.sameFeeds (s t : State) : Prop :=
  (∀ r ∈ sourceRegs, ∀ i < 12, ∀ j < 8, t.rg r i j = s.rg r i j) ∧ ∀ q, t.rg .weirQFc q = s.rg .weirQFc q

theorem State.sameFeeds.sources (h : s.sameFeeds t) (q : Nat) : t.sources q = s.sources q := by
  have hRoute (r k : Nat) (hr : r ∈ List.range 12) (hk : k ∈ List.range 4) : t.rg .csiRoute r k = s.rg .csiRoute r k :=
    h.1 _ (by simp [sourceRegs]) r (List.mem_range.mp hr) k (by have := List.mem_range.mp hk; omega)
  have hIn {r : Reg} (hr : r ∈ sourceRegs) {n i : Nat} (hi : i ∈ List.range n) (hn : n ≤ 8) {j : Nat} (hj : j < 8) :
      t.rg r i j = s.rg r i j := h.1 r hr i (by have := List.mem_range.mp hi; omega) j hj
  simp only [State.sources]
  congr 1
  · congr 1
    · congr 1
      · refine List.flatMap_congr fun r hr => congrArg _ (List.filter_congr fun k hk => ?_)
        rw [hRoute r k hr hk]
      · refine List.flatMap_congr fun m hm => ?_
        congr 1
        · refine congrArg _ (List.filter_congr fun k hk => ?_)
          rw [hIn (by simp [sourceRegs]) hm (Nat.le_refl 8) (List.mem_range.mp hk), hIn (by simp [sourceRegs]) hm (Nat.le_refl 8) (List.mem_range.mp hk)]
        · simp only [State.rf, hIn (r := .ethIng) (by simp [sourceRegs]) hm (Nat.le_refl 8) (Nat.zero_lt_succ 7)]
          rfl
    · refine congrArg _ (List.filter_congr fun n hn => ?_)
      simp only [State.rf, hIn (r := .spiIng) (by simp [sourceRegs]) hn (by omega) (Nat.zero_lt_succ 7)]
      rfl
  · refine congrArg _ (List.filter_congr fun n hn => ?_)
    simp only [State.rf, hIn (r := .uartIng) (by simp [sourceRegs]) hn (by omega) (Nat.zero_lt_succ 7)]
    rfl

theorem State.sameFeeds.qSource (h : s.sameFeeds t) (q : Nat) : t.qSource q = s.qSource q := by
  rw [State.qSource, State.qSource, h.sources]

theorem State.sameFeeds.qAct (h : s.sameFeeds t) (q : Nat) : t.qAct q = s.qAct q := by
  simp only [State.qAct, State.rf, h.2 q, h.qSource]

/-- Neither time that passes nor a counted PAUSE changes what feeds the queues. -/
theorem sameFeeds_of_find {m : Nat} (hm : m < 8)
    (h : ∀ o, o ∉ timeRegs → o ≠ Reg.off .ethPause m 0 → t.regs.find o = s.regs.find o) : s.sameFeeds t := by
  refine ⟨fun r hr i hi j hj => State.rg_eq_of_find (h _ ?_ ?_), fun q => State.rg_eq_of_find (h _ ?_ ?_)⟩
  · simp only [sourceRegs, List.mem_cons, List.not_mem_nil, or_false] at hr
    rcases hr with rfl | rfl | rfl | rfl | rfl | rfl <;> simp only [timeRegs, recordRegs, Reg.off, Reg.row, List.mem_cons, List.not_mem_nil, or_false] <;> omega
  · simp only [sourceRegs, List.mem_cons, List.not_mem_nil, or_false] at hr
    rcases hr with rfl | rfl | rfl | rfl | rfl | rfl <;> simp only [Reg.off, Reg.row] <;> omega
  · simp only [timeRegs, recordRegs, Reg.off, Reg.row, List.mem_cons, List.not_mem_nil, or_false]
    omega
  · simp only [Reg.off, Reg.row]
    omega

/-! ## The repeated PAUSE -/

theorem State.SameBut.eq_release (h : s.SameBut releaseFields t) : t = { s with regs := t.regs, ports := t.ports } :=
  State.ext_fld fun f => by
    cases f with
    | regs => rfl
    | ports => rfl
    | _ => exact h _ (by decide)

/-- MAC `m` has sent the PAUSE of `n` queues since `s`. -/
structure State.Paused (s : State) (m n : Nat) (t : State) : Prop where
  same : s.SameBut releaseFields t
  regs : regsBut s t [Reg.off .ethPause m 0]
  count : t.rg .ethPause m = s.rg .ethPause m + Word.ofNat n
  sent : 0 < n → t.ports.pauseOut.at m 0 = 0xFFFF ∧ t.ports.pauseNs.at m 0 = s.ns

theorem sendPause_does {m q n : Nat} (hm : m < 8) (h : s.Paused m n t) (hSource : s.qSource q = some (0x10 + m)) (hAct : 2 ≤ s.qAct q) :
    (sendPause q 0xFFFF).Does t fun _ u => s.Paused m (n + 1) u := by
  have hFeeds : s.sameFeeds t := sameFeeds_of_find hm fun o _ ho => h.regs o (by simpa using ho)
  refine Act.Does.get_bind ?_
  simp only [hFeeds.qSource, hSource, hFeeds.qAct, Nat.add_sub_cancel_left]
  refine Act.Does.ite (fun _ => ?_) fun hNot => absurd hAct hNot
  refine Act.Does.count_bind (Act.Does.make ?_)
  refine ⟨(h.same.upd (by simp [Upd.fields, releaseFields])).upd (by simp [Upd.fields, releaseFields]), fun o ho => ?_, ?_, fun _ => ?_⟩
  · exact (State.find_upd_reg_other t _ (by simpa using ho)).trans (h.regs o ho)
  · refine (State.rg_upd_reg _ _ _ _ _).trans ?_
    rw [h.count]
    rw [BitVec.add_assoc]
    exact congrArg _ (BitVec.ofNat_add n 1).symm
  · have hNs : t.ns = s.ns := by simp only [State.ns, show t.clock = s.clock from h.same .clock (by decide)]
    exact ⟨Sparse.at_put_same _ _ _ _, (Sparse.at_put_same _ _ _ _).trans hNs⟩

theorem sendPauses_does {m : Nat} (hm : m < 8) : ∀ (qs : List Nat) (n : Nat) (t : State), s.Paused m n t →
    (∀ q ∈ qs, s.qSource q = some (0x10 + m) ∧ 2 ≤ s.qAct q) →
    (forIn qs PUnit.unit (fun q _ => do
      sendPause q 0xFFFF
      pure (ForInStep.yield PUnit.unit)) : Act PUnit).Does t fun _ u => s.Paused m (n + qs.length) u
  | [], _, _, h, _ => Act.Does.pure h
  | q :: qs, n, t, h, hq => by
    refine Act.Does.forIn_cons (P := fun u => s.Paused m (n + 1) u) (Act.Does.yield ?_) fun u hu => ?_
    · obtain ⟨hSource, hAct⟩ := hq q List.mem_cons_self
      exact sendPause_does hm h hSource hAct
    · have hRest := sendPauses_does hm qs (n + 1) u hu fun q hIn => hq q (List.mem_cons_of_mem _ hIn)
      rwa [Nat.add_right_comm, Nat.add_assoc] at hRest

/-- The queues whose PAUSE a MAC repeats. -/
def State.pausing (s : State) (m : Nat) : List Nat :=
  (List.range 64).filter fun q => s.qSource q = some (0x10 + m) && flag (s.rg .weirQStat q) 19 && 2 ≤ s.qAct q

/-- PAUSE_REPEAT: the time comes, and the PAUSE of each queue is sent. -/
theorem pauseRepeat_does (m : Fin 8) : s.does (.pauseRepeat m) fun t => ∃ u : State, s.SameBut timeFields u ∧
    (∀ o, o ∉ timeRegs → u.regs.find o = s.regs.find o) ∧ u.Paused m.val (s.pausing m.val).length t ∧
    (s.pausing m.val ≠ [] → s.ports.pauseNs.at m.val 0 + 10 ^ 6 ≤ u.ns) ∧
    ((s.ports.pauseNs.at m.val 0 + 10 ^ 6) * nsUnit ≤ s.clock.elapsed ∨ s.pausing m.val = [] → u = s) := by
  refine State.does_of rfl (Act.Does.get_bind ?_)
  have hSent (u : State) : u.Paused m.val 0 u := ⟨.refl _ u, fun _ _ => rfl, (BitVec.add_zero _).symm, fun h => absurd h (Nat.lt_irrefl 0)⟩
  refine Act.Does.ite (fun hSome => (reach_does _).bind fun _ u hu => ?_) fun hNone => Act.Does.pure ?_
  · obtain ⟨hSame, hRegs, hNs, hPast⟩ := hu
    have hFeeds : s.sameFeeds u := sameFeeds_of_find m.isLt fun o ho _ => hRegs o ho
    have hLoop := sendPauses_does m.isLt (s.pausing m.val) 0 u (hSent u) fun q hq => by
      rw [hFeeds.qSource, hFeeds.qAct]
      have hPauses := (List.mem_filter.mp hq).2
      simp only [Bool.and_eq_true, decide_eq_true_eq] at hPauses
      exact ⟨hPauses.1.1, hPauses.2⟩
    rw [Nat.zero_add] at hLoop
    exact hLoop.bind fun _ t ht => Act.Does.pure ⟨u, hSame, hRegs, ht, fun _ => hNs, fun h => hPast (h.resolve_right fun hNil =>
      absurd hSome (by simpa [State.pausing] using hNil))⟩
  · have hNil : s.pausing m.val = [] := by
      simpa [State.pausing] using hNone
    exact ⟨s, .refl _ s, fun _ _ => rfl, by rw [hNil]; exact hSent s, fun h => absurd hNil h, fun _ => rfl⟩

theorem pauseRepeat_states (m : Fin 8) :
    let n := (List.range 64).countP fun q =>
      decide (s.qSource q = some (0x10 + m.val)) && flag (s.rg .weirQStat q) 19 && decide (2 ≤ s.qAct q)
    s.does (.pauseRepeat m) fun t => t.mem = s.mem ∧ t.ctxs = s.ctxs ∧ t.locks = s.locks ∧
      t.rg .ethPause m.val = s.rg .ethPause m.val + Word.ofNat n ∧
      (0 < n → s.ports.pauseNs.at m.val 0 + 10 ^ 6 ≤ t.ns ∧ t.ports.pauseOut.at m.val 0 = 0xFFFF ∧
        t.ports.pauseNs.at m.val 0 = t.ns) ∧
      ((s.ports.pauseNs.at m.val 0 + 10 ^ 6) * nsUnit ≤ s.clock.elapsed ∨ n = 0 →
        t = { s with regs := t.regs, ports := t.ports } ∧ regsBut s t [Reg.off .ethPause m.val 0]) := by
  intro n
  have hn : n = (s.pausing m.val).length := List.countP_eq_length_filter
  clear_value n
  subst hn
  refine (pauseRepeat_does m).mono fun t ⟨u, hTime, hRegs, hPaused, hDue, hPast⟩ => ?_
  have hSame := (hTime.mono (m := timeFields ++ releaseFields) (by simp)).trans (hPaused.same.mono (by simp))
  have hCount : u.rg .ethPause m.val = s.rg .ethPause m.val := State.rg_eq_of_find (hRegs _ (by
    simp only [timeRegs, recordRegs, Reg.off, Reg.row, List.mem_cons, List.not_mem_nil, or_false]
    omega))
  have hNs : t.ns = u.ns := by simp only [State.ns, show t.clock = u.clock from hPaused.same .clock (by decide)]
  refine ⟨hSame .mem (by decide), hSame .ctxs (by decide), hSame .locks (by decide), hCount ▸ hPaused.count, fun hSome => ?_, fun h => ?_⟩
  · obtain ⟨hOut, hSentNs⟩ := hPaused.sent hSome
    exact ⟨hNs ▸ hDue (List.ne_nil_of_length_pos hSome), hOut, hNs ▸ hSentNs⟩
  · obtain rfl := hPast (h.imp_right List.eq_nil_of_length_eq_zero)
    exact ⟨hPaused.same.eq_release, hPaused.regs⟩

/-! ## The age of packets -/

/-- The oldest committed packet of the queue is 2^31 ns old. -/
def State.aged (s : State) (q : Nat) : Bool := match (s.queue q).packets with
  | p :: _ => decide (p.stamp + 2 ^ 31 ≤ s.fullTime)
  | [] => false

/-- The first `n` queues have been looked at. -/
structure State.AgeChecked (s : State) (n : Nat) (t : State) : Prop where
  same : s.SameBut [.regs] t
  regs : ∀ o, (∀ q, o ≠ Reg.off .weirQStat q 0) → t.regs.find o = s.regs.find o
  aged : ∀ q < n, s.qOn q = true → flag (t.rg .weirQStat q) 20 = s.aged q

theorem ageCheck_does {n : Nat} (h : s.AgeChecked n t) : (if t.qOn n then do
      Act.regField .weirQStat n 20 20 (b2n (t.aged n))
      pure (ForInStep.yield PUnit.unit)
    else pure (ForInStep.yield PUnit.unit) : Act (ForInStep PUnit)).Does t fun r u => ∃ d, r = .yield d ∧ s.AgeChecked (n + 1) u := by
  have hOn : t.qOn n = s.qOn n := by
    rw [State.qOn, State.rg_eq_of_find (h.regs _ fun q => by simp only [Reg.off, Reg.row]; omega)]
    rfl
  have hAged : t.aged n = s.aged n := by
    simp only [State.aged, State.queue, State.fullTime, State.nowHi, State.nowLo, show t.ports = s.ports from h.same .ports (by decide),
      show t.clock = s.clock from h.same .clock (by decide)]
    rfl
  refine Act.Does.ite (fun _ => ?_) fun hOff => Act.Does.pure ⟨_, rfl, h.same, h.regs, fun q hq hQ => ?_⟩
  · refine Act.Does.regField_bind (Act.Does.pure ⟨_, rfl, h.same.upd (by simp [Upd.fields]), fun o ho => ?_, fun q hq hQ => ?_⟩)
    · exact (State.find_upd_reg_other t _ (ho n)).trans (h.regs o ho)
    · by_cases hSame : q = n
      · rw [hSame, State.rg_upd_reg, flag_setField_same _ _ (by omega), hAged]
        cases s.aged n <;> rfl
      · rw [State.rg_upd_reg_other _ _ _ _ _ _ (by simp only [Reg.off, Reg.row]; omega)]
        exact h.aged q (by omega) hQ
  · by_cases hSame : q = n
    · exact absurd (hOn.trans (hSame ▸ hQ)) hOff
    · exact h.aged q (by omega) hQ

theorem agedCheck_does : s.does .agedCheck fun t => t = { s with regs := t.regs } ∧ ∀ q, q < 64 → t.qOcc q = s.qOcc q ∧
    (s.qOn q = true → (flag (t.rg .weirQStat q) 20 = true ↔
      ∃ p rest, (s.queue q).packets = p :: rest ∧ p.stamp + 2 ^ 31 ≤ s.fullTime)) := by
  refine State.does_of rfl (Act.Does.bind (Act.Does.forIn_range (I := fun n (_ : PUnit) t => s.AgeChecked n t)
    ⟨.refl _ s, fun _ _ => rfl, fun q hq => absurd hq (Nat.not_lt_zero q)⟩ fun n _ _ t ht => Act.Does.get_bind (ageCheck_does ht))
    fun _ t ht => Act.Does.pure ⟨ht.same.eq_regs, fun q hq => ⟨?_, fun hOn => ?_⟩⟩)
  · simp only [State.qOcc]
    rw [State.rg_eq_of_find (ht.regs _ fun n => by simp only [Reg.off, Reg.row]; omega),
      State.rg_eq_of_find (ht.regs _ fun n => by simp only [Reg.off, Reg.row]; omega)]
  · rw [ht.aged q hq hOn, State.aged]
    cases hPackets : (s.queue q).packets with
    | nil => simp
    | cons p rest => simp

end Sys2Proof.Machine

/-!
PROOF. QUEUE_ENABLE, and the end of a kernel whose WEIRR waited too long (R271, R284).
-/
namespace Sys2Proof.Machine

variable {s t u : State} {c q : Nat} {who : Who}

/-! ## A queue is enabled -/

/-- Registers of one index are set to zero. -/
theorem zeroRegs_does (q : Nat) : ∀ (l : List Reg) (t : State),
    (forIn l PUnit.unit (fun r _ => do
      Act.reg r q 0
      pure (ForInStep.yield PUnit.unit)) : Act PUnit).Does t fun _ u => t.SameBut [.regs] u ∧
        (∀ o, (∀ r ∈ l, o ≠ r.off q 0) → u.regs.find o = t.regs.find o) ∧ ∀ r, r ∈ l ∨ t.rg r q = 0 → u.rg r q = 0
  | [], t => Act.Does.pure ⟨.refl _ t, fun _ _ => rfl, fun r hr => hr.resolve_left List.not_mem_nil⟩
  | r :: l, t => by
    refine Act.Does.forIn_cons (P := fun u => u = t.upd (.reg (r.off q 0) 0)) (Act.Does.yield (Act.Does.make rfl)) ?_
    rintro _ rfl
    refine (zeroRegs_does q l _).mono fun _ u ⟨hSame, hOthers, hZero⟩ => ⟨((State.SameBut.refl _ t).upd (by simp [Upd.fields])).trans hSame, fun o ho => ?_, fun r' hr' => ?_⟩
    · rw [hOthers o fun r' hIn => ho r' (List.mem_cons_of_mem _ hIn), State.find_upd_reg_other _ _ (ho r List.mem_cons_self)]
    · refine hZero r' ?_
      by_cases hOff : r'.off q 0 = r.off q 0
      · refine .inr ((State.rg_eq_of_find (t := t.upd (.reg (r.off q 0) 0)) (s := t.upd (.reg (r'.off q 0) 0)) (by rw [hOff])).trans (t.rg_upd_reg _ _ _ _))
      · rw [t.rg_upd_reg_other _ _ _ _ _ hOff]
        exact hr'.imp_left fun hIn => (List.mem_cons.mp hIn).resolve_left fun hEq => hOff (by rw [hEq])

theorem flag_enabled (cfg : Word) : flag ((cfg ||| 1) &&& 0x1FFFFFFF) 0 = true := by
  simp [flag]

/-- The queue is on and empty. -/
structure State.QueueOn (s : State) (who : Who) (q : Nat) (cfg : Word) (t : State) : Prop where
  same : s.SameBut [.regs, .ports, .bus] t
  cfg : t.rg .weirQCfg q = cfg
  empty : t.queue q = {}
  zero : ∀ r ∈ pointerRegs, t.rg r q = 0
  answered : t.answered who Code.ok

theorem writeQueueCfg_enables (hTakes : s.takes who .weirQCfg q) (hOff : s.qOn q = false) (hClash : s.qClash q = false)
    (hSize : 2 ≤ s.qSize q) (cfg : Word) :
    (command who .weirQCfg q (writeQueueCfg q (cfg ||| 1))).Does s fun _ t => s.QueueOn who q ((cfg ||| 1) &&& 0x1FFFFFFF) t := by
  have hFlag : flag (s.rg .weirQCfg q) 0 = false := hOff
  refine command_does hTakes (Act.Does.get_bind ?_)
  simp only [hFlag, flag_enabled, hClash, Bool.true_and, Bool.false_or, decide_eq_true_eq, Bool.false_eq_true, if_false, if_true]
  refine Act.Does.ite (fun hLess => absurd hLess (by omega)) fun _ => ?_
  refine Act.Does.reg_bind ((zeroRegs_does q pointerRegs _).bind fun _ u hu => ?_)
  obtain ⟨hSame, hOthers, hZero⟩ := hu
  refine Act.Does.reg_bind (Act.Does.bind (Q := fun _ v => v = (u.upd (.reg (Reg.off .weirQStat q 0) 0)).upd (.ports { u.ports with
    queues := u.ports.queues.put q {} })) (Act.Does.get_bind (Act.Does.make rfl)) ?_)
  rintro _ _ rfl
  refine Act.Does.get_bind (Act.Does.make_bind (Act.Does.pure ?_))
  have hCfg : u.rg .weirQCfg q = (cfg ||| 1) &&& 0x1FFFFFFF := (State.rg_eq_of_find (hOthers _ fun r hr => ?_)).trans (s.rg_upd_reg _ _ _ _)
  · refine ⟨?_, ?_, Sparse.at_put_same _ _ _ _, fun r hr => ?_, by simp⟩
    · exact (((((State.SameBut.refl _ s).upd (by simp [Upd.fields])).trans (hSame.mono (by simp))).upd (by simp [Upd.fields])).upd
        (by simp [Upd.fields])).upd (by simp [Upd.fields]) |>.upd (by simp [Upd.fields])
    · exact (u.rg_upd_reg_other _ _ _ _ _ (by simp only [Reg.off, Reg.row]; omega)).trans hCfg
    · exact (u.rg_upd_reg_other _ _ _ _ _ (Reg.off_pointer_ne_weirQStat hr q q)).trans (hZero r (.inl hr))
  · simp only [pointerRegs, List.mem_cons, List.not_mem_nil, or_false] at hr
    rcases hr with rfl | rfl | rfl | rfl | rfl <;> simp only [Reg.off, Reg.row] <;> omega

/-- A queue whose region does not do stays off. -/
theorem writeQueueCfg_refuses (hTakes : s.takes who .weirQCfg q) (hOff : s.qOn q = false) (hRegion : s.qClash q = true ∨ s.qSize q < 2)
    (cfg : Word) : (command who .weirQCfg q (writeQueueCfg q (cfg ||| 1))).Does s fun _ t => t = { s with regs := t.regs, bus := t.bus } ∧
      t.qOn q = false ∧ regsBut s t [Reg.off .weirQCfg q 0] ∧ t.answered who Code.faultXlat := by
  have hFlag : flag (s.rg .weirQCfg q) 0 = false := hOff
  refine command_does hTakes (Act.Does.get_bind ?_)
  simp only [hFlag, flag_enabled, Bool.true_and, Bool.or_eq_true, decide_eq_true_eq, Bool.false_eq_true, if_false]
  refine Act.Does.ite (fun _ => Act.Does.reg_bind (Act.Does.pure ⟨rfl, ?_, fun o ho => ?_, by simp⟩)) fun hNot => absurd hRegion hNot
  · exact (congrArg (flag · 0) (s.rg_upd_reg _ _ _ _)).trans (flag_setField_same _ 0 (by omega))
  · exact s.find_upd_reg_other _ (by simpa using ho)

/-! ## A WEIRR that has waited too long -/

/-- The kernel of context `c` has ended with one job record and without teardown. -/
structure State.EndedWithRecord (s : State) (c : Nat) (rest : List Job) (t : State) : Prop where
  kern : (t.ctx c).kern = none
  st : (t.ctx c).st = .ready
  jobs : (t.ctx c).jobs = rest
  completions : t.completions c = s.completions c + 1
  locks : t.locks = s.locks

/-- The context holds kernel `k`, whatever the cycles it has run. -/
def State.holdsKernel (c : Nat) (k : Kernel) (t : State) : Prop := (t.ctx c).kern.map ({ · with cycles := 0 }) = some k

theorem holdsKernel_of_ctxs {k : Kernel} (h : t.ctxs = s.ctxs) (hs : s.holdsKernel c k) : t.holdsKernel c k := by
  simpa only [State.holdsKernel, State.ctx, h] using hs

theorem holdsKernel_modCtx {k : Kernel} {f : Context → Context} (hf : ∀ x, (f x).kern.map ({ · with cycles := 0 }) = x.kern.map ({ · with cycles := 0 })) :
    (Act.modCtx c f).Keeps (State.holdsKernel c k) := fun s hs => Act.Does.get_bind (Act.Does.make (by
  rw [State.holdsKernel, State.ctx_upd_ctx, hf]
  exact hs))

theorem holdsKernel_account {k : Kernel} (n v : Nat) : (account c n v).Keeps (State.holdsKernel c k) :=
  keeps_bind (holdsKernel_modCtx fun _ => rfl) fun _ => keeps_ite (holdsKernel_modCtx fun _ => rfl) keeps_nothing

theorem holdsKernel_engineCycles {k : Kernel} (e n : Nat) : (engineCycles c e n).Keeps (State.holdsKernel c k) :=
  keeps_bind (holdsKernel_account e n) fun _ => holdsKernel_modCtx fun x => by
    cases hKern : x.kern <;> rfl

theorem holdsKernel_endStall {k : Kernel} (e : Nat) : (endStall c e).Keeps (State.holdsKernel c k) := by
  refine keeps_get_bind fun s => ?_
  dsimp only
  split
  · exact keeps_nothing
  · exact keeps_bind (fun t ht => Act.Does.make (holdsKernel_of_ctxs rfl ht)) fun _ =>
      keeps_bind (holdsKernel_engineCycles _ _) fun _ => holdsKernel_account _ _

theorem holdsKernel_endHold {k : Kernel} (e : Nat) : (endHold c e).Keeps (State.holdsKernel c k) := by
  refine keeps_get_bind fun s => ?_
  dsimp only
  split
  · exact keeps_nothing
  · exact keeps_bind (fun t ht => Act.Does.make (holdsKernel_of_ctxs rfl ht)) fun _ => holdsKernel_engineCycles _ _

theorem holdsKernel_chargeStalls {k : Kernel} : (chargeStalls c).Keeps (State.holdsKernel c k) :=
  keeps_get_bind fun _ => keeps_bind (keeps_forIn (fun e _ => keeps_ite (keeps_bind (holdsKernel_endStall e) fun _ =>
    keeps_bind (holdsKernel_endHold e) fun _ => keeps_pure _) (keeps_pure _)) _ _) fun _ => keeps_pure _

/-- A charge moves nothing but engines and contexts. -/
theorem writes_chargeStalls : (chargeStalls c).Writes [.engines, .ctxs] := by
  have hAccount (n v : Nat) : (account c n v).Writes [.engines, .ctxs] :=
    writes_bind (writes_modCtx _ _ (by simp)) fun _ => writes_ite (writes_modCtx _ _ (by simp)) writes_nothing
  have hCycles (e n : Nat) : (engineCycles c e n).Writes [.engines, .ctxs] := writes_bind (hAccount _ _) fun _ => writes_modCtx _ _ (by simp)
  have hStall (e : Nat) : (endStall c e).Writes [.engines, .ctxs] := by
    refine writes_get_bind fun s => ?_
    dsimp only
    split
    · exact writes_nothing
    · exact writes_make_bind (by simp) (writes_bind (hCycles _ _) fun _ => hAccount _ _)
  have hHold (e : Nat) : (endHold c e).Writes [.engines, .ctxs] := by
    refine writes_get_bind fun s => ?_
    dsimp only
    split
    · exact writes_nothing
    · exact writes_make_bind (by simp) (hCycles _ _)
  exact writes_get_bind fun _ => writes_bind (writes_forIn (fun e _ => writes_ite (writes_bind (hStall e) fun _ =>
    writes_bind (hHold e) fun _ => writes_pure _) (writes_pure _)) _ _) fun _ => writes_pure _

/-- A failure that tears nothing down ends a kernel, and its job with one record. -/
theorem endKernel_does {k : Kernel} {j : Job} {rest : List Job} (hPlain : s.EndsPlainly c k j rest) (hKern : (s.ctx c).kern = some k)
    (hQuiet : s.quiet = true) {f : Failure} (hTears : Code.tears f.code = false) :
    (endKernel c f).Does s fun _ t => s.EndedWithRecord c rest t ∧ t.quiet = true := by
  obtain ⟨hJobs, hOpened, hTiles, hPins, hKrec, hOptimiser, hPair, hMasks⟩ := hPlain
  have hStart : s.Ending c [] s := ⟨.refl _ s, ⟨rfl, rfl, rfl, rfl, rfl⟩, fun _ hIn => absurd hIn List.not_mem_nil, hQuiet⟩
  have hHolds : s.holdsKernel c { k with cycles := 0 } := by rw [State.holdsKernel, hKern]; rfl
  have hCharge := (((writes_chargeStalls (c := c)) s).and (ending_chargeStalls s hStart)).and (holdsKernel_chargeStalls s hHolds) |>.does
  refine hCharge.bind fun _ t ht => Act.Does.get_bind ?_
  obtain ⟨⟨hSame, hEnding⟩, hHolds⟩ := ht
  obtain ⟨q, hKernT, hq⟩ := Option.map_eq_some_iff.mp hHolds
  have hOpenedQ : q.opened = [] := (congrArg Kernel.opened hq).trans hOpened
  have hPinsQ : q.pins = [] := (congrArg Kernel.pins hq).trans hPins
  have hJobsT : (t.ctx c).jobs = j :: rest := hEnding.job.2.2.1.trans hJobs
  simp only [hKernT, hTears, Bool.false_and, Bool.not_false, Bool.false_eq_true, if_true, if_false]
  have hTilesT : t.openTiles (512 + c) [] = [] := (openTiles_of_xlat (hEnding.same .xlat (by decide)) _ _).trans hTiles
  refine (closeKernelTiles_idle hKernT hOpenedQ hTilesT false).bind ?_
  rintro _ _ rfl
  have hMid : s.Ending c [] (t.upd (.ctx c (t.ctx c))) := hEnding.upd_ctx ⟨rfl, rfl, rfl, rfl, rfl⟩ (t.not_settles_of_quiet hEnding.quiet c)
  have hCtxMid : (t.upd (.ctx c (t.ctx c))).ctx c = t.ctx c := State.ctx_upd_ctx _ _ _
  generalize t.upd (.ctx c (t.ctx c)) = u at hMid hCtxMid ⊢
  refine ((writes_failureRecord f c _ _ _).does u).bind fun idx v hv => ?_
  have hCtxV : v.ctx c = t.ctx c := by
    rw [← hCtxMid]
    simp only [State.ctx, show v.ctxs = u.ctxs from hv .ctxs (by decide)]
  have hLocks : v.locks = s.locks := (hv .locks (by decide)).trans (hMid.same .locks (by decide))
  have hCasc : v.casc = s.casc := (hv .casc (by decide)).trans (hMid.same .casc (by decide))
  have hRecorded : v.Ending c [] v := ⟨.refl _ v, ⟨rfl, rfl, rfl, rfl, rfl⟩, fun _ hIn => absurd hIn List.not_mem_nil,
    (State.quiet_of_sameBut hv (by decide)).trans hMid.quiet⟩
  refine Act.Does.bind (Q := fun _ w => w = v) (Act.Does.get_bind ?_) ?_
  · simp only [hCtxV, hJobsT, List.head?_cons]
    exact Act.Does.ite (fun hAsked => absurd hAsked (by simp [hKrec])) fun _ => Act.Does.pure rfl
  rintro _ v rfl
  refine (stopKernel_does hRecorded (by rw [hCtxV, hKernT]) fun _ hIn => absurd hIn List.not_mem_nil).bind fun _ w hw => ?_
  refine (orphanBarges_does hw.1 hw.2).bind fun _ w hw => ?_
  obtain ⟨hEnded, hNone⟩ := hw
  refine Act.Does.bind (Act.Does.emptyLoop (f := _) (by rw [hPinsQ]; rfl)) ?_
  rintro _ w ⟨_, rfl⟩
  refine Act.Does.modCtx_bind ?_
  obtain ⟨_, _, hJobsW, _, hRingW⟩ := hEnded.1.job
  have hRing : (w.ctx c).ring = (s.ctx c).ring := hRingW.trans (by rw [hCtxV]; exact hEnding.job.2.2.2.2)
  have hSameW : v.SameBut endFields (w.upd (.ctx c { w.ctx c with st := .ready })) := hEnded.1.same.upd (by simp [Upd.fields, endFields])
  refine (endJob_record (j := j) (rest := rest) f.code f.block f.addr idx (State.quiet_upd_ctx hEnded.1.quiet (by rw [hNone]; rfl)) ?_ ?_ ?_
    hOptimiser hPair).mono fun _ x hx => ?_
  · rw [State.ctx_upd_ctx]
    exact hJobsW.trans (hCtxV ▸ hJobsT)
  · rw [State.ctx_upd_ctx]
    exact CtxState.noConfusion
  · rw [show State.casc _ = v.casc from hSameW .casc (by decide), hCasc, hMasks]
  · obtain ⟨⟨hSameX, hQuietX⟩, hJobsX, _, hKernX, hStX, hCount⟩ := hx
    rw [State.ctx_upd_ctx] at hKernX hStX hCount
    refine ⟨⟨hKernX.trans hNone, hStX, hJobsX, ?_, ?_⟩, hQuietX⟩
    · rw [State.completions, State.completions, hCount, hRing]
    · exact ((hSameX .locks (by decide)).trans (hSameW .locks (by decide))).trans hLocks

/-- RTMO_EXPIRY: once RTMO is over the kernel of the WEIRR ends with TIMEOUT. -/
theorem rtmoExpiry_does {e : Fin 8} {cell ch d : Nat} {k : Kernel} {w : WeirWait} {j : Job} {rest : List Job} (hPlain : s.EndsPlainly c k j rest)
    (hCalm : s.calm = true) (hCtx : (s.engine e.val).ctx = some c) (hKern : (s.ctx c).kern = some k) (hRuns : k.phase = .running)
    (hWait : k.weirWaits.find? (fun w => w.logical = (s.engine e.val).logical && w.cell = cell && w.chan = ch) = some w)
    (hDeadline : w.deadline = some d) (hDue : d * nsUnit ≤ s.clock.elapsed) :
    s.does (.rtmoExpiry e cell ch) (s.EndedWithRecord c rest) := by
  obtain ⟨hOnTime, hQuiet⟩ := State.calm_iff.mp hCalm
  refine State.does_of rfl (settled_does hOnTime (Act.Does.get_bind ?_))
  simp only [hCtx, hKern, hWait, hDeadline]
  refine Act.Does.ite (fun _ => ?_) fun hNot => absurd hRuns hNot
  refine Act.Does.bind (Q := fun _ t => t = s) (fun r => ⟨(), s, rfl, run_reach_past hDue _⟩) ?_
  rintro _ s rfl
  refine Act.Does.get_bind ?_
  simp only [hKern]
  exact Act.Does.ite (fun hSplit => absurd hSplit (by simp [Code.retries, Code.timeout])) fun _ => endKernel_does hPlain hKern hQuiet rfl

/-- Settles O32: a queue is enabled where its region does; the age of packets and the repeated PAUSE go over the queues; a WEIRR
that waited RTMO ends its kernel. -/
theorem queuesAreEnabledAndWatched : Obligations.QueuesAreEnabledAndWatched := by
  intro s
  refine ⟨fun who q cfg hTakes hOff => ⟨fun hClash hSize => ?_, fun hRegion => ?_⟩, agedCheck_does, pauseRepeat_states, ?_⟩
  · refine State.does_of rfl ((writeQueueCfg_enables hTakes hOff hClash hSize cfg).mono fun _ t ht => ?_)
    have hZero (r : Reg) (hr : r ∈ pointerRegs) : t.rg r q.val = 0 := ht.zero r hr
    refine ⟨State.ext_fld fun f => ?_, ht.cfg, ht.empty, ?_, hZero, ht.answered⟩
    · cases f with
      | regs => rfl
      | ports => rfl
      | bus => rfl
      | _ => exact ht.same _ (by decide)
    · simp [State.qOcc, hZero .weirQWr (by decide), hZero .weirQRl (by decide)]
  · exact State.does_of rfl (writeQueueCfg_refuses hTakes hOff hRegion cfg)
  · intro e cell ch c d k w j rest hCalm hCtx hKern hRuns hWait hDeadline hDue hJobs hKrec hOptimiser hPair hPins hOpened hTiles hMasks
    exact (rtmoExpiry_does ⟨hJobs, hOpened, hTiles, hPins, hKrec, hOptimiser, hPair, hMasks⟩ hCalm hCtx hKern hRuns hWait hDeadline hDue).mono
      fun t ht => ⟨ht.kern, ht.st, ht.jobs, ht.completions, ht.locks⟩

end Sys2Proof.Machine

/-!
PROOF. PSRAM channels retrain or retire, and the FTL's upkeep (R240 to R242, R458, R463).
-/
namespace Sys2Proof.Machine

variable {s t u : State} {ch : Nat}

/-! ## A channel retrains -/

/-- Nothing is under way that a burst could serve. -/
theorem servedBy_none (pa : Nat) (hFlying : s.flying = []) (hFlights : ∀ x ∈ s.ctxs, ∀ k, x.2.kern = some k → k.flights = []) :
    (servedBy pa).Does s fun r t => r = none ∧ t = s := by
  refine Act.Does.get_bind (Act.Does.bind (Act.Does.emptyLoop (f := _) (by rw [hFlying]; rfl)) ?_)
  rintro _ s ⟨rfl, rfl⟩
  refine Act.Does.bind (Act.Does.idleLoop s.ctxs fun x hx => ?_) fun r t ht => Act.Does.pure ht
  refine Act.Does.ite (fun hServes => ?_) fun _ => Act.Does.pure ⟨rfl, rfl⟩
  obtain ⟨c, x⟩ := x
  cases hKern : x.kern with
  | none => simp [hKern] at hServes
  | some k => simp [hKern, hFlights _ hx k hKern] at hServes

/-- A channel begins to retrain; it has not done so twice of late. -/
theorem startRetrain_does (link : Nat) (hFew : (recent s.ns 10000000000 (s.psram.at ch {}).retrains).length < 2) :
    (startRetrain ch link).Does s fun _ t => t = s.upd (.psram ch { s.psram.at ch {} with
      retraining := true, retrains := recent s.ns 10000000000 (s.psram.at ch {}).retrains ++ [s.ns], lastFault := link }) := by
  refine Act.Does.get_bind (Act.Does.make_bind (Act.Does.ite (fun hMany => ?_) fun _ => Act.Does.pure rfl))
  rw [List.length_append, List.length_singleton] at hMany
  omega

theorem psram_upd (ch : Nat) (p : PsChan) : (s.upd (.psram ch p)).psram.at ch {} = p := Sparse.at_put_same _ _ _ _

/-- PSRAM_BURST_CRC_FAIL of a burst that serves nothing. -/
theorem psramBurstCrcFail_does (ch : Fin 96) (pa : Nat) (crc : BitVec 16) (hCalm : s.calm = true) (hFlying : s.flying = [])
    (hFlights : ∀ x ∈ s.ctxs, ∀ k, x.2.kern = some k → k.flights = []) (hGrid : s.grid.running = none)
    (hFew : (recent s.ns 10000000000 (s.psram.at ch.val {}).retrains).length < 2) :
    s.does (.psramBurstCrcFail ch pa crc) fun t =>
      (t.psram.at ch.val {}).retraining = true ∧ (t.psram.at ch.val {}).crcRetry = min 65535 ((s.psram.at ch.val {}).crcRetry + 4) ∧
      t.faults.seq = (s.faults.seq + 1) % 2 ^ 32 ∧ t.ctxs = s.ctxs ∧ t.locks = s.locks ∧ t.mem = s.mem := by
  obtain ⟨hOnTime, hQuiet⟩ := State.calm_iff.mp hCalm
  refine State.does_of rfl (settled_does hOnTime (Act.Does.get_bind (Act.Does.make_bind ?_)))
  generalize hu : s.upd (.psram ch.val _) = u
  have hSame : s.SameBut [.psram] u := hu ▸ (State.SameBut.refl _ s).upd (by simp [Upd.fields])
  have hPsram : u.psram.at ch.val {} = { s.psram.at ch.val {} with crcRetry := min 65535 ((s.psram.at ch.val {}).crcRetry + 4) } :=
    hu ▸ psram_upd _ _
  clear hu
  refine (servedBy_none pa ((hSame .flying (by decide)).trans hFlying) (by rwa [show u.ctxs = s.ctxs from hSame .ctxs (by decide)])).bind ?_
  rintro _ u ⟨rfl, rfl⟩
  refine Act.Does.bind (Q := fun r v => r = false ∧ v = u) (Act.Does.get_bind ?_) ?_
  · rw [show u.grid = s.grid from hSame .grid (by decide), hGrid]
    exact Act.Does.pure ⟨rfl, rfl⟩
  rintro _ u ⟨rfl, rfl⟩
  refine (fault_gives u _).does.bind fun _ v hv => Act.Does.get_bind ?_
  have hPsramV : v.psram = u.psram := hv.1 .psram (by decide)
  have hNs : v.ns = s.ns := by
    simp only [State.ns, show v.clock = s.clock from (hv.1 .clock (by decide)).trans (hSame .clock (by decide))]
  refine (startRetrain_does _ (by rw [hPsramV, hPsram, hNs]; exact hFew)).mono ?_
  rintro _ t rfl
  have hAll {p : PsChan} : s.SameBut [.psram, .faults, .regs, .sdio] (v.upd (.psram ch.val p)) :=
    ((hSame.mono (by simp)).trans (hv.1.mono (by simp))).upd (by simp [Upd.fields])
  refine ⟨⟨by rw [psram_upd], by rw [psram_upd, hPsramV, hPsram], ?_, hAll .ctxs (by decide), hAll .locks (by decide), hAll .mem (by decide)⟩,
    (State.quiet_of_sameBut hAll (by decide)).trans hQuiet⟩
  exact hv.2.1.trans (by rw [show u.faults = s.faults from hSame .faults (by decide)])

/-- CHANNEL_RETRAIN_END of a channel that comes back. -/
theorem channelRetrainEnd_repairs (ch : Fin 96) (hCalm : s.calm = true) (hRetrains : (s.psram.at ch.val {}).retraining = true) :
    s.does (.channelRetrainEnd ch true) fun t => (t.psram.at ch.val {}).retraining = false ∧
      (t.psram.at ch.val {}).lost = (s.psram.at ch.val {}).lost ∧
      t.faults.seq = (s.faults.seq + 1) % 2 ^ 32 ∧ t.ctxs = s.ctxs ∧ t.mem = s.mem := by
  obtain ⟨hOnTime, hQuiet⟩ := State.calm_iff.mp hCalm
  refine State.does_of rfl (settled_does hOnTime (Act.Does.get_bind (Act.Does.ite (fun _ => ?_) fun hNot => absurd hRetrains hNot)))
  refine Act.Does.make_bind ((fault_gives _ _).does.bind fun _ t ht => Act.Does.pure ?_)
  have hAll := ((State.SameBut.refl [.psram, .faults, .regs, .sdio] s).upd (u := .psram ch.val { s.psram.at ch.val {} with retraining := false }) (by simp [Upd.fields])).trans
    (ht.1.mono (by simp))
  have hPsram : t.psram.at ch.val {} = { s.psram.at ch.val {} with retraining := false } :=
    (congrArg (fun m : Sparse PsChan => m.at ch.val {}) (ht.1 .psram (by decide))).trans (psram_upd _ _)
  exact ⟨⟨by rw [hPsram], by rw [hPsram], ht.2.1, hAll .ctxs (by decide), hAll .mem (by decide)⟩,
    (State.quiet_of_sameBut hAll (by decide)).trans hQuiet⟩

/-! ## A channel retires -/

/-- A bit of a register of units is set. -/
theorem bitOf3_upd (r : Reg) (hr : r.row.si ≠ 0) (n : Nat) (v : Bool) (m : Nat) :
    (s.upd (.reg (r.off (n / 32) 0) (setField (s.rg r (n / 32)) (n % 32) (n % 32) (b2n v)))).bitOf3 r m =
      if m = n then v else s.bitOf3 r m := by
  simp only [State.bitOf3]
  by_cases hWord : m / 32 = n / 32
  · rw [hWord, State.rg_upd_reg]
    by_cases hSame : m = n
    · rw [if_pos hSame, hSame, flag_setField_same _ _ (by omega), testBit_b2n]
    · rw [if_neg hSame, flag_setField_other _ _ (by omega)]
  · have hOff : r.off (m / 32) 0 ≠ r.off (n / 32) 0 := by
      simp only [Reg.off]
      intro h
      have h' : m / 32 * r.row.si = n / 32 * r.row.si := by omega
      exact hWord (Nat.eq_of_mul_eq_mul_right (Nat.pos_of_ne_zero hr) h')
    rw [State.rg_upd_reg_other _ _ _ _ _ _ hOff, if_neg fun h => hWord (by rw [h])]

/-- A channel has retired, with one record. -/
structure State.ChannelRetired (s : State) (ch : Nat) (t : State) : Prop where
  same : s.SameBut recordFields t
  lost : (t.psram.at ch {}).lost = true
  seq : t.faults.seq = (s.faults.seq + 1) % 2 ^ 32
  live : ∀ n < 96, t.bitOf3 .pscLive n = if n = ch then false else s.bitOf3 .pscLive n
  retired : t.bitOf3 .faultRetPsc ch = true
  engines : t.live = s.live
  stewards : t.rf .faultRetUnits 0 21 20 = s.rf .faultRetUnits 0 21 20

theorem retireChannel_does {code link : Nat} (hch : ch < 96) (hLost : (s.psram.at ch {}).lost = false) (hLive : s.bitOf3 .pscLive ch = true) :
    (retireChannel ch code link).Does s fun _ t => s.ChannelRetired ch t := by
  refine Act.Does.get_bind (Act.Does.ite (fun _ => ?_) fun hNot => absurd (by simp [hLost, hLive]) hNot)
  refine Act.Does.make_bind (Act.Does.regField_bind (Act.Does.regField_bind ((fault_gives _ _).does.bind fun _ t ht => Act.Does.pure ?_)))
  generalize hu : s.upd (.psram ch { s.psram.at ch {} with lost := true, retraining := false }) = u at ht
  have hSame : s.SameBut recordFields u := hu ▸ (State.SameBut.refl _ s).upd (by simp [Upd.fields, recordFields])
  have hPsram : u.psram.at ch {} = { s.psram.at ch {} with lost := true, retraining := false } := hu ▸ psram_upd _ _
  have hRg (r : Reg) (n : Nat) : u.rg r n = s.rg r n := hu ▸ rfl
  have hSeq : u.faults = s.faults := hu ▸ rfl
  clear hu
  have hLiveV := fun m => bitOf3_upd (s := u) .pscLive (by decide) ch false m
  have hOtherV {r : Reg} {n : Nat} (w : Word) (h : r.off n 0 ≠ Reg.off .pscLive (ch / 32) 0) :=
    u.rg_upd_reg_other r n 0 _ w h
  generalize hv : u.upd (.reg (Reg.off .pscLive (ch / 32) 0) _) = v at ht hLiveV
  have hRetired := bitOf3_upd (s := v) .faultRetPsc (by decide) ch true ch
  generalize hw : v.upd (.reg (Reg.off .faultRetPsc (ch / 32) 0) _) = w at ht hRetired
  have hRg' {r : Reg} {n : Nat} (hRecord : r.off n 0 ∉ recordRegs) (hPsc : r.off n 0 ≠ Reg.off .faultRetPsc (ch / 32) 0) : t.rg r n = v.rg r n := by
    rw [ht.rg hRecord, ← hw, State.rg_upd_reg_other _ _ _ _ _ _ hPsc]
  have hRg'' {r : Reg} {n : Nat} (hRecord : r.off n 0 ∉ recordRegs) (hPsc : r.off n 0 ≠ Reg.off .faultRetPsc (ch / 32) 0)
      (hLive : r.off n 0 ≠ Reg.off .pscLive (ch / 32) 0) : t.rg r n = s.rg r n := by
    rw [hRg' hRecord hPsc, ← hv, hOtherV _ hLive, hRg]
  refine ⟨?_, ?_, ?_, fun n hn => ?_, ?_, ?_, ?_⟩
  · rw [← hw, ← hv] at ht
    exact ((hSame.upd (by simp [Upd.fields, recordFields])).upd (by simp [Upd.fields, recordFields])).trans (ht.1.mono (by simp [recordFields]))
  · rw [← hw, ← hv] at ht
    exact congrArg PsChan.lost ((congrArg (fun m : Sparse PsChan => m.at ch {}) (ht.1 .psram (by decide))).trans hPsram)
  · rw [← hw, ← hv] at ht
    rw [ht.2.1, ← hSeq]
    rfl
  · rw [State.bitOf3, hRg' (by simp only [recordRegs, List.mem_cons, List.not_mem_nil, or_false, Reg.off, Reg.row]; omega)
      (by simp only [Reg.off, Reg.row]; omega)]
    exact (hLiveV n).trans (by rw [State.bitOf3, hRg]; rfl)
  · rw [State.bitOf3, ht.rg (by simp only [recordRegs, List.mem_cons, List.not_mem_nil, or_false, Reg.off, Reg.row]; omega)]
    exact hRetired.trans (if_pos rfl)
  · rw [State.live, hRg'' (by decide) (by simp only [Reg.off, Reg.row]; omega) (by simp only [Reg.off, Reg.row]; omega)]
    rfl
  · rw [State.rf, hRg'' (by decide) (by simp only [Reg.off, Reg.row]; omega) (by simp only [Reg.off, Reg.row]; omega)]
    rfl

/-- Channels enough are left where nine were. -/
theorem State.ChannelRetired.not_tooFew (h : s.ChannelRetired ch t) (hEngines : s.live ≠ [])
    (hChannels : 9 ≤ ((List.range 96).filter (s.bitOf3 .pscLive)).length) (hStewards : s.rf .faultRetUnits 0 21 20 ≠ 3) : t.tooFew = false := by
  have hLeft : (List.range 96).filter (t.bitOf3 .pscLive) = ((List.range 96).filter (s.bitOf3 .pscLive)).erase ch := by
    rw [(List.nodup_range.filter _).erase_eq_filter, List.filter_filter]
    refine List.filter_congr fun n hn => ?_
    rw [h.live n (List.mem_range.mp hn)]
    by_cases hSame : n = ch <;> simp [hSame]
  have hCount := List.length_erase (a := ch) (l := (List.range 96).filter (s.bitOf3 .pscLive))
  rw [State.tooFew, h.engines, h.stewards, hLeft]
  simp only [List.isEmpty_eq_false_iff.mpr hEngines, Bool.false_or, Bool.or_eq_false_iff, decide_eq_false_iff_not, Nat.not_lt]
  exact ⟨by rw [hCount]; split <;> omega, hStewards⟩

/-- CHANNEL_RETRAIN_END of a channel that does not come back. -/
theorem channelRetrainEnd_retires (ch : Fin 96) (hCalm : s.calm = true) (hRetrains : (s.psram.at ch.val {}).retraining = true)
    (hLost : (s.psram.at ch.val {}).lost = false) (hLive : s.bitOf3 .pscLive ch.val = true) (hEngines : s.live ≠ [])
    (hChannels : 9 ≤ ((List.range 96).filter (s.bitOf3 .pscLive)).length) (hStewards : s.rf .faultRetUnits 0 21 20 ≠ 3) :
    s.does (.channelRetrainEnd ch false) fun t =>
      (t.psram.at ch.val {}).lost = true ∧ t.bitOf3 .pscLive ch.val = false ∧ t.bitOf3 .faultRetPsc ch.val = true ∧
      t.faults.seq = (s.faults.seq + 1) % 2 ^ 32 ∧ t.ctxs = s.ctxs ∧ t.mem = s.mem := by
  obtain ⟨hOnTime, hQuiet⟩ := State.calm_iff.mp hCalm
  refine State.does_of rfl (settled_does hOnTime (Act.Does.get_bind (Act.Does.ite (fun _ => ?_) fun hNot => absurd hRetrains hNot)))
  refine (retireChannel_does ch.isLt hLost hLive).bind fun _ t ht => Act.Does.get_bind (Act.Does.ite (fun hFew => ?_) fun _ => Act.Does.pure ?_)
  · exact absurd hFew (by rw [ht.not_tooFew hEngines hChannels hStewards]; decide)
  · exact ⟨⟨ht.lost, (ht.live _ ch.isLt).trans (if_pos rfl), ht.retired, ht.seq, ht.same .ctxs (by decide), ht.same .mem (by decide)⟩,
      (State.quiet_of_sameBut ht.same (by decide)).trans hQuiet⟩

/-! ## The flash tier -/

/-- The registers that the FTL's figures show in. -/
def ftlRegs : List Nat := [Reg.off .ftlStatus 0 0, Reg.off .ftlWear 0 0, Reg.off .ftlBadblk 0 0]

/-- What the upkeep of the flash tier leaves: two free values are drawn for the figures. -/
structure State.FlashWorn (s t : State) : Prop where
  eq : t = { s with regs := t.regs, ftl := t.ftl, freeCount := s.freeCount + 2 }
  regs : ∀ o, o ∉ ftlRegs → t.regs.find o = s.regs.find o
  gone : s.ftl.spareGone = true → t.ftl.spareGone = true
  shows : flag (s.rg .ftlStatus) 0 = true → flag (t.rg .ftlStatus) 0 = true ∧ flag (t.rg .ftlStatus) 1 = t.ftl.spareGone

/-- READY and RDONLY in FTL_STATUS. -/
theorem flag_ftlStatus (gone : Bool) (spare : Nat) :
    flag (Word.ofNat (pack [(1, 0), (b2n gone, 1), (spare, 8)])) 0 = true ∧ flag (Word.ofNat (pack [(1, 0), (b2n gone, 1), (spare, 8)])) 1 = gone := by
  have hPack : pack [(1, 0), (b2n gone, 1), (spare, 8)] = 1 + b2n gone * 2 + spare * 256 := by simp [pack]
  have hBit (b : Nat) (hb : b < 32) : flag (Word.ofNat (pack [(1, 0), (b2n gone, 1), (spare, 8)])) b =
      (1 + b2n gone * 2 + spare * 256).testBit b := by
    rw [hPack]
    exact (BitVec.getLsbD_ofNat 32 _ b).trans (by simp [hb])
  rw [hBit 0 (by omega), hBit 1 (by omega), Nat.testBit_eq_decide_div_mod_eq, Nat.testBit_eq_decide_div_mod_eq]
  cases gone with
  | true => exact ⟨decide_eq_true (by rw [b2n_true]; omega), decide_eq_true (by rw [b2n_true]; omega)⟩
  | false => exact ⟨decide_eq_true (by rw [b2n_false]; omega), decide_eq_false (by rw [b2n_false]; omega)⟩

theorem State.eq_flash (h : s.SameBut [.regs, .ftl, .freeCount] t) (hFree : t.freeCount = s.freeCount + 2) :
    t = { s with regs := t.regs, ftl := t.ftl, freeCount := s.freeCount + 2 } :=
  State.ext_fld fun f => by
    cases f with
    | regs => rfl
    | ftl => rfl
    | freeCount => exact hFree
    | _ => exact h _ (by decide)

theorem wearFlash_does : wearFlash.Does s fun _ t => s.FlashWorn t := by
  refine Act.Does.bind (Q := fun _ t => t = s.upd .draw) (fun k => ⟨_, _, rfl, rfl⟩) ?_
  rintro n _ rfl
  refine Act.Does.bind (Q := fun _ t => t = (s.upd .draw).upd .draw) (fun k => ⟨_, _, rfl, rfl⟩) ?_
  rintro m _ rfl
  generalize Config.ftlFigures n = figures
  obtain ⟨spare, mean, top, bad⟩ := figures
  have hSame : s.SameBut [.regs, .ftl, .freeCount] ((s.upd .draw).upd .draw) :=
    ((State.SameBut.refl _ s).upd (by simp [Upd.fields])).upd (by simp [Upd.fields])
  have hDrawn : ((s.upd .draw).upd .draw).freeCount = s.freeCount + 2 ∧ ((s.upd .draw).upd .draw).regs = s.regs ∧
      ((s.upd .draw).upd .draw).ftl = s.ftl := ⟨rfl, rfl, rfl⟩
  generalize (s.upd .draw).upd .draw = u at hSame hDrawn ⊢
  obtain ⟨hFree, hRegs, hFtl⟩ := hDrawn
  have hGone {f : Ftl} (b : Bool) (hf : f.spareGone = (u.ftl.spareGone || b)) (h : s.ftl.spareGone = true) : f.spareGone = true := by
    rw [hf, hFtl, h, Bool.true_or]
  refine Act.Does.get_bind ?_
  obtain ⟨a, b, c, d⟩ := u.ftl.figures
  refine Act.Does.make_bind (Act.Does.ite (fun _ => ?_) fun hOff => Act.Does.pure ?_)
  · refine Act.Does.reg_bind (Act.Does.reg_bind (Act.Does.make ⟨State.eq_flash ?_ hFree, fun o ho => ?_, hGone _ rfl, fun _ => ?_⟩))
    · exact (((hSame.upd (by simp [Upd.fields])).upd (by simp [Upd.fields])).upd (by simp [Upd.fields])).upd (by simp [Upd.fields])
    · simp only [ftlRegs, List.mem_cons, List.not_mem_nil, or_false, not_or] at ho
      refine (State.find_upd_reg_other _ _ ho.2.2).trans ((State.find_upd_reg_other _ _ ho.2.1).trans ((State.find_upd_reg_other _ _ ho.1).trans ?_))
      exact congrArg (fun m : Sparse Word => m.find o) hRegs
    · rw [State.rg_upd_reg_other _ _ _ _ _ _ (by decide), State.rg_upd_reg_other _ _ _ _ _ _ (by decide), State.rg_upd_reg]
      exact flag_ftlStatus _ _
  · refine ⟨State.eq_flash (hSame.upd (by simp [Upd.fields])) hFree, fun o _ => congrArg (fun m : Sparse Word => m.find o) hRegs, hGone _ rfl, fun hOn => ?_⟩
    rw [State.rg_eq_of_find (s := s) (t := u) (by rw [hRegs])] at hOff
    exact absurd hOn hOff

/-- READ_DISTURB_REFRESH counts, but for a NAND channel that is retired. -/
theorem readDisturbRefresh_does (n : Fin 4) (b : Nat) :
    (flag (s.rg .faultRetUnits) (16 + n.val) = false → s.does (.readDisturbRefresh n b) fun t =>
      t = { s with regs := t.regs, ftl := t.ftl, freeCount := s.freeCount + 2 } ∧
      (t.rg .ftlRefresh).toNat = min (2 ^ 32 - 1) ((s.rg .ftlRefresh).toNat + 1)) ∧
    (flag (s.rg .faultRetUnits) (16 + n.val) = true → s.does (.readDisturbRefresh n b) fun t => t = s) := by
  refine ⟨fun hServes => State.does_of rfl (Act.Does.get_bind (Act.Does.ite (fun _ => Act.Does.countSat_bind (wearFlash_does.mono fun _ t ht => ?_))
    fun hNot => absurd (by simp [hServes]) hNot)), fun hRetired => State.does_of rfl (Act.Does.get_bind (Act.Does.ite (fun h =>
      absurd h (by simp [hRetired])) fun _ => Act.Does.pure rfl))⟩
  refine ⟨ht.eq, ?_⟩
  rw [State.rg_eq_of_find (ht.regs _ (by decide)), State.rg_upd_reg]
  exact toNat_countSat _

/-- FTL_READY sets READY and shows the figures. -/
theorem ftlReady_does (hCalm : s.calm = true) : s.does .ftlReady fun t =>
    t = { s with regs := t.regs, ftl := t.ftl, freeCount := s.freeCount + 2 } ∧ flag (t.rg .ftlStatus) 0 = true ∧
    flag (t.rg .ftlStatus) 1 = t.ftl.spareGone ∧ (s.ftl.spareGone = true → t.ftl.spareGone = true) := by
  obtain ⟨hOnTime, hQuiet⟩ := State.calm_iff.mp hCalm
  refine State.does_of rfl (settled_does hOnTime (Act.Does.regField_bind (wearFlash_does.mono fun _ t ht => ?_)))
  obtain ⟨hReady, hGone⟩ := ht.shows (by rw [State.rg_upd_reg, flag_setField_same _ _ (by omega)]; rfl)
  refine ⟨⟨ht.eq, hReady, hGone, ht.gone⟩, ?_⟩
  rw [ht.eq]
  exact hQuiet

/-- Settles O30: a burst that fails serves nothing under way; a channel comes back or retires; the FTL's figures are drawn. -/
theorem channelsAndFlashAreKept : Obligations.ChannelsAndFlashAreKept :=
  ⟨fun _ ch hCalm => ⟨fun pa crc hFlying hFlights hGrid hFew => psramBurstCrcFail_does ch pa crc hCalm hFlying hFlights hGrid hFew,
    channelRetrainEnd_repairs ch hCalm, channelRetrainEnd_retires ch hCalm⟩, fun _ => ⟨fun n b => readDisturbRefresh_does n b, ftlReady_does⟩⟩

end Sys2Proof.Machine

/-!
PROOF. Barges that end: a Lock table in which the end of one changes its Lock (R186, R198, R231).
-/
namespace Sys2Proof.Machine

/-- A barge of context 1 whose only tile has landed, and whose ADD is for Lock 5. -/
def addingBarge : Barge := { ctx := 1, desc := { addEn := true, addLock := 5 }, landed := [0] }

/-- Lock 5 reads as free, but the table holds a second entry of it, which context 1 owns: the table is not in its one form. The
barge fails, its context is torn down, and the second entry has the Lock poisoned. -/
def lockTwice : State :=
  { State.reset with
    flying := [(8, addingBarge)]
    ctxs := [(1, { st := .ready })]
    locks := [(5, {}), (5, { alloc := true, owner := 1 })] }

/-- Lock 5 ends poisoned. -/
def poisonsLock : Host.Outcome State Fault Refusal → Bool
  | .next t => (t.lockAt 5).poisoned
  | _ => false

theorem lockTwice_poisonsLock : poisonsLock (exec (.bargeComplete 8) lockTwice) = true := by decide +kernel

/-- Refutes O29: nothing in the statement asks that the Lock table hold each Lock once, and the teardown poisons a Lock that
reads as free where a later entry of it is the context's. -/
theorem not_bargesEndAndRetry : ¬ Obligations.BargesEndAndRetry := by
  intro h
  obtain ⟨t, hExec, -, hLock⟩ := (h.1 lockTwice 8 addingBarge (by decide +kernel) rfl rfl rfl rfl (by decide +kernel) (by decide +kernel) rfl
    (by decide)).2.1 (by decide +kernel) rfl rfl
  have hSame : t.lockAt 5 = lockTwice.lockAt 5 := hLock
  have hPoisons : (t.lockAt 5).poisoned = true := by
    have hRuns := lockTwice_poisonsLock
    rwa [hExec] at hRuns
  have hClear : (lockTwice.lockAt 5).poisoned = false := by decide +kernel
  rw [hSame, hClear] at hPoisons
  exact Bool.noConfusion hPoisons

end Sys2Proof.Machine

/-!
PROOF. The KV commands: a state in which a frame that becomes free enters no ring (R135, R142, R470).
-/
namespace Sys2Proof.Machine

/-- The PSRAM tile that holds the level-2 table of context 1, and in it the frame table of its pool. -/
def kvTable : Nat := psramBase + 301 * 65536

/-- The descriptor of a pool of two frames of context 1: its frame table in page 1, its free ring in page 2. -/
def ringedPool : Pool :=
  { pa := psramBase + 400 * 65536, kvVa := 0, ftVa := 0x1_0010, ctx := 1, freeVa := 0x2_0000, frames := 2, tpf := 1, head := 0 }

/-- Memory with the pool's descriptor, the pinned entries of pages 1 and 2, and frame 1 with one reference. -/
def kvMemory : List Host.Cell :=
  [(ringedPool.pa, bytesOf 32 (pack [(128, 56), (0x1_0010, 64), (1, 112), (0x2_0000, 128), (2, 192)])),
    (kvTable + 8, bytesOf 8 (kvTable + 7)), (kvTable + 16, bytesOf 8 (kvTable + 65536 + 7)),
    (kvTable + 24, bytesOf 8 (2 ^ 48 + 1))].foldl (fun m x => Memory.store 0 m x.1 x.2) []

/-- Frame 1's record lies behind the entry of the ring's page, and an inversion of two bits is armed for the word that holds the
high half of the entry and the low half of the record. -/
def armedBehindEntry : State :=
  { State.reset with
    mem := kvMemory
    regs := (State.reset.regs.put (Reg.off .kvPtabLo 0 0) (Word.ofNat ringedPool.pa)).put (Reg.off .kvPtabHi 0 0) (Word.ofNat (ringedPool.pa / 2 ^ 32))
    xlat := { walk := [(1, 0, kvTable)], pins := [(8192 + 301, true), (8192 + 302, true), (8192 + 400, true)] }
    faults := { inject := some (kvTable + 20, 3) } }

/-- The first byte of the ring is not that of frame 1. -/
def ringIsEmpty : Host.Outcome State Fault Refusal → Bool
  | .next t => Memory.byte t.mem (kvTable + 65536) = 0
  | _ => false

theorem armedBehindEntry_ringIsEmpty : ringIsEmpty (exec (.kvRelease 1 0 1) armedBehindEntry) = true := by decide +kernel

theorem armedBehindEntry_sound {pa n : Nat} (h : armedBehindEntry.gone pa = false ∧ armedBehindEntry.flashLost pa = false ∧
    armedBehindEntry.lostTile pa = false) : armedBehindEntry.sound pa n := ⟨fun _ hf => absurd hf List.not_mem_nil, h⟩

/-- Refutes O24: nothing in the statement keeps an armed inversion to a word that lies within one entry; the one of the ring's
page cannot be read after the frame's record has been written. -/
theorem not_kvCommandsKeepFrames : ¬ Obligations.KvCommandsKeepFrames := by
  intro h
  have hPinned {va tile : Nat} (hPlace : (regionAt (kvTable + va / 65536 % 8192 * 8) = some .basin ∨
      regionAt (kvTable + va / 65536 % 8192 * 8) = some .psram ∧ armedBehindEntry.backed (kvTable + va / 65536 % 8192 * 8) = true))
      (hWalk : armedBehindEntry.xlat.walk.find? (fun w => w.1 = 1 && w.2.1 = va / 2 ^ 29) = some (1, 0, kvTable))
      (hSound : armedBehindEntry.gone (kvTable + va / 65536 % 8192 * 8) = false ∧ armedBehindEntry.flashLost (kvTable + va / 65536 % 8192 * 8) = false ∧
        armedBehindEntry.lostTile (kvTable + va / 65536 % 8192 * 8) = false)
      (hLeaf : leafOk (armedBehindEntry.peekNat (kvTable + va / 65536 % 8192 * 8) 8) = true ∧
        flag (BitVec.ofNat 64 (armedBehindEntry.peekNat (kvTable + va / 65536 % 8192 * 8) 8)) 2 = true ∧
        flag (BitVec.ofNat 64 (armedBehindEntry.peekNat (kvTable + va / 65536 % 8192 * 8) 8)) 5 = false ∧
        tilePa (armedBehindEntry.peekNat (kvTable + va / 65536 % 8192 * 8) 8) = tile ∧ armedBehindEntry.pinned tile = true) :
      armedBehindEntry.pinnedAt 1 va tile := ⟨_, hWalk, hPlace, armedBehindEntry_sound hSound, hLeaf⟩
  have hRelease := ((h armedBehindEntry 1 0 1 kvTable (kvTable + 65536) ringedPool (by decide) ⟨by decide +kernel, by decide +kernel⟩ (by decide +kernel)
    (by decide +kernel) (by decide +kernel) (by decide +kernel) (by decide +kernel) (by decide +kernel) (by decide +kernel) (by decide +kernel)
    (by decide +kernel) (by decide +kernel) (by decide +kernel) (by decide +kernel)
    (hPinned (by decide +kernel) (by decide +kernel) (by decide +kernel) (by decide +kernel))).2 (by decide +kernel)).2.2.2.1
    (by decide +kernel) (hPinned (by decide +kernel) (by decide +kernel) (by decide +kernel) (by decide +kernel))
    (by unfold apart; decide +kernel) (fun w hw => ?_)
  · obtain ⟨t, hExec, -, hRing, -⟩ := hRelease
    have hEmpty := armedBehindEntry_ringIsEmpty
    rw [hExec] at hEmpty
    have hFirst : Memory.byte t.mem (kvTable + 65536) = 1 := hRing 0 (by decide)
    simp [ringIsEmpty, hFirst] at hEmpty
  · obtain rfl : (1, 0, kvTable) = w := Option.some.inj ((show armedBehindEntry.xlat.walk.find? _ = some (1, 0, kvTable) by decide +kernel).symm.trans hw)
    unfold apart
    decide +kernel

end Sys2Proof.Machine

/-!
PROOF. What a walk to an ordinary page finds, and that an access which passes neither parks nor waits (R210 to R213, R216,
Table 9.3).
-/
namespace Sys2Proof.Machine

section
variable {s : State} {v : Via} {va pa n entry leaf : Nat} {write : Bool} {bs : List Byte}

/-- An entry of sound memory in a tier is read as it is stored. -/
theorem readEntry_does (hTier : regionAt pa = some .basin ∨ regionAt pa = some .psram ∧ s.backed pa = true) (hSound : s.sound pa 8) :
    (readEntry pa).Does s fun r t => r = (some (s.peekNat pa 8), none) ∧ t = s := by
  have hIn : (decide (regionAt pa = some .basin) || (decide (regionAt pa = some .psram) && s.backed pa)) = true := by
    rcases hTier with h | ⟨h, hBacked⟩
    · simp [h]
    · simp [h, hBacked]
  refine Act.Does.get_bind ?_
  simp only [hIn, Bool.not_true, Bool.false_eq_true, if_false]
  refine (readTier_does _ 8 hSound).bind ?_
  rintro _ t ⟨rfl, rfl⟩
  exact Act.Does.pure ⟨rfl, rfl⟩

/-- The walk to an ordinary page finds its leaf, and changes nothing. -/
theorem walkLeaf_does {c : Nat} (h : s.walks c va leaf entry) :
    (walkLeaf c va).Does s fun r t => r = .leaf leaf entry ∧ t = s := by
  obtain ⟨w, hFind, rfl, hTier, hSound, rfl, hOk, hPin⟩ := h
  unfold walkLeaf
  refine Act.Does.bind (Q := fun r t => r = .inl w.2.2 ∧ t = s) ?_ ?_
  · refine Act.Does.get_bind ?_
    simp only [hFind]
    exact Act.Does.pure ⟨rfl, rfl⟩
  · rintro _ t ⟨rfl, rfl⟩
    refine (readEntry_does hTier hSound).bind ?_
    rintro _ u ⟨rfl, rfl⟩
    refine Act.Does.get_bind ?_
    simp only [hOk, hPin, Bool.not_true, Bool.false_and, Bool.or_self, Bool.false_eq_true, if_false]
    exact Act.Does.pure ⟨rfl, rfl⟩

/-- Without views an access is made at its own address. -/
theorem State.flatVa_of_views (h : v.views = []) : s.flatVa v va write = some va := by
  simp [State.flatVa, Via.viewOf, h]

/-- An access that passes does not park. -/
theorem wouldPark_does (h : s.passes v va write pa entry) :
    (wouldPark v va write).Does s fun r t => r = false ∧ t = s := by
  obtain ⟨⟨hVa, hViews, _⟩, leaf, hWalk, hOut, _⟩ := h
  refine Act.Does.get_bind ?_
  rw [State.flatVa_of_views hViews]
  refine Act.Does.ite (fun h => absurd hVa (Nat.not_lt.mpr h)) fun _ => (walkLeaf_does hWalk).bind ?_
  rintro _ t ⟨rfl, rfl⟩
  have hNot : decide (t.leafOutcome v va leaf write = .park) = false := by
    rw [hOut]
    rfl
  exact Act.Does.get_bind (Act.Does.pure ⟨hNot, rfl⟩)

/-- An access that passes reaches no channel that retrains. -/
theorem reachesPa_does (h : s.passes v va write pa entry) :
    (reachesPa v va write).Does s fun r t => r.any s.retraining = false ∧ t = s := by
  obtain ⟨⟨hVa, hViews, _⟩, leaf, hWalk, _, hServes⟩ := h
  refine Act.Does.get_bind ?_
  rw [State.flatVa_of_views hViews]
  refine Act.Does.ite (fun h => absurd hVa (Nat.not_lt.mpr h)) fun _ => (walkLeaf_does hWalk).bind ?_
  rintro _ t ⟨rfl, rfl⟩
  exact Act.Does.pure ⟨by rw [Option.any_some, hServes], rfl⟩

/-- Bytes of one page whose access passes make nobody wait. -/
theorem rangeWaits_does (h : s.passes v va write pa entry) (hn : 0 < n) (hPage : va % 65536 + n ≤ 65536) :
    (rangeWaits v va n write).Does s fun r t => r = false ∧ t = s := by
  have hOne : (va % 65536 + n + 65535) / 65536 = 1 := by omega
  have hAt : max va ((va / 65536 + 0) * 65536) = va := by omega
  refine Act.Does.get_bind ?_
  simp only [hOne, List.range_one]
  refine Act.Does.bind (Q := fun r t => r = false ∧ t = s) ?_ ?_
  · rw [List.forIn_cons]
    simp only [hAt, Bool.not_false, if_true]
    refine Act.Does.bind (Q := fun r t => r = .yield false ∧ t = s) ((wouldPark_does h).bind ?_) ?_
    · rintro _ t ⟨rfl, rfl⟩
      refine (reachesPa_does h).bind ?_
      rintro r u ⟨hServes, rfl⟩
      exact Act.Does.pure ⟨by rw [hServes]; rfl, rfl⟩
    · rintro _ t ⟨rfl, rfl⟩
      exact Act.Does.pure ⟨rfl, rfl⟩
  · rintro _ t ⟨rfl, rfl⟩
    exact Act.Does.pure ⟨rfl, rfl⟩

/-- PLAN reads the bytes it gets, and nothing changes. -/
theorem planRead_does {c : Nat} (h : s.gets (planVia c) va n bs) (hn : 0 < n) (hTrouble : s.plan.trouble = none) :
    (planRead c va n).Does s fun r t => r = bs ∧ t = s := by
  obtain ⟨hSees, pa, entry, hPasses⟩ := h
  refine Act.Does.get_bind ?_
  simp only [hTrouble, Option.isSome_none, Bool.false_eq_true, if_false]
  refine (rangeWaits_does hPasses hn hSees.2.1).bind ?_
  rintro _ t ⟨rfl, rfl⟩
  simp only [Bool.false_eq_true, if_false]
  refine (readVaNow_does hSees).bind ?_
  rintro _ u ⟨rfl, rfl⟩
  exact Act.Does.pure ⟨rfl, rfl⟩

/-- Work of PLAN that parks nowhere is done. -/
theorem unlessParked_does {work wait : Act Unit} {Q : Unit → State → Prop} (h : work.Does s fun r t => Q r t ∧ t.plan.parked = []) :
    (unlessParked work wait).Does s Q := by
  refine Act.Does.get_bind ?_
  have hAfter := h.after
  simp only [hAfter.2, List.isEmpty_nil, if_true]
  exact h.mono fun _ _ hq => hq.1

end

end Sys2Proof.Machine

/-!
PROOF. The epoch commands (R311 to R313, R315, R333).
-/
namespace Sys2Proof.Machine

section
variable {s t u : State} {who : Who} {p : Plan} {code va : Nat} {e : Epoch}

/-- What an epoch command may change before it is answered. -/
def epochFields : List Fld := [.plan, .regs]

/-- An epoch command has left PLAN as `p` and its code in EPOCH_s_STATUS. -/
structure State.EpochEnds (s t : State) (who : Who) (code : Nat) (p : Plan) : Prop where
  same : State.SameBut epochFields s t
  plan : t.plan = p
  status : t.rf .epochStatus who.val 7 0 = code

/-- What an epoch command that has ended is seen to have done once it is answered. -/
theorem State.EpochEnds.done (h : s.EpochEnds t who code p) (hCmds : p.cmds = []) :
    epochDone s (t.upd (.bus who.val { code := Code.ok, data := 0 })) who code ∧
      (t.upd (.bus who.val { code := Code.ok, data := 0 })).plan = p := by
  obtain ⟨hSame, hPlan, hCode⟩ := h
  refine ⟨⟨hCode, ?_, by simp, ?_⟩, hPlan⟩
  · change flag (setField _ 8 8 (b2n (t.plan.openWaiting.any (·.val = who.val) || t.plan.cmds.any (·.1.val = who.val)))) 8 = true ↔
      t.plan.openWaiting = some who
    rw [flag_setField_same _ _ (by decide), hPlan, hCmds]
    rw [testBit_b2n]
    cases p.openWaiting <;> simp [Fin.ext_iff]
  · have hAll : State.SameBut [.plan, .regs, .bus] s (t.upd (.bus who.val { code := Code.ok, data := 0 })) :=
      (hSame.mono (by decide)).upd (by simp [Upd.fields])
    refine State.ext_fld fun f => ?_
    cases f with
    | plan | regs | bus => rfl
    | _ => exact hAll _ (by decide)

/-- The device with the code of an epoch command in EPOCH_s_STATUS. -/
def State.epochCoded (s : State) (who : Who) (code : Nat) : State :=
  s.upd (.reg (Reg.off .epochStatus who.val 0) (setField (s.rg .epochStatus who.val) 7 0 code))

theorem State.epochEnds_epochCoded (hSame : State.SameBut epochFields s u) (hPlan : u.plan = p) (hCode : code < 256) :
    s.EpochEnds (u.epochCoded who code) who code p := by
  refine ⟨hSame.upd (by simp [Upd.fields, epochFields]), hPlan, ?_⟩
  rw [State.rf, State.epochCoded, State.rg_upd_reg, field_setField_same _ _ (by decide)]
  exact Nat.mod_eq_of_lt hCode

/-- An epoch command ends with its code. -/
theorem epochStatus_does (hSame : State.SameBut epochFields s u) (hPlan : u.plan = p) (hCode : code < 256) :
    (epochStatus who code).Does u fun _ t => s.EpochEnds t who code p :=
  Act.Does.get_bind (Act.Does.make (State.epochEnds_epochCoded hSame hPlan hCode))

/-- PLAN is left in a state of its own. -/
theorem State.sameBut_plan (h : State.SameBut epochFields s u) (p : Plan) : State.SameBut epochFields s (u.upd (.plan p)) :=
  h.upd (by simp [Upd.fields, epochFields])

/-- PLAN takes what a function makes of it, and the command goes on. -/
theorem Act.Does.modPlan_bind {α : Type} {f : Plan → Plan} {g : Unit → Act α} {Q : α → State → Prop}
    (h : (g ()).Does (s.upd (.plan (f s.plan))) Q) : (Act.modPlan f >>= g).Does s Q :=
  Act.Does.bind (Q := fun _ t => t = s.upd (.plan (f s.plan))) (Act.Does.get_bind (Act.Does.make rfl)) fun _ _ e => e ▸ h

/-- An accepted epoch command that ends well or not completes with OK on the bus. -/
theorem epochCommand_does {body : Act Nat} (hTakes : s.takes who .epochCmd who.val) (hCmds : p.cmds = [])
    (h : body.Does s fun c t => c = Code.ok ∧ s.EpochEnds t who code p) :
    (command who .epochCmd who.val body).Does s fun _ t => epochDone s t who code ∧ t.plan = p :=
  command_does hTakes (h.mono fun _ _ hEnds => hEnds.1 ▸ hEnds.2.done hCmds)

/-! ## OPEN and ABANDON -/

/-- The epoch that OPEN makes (Table 13.1). -/
def State.freshEpoch (s : State) : Epoch := { num := s.current.num + 1, root := s.current.root, layers := s.current.layers }

theorem openCommand_opens (hNone : s.plan.openEpoch = none) (hIdle : s.plan.openWaiting = none) (hRoom : s.plan.epochs.length < 64) :
    (openCommand who).Does s fun c t => c = Code.ok ∧ s.EpochEnds t who Code.ok { s.plan with openEpoch := some s.freshEpoch } := by
  have hFree : (s.plan.openEpoch.isSome || s.plan.openWaiting.isSome) = false := by simp [hNone, hIdle]
  refine Act.Does.get_bind ?_
  simp only [hFree, Bool.false_eq_true, if_false, if_neg (Nat.not_le.mpr hRoom)]
  refine Act.Does.get_bind (Act.Does.modPlan_bind ?_)
  exact (epochStatus_does (s.sameBut_plan (.refl _ s) _) rfl (by decide)).bind fun _ _ h => Act.Does.pure ⟨rfl, h⟩

theorem openCommand_waits (hNone : s.plan.openEpoch = none) (hIdle : s.plan.openWaiting = none) (hFull : 64 ≤ s.plan.epochs.length) :
    (openCommand who).Does s fun c t => c = Code.ok ∧
      s.EpochEnds t who (s.rf .epochStatus who.val 7 0) { s.plan with openWaiting := some who } := by
  have hFree : (s.plan.openEpoch.isSome || s.plan.openWaiting.isSome) = false := by simp [hNone, hIdle]
  refine Act.Does.get_bind ?_
  simp only [hFree, Bool.false_eq_true, if_false, if_pos hFull]
  exact Act.Does.modPlan_bind (Act.Does.pure ⟨rfl, s.sameBut_plan (.refl _ s) _, rfl, rfl⟩)

theorem openCommand_refuses (hOpen : s.plan.openEpoch = some e) :
    (openCommand who).Does s fun c t => c = Code.ok ∧ s.EpochEnds t who Code.faultXlat s.plan := by
  refine Act.Does.get_bind ?_
  simp only [hOpen, Option.isSome_some, Bool.true_or, if_true]
  exact (epochStatus_does (.refl _ s) rfl (by decide)).bind fun _ _ h => Act.Does.pure ⟨rfl, h⟩

theorem abandonCommand_does (hOpen : s.plan.openEpoch = some e) :
    (abandonCommand who).Does s fun c t => c = Code.ok ∧
      s.EpochEnds t who Code.ok { s.plan with openEpoch := none, freeNodes := s.plan.freeNodes ++ e.created } := by
  refine Act.Does.get_bind ?_
  simp only [hOpen]
  refine Act.Does.modPlan_bind ?_
  exact (epochStatus_does (s.sameBut_plan (.refl _ s) _) rfl (by decide)).bind fun _ _ h => Act.Does.pure ⟨rfl, h⟩

theorem abandonCommand_refuses (hNone : s.plan.openEpoch = none) :
    (abandonCommand who).Does s fun c t => c = Code.ok ∧ s.EpochEnds t who Code.faultXlat s.plan := by
  refine Act.Does.get_bind ?_
  simp only [hNone]
  exact (epochStatus_does (.refl _ s) rfl (by decide)).bind fun _ _ h => Act.Does.pure ⟨rfl, h⟩

/-! ## OPEN_DEFERRED -/

/-- Releases keep the newest epoch, and every one that is held. -/
theorem releaseList_keeps : ∀ (n : Nat) (es : List Epoch) (f : List Nat),
    (releaseList n es f).1.length ≤ es.length ∧ (releaseList n es f).1.getLast? = es.getLast? ∧
      ∀ x ∈ es, x.holds ≠ 0 → x ∈ (releaseList n es f).1
  | 0, es, f => ⟨le_rfl, rfl, fun _ h _ => h⟩
  | n + 1, [], f => ⟨le_rfl, rfl, fun _ h _ => h⟩
  | n + 1, [e], f => ⟨le_rfl, rfl, fun _ h _ => h⟩
  | n + 1, e :: d :: t, f => by
    obtain ⟨hLength, hLast, hHeld⟩ := releaseList_keeps n (d :: t) (f ++ d.superseded)
    by_cases hFree : e.holds = 0
    · rw [releaseList, if_pos hFree]
      refine ⟨hLength.trans (Nat.le_succ _), hLast.trans List.getLast?_cons_cons.symm, fun x hx hHolds => ?_⟩
      rcases List.mem_cons.mp hx with rfl | hx
      · exact absurd hFree hHolds
      · exact hHeld x hx hHolds
    · rw [releaseList, if_neg hFree]
      exact ⟨le_rfl, rfl, fun _ h _ => h⟩

/-- Releasing begins with the oldest epoch where another follows and nobody holds it. -/
theorem releaseList_length {rest : List Epoch} {f : List Nat} {n : Nat} (hRest : rest ≠ []) (hFree : e.holds = 0) :
    (releaseList (n + 1) (e :: rest) f).1.length ≤ rest.length := by
  obtain ⟨d, l, rfl⟩ := List.exists_cons_of_ne_nil hRest
  rw [releaseList, if_pos hFree]
  exact (releaseList_keeps n (d :: l) _).1

/-- PLAN once its epochs have been released. -/
def Plan.released (p : Plan) : Plan :=
  { p with epochs := (releaseList p.epochs.length p.epochs p.freeNodes).1
           freeNodes := (releaseList p.epochs.length p.epochs p.freeNodes).2 }

theorem releaseEpochs_does (hIdle : s.plan.openWaiting = none) :
    releaseEpochs.Does s fun _ t => t = s.upd (.plan s.plan.released) := by
  refine Act.Does.get_bind (Act.Does.modPlan_bind ?_)
  split
  case h_1 w hWaits => exact absurd (hIdle ▸ hWaits) nofun
  case h_2 => exact Act.Does.pure rfl

theorem releaseEpochs_opens {w : Who} {rest : List Epoch} (hNone : s.plan.openEpoch = none) (hWaits : s.plan.openWaiting = some w)
    (hEpochs : s.plan.epochs = e :: rest) (hRest : rest ≠ []) (hFree : e.holds = 0) (hRoom : rest.length ≤ 63) :
    releaseEpochs.Does s fun _ t =>
      s.EpochEnds t w Code.ok { s.plan.released with openWaiting := none, openEpoch := some s.freshEpoch } := by
  have hLess : s.plan.released.epochs.length < 64 := by
    have := releaseList_length (n := rest.length) (f := s.plan.freeNodes) hRest hFree
    rw [← List.length_cons (a := e), ← hEpochs] at this
    exact Nat.lt_succ_of_le (this.trans hRoom)
  have hLast : s.plan.released.epochs.getLastD { num := 0 } = s.current := by
    rw [List.getLastD_eq_getLast?, State.current, List.getLastD_eq_getLast?]
    exact congrArg (fun o : Option Epoch => o.getD { num := 0 }) (releaseList_keeps _ _ _).2.1
  have hOpens : (decide ((releaseList s.plan.epochs.length s.plan.epochs s.plan.freeNodes).1.length < 64) &&
      s.plan.openEpoch.isNone) = true := by
    rw [hNone]
    exact (Bool.and_true _).trans (decide_eq_true hLess)
  refine Act.Does.get_bind (Act.Does.modPlan_bind ?_)
  split
  case h_2 hIdle => exact absurd (hWaits ▸ hIdle) nofun
  case h_1 v hIs =>
    obtain rfl : w = v := Option.some.inj (hWaits.symm.trans hIs)
    rw [if_pos hOpens]
    refine Act.Does.modPlan_bind ?_
    refine Act.Does.bind (Q := fun _ t => State.SameBut epochFields s t ∧
      t.plan = { s.plan.released with openWaiting := none, openEpoch := some s.freshEpoch })
      (Act.Does.get_bind (Act.Does.get_bind (Act.Does.make ⟨?_, ?_⟩))) fun _ u hu => epochStatus_does hu.1 hu.2 (by decide)
    · exact State.sameBut_plan (State.sameBut_plan (State.sameBut_plan (.refl _ s) _) _) _
    · rw [State.freshEpoch, ← hLast]
      rfl

/-! ## LAYERS and DIRTY -/

/-- An access that passes does so where addresses are reached alike and memory reads alike. -/
theorem State.SameReach.gets {v : Via} {n : Nat} {bs : List Byte} (hReach : s.SameReach t) (hMem : t.mem = s.mem)
    (h : s.gets v va n bs) : t.gets v va n bs := by
  obtain ⟨hSees, pa, entry, ⟨hVa, hViews, x, hFind, hOut, hWrite⟩, leaf, ⟨w, hWalk, hPa, hTier, hSound, hLeaf, hOk⟩, hLeafOut, hServes⟩ := h
  refine ⟨hReach.sees hMem hSees, pa, entry, ⟨hVa, hViews, x, hReach.xlat ▸ hFind, (hReach.leafOutcome ..).trans hOut, nofun⟩, leaf,
    ⟨w, hReach.xlat ▸ hWalk, hPa, ?_, hReach.sound hSound, ?_, hOk⟩, (hReach.leafOutcome ..).trans hLeafOut, ?_⟩
  · rwa [hReach.backed]
  · rwa [State.peekNat, State.peek, hMem]
  · rwa [hReach.retraining]

/-- The device with the argument of an epoch command in its registers. -/
def State.epochArgued (s : State) (who : Who) (va : Nat) : State :=
  (s.upd (.reg (Reg.off .epochVaLo who.val 0) (Word.ofNat va))).upd
    (.reg (Reg.off .epochVaHi who.val 0) (Word.ofNat (va / 2 ^ 32 % 2 ^ 16)))

theorem epochArg_epochArgued (hVa : va < 2 ^ 48) : (s.epochArgued who va).epochArg who = va := by
  have hOff : Reg.off .epochVaLo who.val 0 ≠ Reg.off .epochVaHi who.val 0 := by simp [Reg.off, Reg.row]
  simp only [State.epochArg, State.epochArgued, State.rf, State.rg_upd_reg, State.rg_upd_reg_other _ _ _ _ _ _ hOff]
  simp only [field, Word.ofNat, BitVec.toNat_ofNat]
  omega

theorem sameReach_epochArgued (who : Who) (va : Nat) : s.SameReach (s.epochArgued who va) := by
  have hWho := who.isLt
  refine (State.sameReach_upd_reg s _ (fun i hi => ?_) ?_).trans (State.sameReach_upd_reg _ _ (fun i hi => ?_) ?_) <;>
    simp [reachRegs, Reg.off, Reg.row] <;> omega

/-- A command that reads its argument does what its work does where nothing parks. -/
theorem argCommand_does {op : Nat} (hParked : p.parked = [])
    (h : (if op = 2 then layersNow who (u.epochArg who) else dirtyNow who (u.epochArg who)).Does u fun _ t => s.EpochEnds t who code p) :
    (argCommand who op).Does u fun c t => c = Code.ok ∧ s.EpochEnds t who code p :=
  Act.Does.get_bind (Act.Does.bind (unlessParked_does (h.mono fun _ t ht => ⟨ht, by rw [ht.plan, hParked]⟩))
    fun _ t ht => Act.Does.pure ⟨rfl, ht⟩)

theorem sameBut_epochArgued : State.SameBut epochFields s (s.epochArgued who va) :=
  ((State.SameBut.refl _ s).upd (by simp [Upd.fields, epochFields])).upd (by simp [Upd.fields, epochFields])

theorem planOwner_epochArgued : (s.epochArgued who va).planOwner = s.planOwner := by
  have hWho := who.isLt
  rw [State.planOwner, State.rf, State.epochArgued, State.rg_upd_reg_other _ _ _ _ _ _ (by simp only [Reg.off, Reg.row]; omega),
    State.rg_upd_reg_other _ _ _ _ _ _ (by simp only [Reg.off, Reg.row]; omega)]
  rfl

theorem State.EpochEnds.of_argued (h : (s.epochArgued who va).EpochEnds t who code p) : s.EpochEnds t who code p :=
  ⟨sameBut_epochArgued.trans h.same, h.plan, h.status⟩

/-- Without trouble there is none to take. -/
theorem takeTrouble_does (h : s.plan.trouble = none) : takeTrouble.Does s fun r t => r = none ∧ t = s := by
  refine Act.Does.get_bind (Act.Does.modPlan_bind (Act.Does.pure ⟨h, ?_⟩))
  rw [← h]
  rfl

theorem layersNow_does {b : List Byte} (hGets : s.gets (planVia s.planOwner) va 256 b) (hOpen : s.plan.openEpoch = some e)
    (hTrouble : s.plan.trouble = none) :
    (layersNow who va).Does s fun _ t => s.EpochEnds t who Code.ok { s.plan with openEpoch := some { e with layers := b } } := by
  have hSome : s.plan.openEpoch.isNone = false := by rw [hOpen]; rfl
  refine Act.Does.get_bind ?_
  simp only [hSome, Bool.false_eq_true, if_false]
  refine (planRead_does hGets (by decide) hTrouble).bind ?_
  rintro _ t ⟨rfl, rfl⟩
  refine (takeTrouble_does hTrouble).bind ?_
  rintro _ u ⟨rfl, rfl⟩
  refine Act.Does.modPlan_bind (epochStatus_does (u.sameBut_plan (.refl _ u) _) ?_ (by decide))
  simp [hOpen]

/-- Bounds that are numbers make their box without a free value. -/
theorem dirtyBounds_does {b : List Byte} (l : List Nat) (box : Box) (h : ∀ i ∈ l, fpNaN (Word.ofNat (natAt b (4 * i) 4)) = false) :
    (forIn l box fun i box => do
      let v ← dirtyBound (Word.ofNat (natAt b (4 * i) 4))
      pure (.yield (box ++ [v])) : Act Box).Does s fun r t =>
        r = box ++ l.map (fun i => coord (Word.ofNat (natAt b (4 * i) 4))) ∧ t = s := by
  induction l generalizing box with
  | nil => exact Act.Does.pure ⟨(List.append_nil box).symm, rfl⟩
  | cons i l ih =>
    have hBound : (dirtyBound (Word.ofNat (natAt b (4 * i) 4))).Does s fun r t => r = coord (Word.ofNat (natAt b (4 * i) 4)) ∧ t = s := by
      rw [dirtyBound, if_neg (by simp [h i List.mem_cons_self])]
      exact Act.Does.pure ⟨rfl, rfl⟩
    rw [List.forIn_cons]
    refine Act.Does.bind (Q := fun r t => r = .yield (box ++ [coord (Word.ofNat (natAt b (4 * i) 4))]) ∧ t = s) (hBound.bind ?_) ?_
    · rintro _ t ⟨rfl, rfl⟩
      exact Act.Does.pure ⟨rfl, rfl⟩
    · rintro _ t ⟨rfl, rfl⟩
      refine (ih _ fun j hj => h j (List.mem_cons_of_mem _ hj)).mono fun r u hu => ⟨?_, hu.2⟩
      rw [hu.1, List.append_assoc]
      rfl

theorem dirtyNow_does {b : List Byte} (hGets : s.gets (planVia s.planOwner) va 24 b) (hOpen : s.plan.openEpoch = some e)
    (hTrouble : s.plan.trouble = none) (hNumbers : ∀ i, i < 6 → fpNaN (Word.ofNat (natAt b (4 * i) 4)) = false) :
    (dirtyNow who va).Does s fun _ t => s.EpochEnds t who Code.ok { s.plan with openEpoch := some { e with
      dirty := addBox e.dirty ((List.range 6).map fun i => coord (Word.ofNat (natAt b (4 * i) 4))) } } := by
  have hSome : s.plan.openEpoch.isNone = false := by rw [hOpen]; rfl
  refine Act.Does.get_bind ?_
  simp only [hSome, Bool.false_eq_true, if_false]
  refine (planRead_does hGets (by decide) hTrouble).bind ?_
  rintro _ t ⟨rfl, rfl⟩
  refine (takeTrouble_does hTrouble).bind ?_
  rintro _ u ⟨rfl, rfl⟩
  refine (dirtyBounds_does _ [] fun i hi => hNumbers i (List.mem_range.mp hi)).bind ?_
  rintro _ v ⟨rfl, rfl⟩
  refine Act.Does.modPlan_bind (epochStatus_does (v.sameBut_plan (.refl _ v) _) ?_ (by decide))
  simp [hOpen]

/-- Without an open epoch a command that reads its argument is refused. -/
theorem argNow_refuses {op : Nat} (hNone : s.plan.openEpoch = none) :
    (if op = 2 then layersNow who va else dirtyNow who va).Does s fun _ t => s.EpochEnds t who Code.faultXlat s.plan := by
  have hNot : s.plan.openEpoch.isNone = true := by rw [hNone]; rfl
  split
  · refine Act.Does.get_bind ?_
    simp only [hNot, if_true]
    exact epochStatus_does (.refl _ s) rfl (by decide)
  · refine Act.Does.get_bind ?_
    simp only [hNot, if_true]
    exact epochStatus_does (.refl _ s) rfl (by decide)

/-! ## PUBLISH -/

/-- PLAN while PUBLISH takes effect: `e` is the newest epoch, whoever holds it, and the watches are `ws`. -/
structure State.Publishing (s t : State) (e : Epoch) (ws : Sparse Watch) : Prop where
  same : State.SameBut [.plan] s t
  plan : ∃ es f, t.plan = { s.plan with epochs := es, freeNodes := f, watches := ws } ∧
    ∃ h, es.getLast? = some { e with holds := h }

variable {ws : Sparse Watch}

theorem State.Publishing.upd {es : List Epoch} {f : List Nat} {ws' : Sparse Watch} {h : Nat} (hu : s.Publishing u e ws)
    (hPlan : p = { s.plan with epochs := es, freeNodes := f, watches := ws' }) (hLast : es.getLast? = some { e with holds := h }) :
    s.Publishing (u.upd (.plan p)) e ws' :=
  ⟨hu.same.upd (by simp [Upd.fields]), es, f, hPlan, h, hLast⟩

/-- Epochs whose holds change keep their newest one but for its holds. -/
theorem getLast?_map_holds {es : List Epoch} {h n : Nat} (g : Nat → Nat) (hLast : es.getLast? = some { e with holds := h }) :
    ∃ h', (es.map fun x => if x.num = n then { x with holds := g x.holds } else x).getLast? = some { e with holds := h' } := by
  rw [List.getLast?_map, hLast, Option.map_some]
  split
  · exact ⟨g h, rfl⟩
  · exact ⟨h, rfl⟩

theorem hold_publishing (hu : s.Publishing u e ws) (n : Nat) : (hold n).Does u fun _ t => s.Publishing t e ws := by
  obtain ⟨es, f, hPlan, h, hLast⟩ := hu.plan
  obtain ⟨h', hLast'⟩ := getLast?_map_holds (n := n) (· + 1) hLast
  exact Act.Does.get_bind (Act.Does.make (hu.upd (by rw [hPlan]) hLast'))

theorem releaseEpochs_publishing (hu : s.Publishing u e ws) (hIdle : s.plan.openWaiting = none) :
    releaseEpochs.Does u fun _ t => s.Publishing t e ws := by
  obtain ⟨es, f, hPlan, h, hLast⟩ := hu.plan
  refine (releaseEpochs_does (by rw [hPlan]; exact hIdle)).mono ?_
  rintro _ t rfl
  rw [hPlan]
  exact hu.upd rfl ((releaseList_keeps _ es f).2.1.trans hLast)

theorem dropHold_publishing (hu : s.Publishing u e ws) (hIdle : s.plan.openWaiting = none) (n : Nat) :
    (dropHold n).Does u fun _ t => s.Publishing t e ws := by
  obtain ⟨es, f, hPlan, h, hLast⟩ := hu.plan
  obtain ⟨h', hLast'⟩ := getLast?_map_holds (n := n) (· - 1) hLast
  exact Act.Does.modPlan_bind (releaseEpochs_publishing (hu.upd (by rw [hPlan]) hLast') hIdle)

/-- What an enabled watch takes from a publish of `e`. -/
def State.latched (s : State) (e : Epoch) (l : Nat) (w : Watch) : Watch :=
  { w with latchedVa := some ((s.rg .watchVaLo l).toNat + s.rf .watchVaHi l 15 0 * 2 ^ 32), publishAt := s.ns
           held := some e.num, boxes := w.boxes ++ e.dirty }

theorem latchWatches_does (hCurrent : s.current = e) (hs : s.Publishing s e s.plan.watches) (hIdle : s.plan.openWaiting = none) :
    latchWatches.Does s fun _ t => ∃ ws, s.Publishing t e ws ∧ ∀ l, l < 16 → ws.at l {} =
      if flag (s.rg .watchCfg l) 0 then s.latched e l (s.plan.watches.at l {}) else s.plan.watches.at l {} := by
  refine Act.Does.get_bind ?_
  refine (Act.Does.forIn_range (I := fun k _ t => ∃ ws, s.Publishing t e ws ∧ ∀ l, l < 16 → ws.at l {} =
      if l < k ∧ flag (s.rg .watchCfg l) 0 then s.latched e l (s.plan.watches.at l {}) else s.plan.watches.at l {})
      ⟨_, hs, fun l _ => by simp⟩ fun k hk b u hu => ?_).mono ?_
  · obtain ⟨ws, hu, hWs⟩ := hu
    refine Act.Does.ite (fun hOn => ?_) fun hOff => Act.Does.pure ⟨_, rfl, ws, hu, fun l hl => ?_⟩
    · refine (hold_publishing hu _).bind fun _ v hv => ?_
      obtain ⟨es, f, hPlan, h, hLast⟩ := hv.plan
      have hSet : v.plan.watches = ws := by rw [hPlan]
      have hPut : ∀ l, l < 16 → (ws.put k (s.latched e k (ws.at k {}))).at l {} =
          if l < k + 1 ∧ flag (s.rg .watchCfg l) 0 then s.latched e l (s.plan.watches.at l {}) else s.plan.watches.at l {} := by
        intro l hl
        by_cases hEq : l = k
        · subst hEq
          rw [Sparse.at_put_same, hWs l hl, if_neg (by simp), if_pos ⟨Nat.lt_succ_self l, hOn⟩]
        · rw [Sparse.at_put_other _ _ _ hEq, hWs l hl]
          have hLess : l < k + 1 ↔ l < k := by omega
          simp only [hLess]
      refine Act.Does.modPlan_bind ?_
      have hNew : s.Publishing (v.upd (.plan { v.plan with watches := ws.put k (s.latched e k (ws.at k {})) })) e
          (ws.put k (s.latched e k (ws.at k {}))) := hv.upd (by rw [hPlan]) hLast
      rw [hCurrent, hSet]
      split
      · exact (dropHold_publishing hNew hIdle _).bind fun _ t ht => Act.Does.pure ⟨_, rfl, _, ht, hPut⟩
      · exact Act.Does.pure_bind (Act.Does.pure ⟨_, rfl, _, hNew, hPut⟩)
    · rw [hWs l hl]
      have hLess : l < k + 1 ∧ flag (s.rg .watchCfg l) 0 = true ↔ l < k ∧ flag (s.rg .watchCfg l) 0 = true := by
        refine ⟨fun h => ⟨?_, h.2⟩, fun h => ⟨by omega, h.2⟩⟩
        rcases Nat.lt_succ_iff_lt_or_eq.mp h.1 with h' | rfl
        · exact h'
        · exact absurd h.2 hOff
      simp only [hLess]
  · rintro _ t ⟨ws, ht, hWs⟩
    refine ⟨ws, ht, fun l hl => ?_⟩
    rw [hWs l hl]
    simp only [hl, true_and]

/-- Without requests under way PUBLISH begins no round. -/
theorem publishRounds_does (h : s.plan.requests = []) : publishRounds.Does s fun _ t => t = s := by
  have hOrder : s.planOrder = [] := by simp [State.planOrder, h]
  refine Act.Does.get_bind ?_
  rw [hOrder]
  exact Act.Does.pure rfl

/-- PLAN once the open epoch `e` is the newest one. -/
def Plan.published (p : Plan) (e : Epoch) : Plan := { p with epochs := p.epochs ++ [e], openEpoch := none }

/-- PUBLISH leaves PLAN's work as it was, the epoch current, and the watches latched. -/
structure State.Published (s t : State) (who : Who) (e : Epoch) : Prop where
  ends : s.EpochEnds t who Code.ok t.plan
  plan : ∃ es f ws, t.plan = { s.plan with epochs := es, freeNodes := f, watches := ws, openEpoch := none }
  current : t.current = { e with holds := t.current.holds }
  watches : ∀ l, l < 16 → t.plan.watches.at l {} =
    if flag (s.rg .watchCfg l) 0 then s.latched e l (s.plan.watches.at l {}) else s.plan.watches.at l {}

theorem publishCommand_does (hOpen : s.plan.openEpoch = some e) (hUpdates : s.plan.updates.isEmpty = true)
    (hIdle : s.plan.openWaiting = none) (hRequests : s.plan.requests = []) :
    (publishCommand who).Does s fun c t => c = Code.ok ∧ s.Published t who e := by
  refine Act.Does.get_bind ?_
  simp only [hOpen, hUpdates, Bool.not_true, Bool.false_eq_true, if_false]
  refine Act.Does.modPlan_bind ?_
  refine Act.Does.bind (Q := fun _ u => u = (s.upd (.plan (s.plan.published e))).epochCoded who Code.ok)
    (Act.Does.get_bind (Act.Does.make rfl)) ?_
  rintro _ u hu
  obtain ⟨hSame, hPlan, hStatus⟩ : s.EpochEnds u who Code.ok (s.plan.published e) :=
    hu ▸ State.epochEnds_epochCoded (s.sameBut_plan (.refl _ s) _) rfl (by decide)
  have hCurrent : u.current = e := by rw [State.current, hPlan]; exact List.getLastD_concat
  have hStart : u.Publishing u e u.plan.watches :=
    ⟨.refl _ u, u.plan.epochs, u.plan.freeNodes, rfl, e.holds, by rw [hPlan]; exact List.getLast?_concat⟩
  have hWaits : u.plan.openWaiting = none := by rw [hPlan]; exact hIdle
  refine (latchWatches_does hCurrent hStart hWaits).bind fun _ v hv => ?_
  obtain ⟨ws, hv, hWs⟩ := hv
  have hNone : v.plan.requests = [] := by
    obtain ⟨es, f, hv', _⟩ := hv.plan
    rw [hv', hPlan]
    exact hRequests
  refine (publishRounds_does hNone).bind ?_
  rintro _ x rfl
  refine (releaseEpochs_publishing hv hWaits).bind fun _ t ht => Act.Does.pure ⟨rfl, ?_⟩
  obtain ⟨es, f, hPlanT, h, hLast⟩ := ht.plan
  have hRegs : t.regs = u.regs := ht.same .regs (by decide)
  refine ⟨⟨hSame.trans (ht.same.mono (by decide)), rfl, ?_⟩, ⟨es, f, ws, ?_⟩, ?_, fun l hl => ?_⟩
  · rw [State.rf, State.rg, hRegs]
    exact hStatus
  · rw [hPlanT, hPlan]
    rfl
  · rw [State.current, hPlanT]
    simp [List.getLastD_eq_getLast?, hLast]
  · have hReg (r : Reg) (h : r.off l 0 ≠ Reg.off .epochStatus who.val 0) : u.rg r l = s.rg r l := by
      rw [hu, State.epochCoded, State.rg_upd_reg_other _ _ _ _ _ _ h]
      rfl
    have hWho := who.isLt
    have hCfg : u.rg .watchCfg l = s.rg .watchCfg l := hReg _ (by simp only [Reg.off, Reg.row]; omega)
    have hLo : u.rg .watchVaLo l = s.rg .watchVaLo l := hReg _ (by simp only [Reg.off, Reg.row]; omega)
    have hHi : u.rg .watchVaHi l = s.rg .watchVaHi l := hReg _ (by simp only [Reg.off, Reg.row]; omega)
    have hLatched (w : Watch) : u.latched e l w = s.latched e l w := by
      simp only [State.latched, State.rf, hLo, hHi]
      rw [hu]
      rfl
    rw [hPlanT, hWs l hl, hCfg, hLatched, hPlan]
    rfl

/-- A command that changes only PLAN's epochs and watches leaves nothing open that would be settled. -/
theorem State.SameBut.quiet_epochs {b : BusResult} {es : List Epoch} {f : List Nat} {ws : Sparse Watch} {o : Option Epoch}
    (hSame : State.SameBut epochFields s t)
    (hPlan : t.plan = { s.plan with epochs := es, freeNodes := f, watches := ws, openEpoch := o }) (hQuiet : s.quiet = true) :
    (t.upd (.bus who.val b)).quiet = true := by
  have hFlying : t.flying = s.flying := hSame .flying (by decide)
  have hCtxs : t.ctxs = s.ctxs := hSame .ctxs (by decide)
  have hGrid : t.grid = s.grid := hSame .grid (by decide)
  have hXlat : t.xlat = s.xlat := hSame .xlat (by decide)
  change t.quiet = true
  rw [← hQuiet, State.quiet, State.quiet, hFlying, hCtxs, hGrid, hXlat, hPlan]

theorem publishCommand_refuses (hNone : s.plan.openEpoch = none) :
    (publishCommand who).Does s fun c t => c = Code.ok ∧ s.EpochEnds t who Code.faultXlat s.plan := by
  refine Act.Does.get_bind ?_
  simp only [hNone]
  exact (epochStatus_does (.refl _ s) rfl (by decide)).bind fun _ _ h => Act.Does.pure ⟨rfl, h⟩

/-! ## The commands -/

/-- What rests when nothing waits to be settled (R216, R312). -/
theorem State.quiet_plan (h : s.quiet = true) :
    s.plan.updates.isEmpty = true ∧ s.plan.cmds = [] ∧ s.plan.parked = [] ∧ s.plan.trouble = none := by
  simp only [State.quiet, Bool.and_eq_true, List.isEmpty_iff, Option.isNone_iff_eq_none] at h
  simp [h]

end

/-- Settles O38: each command by what its body does; the holds that PUBLISH takes and drops change no epoch but in its
holds, and releases keep the newest. -/
theorem epochCommandsMakeEpochs : Obligations.EpochCommandsMakeEpochs := by
  intro s who va hTakes hCalm
  obtain ⟨hOnTime, hQuiet⟩ := State.calm_iff.mp hCalm
  obtain ⟨hUpdates, hCmds, hParked, hTrouble⟩ := State.quiet_plan hQuiet
  have hGetsArgued {n : Nat} {b : List Byte} (h : s.gets (planVia s.planOwner) va n b) :
      (s.epochArgued who va).gets (planVia (s.epochArgued who va).planOwner) va n b := by
    rw [planOwner_epochArgued]
    exact (sameReach_epochArgued who va).gets rfl h
  refine ⟨fun hNone hIdle => ⟨fun hRoom => ?_, fun hFull => ?_⟩, ?_, fun e hOpen => ⟨?_, ?_, ?_, ?_, ?_⟩, fun hNone c hc => ?_⟩
  · exact State.does_of rfl (epochCommand_does hTakes hCmds (openCommand_opens hNone hIdle hRoom))
  · exact State.does_of rfl (epochCommand_does hTakes hCmds (openCommand_waits hNone hIdle hFull))
  · intro w e rest hNone hWaits hEpochs hRest hFree hRoom
    refine State.does_of rfl ((releaseEpochs_opens hNone hWaits hEpochs hRest hFree hRoom).mono fun _ t ht => ?_)
    obtain ⟨hLength, hLast, hHeld⟩ := releaseList_keeps s.plan.epochs.length s.plan.epochs s.plan.freeNodes
    have hLess : t.plan.epochs.length < 64 := by
      rw [ht.plan]
      have := releaseList_length (n := rest.length) (f := s.plan.freeNodes) hRest hFree
      rw [← List.length_cons (a := e), ← hEpochs] at this
      exact Nat.lt_succ_of_le (this.trans hRoom)
    refine ⟨State.ext_fld fun f => ?_, by rw [ht.plan], by rw [ht.plan]; rfl, hLess, ?_, fun x hx hHolds => ?_, ht.status⟩
    · cases f with
      | plan | regs => rfl
      | _ => exact ht.same _ (by decide)
    · rw [State.current, ht.plan, State.current, List.getLastD_eq_getLast?, List.getLastD_eq_getLast?]
      exact congrArg (fun o : Option Epoch => o.getD { num := 0 }) hLast
    · rw [ht.plan]
      exact hHeld x hx hHolds
  · intro b hGets
    have hArg : ((s.epochArgued who va).epochArg who) = va := epochArg_epochArgued hGets.1.1
    refine State.does_of rfl (epochCommand_does hTakes hCmds (Act.Does.reg_bind (Act.Does.reg_bind (argCommand_does (u := s.epochArgued who va) hParked
      (Act.Does.ite (fun _ => ?_) fun h => absurd rfl h)))))
    rw [hArg]
    exact (layersNow_does (hGetsArgued hGets) hOpen hTrouble).mono fun _ _ ht => ht.of_argued
  · intro b hGets hNumbers
    have hArg : ((s.epochArgued who va).epochArg who) = va := epochArg_epochArgued hGets.1.1
    refine State.does_of rfl (epochCommand_does hTakes hCmds (Act.Does.reg_bind (Act.Does.reg_bind (argCommand_does (u := s.epochArgued who va) hParked
      (Act.Does.ite (fun h => absurd h (by decide)) fun _ => ?_)))))
    rw [hArg]
    exact (dirtyNow_does (hGetsArgued hGets) hOpen hTrouble hNumbers).mono fun _ _ ht => ht.of_argued
  · intro hIdle hRequests
    refine State.does_of rfl (settled_does hOnTime (command_does hTakes
      ((publishCommand_does hOpen hUpdates hIdle hRequests).mono ?_)))
    rintro _ t ⟨rfl, ht⟩
    obtain ⟨es, f, ws, hPlan⟩ := ht.plan
    have hNone : t.plan.openEpoch = none := by rw [hPlan]
    exact ⟨⟨(ht.ends.done (by rw [hPlan]; exact hCmds)).1, ht.current, hNone, ht.watches⟩, ht.ends.same.quiet_epochs hPlan hQuiet⟩
  · exact State.does_of rfl (epochCommand_does hTakes hCmds (abandonCommand_does hOpen))
  · exact State.does_of rfl (epochCommand_does hTakes hCmds (openCommand_refuses hOpen))
  · have hRefuses {op : Nat} : (argCommand who op).Does (s.epochArgued who va) fun c t =>
        c = Code.ok ∧ s.EpochEnds t who Code.faultXlat s.plan :=
      argCommand_does hParked ((argNow_refuses (s := s.epochArgued who va) hNone).mono fun _ _ ht => ht.of_argued)
    simp only [List.mem_cons, List.not_mem_nil, or_false] at hc
    rcases hc with rfl | rfl | rfl | rfl
    · exact State.does_of rfl (epochCommand_does hTakes hCmds (Act.Does.reg_bind (Act.Does.reg_bind hRefuses)))
    · exact State.does_of rfl (epochCommand_does hTakes hCmds (Act.Does.reg_bind (Act.Does.reg_bind hRefuses)))
    · refine State.does_of rfl (settled_does hOnTime (command_does hTakes ((publishCommand_refuses hNone).mono ?_)))
      rintro _ t ⟨rfl, ht⟩
      exact ⟨ht.done hCmds, ht.same.quiet_epochs ht.plan hQuiet⟩
    · exact State.does_of rfl (epochCommand_does hTakes hCmds (abandonCommand_refuses hNone))

end Sys2Proof.Machine

/-!
PROOF. A tile of a barge lands: a barge whose page lies in a view (R139, R217).
-/
namespace Sys2Proof.Machine

/-- The leaf of PSRAM tile `n`, writable. -/
def tileLeaf (n : Nat) : BitVec 64 := BitVec.ofNat 64 (psramBase + n * 65536 + 3)

/-- A barge of one tile of context 1 from page 1 to page 2. Page 2 lies in a view whose block is empty. -/
def viewedBarge : Barge :=
  { ctx := 1, desc := { src := 0x1_0000, dst := 0x2_0000 }, views := [{ va := 0x2_0000, tpf := 1, blocks := 1, kvVa := 0, area := 0 }] }

/-- Pages 1 and 2 are tiles 500 and 502, and the barge is in flight. -/
def fliesViewed : State :=
  { State.reset with
    ctxs := [(1, { st := .ready }), (1023, Context.migration)]
    flying := [(8, viewedBarge)]
    xlat := { tlb := [{ stop := Stop.barge, ctx := 1, page := 1, leaf := tileLeaf 500, dirtied := true },
      { stop := Stop.barge, ctx := 1, page := 2, leaf := tileLeaf 502, dirtied := true }] } }

/-- The barge in slot 8 holds no landed tile. -/
def landsNothing : Host.Outcome State Fault Refusal → Bool
  | .next t => (t.flying.find 8).all (·.landed = [])
  | _ => false

/-- The write to an empty block of a view is refused. -/
theorem fliesViewed_landsNothing : landsNothing (exec (.bargeTileLand 8 0) fliesViewed) = true := by decide +kernel

/-- Refutes O28: a barge's accesses go through its views, of which the statement's `bargeVia` has none. -/
theorem not_tileLandsWhole : ¬ Obligations.TileLandsWhole := by
  intro h
  have hSound : fliesViewed.sound (psramBase + 500 * 65536) 65536 :=
    ⟨fun _ hf => absurd hf List.not_mem_nil, by decide +kernel, by decide +kernel, by decide +kernel⟩
  have hServes (a : Nat) : fliesViewed.retraining a = false := by simp [State.retraining, fliesViewed, State.reset, Sparse.at]
  obtain ⟨t, hExec, -, -, hLands, -⟩ := (h fliesViewed 8 (psramBase + 500 * 65536) (psramBase + 502 * 65536) viewedBarge
    (by constructor <;> decide +kernel) (by decide +kernel) rfl rfl rfl rfl rfl rfl rfl rfl rfl rfl rfl rfl rfl
    ⟨by decide, rfl, _, rfl, by decide +kernel, by decide +kernel⟩ ⟨by decide, rfl, _, rfl, by decide +kernel, by decide +kernel⟩
    (by decide +kernel) (by decide +kernel) (by decide +kernel) (by decide +kernel) (by decide +kernel) hSound (by decide +kernel)
    hServes).1
  have hNothing := fliesViewed_landsNothing
  rw [hExec] at hNothing
  simp [landsNothing, hLands] at hNothing

end Sys2Proof.Machine

/-!
PROOF. MIGRATE moves a page that one context maps (R224).
-/
namespace Sys2Proof.Machine

section
variable {s t u : State} {c pa old new n leaf : Nat} {bs : List Byte}

/-! ## Memory without a flipped word -/

/-- No word is flipped, and none is to be. -/
def State.unflipped (s : State) : Prop := s.flips = [] ∧ s.faults.inject = none

theorem freshCheck_unflipped (h : s.unflipped) : (freshCheck pa n).Does s fun _ t => t = s := by
  refine Act.Does.get_bind ?_
  simp only [h.1, h.2]
  exact Act.Does.pure_bind (Act.Does.pure rfl)

theorem writePhys_unflipped (h : s.unflipped) : (writePhys pa bs).Does s fun _ t => t = s.upd (.mem pa bs) :=
  Act.Does.make_bind (freshCheck_unflipped h)

theorem copyPhys_unflipped (h : s.unflipped) : (copyPhys old new n).Does s fun _ t => t = s.upd (.copy old new n) := by
  refine Act.Does.get_bind (Act.Does.make_bind ((freshCheck_unflipped (s := s.upd (.copy old new n)) h).bind ?_))
  rintro _ t rfl
  rw [h.1]
  exact Act.Does.pure rfl

/-- A tile that is sound and has no copy is read as it is stored. -/
theorem readCopy_does (hSound : s.sound pa n) (hCopy : s.mirrored pa = false) :
    (readCopy pa n).Does s fun r t => r = (s.peek pa n, none, false) ∧ t = s := by
  obtain ⟨hFlips, hGone, hFlash, -⟩ := hSound
  have hLives : s.copyLives pa = false := by simp [State.copyLives, hCopy]
  refine Act.Does.get_bind ?_
  simp only [hGone, hFlash, Bool.or_self, Bool.false_eq_true, if_false]
  refine (readPhys_does pa n hFlips).bind ?_
  rintro _ t ⟨rfl, rfl⟩
  simp only [hLives, Bool.false_and, Bool.false_eq_true, if_false]
  exact Act.Does.pure ⟨rfl, rfl⟩

/-! ## What a move leaves -/

/-- A page is on its way: memory is `m`, and of the rest only tags and the accounts of contexts have changed. -/
structure State.Moving (s : State) (m : List Host.Cell) (t : State) : Prop where
  same : State.SameBut [.mem, .xlat, .ctxs] s t
  mem : t.mem = m
  quiet : s.quiet = true → t.quiet = true
  tlb : t.xlat.tlb = s.xlat.tlb
  pulls : t.xlat.pulls = s.xlat.pulls

variable {m : List Host.Cell}

theorem State.Moving.refl (s : State) : s.Moving s.mem s := ⟨.refl _ s, rfl, id, rfl, rfl⟩

theorem State.Moving.unflipped (h : s.Moving m t) (hClean : s.unflipped) : t.unflipped := by
  rw [State.unflipped, show t.flips = s.flips from h.same .flips (by decide), show t.faults = s.faults from h.same .faults (by decide)]
  exact hClean

theorem writePhys_moving (h : s.Moving m t) (hClean : s.unflipped) :
    (writePhys pa bs).Does t fun _ u => s.Moving (Memory.store 0 m pa bs) u := by
  refine (writePhys_unflipped (h.unflipped hClean)).mono ?_
  rintro _ u rfl
  exact ⟨h.same.upd (by simp [Upd.fields]), congrArg (Memory.store 0 · pa bs) h.mem, h.quiet, h.tlb, h.pulls⟩

theorem copyPhys_moving (h : s.Moving m t) (hClean : s.unflipped) :
    (copyPhys old new n).Does t fun _ u => s.Moving (Memory.copy m old new n) u := by
  refine (copyPhys_unflipped (h.unflipped hClean)).mono ?_
  rintro _ u rfl
  exact ⟨h.same.upd (by simp [Upd.fields]), congrArg (Memory.copy · old new n) h.mem, h.quiet, h.tlb, h.pulls⟩

theorem State.Moving.ctx {x : Context} (h : s.Moving m t) (hKern : x.kern = (t.ctx c).kern) : s.Moving m (t.upd (.ctx c x)) := by
  refine ⟨h.same.upd (by simp [Upd.fields]), h.mem, fun hQuiet => State.quiet_upd_ctx (h.quiet hQuiet) ?_, h.tlb, h.pulls⟩
  rw [hKern]
  exact State.not_settles_of_quiet (h.quiet hQuiet) c

theorem accountBytes_moving (h : s.Moving m t) (hTier : regionAt pa = some .psram) :
    (accountBytes c pa n).Does t fun _ u => s.Moving m u ∧ ∃ x y, u = (t.upd (.ctx c x)).upd (.ctx c y) := by
  have hAccount : tierAccount pa = some 10 := by rw [tierAccount, hTier]
  unfold accountBytes
  rw [hAccount]
  refine Act.Does.modCtx_bind (Act.Does.ite (fun _ => Act.Does.get_bind (Act.Does.make ⟨?_, _, _, rfl⟩)) fun hNot => absurd (by decide) hNot)
  refine State.Moving.ctx (State.Moving.ctx h ?_) ?_ <;> rfl

theorem setTag_moving {state slot : Nat} (h : s.Moving m t) : (setTag pa state slot).Does t fun _ u => s.Moving m u := by
  refine Act.Does.get_bind ?_
  have hXlat {x : Xlat} (hTlb : x.tlb = t.xlat.tlb) (hPulls : x.pulls = t.xlat.pulls) (hSubs : x.subs = t.xlat.subs)
      (hWaiting : x.waiting = t.xlat.waiting) : s.Moving m (t.upd (.xlat x)) := by
    refine ⟨h.same.upd (by simp [Upd.fields]), h.mem, fun hQuiet => ?_, hTlb.trans h.tlb, hPulls.trans h.pulls⟩
    rw [← h.quiet hQuiet, State.quiet, State.quiet, ← hSubs, ← hWaiting]
    rfl
  split
  · exact Act.Does.make (hXlat rfl rfl rfl rfl)
  · exact Act.Does.ite (fun _ => Act.Does.make (hXlat rfl rfl rfl rfl)) fun _ => Act.Does.pure h

/-- A tile that may move goes to a tile of PSRAM. -/
theorem moveTile_does (h : s.Moving m t) (hClean : s.unflipped) (hGo : t.moveOutcome old new = .go) (hSound : t.sound old 65536)
    (hCopy : t.mirrored old = false) (hOld : regionAt old = some .psram) (hNew : regionAt new = some .psram) :
    (moveTile old new).Does t fun r u => r = none ∧ s.Moving (Memory.copy m old new 65536) u := by
  have hIn : inTier old = true ∧ inTier new = true := by simp [inTier, hOld, hNew]
  refine Act.Does.get_bind ?_
  simp only [hGo]
  refine (accountBytes_moving h hOld).bind ?_
  rintro _ a ⟨ha, x, y, rfl⟩
  refine (readCopy_does (s := (t.upd (.ctx 1023 x)).upd (.ctx 1023 y)) hSound hCopy).bind ?_
  rintro _ b ⟨rfl, rfl⟩
  refine (accountBytes_moving ha hNew).bind ?_
  rintro _ d ⟨hd, -⟩
  simp only [hIn, Bool.and_self, Bool.not_false, if_true]
  refine Act.Does.bind (Q := fun r u => r = Code.ok ∧ s.Moving (Memory.copy m old new 65536) u)
    ((copyPhys_moving hd hClean).bind fun _ _ hu => Act.Does.pure ⟨rfl, hu⟩) ?_
  rintro _ f ⟨rfl, hf⟩
  refine Act.Does.ite (fun hNot => absurd rfl hNot) fun _ => Act.Does.ite (fun _ => ?_) fun _ => Act.Does.pure ⟨rfl, hf⟩
  exact (setTag_moving hf).bind fun _ u hu => Act.Does.pure ⟨rfl, hu⟩

/-- The leaf of a page that moves, under MOVING. -/
def movingLeaf (leaf : Nat) : List Byte := bytesOf 8 (BitVec.ofNat 64 leaf ||| (16#64)).toNat

/-- A leaf without MOVING, below 2^64, is as it was once MOVING has been taken away. -/
theorem leaf_without_moving (hLess : leaf < 2 ^ 64) (hStill : flag (BitVec.ofNat 64 leaf) 4 = false) :
    (BitVec.ofNat 64 leaf &&& ~~~(16#64)).toNat = leaf := by
  have hSame : BitVec.ofNat 64 leaf &&& ~~~(16#64) = BitVec.ofNat 64 leaf := by
    refine BitVec.eq_of_getLsbD_eq fun i hi => ?_
    have hMask : (16#64).getLsbD i = decide (i = 4) := by
      interval_cases i <;> rfl
    simp only [BitVec.getLsbD_and, BitVec.getLsbD_not, hi, decide_true, Bool.true_and, hMask]
    by_cases hEq : i = 4
    · subst hEq
      rw [show (BitVec.ofNat 64 leaf).getLsbD 4 = false from hStill, Bool.false_and]
    · simp [hEq]
  rw [hSame, BitVec.toNat_ofNat, Nat.mod_eq_of_lt hLess]

/-- Memory once the page of one leaf has moved. -/
def State.movedMem (s : State) (pa leaf old new : Nat) : List Host.Cell :=
  Memory.store 0 (Memory.copy (Memory.store 0 s.mem pa (movingLeaf leaf)) old new 65536) pa (bytesOf 8 (leaf - tilePa leaf + new))

theorem moveMapped_does (hClean : s.unflipped) (hMaps : s.mappings old = [(pa, leaf)]) (hGo : s.moveOutcome old new = .go)
    (hSound : s.sound old 65536) (hCopy : s.mirrored old = false) (hOld : regionAt old = some .psram)
    (hNew : regionAt new = some .psram) (hLess : leaf < 2 ^ 64) (hStill : flag (BitVec.ofNat 64 leaf) 4 = false) :
    (moveMapped old new).Does s fun r t => r = none ∧ State.SameBut [.mem, .xlat, .ctxs] s t ∧
      t.mem = s.movedMem pa leaf old new ∧ (s.quiet = true → t.quiet = true) ∧
      t.xlat.tlb = s.xlat.tlb.filter (fun x => tilePa x.leaf.toNat ≠ old) ∧ t.xlat.pulls = s.xlat.pulls := by
  refine Act.Does.get_bind ?_
  simp only [hMaps]
  refine Act.Does.bind (Q := fun _ t => t = s.upd (.mem pa (movingLeaf leaf))) (Act.Does.loop_one ?_) ?_
  · refine (writePhys_unflipped hClean).bind ?_
    rintro _ t rfl
    exact Act.Does.pure ⟨rfl, rfl⟩
  rintro _ t rfl
  have hStart : s.Moving (Memory.store 0 s.mem pa (movingLeaf leaf)) (s.upd (.mem pa (movingLeaf leaf))) :=
    ⟨(State.SameBut.refl _ s).upd (by simp [Upd.fields]), rfl, id, rfl, rfl⟩
  refine (moveTile_does hStart hClean hGo hSound hCopy hOld hNew).bind ?_
  rintro _ u ⟨rfl, hu⟩
  refine Act.Does.bind (Q := fun _ v => s.Moving (s.movedMem pa leaf old new) v) (Act.Does.loop_one ?_) ?_
  · refine (writePhys_moving hu hClean).bind fun _ v hv => Act.Does.pure ⟨rfl, ?_⟩
    simp only [leaf_without_moving hLess hStill, Option.isNone_none, if_true] at hv
    exact hv
  rintro _ v hv
  refine Act.Does.get_bind (Act.Does.make_bind (Act.Does.pure ⟨rfl, hv.same.upd (by simp [Upd.fields]), hv.mem, fun hQuiet => ?_, ?_, hv.pulls⟩))
  · rw [← hv.quiet hQuiet]
    rfl
  · rw [← hv.tlb]
    rfl

end

/-- Settles O26: MOVING enters the leaf and leaves it with the new tile, and between these the tile's bytes are copied. -/
theorem migrationMovesThePage : Obligations.MigrationMovesThePage := by
  intro s c page new leaf pa _ hCalm hFlips hInject hWalks hMaps hStill hPin hOld hSound hGo hWaits hCopy hTakes hNew hApart
  obtain ⟨hOnTime, hQuiet⟩ := State.calm_iff.mp hCalm
  obtain ⟨hLess, hFlag⟩ : leaf < 2 ^ 64 ∧ flag (BitVec.ofNat 64 leaf) 2 = false := by
    obtain ⟨_, _, _, _, _, _, hOk, hFlag⟩ := hWalks
    simp only [leafOk, Bool.and_eq_true, decide_eq_true_eq] at hOk
    exact ⟨by omega, hFlag⟩
  have hStays : (flag (BitVec.ofNat 64 leaf) 2 || s.pinned (tilePa leaf) || decide (regionAt (tilePa leaf) = some .slice)) = false := by
    simp [hFlag, hPin, hOld]
  refine State.does_of rfl (settled_does hOnTime ((walkLeaf_does hWalks).bind ?_))
  rintro _ t ⟨rfl, rfl⟩
  refine Act.Does.get_bind ?_
  simp only [hStays, hTakes, hWaits, Bool.not_true, Bool.false_eq_true, if_false]
  refine (moveMapped_does ⟨hFlips, hInject⟩ hMaps hGo hSound hCopy hOld hNew hLess hStill).bind ?_
  rintro _ u ⟨rfl, hSame, hMem, hStillQuiet, hTlb, hPulls⟩
  refine Act.Does.get_bind (Act.Does.make ?_)
  obtain ⟨⟨hLeafOld, hLeafNew⟩, -⟩ : ((pa + 8 ≤ tilePa leaf ∨ tilePa leaf + 65536 ≤ pa) ∧
      (pa + 8 ≤ new * 65536 ∨ new * 65536 + 65536 ≤ pa)) ∧ _ := by simpa [apart] using hApart
  have hCopied (i : Nat) (hi : i < 65536) : Memory.byte u.mem (new * 65536 + i) = Memory.byte t.mem (tilePa leaf + i) := by
    rw [Memory.byte, hMem, State.movedMem, Memory.byteOr_store_other _ _ _ _ (by rw [bytesOf_length]; omega), Memory.byteOr_copy,
      if_pos (by omega), Memory.byteOr_store_other _ _ _ _ (by rw [movingLeaf, bytesOf_length]; omega), Nat.add_sub_cancel_left, Nat.add_comm]
    rfl
  have hLeaf : u.holds pa (bytesOf 8 (leaf - tilePa leaf + new * 65536)) := fun i hi => by
    rw [Memory.byte, hMem, State.movedMem, Memory.byteOr_store_same _ _ _ _ hi, List.getD_eq_getElem?_getD, List.getElem?_eq_getElem hi]
    rfl
  have hRest : t.keepsBut u [(pa, 8), (new * 65536, 65536)] := fun a ha => by
    have hLeafOut : a < pa ∨ pa + 8 ≤ a := ha (pa, 8) (by simp)
    have hNewOut : a < new * 65536 ∨ new * 65536 + 65536 ≤ a := ha (new * 65536, 65536) (by simp)
    rw [Memory.byte, hMem, State.movedMem, Memory.byteOr_store_other _ _ _ _ (by rwa [bytesOf_length]), Memory.byteOr_copy,
      if_neg (by omega), Memory.byteOr_store_other _ _ _ _ (by rwa [movingLeaf, bytesOf_length])]
    rfl
  refine ⟨⟨hCopied, hLeaf, hRest, fun e he => ?_, congrArg (·.erase (c, page)) hPulls, hSame .locks (by decide), hSame .regs (by decide)⟩, ?_⟩
  · have hOther : e ∈ u.xlat.tlb := he
    rw [hTlb] at hOther
    simpa using (List.mem_filter.mp hOther).2
  · rw [← hStillQuiet hQuiet, State.quiet, State.quiet]
    rfl

end Sys2Proof.Machine

/-!
PROOF. Packets of the ports: an open packet of a UART that its queue cannot hold (R272, R274, R278).
-/
namespace Sys2Proof.Machine

/-- The open packet of a UART without a byte yet. -/
def openPacket : UartRx := { bytes := [], stamp := 0, last := 0, start := 0, held := true }

/-- UART 0 feeds queue 0, of one line, and ends a packet at byte 10. RL stands past the header line of its open packet, as if that
line were free. -/
def uartOverwrites : State :=
  { State.reset with
    regs := [(Reg.off .weirQCfg 0 0, 1), (Reg.off .weirQWr 0 0, 1), (Reg.off .weirQRl 0 0, 1),
      (Reg.off .uartIng 0 0, Word.ofNat (pack [(1, 0), (1, 1), (10, 2)]))].foldl (fun m x => m.put x.1 x.2) State.reset.regs
    ports := { State.reset.ports with uart := [(0, openPacket)] } }

/-- The line of queue 0 begins with byte 10, the packet's only one. -/
def holdsPayload : Host.Outcome State Fault Refusal → Bool
  | .next t => Memory.byte t.mem (uartOverwrites.qLine 0 1) = 10
  | _ => false

theorem uartOverwrites_not_holdsPayload : holdsPayload (exec (.uartByte 0 10 true) uartOverwrites) = false := by decide +kernel

/-- Refutes O33: nothing in the statement keeps RL from passing a UART's open packet, and in a queue of one line the header is
then written over the packet's only line. -/
theorem not_packetsAreCommitted : ¬ Obligations.PacketsAreCommitted := by
  intro h
  obtain ⟨-, -, -, -, hUart⟩ := h uartOverwrites 0 (by decide +kernel)
  have hTakes : takesPackets uartOverwrites 0 := by
    refine ⟨by decide, by decide +kernel, by decide +kernel, by decide +kernel, fun c hc => ?_⟩
    exact absurd hc (by rw [show uartOverwrites.qOwner 0 = none by decide +kernel]; exact nofun)
  obtain ⟨t, hExec, hCommitted, -⟩ := (hUart 0 openPacket 10 true (by decide +kernel) rfl (by decide +kernel)).1 (by decide +kernel)
    (.inl ⟨by decide +kernel, by decide +kernel⟩) ⟨hTakes, rfl, by decide +kernel, by decide +kernel, by decide⟩
  obtain ⟨-, -, -, hBytes, -⟩ := hCommitted
  have hFirst : Memory.byte t.mem (uartOverwrites.qLine 0 1) = 10 := hBytes 0 (by decide)
  have hNot := uartOverwrites_not_holdsPayload
  rw [hExec] at hNot
  simp [holdsPayload, hFirst] at hNot

end Sys2Proof.Machine

/-!
PROOF. What ports do without a packet (R255, R258, R274 to R278, R343).
-/
namespace Sys2Proof.Machine

section
variable {s t u : State} {n q : Nat} {b : Byte} {x y : UartRx}

/-! ## The bytes of a UART -/

/-- The device with the open packet of UART `n` as `x`. -/
def State.withUart (s : State) (n : Nat) (x : UartRx) : State := s.upd (.ports { s.ports with uart := s.ports.uart.put n x })

@[simp] theorem find_withUart (s : State) (n : Nat) (x : UartRx) : (s.withUart n x).ports.uart.find n = some x :=
  Sparse.find_put_same _ _ _

theorem withUart_withUart (s : State) (n : Nat) (x y : UartRx) : (s.withUart n x).withUart n y = s.withUart n y :=
  congrArg (fun u => s.upd (.ports { s.ports with uart := u })) (Sparse.put_put _ _ _ _)

theorem modUart_does {f : UartRx → UartRx} (h : s.ports.uart.find n = some x) :
    (Act.modUart n f).Does s fun _ t => t = s.withUart n (f x) := by
  refine Act.Does.get_bind ?_
  rw [h]
  exact Act.Does.make rfl

/-- A UART's packet once a byte has joined it. -/
def UartRx.joined (x : UartRx) (b : Byte) (now : Nat) : UartRx := { x with bytes := x.bytes ++ [b], last := now }

/-- The test of a watermark changes at most what shows its state, and the PAUSE it sends. -/
structure State.Watermarked (s t : State) : Prop where
  same : s.SameBut releaseFields t
  regs : ∀ o, (∀ m, o ≠ Reg.off .ethPause m 0) → (∀ m, o ≠ Reg.off .weirQStat m 0) → t.regs.find o = s.regs.find o
  uart : t.ports.uart = s.ports.uart

theorem frames_watermark (q occ : Nat) : (watermark q occ).Frames fun s => s.ports.uart := by
  have hPause (quanta : Nat) : (sendPause q quanta).Frames fun s => s.ports.uart := fun s => by
    refine Act.Does.get_bind ?_
    split
    · exact Act.Does.ite (fun _ => Act.Does.count_bind (Act.Does.make rfl)) fun _ => Act.Does.pure rfl
    · exact Act.Does.pure rfl
  have hState (v quanta : Nat) : (do Act.regField .weirQStat q 19 19 v; sendPause q quanta).Frames fun s => s.ports.uart := fun s =>
    Act.Does.regField_bind ((hPause quanta _).mono fun _ _ h => h)
  intro s
  refine Act.Does.get_bind (Act.Does.ite (fun _ => Act.Does.ite (fun _ => ?_) fun _ => Act.Does.ite (fun _ => ?_) fun _ => ?_) fun _ => ?_)
  · exact Act.Does.ite (fun _ => hState 1 _ s) fun _ => Act.Does.pure rfl
  · exact Act.Does.ite (fun _ => hState 0 _ s) fun _ => Act.Does.pure rfl
  · exact Act.Does.pure rfl
  · exact Act.Does.pure rfl

theorem watermark_does (q occ : Nat) : (watermark q occ).Does s fun _ t => s.Watermarked t :=
  ((writes_watermark q occ).keeping (p := fun o => (∀ m, o ≠ Reg.off .ethPause m 0) ∧ ∀ m, o ≠ Reg.off .weirQStat m 0)
    (fun _ ho => keepsReg_watermark ho.1 ho.2 q occ) (frames_watermark q occ s)).mono
    fun _ _ h => ⟨h.1, fun _ hFc hStat => h.2.1 _ ⟨hFc, hStat⟩, h.2.2⟩

theorem State.Watermarked.pointer (h : s.Watermarked t) {r : Reg} (hr : r ∈ pointerRegs) (q : Nat) : t.rg r q = s.rg r q :=
  State.rg_eq_of_find (h.regs _ (Reg.off_pointer_ne_ethPause hr q) (Reg.off_pointer_ne_weirQStat hr q))

/-- A byte joins the packet; where it completes a line of a packet that the queue holds, the line is taken and written. -/
theorem addByte_does {Q : State → Prop} (hFind : s.ports.uart.find n = some x)
    (hJoins : x.held = false ∨ (x.joined b s.ns).bytes.length % 64 ≠ 0 → Q (s.withUart n (x.joined b s.ns)))
    (hLine : x.held = true → (x.joined b s.ns).bytes.length % 64 = 0 → (do
      takeLine n q
      let u ← Act.get
      if ((u.ports.uart.find n).map UartRx.held).getD false then
        writePhys ((s.withUart n (x.joined b s.ns)).qLine q (x.start + (x.joined b s.ns).bytes.length / 64))
          ((x.joined b s.ns).bytes.drop ((x.joined b s.ns).bytes.length - 64))).Does (s.withUart n (x.joined b s.ns)) fun _ t => Q t) :
    (addByte n q b).Does s fun _ t => Q t := by
  refine (modUart_does hFind).bind ?_
  rintro _ t rfl
  refine Act.Does.get_bind ?_
  simp only [find_withUart]
  refine (modUart_does (find_withUart _ _ _)).bind ?_
  rintro _ u rfl
  rw [withUart_withUart]
  refine Act.Does.ite (fun hLast => ?_) fun hNot => Act.Does.pure (hJoins ?_)
  · simp only [Bool.and_eq_true, decide_eq_true_eq] at hLast
    exact hLine hLast.1 hLast.2
  · by_cases hHeld : x.held = true
    · exact .inr fun hFull => hNot (by simpa [hHeld, UartRx.joined] using hFull)
    · exact .inl (by simpa using hHeld)

/-- A byte that ends no packet joins the one that is open. -/
theorem uartByte_does {P : State → Prop} {i : Fin 4} (hAwake : s.awake = true) (hOnTime : s.onTime = true)
    (hOn : flag (s.rg .uartIng i.val) 0 = true) (hDelim : flag (s.rg .uartIng i.val) 1 = false)
    (hFind : s.ports.uart.find i.val = some x) (hRoom : x.bytes.length < s.rf .uartIng i.val 26 16)
    (h : (addByte i.val (s.rf .uartIng i.val 15 10) b).Does s fun _ t => (P t ∧ t.quiet = true) ∧
      ∃ y, t.ports.uart.find i.val = some y ∧ y.bytes.length = x.bytes.length + 1) : s.does (.uartByte i b true) P := by
  have hGo : (s.awake && flag (s.rg .uartIng i.val) 0) = true := by rw [hAwake, hOn]; rfl
  have hOpen : (s.ports.uart.find i.val).isNone = false := by rw [hFind]; rfl
  refine State.does_of rfl (settled_does hOnTime (Act.Does.get_bind ?_))
  simp only [hGo, hOpen, Bool.not_true, Bool.false_eq_true, if_false, if_true]
  refine Act.Does.pure_bind (Act.Does.pure_bind (h.bind fun _ t ht => Act.Does.get_bind ?_))
  obtain ⟨hP, y, hY, hLength⟩ := ht
  refine Act.Does.ite (fun hEnds => absurd hEnds ?_) fun _ => Act.Does.pure hP
  simp only [hDelim, hY, Option.getD_some, Bool.false_and, Bool.false_or, decide_eq_true_eq]
  omega

/-! ## The lines of an open packet -/

/-- A line is taken: WR passes it, and the watermarks are tested. -/
theorem takeLine_takes (hRoom : s.qOcc q + 1 ≤ s.qSize q) :
    (takeLine n q).Does s fun _ t => (s.upd (.reg (Reg.off .weirQWr q 0) (s.rg .weirQWr q + 1))).Watermarked t := by
  refine Act.Does.get_bind ?_
  rw [if_neg (by omega)]
  exact Act.Does.reg_bind (Act.Does.get_bind (watermark_does _ _))

/-- A packet that finds no line more is abandoned. -/
theorem takeLine_abandons (hFull : s.qSize q ≤ s.qOcc q) (hFind : s.ports.uart.find n = some x) :
    (takeLine n q).Does s fun _ t => s.SameBut releaseFields t ∧ t.ports.uart.find n = some { x with held := false } ∧
      t.rg .weirQWr q = Word.ofNat x.start ∧ (t.rg .weirQDrop q).toNat = min (2 ^ 32 - 1) ((s.rg .weirQDrop q).toNat + 1) := by
  have hDrop : Reg.off .weirQDrop q 0 ≠ Reg.off .weirQWr q 0 := by simp only [Reg.off, Reg.row]; omega
  have hFc (m : Nat) : Reg.off .weirQDrop q 0 ≠ Reg.off .ethPause m 0 := by simp only [Reg.off, Reg.row]; omega
  have hStat (m : Nat) : Reg.off .weirQDrop q 0 ≠ Reg.off .weirQStat m 0 := by simp only [Reg.off, Reg.row]; omega
  refine Act.Does.get_bind ?_
  rw [if_pos (by omega), hFind]
  refine (modUart_does hFind).bind ?_
  rintro _ t rfl
  refine Act.Does.reg_bind ?_
  generalize hu : (s.withUart n { x with held := false }).upd (.reg (Reg.off .weirQWr q 0) (Word.ofNat x.start)) = u
  have hSame : s.SameBut releaseFields u :=
    hu ▸ ((State.SameBut.refl _ s).upd (by simp [Upd.fields, releaseFields])).upd (by simp [Upd.fields, releaseFields])
  have hUart : u.ports.uart.find n = some { x with held := false } := hu ▸ find_withUart s n _
  have hWr : u.rg .weirQWr q = Word.ofNat x.start := hu ▸ State.rg_upd_reg _ _ _ _ _
  have hOld : u.rg .weirQDrop q = s.rg .weirQDrop q := hu ▸ State.rg_upd_reg_other _ _ _ _ _ _ hDrop
  refine (watermark_does q _).bind fun _ v hv => Act.Does.bind (Act.Does.get_bind (watermark_does q _)) fun _ w hw => ?_
  have hDropped : w.rg .weirQDrop q = s.rg .weirQDrop q :=
    (State.rg_eq_of_find (hw.regs _ hFc hStat)).trans ((State.rg_eq_of_find (hv.regs _ hFc hStat)).trans hOld)
  refine Act.Does.countSat_bind (Act.Does.get_bind (Act.Does.make ⟨?_, ?_, ?_, ?_⟩))
  · exact ((hSame.trans (hv.same.trans hw.same)).upd (by simp [Upd.fields, releaseFields])).upd (by simp [Upd.fields, releaseFields])
  · exact (congrArg (Sparse.find · n) (hw.uart.trans hv.uart)).trans hUart
  · refine (State.rg_upd_reg_other _ _ _ _ _ _ hDrop.symm).trans ?_
    exact (hw.pointer (by decide) q).trans ((hv.pointer (by decide) q).trans hWr)
  · refine (congrArg BitVec.toNat (State.rg_upd_reg _ _ _ _ _)).trans ?_
    rw [← hDropped]
    exact toNat_countSat _

/-! ## The three ways a byte joins a packet -/

variable {i : Fin 4}

theorem quiet_release (h : s.SameBut releaseFields t) (hQuiet : s.quiet = true) : t.quiet = true :=
  (State.quiet_of_sameBut h (by decide)).trans hQuiet

theorem uartByte_joins (hAwake : s.awake = true) (hCalm : s.calm = true) (hOn : flag (s.rg .uartIng i.val) 0 = true)
    (hDelim : flag (s.rg .uartIng i.val) 1 = false) (hFind : s.ports.uart.find i.val = some x)
    (hRoom : x.bytes.length < s.rf .uartIng i.val 26 16) (hWhole : x.held = false ∨ (x.joined b s.ns).bytes.length % 64 ≠ 0) :
    s.does (.uartByte i b true) fun t => t = { s with ports := t.ports } ∧ t.ports.uart.find i.val = some (x.joined b s.ns) := by
  obtain ⟨hOnTime, hQuiet⟩ := State.calm_iff.mp hCalm
  refine uartByte_does hAwake hOnTime hOn hDelim hFind hRoom (addByte_does hFind (fun _ => ?_) fun hHeld hLine => ?_)
  · exact ⟨⟨⟨rfl, find_withUart _ _ _⟩, hQuiet⟩, _, find_withUart _ _ _, by simp [UartRx.joined]⟩
  · rcases hWhole with hNot | hNot
    · exact absurd (hHeld.symm.trans hNot) nofun
    · exact absurd hLine hNot

theorem uartByte_fills (hAwake : s.awake = true) (hCalm : s.calm = true) (hOn : flag (s.rg .uartIng i.val) 0 = true)
    (hDelim : flag (s.rg .uartIng i.val) 1 = false) (hFind : s.ports.uart.find i.val = some x)
    (hRoom : x.bytes.length < s.rf .uartIng i.val 26 16) (hOpen : openIn s (s.rf .uartIng i.val 15 10) x)
    (hWhole : (x.joined b s.ns).bytes.length % 64 = 0) :
    let q := s.rf .uartIng i.val 15 10
    let y := x.joined b s.ns
    let line := s.qLine q (x.start + y.bytes.length / 64)
    s.does (.uartByte i b true) fun t => t.ports.uart.find i.val = some y ∧ t.rg .weirQWr q = s.rg .weirQWr q + 1 ∧
      t.rg .weirQCm q = s.rg .weirQCm q ∧ t.holds line (y.bytes.drop (y.bytes.length - 64)) ∧ s.keepsBut t [(line, 64)] := by
  intro q y line
  obtain ⟨hOnTime, hQuiet⟩ := State.calm_iff.mp hCalm
  obtain ⟨-, hHeld, -, hLess, -⟩ := hOpen
  refine uartByte_does hAwake hOnTime hOn hDelim hFind hRoom (addByte_does hFind (fun hNot => ?_) fun _ _ => ?_)
  · rcases hNot with hNot | hNot
    · exact absurd (hHeld.symm.trans hNot) nofun
    · exact absurd hWhole hNot
  refine (takeLine_takes (s := s.withUart i.val y) hLess).bind fun _ t ht => Act.Does.get_bind ?_
  have hUart : t.ports.uart.find i.val = some y := (congrArg (Sparse.find · i.val) ht.uart).trans (find_withUart s i.val y)
  have hStill : ((t.ports.uart.find i.val).map UartRx.held).getD false = true := by
    rw [hUart]
    exact hHeld
  have hSame : s.SameBut releaseFields t :=
    (((State.SameBut.refl _ s).upd (by simp [Upd.fields, releaseFields])).upd (by simp [Upd.fields, releaseFields])).trans ht.same
  rw [if_pos hStill]
  refine (writePhys_does _ _ t).mono fun _ u hu => ?_
  have hStore : u.mem = Memory.store 0 s.mem line (y.bytes.drop (y.bytes.length - 64)) := by
    rw [hu.2.1, show t.mem = s.mem from hSame .mem (by decide)]
    rfl
  have hLength : y.bytes.length = x.bytes.length + 1 := by simp [y, UartRx.joined]
  have hLine : (y.bytes.drop (y.bytes.length - 64)).length = 64 := by
    rw [List.length_drop]
    have hWhole' : y.bytes.length % 64 = 0 := hWhole
    omega
  have hUart' : u.ports.uart.find i.val = some y := by
    rw [show u.ports = t.ports from hu.1 .ports (by decide)]
    exact hUart
  have hPointer {r : Reg} : u.rg r q = t.rg r q := by rw [State.rg, State.rg, hu.regs]
  have hCm : Reg.off .weirQCm q 0 ≠ Reg.off .weirQWr q 0 := by simp only [Reg.off, Reg.row]; omega
  refine ⟨⟨⟨hUart', ?_, ?_, State.holds_store hStore, State.keepsBut_store hStore (by simp [hLine])⟩, ?_⟩, _, hUart', hLength⟩
  · exact hPointer.trans ((ht.pointer (by decide) q).trans (State.rg_upd_reg _ _ _ _ _))
  · exact hPointer.trans ((ht.pointer (by decide) q).trans (State.rg_upd_reg_other _ _ _ _ _ _ hCm))
  · exact (State.quiet_of_sameBut hu.1 (by decide)).trans (quiet_release hSame hQuiet)

theorem uartByte_abandons (hAwake : s.awake = true) (hCalm : s.calm = true) (hOn : flag (s.rg .uartIng i.val) 0 = true)
    (hDelim : flag (s.rg .uartIng i.val) 1 = false) (hFind : s.ports.uart.find i.val = some x)
    (hRoom : x.bytes.length < s.rf .uartIng i.val 26 16) (hHeld : x.held = true)
    (hFull : s.qSize (s.rf .uartIng i.val 15 10) ≤ s.qOcc (s.rf .uartIng i.val 15 10)) (hWhole : (x.joined b s.ns).bytes.length % 64 = 0) :
    let q := s.rf .uartIng i.val 15 10
    s.does (.uartByte i b true) fun t => t.ports.uart.find i.val = some { x.joined b s.ns with held := false } ∧
      t.rg .weirQWr q = Word.ofNat x.start ∧ (t.rg .weirQDrop q).toNat = min (2 ^ 32 - 1) ((s.rg .weirQDrop q).toNat + 1) ∧
      t.mem = s.mem := by
  intro q
  obtain ⟨hOnTime, hQuiet⟩ := State.calm_iff.mp hCalm
  refine uartByte_does hAwake hOnTime hOn hDelim hFind hRoom (addByte_does hFind (fun hNot => ?_) fun _ _ => ?_)
  · rcases hNot with hNot | hNot
    · exact absurd (hHeld.symm.trans hNot) nofun
    · exact absurd hWhole hNot
  refine (takeLine_abandons (s := s.withUart i.val (x.joined b s.ns)) hFull (find_withUart _ _ _)).bind fun _ t ht => Act.Does.get_bind ?_
  obtain ⟨hRest, hUart, hWr, hDrop⟩ := ht
  have hSame : s.SameBut releaseFields t := ((State.SameBut.refl _ s).upd (by simp [Upd.fields, releaseFields])).trans hRest
  rw [hUart]
  exact Act.Does.pure ⟨⟨⟨hUart, hWr, hDrop, hSame .mem (by decide)⟩, quiet_release hSame hQuiet⟩, _, hUart, by simp [UartRx.joined]⟩

end

end Sys2Proof.Machine

/-!
PROOF. What the other ports do without a packet, and the obligation (R255, R258, R276 to R278, R343).
-/
namespace Sys2Proof.Machine

section
variable {s t : State} {i x : Nat} {bs : List Byte}

/-! ## SPI -/

theorem spiTransactionStart_trig (n : Fin 4) (hTrig : flag (s.rg .spiIng n.val) 1 = true) :
    s.does (.spiTransactionStart n) fun t => t = s := by
  refine State.does_of rfl (Act.Does.get_bind (Act.Does.ite (fun h => absurd h ?_) fun _ => Act.Does.pure rfl))
  simp [hTrig]

/-- The device once the next start of SPI port `n` is due a period after `due`. -/
def State.spiDue (s : State) (n due : Nat) : State :=
  s.upd (.ports { s.ports with spiNext := s.ports.spiNext.put n (due + (s.rg .spiPeriod n).toNat) })

/-- A start whose time has come sets the next one, and then starts or skips its transaction. -/
theorem spiTransactionStart_does {P : State → Prop} (n : Fin 4) (hAwake : s.awake = true) (hOn : flag (s.rg .spiIng n.val) 0 = true)
    (hFree : flag (s.rg .spiIng n.val) 1 = false) (hDue : (s.ports.spiNext.find n.val).getD s.ns * nsUnit ≤ s.clock.elapsed)
    (h : (spiStart n.val).Does (s.spiDue n.val ((s.ports.spiNext.find n.val).getD s.ns)) fun _ t => P t) :
    s.does (.spiTransactionStart n) P := by
  refine State.does_of rfl (Act.Does.get_bind (Act.Does.ite (fun _ => ?_) fun hNot => absurd (by simp [hAwake, hOn, hFree]) hNot))
  refine (reach_does _).bind fun _ t ht => ?_
  obtain rfl : t = s := ht.2.2.2 hDue
  exact Act.Does.get_bind (Act.Does.make_bind h)

theorem spiTransactionStart_starts (n : Fin 4) (hAwake : s.awake = true) (hOn : flag (s.rg .spiIng n.val) 0 = true)
    (hFree : flag (s.rg .spiIng n.val) 1 = false) (hDue : (s.ports.spiNext.find n.val).getD s.ns * nsUnit ≤ s.clock.elapsed)
    (hIdle : s.ports.spiBusy.at n.val false = false) : s.does (.spiTransactionStart n) fun t =>
      t = { s with ports := { s.ports with
        spiNext := s.ports.spiNext.put n.val ((s.ports.spiNext.find n.val).getD s.ns + (s.rg .spiPeriod n.val).toNat)
        spiBusy := t.ports.spiBusy, spiOut := t.ports.spiOut } } ∧
      t.ports.spiBusy.at n.val false = true ∧ t.ports.spiOut.at n.val [] = s.spiBytes n.val := by
  refine spiTransactionStart_does n hAwake hOn hFree hDue (Act.Does.get_bind ?_)
  refine Act.Does.ite (fun _ => ?_) fun hNot => absurd (show (s.awake && flag (s.rg .spiIng n.val) 0) = true by rw [hAwake, hOn]; rfl) hNot
  refine Act.Does.ite (fun hBusy => absurd (hBusy.symm.trans hIdle) nofun) fun _ => ?_
  exact Act.Does.make ⟨rfl, Sparse.at_put_same _ _ _ _, Sparse.at_put_same _ _ _ _⟩

theorem spiTransactionStart_skips (n : Fin 4) (hAwake : s.awake = true) (hOn : flag (s.rg .spiIng n.val) 0 = true)
    (hFree : flag (s.rg .spiIng n.val) 1 = false) (hDue : (s.ports.spiNext.find n.val).getD s.ns * nsUnit ≤ s.clock.elapsed)
    (hBusy : s.ports.spiBusy.at n.val false = true) : s.does (.spiTransactionStart n) fun t =>
      t = { s with
        regs := t.regs
        ports := { s.ports with
          spiNext := s.ports.spiNext.put n.val ((s.ports.spiNext.find n.val).getD s.ns + (s.rg .spiPeriod n.val).toNat) } } ∧
      (t.rg .spiSkip n.val).toNat = min (2 ^ 32 - 1) ((s.rg .spiSkip n.val).toNat + 1) := by
  refine spiTransactionStart_does n hAwake hOn hFree hDue (Act.Does.get_bind ?_)
  refine Act.Does.ite (fun _ => ?_) fun hNot => absurd (show (s.awake && flag (s.rg .spiIng n.val) 0) = true by rw [hAwake, hOn]; rfl) hNot
  refine Act.Does.ite (fun _ => ?_) fun hNot => absurd hBusy hNot
  refine Act.Does.get_bind (Act.Does.make ⟨rfl, ?_⟩)
  exact (congrArg BitVec.toNat (State.rg_upd_reg _ _ _ _ _)).trans (toNat_countSat _)

/-! ## CSI-2 short packets -/

theorem csiShortPacket_discards (r : Fin 12) (vc dt : Nat) (f : Option Nat) (hCalm : s.calm = true) (hPorts : s.portsOn = true)
    (hOn : flag (s.rg .csiCfg r.val) 0 = true) (hType : 2 ≤ dt) : s.does (.csiShortPacket r vc dt f) fun t =>
      t = { s with regs := t.regs, ports := { s.ports with csiShort := s.ports.csiShort + 1 } } ∧
      (f.isSome = true → t.regs = s.regs) := by
  obtain ⟨hOnTime, hQuiet⟩ := State.calm_iff.mp hCalm
  have hGo : (s.portsOn && flag (s.rg .csiCfg r.val) 0) = true := by rw [hPorts, hOn]; rfl
  have hOther : ¬((decide (dt = 0) || decide (dt = 1)) = true) := by simp; omega
  refine State.does_of rfl (settled_does hOnTime (Act.Does.get_bind ?_))
  simp only [hGo, if_true]
  refine Act.Does.ite (fun hNone => ?_) fun _ => ?_
  · refine Act.Does.countSat_bind (Act.Does.ite (fun h => absurd h hOther) fun _ => Act.Does.make ⟨⟨rfl, fun hSome => ?_⟩, hQuiet⟩)
    rw [Option.isNone_iff_eq_none.mp hNone] at hSome
    exact absurd hSome nofun
  · exact Act.Does.ite (fun h => absurd h hOther) fun _ => Act.Does.make ⟨⟨rfl, fun _ => rfl⟩, hQuiet⟩

/-! ## CAN -/

theorem frames_reflexArrival (src : ReflexSource) (bs : List Byte) : (reflexArrival src bs).Frames fun s => s.reflex.canBox := by
  have hHeld (n : Nat) (f : Leash → Leash) : (do Act.modLeash n f; pure (ForInStep.yield PUnit.unit)).Frames
      fun s => s.reflex.canBox := fun s => Act.Does.get_bind (Act.Does.make_bind (Act.Does.pure rfl))
  refine Act.Frames.bind Act.Frames.get fun s => Act.Frames.bind (Act.Frames.loop (fun n _ => ?_) _ _) fun _ => Act.Frames.pure _
  refine Act.Frames.bind (Act.Frames.loop (fun k _ => Act.Frames.ite ?_ (Act.Frames.pure _)) _ _) fun _ => Act.Frames.pure _
  refine Act.Frames.ite (Act.Frames.bind ?_ fun _ => hHeld _ _) (Act.Frames.bind (Act.Frames.pure _) fun _ => hHeld _ _)
  exact fun s => Act.Does.get_bind (Act.Does.make_bind (Act.Does.pure rfl))

theorem canFrameReceive_good (p : Fin 8) (b : Bool) (hAwake : s.awake = true) : s.does (.canFrameReceive p i b bs true) fun t =>
    t = { s with reflex := t.reflex, freeCount := t.freeCount } ∧
    t.reflex.canBox.at p.val [] = s.reflex.canBox.at p.val [] ++ [(i, b, bs)] := by
  refine State.does_of rfl (Act.Does.get_bind (Act.Does.ite (fun _ => ?_) fun hNot => absurd hAwake hNot))
  simp only [if_true]
  refine Act.Does.make_bind ((((writes_reflexArrival _ _ _).and (frames_reflexArrival _ _ _)).does).mono fun _ t ht => ?_)
  refine ⟨State.ext_fld fun f => ?_, (congrArg (Sparse.at · p.val []) ht.2).trans (Sparse.at_put_same _ _ _ _)⟩
  cases f with
  | reflex | freeCount => rfl
  | _ => exact ht.1 _ (by decide)

theorem canFrameReceive_bad (p : Fin 8) (b : Bool) (hAwake : s.awake = true) : s.does (.canFrameReceive p i b bs false) fun t =>
    t = { s with reflex := t.reflex } ∧ t.reflex.canBox = s.reflex.canBox ∧
    t.reflex.canErr.at p.val 0 = s.reflex.canErr.at p.val 0 + 1 := by
  refine State.does_of rfl (Act.Does.get_bind (Act.Does.ite (fun _ => ?_) fun hNot => absurd hAwake hNot))
  exact Act.Does.make ⟨rfl, rfl, Sparse.at_put_same _ _ _ _⟩

theorem canTransmit_does (p : Fin 8) {f : CanFrame} {fs : List CanFrame} (hAwake : s.awake = true)
    (hFrames : s.reflex.canTx.at p.val [] = f :: fs) :
    s.does (.canTransmit p) fun t => t = { s with reflex := t.reflex } ∧ t.reflex.canTx.at p.val [] = fs := by
  refine State.does_of rfl (Act.Does.get_bind (Act.Does.ite (fun _ => ?_) fun hNot => absurd hAwake hNot))
  exact Act.Does.make ⟨rfl, (Sparse.at_put_same _ _ _ _).trans (congrArg (List.drop 1) hFrames)⟩

/-! ## Ethernet -/

theorem ptpPush_does {m time msg seq : Nat} {sent : Bool} (hRoom : (s.clock.ptp.at m []).length < 32) :
    (ptpPush m time sent msg seq).Does s fun _ t => t = s.upd (.clock { s.clock with
      ptp := s.clock.ptp.put m (s.clock.ptp.at m [] ++ [(time, sent, msg, seq % 65536)]) }) :=
  Act.Does.get_bind (Act.Does.ite (fun _ => Act.Does.make rfl) fun hNot => absurd hRoom hNot)

theorem ptpPush_ns {m time msg seq : Nat} {sent : Bool} : (ptpPush m time sent msg seq).Does s fun _ t => t.ns = s.ns :=
  Act.Does.get_bind (Act.Does.ite (fun _ => Act.Does.make rfl) fun _ => Act.Does.pure rfl)

theorem writes_ptpPush {l : List Fld} (m time msg seq : Nat) (sent : Bool) (h : Fld.clock ∈ l) : (ptpPush m time sent msg seq).Writes l :=
  writes_get_bind fun _ => writes_ite (writes_make (by simp [h])) (writes_pure _)

theorem eventMessageSent_does {P : State → Prop} (m : Fin 8) {p : PtpMessage} {link : EthLink} (hAwake : s.awake = true)
    (hFits : linkFits m.val link = true) (hMsg : p.msg ≤ 3)
    (h : ∀ u, s.ports.paused.at m.val 0 ≤ u.ns → (s.ports.paused.at m.val 0 * nsUnit ≤ s.clock.elapsed → u = s) →
      (ptpPush m.val (u.txStamp m.val link) true p.msg p.seq).Does u fun _ t => P t) : s.does (.eventMessageSent m p link) P := by
  refine State.does_of rfl (Act.Does.get_bind (Act.Does.ite (fun _ => ?_) fun hNot => absurd (by simp [hAwake, hFits, hMsg]) hNot))
  exact (reach_does _).bind fun _ u hu => Act.Does.get_bind (h u hu.2.2.1 hu.2.2.2)

theorem ethFrame_pauses (m : Fin 8) {link : EthLink} (hAwake : s.awake = true) (hCalm : s.calm = true)
    (hFits : linkFits m.val link = true) (hShort : 60 ≤ bs.length) (hLong : bs.length ≤ 1518)
    (hType : (EthHead.of bs).etherType = 0x8808) (hPause : be16 bs (EthHead.of bs).body = 1) :
    s.does (.ethFrame m bs true link) fun t => t.mem = s.mem ∧ t.ctxs = s.ctxs ∧
      t.ports.paused.at m.val 0 = s.ns + be16 bs ((EthHead.of bs).body + 2) * pauseQuantum link / 10 := by
  obtain ⟨hOnTime, hQuiet⟩ := State.calm_iff.mp hCalm
  have hGo : (s.awake && linkFits m.val link) = true := by rw [hAwake, hFits]; rfl
  have hSize : (decide (64 ≤ bs.length + 4) && decide (bs.length + 4 ≤ if flag (s.rg .ethIng m.val) 8 then 9216 else 1522)) = true := by
    simp only [Bool.and_eq_true, decide_eq_true_eq]
    split <;> omega
  have hControl : decide ((EthHead.of bs).etherType = 0x8808) = true := decide_eq_true hType
  refine State.does_of rfl (settled_does hOnTime (Act.Does.get_bind ?_))
  simp only [hGo, hSize, hControl, hPause, Bool.and_self, if_true]
  generalize s.ns + be16 bs ((EthHead.of bs).body + 2) * pauseQuantum link / 10 = hold
  have hRest (u : State) (hu : State.SameBut [.clock, .reflex, .freeCount] s u) : (do
      reflexArrival (.eth m (EthHead.of bs).etherType) (bs.drop (EthHead.of bs).body)
      Act.make (.ports { s.ports with paused := s.ports.paused.put m.val hold })).Does u fun _ t => (t.mem = s.mem ∧ t.ctxs = s.ctxs ∧
          t.ports.paused.at m.val 0 = hold) ∧ t.quiet = true := by
    refine ((writes_reflexArrival _ _).does u).bind fun _ v hv => Act.Does.make ?_
    have hSame : State.SameBut [.clock, .reflex, .freeCount] s v := hu.trans (hv.mono (by decide))
    exact ⟨⟨hSame .mem (by decide), hSame .ctxs (by decide), Sparse.at_put_same _ _ _ _⟩, (State.quiet_of_sameBut hSame (by decide)).trans hQuiet⟩
  split
  · exact ((writes_ptpPush _ _ _ _ _ (by decide)).does s).bind fun _ u hu => hRest u hu
  · exact Act.Does.pure_bind (hRest s (.refl _ s))

end

/-- Settles O34: each port by what its command does; a PAUSE or a watermark changes no pointer of a queue. -/
theorem portsBetweenPackets : Obligations.PortsBetweenPackets := by
  intro s hAwake hCalm
  refine ⟨fun n hOn => ⟨fun hTrig => spiTransactionStart_trig n hTrig, fun hFree hDue =>
      ⟨fun hIdle => spiTransactionStart_starts n hAwake hOn hFree hDue hIdle, fun hBusy => spiTransactionStart_skips n hAwake hOn hFree hDue hBusy⟩⟩,
    fun n b x hOn hDelim hFind hRoom => ⟨fun hWhole => uartByte_joins hAwake hCalm hOn hDelim hFind hRoom hWhole,
      fun hOpen hWhole => uartByte_fills hAwake hCalm hOn hDelim hFind hRoom hOpen hWhole,
      fun hHeld _ hFull hWhole => uartByte_abandons hAwake hCalm hOn hDelim hFind hRoom hHeld hFull hWhole⟩,
    fun r vc dt f hPorts hOn hType => csiShortPacket_discards r vc dt f hCalm hPorts hOn hType,
    fun p i x bs => ⟨canFrameReceive_good p x hAwake, canFrameReceive_bad p x hAwake⟩,
    fun p f fs hFrames => canTransmit_does p hAwake hFrames, fun m p link hFits hMsg hRoom => ⟨?_, fun hPast => ?_⟩,
    fun m bs link hFits hShort hLong hType hPause => ethFrame_pauses m hAwake hCalm hFits hShort hLong hType hPause⟩
  · refine eventMessageSent_does m hAwake hFits hMsg fun u hNs _ => ptpPush_ns.mono fun _ t ht => ?_
    rw [ht]
    exact hNs
  · refine eventMessageSent_does m hAwake hFits hMsg fun u _ hSame => ?_
    obtain rfl := hSame hPast
    refine (ptpPush_does hRoom).mono ?_
    rintro _ t rfl
    exact ⟨rfl, rfl, Sparse.at_put_same _ _ _ _⟩

end Sys2Proof.Machine

/-!
PROOF. What a teardown and a read through the page tables may write: neither the boot NOR nor the state of the power unit.
-/
namespace Sys2Proof.Machine

variable {c : Nat} {α : Type}

/-- Every part of the device but the boot NOR and the power unit. -/
def portFields : List Fld := [.regs, .latches, .bus, .mem, .flips, .links, .fabricEnded, .engines, .drains, .claims, .progs, .nextHandle,
  .ctxs, .residual, .selState, .selAccts, .locks, .waits, .xlat, .chanQueues, .flying, .served, .psram, .ftl, .reflex, .ports, .grid,
  .plan, .clock, .sdio, .boot, .casc, .therm, .faults, .freeCount, .pending]

@[simp] theorem mem_portFields (f : Fld) : f ∈ portFields ↔ f ≠ .nor ∧ f ≠ .power := by cases f <;> decide

/-- An action that leaves the boot NOR and the power unit as they are. -/
abbrev Act.Ports (x : Act α) : Prop := x.Writes portFields

/-! ## Memory through the page tables -/

theorem ports_writePhys (pa : Nat) (bs : List Byte) : (writePhys pa bs).Ports := writes_writePhys pa bs (by simp) (by simp) (by simp)

theorem ports_setLeafBit (pa bit : Nat) : (setLeafBit pa bit).Ports :=
  writes_get_bind fun _ => writes_ite (ports_writePhys _ _) writes_nothing

theorem ports_walkLeaf (c va : Nat) : (walkLeaf c va).Ports := writes_walkLeaf c va (by decide)

theorem ports_leafFor (v : Via) (va : Nat) : (leafFor v va).Ports := by
  refine writes_get_bind fun s => ?_
  split
  · exact writes_pure _
  · refine writes_bind (ports_walkLeaf _ _) fun r => ?_
    split
    · exact writes_pure _
    · exact writes_bind (ports_setLeafBit _ _) fun _ => writes_get_bind fun t => writes_make_bind (by simp) (writes_pure _)

theorem ports_markDirty (v : Via) (va pa : Nat) : (markDirty v va pa).Ports := by
  refine writes_get_bind fun s => ?_
  split
  · exact writes_ite (writes_bind (ports_setLeafBit _ _) fun _ => writes_get_bind fun t => writes_make (by simp)) writes_nothing
  · exact writes_nothing

theorem ports_noteOpened (slot pa : Nat) : (noteOpened slot pa).Ports := by
  refine writes_get_bind fun s => writes_ite ?_ ?_
  · split
    · exact writes_make_bind (by simp) (writes_pure _)
    · exact writes_bind writes_nothing fun _ => writes_pure _
  · dsimp only
    split
    · exact writes_ite (writes_pure _) (writes_bind (ports_writePhys _ _) fun _ => writes_bind (by simp) fun _ => writes_pure _)
    · exact writes_pure _

theorem ports_openForWrite (v : Via) (pa : Nat) (listed : Bool) : (openForWrite v pa listed).Ports := by
  refine writes_get_bind fun s => ?_
  split
  · exact writes_pure _
  next sl _ =>
    have hTag (room : Bool) : (if room then setTag pa Tag.opened sl >>= fun _ => pure room else pure room : Act Bool).Ports :=
      writes_ite (writes_bind (writes_setTag _ _ _ (by simp)) fun _ => writes_pure _) (writes_pure _)
    exact writes_ite (writes_ite (writes_bind (ports_noteOpened _ _) hTag) (writes_bind (writes_pure _) hTag)) (writes_pure _)

theorem ports_postPull (c va leaf : Nat) : (postPull c va leaf).Ports :=
  writes_get_bind fun _ => writes_ite (writes_make (by simp)) writes_nothing

theorem ports_translateFlat (v : Via) (va : Nat) (write : Bool) : (translateFlat v va write).Ports := by
  refine writes_ite (writes_pure _) (writes_bind (ports_leafFor v va) fun r => ?_)
  split
  · exact writes_pure _
  · refine writes_get_bind fun s => ?_
    split
    · exact writes_bind (ports_postPull _ _ _) fun _ => writes_bind (writes_countSat _ _ _ _ _ (by simp)) fun _ => writes_pure _
    · exact writes_ite (writes_bind (by simp) fun _ => writes_pure _) (writes_pure _)
    · refine writes_ite (writes_bind (ports_openForWrite _ _ _) fun b => writes_ite (writes_pure _) ?_) (writes_pure _)
      exact writes_bind (ports_markDirty _ _ _) fun _ => writes_pure _
    · exact writes_pure _

theorem ports_translate (v : Via) (va : Nat) (write : Bool) : (translate v va write).Ports := by
  unfold translate
  split
  · exact ports_translateFlat _ _ _
  · refine writes_get_bind fun s => ?_
    split
    · exact writes_pure _
    · exact ports_translateFlat _ _ _

theorem ports_readTier (pa n : Nat) : (readTier pa n).Ports := writes_readTier pa n (by decide)

theorem ports_readVaPage (v : Via) (va n : Nat) : (readVaPage v va n).Ports := by
  refine writes_bind (ports_translate _ _ _) fun r => ?_
  split
  · exact writes_pure _
  · exact writes_pure _
  · exact writes_pure _
  · refine writes_bind (ports_readTier _ _) fun x => ?_
    obtain ⟨bs, hit⟩ := x
    dsimp only
    split
    · exact writes_get_bind fun _ => writes_pure _
    · exact writes_pure _

theorem ports_readVaFuel (v : Via) (fuel va n : Nat) : (readVaFuel v fuel va n).Ports := by
  induction fuel generalizing va n with
  | zero => exact writes_pure _
  | succ fuel ih =>
    refine writes_bind (ports_readVaPage _ _ _) fun r => ?_
    split
    · refine writes_ite (writes_pure _) (writes_bind (ih _ _) fun r => ?_)
      split <;> exact writes_pure _
    · exact writes_pure _

/-! ## Frames of the KV pools -/

theorem ports_pinnedTile (c va : Nat) : (pinnedTile c va).Ports := by
  refine writes_bind (ports_walkLeaf _ _) fun r => ?_
  split
  · exact writes_pure _
  · exact writes_get_bind fun _ => writes_pure _

theorem ports_pinnedPa (c va : Nat) : (pinnedPa c va).Ports := by
  refine writes_bind (ports_pinnedTile _ _) fun r => ?_
  split <;> exact writes_pure _

theorem ports_poolAt (i : Nat) : (poolAt i).Ports := by
  refine writes_bind (writes_get_bind fun s => writes_ite (ports_pinnedPa _ _) (writes_pure _)) fun r => ?_
  split
  · exact writes_pure _
  · exact writes_get_bind fun _ => writes_ite (writes_pure _) (writes_pure _)

theorem ports_putFrame (p : Pool) (pa n : Nat) (f : Frame) : (putFrame p pa n f).Ports := by
  refine writes_ite (writes_bind (ports_writePhys _ _) fun _ => writes_get_bind fun s => ?_) (ports_writePhys _ _)
  refine writes_bind (ports_pinnedPa _ _) fun r => ?_
  split
  · exact writes_bind (ports_writePhys _ _) fun _ => ports_writePhys _ _
  · exact writes_bind writes_nothing fun _ => ports_writePhys _ _

theorem ports_dropPins (pins : List KvPin) : (dropPins pins).Ports := by
  refine writes_bind (writes_forIn (fun k _ => writes_bind (ports_poolAt _) fun r => ?_) _ _) fun _ => writes_pure _
  split
  · exact writes_bind writes_nothing fun _ => writes_pure _
  · refine writes_bind (ports_pinnedPa _ _) fun r => ?_
    split
    · exact writes_bind writes_nothing fun _ => writes_pure _
    · exact writes_get_bind fun _ => writes_bind (ports_putFrame _ _ _ _) fun _ => writes_pure _

/-! ## A kernel that stops -/

theorem ports_closeKernelTiles (c : Nat) (success : Bool) : (closeKernelTiles c success).Ports := by
  refine writes_get_bind fun s => ?_
  split
  · exact writes_nothing
  · refine writes_bind (writes_get_bind fun t => writes_bind (writes_forIn (fun pa _ => ?_) _ _) fun _ => writes_pure _) fun _ =>
      writes_bind (writes_forIn (fun i _ => writes_get_bind fun t => ?_) _ _) fun _ => by simp
    · exact writes_bind (writes_setTag _ _ _ (by simp)) fun _ => writes_pure _
    · exact writes_bind (ports_writePhys _ _) fun _ => writes_pure _

theorem ports_stopKernel (c : Nat) : (stopKernel c).Ports := by
  refine writes_get_bind fun s => ?_
  split
  · exact writes_nothing
  · refine writes_bind (writes_chargeStalls.mono (by decide)) fun _ => writes_bind (writes_forIn (fun e _ => ?_) _ _)
      fun _ => writes_bind (writes_dropDrains.mono (by decide)) fun _ => writes_bind (writes_dropKernelWaits.mono (by decide)) fun _ => by simp
    exact writes_ite (writes_bind (writes_freeEngine _ (by decide)) fun _ => writes_pure _) (writes_pure _)

/-! ## Jobs -/

theorem ports_complete (c : Nat) (r : CRec) : (complete c r).Ports := writes_complete c r (by decide)

theorem ports_cancelBarges (c : Nat) : (cancelBarges c).Ports := (writes_cancelBarges c).mono (by decide)

theorem ports_rewindQueues (c : Nat) : (rewindQueues c).Ports := (writes_rewindQueues c).mono (by decide)

theorem ports_stopMember (c n : Nat) : (stopMember c n).Ports := by
  refine writes_get_bind fun s => writes_ite (writes_ite ?_ (writes_modCtx _ _ (by simp))) (by simp)
  exact writes_bind (ports_closeKernelTiles _ _) fun _ => writes_bind (ports_stopKernel _) fun _ => writes_bind (ports_cancelBarges _)
    fun _ => writes_bind (ports_dropPins _) fun _ => writes_bind (ports_rewindQueues _) fun _ =>
    writes_bind (writes_modCtx _ _ (by simp)) fun _ => writes_modCtx _ _ (by simp)

theorem ports_pairEnd (c n : Nat) (r : CRec) : (pairEnd c n r).Ports := by
  refine writes_get_bind fun s => writes_ite (by simp) (writes_bind (ports_stopMember _ _) fun _ => writes_bind (by simp) fun _ => ?_)
  split <;> exact ports_complete _ _

theorem ports_checkLeave : checkLeave.Ports := by
  refine writes_get_bind fun s => ?_
  split
  · exact writes_nothing
  · exact writes_ite (writes_make_bind (by simp) (by simp)) writes_nothing

theorem ports_cascBoundary (c : Nat) : (cascBoundary c).Ports := by
  refine writes_get_bind fun s => writes_ite (writes_make_bind (by simp) ?_) writes_nothing
  split
  · exact writes_bind (writes_leaveMask _ _ (by simp)) fun _ => ports_checkLeave
  · exact writes_bind writes_nothing fun _ => ports_checkLeave

theorem ports_optimiserEnded (c id : Nat) (done : CRec) : (optimiserEnded c id done).Ports := writes_modPlan _ (by simp)

theorem ports_endJob (c code block addr idx : Nat) : (endJob c code block addr idx).Ports := by
  refine writes_get_bind fun s => ?_
  dsimp only
  split
  · exact writes_nothing
  · refine writes_bind (writes_modCtx _ _ (by simp)) fun _ => writes_bind (ports_cascBoundary _) fun _ =>
      writes_ite (ports_optimiserEnded _ _ _) ?_
    split
    · exact ports_pairEnd _ _ _
    · exact ports_complete _ _

/-! ## Teardown -/

theorem ports_poisonLocks (c : Nat) : (poisonLocks c).Ports := by
  refine writes_get_bind fun s => writes_bind (writes_forIn (fun n _ => writes_bind (by simp) fun _ => ?_) _ _) fun _ => writes_pure _
  refine writes_bind (writes_forIn (fun w _ => ?_) _ _) fun _ => writes_pure _
  exact writes_bind ((writes_endWait w _ _).mono (by decide)) fun _ => writes_pure _

theorem ports_teardownSteps (c : Nat) : (teardownSteps c).Ports :=
  writes_get_bind fun _ => writes_bind (ports_closeKernelTiles _ _) fun _ => writes_bind (ports_stopKernel _) fun _ =>
    writes_bind (ports_cancelBarges _) fun _ => writes_bind (ports_poisonLocks _) fun _ => writes_bind (ports_dropPins _) fun _ =>
    writes_bind (ports_rewindQueues _) fun _ => writes_bind (writes_cancelGrids _ (by simp)) fun _ =>
    writes_bind (writes_cancelPlans _ (by simp) (by simp)) fun _ => writes_bind ((writes_releasePages _).mono (by decide)) fun _ => by simp

theorem ports_cancelQueued (c : Nat) : (cancelQueued c).Ports :=
  writes_get_bind fun _ => writes_bind (by simp) fun _ => writes_bind (writes_forIn (fun _ _ => writes_bind (ports_endJob _ _ _ _ _)
    fun _ => writes_pure _) _ _) fun _ => by simp

theorem ports_teardown (c code block addr idx : Nat) : (teardown c code block addr idx).Ports := by
  refine writes_get_bind fun s => writes_ite (writes_bind (ports_teardownSteps _) fun _ => writes_ite ?_ ?_) writes_nothing
  · exact writes_ite (writes_bind (ports_endJob _ _ _ _ _) fun _ => writes_modCtx _ _ (by simp)) (writes_modCtx _ _ (by simp))
  · refine writes_bind (by simp) fun _ => ?_
    exact writes_ite (writes_bind (ports_endJob _ _ _ _ _) fun _ => ports_cancelQueued _) (ports_cancelQueued _)

end Sys2Proof.Machine

/-!
PROOF. The writes of a PORTS section leave the boot NOR and the power unit as they are (R381).
-/
namespace Sys2Proof.Machine

/-! ## Writes of WEIR, ETH, CSI and the ports -/

theorem ports_plainWrite (r : Reg) (i j : Nat) (value hw : Word) : (plainWrite r i j value hw).Ports :=
  writes_get_bind fun _ => writes_bind (writes_regAt _ _ _ _ (by simp)) fun _ => writes_pure _

theorem ports_writePort (domain : Nat) (r : Reg) (i j : Nat) (value hw : Word) : (writePort domain r i j value hw).Ports :=
  writes_ite (writes_bind (by simp) fun _ => ports_plainWrite _ _ _ _ _) (ports_plainWrite _ _ _ _ _)

theorem ports_writeRoute (r : Reg) (i j : Nat) (value : Word) : (writeRoute r i j value).Ports :=
  writes_get_bind fun _ => writes_ite (writes_pure _) (writes_bind (writes_regAt _ _ _ _ (by simp)) fun _ => writes_pure _)

theorem ports_writeQueueRegion (r : Reg) (q : Nat) (value : Word) : (writeQueueRegion r q value).Ports :=
  writes_get_bind fun _ => writes_ite (writes_bind (by simp) fun _ => writes_pure _) (writes_pure _)

theorem ports_modQueue (q : Nat) (f : Queue → Queue) : (Act.modQueue q f).Ports := writes_get_bind fun _ => writes_make (by simp)

theorem ports_writeQueueCfg (q : Nat) (value : Word) : (writeQueueCfg q value).Ports := by
  refine writes_get_bind fun s => writes_ite (writes_bind (by simp) fun _ => writes_pure _)
    (writes_ite (writes_bind (by simp) fun _ => writes_pure _) (writes_bind (by simp) fun _ => writes_ite ?_ (writes_pure _)))
  refine writes_bind (writes_forIn (fun r _ => writes_bind (by simp) fun _ => writes_pure _) _ _) fun _ => writes_bind (by simp) fun _ =>
    writes_bind (ports_modQueue _ _) fun _ => writes_get_bind fun t => writes_make_bind (by simp) (writes_pure _)

theorem ports_watermarkNow (q : Nat) : (watermarkNow q).Ports := (writes_watermarkNow q).mono (by decide)

theorem ports_weirRelease (q : Nat) : (weirRelease q).Ports :=
  writes_get_bind fun _ => writes_bind (by simp) fun _ => writes_bind (by simp) fun _ =>
    writes_bind ((writes_dropReleased q).mono (by decide)) fun _ => ports_watermarkNow q

theorem ports_weirCommand (who : Who) (op q n : Nat) : (weirCommand who op q n).Ports := by
  refine writes_get_bind fun s => writes_ite (writes_pure _) (writes_ite (writes_bind (by simp) fun _ => writes_pure _) ?_)
  refine writes_bind (by simp) fun _ => ?_
  split
  · exact writes_bind (writes_get_bind fun _ => by simp) fun _ => writes_pure _
  · exact writes_bind (writes_get_bind fun _ => by simp) fun _ => writes_pure _
  · exact writes_bind (writes_get_bind fun _ => by simp) fun _ => writes_pure _
  · exact writes_bind (ports_weirRelease q) fun _ => writes_pure _

theorem ports_writeIngress (who : Who) (r : Reg) (i j : Nat) (value hw : Word) : (writeIngress who r i j value hw).Ports := by
  unfold writeIngress
  split
  · exact ports_writeQueueRegion _ _ _
  · exact ports_writeQueueRegion _ _ _
  · exact ports_writeQueueCfg _ _
  · exact writes_get_bind fun _ => writes_make_bind (by simp) (ports_plainWrite _ _ _ _ _)
  · exact ports_weirCommand _ _ _ _
  · exact ports_writePort _ _ _ _ _ _
  · exact writes_bind (ports_plainWrite _ _ _ _ _) fun _ => writes_bind (ports_watermarkNow _) fun _ => writes_pure _
  · exact writes_bind (ports_plainWrite _ _ _ _ _) fun _ => writes_bind (ports_watermarkNow _) fun _ => writes_pure _
  · exact writes_bind (ports_writeRoute _ _ _ _) fun _ => writes_ite (writes_bind (by simp) fun _ => writes_pure _) (writes_pure _)
  · exact writes_bind (ports_writeRoute _ _ _ _) fun _ => writes_get_bind fun _ =>
      writes_ite (writes_make_bind (by simp) (writes_pure _)) (writes_pure _)
  · exact ports_writeRoute _ _ _ _
  · exact ports_writeRoute _ _ _ _
  · exact ports_writeRoute _ _ _ _
  · exact ports_writeRoute _ _ _ _
  · exact ports_plainWrite _ _ _ _ _

/-! ## Writes of GRID -/

theorem ports_modGrid (f : Grid → Grid) : (Act.modGrid f).Ports := writes_get_bind fun _ => writes_make (by simp)

theorem ports_failGrid (c : Nat) (tag : Word) (f : Failure) : (failGrid c tag f).Ports :=
  writes_bind ((writes_failureRecord f c 0x7FF 0 tag).mono (by decide)) fun _ => ports_teardown _ _ _ _ _

theorem ports_acceptGrid (who : Who) (c va : Nat) : (acceptGrid who c va).Ports := by
  have hRefuse (tag : Word) (f : Failure) : (failGrid c tag f >>= fun _ => Act.regField .gridStatus who.val 7 0 f.code).Ports :=
    writes_bind (ports_failGrid c tag f) fun _ => by simp
  refine writes_ite (writes_bind (hRefuse _ _) fun _ => writes_pure _) (writes_bind (ports_readVaFuel _ _ _ _) fun r => ?_)
  split
  · exact writes_pure _
  · exact writes_bind (hRefuse _ _) fun _ => writes_pure _
  · refine writes_ite (writes_bind (hRefuse _ _) fun _ => writes_pure _) (writes_bind (ports_modGrid _) fun _ => ?_)
    exact writes_bind (by simp) fun _ => writes_pure _

theorem ports_submitGrid (who : Who) (c va : Nat) : (submitGrid who c va).Ports :=
  writes_get_bind fun _ => writes_ite (writes_bind (by simp) fun _ => writes_pure _) (writes_bind (ports_acceptGrid _ _ _) fun _ =>
    writes_ite (writes_bind (ports_modGrid _) fun _ => writes_pure _) (writes_pure _))

theorem ports_readTable (va : Nat) : (readTable va).Ports := by
  have hPhys : (readTier va 128 >>= fun x => match x with
      | (_, some (a, syn)) => pure (.fail Code.faultEcc Block.grid 0 a syn)
      | (b, none) => pure (.bytes b) : Act Got).Ports := by
    refine writes_bind (ports_readTier _ _) fun x => ?_
    split <;> exact writes_pure _
  refine writes_get_bind fun s => writes_ite (ports_readVaFuel _ _ _ _) ?_
  split
  · exact hPhys
  · exact hPhys
  · exact hPhys
  · exact writes_pure _

theorem ports_takeTable (who : Who) (t va : Nat) : (takeTable who t va).Ports := by
  refine writes_bind (ports_readTable _) fun r => ?_
  split
  · exact writes_pure _
  · exact writes_bind (by simp) fun _ => writes_pure _
  · exact writes_bind (ports_modGrid _) fun _ => writes_bind (by simp) fun _ => writes_pure _

theorem ports_commitTables (who : Who) (t n : Nat) : (commitTables who t n).Ports := by
  refine writes_get_bind fun s => writes_ite (writes_bind (by simp) fun _ => writes_pure _) ?_
  exact writes_bind (writes_forIn (fun i _ => writes_bind (ports_modGrid _) fun _ => writes_pure _) _ _) fun _ =>
    writes_bind (by simp) fun _ => writes_pure _

theorem ports_tableCommand (who : Who) (value : Word) : (tableCommand who value).Ports := by
  unfold tableCommand
  split
  · exact writes_get_bind fun _ => writes_bind (ports_takeTable _ _ _) fun _ =>
      writes_ite (writes_bind (ports_modGrid _) fun _ => writes_pure _) (writes_pure _)
  · exact ports_commitTables _ _ _
  · exact writes_pure _

theorem ports_setExcluded (q : Nat) (v : Bool) : (setExcluded q v).Ports := writes_ite (by simp) (by simp)

theorem ports_alignCheck (q : Nat) : (alignCheck q).Ports := by
  refine writes_get_bind fun s => writes_ite (writes_ite ?_ (writes_ite (writes_ite ?_ (ports_modGrid _)) writes_nothing)) writes_nothing
  · exact writes_bind (ports_setExcluded _ _) fun _ => writes_bind (by simp) fun _ => writes_bind (ports_modGrid _) fun _ =>
      writes_bind (writes_fault _ (by simp) (by simp) (by simp)) fun _ => writes_pure _
  · exact writes_bind (ports_setExcluded _ _) fun _ => ports_modGrid _

theorem ports_writeDelta (q : Nat) (value : Word) : (writeDelta q value).Ports :=
  writes_get_bind fun _ => writes_ite (writes_bind (by simp) fun _ => writes_bind (ports_alignCheck _) fun _ => writes_pure _) (writes_pure _)

theorem ports_writeMaps (who : Who) {r : Reg} (hr : r ∈ Reg.gridRegs) (i j : Nat) (value hw : Word) :
    (writeMaps who r i j value hw).Ports := by
  refine writes_get_bind fun s => ?_
  split
  · exact ports_submitGrid _ _ _
  · exact ports_tableCommand _ _
  · exact ports_writeDelta _ _
  · exact absurd hr (by decide)
  · exact absurd hr (by decide)
  · exact absurd hr (by decide)
  · exact absurd hr (by decide)
  · exact absurd hr (by decide)
  · exact absurd hr (by decide)
  · exact ports_plainWrite _ _ _ _ _

/-! ## Writes of TIME -/

/-- The registers of TIME that a PORTS entry may write (R381). -/
def timedRegs : List Reg := [.toCfg, .toStartLo, .toStartHi, .toPeriod, .toFrac, .toWidth, .toLast, .tcCfg, .tcHeadLo, .tcHeadHi,
  .tcStat, .tcPop, .macAdj]

theorem ports_modTimed (n : Nat) (f : Timed → Timed) : (Act.modTimed n f).Ports := writes_get_bind fun _ => writes_make (by simp)

theorem ports_armOutput (n mode : Nat) : (armOutput n mode).Ports := by
  refine writes_get_bind fun s => ?_
  split
  · have hRest : (Act.modTimed n (fun x => { x with next := some (0, if decide (s.toStart n < s.fullTime) then s.fullTime else s.toStart n) }) >>=
        fun _ => if decide (s.toStart n < s.fullTime) then Act.modTimed n fun x => { x with
          next := none, asserted := true, lastLead := s.fullTime
          trail := if s.toWidth n = 0 then none else some (s.clock.elapsed + s.toWidth n * nsUnit) } else nothing).Ports :=
      writes_bind (ports_modTimed _ _) fun _ => writes_ite (ports_modTimed _ _) writes_nothing
    exact writes_ite (writes_bind (by simp) fun _ => hRest) hRest
  · exact ports_modTimed _ _
  · exact writes_nothing

theorem ports_writeToCfg (n : Nat) (value : Word) : (writeToCfg n value).Ports := by
  refine writes_get_bind fun s => writes_bind (by simp) fun _ => writes_make_bind (by simp) (writes_ite ?_ (writes_ite ?_ (writes_pure _)))
  · exact writes_bind (ports_modTimed _ _) fun _ => writes_pure _
  · exact writes_bind (ports_armOutput _ _) fun _ => writes_pure _

theorem ports_writeTimed (r : Reg) (n : Nat) (value : Word) : (writeTimed r n value).Ports :=
  writes_get_bind fun _ => writes_ite (writes_bind (by simp) fun _ => writes_pure _) (writes_pure _)

theorem ports_writeTiming (who : Who) {r : Reg} (hr : r ∈ timedRegs) (i j : Nat) (value hw : Word) :
    (writeTiming who r i j value hw).Ports := by
  refine writes_get_bind fun s => ?_
  split
  · exact absurd hr (by decide)
  · exact absurd hr (by decide)
  · exact absurd hr (by decide)
  · exact absurd hr (by decide)
  · exact writes_bind (ports_writeToCfg _ _) fun _ => writes_ite (writes_bind (by simp) fun _ => writes_pure _) (writes_pure _)
  · exact ports_writeTimed _ _ _
  · exact ports_writeTimed _ _ _
  · exact ports_writeTimed _ _ _
  · exact ports_writeTimed _ _ _
  · exact ports_writeTimed _ _ _
  · exact writes_ite (writes_get_bind fun _ => writes_make_bind (by simp) (writes_pure _)) (writes_pure _)
  · exact absurd hr (by decide)
  · exact absurd hr (by decide)
  · exact absurd hr (by decide)
  · exact ports_plainWrite _ _ _ _ _

/-! ## A PORTS entry -/

/-- A register that lies at an address is one of the address's window. -/
theorem Reg.mem_window_of_lookup {a : Nat} {r : Reg} {i j : Nat} (h : Reg.lookup a = some (r, i, j)) : r ∈ Reg.window (a / 0x10000) := by
  obtain ⟨x, hx, hAt⟩ := List.exists_of_findSome?_eq_some h
  obtain ⟨p, -, hp⟩ := Option.map_eq_some_iff.mp hAt
  have hxr : x = r := congrArg Prod.fst hp
  rwa [← hxr]

/-- Where a register that a PORTS entry may address lies. -/
theorem portsOffset_cases {o : Nat} (ho : portsOffset o = true) {r : Reg} {i j : Nat} (h : Reg.lookup o = some (r, i, j)) :
    (r ∈ Reg.weirRegs ++ Reg.ethRegs ++ Reg.csiRegs ++ Reg.canRegs) ∨ r ∈ Reg.gridRegs ∨ r ∈ timedRegs ∨ r = .sysGrant := by
  have hr := Reg.mem_window_of_lookup h
  unfold portsOffset at ho
  split at ho <;> rename_i hw
  · exact .inl (by rw [hw] at hr; simp only [List.mem_append]; exact .inl (.inl (.inl hr)))
  · exact .inr (.inl (by rw [hw] at hr; exact hr))
  · exact .inl (by rw [hw] at hr; simp only [List.mem_append]; exact .inl (.inl (.inr hr)))
  · exact .inl (by rw [hw] at hr; simp only [List.mem_append]; exact .inl (.inr hr))
  · exact .inl (by rw [hw] at hr; simp only [List.mem_append]; exact .inr hr)
  · rw [h] at ho
    exact .inr (.inr (.inl (List.contains_iff_mem.mp ho)))
  · rw [of_decide_eq_true ho] at h
    have hGrant : Reg.lookup 0x10 = some (.sysGrant, 0, 0) := by decide
    exact .inr (.inr (.inr (congrArg Prod.fst (Option.some.inj (h.symm.trans hGrant)))))

theorem ingress_base : ∀ r ∈ Reg.weirRegs ++ Reg.ethRegs ++ Reg.csiRegs ++ Reg.canRegs, r.row.base / 0x10000 ∈ [0x09, 0x11, 0x12, 0x13] := by
  decide

theorem grid_base : ∀ r ∈ Reg.gridRegs, r.row.base / 0x10000 = 0x0A := by decide

theorem timed_base : ∀ r ∈ timedRegs, r.row.base / 0x10000 = 0x0C := by decide

theorem ports_writeRegister (who : Who) {r : Reg} (hr : (r ∈ Reg.weirRegs ++ Reg.ethRegs ++ Reg.csiRegs ++ Reg.canRegs) ∨ r ∈ Reg.gridRegs ∨
    r ∈ timedRegs ∨ r = .sysGrant) (i j : Nat) (value hw : Word) : (writeRegister who r i j value hw).Ports := by
  unfold writeRegister
  obtain h | h | h | h := hr
  · have hBase := ingress_base r h
    simp only [List.mem_cons, List.not_mem_nil, or_false] at hBase
    obtain hBase | hBase | hBase | hBase := hBase <;> rw [hBase] <;> exact ports_writeIngress who r i j value hw
  · rw [grid_base r h]
    exact ports_writeMaps who h i j value hw
  · rw [timed_base r h]
    exact ports_writeTiming who h i j value hw
  · rw [h]
    exact writes_get_bind fun _ => ports_plainWrite _ _ _ _ _

/-- A write at an offset that PORTS may address. -/
theorem ports_writeAt (who : Who) {o : Nat} (ho : portsOffset o = true) (size : Nat) (value hw : Word) :
    (writeAt who (controlBase + o) size value hw).Ports := by
  refine writes_get_bind fun s => writes_ite ?_ (writes_pure _)
  rw [Nat.add_sub_cancel_left]
  split
  next r i j h => exact ports_writeRegister who (portsOffset_cases ho h) i j value hw
  · exact writes_pure _

/-- The entries of a PORTS section of its format. -/
theorem ports_applyPorts {es : List (List Byte)} (h : ∀ e ∈ es, portsOffset (natAt e 0 3) = true) (i : Nat) : (applyPorts es i).Ports := by
  induction es generalizing i with
  | nil => exact writes_pure _
  | cons e es ih =>
    refine writes_bind (ports_writeAt 0 (h e List.mem_cons_self) 4 _ 0) fun code => ?_
    exact writes_ite (ih (fun e he => h e (List.mem_cons_of_mem _ he)) _) (writes_pure _)

end Sys2Proof.Machine

/-!
PROOF. What the stages of a start leave as it is: power state, boot NOR, start flags, module ID, host link and the checks that
SEC_STAT shows (R374, R383 to R387).
-/
namespace Sys2Proof.Machine

variable {s : State} {α : Type} {l : List Fld}

/-- What a stage leaves of the device's supply, its NOR, its start flags, its ID and its host link. -/
def State.supply (s : State) : Power × List Host.Cell × Bool × Bool × Bool × Nat × Bool :=
  (s.power, s.nor, s.boot.off, s.boot.startDue, s.boot.recovery, s.casc.id, s.sdio.ready)

/-- What the three checks of stage 7 show. -/
def State.checks (s : State) : Bool × Bool × Bool := (flag (s.rg .secStat) 0, flag (s.rg .secStat) 1, flag (s.rg .secStat) 2)

/-- What every stage after the checks leaves. -/
def State.ground (s : State) : (Power × List Host.Cell × Bool × Bool × Bool × Nat × Bool) × Bool × Bool × Bool := (s.supply, s.checks)

abbrev Act.Ground (x : Act α) : Prop := x.Frames State.ground

theorem State.checks_of_find {t : State} (h : t.regs.find (Reg.off .secStat 0 0) = s.regs.find (Reg.off .secStat 0 0)) : t.checks = s.checks := by
  simp only [State.checks, State.rg_eq_of_find h]

theorem ground_get_bind {β : Type} {f : State → Act β} (hf : ∀ s, (f s).Ground) : (Act.get >>= f).Ground := Act.Frames.bind Act.Frames.get hf

theorem ground_nothing : nothing.Ground := Act.Frames.pure ()

theorem ground_of_writes {x : Act α} (h : x.Writes l) (hl : ∀ f ∈ l, f ≠ .power ∧ f ≠ .nor ∧ f ≠ .boot ∧ f ≠ .casc ∧ f ≠ .sdio ∧ f ≠ .regs) :
    x.Ground := frames_of_writes h fun s t ht => by
  have hPower : t.power = s.power := ht .power fun h => (hl _ h).1 rfl
  have hNor : t.nor = s.nor := ht .nor fun h => (hl _ h).2.1 rfl
  have hBoot : t.boot = s.boot := ht .boot fun h => (hl _ h).2.2.1 rfl
  have hCasc : t.casc = s.casc := ht .casc fun h => (hl _ h).2.2.2.1 rfl
  have hSdio : t.sdio = s.sdio := ht .sdio fun h => (hl _ h).2.2.2.2.1 rfl
  have hRegs : t.regs = s.regs := ht .regs fun h => (hl _ h).2.2.2.2.2 rfl
  simp only [State.ground, State.supply, hPower, hNor, hBoot, hCasc, hSdio, State.checks_of_find (congrArg (fun w : Sparse Word => w.find _) hRegs)]

theorem Act.Frames.does_of_eq {δ : Type} {g : State → δ} {x : Act α} {u : State} (hs : g u = g s) (h : x.Frames g) :
    x.Does u fun _ t => g t = g s := (h u).mono fun _ _ ht => ht.trans hs

/-! ## Registers beside SEC_STAT -/

theorem State.ground_upd_reg {r : Reg} {i j : Nat} (w : Word) (h : Reg.off .secStat 0 0 ≠ r.off i j) :
    (s.upd (.reg (r.off i j) w)).ground = s.ground :=
  Prod.ext rfl (State.checks_of_find (s.find_upd_reg_other w h))

theorem ground_regAt {r : Reg} {i j : Nat} (w : Word) (h : Reg.off .secStat 0 0 ≠ r.off i j) : (Act.regAt r i j w).Ground :=
  Act.Frames.make fun _ => State.ground_upd_reg w h

theorem ground_reg {r : Reg} {i : Nat} (w : Word) (h : Reg.off .secStat 0 0 ≠ r.off i 0) : (Act.reg r i w).Ground := ground_regAt w h

theorem ground_regField {r : Reg} {i : Nat} (hi lo v : Nat) (h : Reg.off .secStat 0 0 ≠ r.off i 0) : (Act.regField r i hi lo v).Ground :=
  ground_get_bind fun _ => ground_reg _ h

theorem ground_countSat {r : Reg} {i : Nat} (hi lo n : Nat) (h : Reg.off .secStat 0 0 ≠ r.off i 0) : (Act.countSat r i hi lo n).Ground :=
  ground_get_bind fun _ => ground_regField hi lo _ h

theorem ground_pwrDom {n : Nat} (v : Bool) (h : n < 96) : (Act.setBit3 .pwrDom n v).Ground :=
  ground_regField _ _ _ (by simp only [Reg.off, Reg.row]; omega)

/-- A field of SEC_STAT above the three checks. -/
theorem ground_secStat (hi lo v : Nat) (h : 3 ≤ lo) : (Act.regField .secStat 0 hi lo v).Ground := by
  refine fun s => Act.Does.get_bind (Act.Does.make (Prod.ext rfl ?_))
  change State.checks _ = s.checks
  simp only [State.checks, State.rg_upd_reg, flag_setField_other _ v (show ¬(lo ≤ 0 ∧ 0 ≤ hi) by omega),
    flag_setField_other _ v (show ¬(lo ≤ 1 ∧ 1 ≤ hi) by omega), flag_setField_other _ v (show ¬(lo ≤ 2 ∧ 2 ≤ hi) by omega)]

theorem frames_forIn_mem {γ β δ : Type} {g : State → δ} {f : γ → β → Act (ForInStep β)} {as : List γ} (hf : ∀ a ∈ as, ∀ b, (f a b).Frames g) (b : β) :
    (forIn as b f : Act β).Frames g := by
  induction as generalizing b with
  | nil => exact Act.Frames.pure b
  | cons a as ih =>
    rw [List.forIn_cons]
    refine Act.Frames.bind (hf a List.mem_cons_self b) fun r => ?_
    cases r with
    | done b' => exact Act.Frames.pure b'
    | yield b' => exact ih (fun x hx => hf x (List.mem_cons_of_mem _ hx)) b'

/-! ## Records and memory -/

theorem ground_telDrop : telDrop.Ground := fun _ => Act.Does.get_bind (Act.Does.make_bind (ground_countSat _ _ _ (by decide) _))

theorem ground_telemetry (type : Nat) (payload : List Byte) : (telemetry type payload).Ground := by
  refine fun s => Act.Does.get_bind (Act.Does.make_bind (Act.Does.ite (fun _ => Act.Does.make rfl) fun _ => (ground_telDrop _).bind fun _ t ht => ?_))
  split
  · exact Act.Does.get_bind (Act.Does.make ht)
  · exact Act.Does.pure ht

theorem ground_fault (r : FaultRec) : (fault r).Ground := by
  have hRest (seq : Nat) (ws : List Word) : (do
      Act.regField .sdioIntStat 0 1 1 1
      telemetry 4 (ws.flatMap fun w => bytesOf 4 w.toNat)
      return seq : Act Nat).Ground :=
    Act.Frames.bind (ground_regField _ _ _ (by decide)) fun _ => Act.Frames.bind (ground_telemetry _ _) fun _ => Act.Frames.pure _
  exact ground_get_bind fun s => Act.Frames.bind (Act.Frames.make fun _ => rfl) fun _ =>
    Act.Frames.ite (Act.Frames.bind (ground_countSat _ _ _ (by decide)) fun _ => hRest _ _) (hRest _ _)

theorem ground_writePhys (pa : Nat) (bs : List Byte) : (writePhys pa bs).Ground :=
  ground_of_writes (l := [.mem, .flips, .faults]) (by simp) (by decide)

theorem ground_sliceWrite (pa : Nat) (bs : List Byte) : (sliceWrite pa bs).Ground := by
  refine ground_get_bind fun s => ?_
  dsimp only
  split
  · exact Act.Frames.pure _
  · exact Act.Frames.ite (Act.Frames.pure _) (Act.Frames.bind (Act.Frames.loop (fun m _ => Act.Frames.bind (ground_writePhys _ _) fun _ =>
      Act.Frames.pure _) _ _) fun _ => Act.Frames.pure _)

theorem ground_wearFlash : wearFlash.Ground := by
  refine Act.Frames.bind (ground_of_writes (writes_draw (l := [.freeCount]) (by simp)) (by decide)) fun n =>
    Act.Frames.bind (ground_of_writes (writes_draw (l := [.freeCount]) (by simp)) (by decide)) fun m => ?_
  refine ground_get_bind fun s => ?_
  split
  refine Act.Frames.bind (Act.Frames.make fun _ => rfl) fun _ => Act.Frames.ite (Act.Frames.bind (ground_reg _ (by decide)) fun _ =>
    Act.Frames.bind (ground_reg _ (by decide)) fun _ => ground_reg _ (by decide)) ground_nothing

theorem ground_writeTier (pa : Nat) (bs : List Byte) : (writeTier pa bs).Ground := by
  refine ground_get_bind fun s => Act.Frames.ite (ground_sliceWrite pa bs) ?_
  have hStore : (writePhys pa bs >>= fun _ => pure Code.ok).Ground := Act.Frames.bind (ground_writePhys pa bs) fun _ => Act.Frames.pure _
  refine Act.Frames.ite (Act.Frames.ite (Act.Frames.pure _) (Act.Frames.ite ?_ ?_)) hStore
  · exact Act.Frames.bind (Act.Frames.make fun _ => rfl) fun _ => Act.Frames.bind ground_wearFlash fun _ => hStore
  · exact Act.Frames.bind ground_wearFlash fun _ => hStore

/-! ## Units -/

theorem ground_modTriad (t : Nat) (f : Triad → Triad) : (Act.modTriad t f).Ground := ground_get_bind fun _ => Act.Frames.make fun _ => rfl

theorem ground_setRole (x role : Nat) : (setRole x role).Ground := ground_regField _ _ _ (by decide)

theorem ground_refxTriad {t : Nat} (ht : t < 2) (hi lo v : Nat) : (Act.regField .refxTriad t hi lo v).Ground :=
  ground_regField _ _ _ (by simp only [Reg.off, Reg.row]; omega)

theorem ground_abandonRebuild (t : Nat) : (abandonRebuild t).Ground := by
  refine ground_get_bind fun s => ?_
  split
  · exact Act.Frames.ite (Act.Frames.bind (ground_setRole _ _) fun _ => ground_modTriad _ _) (ground_modTriad _ _)
  · exact Act.Frames.bind ground_nothing fun _ => ground_modTriad _ _

theorem ground_formTriad {t : Nat} (ht : t < 2) (want : List Nat) : (formTriad t want).Ground := by
  refine Act.Frames.bind (ground_abandonRebuild t) fun _ => ground_get_bind fun u => ?_
  refine Act.Frames.bind (Act.Frames.loop (fun y _ => Act.Frames.bind (ground_setRole _ _) fun _ => Act.Frames.pure _) _ _) fun _ =>
    Act.Frames.bind (Act.Frames.loop (fun p _ => ?_) _ _) fun _ => ground_modTriad _ _
  split
  · exact Act.Frames.bind (ground_setRole _ _) fun _ => Act.Frames.bind (ground_refxTriad ht _ _ _) fun _ => Act.Frames.pure _
  · exact Act.Frames.bind (ground_refxTriad ht _ _ _) fun _ => Act.Frames.pure _

theorem ground_loadCode (t : Nat) : (loadCode t).Ground := by
  refine ground_get_bind fun s => Act.Frames.bind (Act.Frames.loop (fun x _ => ?_) _ _) fun _ => Act.Frames.pure _
  have hZero : (zeroPhys (slicePa x 0) 0x4_0000).Ground :=
    ground_of_writes (l := [.mem, .flips, .faults]) (writes_make_bind (by simp) (by simp)) (by decide)
  exact Act.Frames.bind hZero fun _ => Act.Frames.bind (ground_writePhys _ _) fun _ => Act.Frames.pure _

theorem ground_formTriads (en : Enables) (retired : BitVec 8) : (formTriads en retired).Ground := by
  refine Act.Frames.bind (Act.Frames.loop (fun x _ => Act.Frames.bind (ground_setRole _ _) fun _ => Act.Frames.pure _) _ _) fun _ => ?_
  refine Act.Frames.bind (frames_forIn_mem (fun t ht _ => ?_) _) fun _ => ?_
  · have hTwo : t < 2 := by simp at ht; omega
    exact Act.Frames.bind (Act.Frames.loop (fun p _ => Act.Frames.bind (ground_refxTriad hTwo _ _ _) fun _ => Act.Frames.pure _) _ _) fun _ =>
      Act.Frames.pure _
  · refine Act.Frames.bind (ground_formTriad (by decide) _) fun _ => Act.Frames.bind (ground_formTriad (by decide) _) fun _ =>
      Act.Frames.bind (ground_of_writes (writes_draw (l := [.freeCount]) (by simp)) (by decide)) fun d => ground_get_bind fun s => ?_
    refine Act.Frames.bind (frames_forIn_mem (fun x hx _ => ?_) _) fun _ => Act.Frames.bind (Act.Frames.make fun _ => rfl) fun _ =>
      Act.Frames.bind (Act.Frames.loop (fun t _ => Act.Frames.bind (ground_loadCode _) fun _ => Act.Frames.pure _) _ _) fun _ => Act.Frames.pure _
    exact Act.Frames.bind (ground_pwrDom _ (by have := List.mem_range.mp hx; omega)) fun _ => Act.Frames.pure _

theorem lt_of_mem_unitsOf {n : Nat} {m : BitVec n} {e : Nat} (h : e ∈ unitsOf m) : e < n := List.mem_range.mp (List.mem_filter.mp h).1

theorem ground_recordUnits (blocks : List Nat) : (recordUnits blocks).Ground :=
  Act.Frames.bind (Act.Frames.loop (fun _ _ => Act.Frames.bind (ground_fault _) fun _ => Act.Frames.pure _) _ _) fun _ => Act.Frames.pure _

theorem ground_applyTests (en : Enables) (o : StartOutcome) (t : TestResult) : (applyTests en o t).Ground := by
  refine ground_get_bind fun s => Act.Frames.bind (Act.Frames.make fun _ => rfl) fun _ => Act.Frames.bind (ground_reg _ (by decide)) fun _ =>
    Act.Frames.bind (ground_reg _ (by decide)) fun _ => Act.Frames.bind (ground_reg _ (by decide)) fun _ =>
    Act.Frames.bind (ground_reg _ (by decide)) fun _ => Act.Frames.bind (frames_forIn_mem (fun i hi _ => ?_) _) fun _ =>
    Act.Frames.bind (ground_reg _ (by decide)) fun _ => Act.Frames.bind (ground_reg _ (by decide)) fun _ =>
    Act.Frames.bind (frames_forIn_mem (fun e he _ => ?_) _) fun _ => Act.Frames.bind (frames_forIn_mem (fun n hn _ => ?_) _) fun _ => ?_
  · have hThree : i < 3 := List.mem_range.mp hi
    refine Act.Frames.bind (ground_reg _ ?_) fun _ => Act.Frames.bind (ground_reg _ ?_) fun _ =>
      Act.Frames.bind (ground_reg _ ?_) fun _ => Act.Frames.pure _
    all_goals
      simp only [Reg.off, Reg.row]
      omega
  · have hEight : e < 8 := lt_of_mem_unitsOf he
    refine Act.Frames.bind (Act.Frames.make fun _ => rfl) fun _ => Act.Frames.bind (ground_pwrDom _ (by omega)) fun _ =>
      Act.Frames.bind (frames_forIn_mem (fun q hq _ => ?_) _) fun _ => Act.Frames.pure _
    exact Act.Frames.bind (ground_pwrDom _ (by have := List.mem_range.mp hq; omega)) fun _ => Act.Frames.pure _
  · exact Act.Frames.bind (ground_pwrDom _ (by have := lt_of_mem_unitsOf hn; omega)) fun _ => Act.Frames.pure _
  · exact Act.Frames.bind (ground_recordUnits _) fun _ => Act.Frames.bind (ground_recordUnits _) fun _ =>
      Act.Frames.bind (ground_recordUnits _) fun _ => Act.Frames.bind (ground_recordUnits _) fun _ =>
      Act.Frames.bind (ground_recordUnits _) fun _ => ground_recordUnits _

/-! ## Sections -/

theorem ground_applyLayout (b : List Byte) : (applyLayout b).Ground := by
  refine Act.Frames.bind (ground_reg _ (by decide)) fun _ s => Act.Does.get_bind ?_
  split
  refine Act.Does.reg_bind (Act.Does.reg_bind (Act.Does.reg_bind (Act.Does.make_bind (Act.Does.make (Prod.ext rfl ?_)))))
  change State.checks (((s.upd _).upd _).upd _) = s.checks
  exact (congrArg Prod.snd (State.ground_upd_reg _ (by decide))).trans ((congrArg Prod.snd (State.ground_upd_reg _ (by decide))).trans
    (congrArg Prod.snd (State.ground_upd_reg _ (by decide))))

theorem ground_applyPuf (b : List Byte) (pufOk : Bool) : (applyPuf b pufOk).Ground := by
  refine fun s => Act.Does.get_bind (Act.Does.draw_bind (Act.Does.make_bind (Act.Frames.does_of_eq rfl ?_)))
  refine Act.Frames.bind (ground_reg _ (by decide)) fun _ => Act.Frames.bind (ground_reg _ (by decide)) fun _ =>
    Act.Frames.ite (ground_get_bind fun u => ?_) (Act.Frames.ite (ground_secStat _ _ _ (by decide)) ?_)
  · split
    · exact Act.Frames.bind (ground_writeTier _ _) fun _ => Act.Frames.bind ground_nothing fun _ => ground_secStat _ _ _ (by decide)
    · exact Act.Frames.bind ground_nothing fun _ => ground_secStat _ _ _ (by decide)
  · exact Act.Frames.bind (ground_fault _) fun _ => Act.Frames.pure _

/-- The cascade and the limits leave the module's ID. -/
theorem ground_applyLimits (casc power : List Byte) : (applyLimits casc power).Ground := by
  refine fun s => Act.Does.get_bind (Act.Does.make_bind (Act.Frames.does_of_eq rfl ?_))
  exact Act.Frames.ite (Act.Frames.bind (ground_reg _ (by decide)) fun _ => Act.Frames.bind (ground_reg _ (by decide)) fun _ =>
    Act.Frames.bind (ground_reg _ (by decide)) fun _ => Act.Frames.make fun _ => rfl) ground_nothing

theorem ground_loadInitial (certs : List Cert) (progs : List (List Byte)) : (loadInitial certs progs).Ground := by
  refine Act.Frames.bind (Act.Frames.loop (fun x _ => ?_) _ _) fun _ => Act.Frames.make fun _ => rfl
  obtain ⟨img, i⟩ := x
  dsimp only
  split
  · exact Act.Frames.bind (Act.Frames.make fun _ => rfl) fun _ => Act.Frames.pure _
  · exact Act.Frames.bind (ground_countSat _ _ _ (by decide)) fun _ =>
      Act.Frames.ite (Act.Frames.bind (ground_countSat _ _ _ (by decide)) fun _ => Act.Frames.pure _) (Act.Frames.pure _)

end Sys2Proof.Machine

/-!
PROOF. The stages of a start: a stage that fails ends in recovery, and a start whose stages all pass leaves the device started
(R374, R383, R386, R387).
-/
namespace Sys2Proof.Machine

variable {s u : State} {o : StartOutcome} {img : List Byte} {xs : List Section}

/-! ## Stage 7 -/

/-- What a look at the checks of stage 7 leaves. -/
theorem Act.Does.secStat_bind {α : Type} {f : Unit → Act α} {Q : α → State → Prop} {hi lo v : Nat}
    (h : (f ()).Does (s.upd (.reg (Reg.off .secStat 0 0) (setField (s.rg .secStat) hi lo v))) Q) :
    (Act.regField .secStat 0 hi lo v >>= f).Does s Q := Act.Does.regField_bind h

/-- The three checks shown one by one, the key count between them. -/
theorem checks_shown (s : State) (n : Nat) :
    let a := s.upd (.reg (Reg.off .secStat 0 0) (setField (s.rg .secStat) 0 0 1))
    let b := a.upd (.reg (Reg.off .secStat 0 0) (setField (a.rg .secStat) 1 1 1))
    let c := b.upd (.reg (Reg.off .secStat 0 0) (setField (b.rg .secStat) 7 5 n))
    (c.upd (.reg (Reg.off .secStat 0 0) (setField (c.rg .secStat) 2 2 1))).checks = (true, true, true) := by
  simp [State.checks, State.rg_upd_reg, flag_setField_other]

/-- The verdict of stage 7: the checks shown in SEC_STAT where it passes, and nothing else that a start keeps. -/
theorem verifyImage_does {sig : Section} (hLast : xs.getLast? = some sig) (part : Nat) (s : State) :
    (verifyImage img xs part).Does s fun r t => t.supply = s.supply ∧
      ((r = none ∧ imageSigned img xs part ∧ t.checks = (true, true, true)) ∨
       (r = some { reason := 4, stage := 7 } ∧ ¬imageSigned img xs part)) := by
  unfold verifyImage
  simp only [hLast, Option.getD_some]
  refine Act.Does.ite (fun hRoot => Act.Does.pure ⟨rfl, .inr ⟨rfl, ?_⟩⟩) fun hRoot => ?_
  · rintro ⟨_, _, -, h, -⟩
    exact hRoot h
  refine Act.Does.secStat_bind (Act.Does.ite (fun hRhoson => Act.Does.pure ⟨rfl, .inr ⟨rfl, ?_⟩⟩) fun hRhoson => ?_)
  · rintro ⟨_, _, -, -, h, -⟩
    simp [h] at hRhoson
  split
  next hNone =>
    refine Act.Does.pure ⟨rfl, .inr ⟨rfl, ?_⟩⟩
    rintro ⟨x, key, hx, -, -, hKey, -⟩
    obtain rfl := Option.some.inj (hLast.symm.trans hx)
    exact absurd (hNone.symm.trans hKey) (by simp)
  next key hKey =>
    refine Act.Does.ite (fun hChain => Act.Does.pure ⟨rfl, .inr ⟨rfl, ?_⟩⟩) fun hChain => ?_
    · rintro ⟨_, _, -, -, -, -, h, -⟩
      simp [h] at hChain
    refine Act.Does.secStat_bind (Act.Does.secStat_bind (Act.Does.ite (fun hSig => Act.Does.pure ⟨rfl, .inr ⟨rfl, ?_⟩⟩) fun hSig => ?_))
    · rintro ⟨x, key', hx, -, -, hKey', -, h⟩
      obtain rfl := Option.some.inj (hLast.symm.trans hx)
      obtain rfl := Option.some.inj (hKey.symm.trans hKey')
      simp [h] at hSig
    refine Act.Does.secStat_bind (Act.Does.get_bind (Act.Does.make_bind (Act.Does.pure ⟨rfl, .inl ⟨rfl, ⟨sig, key, hLast, ?_, ?_, hKey, ?_, ?_⟩, ?_⟩⟩)))
    · exact not_not.mp hRoot
    · simpa using hRhoson
    · simpa using hChain
    · simpa using hSig
    · exact checks_shown s _

/-! ## The format -/

theorem formatFail_none {own : Nat} (h : formatFail img own = none) : ∃ xs, walkSections img Sec.signature (img.length / 64 + 1) 64 = some xs ∧
    (∀ x ∈ xs, ∀ i, (x, i) ∈ xs.zipIdx → badSection img own xs x i = false) ∧ xs ≠ [] := by
  unfold formatFail at h
  split at h
  · exact absurd h (by simp)
  next xs hWalk =>
    dsimp only at h
    split at h
    · exact absurd h (by simp)
    next hGood =>
      split at h
      · exact absurd h (by simp)
      next hAll =>
        refine ⟨xs, hWalk, fun x _ i hi => ?_, ?_⟩
        · simpa using List.find?_eq_none.mp hGood (x, i) hi
        · rintro rfl
          simp [hasSection] at hAll

/-- The entries of a PORTS section that has its format. -/
theorem portsOffset_of_format {own : Nat} (h : formatFail img own = none) (hWalk : walkSections img Sec.signature (img.length / 64 + 1) 64 = some xs) :
    ∀ e ∈ entries 8 (contentOf img xs Sec.ports).length (contentOf img xs Sec.ports), portsOffset (natAt e 0 3) = true := by
  obtain ⟨ys, hYs, hGood, -⟩ := formatFail_none h
  obtain rfl := Option.some.inj (hWalk.symm.trans hYs)
  unfold contentOf
  split
  next x hx =>
    have hMem := List.mem_of_find?_eq_some hx
    have hType : x.type = Sec.ports := by simpa using List.find?_some hx
    obtain ⟨i, hi⟩ := List.mem_iff_getElem?.mp hMem
    have hBad := hGood x hMem i (List.mk_mem_zipIdx_iff_getElem?.mpr hi)
    have hContent : contentOk own x.type (x.of img) = true := by
      simp only [badSection, Bool.or_eq_false_iff, Bool.not_eq_false'] at hBad
      exact hBad.2
    rw [hType] at hContent
    have hEntries : ((entries 8 (x.of img).length (x.of img)).all fun e => natAt e 3 1 = 0 && portsOffset (natAt e 0 3)) = true :=
      (Bool.and_eq_true_iff.mp hContent).2
    intro e he
    exact (Bool.and_eq_true_iff.mp (List.all_eq_true.mp hEntries e he)).2
  · intro e he
    simp [entries] at he

/-! ## Stages 8 and 9 -/

/-- How stages 8 and 9 end: started, or with the first PORTS entry that fails. -/
theorem applySections_does {own : Nat} (hFormat : formatFail img own = none)
    (hWalk : walkSections img Sec.signature (img.length / 64 + 1) 64 = some xs) (pufOk : Bool) (s : State) :
    (applySections img xs pufOk).Does s fun r t => t.nor = s.nor ∧ t.power = s.power ∧
      (r = none ∨ ∃ i, r = some { reason := 6, stage := 8, place := i }) ∧
      (contentOf img xs Sec.ports = [] → r = none ∧ t.ground = s.ground) := by
  refine (ground_applyLayout _ s).bind fun _ t ht => (ground_applyPuf _ pufOk t).bind fun _ u hu => ?_
  have hGround : u.ground = s.ground := hu.trans ht
  have hNor : u.nor = s.nor := congrArg (·.1.2.1) hGround
  have hPower : u.power = s.power := congrArg (·.1.1) hGround
  have hPorts : (applyPorts (entries 8 (contentOf img xs Sec.ports).length (contentOf img xs Sec.ports)) 0).Does u fun r v =>
      v.nor = s.nor ∧ v.power = s.power ∧ (contentOf img xs Sec.ports = [] → r = none ∧ v.ground = s.ground) := by
    by_cases hNil : contentOf img xs Sec.ports = []
    · rw [hNil]
      exact Act.Does.pure ⟨hNor, hPower, fun _ => ⟨rfl, hGround⟩⟩
    · exact ((ports_applyPorts (portsOffset_of_format hFormat hWalk) 0).does u).mono fun _ v hv =>
        ⟨(hv .nor (by simp)).trans hNor, (hv .power (by simp)).trans hPower, fun h => absurd h hNil⟩
  refine hPorts.bind fun r v hv => ?_
  obtain ⟨hNor', hPower', hEmpty⟩ := hv
  cases r with
  | some i => exact Act.Does.pure ⟨hNor', hPower', .inr ⟨i, rfl⟩, fun h => absurd (hEmpty h).1 (by simp)⟩
  | none =>
    refine (ground_applyLimits _ _ v).bind fun _ w hw => Act.Does.get_bind (Act.Does.make_bind ?_)
    refine (ground_loadInitial _ _ _).bind fun _ x hx => Act.Does.pure ?_
    have hAll : x.ground = v.ground := hx.trans hw
    exact ⟨(congrArg (·.1.2.1) hAll).trans hNor', (congrArg (·.1.1) hAll).trans hPower', .inl rfl, fun h => ⟨rfl, hAll.trans (hEmpty h).2⟩⟩

/-! ## Recovery -/

/-- The start of `s` has ended in recovery as `f` says. -/
def State.Recovers (s : State) (f : StartFail) (t : State) : Prop :=
  t.supply = (s.power, s.nor, s.boot.off, s.boot.startDue, true, s.casc.id, s.sdio.ready) ∧
  t.rg .bootStat = Word.ofNat (pack [(f.stage, 0), (1, 4), (f.reason, 8), (f.place, 16)])

/-- What a stage after the verdict is written leaves of a start. -/
def State.ending (s : State) : (Power × List Host.Cell × Bool × Bool × Bool × Nat × Bool) × Word := (s.supply, s.rg .bootStat)

theorem ending_reg {r : Reg} {i : Nat} (w : Word) (h : Reg.off .bootStat 0 0 ≠ r.off i 0) : (Act.reg r i w).Frames State.ending :=
  Act.Frames.make fun u => Prod.ext rfl (State.rg_eq_of_find (State.find_upd_reg_other u w h))

theorem ending_pwrDom {n : Nat} (v : Bool) : (Act.setBit3 .pwrDom n v).Frames State.ending :=
  Act.Frames.bind Act.Frames.get fun _ => ending_reg _ (by simp only [Reg.off, Reg.row]; omega)

theorem enterRecovery_does (f : StartFail) (s : State) : (enterRecovery f).Does s fun _ t => s.Recovers f t := by
  refine Act.Does.get_bind (Act.Does.reg_bind (Act.Does.make_bind ?_))
  have hRest : ((do
      Act.make (.ctx 1023 {})
      for n in (List.range 96).filter fun n => (2 ≤ n && n ≤ 9) || (42 ≤ n && n ≤ 49) || 88 ≤ n && n ≤ 93 do
        Act.setBit3 .pwrDom n false
      Act.reg .sdioStageBase 0 (Word.ofNat (8192 + s.backedTiles - 2048))
      Act.reg .sdioStageSize 0 (Word.ofNat 2048)) : Act Unit).Frames State.ending :=
    Act.Frames.bind (Act.Frames.make fun _ => rfl) fun _ => Act.Frames.bind (Act.Frames.loop (fun n _ => Act.Frames.bind (ending_pwrDom _)
      fun _ => Act.Frames.pure _) _ _) fun _ => Act.Frames.bind (ending_reg _ (by decide)) fun _ => ending_reg _ (by decide)
  exact (hRest _).mono fun _ t ht => ⟨congrArg (·.1) ht, (congrArg (·.2) ht).trans (State.rg_upd_reg s .bootStat 0 0 _)⟩

end Sys2Proof.Machine

/-!
PROOF. A start that is due runs its stages, and how it ends (R374, R386 to R388).
-/
namespace Sys2Proof.Machine

variable {s u v : State} {o : StartOutcome} {img : List Byte} {xs : List Section} {α : Type}

/-! ## The verdict of stages 2 to 7 -/

/-- What a start that has failed by stage 7, as `f` says, has for a reason. -/
def State.Rejects (s : State) (o : StartOutcome) (f : StartFail) : Prop :=
  (∀ f', startFails s o f' → f' = f) ∧ ∀ img xs, ¬startPasses s o img xs

/-- The start's image passes every stage up to 7. -/
def State.Accepts (s : State) (o : StartOutcome) (img : List Byte) : Prop :=
  s.stage2 o = .inl img ∧ formatFail img o.strapId.val = none ∧ ∀ f, ¬startFails s o f

theorem State.rejects_of_stage2 {f : StartFail} (h : s.stage2 o = .inr f) : s.Rejects o f := by
  refine ⟨fun f' hf => ?_, fun img xs hp => absurd (h.symm.trans hp.1) (by simp)⟩
  obtain hf | ⟨img, hImg, -⟩ := hf
  · exact Sum.inr.inj (hf.symm.trans h)
  · exact absurd (h.symm.trans hImg) (by simp)

/-- A start whose image stage 2 has read fails as its stages say. -/
theorem State.startFails_iff (h : s.stage2 o = .inl img) (f : StartFail) : startFails s o f ↔
    let ok := (testUnits (Enables.of (img.drop 72)) o).ok
    (ok = false ∧ f = { reason := 7, stage := 4 } ∨
     ok = true ∧ (∃ place, formatFail img o.strapId.val = some place ∧ f = { reason := 3, stage := 6, place }) ∨
     ok = true ∧ formatFail img o.strapId.val = none ∧ f = { reason := 4, stage := 7 } ∧
       ∃ xs, walkSections img Sec.signature (img.length / 64 + 1) 64 = some xs ∧ ¬imageSigned img xs (field (s.rg .sysId) 15 4)) := by
  constructor
  · rintro (hf | ⟨img', hImg, hf⟩)
    · exact absurd (h.symm.trans hf) (by simp)
    · obtain rfl := Sum.inl.inj (h.symm.trans hImg)
      exact hf
  · exact fun hf => .inr ⟨img, h, hf⟩

theorem State.rejects_of_tests (h : s.stage2 o = .inl img) (hOk : (testUnits (Enables.of (img.drop 72)) o).ok = false) :
    s.Rejects o { reason := 7, stage := 4 } := by
  refine ⟨fun f hf => ?_, fun img' xs hp => ?_⟩
  · obtain ⟨-, hf⟩ | ⟨hTrue, -⟩ | ⟨hTrue, -⟩ := (State.startFails_iff h f).mp hf
    · exact hf
    · exact absurd (hOk.symm.trans hTrue) (by simp)
    · exact absurd (hOk.symm.trans hTrue) (by simp)
  · obtain rfl := Sum.inl.inj (h.symm.trans hp.1)
    exact absurd (hOk.symm.trans hp.2.1) (by simp)

/-- The image is judged as R377, R378 and R383 say. -/
theorem judgeImage_does (h : s.stage2 o = .inl img) (hOk : (testUnits (Enables.of (img.drop 72)) o).ok = true) (u : State) :
    (judgeImage img o.strapId.val (field (s.rg .sysId) 15 4)).Does u fun r t => t.supply = u.supply ∧
      ((∃ f, r = some f ∧ s.Rejects o f) ∨ (r = none ∧ s.Accepts o img ∧ t.checks = (true, true, true))) := by
  unfold judgeImage
  split
  next place hPlace =>
    refine Act.Does.pure ⟨rfl, .inl ⟨_, rfl, fun f hf => ?_, fun img' xs hp => ?_⟩⟩
    · obtain ⟨hFalse, -⟩ | ⟨-, place', hPlace', hf⟩ | ⟨-, hNone, -⟩ := (State.startFails_iff h f).mp hf
      · exact absurd (hOk.symm.trans hFalse) (by simp)
      · obtain rfl := Option.some.inj (hPlace.symm.trans hPlace')
        exact hf
      · exact absurd (hPlace.symm.trans hNone) (by simp)
    · obtain rfl := Sum.inl.inj (h.symm.trans hp.1)
      exact absurd (hPlace.symm.trans hp.2.2.1) (by simp)
  next hFormat =>
    obtain ⟨xs, hWalk, -, hNe⟩ := formatFail_none hFormat
    have hLast := List.getLast?_eq_some_getLast hNe
    rw [show sectionsOf img = xs from by rw [sectionsOf, hWalk]; rfl]
    refine (verifyImage_does hLast _ u).mono fun r t ht => ⟨ht.1, ?_⟩
    obtain ⟨-, ⟨hr, hSigned, hChecks⟩ | ⟨hr, hUnsigned⟩⟩ := ht
    · refine .inr ⟨hr, ⟨h, hFormat, fun f hf => ?_⟩, hChecks⟩
      obtain ⟨hFalse, -⟩ | ⟨-, _, hPlace, -⟩ | ⟨-, -, -, ys, hYs, hNot⟩ := (State.startFails_iff h f).mp hf
      · exact absurd (hOk.symm.trans hFalse) (by simp)
      · exact absurd (hFormat.symm.trans hPlace) (by simp)
      · obtain rfl := Option.some.inj (hWalk.symm.trans hYs)
        exact hNot hSigned
    · refine .inl ⟨_, hr, fun f hf => ?_, fun img' ys hp => ?_⟩
      · obtain ⟨hFalse, -⟩ | ⟨-, _, hPlace, -⟩ | ⟨-, -, hf, -⟩ := (State.startFails_iff h f).mp hf
        · exact absurd (hOk.symm.trans hFalse) (by simp)
        · exact absurd (hFormat.symm.trans hPlace) (by simp)
        · exact hf
      · obtain ⟨hImg, -, -, hYs, hSigned⟩ := hp
        obtain rfl := Sum.inl.inj (h.symm.trans hImg)
        obtain rfl := Option.some.inj (hWalk.symm.trans hYs)
        exact hUnsigned hSigned

/-! ## The stages -/

/-- How the stages end for a start of `s`: in recovery where one of 2 to 7 fails, else started or with a PORTS entry that fails. -/
structure State.Staged (s : State) (o : StartOutcome) (t : State) : Prop where
  nor : t.nor = s.nor
  power : t.power = s.power
  fails : ∀ f, startFails s o f → s.Recovers f t
  passes : ∀ img xs, startPasses s o img xs →
    (contentOf img xs Sec.ports = [] → t.ground = (s.supply, true, true, true) ∧ t.rg .bootStat = 10) ∧
    (t.rg .bootStat = 10 ∨ ∃ i, t.rg .bootStat = Word.ofNat (pack [(8, 0), (1, 4), (6, 8), (i, 16)]))

theorem State.Recovers.of_supply {f : StartFail} (hs : u.supply = s.supply) (h : u.Recovers f v) : s.Recovers f v := by
  simp only [State.supply, Prod.mk.injEq] at hs
  obtain ⟨hPower, hNor, hOff, hDue, -, hId, hReady⟩ := hs
  exact ⟨h.1.trans (by rw [hPower, hNor, hOff, hDue, hId, hReady]), h.2⟩

theorem State.Recovers.staged {f : StartFail} (hReject : s.Rejects o f) (h : s.Recovers f v) : s.Staged o v where
  nor := congrArg (·.2.1) h.1
  power := congrArg (·.1) h.1
  fails f' hf := hReject.1 f' hf ▸ h
  passes img xs hp := absurd hp (hReject.2 img xs)

/-- The units are set as the tests found them, and the start goes on. -/
theorem Act.Does.units_bind {en en' : Enables} {r : TestResult} {retired : BitVec 8} {f : Unit → Act α} {Q : α → State → Prop}
    (h : ∀ v, v.ground = u.ground → (f ()).Does v Q) : (applyTests en o r >>= fun _ => formTriads en' retired >>= f).Does u Q :=
  (ground_applyTests en o r u).bind fun _ _ ht => (ground_formTriads en' retired _).bind fun _ v hv => h v (hv.trans ht)

/-- The end of a start that has failed by stage 7. -/
theorem recovery_staged {f : StartFail} (hReject : s.Rejects o f) (hs : u.supply = s.supply) :
    (enterRecovery f).Does u fun _ t => s.Staged o t :=
  (enterRecovery_does f u).mono fun _ _ ht => (ht.of_supply hs).staged hReject

/-- The end of a start whose image has passed. -/
theorem sections_staged (hAccept : s.Accepts o img) (hs : u.ground = (s.supply, true, true, true)) :
    (applySections img (sectionsOf img) o.pufOk >>= fun r => match r with
      | some f => enterRecovery f
      | none => Act.reg .bootStat 0 (Word.ofNat 10)).Does u fun _ t => s.Staged o t := by
  obtain ⟨hImg, hFormat, hNoFail⟩ := hAccept
  obtain ⟨xs, hWalk, -⟩ := formatFail_none hFormat
  rw [show sectionsOf img = xs from by rw [sectionsOf, hWalk]; rfl]
  refine (applySections_does hFormat hWalk o.pufOk u).bind fun r t ht => ?_
  obtain ⟨hNor, hPower, hResult, hNil⟩ := ht
  have hNor' : t.nor = s.nor := hNor.trans (congrArg (·.1.2.1) hs)
  have hPower' : t.power = s.power := hPower.trans (congrArg (·.1.1) hs)
  have hSame {img' : List Byte} {ys : List Section} (hp : startPasses s o img' ys) : img' = img ∧ ys = xs := by
    obtain ⟨hImg', -, -, hYs, -⟩ := hp
    obtain rfl := Sum.inl.inj (hImg.symm.trans hImg')
    exact ⟨rfl, Option.some.inj (hYs.symm.trans hWalk)⟩
  obtain rfl | ⟨i, rfl⟩ := hResult
  · refine Act.Does.make ⟨hNor', hPower', fun f hf => absurd hf (hNoFail f), fun img' ys hp => ?_⟩
    obtain ⟨rfl, rfl⟩ := hSame hp
    have hStat : (t.upd (.reg (Reg.off .bootStat 0 0) (Word.ofNat 10))).rg .bootStat = 10 := State.rg_upd_reg t .bootStat 0 0 _
    exact ⟨fun h => ⟨(State.ground_upd_reg (r := .bootStat) (i := 0) (j := 0) _ (by decide)).trans ((hNil h).2.trans hs), hStat⟩, .inl hStat⟩
  · refine (enterRecovery_does _ t).mono fun _ v hv => ⟨(congrArg (·.2.1) hv.1).trans hNor', (congrArg (·.1) hv.1).trans hPower',
      fun f hf => absurd hf (hNoFail f), fun img' ys hp => ?_⟩
    obtain ⟨rfl, rfl⟩ := hSame hp
    exact ⟨fun h => absurd (hNil h).1 (by simp), .inr ⟨i, hv.2⟩⟩

/-- A header that is shown in two registers, or not, before an action that needs neither. -/
theorem Act.Does.shown {c : Prop} [Decidable c] {w : Upd} {r r' : Reg} {a b : Word} {x : Act α} {Q : α → State → Prop}
    (hw : (s.upd w).supply = s.supply) (h : ∀ u, u.supply = s.supply → x.Does u Q) :
    (if c then (do
      Act.make w
      Act.reg r 0 a
      Act.reg r' 0 b
      x) else x).Does s Q :=
  Act.Does.ite (fun _ => Act.Does.make_bind (Act.Does.reg_bind (Act.Does.reg_bind (h _ hw)))) fun _ => h s rfl

theorem startStages_does (o : StartOutcome) (s : State) : (startStages o).Does s fun _ t => s.Staged o t := by
  refine Act.Does.get_bind (Act.Does.shown rfl fun u hu => ?_)
  cases hFound : s.stage2 o with
  | inr f => exact Act.Does.pure_bind (Act.Does.units_bind fun v hv => Act.Does.pure_bind
      (recovery_staged (State.rejects_of_stage2 hFound) ((congrArg (·.1) hv).trans hu)))
  | inl img =>
    refine Act.Does.ite (fun hOk => ?_) fun hOk => ?_
    · exact Act.Does.pure_bind (Act.Does.units_bind fun v hv => Act.Does.pure_bind
        (recovery_staged (State.rejects_of_tests hFound (by simpa using hOk)) ((congrArg (·.1) hv).trans hu)))
    · refine (judgeImage_does hFound (by simpa using hOk) u).bind fun r t ht => ?_
      obtain ⟨hSupply, ⟨f, rfl, hReject⟩ | ⟨rfl, hAccept, hChecks⟩⟩ := ht
      · exact Act.Does.units_bind fun v hv => Act.Does.pure_bind (recovery_staged hReject ((congrArg (·.1) hv).trans (hSupply.trans hu)))
      · exact Act.Does.units_bind fun v hv => sections_staged hAccept (hv.trans (Prod.ext (hSupply.trans hu) hChecks))

end Sys2Proof.Machine

/-!
PROOF. START, SYS_RESTART and VIN_RISE (R374, R386 to R388, R484, R490, Table 16.7).
-/
namespace Sys2Proof.Machine

variable {s u t : State} {o : StartOutcome}

/-! ## A start depends on the boot NOR and the part's ID -/

theorem stage2_congr (hNor : u.nor = s.nor) (hId : u.rg .sysId = s.rg .sysId) : u.stage2 o = s.stage2 o := by
  have hBytes : u.norBytes = s.norBytes := by
    funext a n
    simp only [State.norBytes, hNor]
  simp only [State.stage2, hBytes, hId]

theorem startFails_congr (hNor : u.nor = s.nor) (hId : u.rg .sysId = s.rg .sysId) (f : StartFail) : startFails u o f = startFails s o f := by
  simp only [startFails, stage2_congr hNor hId, hId]

theorem startPasses_congr (hNor : u.nor = s.nor) (hId : u.rg .sysId = s.rg .sysId) (img : List Byte) (xs : List Section) :
    startPasses u o img xs = startPasses s o img xs := by
  simp only [startPasses, stage2_congr hNor hId, hId]

theorem startEnds_congr (hNor : u.nor = s.nor) (hId : u.rg .sysId = s.rg .sysId) : startEnds u o = startEnds s o := by
  funext t
  simp only [startEnds, startFails_congr hNor hId, startPasses_congr hNor hId]

/-! ## A start that is due -/

/-- A device whose start goes on from its image: it runs, and what the image depends on is as in `s`. -/
structure State.StartBegun (s : State) (o : StartOutcome) (u : State) : Prop where
  nor : u.nor = s.nor
  sysId : u.rg .sysId = s.rg .sysId
  supply : u.supply = ({ s.power with state := .run, rails := true, thermtrip := false }, s.nor, false, false, s.boot.recovery, o.strapId.val, true)

/-- The device that runs with verdict `r` of its recovery flag. -/
theorem State.runs_of_supply {P : Power} {n : List Host.Cell} {r : Bool} {i : Nat} (hRun : P.state = .run)
    (h : t.supply = (P, n, false, false, r, i, true)) :
    t.power.state = .run ∧ t.boot.recovery = r ∧ t.boot.off = false ∧ t.boot.startDue = false ∧ t.casc.id = i ∧ t.sdio.ready = true := by
  simp only [State.supply, Prod.mk.injEq] at h
  obtain ⟨hPower, -, hOff, hDue, hRecovery, hId, hReady⟩ := h
  exact ⟨hPower ▸ hRun, hRecovery, hOff, hDue, hId, hReady⟩

/-- A start that has its stages behind it. -/
theorem State.StartBegun.ends (h : s.StartBegun o u) (hRecovery : s.boot.recovery = false) (hStaged : u.Staged o t) :
    let v := t.upd (.reg (Reg.off .bootTime 0 0) (Word.ofNat o.micros))
    let w := v.upd (.casc { v.casc with alive := !v.boot.recovery })
    startEnds s o w ∧ w.nor = s.nor ∧ w.power.vinGood = s.power.vinGood := by
  intro v w
  have hStat : w.rg .bootStat = t.rg .bootStat := State.rg_eq_of_find (State.find_upd_reg_other t _ (by decide))
  have hTime : w.rg .bootTime = Word.ofNat o.micros := State.rg_upd_reg t .bootTime 0 0 _
  have hPower : u.power = { s.power with state := .run, rails := true, thermtrip := false } := congrArg (·.1) h.supply
  have hVin : t.power.vinGood = s.power.vinGood := by rw [hStaged.power, hPower]
  rw [← startEnds_congr h.nor h.sysId]
  refine ⟨⟨fun f hf => ?_, fun img xs hp => ?_⟩, hStaged.nor.trans h.nor, hVin⟩
  · obtain ⟨hSupply, hFail⟩ := hStaged.fails f hf
    have hU := State.runs_of_supply rfl h.supply
    have hT : t.supply = (u.power, u.nor, false, false, true, o.strapId.val, true) := by
      rw [hSupply, hU.2.2.1, hU.2.2.2.1, hU.2.2.2.2.1, hU.2.2.2.2.2]
    obtain ⟨hRun, hRec, hOff, hDue, hId, hReady⟩ := State.runs_of_supply hU.1 hT
    exact ⟨hRun, hRec, hOff, hDue, hStat.trans hFail, hTime, hId, by change (!t.boot.recovery) = false; rw [hRec]; rfl, hReady⟩
  · obtain ⟨hNil, hEnd⟩ := hStaged.passes img xs hp
    rw [hStat]
    refine ⟨fun hPorts => ?_, hEnd⟩
    obtain ⟨hGround, hTen⟩ := hNil hPorts
    have hChecks : w.checks = (true, true, true) :=
      (congrArg (·.2) (State.ground_upd_reg (s := t) (r := .bootTime) (i := 0) (j := 0) _ (by decide))).trans (congrArg (·.2) hGround)
    obtain ⟨hRun, hRec, hOff, hDue, hId, hReady⟩ := State.runs_of_supply rfl ((congrArg (·.1) hGround).trans (h.supply.trans (by rw [hRecovery])))
    simp only [State.checks, Prod.mk.injEq] at hChecks
    obtain ⟨h0, h1, h2⟩ := hChecks
    refine ⟨hRun, hRec, hOff, hDue, hStat.trans hTen, hTime, hId, by change (!t.boot.recovery) = true; rw [hRec]; rfl, hReady, fun i hi => ?_⟩
    interval_cases i
    · exact h0
    · exact h1
    · exact h2

/-- What the domains' registers leave of a device that starts. -/
def State.starting (s : State) : Power × List Host.Cell × Boot × Word := (s.power, s.nor, s.boot, s.rg .sysId)

theorem domains_reset (s : State) : (forIn (List.range 3) PUnit.unit fun i _ => do
    Act.reg .pwrDom i (Reg.pwrDom.resetAt i)
    pure (ForInStep.yield PUnit.unit) : Act PUnit).Does s fun _ t => t.starting = s.starting := by
  refine Act.Frames.loop (fun i _ => Act.Frames.bind (Act.Frames.make fun u => ?_) fun _ => Act.Frames.pure _) _ _ s
  have hId : (u.upd (.reg (Reg.off .pwrDom i 0) (Reg.pwrDom.resetAt i))).rg .sysId = u.rg .sysId :=
    State.rg_eq_of_find (State.find_upd_reg_other u _ (by simp only [Reg.off, Reg.row]; omega))
  simp only [State.starting, hId]
  rfl

theorem State.StartBegun.of_starting {v : State} {b : Boot}
    (h : v.starting = ({ s.power with state := .run, rails := true, thermtrip := false }, s.nor, b, s.rg .sysId))
    (hBoot : b.off = false ∧ b.startDue = false ∧ b.recovery = s.boot.recovery) {r : Reflex} {c : Casc} {x : Sdio}
    (hId : c.id = o.strapId.val) (hReady : x.ready = true) : s.StartBegun o (((v.upd (.reflex r)).upd (.casc c)).upd (.sdio x)) := by
  simp only [State.starting, Prod.mk.injEq] at h
  obtain ⟨hPower, hNor, hSame, hSys⟩ := h
  obtain ⟨hOff, hDue, hRecovery⟩ := hBoot
  refine ⟨hNor, hSys, ?_⟩
  change (v.power, v.nor, v.boot.off, v.boot.startDue, v.boot.recovery, c.id, x.ready) = _
  rw [hPower, hNor, hSame, hOff, hDue, hRecovery, hId, hReady]

/-- The units, the link and the stages of a start, once its regulators and its domains are up. -/
theorem startRest_does {v : State} {b : Boot} (h : v.starting = ({ s.power with state := .run, rails := true, thermtrip := false }, s.nor, b, s.rg .sysId))
    (hBoot : b.off = false ∧ b.startDue = false ∧ b.recovery = s.boot.recovery) (hRecovery : s.boot.recovery = false) {r : Reflex} {c : Casc} {x : Sdio}
    (hId : c.id = o.strapId.val) (hReady : x.ready = true) : (do
      Act.make (.reflex r)
      Act.make (.casc c)
      Act.make (.sdio x)
      startStages o
      Act.reg .bootTime 0 (Word.ofNat o.micros)
      let u ← Act.get
      Act.make (.casc { u.casc with alive := !u.boot.recovery }) : Act Unit).Does v fun _ t =>
        startEnds s o t ∧ t.nor = s.nor ∧ t.power.vinGood = s.power.vinGood := by
  refine Act.Does.make_bind (Act.Does.make_bind (Act.Does.make_bind ((startStages_does o _).bind fun _ t ht => ?_)))
  exact Act.Does.reg_bind (Act.Does.get_bind (Act.Does.make ((State.StartBegun.of_starting h hBoot hId hReady).ends hRecovery ht)))

/-- An action on a look at the state, of which only `P` counts. -/
theorem Act.Does.get_bind_of {α : Type} {f : State → Act α} {Q : α → State → Prop} (P : State → Prop) (hP : P s)
    (h : ∀ v, P v → (f v).Does v Q) : (Act.get >>= f).Does s Q := Act.Does.get_bind (h s hP)

theorem State.starting_due (s : State) (n : Nat) (b : Boot) :
    (((s.upd (.pass n)).upd (.boot b)).upd .draw).starting = (s.power, s.nor, b, s.rg .sysId) := rfl

theorem State.starting_up (s : State) (c : Clock) (p : Power) (b : Boot) :
    (((s.upd (.clock c)).upd (.power p)).upd (.boot b)).starting = (p, s.nor, b, s.rg .sysId) := rfl

/-- A start that is due, of a device whose regulators and host link come up. -/
theorem doStart_does (hDue : s.boot.startDue = true) (hDead : s.boot.dead = false) (hRecovery : s.boot.recovery = false)
    (hRails : o.railsUp = true) (hLink : o.linkOk = true) :
    (doStart o).Does s fun _ t => startEnds s o t ∧ t.nor = s.nor ∧ t.power.vinGood = s.power.vinGood := by
  refine Act.Does.get_bind (Act.Does.ite (fun _ => ?_) fun hNot => absurd (by simp [hDue, hDead]) hNot)
  refine Act.Does.make_bind (Act.Does.make_bind (Act.Does.ite (fun _ => ?_) fun hNot => absurd hRails hNot))
  refine Act.Does.ite (fun hNot => absurd hNot (by simp [hLink])) fun _ => ?_
  refine Act.Does.draw_bind (Act.Does.get_bind_of (fun v => v.starting = (s.power, s.nor, { s.boot with startDue := false }, s.rg .sysId)) (s.starting_due _ _)
    fun v hv => Act.Does.make_bind (Act.Does.make_bind (Act.Does.make_bind ((domains_reset _).bind fun _ w hw => ?_))))
  have hw' : w.starting = ({ s.power with state := .run, rails := true, thermtrip := false }, s.nor, { s.boot with startDue := false, off := false },
      s.rg .sysId) := by
    simp only [State.starting, Prod.mk.injEq] at hv
    obtain ⟨hPower, hNor, -, hId⟩ := hv
    rw [hw, State.starting_up, hPower, hNor, hId]
  exact startRest_does hw' ⟨rfl, rfl, rfl⟩ hRecovery rfl rfl

end Sys2Proof.Machine

/-!
PROOF. The starts that commands bring about, from START to VIN_RISE (R386 to R388, R484, R490).
-/
namespace Sys2Proof.Machine

variable {s : State} {o : StartOutcome} {who : Who}

/-- Time has passed and the flags of a start have changed, and nothing else. -/
theorem State.passed_boot (s : State) (n : Nat) (b : Boot) :
    let t := (s.upd (.pass n)).upd (.boot b)
    t = { s with clock := t.clock, boot := t.boot } ∧ t.boot = b := ⟨rfl, rfl⟩

theorem State.passed_rails (s : State) (n : Nat) (b b' : Boot) :
    let u := ((s.upd (.pass n)).upd (.boot b)).upd (.boot b')
    let t := u.upd (.power { u.power with rails := true })
    t = { s with clock := t.clock, boot := t.boot, power := { s.power with rails := true } } ∧ t.boot = b' := ⟨rfl, rfl⟩

theorem doStart_railsDown (hDue : s.boot.startDue = true) (hDead : s.boot.dead = false) (hRails : o.railsUp = false) :
    (doStart o).Does s fun _ t => t = { s with clock := t.clock, boot := t.boot } ∧ t.boot = { s.boot with startDue := false } := by
  refine Act.Does.get_bind (Act.Does.ite (fun _ => ?_) fun hNot => absurd (by simp [hDue, hDead]) hNot)
  refine Act.Does.make_bind (Act.Does.make_bind (Act.Does.ite (fun h => absurd h (by simp [hRails])) fun _ => Act.Does.pure ?_))
  exact s.passed_boot _ _

theorem doStart_linkDown (hDue : s.boot.startDue = true) (hDead : s.boot.dead = false) (hRails : o.railsUp = true) (hLink : o.linkOk = false) :
    (doStart o).Does s fun _ t => t = { s with clock := t.clock, boot := t.boot, power := { s.power with rails := true } } ∧
      t.boot = { s.boot with startDue := false, dead := true } := by
  refine Act.Does.get_bind (Act.Does.ite (fun _ => ?_) fun hNot => absurd (by simp [hDue, hDead]) hNot)
  refine Act.Does.make_bind (Act.Does.make_bind (Act.Does.ite (fun _ => ?_) fun h => absurd hRails h))
  refine Act.Does.ite (fun _ => Act.Does.make_bind (Act.Does.get_bind (Act.Does.make ?_))) fun h => absurd (by simp [hLink]) h
  exact s.passed_rails _ _ _

theorem doStart_notDue (hDue : s.boot.startDue = false) : (doStart o).Does s fun _ t => t = s :=
  Act.Does.get_bind (Act.Does.ite (fun h => absurd h (by simp [hDue])) fun _ => Act.Does.pure rfl)

/-! ## A device that was cut off -/

/-- The device is in Off, ready for a start but for the flag that asks for one. -/
structure State.Idled (s t : State) (due : Bool) : Prop where
  nor : t.nor = s.nor
  sysId : t.rg .sysId = State.reset.rg .sysId
  boot : t.boot = { State.reset.boot with off := true, dead := s.boot.dead, startDue := due }

theorem enterOff_idled : enterOff.Does s fun _ t => s.Idled t false := by
  refine Act.Does.get_bind (Act.Does.make_bind (Act.Does.get_bind (Act.Does.make_bind (Act.Does.make_bind (Act.Does.make_bind
    (Act.Does.make_bind ((setDomains_does .off _).mono fun _ t ht => ?_)))))))
  have hBoot := ht.same .boot (by decide)
  change t.boot = _ at hBoot
  refine ⟨ht.same .nor (by decide), State.rg_eq_of_find (ht.others _ fun i => ?_), by rw [hBoot]; rfl⟩
  simp only [Reg.off, Reg.row]
  omega

/-- What the refuser log leaves of a device that is to start. -/
theorem idled_reg {r : Reg} {i : Nat} (w : Word) (h : Reg.off .sysId 0 0 ≠ r.off i 0) : (Act.reg r i w).Frames State.starting :=
  Act.Frames.make fun u => by
    have hId : (u.upd (.reg (r.off i 0) w)).rg .sysId = u.rg .sysId := State.rg_eq_of_find (State.find_upd_reg_other u w h)
    simp only [State.starting, hId]
    rfl

theorem restartNow_idled : restartNow.Does s fun _ t => s.Idled t true := by
  refine Act.Does.get_bind (enterOff_idled.bind fun _ t ht => Act.Does.get_bind (Act.Does.make_bind ?_))
  have hLog : ((do
      for i in List.range 4 do Act.reg .pwrRefused i (s.rg .pwrRefused i)
      Act.reg .pwrLogHead 0 (s.rg .pwrLogHead)
      for i in List.range 16 do
        Act.reg .pwrLog i (s.rg .pwrLog i)
        Act.reg .pwrLogTime i (s.rg .pwrLogTime i)) : Act Unit).Frames State.starting :=
    Act.Frames.bind (Act.Frames.loop (fun i _ => Act.Frames.bind (idled_reg _ (by simp only [Reg.off, Reg.row]; omega)) fun _ => Act.Frames.pure _) _ _)
      fun _ => Act.Frames.bind (idled_reg _ (by decide)) fun _ => Act.Frames.bind (Act.Frames.loop (fun i _ => Act.Frames.bind
        (idled_reg _ (by simp only [Reg.off, Reg.row]; omega)) fun _ => Act.Frames.bind (idled_reg _ (by simp only [Reg.off, Reg.row]; omega))
        fun _ => Act.Frames.pure _) _ _) fun _ => Act.Frames.pure _
  refine (hLog _).mono fun _ u hu => ?_
  simp only [State.starting, Prod.mk.injEq] at hu
  obtain ⟨-, hNor, hBoot, hId⟩ := hu
  refine ⟨hNor.trans ht.nor, hId.trans ht.sysId, hBoot.trans ?_⟩
  change { t.boot with startDue := true } = _
  rw [ht.boot]

/-- A device that was cut off and is to start. -/
theorem State.Idled.starts {u : State} (h : s.Idled u true) (hDead : s.boot.dead = false) (hRails : o.railsUp = true) (hLink : o.linkOk = true) :
    (doStart o).Does u fun _ t => startEnds (withNor s.nor) o t ∧ t.power.vinGood = u.power.vinGood ∧ t.nor = s.nor := by
  refine (doStart_does (by rw [h.boot]) (by rw [h.boot]; exact hDead) (by rw [h.boot]; rfl) hRails hLink).mono fun _ t ht => ?_
  obtain ⟨hEnds, hNor, hVin⟩ := ht
  exact ⟨startEnds_congr (u := u) (s := withNor s.nor) h.nor h.sysId ▸ hEnds, hVin, hNor.trans h.nor⟩

/-! ## The commands -/

theorem sysRestart_discarded (hTakes : s.takes who .sysRestart 0) (hDue : s.boot.startDue = false) {key : BitVec 16} (hKey : key ≠ 0xC0DE) :
    s.does (.sysRestart who key o) fun t => t = { s with bus := t.bus } := by
  refine State.does_of rfl ((command_does (Q := fun _ t => t = { s with bus := t.bus }) hTakes (Act.Does.ite (fun h => absurd h hKey)
    fun _ => Act.Does.pure rfl)).bind fun _ t ht => Act.Does.ite (fun _ => ?_) fun _ => Act.Does.pure ht)
  refine (doStart_notDue ?_).mono fun _ u hu => hu ▸ ht
  rw [ht]
  exact hDue

theorem sysRestart_starts (hTakes : s.takes who .sysRestart 0) (hDue : s.boot.startDue = false) (hRails : o.railsUp = true) (hLink : o.linkOk = true) :
    s.does (.sysRestart who 0xC0DE o) fun t => startEnds (withNor s.nor) o t ∧ t.nor = s.nor := by
  have hDead : s.boot.dead = false := by
    have hReach := hTakes.1
    simp only [State.reachable, Bool.and_eq_true, Bool.not_eq_true'] at hReach
    exact hReach.1.2
  refine State.does_of rfl ((command_does (Q := fun _ t => s.Idled t true) hTakes (Act.Does.ite (fun _ => restartNow_idled.bind
    fun _ t ht => Act.Does.pure ⟨ht.nor, ht.sysId, ht.boot⟩) fun h => absurd rfl h)).bind fun _ t ht =>
    Act.Does.ite (fun _ => (ht.starts hDead hRails hLink).mono fun _ u hu => ⟨hu.1, hu.2.2⟩) fun h => absurd (by simp [hDue]) h)

theorem vinRise_off : s.does (.vinRise false o) fun t => isOff s t ∧ t.power.vinGood = true ∧ t.power.thermtrip = false :=
  State.does_of rfl (enterOff_does.bind fun _ _ ht => Act.Does.get_bind (Act.Does.make_bind (Act.Does.ite (fun h => absurd h (by simp))
    fun _ => Act.Does.pure ⟨ht.off, rfl, rfl⟩)))

theorem vinRise_starts (hDead : s.boot.dead = false) (hRails : o.railsUp = true) (hLink : o.linkOk = true) :
    s.does (.vinRise true o) fun t => startEnds (withNor s.nor) o t ∧ t.power.vinGood = true ∧ t.nor = s.nor := by
  refine State.does_of rfl (enterOff_idled.bind fun _ t ht => Act.Does.get_bind (Act.Does.make_bind (Act.Does.ite (fun _ => Act.Does.make_bind ?_)
    fun h => absurd rfl h)))
  have hIdled : s.Idled ((t.upd (.power { t.power with vinGood := true, thermtrip := false })).upd (.boot { t.boot with startDue := true })) true := by
    refine ⟨ht.nor, ht.sysId, ?_⟩
    change { t.boot with startDue := true } = _
    rw [ht.boot]
  exact (hIdled.starts hDead hRails hLink).mono fun _ u hu => ⟨hu.1, hu.2.1, hu.2.2⟩

/-- Settles O51: a start's stages end as its image decides, whatever the registers that a PORTS section writes do beside the boot NOR and
the power unit. -/
theorem startsEndInRunRecoveryOrOff : Obligations.StartsEndInRunRecoveryOrOff := by
  intro s o
  refine ⟨fun hDue hDead => ⟨fun hRails hLink hRecovery => ?_, fun hRails => State.does_of rfl (doStart_railsDown hDue hDead hRails),
    fun hRails hLink => State.does_of rfl (doStart_linkDown hDue hDead hRails hLink)⟩, fun hDue => State.does_of rfl (doStart_notDue hDue),
    fun who hTakes hDue => ⟨fun key hKey => sysRestart_discarded hTakes hDue hKey, sysRestart_starts hTakes hDue⟩, vinRise_off, vinRise_starts⟩
  exact State.does_of rfl ((doStart_does hDue hDead hRecovery hRails hLink).mono fun _ _ ht => ht.1)

end Sys2Proof.Machine

/-!
PROOF. Writes of PLAN through the page tables, and what an armed injection that is a codeword leaves of a word (R216, R331, R470,
R501).
-/
namespace Sys2Proof.Machine

variable {s : State} {c va pa entry : Nat} {bs : List Byte}

/-! ## Words with a codeword inverted -/

/-- Inverted bits that form a codeword are not found: the word reads as another. -/
theorem read_codeword (d e : BitVec 64) : Ecc.read d (Ecc.encode e) = (d ^^^ e, .clean, 0) := by
  have hSyn : Ecc.syndrome (Ecc.encode d ^^^ Ecc.encode e) = 0 := by
    rw [syndrome_xor, syndrome_encode, syndrome_encode]
    rfl
  have hData : (Ecc.encode d ^^^ Ecc.encode e).extractLsb' 0 64 = d ^^^ e := by
    rw [BitVec.extractLsb'_xor, data_encode, data_encode]
  simp only [Ecc.read, hSyn, hData]
  rfl

/-- The `n` bytes at `pa` as they are read where the data word at `w` has the bits of `e` inverted. -/
def State.peekInverted (s : State) (pa n w : Nat) (e : BitVec 64) : List Byte :=
  let fixed := bytesOf 8 (BitVec.ofNat 64 (s.peekNat w 8) ^^^ e).toNat
  (List.range n).map fun i => if w ≤ pa + i ∧ pa + i < w + 8 then fixed.getD (pa + i - w) 0 else (s.peek pa n).getD i 0

theorem readPhys_codeword {w n : Nat} {e : BitVec 64} (hFlips : s.flips = [(w, Ecc.encode e)]) (hIn : w < pa + n ∧ pa < w + 8) :
    (readPhys pa n).Does s fun r t => r = (s.peekInverted pa n w e, none) ∧ t = s := by
  refine Act.Does.get_bind ?_
  rw [hFlips]
  refine Act.Does.bind (Q := fun r t => r = (s.peekInverted pa n w e, none) ∧ t = s) ?_ ?_
  · rw [List.forIn_cons]
    dsimp only
    rw [if_pos hIn, read_codeword]
    exact Act.Does.pure_bind (Act.Does.pure_bind (Act.Does.pure ⟨rfl, rfl⟩))
  · rintro _ t ⟨rfl, rfl⟩
    exact Act.Does.pure ⟨rfl, rfl⟩

/-! ## Writes -/

/-- A write whose page the stop's TLB holds, ready for writes, is translated and changes nothing. -/
theorem translate_write {stop : Nat} (h : s.reaches { ctx := c, stop } va true pa) :
    (translate { ctx := c, stop } va true).Does s fun r t => r = .ok pa ∧ t = s := by
  obtain ⟨hVa, -, e, hFind, hOut, hReady⟩ := h
  obtain ⟨hDirty, hTag, -⟩ := hReady rfl
  have hLeaf : (leafFor { ctx := c, stop } va).Does s fun r t => r = .leaf e.leaf.toNat e.entry ∧ t = s := by
    refine Act.Does.get_bind ?_
    simp only [hFind]
    exact Act.Does.pure ⟨rfl, rfl⟩
  have hMark : (markDirty { ctx := c, stop } va e.entry).Does s fun _ t => t = s := by
    refine Act.Does.get_bind ?_
    simp only [hFind, hDirty, Bool.not_true, Bool.false_eq_true, if_false]
    exact Act.Does.pure rfl
  unfold translate
  simp only [Via.viewOf, List.find?_nil]
  unfold translateFlat
  rw [if_neg (by omega)]
  refine hLeaf.bind ?_
  rintro _ t ⟨rfl, rfl⟩
  refine Act.Does.get_bind ?_
  simp only [hOut, if_true]
  exact Act.Does.pure_bind (Act.Does.after_idle hMark (Act.Does.pure ⟨rfl, rfl⟩))

theorem planWrite_does (h : s.passes (planVia c) va true pa entry) (hn : 0 < bs.length) (hPage : va % 65536 + bs.length ≤ 65536)
    (hTrouble : s.plan.trouble = none) (hPsram : regionAt pa = some .psram) {Q : Unit → State → Prop}
    (hWrite : (writePhys pa bs).Does s fun _ t => Q () t) : (planWrite c va bs).Does s Q := by
  have hAll : min bs.length (65536 - va % 65536) = bs.length := by omega
  have hTier : (writeTier pa bs).Does s fun r t => r = Code.ok ∧ Q () t := by
    refine Act.Does.get_bind (Act.Does.ite (fun h => absurd (hPsram.symm.trans h) (by simp)) fun _ =>
      Act.Does.ite (fun h => absurd (hPsram.symm.trans h) (by simp)) fun _ => hWrite.bind fun _ t ht => Act.Does.pure ⟨rfl, ht⟩)
  have hNow : (writeVaNow (planVia c) va bs).Does s fun r t => r = none ∧ Q () t := by
    unfold writeVaNow
    rw [show bs.length / 65536 + 2 = (bs.length / 65536 + 1) + 1 from rfl, writeNow]
    simp only [hAll, List.take_length]
    unfold translateNow
    refine Act.Does.bind (Q := fun r t => r = .ok pa ∧ t = s) ((translate_write h.1).bind ?_) ?_
    · rintro _ t ⟨rfl, rfl⟩
      exact Act.Does.pure ⟨rfl, rfl⟩
    · rintro _ t ⟨rfl, rfl⟩
      refine hTier.bind ?_
      rintro _ u ⟨rfl, hu⟩
      exact Act.Does.ite (fun h => absurd rfl h) fun _ => Act.Does.ite (fun _ => Act.Does.pure ⟨rfl, hu⟩) fun h => absurd trivial h
  refine Act.Does.get_bind (Act.Does.ite (fun _ => ?_) fun h => absurd (by simp [hTrouble]) h)
  refine (rangeWaits_does h hn hPage).bind ?_
  rintro _ t ⟨rfl, rfl⟩
  refine Act.Does.ite (fun h => absurd h (by simp)) fun _ => hNow.bind ?_
  rintro _ u ⟨rfl, hu⟩
  exact Act.Does.pure hu

/-- An armed injection takes effect in the word that is written. -/
theorem writePhys_arms {w : Nat} {f : BitVec 72} (hFlips : s.flips = []) (hArmed : s.faults.inject = some (w, f)) (hf : f ≠ 0)
    (hIn : w < pa + bs.length ∧ pa < w + 8) : (writePhys pa bs).Does s fun _ t =>
      t = { s with mem := Memory.store 0 s.mem pa bs, flips := [(w, f)], faults := { s.faults with inject := none } } := by
  refine Act.Does.make_bind (Act.Does.get_bind ?_)
  change (forIn s.flips _ _ >>= _ : Act Unit).Does _ _
  rw [hFlips]
  refine Act.Does.pure_bind ?_
  change (match s.faults.inject with
    | some (w, f) => _
    | none => _ : Act Unit).Does _ _
  rw [hArmed]
  refine Act.Does.ite (fun _ => Act.Does.make_bind (Act.Does.make ?_)) fun h => absurd hIn h
  simp only [State.upd, if_neg hf, hFlips, Sparse.put]

end Sys2Proof.Machine

/-!
PROOF. A request of PLAN whose DEADLINE comes: an armed injection makes the page of its record park (R216, R330, R470).
-/
namespace Sys2Proof.Machine

/-! ## The device -/

/-- PSRAM tile `n`. -/
def psramTile (n : Nat) : Nat := psramBase + n * 65536

/-- VERIFY with its tile at page 4 and its record in page 0. -/
def armedDesc : List Byte := List.replicate 0x78 0 ++ bytesOf 8 0x4_0000 ++ bytesOf 8 0x40 ++ List.replicate 120 0

/-- The request, as it is under way or waits for its result's pages. -/
def armedReq (waits : Bool) : PlanReq :=
  { who := 8, ctx := 1, desc := armedDesc, snap := 0, held := 0, waiting := waits, ending := if waits then some Code.bestEffort else none }

/-- The bit of a leaf that makes writes park. -/
def movingBit : BitVec 64 := BitVec.ofNat 64 (2 ^ 36)

/-- Pages 0 and 4 of context 1 are tiles 502 and 300. Their entries stand in tile 301, right behind the trajectory tile, and the word
that ends in the first of them has an injection armed that is a codeword. -/
def armedPlan (waits : Bool) : State :=
  { State.reset with
    ctxs := [(1, { st := .ready }), (1023, Context.migration)]
    mem := Memory.store 0 (Memory.store 0 [] (psramTile 301) (bytesOf 8 (psramTile 502 + 3))) (psramTile 301 + 32) (bytesOf 8 (psramTile 300 + 3))
    xlat := { tlb := [{ stop := Stop.plan, ctx := 1, page := 0, leaf := BitVec.ofNat 64 (psramTile 502 + 3), dirtied := true },
      { stop := Stop.plan, ctx := 1, page := 4, leaf := BitVec.ofNat 64 (psramTile 300 + 3), dirtied := true }], walk := [(1, 0, psramTile 301)] }
    faults := { inject := some (psramTile 300 + 65532, Ecc.encode movingBit) }
    plan := { requests := [armedReq waits] } }

theorem armedPlan_sound (waits : Bool) (pa : Nat) (hPa : pa = psramTile 301 ∨ pa = psramTile 301 + 32) : (armedPlan waits).sound pa 8 := by
  refine ⟨fun _ hf => absurd hf List.not_mem_nil, ?_⟩
  cases waits <;> rcases hPa with rfl | rfl <;> decide +kernel

theorem armedPlan_passes_tile (waits : Bool) : (armedPlan waits).passes (planVia 1) 0x4_0000 true (psramTile 300) (psramTile 301 + 32) := by
  refine ⟨⟨by decide, rfl, { stop := Stop.plan, ctx := 1, page := 4, leaf := BitVec.ofNat 64 (psramTile 300 + 3), dirtied := true }, ?_⟩,
    psramTile 300 + 3, ⟨(1, 0, psramTile 301), ?_, by decide +kernel, ?_, armedPlan_sound waits _ (.inr rfl), ?_⟩, ?_⟩
  all_goals cases waits <;> decide +kernel

theorem armedPlan_passes_record (waits : Bool) : (armedPlan waits).passes (planVia 1) 0x40 true (psramTile 502 + 0x40) (psramTile 301) := by
  refine ⟨⟨by decide, rfl, { stop := Stop.plan, ctx := 1, page := 0, leaf := BitVec.ofNat 64 (psramTile 502 + 3), dirtied := true }, ?_⟩,
    psramTile 502 + 3, ⟨(1, 0, psramTile 301), ?_, by decide +kernel, ?_, armedPlan_sound waits _ (.inl rfl), ?_⟩, ?_⟩
  all_goals cases waits <;> decide +kernel

/-! ## The trajectory tile -/

theorem armedTile_length (waits : Bool) (code : Nat) : (planTile (armedReq waits) code).length = 65536 := by
  simp [planTile, fit_length]

/-- A trajectory tile ends with its stop samples. -/
theorem planTile_eq (r : PlanReq) (code : Nat) : ∃ h : List Byte, h.length = 0xC100 ∧
    planTile r code = h ++ fit (65536 - 0xC100) (r.stops.flatMap Sample.bytes) :=
  ⟨_, by simp [fit_length], (List.append_assoc _ _ _).symm⟩

/-- The tile ends in zeros. -/
theorem armedTile_end (waits : Bool) (code : Nat) {i : Nat} (hi : 65532 ≤ i) : (planTile (armedReq waits) code).getD i 0 = 0 := by
  obtain ⟨h, hLength, hTile⟩ := planTile_eq (armedReq waits) code
  have hNone : (armedReq waits).stops.flatMap Sample.bytes = [] := rfl
  rw [hTile, List.getD_append_right _ _ _ _ (by omega), hNone]
  simp only [fit, List.take_nil, List.nil_append, List.getD_eq_getElem?_getD, List.getElem?_replicate]
  split <;> rfl

/-- Memory behind the tile's last word reads as before the tile is written. -/
theorem byte_armedTile (waits : Bool) (code : Nat) {a : Nat} (ha : psramTile 300 + 65532 ≤ a) :
    Memory.byteOr 0 (Memory.store 0 (armedPlan waits).mem (psramTile 300) (planTile (armedReq waits) code)) a =
      Memory.byteOr 0 (armedPlan waits).mem a := by
  have hLength := armedTile_length waits code
  by_cases hIn : a < psramTile 300 + 65536
  · obtain ⟨k, rfl⟩ := Nat.exists_eq_add_of_le ha
    have hZero : Memory.byteOr 0 (armedPlan waits).mem (psramTile 300 + 65532 + k) = 0 := by
      have hk : k < 4 := by omega
      clear hLength hIn
      interval_cases k <;> cases waits <;> decide +kernel
    rw [hZero, Nat.add_assoc, Memory.byteOr_store_same _ _ _ _ (by omega)]
    have hEnd := armedTile_end waits code (i := 65532 + k) (by omega)
    rwa [List.getD_eq_getElem?_getD, List.getElem?_eq_getElem (by omega)] at hEnd
  · exact Memory.byteOr_store_other _ _ _ _ (.inr (by omega))

/-! ## The second page -/

/-- Which tiles are served does not turn on memory's bytes or on faults. -/
theorem served_written (s : State) (mem : List Host.Cell) (flips : Sparse (BitVec 72)) (faults : FaultLog) (pa : Nat) :
    { s with mem, flips, faults }.gone pa = s.gone pa ∧ { s with mem, flips, faults }.flashLost pa = s.flashLost pa ∧
      { s with mem, flips, faults }.lostTile pa = s.lostTile pa ∧ { s with mem, flips, faults }.backed pa = s.backed pa ∧
      ∀ v write, { s with mem, flips, faults }.tagOutcome v pa write = s.tagOutcome v pa write :=
  ⟨rfl, rfl, rfl, rfl, fun _ _ => rfl⟩

/-- A write through a leaf whose bit 4 is set parks where PSRAM would take it (Table 9.3). -/
theorem leafOutcome_moving {s : State} {v : Via} {va leaf pa : Nat} (hPa : tilePa leaf + va % 65536 = pa) (hPsram : regionAt pa = some .psram)
    (hBacked : s.backed pa = true) (hGone : s.gone pa = false) (hTag : s.tagOutcome v pa true = .go)
    (hWrite : flag (BitVec.ofNat 64 leaf) 1 = true) (hPin : flag (BitVec.ofNat 64 leaf) 2 = false)
    (hMoving : flag (BitVec.ofNat 64 leaf) 4 = true) : s.leafOutcome v va leaf true = .park := by
  simp [State.leafOutcome, hPa, hPsram, hBacked, hGone, hTag, hWrite, hPin, hMoving]

/-- The device once the tile has been written. -/
def armedWritten (waits : Bool) (code : Nat) : State :=
  { armedPlan waits with
    mem := Memory.store 0 (armedPlan waits).mem (psramTile 300) (planTile (armedReq waits) code)
    flips := [(psramTile 300 + 65532, Ecc.encode movingBit)]
    faults := { (armedPlan waits).faults with inject := none } }

theorem served_armedWritten (waits : Bool) (code pa : Nat) : (armedWritten waits code).gone pa = (armedPlan waits).gone pa ∧
    (armedWritten waits code).flashLost pa = (armedPlan waits).flashLost pa ∧
    (armedWritten waits code).lostTile pa = (armedPlan waits).lostTile pa ∧
    (armedWritten waits code).backed pa = (armedPlan waits).backed pa ∧
    ∀ v write, (armedWritten waits code).tagOutcome v pa write = (armedPlan waits).tagOutcome v pa write :=
  served_written _ _ _ _ _

theorem peek_armedWritten (waits : Bool) (code : Nat) {a n : Nat} (ha : psramTile 300 + 65532 ≤ a) :
    (armedWritten waits code).peek a n = (armedPlan waits).peek a n := by
  have hWf : Memory.wfOr 0 (armedPlan waits).mem = true := by cases waits <;> decide +kernel
  simp only [State.peek, armedWritten]
  rw [Memory.load_eq (Memory.wfOr_store hWf _ _), Memory.load_eq hWf]
  exact List.map_congr_left fun i _ => byte_armedTile waits code (by omega)

/-- The leaf that a walk finds now: the same page, whose writes park. -/
def parkingLeaf : Nat := psramTile 502 + 3 + 16

theorem readEntry_armed (waits : Bool) (code : Nat) : (readEntry (psramTile 301)).Does (armedWritten waits code) fun r t =>
    r = (some parkingLeaf, none) ∧ t = armedWritten waits code := by
  have hBytes : natOf ((armedWritten waits code).peekInverted (psramTile 301) 8 (psramTile 300 + 65532) movingBit) = parkingLeaf := by
    simp only [State.peekInverted, State.peekNat, peek_armedWritten waits code (show psramTile 300 + 65532 ≤ psramTile 300 + 65532 by omega),
      peek_armedWritten waits code (show psramTile 300 + 65532 ≤ psramTile 301 by decide)]
    cases waits <;> decide +kernel
  obtain ⟨hGoneSame, hFlashSame, hLostSame, hBackedSame, -⟩ := served_armedWritten waits code (psramTile 301)
  have hServed : (armedPlan waits).gone (psramTile 301) = false ∧ (armedPlan waits).flashLost (psramTile 301) = false ∧
      (armedPlan waits).lostTile (psramTile 301) = false ∧ (armedPlan waits).backed (psramTile 301) = true := by
    cases waits <;> decide +kernel
  obtain ⟨hGone, hFlash, hLost, hBacked⟩ := hServed
  rw [← hGoneSame] at hGone
  rw [← hFlashSame] at hFlash
  rw [← hLostSame] at hLost
  rw [← hBackedSame] at hBacked
  have hPsram : regionAt (psramTile 301) = some .psram := by decide
  have hIn : (!(decide (regionAt (psramTile 301) = some .basin) ||
      decide (regionAt (psramTile 301) = some .psram) && (armedWritten waits code).backed (psramTile 301))) = false := by
    simp [hPsram, hBacked]
  refine Act.Does.get_bind (Act.Does.ite (fun h => absurd (h.symm.trans hIn) (by simp)) fun _ => ?_)
  refine Act.Does.bind (Q := fun r t => r = ((armedWritten waits code).peekInverted (psramTile 301) 8 (psramTile 300 + 65532) movingBit, none) ∧
    t = armedWritten waits code) ?_ ?_
  · have hThere : ((armedWritten waits code).gone (psramTile 301) || (armedWritten waits code).flashLost (psramTile 301)) = false :=
      Bool.or_eq_false_iff.mpr ⟨hGone, hFlash⟩
    refine Act.Does.bind (Q := fun r t => r = ((armedWritten waits code).peekInverted (psramTile 301) 8 (psramTile 300 + 65532) movingBit, none, false) ∧
      t = armedWritten waits code) (Act.Does.get_bind (Act.Does.ite (fun h => absurd (h.symm.trans hThere) (by simp)) fun _ =>
      (readPhys_codeword rfl (by decide)).bind ?_)) ?_
    · rintro _ t ⟨rfl, rfl⟩
      exact Act.Does.ite (fun h => absurd h (by simp [hLost])) fun _ => Act.Does.pure ⟨rfl, rfl⟩
    · rintro _ t ⟨rfl, rfl⟩
      exact Act.Does.pure ⟨rfl, rfl⟩
  · rintro _ t ⟨rfl, rfl⟩
    exact Act.Does.pure ⟨by rw [hBytes], rfl⟩

theorem walkLeaf_armed (waits : Bool) (code : Nat) : (walkLeaf 1 0x40).Does (armedWritten waits code) fun r t =>
    r = .leaf parkingLeaf (psramTile 301) ∧ t = armedWritten waits code := by
  unfold walkLeaf
  refine Act.Does.bind (Q := fun r t => r = .inl (psramTile 301) ∧ t = armedWritten waits code) (Act.Does.get_bind (Act.Does.pure ⟨rfl, rfl⟩)) ?_
  rintro _ t ⟨rfl, rfl⟩
  refine (readEntry_armed waits code).bind ?_
  rintro _ u ⟨rfl, rfl⟩
  have hOk : leafOk parkingLeaf = true := by decide
  have hPin : flag (BitVec.ofNat 64 parkingLeaf) 2 = false := by decide
  exact Act.Does.get_bind (Act.Does.ite (fun h => absurd h (by simp [hOk, hPin])) fun _ => Act.Does.pure ⟨rfl, rfl⟩)

theorem wouldPark_armed (waits : Bool) (code : Nat) : (wouldPark (planVia 1) 0x40 true).Does (armedWritten waits code) fun r t =>
    r = true ∧ t = armedWritten waits code := by
  refine Act.Does.get_bind ?_
  rw [State.flatVa_of_views rfl]
  refine Act.Does.ite (fun h => absurd h (by decide)) fun _ => (walkLeaf_armed waits code).bind ?_
  rintro _ t ⟨rfl, rfl⟩
  refine Act.Does.get_bind (Act.Does.pure ⟨decide_eq_true ?_, rfl⟩)
  obtain ⟨hGone, -, -, hBacked, hTag⟩ := served_armedWritten waits code (psramTile 502 + 0x40)
  have hServed : (armedPlan waits).backed (psramTile 502 + 0x40) = true ∧ (armedPlan waits).gone (psramTile 502 + 0x40) = false ∧
      (armedPlan waits).tagOutcome (planVia 1) (psramTile 502 + 0x40) true = .go := by
    cases waits <;> decide +kernel
  rw [← hGone, ← hBacked, ← hTag] at hServed
  obtain ⟨hBacked, hGone, hTag⟩ := hServed
  exact leafOutcome_moving (by decide) (by decide) hBacked hGone hTag (by decide) (by decide) (by decide)

theorem reachesPa_armed (waits : Bool) (code : Nat) : (reachesPa (planVia 1) 0x40 true).Does (armedWritten waits code) fun _ t =>
    t = armedWritten waits code := by
  refine Act.Does.get_bind ?_
  rw [State.flatVa_of_views rfl]
  refine Act.Does.ite (fun h => absurd h (by decide)) fun _ => (walkLeaf_armed waits code).bind ?_
  rintro _ t ⟨rfl, rfl⟩
  exact Act.Does.pure rfl

theorem rangeWaits_armed (waits : Bool) (code : Nat) : (rangeWaits (planVia 1) 0x40 64 true).Does (armedWritten waits code) fun r t =>
    r = true ∧ t = armedWritten waits code := by
  refine Act.Does.get_bind ?_
  refine Act.Does.bind (Q := fun r t => r = true ∧ t = armedWritten waits code) ?_ ?_
  · change (forIn [0] _ _ : Act Bool).Does _ _
    rw [List.forIn_cons]
    refine Act.Does.bind (Q := fun r t => r = .yield true ∧ t = armedWritten waits code) ((wouldPark_armed waits code).bind ?_) ?_
    · rintro _ t ⟨rfl, rfl⟩
      refine (reachesPa_armed waits code).bind ?_
      rintro r u rfl
      exact Act.Does.pure ⟨rfl, rfl⟩
    · rintro _ t ⟨rfl, rfl⟩
      exact Act.Does.pure ⟨rfl, rfl⟩
  · rintro _ t ⟨rfl, rfl⟩
    exact Act.Does.pure ⟨rfl, rfl⟩

end Sys2Proof.Machine

/-!
PROOF. PLAN_DEADLINE of the request whose record's page parks: it waits, and stays with PLAN (R330, R331).
-/
namespace Sys2Proof.Machine

/-! ## What ends a request leaves the parked accesses -/

/-- The accesses of the work in hand that park. -/
def State.parkedNow (s : State) : List (Nat × Nat × Nat × Bool) := s.plan.parked

theorem frames_parked_modPlan {f : Plan → Plan} (h : ∀ p, (f p).parked = p.parked) : (Act.modPlan f).Frames State.parkedNow :=
  fun s => Act.Does.get_bind (Act.Does.make (h s.plan))

theorem frames_parked_modPlan_bind {α : Type} {f : Plan → Plan} {g : Unit → Act α} (h : ∀ p, (f p).parked = p.parked)
    (hg : (g ()).Frames State.parkedNow) : (Act.modPlan f >>= g).Frames State.parkedNow := (frames_parked_modPlan h).bind fun _ => hg

theorem frames_parked_of_writes {l : List Fld} {α : Type} {x : Act α} (h : x.Writes l) (hl : Fld.plan ∉ l) : x.Frames State.parkedNow :=
  frames_of_writes h fun _ _ ht => congrArg Plan.parked (ht .plan hl)

theorem frames_parked_regField (r : Reg) (i hi lo v : Nat) : (Act.regField r i hi lo v).Frames State.parkedNow :=
  frames_parked_of_writes (l := [.regs]) (by simp) (by decide)

theorem frames_parked_openNow : openNow.Frames State.parkedNow := Act.Frames.get.bind fun _ => frames_parked_modPlan fun _ => rfl

theorem frames_parked_releaseEpochs : releaseEpochs.Frames State.parkedNow := by
  refine Act.Frames.get.bind fun s => ?_
  dsimp only
  refine frames_parked_modPlan_bind (fun _ => rfl) <| ?_
  cases s.plan.openWaiting with
  | none => exact Act.Frames.pure _
  | some who =>
    exact Act.Frames.ite (frames_parked_modPlan_bind (fun _ => rfl) <| frames_parked_openNow.bind fun _ => frames_parked_regField _ _ _ _ _)
      (Act.Frames.pure _)

theorem frames_parked_dropHold (n : Nat) : (dropHold n).Frames State.parkedNow :=
  frames_parked_modPlan_bind (fun _ => rfl) frames_parked_releaseEpochs

theorem frames_parked_leavePlan (r : PlanReq) (f : Failure) (detail aux : Nat) : (leavePlan r f detail aux).Frames State.parkedNow := by
  refine (frames_parked_of_writes (writes_failureRecord _ _ _ _ _) (by decide)).bind fun _ => Act.Frames.get.bind fun s => ?_
  refine (frames_parked_of_writes (writes_complete _ _ (List.Subset.refl _)) (by decide)).bind fun _ => ?_
  refine frames_parked_modPlan_bind (fun _ => rfl) <| ?_
  refine (frames_parked_dropHold _).bind fun _ => ?_
  cases r.watch with
  | none => exact frames_parked_regField _ _ _ _ _
  | some _ => exact frames_parked_modPlan_bind (fun _ => rfl) <| frames_parked_regField _ _ _ _ _

/-! ## The result is tried -/

theorem armedReq_tile (waits : Bool) : daddr (armedReq waits).desc 0x78 = 0x4_0000 := by cases waits <;> decide +kernel

theorem armedReq_record (waits : Bool) : daddr (armedReq waits).desc 0x80 = 0x40 := by cases waits <;> decide +kernel

theorem planRecord_length (r : PlanReq) (code : Nat) : (planRecord r code).length = 64 := by simp [planRecord]

theorem planWrite_tile (waits : Bool) (code : Nat) : (planWrite 1 0x4_0000 (planTile (armedReq waits) code)).Does (armedPlan waits) fun _ t =>
    t = armedWritten waits code := by
  have hLength := armedTile_length waits code
  have hIn : psramTile 300 + 65532 < psramTile 300 + 65536 ∧ psramTile 300 < psramTile 300 + 65532 + 8 := by omega
  have hWrite : (writePhys (psramTile 300) (planTile (armedReq waits) code)).Does (armedPlan waits) fun _ t => t = armedWritten waits code :=
    writePhys_arms rfl rfl (by decide +kernel) (by rwa [hLength])
  exact planWrite_does (armedPlan_passes_tile waits) (by omega) (by omega) rfl (by decide) hWrite

theorem planWrite_record (waits : Bool) (code : Nat) : (planWrite 1 0x40 (planRecord (armedReq waits) code)).Does (armedWritten waits code)
    fun _ t => t.plan.trouble = none ∧ t.plan.parked = [(1, 0x40, 64, true)] := by
  refine Act.Does.get_bind (Act.Does.ite (fun _ => ?_) fun h => absurd rfl h)
  rw [planRecord_length]
  refine (rangeWaits_armed waits code).bind ?_
  rintro _ t ⟨rfl, rfl⟩
  exact Act.Does.ite (fun _ => Act.Does.modPlan_bind (Act.Does.pure ⟨rfl, rfl⟩)) fun h => absurd rfl h

/-- The record parks, whatever the tile's bytes are. -/
theorem writeResult_parks (waits : Bool) (code : Nat) : (writeResult (armedReq waits) code).Does (armedPlan waits) fun _ t =>
    t.plan.parked = [(1, 0x40, 64, true)] := by
  unfold writeResult
  rw [armedReq_tile, armedReq_record]
  refine (planWrite_tile waits code).bind ?_
  rintro _ t rfl
  refine (planWrite_record waits code).bind fun _ t ht => ?_
  obtain ⟨hTrouble, hParked⟩ := ht
  refine Act.Does.get_bind (Act.Does.modPlan_bind (Act.Does.pure_bind ?_))
  rw [hTrouble]
  exact (frames_parked_leavePlan _ _ _ _ _).mono fun _ _ hu => hu.trans hParked

end Sys2Proof.Machine

/-!
PROOF. PLAN_DEADLINE of a request whose record's page parks: it waits, and stays with PLAN (R330, R331).
-/
namespace Sys2Proof.Machine

theorem keepPlan_armed : (keepPlan (armedReq true)).Does (armedPlan false) fun _ t => t = armedPlan true :=
  Act.Does.get_bind (Act.Does.make rfl)

/-- The page of the record is brought in for nothing, and the request waits. -/
theorem finishPlan_armed : (finishPlan (armedReq false) Code.bestEffort).Does (armedPlan false) fun _ t => t = armedPlan true := by
  refine Act.Does.get_bind ?_
  have hParked := (writeResult_parks false Code.bestEffort).after
  simp only [hParked, List.isEmpty_cons, Bool.false_eq_true, if_false]
  refine Act.Does.after_idle ?_ keepPlan_armed
  refine (Act.Does.idleLoop _ fun c hc => ?_).mono fun _ _ h => h.2
  obtain rfl := List.mem_singleton.mp hc
  refine Act.Does.after_idle ?_ (Act.Does.pure ⟨rfl, rfl⟩)
  refine (Act.Does.idleLoop _ fun i hi => ?_).mono fun _ _ h => h.2
  obtain rfl : i = 0 := List.mem_singleton.mp hi
  refine (translate_write (armedPlan_passes_record false).1).bind ?_
  rintro _ t ⟨rfl, rfl⟩
  exact Act.Does.pure ⟨rfl, rfl⟩

theorem planDeadline_armed : planDeadline.Does (armedPlan false) fun _ t => t = armedPlan true := by
  refine Act.Does.get_bind ?_
  have hNext : (armedPlan false).nextDeadline = some (armedReq false) := by decide +kernel
  rw [hNext]
  refine Act.Does.after_idle (Act.Does.get_bind (Act.Does.ite (fun h => absurd h (by decide +kernel)) fun _ => Act.Does.pure rfl)) ?_
  exact Act.Does.ite (fun _ => finishPlan_armed) fun h => absurd rfl h

/-! ## What waits goes on waiting -/

/-- Work of PLAN that parks still waits for its pages. -/
theorem ifResident_parks {s : State} {work : Act Unit} (h : (work.after s).plan.parked.isEmpty = false) :
    (ifResident work).Does s fun _ t => t = s :=
  Act.Does.get_bind (Act.Does.ite (fun hNone => absurd (hNone.symm.trans h) (by simp)) fun _ => Act.Does.pure rfl)

theorem settlePlans_armed : settlePlans.Does (armedPlan true) fun _ t => t = armedPlan true := by
  have hOrder : (armedPlan true).planOrder = [armedReq true] := by decide +kernel
  refine Act.Does.idle (Act.Does.idleLoop _ fun r hr => ?_)
  rw [hOrder] at hr
  obtain rfl := List.mem_singleton.mp hr
  have hNext : planNext (armedReq true) = some (writeResult (armedReq true) Code.bestEffort) := rfl
  have hWaiting : (armedReq true).waiting = true := rfl
  simp only [hNext, hWaiting, if_true]
  refine Act.Does.after_idle (ifResident_parks ?_) (Act.Does.pure ⟨rfl, rfl⟩)
  rw [(writeResult_parks true Code.bestEffort).after]
  rfl

theorem settleKernels_armed : settleKernels.Does (armedPlan true) fun _ t => t = armedPlan true := by
  refine Act.Does.idle (Act.Does.idleLoop _ fun c hc => ?_)
  have hNone : c.2.kern = none := by
    obtain rfl | rfl := List.mem_pair.mp hc <;> rfl
  simp only [hNone]
  exact Act.Does.pure_bind (Act.Does.pure ⟨rfl, rfl⟩)

theorem settleEpochs_armed : settleEpochs.Does (armedPlan true) fun _ t => t = armedPlan true := by
  refine Act.Does.get_bind ((Act.Does.emptyLoop rfl).bind ?_)
  rintro _ t ⟨-, rfl⟩
  exact (Act.Does.emptyLoop rfl).mono fun _ _ h => h.2

theorem planDeadline_parks : (armedPlan false).does .planDeadline fun t => t = armedPlan true := by
  have hOnTime : (armedPlan false).onTime = true := by decide +kernel
  refine State.does_of rfl (Act.Does.after_idle (expireWaits_idle hOnTime) (Act.Does.after_idle (expireBarges_idle hOnTime) ?_))
  refine planDeadline_armed.bind ?_
  rintro _ t rfl
  refine Act.Does.after_idle (Act.Does.idle (Act.Does.emptyLoop rfl)) (Act.Does.after_idle (Act.Does.idle (Act.Does.emptyLoop rfl)) ?_)
  refine Act.Does.after_idle (Act.Does.idle (Act.Does.emptyLoop rfl)) (Act.Does.after_idle (Act.Does.idle (Act.Does.emptyLoop rfl)) ?_)
  refine (Act.Does.idleLoop _ fun _ _ => ?_).mono fun _ _ h => h.2
  refine Act.Does.after_idle (Act.Does.idle (Act.Does.emptyLoop rfl)) (Act.Does.after_idle settleKernels_armed ?_)
  refine Act.Does.after_idle settleEpochs_armed (Act.Does.after_idle (Act.Does.idle (Act.Does.emptyLoop rfl)) ?_)
  exact Act.Does.after_idle settlePlans_armed (Act.Does.pure ⟨rfl, rfl⟩)

end Sys2Proof.Machine

/-!
PROOF. PLAN_DEADLINE does not always end the request (R216, R330, R331, R470).
-/
namespace Sys2Proof.Machine

/-- Refutes O37: the entry of the record's page stands right behind the trajectory tile, and an injection is armed in the word that ends in
its first bytes. Its inverted bits are a codeword that sets the bit of a leaf whose writes park. The tile's write makes them take effect, so
the record's page parks, and the request waits for it and stays with PLAN. -/
theorem not_planRequestsEnd : ¬ Obligations.PlanRequestsEnd := by
  intro h
  have hCalm : (armedPlan false).calm = true := by decide +kernel
  have hEnd := (h (armedPlan false) hCalm).2 (armedReq false) (psramTile 300) (psramTile 502 + 0x40) (psramTile 301 + 32) (psramTile 301)
    (List.mem_singleton.mpr rfl) rfl (fun q hq hNe => absurd (List.mem_singleton.mp hq) hNe) (by decide +kernel) (by decide +kernel)
    (armedReq_tile false ▸ armedPlan_passes_tile false) (armedReq_record false ▸ armedPlan_passes_record false) (by decide) (by decide)
    (by decide) (by decide) (by unfold apart; decide +kernel) (by unfold apart; decide +kernel)
    (fun pa hPa => absurd ((by decide +kernel : _ = none).symm.trans hPa) (by simp))
  obtain ⟨t, hRun, -, -, hGone, -, -⟩ := hEnd
  obtain ⟨u, hRun', rfl⟩ := planDeadline_parks
  obtain rfl : t = armedPlan true := by injection hRun.symm.trans hRun'
  exact hGone (armedReq true) (List.mem_singleton.mpr rfl) rfl

end Sys2Proof.Machine
